-- ==== Sys2Proof/Word.lean ====
section
/-! DEFINITION. The words of the Dravvin DV9: bytes, 32-bit instruction and register words, 64-bit scalar words and masks (R170, R228). -/

namespace Sys2Proof

/-- One byte of memory. -/
abbrev Byte := BitVec 8

/-- One lane of a vector register, and one instruction word (R170, R228). -/
abbrev Word := BitVec 32

/-- A scalar register, a lane mask, or a device register (R170). -/
abbrev DWord := BitVec 64

end Sys2Proof
end

