-- ==== Sys2Proof/Syntax.lean ====
section
/-! DEFINITION. The instructions of the Dravvin DV9: one constructor for every row of the opcode table. Rows that
are instructions carry the fields of their words (R228 to R231), unread; rows that are steps of the device carry
the names of what the step acts on. -/

namespace Sys2Proof

/-- S form, Table 10-3, without OP and L. -/
structure ShortOps where
  cc : BitVec 2
  st : BitVec 2
  b : BitVec 7
  a : BitVec 7
  d : BitVec 7
  deriving DecidableEq, Repr

/-- I form, Table 10-4, without OP and L. -/
structure ImmOps where
  cc : BitVec 2
  st : BitVec 2
  imm : BitVec 7
  a : BitVec 7
  d : BitVec 7
  deriving DecidableEq, Repr

/-- Word 1 of a SCALAR, VINT, VFP or AFF long instruction: layout LR (Table 10-6) or LI, as bit X says. -/
inductive Word1 where
  | lr (resv : BitVec 2) (mod : BitVec 6) (fs rm : BitVec 3) (c b : BitVec 9)
  | li (imm : BitVec 32)
  deriving DecidableEq, Repr

/-- Long form of the classes SCALAR, VINT, VFP and AFF (Tables 10-5 and 10-6). -/
structure LongOps where
  cc : BitVec 2
  st : BitVec 4
  a : BitVec 9
  d : BitVec 9
  w1 : Word1
  deriving DecidableEq, Repr

/-- MEM class, layout LM (Tables 10-5 and 10-7, R231). -/
structure MemOps where
  cc : BitVec 2
  ty : BitVec 4
  a : BitVec 9
  d : BitVec 9
  imm : BitVec 11
  hint : BitVec 2
  ord : BitVec 2
  scope : BitVec 3
  sb : BitVec 3
  scl : BitVec 2
  b : BitVec 9
  deriving DecidableEq, Repr

/-- MAT class, layout LX (Table 10-9). -/
structure MatOps where
  cc : BitVec 2
  st : BitVec 4
  a : BitVec 9
  d : BitVec 9
  resv : BitVec 2
  sb : BitVec 3
  fsb : BitVec 3
  fsa : BitVec 3
  rm : BitVec 3
  c : BitVec 9
  b : BitVec 9
  deriving DecidableEq, Repr

/-- SYNC class, layout LS (Table 10-8). -/
structure SyncOps where
  cc : BitVec 2
  st : BitVec 4
  a : BitVec 9
  d : BitVec 9
  resv1 : BitVec 1
  id : BitVec 12
  ord : BitVec 2
  scope : BitVec 3
  sb : BitVec 3
  resv2 : BitVec 2
  b : BitVec 9
  deriving DecidableEq, Repr

/-- CTRL class, layout LC (Table 10-10). -/
structure CtlOps where
  cc : BitVec 2
  st : BitVec 4
  a : BitVec 9
  d : BitVec 9
  resv : BitVec 8
  mod : BitVec 6
  c : BitVec 9
  b : BitVec 9
  deriving DecidableEq, Repr

/-- CTRL class, layout LB (Table 10-10): BRA, BRC, BRGP and CALL. -/
structure BrOps where
  cc : BitVec 2
  st : BitVec 4
  a : BitVec 9
  d : BitVec 9
  mod : BitVec 6
  off : BitVec 26
  deriving DecidableEq, Repr

/-- What a scrub read or a fill finds in a sector (R7, R9, R10). -/
inductive EccFinding where
  | clean
  | corrected
  | uncorrectable
  deriving DecidableEq, Repr

/-- An inbound peer access (R435). -/
inductive PeerKind where
  | read
  | write
  | fetchAdd
  | swap
  | cas
  deriving DecidableEq, Repr

/-- One constructor for each row of the opcode table. -/
inductive Instr where
  /-- MODULE_RESET (R437). At module reset the boot ROM verifies every firmware image, and firmware loads the bad-frame list before any launch is admitted. -/
  | moduleReset
  /-- DIE_RESET (R67). A compute die enters reset; it counts as having acknowledged any pending shootdown, and its unperformed accesses are lost and reported. -/
  | dieReset (d : Nat)
  /-- PATROL_SCRUB_READ (R7). The patrol scrubber reads a sector; it writes back a correctable error corrected, or marks an uncorrectable sector poisoned and reports it. -/
  | patrolScrubRead (sector : Nat) (found : EccFinding)
  /-- FRAME_SUSPECT_REPORT (R10). A frame's corrected-error count reaches CETHR; the device issues a frame-suspect report and restarts the count. -/
  | frameSuspectReport (frame : Nat)
  /-- ARS_WRITE (R14). A write to an address-range entry is ignored when LOCK is set, or discarded with DROP set while a commit is BUSY. -/
  | arsWrite (n w : Nat) (v : BitVec 64)
  /-- ARS_COMMIT (R15). A write of 1 to ARSCTL.COMMIT checks every valid entry, fails with ERR and ERRENT, or starts cleaning the lines whose home changes. -/
  | arsCommit (v : BitVec 64)
  /-- ARS_COMMIT_SWITCH (R15). Once cleaning is done, all requesters switch to the new table at once, DONE is set, and the waiting accesses proceed. -/
  | arsCommitSwitch
  /-- RETIRE (R21). Management command RETIRE appends a frame to the bad-frame list after its shootdown or migration, with status APPENDED, ALREADY or FULL. -/
  | retire
  /-- MIGRATE (R70). Management command MIGRATE writes an FRMAP entry with HOLD set, shoots down, cleans and copies frame F to G, or fails with a status. -/
  | migrate
  /-- MIGRATE_HOLD_CLEAR (R70). When the copy of F to G finishes, HOLD clears and the accesses waiting on F proceed to G. -/
  | migrateHoldClear (n : Nat)
  /-- CLEARBAD (R23). Management command CLEARBAD empties the bad-frame list in the Development state and is refused otherwise. -/
  | clearbad
  /-- ATTEST (R438). Management command ATTEST writes a report signed by the device identity key over a given nonce. -/
  | attest
  /-- DEBUGTOKEN (R452). Management command DEBUGTOKEN verifies a signed debug token and enters Trace or Halt, or refuses the token and reports it. -/
  | debugtoken
  /-- READBAD (R450). Management command READBAD writes the bad-frame list entries to a host buffer in append order. -/
  | readbad
  /-- MGMT_UNKNOWN_COMMAND (R449). A write of an undefined code to MGMTCMD completes with status UNKNOWN and changes no state. -/
  | mgmtUnknownCommand (op : BitVec 8)
  /-- MGMTARG_WRITE (R449). A write to an argument register is discarded with DROP set while a command is BUSY. -/
  | mgmtargWrite (k : Nat) (v : BitVec 64)
  /-- ZR_VALIDATE (R26). Writing word 0 of a Z-region entry with V = 1 runs the validation checks, then sets V or records ERR. -/
  | zrValidate (asid n : Nat) (v : BitVec 64)
  /-- ZR_RETIRE (R27). Writing word 0 with V = 0 starts retirement: ERR reads 15 and the region's modified blocks are encoded. -/
  | zrRetire (asid n : Nat) (v : BitVec 64)
  /-- ZR_RETIRE_DONE (R27). Once encodes and drops finish, V and ERR become 0, and the waiting view accesses are translated as ordinary addresses. -/
  | zrRetireDone (asid n : Nat)
  /-- BLOCK_VIEW_ACCESS (R46). A view load, store or atomic reaches a block at its home slice and is served, performed or queued under the block lock. -/
  | blockViewAccess (f op lane : Nat)
  /-- BLOCK_DECODE_DONE (R46). A block's decode completes in FILL; the waiting list is served in order, and the block becomes CLEAN or DIRTY, poisoned if a code sector was poisoned. -/
  | blockDecodeDone (asid zr blk : Nat)
  /-- BLOCK_EVICT_CHOSEN (R46). The slice chooses a block for eviction: a CLEAN block is dropped, and a DIRTY block goes to ENCODE. -/
  | blockEvictChosen (asid zr blk : Nat)
  /-- ENCODE (R47). The slice encodes a block and writes its code lines at their homes, one step per line. -/
  | encode (asid zr blk : Nat)
  /-- PERFORM_READ (R143). One lane's read takes its value from the write queue, a view, a peer, the home or the system point. -/
  | performRead (f op lane : Nat)
  /-- PERFORM_WRITE (R142). One lane's write enters the flight's write queue. -/
  | performWrite (f op lane : Nat)
  /-- DRAIN (R144). A write leaves the write queue and is applied at the views, enters the transit set, or is applied at its allocation. -/
  | drain (f w : Nat)
  /-- DELIVER (R144). A write in a transit set is applied at its home or system point, with the owner-tag check for window stores. -/
  | deliver (d w : Nat)
  /-- EVICT (R142). A line becomes absent from a core view or a far-line copy. -/
  | evict (far : Bool) (unit line : Nat)
  /-- L2_EVICT (R81). A slice evicts a way and writes back only its dirty sectors. -/
  | l2Evict (line : Nat)
  /-- L2_FILL_ARRIVE (R82). A fill arrives at a slice, which performs the line's waiting list in arrival order. -/
  | l2FillArrive (line : Nat)
  /-- ATOMIC_STEP (R155). One lane's atomic reads and writes its operand in one step at the home, system point or allocation. -/
  | atomicStep (f op lane : Nat)
  /-- TILE_STEP (R160). A tile load or store locks its footprint in ascending order, then reads or writes it whole and unlocks. -/
  | tileStep (f op : Nat)
  /-- OWN (R156). The engine agent takes one destination line at its home and discards it from the issuing core's view and the die's far-line copy. -/
  | own (c line : Nat)
  /-- WRITE_LINE (R156). The engine applies the command's bytes of one owned line at its home. -/
  | writeLine (c line : Nat)
  /-- RELEASE_LINE (R131). The engine releases a finished line, and the accesses waiting in recall proceed. -/
  | releaseLine (c line : Nat)
  /-- PEER_PROBE (R84). A probed peer serves a read from its read-only L1 copy or forwards it to the home slice. -/
  | peerProbe (f op lane : Nat)
  /-- WALK_COMPLETE (R61). A walk completes and its result, fault included, goes to every merged requester. -/
  | walkComplete (d asid frame : Nat)
  /-- TLBI_VA_RANGE (R64). GO with KIND 0 shoots down the leaves and pointer entries of a VA range of one ASID on every compute die. -/
  | tlbiVaRange (v : BitVec 64)
  /-- TLBI_ASID (R64). GO with KIND 1 shoots down every entry of one ASID. -/
  | tlbiAsid (v : BitVec 64)
  /-- TLBI_ALL (R64). GO with KIND 2 shoots down every entry of every ASID. -/
  | tlbiAll (v : BitVec 64)
  /-- TLBI_PA_RANGE (R64). GO with KIND 3 shoots down every leaf and table entry that overlaps a PA range. -/
  | tlbiPaRange (v : BitVec 64)
  /-- TLBIADDR_WRITE (R64). A write to TLBIADDR while BUSY is 1 is discarded and sets DROP. -/
  | tlbiaddrWrite (v : BitVec 64)
  /-- TLBI_DIE_ACK (R65). A compute die acknowledges a shootdown once its conditions hold; DONE is set when DIESPEND reaches zero. -/
  | tlbiDieAck (d : Nat)
  /-- FRMAP_WRITE (R71). Software writes V = 0 to an FRMAP entry while HOLD is 0, ending the remapping. -/
  | frmapWrite (n : Nat) (v : BitVec 64)
  /-- FLCFG_WRITE (R86). A write to FLCFG starts a change of far-line ways and sets BUSY, or is discarded with DROP set. -/
  | flcfgWrite (d : Nat) (v : BitVec 64)
  /-- FLCFG_CHANGE_DONE (R86). The slices finish cleaning and dropping the ways being changed, and BUSY clears. -/
  | flcfgChangeDone (d : Nat)
  /-- TBCFG_WRITE (R90). A write to a tenant's bucket configuration takes effect at the next refill, and the count starts at DEPTH when EN is set. -/
  | tbcfgWrite (d n : Nat) (v : BitVec 64)
  /-- BUCKET_REFILL (R90). Every 64 mesh cycles each bucket count gains RATE up to DEPTH, and parked flights return in order. -/
  | bucketRefill
  /-- COPY_TAKE (R117). The engine takes a published entry from a ring in round-robin order and adds 1 to TAKEN. -/
  | copyTake (core : Nat)
  /-- COPY_BEGIN (R128). A command begins after its FNC or CHAIN waits, runs the rejection checks and translates its destination. -/
  | copyBegin (c : Nat)
  /-- COPY_SOURCE_READ (R132). The engine reads one source sector at its point of coherence, handling poison or a source fault. -/
  | copySourceRead (c sector : Nat)
  /-- COPY_CHUNK_SET (R137). Once every byte of a chunk is performed, the engine sets the chunk's bit with a release. -/
  | copyChunkSet (c i : Nat)
  /-- COPY_COMPLETE (R135). After every write is acknowledged, the command writes its status record, increments DONE and adds 1 to its semaphore. -/
  | copyComplete (c : Nat)
  /-- WORKGROUP_RELEASE (R119). A workgroup's local memory and semaphores are released once every command its ring published has completed. -/
  | workgroupRelease (w : Nat)
  /-- RESULT_LAND (R189). The value of a variable-latency operation is written, and its destination is no longer pending. -/
  | resultLand (f op : Nat)
  /-- RESIDUAL_ENTRY_RUN (R191). A residual-queue entry runs once its operands have landed; a trap in it discards the queue and restarts the region. -/
  | residualEntryRun (f i : Nat)
  /-- RESIDUAL_CAPACITY_TRAP (R195). An instruction refused for lack of queue or chain room raises trap 0x08 once the queue has emptied. -/
  | residualCapacityTrap (f : Nat)
  /-- MMA_READBACK (R337). An MMA's accumulator readback is written to its D registers, and its batch may complete. -/
  | mmaReadback (f op : Nat)
  /-- MATRIX_ARRAY_WAKE (R393). The die wakes one idle matrix array, at least W clocks after its last wake, and the waiting MMA issues. -/
  | matrixArrayWake (d : Nat)
  /-- MATRIX_ARRAY_IDLE (R393). After IDLE·16 clocks without an MMA, a partition's matrix array goes idle. -/
  | matrixArrayIdle (core part : Nat)
  /-- CLAUSE_HEADER_ISSUE (R224). A clause header is checked and fetched, waits for WSB, WLAND and an empty queue, and enters a region when RGN is set. -/
  | clauseHeaderIssue
  /-- QCFG_WRITE (R381). A write to QCFGq enables or disables the queue, and is ignored for invalid settings or while EN is set. -/
  | qcfgWrite (q : Nat) (v : BitVec 64)
  /-- QTAIL_WRITE (R384). A write of TAIL appends entries, or is discarded when it would overfill the ring, with ERRCHK 11. -/
  | qtailWrite (q : Nat) (tail : BitVec 32)
  /-- QOWN_WRITE (R431). A write of QOWNq.FUNC assigns the queue to a function, and is ignored while the queue is enabled. -/
  | qownWrite (q : Nat) (v : BitVec 64)
  /-- QUEUE_TAKE (R383). The command processor takes the next ring entry, copies its record, advances HEAD, or rejects the entry. -/
  | queueTake (q : Nat)
  /-- LAUNCH_ADMIT (R388). A processor admits the highest-priority admissible head launch, binds its dies and clusters, and writes its Z-regions. -/
  | launchAdmit (p : Nat)
  /-- WORKGROUP_PLACE (R389). The distributor places a pipeline tuple or the whole grid on cores as resources allow, and its flights start. -/
  | workgroupPlace (l : Nat) (cores : List Nat)
  /-- LAUNCH_COMPLETE (R387). After its writes drain, a launch acts on its edges, adds to their event counters, retires its Z-regions and advances QSTATq.DONE. -/
  | launchComplete (l : Nat)
  /-- LNCH_RECORD_COPY (R361). The command processor copies an LNCH record and writes the status to the pending s register. -/
  | lnchRecordCopy (f op : Nat)
  /-- FLIGHT_SWAP_IN (R391). A free place in the active set goes to the ready pending flight of highest priority, then longest ready. -/
  | flightSwapIn (core part : Nat)
  /-- FLIGHT_SWAP_OUT_TIMEOUT (R376). A flight that has issued no wait for 4,096 clocks is swapped out while a ready pending flight exists. -/
  | flightSwapOutTimeout (f : Nat)
  /-- PENDING_AGE_EXPIRY (R391). A flight ready in the pending set for 65,536 clocks goes ahead of every priority. -/
  | pendingAgeExpiry (f : Nat)
  /-- EVICTION_DECISION (R394). A higher-priority launch that cannot place a workgroup selects victim flights of lower priority for partial eviction. -/
  | evictionDecision (l core : Nat)
  /-- FLIGHT_EVICT (R395). A chosen flight leaves the core once its results and atomics are settled, and its state is compressed into its save slot. -/
  | flightEvict (f : Nat)
  /-- FLIGHT_RETURN (R397). An evicted flight is restored from its save slot onto a core of its cluster when resources free. -/
  | flightReturn (f core : Nat)
  /-- HANDLER_RUN_START (R400). A handler run starts on the trapping flight's trap bank once no other run of its workgroup or partition is in progress. -/
  | handlerRunStart (f : Nat)
  /-- DEFAULT_HANDLER_ACTION (R405). With no handler, firmware ends the launch or resumes the flight as Table 17-4 states, and reports the action. -/
  | defaultHandlerAction (f : Nat)
  /-- POISON_REFUSAL (R412). A refusal of an atomic without return or a tile store arrives, and trap 0x18 cause 2 is raised at the next instruction boundary. -/
  | poisonRefusal (f : Nat)
  /-- WATCHDOG_EXPIRY (R428). A flight parked in one wait for 2^PERIOD clocks raises trap 0x31. -/
  | watchdogExpiry (f : Nat)
  /-- DEBUG_STOP (R424). The debug port requests a stop of a flight. -/
  | debugStop (f : Nat)
  /-- DEBUG_STOP_COMPLETE (R424). The stop completes once the flight's queue is empty and its results have landed. -/
  | debugStopComplete (f : Nat)
  /-- DEBUG_READ (R425). The port reads state of a stopped flight through a selector. -/
  | debugRead (f : Nat) (sel : BitVec 64)
  /-- DEBUG_WRITE (R425). The port writes state of a stopped flight through a selector, under R181. -/
  | debugWrite (f : Nat) (sel v : BitVec 64)
  /-- DEBUG_RESUME (R425). The port resumes a stopped flight in one of the modes of TFRES. -/
  | debugResume (f mode : Nat) (pc : BitVec 64)
  /-- DEBUG_SET_STEP (R426). The port sets a flight's STEP bit, so each of its instructions raises trap 0x22. -/
  | debugSetStep (f : Nat) (on : Bool)
  /-- HDROP_WRITE (R427). Any write to a hint-drop counter clears it. -/
  | hdropWrite (q : Nat)
  /-- TBPARK_WRITE (R444). Any write to a tenant parking counter clears it. -/
  | tbparkWrite (d k n : Nat)
  /-- HOST_READ (R432). An inbound host read through a BAR is performed at the line's home after FRMAP remapping and earlier posted writes. -/
  | hostRead (fn barNo off n : Nat)
  /-- HOST_WRITE (R432). An inbound host write through a BAR is performed at the line's home at device scope. -/
  | hostWrite (fn barNo off : Nat) (bytes : List (BitVec 8))
  /-- ATS_INVALIDATION (R433). An ATS invalidation request is answered once the conditions of R65 hold for the named pages. -/
  | atsInvalidation (fn page count : Nat)
  /-- FLIT_RECEIVE (R434). A Talfen flit is received; a CRC failure makes the sender replay it. -/
  | flitReceive (port vc : Nat) (crcOk : Bool)
  /-- PEER_ACCESS (R435). An inbound peer access is checked against the port's access range and performed at its home, or completes with an error. -/
  | peerAccess (port : Nat) (kind : PeerKind) (pa : Nat) (bytes : List (BitVec 8))
  /-- LINK_DOWN (R435). A port goes down; its outstanding reads and atomics complete with an error and unacknowledged writes are lost and reported. -/
  | linkDown (port : Nat)
  /-- KEY_SLOT_LOAD (R439). The security processor loads a key slot for a tenant after every command using the slot has completed. -/
  | keySlotLoad (slot tenant : Nat) (key : BitVec 256)
  /-- TELEMETRY_SAMPLE (R443). Every 1 ms each die takes a sample, which is written to the telemetry ring or dropped. -/
  | telemetrySample (power : List Nat)
  /-- REPORT_WRITE (R447). The gallery die numbers a report and writes it to the report ring, holds it, or drops it, and signals MSI-X. -/
  | reportWrite
  /-- REPCFG_WRITE (R447). A write to REPCFG that sets EN writes out the reports held in the gallery die. -/
  | repcfgWrite (v : BitVec 64)
  /-- PWRCTL_SLEEP (R442). A sleep request cleans the tiers, places them in self-refresh, clears the key slots and stops telemetry, or is refused with ERR. -/
  | pwrctlSleep
  /-- PWRCTL_PARK (R442). A write of PARK requests dies parked or unparked; no launch binds a die from then on. -/
  | pwrctlPark (v : BitVec 64)
  /-- DIE_PARK (R442). A requested die is parked once no workgroup bound to it is resident. -/
  | diePark (d : Nat)
  /-- IDLE_ENTRY (R441). With nothing resident and nothing admissible for 2^(IDLEDLY+10) clocks, the module enters Idle. -/
  | idleEntry
  /-- MODULE_WAKE (R442). A host write to PF BAR0 wakes the module from Module-Sleep. -/
  | moduleWake
  /-- RECOVERY_GO (R446). A write of 1 to RCVGO verifies and runs the recovery image at RCVADDR. -/
  | recoveryGo
  /-- REGISTER_WRITE (R445). A write to a device register that has no behaviour of its own updates its writable fields. -/
  | registerWrite (off half : Nat) (v : BitVec 64)
  /-- SADD (R251). Scalar add modulo 2^64, short form. -/
  | sadd (o : ShortOps)
  /-- SADD_LONG (R251). Scalar add, long form. -/
  | saddLong (o : LongOps)
  /-- SSUB (R251). Scalar subtract, short form. -/
  | ssub (o : ShortOps)
  /-- SSUB_LONG (R251). Scalar subtract, long form. -/
  | ssubLong (o : LongOps)
  /-- SMUL (R251). Scalar multiply, short form. -/
  | smul (o : ShortOps)
  /-- SMUL_LONG (R251). Scalar multiply, long form. -/
  | smulLong (o : LongOps)
  /-- SMULH (R251). Scalar signed multiply high, short form. -/
  | smulh (o : ShortOps)
  /-- SMULH_LONG (R251). Scalar signed multiply high, long form. -/
  | smulhLong (o : LongOps)
  /-- SMULHN (R251). Scalar unsigned multiply high, short form. -/
  | smulhn (o : ShortOps)
  /-- SMULHN_LONG (R251). Scalar unsigned multiply high, long form. -/
  | smulhnLong (o : LongOps)
  /-- SDIV (R252). Scalar divide, short form. -/
  | sdiv (o : ShortOps)
  /-- SDIV_LONG (R252). Scalar divide, long form. -/
  | sdivLong (o : LongOps)
  /-- SREM (R252). Scalar remainder, short form. -/
  | srem (o : ShortOps)
  /-- SREM_LONG (R252). Scalar remainder, long form. -/
  | sremLong (o : LongOps)
  /-- SAND (R251). Scalar bitwise and, short form. -/
  | sand (o : ShortOps)
  /-- SAND_LONG (R251). Scalar bitwise and, long form. -/
  | sandLong (o : LongOps)
  /-- SOR (R251). Scalar bitwise or, short form. -/
  | sor (o : ShortOps)
  /-- SOR_LONG (R251). Scalar bitwise or, long form. -/
  | sorLong (o : LongOps)
  /-- SXOR (R251). Scalar bitwise xor, short form. -/
  | sxor (o : ShortOps)
  /-- SXOR_LONG (R251). Scalar bitwise xor, long form. -/
  | sxorLong (o : LongOps)
  /-- SSHL (R251). Scalar shift left, short form. -/
  | sshl (o : ShortOps)
  /-- SSHL_LONG (R251). Scalar shift left, long form. -/
  | sshlLong (o : LongOps)
  /-- SSHR (R251). Scalar logical shift right, short form. -/
  | sshr (o : ShortOps)
  /-- SSHR_LONG (R251). Scalar logical shift right, long form. -/
  | sshrLong (o : LongOps)
  /-- SSRA (R251). Scalar arithmetic shift right, short form. -/
  | ssra (o : ShortOps)
  /-- SSRA_LONG (R251). Scalar arithmetic shift right, long form. -/
  | ssraLong (o : LongOps)
  /-- SMIN (R251). Scalar signed minimum, short form. -/
  | smin (o : ShortOps)
  /-- SMIN_LONG (R251). Scalar signed minimum, long form. -/
  | sminLong (o : LongOps)
  /-- SMAX (R251). Scalar signed maximum, short form. -/
  | smax (o : ShortOps)
  /-- SMAX_LONG (R251). Scalar signed maximum, long form. -/
  | smaxLong (o : LongOps)
  /-- SMINN (R251). Scalar unsigned minimum, short form. -/
  | sminn (o : ShortOps)
  /-- SMINN_LONG (R251). Scalar unsigned minimum, long form. -/
  | sminnLong (o : LongOps)
  /-- SMAXN (R251). Scalar unsigned maximum, short form. -/
  | smaxn (o : ShortOps)
  /-- SMAXN_LONG (R251). Scalar unsigned maximum, long form. -/
  | smaxnLong (o : LongOps)
  /-- SCMP (R253). Scalar compare to a mask, short form. -/
  | scmp (o : ShortOps)
  /-- SCMP_LONG (R253). Scalar compare, long form. -/
  | scmpLong (o : LongOps)
  /-- SSEL (R254). Scalar select by C. -/
  | ssel (o : LongOps)
  /-- SMOV (R255). Scalar move, short form. -/
  | smov (o : ShortOps)
  /-- SMOV_LONG (R255). Scalar move, long form. -/
  | smovLong (o : LongOps)
  /-- SMOVI (R255). Scalar move of a signed immediate, I form. -/
  | smovi (o : ImmOps)
  /-- SMOVI_LONG (R255). Scalar move of a 32-bit immediate, LI form. -/
  | smoviLong (o : LongOps)
  /-- SMOVH (R255). Scalar move of an immediate into the upper half, I form. -/
  | smovh (o : ImmOps)
  /-- SMOVH_LONG (R255). Scalar move high, LI form. -/
  | smovhLong (o : LongOps)
  /-- SLDA (R258). Read a word of the launch record copy, I form. -/
  | slda (o : ImmOps)
  /-- SLDA_LONG (R258). Launch-record read, LI form. -/
  | sldaLong (o : LongOps)
  /-- SLD (R259). Scalar load from global memory. -/
  | sld (o : LongOps)
  /-- SST (R259). Scalar store to global memory. -/
  | sst (o : LongOps)
  /-- SRD (R261). Read a special register, I form. -/
  | srd (o : ImmOps)
  /-- SRD_LONG (R261). Read a special register, LI form. -/
  | srdLong (o : LongOps)
  /-- SWR (R262). Write RGNC or SYMNEXT, I form. -/
  | swr (o : ImmOps)
  /-- SWR_LONG (R262). Write a special register, LI form. -/
  | swrLong (o : LongOps)
  /-- SPOPC (R256). Scalar population count, short form. -/
  | spopc (o : ShortOps)
  /-- SPOPC_LONG (R256). Scalar population count, long form. -/
  | spopcLong (o : LongOps)
  /-- SCLZ (R256). Scalar leading-zero count, short form. -/
  | sclz (o : ShortOps)
  /-- SCLZ_LONG (R256). Scalar leading-zero count, long form. -/
  | sclzLong (o : LongOps)
  /-- SADDX (R257). Scalar add or subtract with carry. -/
  | saddx (o : LongOps)
  /-- VLANE2S (R263). Copy one lane's register to a scalar, short form. -/
  | vlane2s (o : ShortOps)
  /-- VLANE2S_LONG (R263). Lane to scalar, long form. -/
  | vlane2sLong (o : LongOps)
  /-- VADD (R264). Lane add, short form. -/
  | vadd (o : ShortOps)
  /-- VADD_LONG (R264). Lane add, long form. -/
  | vaddLong (o : LongOps)
  /-- VSUB (R264). Lane subtract, short form. -/
  | vsub (o : ShortOps)
  /-- VSUB_LONG (R264). Lane subtract, long form. -/
  | vsubLong (o : LongOps)
  /-- VMUL (R264). Lane multiply, short form. -/
  | vmul (o : ShortOps)
  /-- VMUL_LONG (R264). Lane multiply, long form. -/
  | vmulLong (o : LongOps)
  /-- VMULH (R264). Lane multiply high, short form. -/
  | vmulh (o : ShortOps)
  /-- VMULH_LONG (R264). Lane multiply high, long form. -/
  | vmulhLong (o : LongOps)
  /-- VMAD (R265). Lane multiply-add. -/
  | vmad (o : LongOps)
  /-- VAND (R264). Lane bitwise and, short form. -/
  | vand (o : ShortOps)
  /-- VAND_LONG (R264). Lane bitwise and, long form. -/
  | vandLong (o : LongOps)
  /-- VOR (R264). Lane bitwise or, short form. -/
  | vor (o : ShortOps)
  /-- VOR_LONG (R264). Lane bitwise or, long form. -/
  | vorLong (o : LongOps)
  /-- VXOR (R264). Lane bitwise xor, short form. -/
  | vxor (o : ShortOps)
  /-- VXOR_LONG (R264). Lane bitwise xor, long form. -/
  | vxorLong (o : LongOps)
  /-- VNOT (R264). Lane bitwise not, short form. -/
  | vnot (o : ShortOps)
  /-- VNOT_LONG (R264). Lane bitwise not, long form. -/
  | vnotLong (o : LongOps)
  /-- VSHL (R264). Lane shift left, short form. -/
  | vshl (o : ShortOps)
  /-- VSHL_LONG (R264). Lane shift left, long form. -/
  | vshlLong (o : LongOps)
  /-- VSHR (R264). Lane logical shift right, short form. -/
  | vshr (o : ShortOps)
  /-- VSHR_LONG (R264). Lane logical shift right, long form. -/
  | vshrLong (o : LongOps)
  /-- VSRA (R264). Lane arithmetic shift right, short form. -/
  | vsra (o : ShortOps)
  /-- VSRA_LONG (R264). Lane arithmetic shift right, long form. -/
  | vsraLong (o : LongOps)
  /-- VMIN (R264). Lane minimum, short form. -/
  | vmin (o : ShortOps)
  /-- VMIN_LONG (R264). Lane minimum, long form. -/
  | vminLong (o : LongOps)
  /-- VMAX (R264). Lane maximum, short form. -/
  | vmax (o : ShortOps)
  /-- VMAX_LONG (R264). Lane maximum, long form. -/
  | vmaxLong (o : LongOps)
  /-- VABS (R264). Lane absolute value, short form. -/
  | vabs (o : ShortOps)
  /-- VABS_LONG (R264). Lane absolute value, long form. -/
  | vabsLong (o : LongOps)
  /-- VCMP (R269). Lane compare into a predicate, short form. -/
  | vcmp (o : ShortOps)
  /-- VCMP_LONG (R269). Lane compare, long form. -/
  | vcmpLong (o : LongOps)
  /-- VSEL (R270). Lane select by predicate. -/
  | vsel (o : LongOps)
  /-- VMOV (R267). Lane move, short form. -/
  | vmov (o : ShortOps)
  /-- VMOV_LONG (R267). Lane move, long form. -/
  | vmovLong (o : LongOps)
  /-- VMOVI (R267). Lane move of a signed immediate, I form. -/
  | vmovi (o : ImmOps)
  /-- VMOVI_LONG (R267). Lane move immediate, LI form. -/
  | vmoviLong (o : LongOps)
  /-- VBCAST (R271). Broadcast one lane to all active lanes, short form. -/
  | vbcast (o : ShortOps)
  /-- VBCAST_LONG (R271). Broadcast, long form. -/
  | vbcastLong (o : LongOps)
  /-- VPOPC (R264). Lane population count, short form. -/
  | vpopc (o : ShortOps)
  /-- VPOPC_LONG (R264). Lane population count, long form. -/
  | vpopcLong (o : LongOps)
  /-- VCLZ (R264). Lane leading-zero count, short form. -/
  | vclz (o : ShortOps)
  /-- VCLZ_LONG (R264). Lane leading-zero count, long form. -/
  | vclzLong (o : LongOps)
  /-- VBFX (R268). Bit-field extract, short form. -/
  | vbfx (o : ShortOps)
  /-- VBFX_LONG (R268). Bit-field extract, long form. -/
  | vbfxLong (o : LongOps)
  /-- VBFI (R268). Bit-field insert. -/
  | vbfi (o : LongOps)
  /-- VSHFL (R272). Cross-lane gather shuffle, short form. -/
  | vshfl (o : ShortOps)
  /-- VSHFL_LONG (R272). Cross-lane shuffle, long form. -/
  | vshflLong (o : LongOps)
  /-- VVOTE (R274). Vote across lanes, short form. -/
  | vvote (o : ShortOps)
  /-- VVOTE_LONG (R274). Vote across lanes, long form. -/
  | vvoteLong (o : LongOps)
  /-- VRED (R275). Reduction over active lanes, short form. -/
  | vred (o : ShortOps)
  /-- VRED_LONG (R275). Reduction, long form. -/
  | vredLong (o : LongOps)
  /-- VSCAN (R275). Scan over active lanes, short form. -/
  | vscan (o : ShortOps)
  /-- VSCAN_LONG (R275). Scan, long form. -/
  | vscanLong (o : LongOps)
  /-- VADDC (R266). Lane add or subtract with carry predicate. -/
  | vaddc (o : LongOps)
  /-- VPERM (R273). Cross-lane scatter permute, short form. -/
  | vperm (o : ShortOps)
  /-- VPERM_LONG (R273). Cross-lane permute, long form. -/
  | vpermLong (o : LongOps)
  /-- PLOG (R276). Predicate logic by truth table, short form. -/
  | plog (o : ShortOps)
  /-- PLOG_LONG (R276). Predicate logic, long form. -/
  | plogLong (o : LongOps)
  /-- EXMSET (R277). Write the execution mask, short form. -/
  | exmset (o : ShortOps)
  /-- EXMSET_LONG (R277). Write the execution mask, long form. -/
  | exmsetLong (o : LongOps)
  /-- EXMRD (R278). Read the execution mask, short form. -/
  | exmrd (o : ShortOps)
  /-- EXMRD_LONG (R278). Read the execution mask, long form. -/
  | exmrdLong (o : LongOps)
  /-- XSET (R279). Load an index register, short form. -/
  | xset (o : ShortOps)
  /-- XSET_LONG (R279). Load an index register, long form. -/
  | xsetLong (o : LongOps)
  /-- XINC (R280). Step an index register's IDX, I form. -/
  | xinc (o : ImmOps)
  /-- XINC_LONG (R280). Step an index register, LI form. -/
  | xincLong (o : LongOps)
  /-- FADD (R285). Floating add, short form. -/
  | fadd (o : ShortOps)
  /-- FADD_LONG (R285). Floating add, long form. -/
  | faddLong (o : LongOps)
  /-- FSUB (R285). Floating subtract, short form. -/
  | fsub (o : ShortOps)
  /-- FSUB_LONG (R285). Floating subtract, long form. -/
  | fsubLong (o : LongOps)
  /-- FMUL (R285). Floating multiply, short form. -/
  | fmul (o : ShortOps)
  /-- FMUL_LONG (R285). Floating multiply, long form. -/
  | fmulLong (o : LongOps)
  /-- FFMA (R286). Fused multiply-add with one rounding. -/
  | ffma (o : LongOps)
  /-- FMIN (R285). Floating minimum, short form. -/
  | fmin (o : ShortOps)
  /-- FMIN_LONG (R285). Floating minimum, long form. -/
  | fminLong (o : LongOps)
  /-- FMAX (R285). Floating maximum, short form. -/
  | fmax (o : ShortOps)
  /-- FMAX_LONG (R285). Floating maximum, long form. -/
  | fmaxLong (o : LongOps)
  /-- FABS (R287). Floating absolute value, short form. -/
  | fabs (o : ShortOps)
  /-- FABS_LONG (R287). Floating absolute value, long form. -/
  | fabsLong (o : LongOps)
  /-- FNEG (R287). Floating negate, short form. -/
  | fneg (o : ShortOps)
  /-- FNEG_LONG (R287). Floating negate, long form. -/
  | fnegLong (o : LongOps)
  /-- FCMP (R289). Floating compare into a predicate, short form. -/
  | fcmp (o : ShortOps)
  /-- FCMP_LONG (R289). Floating compare, long form. -/
  | fcmpLong (o : LongOps)
  /-- FCLASS (R290). Classify a floating value, short form. -/
  | fclass (o : ShortOps)
  /-- FCLASS_LONG (R290). Classify, long form. -/
  | fclassLong (o : LongOps)
  /-- FRCP (R287). Floating reciprocal, short form. -/
  | frcp (o : ShortOps)
  /-- FRCP_LONG (R287). Floating reciprocal, long form. -/
  | frcpLong (o : LongOps)
  /-- FRSQ (R288). Reciprocal square root, short form. -/
  | frsq (o : ShortOps)
  /-- FRSQ_LONG (R288). Reciprocal square root, long form. -/
  | frsqLong (o : LongOps)
  /-- FSQRT (R287). Floating square root, short form. -/
  | fsqrt (o : ShortOps)
  /-- FSQRT_LONG (R287). Floating square root, long form. -/
  | fsqrtLong (o : LongOps)
  /-- FDIV (R285). Floating divide, short form. -/
  | fdiv (o : ShortOps)
  /-- FDIV_LONG (R285). Floating divide, long form. -/
  | fdivLong (o : LongOps)
  /-- FEXP2 (R288). Base-2 exponential, short form. -/
  | fexp2 (o : ShortOps)
  /-- FEXP2_LONG (R288). Base-2 exponential, long form. -/
  | fexp2Long (o : LongOps)
  /-- FLOG2 (R288). Base-2 logarithm, short form. -/
  | flog2 (o : ShortOps)
  /-- FLOG2_LONG (R288). Base-2 logarithm, long form. -/
  | flog2Long (o : LongOps)
  /-- FSINP (R288). Sine of pi times a, short form. -/
  | fsinp (o : ShortOps)
  /-- FSINP_LONG (R288). Sine of pi times a, long form. -/
  | fsinpLong (o : LongOps)
  /-- FCOSP (R288). Cosine of pi times a, short form. -/
  | fcosp (o : ShortOps)
  /-- FCOSP_LONG (R288). Cosine of pi times a, long form. -/
  | fcospLong (o : LongOps)
  /-- FRND (R287). Round to an integral value, short form. -/
  | frnd (o : ShortOps)
  /-- FRND_LONG (R287). Round to integral, long form. -/
  | frndLong (o : LongOps)
  /-- CVTFF (R292). Float to float conversion, short form. -/
  | cvtff (o : ShortOps)
  /-- CVTFF_LONG (R292). Float to float conversion, long form. -/
  | cvtffLong (o : LongOps)
  /-- CVTFI (R293). Float to integer conversion, short form. -/
  | cvtfi (o : ShortOps)
  /-- CVTFI_LONG (R293). Float to integer conversion, long form. -/
  | cvtfiLong (o : LongOps)
  /-- CVTIF (R293). Integer to float conversion, short form. -/
  | cvtif (o : ShortOps)
  /-- CVTIF_LONG (R293). Integer to float conversion, long form. -/
  | cvtifLong (o : LongOps)
  /-- CVTBLK (R295). Pack a group of lanes into one block-scaled block. -/
  | cvtblk (o : LongOps)
  /-- FSCALE (R285). Multiply by a power of two, short form. -/
  | fscale (o : ShortOps)
  /-- FSCALE_LONG (R285). Multiply by a power of two, long form. -/
  | fscaleLong (o : LongOps)
  /-- FMA2 (R291). Packed 16-bit multiply-add. -/
  | fma2 (o : LongOps)
  /-- FADD2 (R291). Packed 16-bit add, short form. -/
  | fadd2 (o : ShortOps)
  /-- FADD2_LONG (R291). Packed 16-bit add, long form. -/
  | fadd2Long (o : LongOps)
  /-- FMUL2 (R291). Packed 16-bit multiply, short form. -/
  | fmul2 (o : ShortOps)
  /-- FMUL2_LONG (R291). Packed 16-bit multiply, long form. -/
  | fmul2Long (o : LongOps)
  /-- FSMODE (R296). Read FMODE and replace selected bits. -/
  | fsmode (o : LongOps)
  /-- FSTAT (R296). Read FSTAT and replace selected bits. -/
  | fstat (o : LongOps)
  /-- AINIT (R216). Affine value from a uniform centre and slack. -/
  | ainit (o : LongOps)
  /-- AFROMV (R216). Affine value from a per-lane centre and slack. -/
  | afromv (o : LongOps)
  /-- AADD (R216). Affine add. -/
  | aadd (o : LongOps)
  /-- ASUB (R216). Affine subtract. -/
  | asub (o : LongOps)
  /-- ASCL (R216). Affine scale and offset. -/
  | ascl (o : LongOps)
  /-- AMUL (R218). Affine multiply, minting one symbol. -/
  | amul (o : LongOps)
  /-- AFMA (R218). Affine multiply-add, minting one symbol. -/
  | afma (o : LongOps)
  /-- ARCP (R219). Affine reciprocal by min-range linearisation. -/
  | arcp (o : LongOps)
  /-- ASQRT (R219). Affine square root by min-range linearisation. -/
  | asqrt (o : LongOps)
  /-- ACND (R217). Condense an affine value to at most k terms. -/
  | acnd (o : LongOps)
  /-- ACOLL (R220). Collapse all terms onto the register's own symbol. -/
  | acoll (o : LongOps)
  /-- ACTR (R220). Return the affine centre. -/
  | actr (o : LongOps)
  /-- ARAD (R220). Return the affine radius. -/
  | arad (o : LongOps)
  /-- ABND (R220). Return the FP64 interval bounds. -/
  | abnd (o : LongOps)
  /-- ASYM (R220). Return the coefficient on a named symbol. -/
  | asym (o : LongOps)
  /-- AZLD (R303). Load a view element as an affine value bounded by its block's codec error. -/
  | azld (o : LongOps)
  /-- AXFER (R302). Transfer another lane's affine value as centre and slack. -/
  | axfer (o : LongOps)
  /-- LD (R310). Global load of 1 to 32 bytes per lane. -/
  | ld (o : MemOps)
  /-- ST (R310). Global store of 1 to 32 bytes per lane. -/
  | st (o : MemOps)
  /-- LDL (R311). Local memory load. -/
  | ldl (o : MemOps)
  /-- STL (R311). Local memory store. -/
  | stl (o : MemOps)
  /-- ATOM (R312). Global atomic operation at the home slice. -/
  | atom (o : MemOps)
  /-- ATOML (R312). Local memory atomic operation. -/
  | atoml (o : MemOps)
  /-- PREF (R314). Prefetch lines toward the home slice and L1. -/
  | pref (o : MemOps)
  /-- LAND (R315). Land a working set in the landing buffer, by load or from registers. -/
  | land (o : MemOps)
  /-- TLD (R317). Tile load as one indivisible Tile step. -/
  | tld (o : MemOps)
  /-- TST (R317). Tile store as one indivisible Tile step. -/
  | tst (o : MemOps)
  /-- ZFLUSH (R319). Encode the block holding each lane's view element and keep it CLEAN. -/
  | zflush (o : MemOps)
  /-- ZDROP (R319). Drop the block holding each lane's view element, losing modifications. -/
  | zdrop (o : MemOps)
  /-- ZERR (R319). Return the codec error bound of each lane's block. -/
  | zerr (o : MemOps)
  /-- CLEAN (R320). Wait until the flight's writes to named lines reach a scope. -/
  | clean (o : MemOps)
  /-- INVAL (R320). Discard named lines as an acquire at a scope would. -/
  | inval (o : MemOps)
  /-- BAR (R324). Arrive at a named barrier and wait for its completion. -/
  | bar (o : SyncOps)
  /-- BARA (R324). Arrive at a named barrier without waiting. -/
  | bara (o : SyncOps)
  /-- BARW (R324). Wait for the flight's pending barrier instance. -/
  | barw (o : SyncOps)
  /-- FENCE (R325). Wait until writes reach a scope, then discard as an acquire. -/
  | fence (o : SyncOps)
  /-- SEMADD (R326). Add to a semaphore register. -/
  | semadd (o : SyncOps)
  /-- SEMWAIT (R326). Wait until a semaphore reaches a threshold. -/
  | semwait (o : SyncOps)
  /-- SEMRD (R326). Read a semaphore register. -/
  | semrd (o : SyncOps)
  /-- SEMSET (R326). Write a semaphore register and clear its threshold mark. -/
  | semset (o : SyncOps)
  /-- MWAIT (R327). Wait for a matrix batch to complete. -/
  | mwait (o : SyncOps)
  /-- CHKWAIT (R328). Wait for chosen chunk bits of a bitmap word. -/
  | chkwait (o : SyncOps)
  /-- YIELD (R329). Leave the active set as the youngest pending flight. -/
  | yield (o : SyncOps)
  /-- WAITSB (R330). Wait until chosen scoreboard tokens are zero. -/
  | waitsb (o : SyncOps)
  /-- MMA (R335). Matrix multiply-accumulate of two tiles into a 32 by 32 accumulator. -/
  | mma (o : MatOps)
  /-- MGATH (R338). Gather a CSR matrix block into a dense tile. -/
  | mgath (o : MatOps)
  /-- MCLOSE (R339). Close the open matrix batch. -/
  | mclose (o : MatOps)
  /-- TSHP (R340). Write a tile's shape register. -/
  | tshp (o : MatOps)
  /-- TZERO (R341). Zero a tile's shaped contents. -/
  | tzero (o : MatOps)
  /-- TMOVV (R343). Move vector registers into a tile. -/
  | tmovv (o : MatOps)
  /-- VMOVT (R343). Move a tile into vector registers. -/
  | vmovt (o : MatOps)
  /-- TSCL (R342). Add to the exponent of every side-band scale of a tile. -/
  | tscl (o : MatOps)
  /-- TCVT (R344). Convert a tile from one format slot to another. -/
  | tcvt (o : MatOps)
  /-- NOP (R345). No operation. -/
  | nop (o : CtlOps)
  /-- BRA (R347). Unconditional branch. -/
  | bra (o : BrOps)
  /-- BRC (R347). Conditional branch, possibly diverging. -/
  | brc (o : BrOps)
  /-- JOIN (R350). Pop the reconvergence stack. -/
  | join (o : CtlOps)
  /-- BRGP (R351). Regroup the workgroup's lanes by condition and branch. -/
  | brgp (o : BrOps)
  /-- RGJOIN (R353). End a regrouped stretch and return lanes to their home flights. -/
  | rgjoin (o : CtlOps)
  /-- CALL (R354). Call, writing the return address. -/
  | call (o : BrOps)
  /-- RET (R354). Return to an address in an s register. -/
  | ret (o : CtlOps)
  /-- BRI (R349). Indirect branch, grouping lanes by target. -/
  | bri (o : CtlOps)
  /-- EXIT (R355). End the active lanes, and the flight when none remain. -/
  | exit (o : CtlOps)
  /-- TRAP (R356). Raise trap 0x20. -/
  | trap (o : CtlOps)
  /-- ERET (R356). End the trap handler's run. -/
  | eret (o : CtlOps)
  /-- BRK (R356). Raise breakpoint trap 0x21. -/
  | brk (o : CtlOps)
  /-- DEFER (R357). Set or clear FMODE.DEFER. -/
  | defer (o : CtlOps)
  /-- TFRD (R358). Handler reads state of a stopped flight. -/
  | tfrd (o : CtlOps)
  /-- TFWR (R358). Handler writes state of a stopped flight. -/
  | tfwr (o : CtlOps)
  /-- TFRES (R359). Handler resumes a stopped flight. -/
  | tfres (o : CtlOps)
  /-- LKILL (R360). Kill lanes, marking them dead. -/
  | lkill (o : CtlOps)
  /-- LNCH (R361). Enqueue a dependent launch after a device-scope release. -/
  | lnch (o : CtlOps)
  /-- UNDEFINED_INSTRUCTION (R236). A word that decodes to no defined instruction of its clause's class comes to issue and raises trap 0x01 or 0x03. -/
  | undefinedInstruction (cls : BitVec 3) (w0 w1 : BitVec 32)
  /-- DIE_LEAVING_RESET (R67). A compute die leaves reset with empty translation stores and rejoins the device. -/
  | dieLeavingReset (d : Nat)
  /-- POWER_LOSS (R22). Module power is lost, possibly cutting short a RETIRE so that the entry's CHK does not match at the next reset. -/
  | powerLoss (torn : Bool)
  /-- LINK_UP (R435). A Talfen port that was down comes up again and carries traffic. -/
  | linkUp (port : Nat)
  /-- SECURITY_STATE_ADVANCE (R436). The fused security state advances from Development to Production-Authorised or from there to Production-Locked. -/
  | securityStateAdvance
  /-- ATS_TRANSLATION_COMPLETION (R433). An ATS translation completion for a host-window page arrives from the host and is cached for the function. -/
  | atsTranslationCompletion (fn page hpa : Nat)
  /-- DIE_UNPARK (R442). A compute die whose PARK bit was cleared becomes available again within 100 microseconds. -/
  | dieUnpark (d : Nat)
  deriving DecidableEq, Repr

end Sys2Proof
end

