-- ==== Sys2Proof/WellFormed.lean ====
section
/-! DEFINITION. Which terms of Instr are words the layouts allow (reserved word-1 bits zero, specifiers that Tables 10-16
and 10-17 assign; R229, R233) or steps that name things the device has. What an opcode makes of the other fields is
checked where the instruction issues (Table 10-28). -/

namespace Sys2Proof

/-- 7-bit specifiers: 127 is illegal (Table 10-16). -/
def spec7Ok (x : BitVec 7) : Bool := decide (x.toNat < 127)

/-- 9-bit specifiers: 371 to 511 are reserved (Table 10-17). -/
def spec9Ok (x : BitVec 9) : Bool := decide (x.toNat < 371)

def ShortOps.wf (o : ShortOps) : Bool := spec7Ok o.a && spec7Ok o.b && spec7Ok o.d
def ImmOps.wf (o : ImmOps) : Bool := spec7Ok o.a && spec7Ok o.d
def Word1.wf : Word1 → Bool
  | .lr resv _ _ _ c b => decide (resv = 0#2) && spec9Ok c && spec9Ok b
  | .li _ => true
def LongOps.wf (o : LongOps) : Bool := spec9Ok o.a && spec9Ok o.d && o.w1.wf
def MemOps.wf (o : MemOps) : Bool := spec9Ok o.a && spec9Ok o.d && spec9Ok o.b
def MatOps.wf (o : MatOps) : Bool :=
  spec9Ok o.a && spec9Ok o.d && spec9Ok o.b && spec9Ok o.c && decide (o.resv = 0#2)
def SyncOps.wf (o : SyncOps) : Bool :=
  spec9Ok o.a && spec9Ok o.d && spec9Ok o.b && decide (o.resv1 = 0#1) && decide (o.resv2 = 0#2)
def CtlOps.wf (o : CtlOps) : Bool :=
  spec9Ok o.a && spec9Ok o.d && spec9Ok o.b && spec9Ok o.c && decide (o.resv = 0#8)
def BrOps.wf (o : BrOps) : Bool := spec9Ok o.a && spec9Ok o.d

/-- Well-formed terms: see the head of the file. -/
def Instr.wf : Instr → Bool
  | .moduleReset => true
  | .dieReset d => decide (d < 8)
  | .patrolScrubRead _ _ => true
  | .frameSuspectReport _ => true
  | .arsWrite n w _ => decide (n < 64) && decide (w < 2)
  | .arsCommit _ => true
  | .arsCommitSwitch => true
  | .retire => true
  | .migrate => true
  | .migrateHoldClear n => decide (n < 8)
  | .clearbad => true
  | .attest => true
  | .debugtoken => true
  | .readbad => true
  | .mgmtUnknownCommand _ => true
  | .mgmtargWrite k _ => decide (k < 4)
  | .zrValidate asid n _ => decide (asid < 4096) && decide (n < 16)
  | .zrRetire asid n _ => decide (asid < 4096) && decide (n < 16)
  | .zrRetireDone asid n => decide (asid < 4096) && decide (n < 16)
  | .blockViewAccess _ _ lane => decide (lane < 64)
  | .blockDecodeDone asid zr _ => decide (asid < 4096) && decide (zr < 16)
  | .blockEvictChosen asid zr _ => decide (asid < 4096) && decide (zr < 16)
  | .encode asid zr _ => decide (asid < 4096) && decide (zr < 16)
  | .performRead _ _ lane => decide (lane < 64)
  | .performWrite _ _ lane => decide (lane < 64)
  | .drain _ _ => true
  | .deliver d _ => decide (d < 8)
  | .evict _ _ _ => true
  | .l2Evict _ => true
  | .l2FillArrive _ => true
  | .atomicStep _ _ lane => decide (lane < 64)
  | .tileStep _ _ => true
  | .own _ _ => true
  | .writeLine _ _ => true
  | .releaseLine _ _ => true
  | .peerProbe _ _ lane => decide (lane < 64)
  | .walkComplete d asid _ => decide (d < 8) && decide (asid < 4096)
  | .tlbiVaRange _ => true
  | .tlbiAsid _ => true
  | .tlbiAll _ => true
  | .tlbiPaRange _ => true
  | .tlbiaddrWrite _ => true
  | .tlbiDieAck d => decide (d < 8)
  | .frmapWrite n _ => decide (n < 8)
  | .flcfgWrite d _ => decide (d < 8)
  | .flcfgChangeDone d => decide (d < 8)
  | .tbcfgWrite d n _ => decide (d < 8) && decide (n < 16)
  | .bucketRefill => true
  | .copyTake core => decide (core < 128)
  | .copyBegin _ => true
  | .copySourceRead _ _ => true
  | .copyChunkSet _ _ => true
  | .copyComplete _ => true
  | .workgroupRelease _ => true
  | .resultLand _ _ => true
  | .residualEntryRun _ _ => true
  | .residualCapacityTrap _ => true
  | .mmaReadback _ _ => true
  | .matrixArrayWake d => decide (d < 8)
  | .matrixArrayIdle core part => decide (core < 128) && decide (part < 6)
  | .clauseHeaderIssue => true
  | .qcfgWrite q _ => decide (q < 256)
  | .qtailWrite q _ => decide (q < 256)
  | .qownWrite q _ => decide (q < 256)
  | .queueTake q => decide (q < 256)
  | .launchAdmit p => decide (p < 4)
  | .workgroupPlace _ cores => cores.all (fun x => decide (x < 128))
  | .launchComplete _ => true
  | .lnchRecordCopy _ _ => true
  | .flightSwapIn core part => decide (core < 128) && decide (part < 6)
  | .flightSwapOutTimeout _ => true
  | .pendingAgeExpiry _ => true
  | .evictionDecision _ core => decide (core < 128)
  | .flightEvict _ => true
  | .flightReturn _ core => decide (core < 128)
  | .handlerRunStart _ => true
  | .defaultHandlerAction _ => true
  | .poisonRefusal _ => true
  | .watchdogExpiry _ => true
  | .debugStop _ => true
  | .debugStopComplete _ => true
  | .debugRead _ _ => true
  | .debugWrite _ _ _ => true
  | .debugResume _ mode _ => decide (mode < 3)
  | .debugSetStep _ _ => true
  | .hdropWrite q => decide (q < 256)
  | .tbparkWrite d k n => decide (d < 8) && decide (k < 16) && decide (n < 16)
  | .hostRead fn barNo _ _ => decide (fn < 32) && decide (barNo < 5)
  | .hostWrite fn barNo _ _ => decide (fn < 32) && decide (barNo < 5)
  | .atsInvalidation fn _ _ => decide (fn < 32)
  | .flitReceive port vc _ => decide (port < 6) && decide (vc < 4)
  | .peerAccess port _ _ _ => decide (port < 6)
  | .linkDown port => decide (port < 6)
  | .keySlotLoad slot tenant _ => decide (slot < 16) && decide (tenant < 16)
  | .telemetrySample _ => true
  | .reportWrite => true
  | .repcfgWrite _ => true
  | .pwrctlSleep => true
  | .pwrctlPark _ => true
  | .diePark d => decide (d < 8)
  | .idleEntry => true
  | .moduleWake => true
  | .recoveryGo => true
  | .registerWrite _ half _ => decide (half < 3)
  | .sadd o => o.wf
  | .saddLong o => o.wf
  | .ssub o => o.wf
  | .ssubLong o => o.wf
  | .smul o => o.wf
  | .smulLong o => o.wf
  | .smulh o => o.wf
  | .smulhLong o => o.wf
  | .smulhn o => o.wf
  | .smulhnLong o => o.wf
  | .sdiv o => o.wf
  | .sdivLong o => o.wf
  | .srem o => o.wf
  | .sremLong o => o.wf
  | .sand o => o.wf
  | .sandLong o => o.wf
  | .sor o => o.wf
  | .sorLong o => o.wf
  | .sxor o => o.wf
  | .sxorLong o => o.wf
  | .sshl o => o.wf
  | .sshlLong o => o.wf
  | .sshr o => o.wf
  | .sshrLong o => o.wf
  | .ssra o => o.wf
  | .ssraLong o => o.wf
  | .smin o => o.wf
  | .sminLong o => o.wf
  | .smax o => o.wf
  | .smaxLong o => o.wf
  | .sminn o => o.wf
  | .sminnLong o => o.wf
  | .smaxn o => o.wf
  | .smaxnLong o => o.wf
  | .scmp o => o.wf
  | .scmpLong o => o.wf
  | .ssel o => o.wf
  | .smov o => o.wf
  | .smovLong o => o.wf
  | .smovi o => o.wf
  | .smoviLong o => o.wf
  | .smovh o => o.wf
  | .smovhLong o => o.wf
  | .slda o => o.wf
  | .sldaLong o => o.wf
  | .sld o => o.wf
  | .sst o => o.wf
  | .srd o => o.wf
  | .srdLong o => o.wf
  | .swr o => o.wf
  | .swrLong o => o.wf
  | .spopc o => o.wf
  | .spopcLong o => o.wf
  | .sclz o => o.wf
  | .sclzLong o => o.wf
  | .saddx o => o.wf
  | .vlane2s o => o.wf
  | .vlane2sLong o => o.wf
  | .vadd o => o.wf
  | .vaddLong o => o.wf
  | .vsub o => o.wf
  | .vsubLong o => o.wf
  | .vmul o => o.wf
  | .vmulLong o => o.wf
  | .vmulh o => o.wf
  | .vmulhLong o => o.wf
  | .vmad o => o.wf
  | .vand o => o.wf
  | .vandLong o => o.wf
  | .vor o => o.wf
  | .vorLong o => o.wf
  | .vxor o => o.wf
  | .vxorLong o => o.wf
  | .vnot o => o.wf
  | .vnotLong o => o.wf
  | .vshl o => o.wf
  | .vshlLong o => o.wf
  | .vshr o => o.wf
  | .vshrLong o => o.wf
  | .vsra o => o.wf
  | .vsraLong o => o.wf
  | .vmin o => o.wf
  | .vminLong o => o.wf
  | .vmax o => o.wf
  | .vmaxLong o => o.wf
  | .vabs o => o.wf
  | .vabsLong o => o.wf
  | .vcmp o => o.wf
  | .vcmpLong o => o.wf
  | .vsel o => o.wf
  | .vmov o => o.wf
  | .vmovLong o => o.wf
  | .vmovi o => o.wf
  | .vmoviLong o => o.wf
  | .vbcast o => o.wf
  | .vbcastLong o => o.wf
  | .vpopc o => o.wf
  | .vpopcLong o => o.wf
  | .vclz o => o.wf
  | .vclzLong o => o.wf
  | .vbfx o => o.wf
  | .vbfxLong o => o.wf
  | .vbfi o => o.wf
  | .vshfl o => o.wf
  | .vshflLong o => o.wf
  | .vvote o => o.wf
  | .vvoteLong o => o.wf
  | .vred o => o.wf
  | .vredLong o => o.wf
  | .vscan o => o.wf
  | .vscanLong o => o.wf
  | .vaddc o => o.wf
  | .vperm o => o.wf
  | .vpermLong o => o.wf
  | .plog o => o.wf
  | .plogLong o => o.wf
  | .exmset o => o.wf
  | .exmsetLong o => o.wf
  | .exmrd o => o.wf
  | .exmrdLong o => o.wf
  | .xset o => o.wf
  | .xsetLong o => o.wf
  | .xinc o => o.wf
  | .xincLong o => o.wf
  | .fadd o => o.wf
  | .faddLong o => o.wf
  | .fsub o => o.wf
  | .fsubLong o => o.wf
  | .fmul o => o.wf
  | .fmulLong o => o.wf
  | .ffma o => o.wf
  | .fmin o => o.wf
  | .fminLong o => o.wf
  | .fmax o => o.wf
  | .fmaxLong o => o.wf
  | .fabs o => o.wf
  | .fabsLong o => o.wf
  | .fneg o => o.wf
  | .fnegLong o => o.wf
  | .fcmp o => o.wf
  | .fcmpLong o => o.wf
  | .fclass o => o.wf
  | .fclassLong o => o.wf
  | .frcp o => o.wf
  | .frcpLong o => o.wf
  | .frsq o => o.wf
  | .frsqLong o => o.wf
  | .fsqrt o => o.wf
  | .fsqrtLong o => o.wf
  | .fdiv o => o.wf
  | .fdivLong o => o.wf
  | .fexp2 o => o.wf
  | .fexp2Long o => o.wf
  | .flog2 o => o.wf
  | .flog2Long o => o.wf
  | .fsinp o => o.wf
  | .fsinpLong o => o.wf
  | .fcosp o => o.wf
  | .fcospLong o => o.wf
  | .frnd o => o.wf
  | .frndLong o => o.wf
  | .cvtff o => o.wf
  | .cvtffLong o => o.wf
  | .cvtfi o => o.wf
  | .cvtfiLong o => o.wf
  | .cvtif o => o.wf
  | .cvtifLong o => o.wf
  | .cvtblk o => o.wf
  | .fscale o => o.wf
  | .fscaleLong o => o.wf
  | .fma2 o => o.wf
  | .fadd2 o => o.wf
  | .fadd2Long o => o.wf
  | .fmul2 o => o.wf
  | .fmul2Long o => o.wf
  | .fsmode o => o.wf
  | .fstat o => o.wf
  | .ainit o => o.wf
  | .afromv o => o.wf
  | .aadd o => o.wf
  | .asub o => o.wf
  | .ascl o => o.wf
  | .amul o => o.wf
  | .afma o => o.wf
  | .arcp o => o.wf
  | .asqrt o => o.wf
  | .acnd o => o.wf
  | .acoll o => o.wf
  | .actr o => o.wf
  | .arad o => o.wf
  | .abnd o => o.wf
  | .asym o => o.wf
  | .azld o => o.wf
  | .axfer o => o.wf
  | .ld o => o.wf
  | .st o => o.wf
  | .ldl o => o.wf
  | .stl o => o.wf
  | .atom o => o.wf
  | .atoml o => o.wf
  | .pref o => o.wf
  | .land o => o.wf
  | .tld o => o.wf
  | .tst o => o.wf
  | .zflush o => o.wf
  | .zdrop o => o.wf
  | .zerr o => o.wf
  | .clean o => o.wf
  | .inval o => o.wf
  | .bar o => o.wf
  | .bara o => o.wf
  | .barw o => o.wf
  | .fence o => o.wf
  | .semadd o => o.wf
  | .semwait o => o.wf
  | .semrd o => o.wf
  | .semset o => o.wf
  | .mwait o => o.wf
  | .chkwait o => o.wf
  | .yield o => o.wf
  | .waitsb o => o.wf
  | .mma o => o.wf
  | .mgath o => o.wf
  | .mclose o => o.wf
  | .tshp o => o.wf
  | .tzero o => o.wf
  | .tmovv o => o.wf
  | .vmovt o => o.wf
  | .tscl o => o.wf
  | .tcvt o => o.wf
  | .nop o => o.wf
  | .bra o => o.wf
  | .brc o => o.wf
  | .join o => o.wf
  | .brgp o => o.wf
  | .rgjoin o => o.wf
  | .call o => o.wf
  | .ret o => o.wf
  | .bri o => o.wf
  | .exit o => o.wf
  | .trap o => o.wf
  | .eret o => o.wf
  | .brk o => o.wf
  | .defer o => o.wf
  | .tfrd o => o.wf
  | .tfwr o => o.wf
  | .tfres o => o.wf
  | .lkill o => o.wf
  | .lnch o => o.wf
  | .undefinedInstruction _ _ _ => true
  | .dieLeavingReset d => decide (d < 8)
  | .powerLoss _ => true
  | .linkUp port => decide (port < 6)
  | .securityStateAdvance => true
  | .atsTranslationCompletion fn _ _ => decide (fn < 32)
  | .dieUnpark d => decide (d < 8)

/-- The predicate form. -/
abbrev Instr.WellFormed (i : Instr) : Prop := i.wf = true

end Sys2Proof
end

