-- ==== Sys2Proof/Decode.lean ====
section
/-! DEFINITION. Decoding of instruction words (R222 to R236), rejecting by name what no form defines, and after it the
encoder, written from the same tables. -/

namespace Sys2Proof

/-- Why words are not an instruction of their clause's class. -/
inductive Reject where
  /-- Fewer words than the instruction needs. -/
  | truncated
  /-- L = 0 in a clause of a long-only class (R225). -/
  | shortWordInLongClass
  /-- A short word with an opcode that has no short form (R230). -/
  | noShortForm
  /-- No such (class, OP) pair (R236). -/
  | undefinedOpcode
  /-- A long word whose layout the opcode does not allow (R230, Table 10-11). -/
  | layoutNotAllowed
  deriving DecidableEq, Repr

/-- What words decode to: an instruction and the words after it, or the reason they are none. -/
inductive Decoded where
  | ok (i : Instr) (rest : List Word)
  | bad (r : Reject)
  deriving DecidableEq, Repr

/-- The words of `bytes`, little-endian (R222, R230). -/
def wordsOfBytes : List Byte → List Word
  | b0 :: b1 :: b2 :: b3 :: rest => (b3 ++ b2 ++ b1 ++ b0) :: wordsOfBytes rest
  | _ => []

def opOf (w : Word) : Nat := (w.extractLsb' 1 6).toNat

def shortOps (w : Word) : ShortOps :=
  { cc := w.extractLsb' 30 2, st := w.extractLsb' 28 2, b := w.extractLsb' 21 7, a := w.extractLsb' 14 7, d := w.extractLsb' 7 7 }

def immOps (w : Word) : ImmOps :=
  { cc := w.extractLsb' 30 2, st := w.extractLsb' 28 2, imm := w.extractLsb' 21 7, a := w.extractLsb' 14 7, d := w.extractLsb' 7 7 }

def longOps (w0 w1 : Word) : LongOps :=
  { cc := w0.extractLsb' 29 2, st := w0.extractLsb' 25 4, a := w0.extractLsb' 16 9, d := w0.extractLsb' 7 9,
    w1 := if w0.extractLsb' 31 1 = 1#1 then .li w1
      else .lr (w1.extractLsb' 30 2) (w1.extractLsb' 24 6) (w1.extractLsb' 21 3) (w1.extractLsb' 18 3)
        (w1.extractLsb' 9 9) (w1.extractLsb' 0 9) }

def memOps (w0 w1 : Word) : MemOps :=
  { cc := w0.extractLsb' 29 2, ty := w0.extractLsb' 25 4, a := w0.extractLsb' 16 9, d := w0.extractLsb' 7 9,
    imm := w1.extractLsb' 21 11, hint := w1.extractLsb' 19 2, ord := w1.extractLsb' 17 2, scope := w1.extractLsb' 14 3,
    sb := w1.extractLsb' 11 3, scl := w1.extractLsb' 9 2, b := w1.extractLsb' 0 9 }

def matOps (w0 w1 : Word) : MatOps :=
  { cc := w0.extractLsb' 29 2, st := w0.extractLsb' 25 4, a := w0.extractLsb' 16 9, d := w0.extractLsb' 7 9,
    resv := w1.extractLsb' 30 2, sb := w1.extractLsb' 27 3, fsb := w1.extractLsb' 24 3, fsa := w1.extractLsb' 21 3,
    rm := w1.extractLsb' 18 3, c := w1.extractLsb' 9 9, b := w1.extractLsb' 0 9 }

def syncOps (w0 w1 : Word) : SyncOps :=
  { cc := w0.extractLsb' 29 2, st := w0.extractLsb' 25 4, a := w0.extractLsb' 16 9, d := w0.extractLsb' 7 9,
    resv1 := w1.extractLsb' 31 1, id := w1.extractLsb' 19 12, ord := w1.extractLsb' 17 2, scope := w1.extractLsb' 14 3,
    sb := w1.extractLsb' 11 3, resv2 := w1.extractLsb' 9 2, b := w1.extractLsb' 0 9 }

def ctlOps (w0 w1 : Word) : CtlOps :=
  { cc := w0.extractLsb' 29 2, st := w0.extractLsb' 25 4, a := w0.extractLsb' 16 9, d := w0.extractLsb' 7 9,
    resv := w1.extractLsb' 24 8, mod := w1.extractLsb' 18 6, c := w1.extractLsb' 9 9, b := w1.extractLsb' 0 9 }

def brOps (w0 w1 : Word) : BrOps :=
  { cc := w0.extractLsb' 29 2, st := w0.extractLsb' 25 4, a := w0.extractLsb' 16 9, d := w0.extractLsb' 7 9,
    mod := w1.extractLsb' 26 6, off := w1.extractLsb' 0 26 }

/-- Short words of class SCALAR (Tables 10-12, 10-20). -/
noncomputable def decodeShortScalar (w : Word) (rest : List Word) : Decoded :=
  match opOf w with
  | 0 => .ok (.sadd (shortOps w)) rest
  | 1 => .ok (.ssub (shortOps w)) rest
  | 2 => .ok (.smul (shortOps w)) rest
  | 3 => .ok (.smulh (shortOps w)) rest
  | 4 => .ok (.smulhn (shortOps w)) rest
  | 5 => .ok (.sdiv (shortOps w)) rest
  | 6 => .ok (.srem (shortOps w)) rest
  | 7 => .ok (.sand (shortOps w)) rest
  | 8 => .ok (.sor (shortOps w)) rest
  | 9 => .ok (.sxor (shortOps w)) rest
  | 10 => .ok (.sshl (shortOps w)) rest
  | 11 => .ok (.sshr (shortOps w)) rest
  | 12 => .ok (.ssra (shortOps w)) rest
  | 13 => .ok (.smin (shortOps w)) rest
  | 14 => .ok (.smax (shortOps w)) rest
  | 15 => .ok (.sminn (shortOps w)) rest
  | 16 => .ok (.smaxn (shortOps w)) rest
  | 17 => .ok (.scmp (shortOps w)) rest
  | 18 => .bad .noShortForm
  | 19 => .ok (.smov (shortOps w)) rest
  | 20 => .ok (.smovi (immOps w)) rest
  | 21 => .ok (.smovh (immOps w)) rest
  | 22 => .ok (.slda (immOps w)) rest
  | 23 => .bad .noShortForm
  | 24 => .bad .noShortForm
  | 25 => .ok (.srd (immOps w)) rest
  | 26 => .ok (.swr (immOps w)) rest
  | 27 => .ok (.spopc (shortOps w)) rest
  | 28 => .ok (.sclz (shortOps w)) rest
  | 29 => .bad .noShortForm
  | 30 => .ok (.vlane2s (shortOps w)) rest
  | _ => .bad .undefinedOpcode

/-- Short words of class VINT (Tables 10-12, 10-21). -/
noncomputable def decodeShortVint (w : Word) (rest : List Word) : Decoded :=
  match opOf w with
  | 0 => .ok (.vadd (shortOps w)) rest
  | 1 => .ok (.vsub (shortOps w)) rest
  | 2 => .ok (.vmul (shortOps w)) rest
  | 3 => .ok (.vmulh (shortOps w)) rest
  | 4 => .bad .noShortForm
  | 5 => .ok (.vand (shortOps w)) rest
  | 6 => .ok (.vor (shortOps w)) rest
  | 7 => .ok (.vxor (shortOps w)) rest
  | 8 => .ok (.vnot (shortOps w)) rest
  | 9 => .ok (.vshl (shortOps w)) rest
  | 10 => .ok (.vshr (shortOps w)) rest
  | 11 => .ok (.vsra (shortOps w)) rest
  | 12 => .ok (.vmin (shortOps w)) rest
  | 13 => .ok (.vmax (shortOps w)) rest
  | 14 => .ok (.vabs (shortOps w)) rest
  | 15 => .ok (.vcmp (shortOps w)) rest
  | 16 => .bad .noShortForm
  | 17 => .ok (.vmov (shortOps w)) rest
  | 18 => .ok (.vmovi (immOps w)) rest
  | 19 => .ok (.vbcast (shortOps w)) rest
  | 20 => .ok (.vpopc (shortOps w)) rest
  | 21 => .ok (.vclz (shortOps w)) rest
  | 22 => .ok (.vbfx (shortOps w)) rest
  | 23 => .bad .noShortForm
  | 24 => .ok (.vshfl (shortOps w)) rest
  | 25 => .ok (.vvote (shortOps w)) rest
  | 26 => .ok (.vred (shortOps w)) rest
  | 27 => .ok (.vscan (shortOps w)) rest
  | 28 => .bad .noShortForm
  | 29 => .ok (.vperm (shortOps w)) rest
  | 30 => .ok (.plog (shortOps w)) rest
  | 31 => .ok (.exmset (shortOps w)) rest
  | 32 => .ok (.exmrd (shortOps w)) rest
  | 33 => .ok (.xset (shortOps w)) rest
  | 34 => .ok (.xinc (immOps w)) rest
  | _ => .bad .undefinedOpcode

/-- Short words of class VFP (Tables 10-12, 10-22). -/
noncomputable def decodeShortVfp (w : Word) (rest : List Word) : Decoded :=
  match opOf w with
  | 0 => .ok (.fadd (shortOps w)) rest
  | 1 => .ok (.fsub (shortOps w)) rest
  | 2 => .ok (.fmul (shortOps w)) rest
  | 3 => .bad .noShortForm
  | 4 => .ok (.fmin (shortOps w)) rest
  | 5 => .ok (.fmax (shortOps w)) rest
  | 6 => .ok (.fabs (shortOps w)) rest
  | 7 => .ok (.fneg (shortOps w)) rest
  | 8 => .ok (.fcmp (shortOps w)) rest
  | 9 => .ok (.fclass (shortOps w)) rest
  | 10 => .ok (.frcp (shortOps w)) rest
  | 11 => .ok (.frsq (shortOps w)) rest
  | 12 => .ok (.fsqrt (shortOps w)) rest
  | 13 => .ok (.fdiv (shortOps w)) rest
  | 14 => .ok (.fexp2 (shortOps w)) rest
  | 15 => .ok (.flog2 (shortOps w)) rest
  | 16 => .ok (.fsinp (shortOps w)) rest
  | 17 => .ok (.fcosp (shortOps w)) rest
  | 18 => .ok (.frnd (shortOps w)) rest
  | 20 => .ok (.cvtff (shortOps w)) rest
  | 21 => .ok (.cvtfi (shortOps w)) rest
  | 22 => .ok (.cvtif (shortOps w)) rest
  | 23 => .bad .noShortForm
  | 24 => .ok (.fscale (shortOps w)) rest
  | 25 => .bad .noShortForm
  | 26 => .ok (.fadd2 (shortOps w)) rest
  | 27 => .ok (.fmul2 (shortOps w)) rest
  | 28 => .bad .noShortForm
  | 29 => .bad .noShortForm
  | _ => .bad .undefinedOpcode

/-- Long words of class SCALAR. -/
noncomputable def decodeLongScalar (w0 w1 : Word) (rest : List Word) : Decoded :=
  match opOf w0 with
  | 0 => .ok (.saddLong (longOps w0 w1)) rest
  | 1 => .ok (.ssubLong (longOps w0 w1)) rest
  | 2 => .ok (.smulLong (longOps w0 w1)) rest
  | 3 => .ok (.smulhLong (longOps w0 w1)) rest
  | 4 => .ok (.smulhnLong (longOps w0 w1)) rest
  | 5 => .ok (.sdivLong (longOps w0 w1)) rest
  | 6 => .ok (.sremLong (longOps w0 w1)) rest
  | 7 => .ok (.sandLong (longOps w0 w1)) rest
  | 8 => .ok (.sorLong (longOps w0 w1)) rest
  | 9 => .ok (.sxorLong (longOps w0 w1)) rest
  | 10 => .ok (.sshlLong (longOps w0 w1)) rest
  | 11 => .ok (.sshrLong (longOps w0 w1)) rest
  | 12 => .ok (.ssraLong (longOps w0 w1)) rest
  | 13 => .ok (.sminLong (longOps w0 w1)) rest
  | 14 => .ok (.smaxLong (longOps w0 w1)) rest
  | 15 => .ok (.sminnLong (longOps w0 w1)) rest
  | 16 => .ok (.smaxnLong (longOps w0 w1)) rest
  | 17 => .ok (.scmpLong (longOps w0 w1)) rest
  | 18 => .ok (.ssel (longOps w0 w1)) rest
  | 19 => .ok (.smovLong (longOps w0 w1)) rest
  | 20 => .ok (.smoviLong (longOps w0 w1)) rest
  | 21 => .ok (.smovhLong (longOps w0 w1)) rest
  | 22 => .ok (.sldaLong (longOps w0 w1)) rest
  | 23 => .ok (.sld (longOps w0 w1)) rest
  | 24 => .ok (.sst (longOps w0 w1)) rest
  | 25 => .ok (.srdLong (longOps w0 w1)) rest
  | 26 => .ok (.swrLong (longOps w0 w1)) rest
  | 27 => .ok (.spopcLong (longOps w0 w1)) rest
  | 28 => .ok (.sclzLong (longOps w0 w1)) rest
  | 29 => .ok (.saddx (longOps w0 w1)) rest
  | 30 => .ok (.vlane2sLong (longOps w0 w1)) rest
  | _ => .bad .undefinedOpcode

/-- Long words of class VINT. -/
noncomputable def decodeLongVint (w0 w1 : Word) (rest : List Word) : Decoded :=
  match opOf w0 with
  | 0 => .ok (.vaddLong (longOps w0 w1)) rest
  | 1 => .ok (.vsubLong (longOps w0 w1)) rest
  | 2 => .ok (.vmulLong (longOps w0 w1)) rest
  | 3 => .ok (.vmulhLong (longOps w0 w1)) rest
  | 4 => .ok (.vmad (longOps w0 w1)) rest
  | 5 => .ok (.vandLong (longOps w0 w1)) rest
  | 6 => .ok (.vorLong (longOps w0 w1)) rest
  | 7 => .ok (.vxorLong (longOps w0 w1)) rest
  | 8 => .ok (.vnotLong (longOps w0 w1)) rest
  | 9 => .ok (.vshlLong (longOps w0 w1)) rest
  | 10 => .ok (.vshrLong (longOps w0 w1)) rest
  | 11 => .ok (.vsraLong (longOps w0 w1)) rest
  | 12 => .ok (.vminLong (longOps w0 w1)) rest
  | 13 => .ok (.vmaxLong (longOps w0 w1)) rest
  | 14 => .ok (.vabsLong (longOps w0 w1)) rest
  | 15 => .ok (.vcmpLong (longOps w0 w1)) rest
  | 16 => .ok (.vsel (longOps w0 w1)) rest
  | 17 => .ok (.vmovLong (longOps w0 w1)) rest
  | 18 => .ok (.vmoviLong (longOps w0 w1)) rest
  | 19 => .ok (.vbcastLong (longOps w0 w1)) rest
  | 20 => .ok (.vpopcLong (longOps w0 w1)) rest
  | 21 => .ok (.vclzLong (longOps w0 w1)) rest
  | 22 => .ok (.vbfxLong (longOps w0 w1)) rest
  | 23 => .ok (.vbfi (longOps w0 w1)) rest
  | 24 => .ok (.vshflLong (longOps w0 w1)) rest
  | 25 => .ok (.vvoteLong (longOps w0 w1)) rest
  | 26 => .ok (.vredLong (longOps w0 w1)) rest
  | 27 => .ok (.vscanLong (longOps w0 w1)) rest
  | 28 => .ok (.vaddc (longOps w0 w1)) rest
  | 29 => .ok (.vpermLong (longOps w0 w1)) rest
  | 30 => .ok (.plogLong (longOps w0 w1)) rest
  | 31 => .ok (.exmsetLong (longOps w0 w1)) rest
  | 32 => .ok (.exmrdLong (longOps w0 w1)) rest
  | 33 => .ok (.xsetLong (longOps w0 w1)) rest
  | 34 => .ok (.xincLong (longOps w0 w1)) rest
  | _ => .bad .undefinedOpcode

/-- Long words of class VFP. -/
noncomputable def decodeLongVfp (w0 w1 : Word) (rest : List Word) : Decoded :=
  match opOf w0 with
  | 0 => .ok (.faddLong (longOps w0 w1)) rest
  | 1 => .ok (.fsubLong (longOps w0 w1)) rest
  | 2 => .ok (.fmulLong (longOps w0 w1)) rest
  | 3 => .ok (.ffma (longOps w0 w1)) rest
  | 4 => .ok (.fminLong (longOps w0 w1)) rest
  | 5 => .ok (.fmaxLong (longOps w0 w1)) rest
  | 6 => .ok (.fabsLong (longOps w0 w1)) rest
  | 7 => .ok (.fnegLong (longOps w0 w1)) rest
  | 8 => .ok (.fcmpLong (longOps w0 w1)) rest
  | 9 => .ok (.fclassLong (longOps w0 w1)) rest
  | 10 => .ok (.frcpLong (longOps w0 w1)) rest
  | 11 => .ok (.frsqLong (longOps w0 w1)) rest
  | 12 => .ok (.fsqrtLong (longOps w0 w1)) rest
  | 13 => .ok (.fdivLong (longOps w0 w1)) rest
  | 14 => .ok (.fexp2Long (longOps w0 w1)) rest
  | 15 => .ok (.flog2Long (longOps w0 w1)) rest
  | 16 => .ok (.fsinpLong (longOps w0 w1)) rest
  | 17 => .ok (.fcospLong (longOps w0 w1)) rest
  | 18 => .ok (.frndLong (longOps w0 w1)) rest
  | 20 => .ok (.cvtffLong (longOps w0 w1)) rest
  | 21 => .ok (.cvtfiLong (longOps w0 w1)) rest
  | 22 => .ok (.cvtifLong (longOps w0 w1)) rest
  | 23 => .ok (.cvtblk (longOps w0 w1)) rest
  | 24 => .ok (.fscaleLong (longOps w0 w1)) rest
  | 25 => .ok (.fma2 (longOps w0 w1)) rest
  | 26 => .ok (.fadd2Long (longOps w0 w1)) rest
  | 27 => .ok (.fmul2Long (longOps w0 w1)) rest
  | 28 => .ok (.fsmode (longOps w0 w1)) rest
  | 29 => .ok (.fstat (longOps w0 w1)) rest
  | _ => .bad .undefinedOpcode

/-- Long words of class AFF. -/
noncomputable def decodeLongAff (w0 w1 : Word) (rest : List Word) : Decoded :=
  match opOf w0 with
  | 0 => .ok (.ainit (longOps w0 w1)) rest
  | 1 => .ok (.afromv (longOps w0 w1)) rest
  | 2 => .ok (.aadd (longOps w0 w1)) rest
  | 3 => .ok (.asub (longOps w0 w1)) rest
  | 4 => .ok (.ascl (longOps w0 w1)) rest
  | 5 => .ok (.amul (longOps w0 w1)) rest
  | 6 => .ok (.afma (longOps w0 w1)) rest
  | 7 => .ok (.arcp (longOps w0 w1)) rest
  | 8 => .ok (.asqrt (longOps w0 w1)) rest
  | 9 => .ok (.acnd (longOps w0 w1)) rest
  | 10 => .ok (.acoll (longOps w0 w1)) rest
  | 11 => .ok (.actr (longOps w0 w1)) rest
  | 12 => .ok (.arad (longOps w0 w1)) rest
  | 13 => .ok (.abnd (longOps w0 w1)) rest
  | 14 => .ok (.asym (longOps w0 w1)) rest
  | 15 => .ok (.azld (longOps w0 w1)) rest
  | 16 => .ok (.axfer (longOps w0 w1)) rest
  | _ => .bad .undefinedOpcode

/-- Long words of class MEM; X = 1 is no layout of the class (Table 10-11). -/
noncomputable def decodeLongMem (w0 w1 : Word) (rest : List Word) : Decoded :=
  if w0.extractLsb' 31 1 = 1#1 then .bad .layoutNotAllowed
  else match opOf w0 with
  | 0 => .ok (.ld (memOps w0 w1)) rest
  | 1 => .ok (.st (memOps w0 w1)) rest
  | 2 => .ok (.ldl (memOps w0 w1)) rest
  | 3 => .ok (.stl (memOps w0 w1)) rest
  | 4 => .ok (.atom (memOps w0 w1)) rest
  | 5 => .ok (.atoml (memOps w0 w1)) rest
  | 6 => .ok (.pref (memOps w0 w1)) rest
  | 7 => .ok (.land (memOps w0 w1)) rest
  | 8 => .ok (.tld (memOps w0 w1)) rest
  | 9 => .ok (.tst (memOps w0 w1)) rest
  | 10 => .ok (.zflush (memOps w0 w1)) rest
  | 11 => .ok (.zdrop (memOps w0 w1)) rest
  | 12 => .ok (.zerr (memOps w0 w1)) rest
  | 13 => .ok (.clean (memOps w0 w1)) rest
  | 14 => .ok (.inval (memOps w0 w1)) rest
  | _ => .bad .undefinedOpcode

/-- Long words of class MAT; X = 1 is no layout of the class (Table 10-11). -/
noncomputable def decodeLongMat (w0 w1 : Word) (rest : List Word) : Decoded :=
  if w0.extractLsb' 31 1 = 1#1 then .bad .layoutNotAllowed
  else match opOf w0 with
  | 0 => .ok (.mma (matOps w0 w1)) rest
  | 1 => .ok (.mgath (matOps w0 w1)) rest
  | 2 => .ok (.mclose (matOps w0 w1)) rest
  | 3 => .ok (.tshp (matOps w0 w1)) rest
  | 4 => .ok (.tzero (matOps w0 w1)) rest
  | 5 => .ok (.tmovv (matOps w0 w1)) rest
  | 6 => .ok (.vmovt (matOps w0 w1)) rest
  | 7 => .ok (.tscl (matOps w0 w1)) rest
  | 8 => .ok (.tcvt (matOps w0 w1)) rest
  | _ => .bad .undefinedOpcode

/-- Long words of class SYNC; X = 1 is no layout of the class (Table 10-11). -/
noncomputable def decodeLongSync (w0 w1 : Word) (rest : List Word) : Decoded :=
  if w0.extractLsb' 31 1 = 1#1 then .bad .layoutNotAllowed
  else match opOf w0 with
  | 0 => .ok (.bar (syncOps w0 w1)) rest
  | 1 => .ok (.bara (syncOps w0 w1)) rest
  | 2 => .ok (.barw (syncOps w0 w1)) rest
  | 3 => .ok (.fence (syncOps w0 w1)) rest
  | 4 => .ok (.semadd (syncOps w0 w1)) rest
  | 5 => .ok (.semwait (syncOps w0 w1)) rest
  | 6 => .ok (.semrd (syncOps w0 w1)) rest
  | 7 => .ok (.semset (syncOps w0 w1)) rest
  | 8 => .ok (.mwait (syncOps w0 w1)) rest
  | 9 => .ok (.chkwait (syncOps w0 w1)) rest
  | 10 => .ok (.yield (syncOps w0 w1)) rest
  | 11 => .ok (.waitsb (syncOps w0 w1)) rest
  | _ => .bad .undefinedOpcode

/-- Long words of class CTRL: LB for BRA, BRC, BRGP and CALL, LC for the others (Table 10-11). -/
noncomputable def decodeLongCtrl (w0 w1 : Word) (rest : List Word) : Decoded :=
  let x := decide (w0.extractLsb' 31 1 = 1#1)
  match opOf w0 with
  | 0 => if x then .bad .layoutNotAllowed else .ok (.nop (ctlOps w0 w1)) rest
  | 1 => if x then .ok (.bra (brOps w0 w1)) rest else .bad .layoutNotAllowed
  | 2 => if x then .ok (.brc (brOps w0 w1)) rest else .bad .layoutNotAllowed
  | 3 => if x then .bad .layoutNotAllowed else .ok (.join (ctlOps w0 w1)) rest
  | 4 => if x then .ok (.brgp (brOps w0 w1)) rest else .bad .layoutNotAllowed
  | 5 => if x then .bad .layoutNotAllowed else .ok (.rgjoin (ctlOps w0 w1)) rest
  | 6 => if x then .ok (.call (brOps w0 w1)) rest else .bad .layoutNotAllowed
  | 7 => if x then .bad .layoutNotAllowed else .ok (.ret (ctlOps w0 w1)) rest
  | 8 => if x then .bad .layoutNotAllowed else .ok (.bri (ctlOps w0 w1)) rest
  | 9 => if x then .bad .layoutNotAllowed else .ok (.exit (ctlOps w0 w1)) rest
  | 10 => if x then .bad .layoutNotAllowed else .ok (.trap (ctlOps w0 w1)) rest
  | 11 => if x then .bad .layoutNotAllowed else .ok (.eret (ctlOps w0 w1)) rest
  | 12 => if x then .bad .layoutNotAllowed else .ok (.brk (ctlOps w0 w1)) rest
  | 13 => if x then .bad .layoutNotAllowed else .ok (.defer (ctlOps w0 w1)) rest
  | 14 => if x then .bad .layoutNotAllowed else .ok (.tfrd (ctlOps w0 w1)) rest
  | 15 => if x then .bad .layoutNotAllowed else .ok (.tfwr (ctlOps w0 w1)) rest
  | 16 => if x then .bad .layoutNotAllowed else .ok (.tfres (ctlOps w0 w1)) rest
  | 17 => if x then .bad .layoutNotAllowed else .ok (.lkill (ctlOps w0 w1)) rest
  | 18 => if x then .bad .layoutNotAllowed else .ok (.lnch (ctlOps w0 w1)) rest
  | _ => .bad .undefinedOpcode

/-- The long instruction of words `w0`, `w1` in a clause of class `cls`. -/
noncomputable def decodeLong (cls : Nat) (w0 w1 : Word) (rest : List Word) : Decoded :=
  match cls with
  | 0 => decodeLongScalar w0 w1 rest
  | 1 => decodeLongVint w0 w1 rest
  | 2 => decodeLongVfp w0 w1 rest
  | 3 => decodeLongMem w0 w1 rest
  | 4 => decodeLongMat w0 w1 rest
  | 5 => decodeLongAff w0 w1 rest
  | 6 => decodeLongSync w0 w1 rest
  | _ => decodeLongCtrl w0 w1 rest

/-- The short instruction of word `w` in a clause of class `cls` (R225: long-only classes have none). -/
noncomputable def decodeShort (cls : Nat) (w : Word) (rest : List Word) : Decoded :=
  match cls with
  | 0 => decodeShortScalar w rest
  | 1 => decodeShortVint w rest
  | 2 => decodeShortVfp w rest
  | _ => .bad .shortWordInLongClass

/-- How many words the instruction that begins with `w` takes (R228). -/
def wordCount (w : Word) : Nat := if w.extractLsb' 0 1 = 1#1 then 2 else 1

/-- The first instruction of `ws` in a clause of class `cls`, with the words after it. -/
noncomputable def decode (cls : Nat) (ws : List Word) : Decoded :=
  match ws with
  | [] => .bad .truncated
  | w0 :: rest =>
    if w0.extractLsb' 0 1 = 1#1 then
      match rest with
      | [] => .bad .truncated
      | w1 :: rest' => decodeLong cls w0 w1 rest'
    else decodeShort cls w0 rest

/-- The first instruction of a clause's bytes. -/
noncomputable def decodeBytes (cls : Nat) (bytes : List Byte) : Decoded := decode cls (wordsOfBytes bytes)

/-- The instruction that words which may be undefined come to issue as (R225, R236). -/
noncomputable def instrOrUndefined (cls : Nat) (ws : List Word) : Instr :=
  match decode cls ws with
  | .ok i _ => i
  | .bad _ => .undefinedInstruction (BitVec.ofNat 3 cls) (ws.headD 0) (ws.tail.headD 0)

/-- Whether words were an instruction. -/
def Decoded.isOk : Decoded → Bool
  | .ok _ _ => true
  | .bad _ => false

/-- The class of the clause that the table's word stands in, which the word itself does not say: SCALAR when its
destination field names a scalar register, else VINT when its opcode is defined there, else VFP. -/
noncomputable def tableClass (w : Word) : Nat :=
  if decide (96 ≤ (shortOps w).d.toNat) && (decodeShortScalar w []).isOk then 0
  else if (decodeShortVint w []).isOk then 1
  else if (decodeShortVfp w []).isOk then 2
  else 0

/-- The instruction of the bits `w` of an opcode-table row (its words in order, later bits zero). -/
noncomputable def decodeTableWord (nbits w : Nat) : Option Instr :=
  let w0 := BitVec.ofNat 32 w
  let w1 := BitVec.ofNat 32 ((w % 2 ^ nbits) / 2 ^ 32)
  match decode (tableClass w0) [w0, w1] with
  | .ok i _ => some i
  | .bad _ => none

/-! ### Encoding -/

def encShort (op : BitVec 6) (o : ShortOps) : List Word := [o.cc ++ o.st ++ o.b ++ o.a ++ o.d ++ op ++ 0#1]
def encImm (op : BitVec 6) (o : ImmOps) : List Word := [o.cc ++ o.st ++ o.imm ++ o.a ++ o.d ++ op ++ 0#1]

/-- Word 0 of a long instruction (Table 10-5). -/
def encWord0 (x : BitVec 1) (cc : BitVec 2) (st : BitVec 4) (a d : BitVec 9) (op : BitVec 6) : Word :=
  x ++ cc ++ st ++ a ++ d ++ op ++ 1#1

def encLong (op : BitVec 6) (o : LongOps) : List Word :=
  match o.w1 with
  | .lr resv mod fs rm c b => [encWord0 0#1 o.cc o.st o.a o.d op, resv ++ mod ++ fs ++ rm ++ c ++ b]
  | .li imm => [encWord0 1#1 o.cc o.st o.a o.d op, imm]
def encMem (op : BitVec 6) (o : MemOps) : List Word :=
  [encWord0 0#1 o.cc o.ty o.a o.d op, o.imm ++ o.hint ++ o.ord ++ o.scope ++ o.sb ++ o.scl ++ o.b]
def encMat (op : BitVec 6) (o : MatOps) : List Word :=
  [encWord0 0#1 o.cc o.st o.a o.d op, o.resv ++ o.sb ++ o.fsb ++ o.fsa ++ o.rm ++ o.c ++ o.b]
def encSync (op : BitVec 6) (o : SyncOps) : List Word :=
  [encWord0 0#1 o.cc o.st o.a o.d op, o.resv1 ++ o.id ++ o.ord ++ o.scope ++ o.sb ++ o.resv2 ++ o.b]
def encCtl (op : BitVec 6) (o : CtlOps) : List Word :=
  [encWord0 0#1 o.cc o.st o.a o.d op, o.resv ++ o.mod ++ o.c ++ o.b]
def encBr (op : BitVec 6) (o : BrOps) : List Word := [encWord0 1#1 o.cc o.st o.a o.d op, o.mod ++ o.off]

/-- The class an instruction's clause has (Table 10-2); steps of the device stand in no clause. -/
def classOf : Instr → Option Nat
  | .moduleReset => none
  | .dieReset _ => none
  | .patrolScrubRead _ _ => none
  | .frameSuspectReport _ => none
  | .arsWrite _ _ _ => none
  | .arsCommit _ => none
  | .arsCommitSwitch => none
  | .retire => none
  | .migrate => none
  | .migrateHoldClear _ => none
  | .clearbad => none
  | .attest => none
  | .debugtoken => none
  | .readbad => none
  | .mgmtUnknownCommand _ => none
  | .mgmtargWrite _ _ => none
  | .zrValidate _ _ _ => none
  | .zrRetire _ _ _ => none
  | .zrRetireDone _ _ => none
  | .blockViewAccess _ _ _ => none
  | .blockDecodeDone _ _ _ => none
  | .blockEvictChosen _ _ _ => none
  | .encode _ _ _ => none
  | .performRead _ _ _ => none
  | .performWrite _ _ _ => none
  | .drain _ _ => none
  | .deliver _ _ => none
  | .evict _ _ _ => none
  | .l2Evict _ => none
  | .l2FillArrive _ => none
  | .atomicStep _ _ _ => none
  | .tileStep _ _ => none
  | .own _ _ => none
  | .writeLine _ _ => none
  | .releaseLine _ _ => none
  | .peerProbe _ _ _ => none
  | .walkComplete _ _ _ => none
  | .tlbiVaRange _ => none
  | .tlbiAsid _ => none
  | .tlbiAll _ => none
  | .tlbiPaRange _ => none
  | .tlbiaddrWrite _ => none
  | .tlbiDieAck _ => none
  | .frmapWrite _ _ => none
  | .flcfgWrite _ _ => none
  | .flcfgChangeDone _ => none
  | .tbcfgWrite _ _ _ => none
  | .bucketRefill => none
  | .copyTake _ => none
  | .copyBegin _ => none
  | .copySourceRead _ _ => none
  | .copyChunkSet _ _ => none
  | .copyComplete _ => none
  | .workgroupRelease _ => none
  | .resultLand _ _ => none
  | .residualEntryRun _ _ => none
  | .residualCapacityTrap _ => none
  | .mmaReadback _ _ => none
  | .matrixArrayWake _ => none
  | .matrixArrayIdle _ _ => none
  | .clauseHeaderIssue => none
  | .qcfgWrite _ _ => none
  | .qtailWrite _ _ => none
  | .qownWrite _ _ => none
  | .queueTake _ => none
  | .launchAdmit _ => none
  | .workgroupPlace _ _ => none
  | .launchComplete _ => none
  | .lnchRecordCopy _ _ => none
  | .flightSwapIn _ _ => none
  | .flightSwapOutTimeout _ => none
  | .pendingAgeExpiry _ => none
  | .evictionDecision _ _ => none
  | .flightEvict _ => none
  | .flightReturn _ _ => none
  | .handlerRunStart _ => none
  | .defaultHandlerAction _ => none
  | .poisonRefusal _ => none
  | .watchdogExpiry _ => none
  | .debugStop _ => none
  | .debugStopComplete _ => none
  | .debugRead _ _ => none
  | .debugWrite _ _ _ => none
  | .debugResume _ _ _ => none
  | .debugSetStep _ _ => none
  | .hdropWrite _ => none
  | .tbparkWrite _ _ _ => none
  | .hostRead _ _ _ _ => none
  | .hostWrite _ _ _ _ => none
  | .atsInvalidation _ _ _ => none
  | .flitReceive _ _ _ => none
  | .peerAccess _ _ _ _ => none
  | .linkDown _ => none
  | .keySlotLoad _ _ _ => none
  | .telemetrySample _ => none
  | .reportWrite => none
  | .repcfgWrite _ => none
  | .pwrctlSleep => none
  | .pwrctlPark _ => none
  | .diePark _ => none
  | .idleEntry => none
  | .moduleWake => none
  | .recoveryGo => none
  | .registerWrite _ _ _ => none
  | .sadd _ => some 0
  | .saddLong _ => some 0
  | .ssub _ => some 0
  | .ssubLong _ => some 0
  | .smul _ => some 0
  | .smulLong _ => some 0
  | .smulh _ => some 0
  | .smulhLong _ => some 0
  | .smulhn _ => some 0
  | .smulhnLong _ => some 0
  | .sdiv _ => some 0
  | .sdivLong _ => some 0
  | .srem _ => some 0
  | .sremLong _ => some 0
  | .sand _ => some 0
  | .sandLong _ => some 0
  | .sor _ => some 0
  | .sorLong _ => some 0
  | .sxor _ => some 0
  | .sxorLong _ => some 0
  | .sshl _ => some 0
  | .sshlLong _ => some 0
  | .sshr _ => some 0
  | .sshrLong _ => some 0
  | .ssra _ => some 0
  | .ssraLong _ => some 0
  | .smin _ => some 0
  | .sminLong _ => some 0
  | .smax _ => some 0
  | .smaxLong _ => some 0
  | .sminn _ => some 0
  | .sminnLong _ => some 0
  | .smaxn _ => some 0
  | .smaxnLong _ => some 0
  | .scmp _ => some 0
  | .scmpLong _ => some 0
  | .ssel _ => some 0
  | .smov _ => some 0
  | .smovLong _ => some 0
  | .smovi _ => some 0
  | .smoviLong _ => some 0
  | .smovh _ => some 0
  | .smovhLong _ => some 0
  | .slda _ => some 0
  | .sldaLong _ => some 0
  | .sld _ => some 0
  | .sst _ => some 0
  | .srd _ => some 0
  | .srdLong _ => some 0
  | .swr _ => some 0
  | .swrLong _ => some 0
  | .spopc _ => some 0
  | .spopcLong _ => some 0
  | .sclz _ => some 0
  | .sclzLong _ => some 0
  | .saddx _ => some 0
  | .vlane2s _ => some 0
  | .vlane2sLong _ => some 0
  | .vadd _ => some 1
  | .vaddLong _ => some 1
  | .vsub _ => some 1
  | .vsubLong _ => some 1
  | .vmul _ => some 1
  | .vmulLong _ => some 1
  | .vmulh _ => some 1
  | .vmulhLong _ => some 1
  | .vmad _ => some 1
  | .vand _ => some 1
  | .vandLong _ => some 1
  | .vor _ => some 1
  | .vorLong _ => some 1
  | .vxor _ => some 1
  | .vxorLong _ => some 1
  | .vnot _ => some 1
  | .vnotLong _ => some 1
  | .vshl _ => some 1
  | .vshlLong _ => some 1
  | .vshr _ => some 1
  | .vshrLong _ => some 1
  | .vsra _ => some 1
  | .vsraLong _ => some 1
  | .vmin _ => some 1
  | .vminLong _ => some 1
  | .vmax _ => some 1
  | .vmaxLong _ => some 1
  | .vabs _ => some 1
  | .vabsLong _ => some 1
  | .vcmp _ => some 1
  | .vcmpLong _ => some 1
  | .vsel _ => some 1
  | .vmov _ => some 1
  | .vmovLong _ => some 1
  | .vmovi _ => some 1
  | .vmoviLong _ => some 1
  | .vbcast _ => some 1
  | .vbcastLong _ => some 1
  | .vpopc _ => some 1
  | .vpopcLong _ => some 1
  | .vclz _ => some 1
  | .vclzLong _ => some 1
  | .vbfx _ => some 1
  | .vbfxLong _ => some 1
  | .vbfi _ => some 1
  | .vshfl _ => some 1
  | .vshflLong _ => some 1
  | .vvote _ => some 1
  | .vvoteLong _ => some 1
  | .vred _ => some 1
  | .vredLong _ => some 1
  | .vscan _ => some 1
  | .vscanLong _ => some 1
  | .vaddc _ => some 1
  | .vperm _ => some 1
  | .vpermLong _ => some 1
  | .plog _ => some 1
  | .plogLong _ => some 1
  | .exmset _ => some 1
  | .exmsetLong _ => some 1
  | .exmrd _ => some 1
  | .exmrdLong _ => some 1
  | .xset _ => some 1
  | .xsetLong _ => some 1
  | .xinc _ => some 1
  | .xincLong _ => some 1
  | .fadd _ => some 2
  | .faddLong _ => some 2
  | .fsub _ => some 2
  | .fsubLong _ => some 2
  | .fmul _ => some 2
  | .fmulLong _ => some 2
  | .ffma _ => some 2
  | .fmin _ => some 2
  | .fminLong _ => some 2
  | .fmax _ => some 2
  | .fmaxLong _ => some 2
  | .fabs _ => some 2
  | .fabsLong _ => some 2
  | .fneg _ => some 2
  | .fnegLong _ => some 2
  | .fcmp _ => some 2
  | .fcmpLong _ => some 2
  | .fclass _ => some 2
  | .fclassLong _ => some 2
  | .frcp _ => some 2
  | .frcpLong _ => some 2
  | .frsq _ => some 2
  | .frsqLong _ => some 2
  | .fsqrt _ => some 2
  | .fsqrtLong _ => some 2
  | .fdiv _ => some 2
  | .fdivLong _ => some 2
  | .fexp2 _ => some 2
  | .fexp2Long _ => some 2
  | .flog2 _ => some 2
  | .flog2Long _ => some 2
  | .fsinp _ => some 2
  | .fsinpLong _ => some 2
  | .fcosp _ => some 2
  | .fcospLong _ => some 2
  | .frnd _ => some 2
  | .frndLong _ => some 2
  | .cvtff _ => some 2
  | .cvtffLong _ => some 2
  | .cvtfi _ => some 2
  | .cvtfiLong _ => some 2
  | .cvtif _ => some 2
  | .cvtifLong _ => some 2
  | .cvtblk _ => some 2
  | .fscale _ => some 2
  | .fscaleLong _ => some 2
  | .fma2 _ => some 2
  | .fadd2 _ => some 2
  | .fadd2Long _ => some 2
  | .fmul2 _ => some 2
  | .fmul2Long _ => some 2
  | .fsmode _ => some 2
  | .fstat _ => some 2
  | .ainit _ => some 5
  | .afromv _ => some 5
  | .aadd _ => some 5
  | .asub _ => some 5
  | .ascl _ => some 5
  | .amul _ => some 5
  | .afma _ => some 5
  | .arcp _ => some 5
  | .asqrt _ => some 5
  | .acnd _ => some 5
  | .acoll _ => some 5
  | .actr _ => some 5
  | .arad _ => some 5
  | .abnd _ => some 5
  | .asym _ => some 5
  | .azld _ => some 5
  | .axfer _ => some 5
  | .ld _ => some 3
  | .st _ => some 3
  | .ldl _ => some 3
  | .stl _ => some 3
  | .atom _ => some 3
  | .atoml _ => some 3
  | .pref _ => some 3
  | .land _ => some 3
  | .tld _ => some 3
  | .tst _ => some 3
  | .zflush _ => some 3
  | .zdrop _ => some 3
  | .zerr _ => some 3
  | .clean _ => some 3
  | .inval _ => some 3
  | .bar _ => some 6
  | .bara _ => some 6
  | .barw _ => some 6
  | .fence _ => some 6
  | .semadd _ => some 6
  | .semwait _ => some 6
  | .semrd _ => some 6
  | .semset _ => some 6
  | .mwait _ => some 6
  | .chkwait _ => some 6
  | .yield _ => some 6
  | .waitsb _ => some 6
  | .mma _ => some 4
  | .mgath _ => some 4
  | .mclose _ => some 4
  | .tshp _ => some 4
  | .tzero _ => some 4
  | .tmovv _ => some 4
  | .vmovt _ => some 4
  | .tscl _ => some 4
  | .tcvt _ => some 4
  | .nop _ => some 7
  | .bra _ => some 7
  | .brc _ => some 7
  | .join _ => some 7
  | .brgp _ => some 7
  | .rgjoin _ => some 7
  | .call _ => some 7
  | .ret _ => some 7
  | .bri _ => some 7
  | .exit _ => some 7
  | .trap _ => some 7
  | .eret _ => some 7
  | .brk _ => some 7
  | .defer _ => some 7
  | .tfrd _ => some 7
  | .tfwr _ => some 7
  | .tfres _ => some 7
  | .lkill _ => some 7
  | .lnch _ => some 7
  | .undefinedInstruction _ _ _ => none
  | .dieLeavingReset _ => none
  | .powerLoss _ => none
  | .linkUp _ => none
  | .securityStateAdvance => none
  | .atsTranslationCompletion _ _ _ => none
  | .dieUnpark _ => none

/-- The words of an instruction; a step of the device has none. -/
def encode : Instr → List Word
  | .moduleReset => []
  | .dieReset _ => []
  | .patrolScrubRead _ _ => []
  | .frameSuspectReport _ => []
  | .arsWrite _ _ _ => []
  | .arsCommit _ => []
  | .arsCommitSwitch => []
  | .retire => []
  | .migrate => []
  | .migrateHoldClear _ => []
  | .clearbad => []
  | .attest => []
  | .debugtoken => []
  | .readbad => []
  | .mgmtUnknownCommand _ => []
  | .mgmtargWrite _ _ => []
  | .zrValidate _ _ _ => []
  | .zrRetire _ _ _ => []
  | .zrRetireDone _ _ => []
  | .blockViewAccess _ _ _ => []
  | .blockDecodeDone _ _ _ => []
  | .blockEvictChosen _ _ _ => []
  | .encode _ _ _ => []
  | .performRead _ _ _ => []
  | .performWrite _ _ _ => []
  | .drain _ _ => []
  | .deliver _ _ => []
  | .evict _ _ _ => []
  | .l2Evict _ => []
  | .l2FillArrive _ => []
  | .atomicStep _ _ _ => []
  | .tileStep _ _ => []
  | .own _ _ => []
  | .writeLine _ _ => []
  | .releaseLine _ _ => []
  | .peerProbe _ _ _ => []
  | .walkComplete _ _ _ => []
  | .tlbiVaRange _ => []
  | .tlbiAsid _ => []
  | .tlbiAll _ => []
  | .tlbiPaRange _ => []
  | .tlbiaddrWrite _ => []
  | .tlbiDieAck _ => []
  | .frmapWrite _ _ => []
  | .flcfgWrite _ _ => []
  | .flcfgChangeDone _ => []
  | .tbcfgWrite _ _ _ => []
  | .bucketRefill => []
  | .copyTake _ => []
  | .copyBegin _ => []
  | .copySourceRead _ _ => []
  | .copyChunkSet _ _ => []
  | .copyComplete _ => []
  | .workgroupRelease _ => []
  | .resultLand _ _ => []
  | .residualEntryRun _ _ => []
  | .residualCapacityTrap _ => []
  | .mmaReadback _ _ => []
  | .matrixArrayWake _ => []
  | .matrixArrayIdle _ _ => []
  | .clauseHeaderIssue => []
  | .qcfgWrite _ _ => []
  | .qtailWrite _ _ => []
  | .qownWrite _ _ => []
  | .queueTake _ => []
  | .launchAdmit _ => []
  | .workgroupPlace _ _ => []
  | .launchComplete _ => []
  | .lnchRecordCopy _ _ => []
  | .flightSwapIn _ _ => []
  | .flightSwapOutTimeout _ => []
  | .pendingAgeExpiry _ => []
  | .evictionDecision _ _ => []
  | .flightEvict _ => []
  | .flightReturn _ _ => []
  | .handlerRunStart _ => []
  | .defaultHandlerAction _ => []
  | .poisonRefusal _ => []
  | .watchdogExpiry _ => []
  | .debugStop _ => []
  | .debugStopComplete _ => []
  | .debugRead _ _ => []
  | .debugWrite _ _ _ => []
  | .debugResume _ _ _ => []
  | .debugSetStep _ _ => []
  | .hdropWrite _ => []
  | .tbparkWrite _ _ _ => []
  | .hostRead _ _ _ _ => []
  | .hostWrite _ _ _ _ => []
  | .atsInvalidation _ _ _ => []
  | .flitReceive _ _ _ => []
  | .peerAccess _ _ _ _ => []
  | .linkDown _ => []
  | .keySlotLoad _ _ _ => []
  | .telemetrySample _ => []
  | .reportWrite => []
  | .repcfgWrite _ => []
  | .pwrctlSleep => []
  | .pwrctlPark _ => []
  | .diePark _ => []
  | .idleEntry => []
  | .moduleWake => []
  | .recoveryGo => []
  | .registerWrite _ _ _ => []
  | .sadd o => encShort 0#6 o
  | .saddLong o => encLong 0#6 o
  | .ssub o => encShort 1#6 o
  | .ssubLong o => encLong 1#6 o
  | .smul o => encShort 2#6 o
  | .smulLong o => encLong 2#6 o
  | .smulh o => encShort 3#6 o
  | .smulhLong o => encLong 3#6 o
  | .smulhn o => encShort 4#6 o
  | .smulhnLong o => encLong 4#6 o
  | .sdiv o => encShort 5#6 o
  | .sdivLong o => encLong 5#6 o
  | .srem o => encShort 6#6 o
  | .sremLong o => encLong 6#6 o
  | .sand o => encShort 7#6 o
  | .sandLong o => encLong 7#6 o
  | .sor o => encShort 8#6 o
  | .sorLong o => encLong 8#6 o
  | .sxor o => encShort 9#6 o
  | .sxorLong o => encLong 9#6 o
  | .sshl o => encShort 10#6 o
  | .sshlLong o => encLong 10#6 o
  | .sshr o => encShort 11#6 o
  | .sshrLong o => encLong 11#6 o
  | .ssra o => encShort 12#6 o
  | .ssraLong o => encLong 12#6 o
  | .smin o => encShort 13#6 o
  | .sminLong o => encLong 13#6 o
  | .smax o => encShort 14#6 o
  | .smaxLong o => encLong 14#6 o
  | .sminn o => encShort 15#6 o
  | .sminnLong o => encLong 15#6 o
  | .smaxn o => encShort 16#6 o
  | .smaxnLong o => encLong 16#6 o
  | .scmp o => encShort 17#6 o
  | .scmpLong o => encLong 17#6 o
  | .ssel o => encLong 18#6 o
  | .smov o => encShort 19#6 o
  | .smovLong o => encLong 19#6 o
  | .smovi o => encImm 20#6 o
  | .smoviLong o => encLong 20#6 o
  | .smovh o => encImm 21#6 o
  | .smovhLong o => encLong 21#6 o
  | .slda o => encImm 22#6 o
  | .sldaLong o => encLong 22#6 o
  | .sld o => encLong 23#6 o
  | .sst o => encLong 24#6 o
  | .srd o => encImm 25#6 o
  | .srdLong o => encLong 25#6 o
  | .swr o => encImm 26#6 o
  | .swrLong o => encLong 26#6 o
  | .spopc o => encShort 27#6 o
  | .spopcLong o => encLong 27#6 o
  | .sclz o => encShort 28#6 o
  | .sclzLong o => encLong 28#6 o
  | .saddx o => encLong 29#6 o
  | .vlane2s o => encShort 30#6 o
  | .vlane2sLong o => encLong 30#6 o
  | .vadd o => encShort 0#6 o
  | .vaddLong o => encLong 0#6 o
  | .vsub o => encShort 1#6 o
  | .vsubLong o => encLong 1#6 o
  | .vmul o => encShort 2#6 o
  | .vmulLong o => encLong 2#6 o
  | .vmulh o => encShort 3#6 o
  | .vmulhLong o => encLong 3#6 o
  | .vmad o => encLong 4#6 o
  | .vand o => encShort 5#6 o
  | .vandLong o => encLong 5#6 o
  | .vor o => encShort 6#6 o
  | .vorLong o => encLong 6#6 o
  | .vxor o => encShort 7#6 o
  | .vxorLong o => encLong 7#6 o
  | .vnot o => encShort 8#6 o
  | .vnotLong o => encLong 8#6 o
  | .vshl o => encShort 9#6 o
  | .vshlLong o => encLong 9#6 o
  | .vshr o => encShort 10#6 o
  | .vshrLong o => encLong 10#6 o
  | .vsra o => encShort 11#6 o
  | .vsraLong o => encLong 11#6 o
  | .vmin o => encShort 12#6 o
  | .vminLong o => encLong 12#6 o
  | .vmax o => encShort 13#6 o
  | .vmaxLong o => encLong 13#6 o
  | .vabs o => encShort 14#6 o
  | .vabsLong o => encLong 14#6 o
  | .vcmp o => encShort 15#6 o
  | .vcmpLong o => encLong 15#6 o
  | .vsel o => encLong 16#6 o
  | .vmov o => encShort 17#6 o
  | .vmovLong o => encLong 17#6 o
  | .vmovi o => encImm 18#6 o
  | .vmoviLong o => encLong 18#6 o
  | .vbcast o => encShort 19#6 o
  | .vbcastLong o => encLong 19#6 o
  | .vpopc o => encShort 20#6 o
  | .vpopcLong o => encLong 20#6 o
  | .vclz o => encShort 21#6 o
  | .vclzLong o => encLong 21#6 o
  | .vbfx o => encShort 22#6 o
  | .vbfxLong o => encLong 22#6 o
  | .vbfi o => encLong 23#6 o
  | .vshfl o => encShort 24#6 o
  | .vshflLong o => encLong 24#6 o
  | .vvote o => encShort 25#6 o
  | .vvoteLong o => encLong 25#6 o
  | .vred o => encShort 26#6 o
  | .vredLong o => encLong 26#6 o
  | .vscan o => encShort 27#6 o
  | .vscanLong o => encLong 27#6 o
  | .vaddc o => encLong 28#6 o
  | .vperm o => encShort 29#6 o
  | .vpermLong o => encLong 29#6 o
  | .plog o => encShort 30#6 o
  | .plogLong o => encLong 30#6 o
  | .exmset o => encShort 31#6 o
  | .exmsetLong o => encLong 31#6 o
  | .exmrd o => encShort 32#6 o
  | .exmrdLong o => encLong 32#6 o
  | .xset o => encShort 33#6 o
  | .xsetLong o => encLong 33#6 o
  | .xinc o => encImm 34#6 o
  | .xincLong o => encLong 34#6 o
  | .fadd o => encShort 0#6 o
  | .faddLong o => encLong 0#6 o
  | .fsub o => encShort 1#6 o
  | .fsubLong o => encLong 1#6 o
  | .fmul o => encShort 2#6 o
  | .fmulLong o => encLong 2#6 o
  | .ffma o => encLong 3#6 o
  | .fmin o => encShort 4#6 o
  | .fminLong o => encLong 4#6 o
  | .fmax o => encShort 5#6 o
  | .fmaxLong o => encLong 5#6 o
  | .fabs o => encShort 6#6 o
  | .fabsLong o => encLong 6#6 o
  | .fneg o => encShort 7#6 o
  | .fnegLong o => encLong 7#6 o
  | .fcmp o => encShort 8#6 o
  | .fcmpLong o => encLong 8#6 o
  | .fclass o => encShort 9#6 o
  | .fclassLong o => encLong 9#6 o
  | .frcp o => encShort 10#6 o
  | .frcpLong o => encLong 10#6 o
  | .frsq o => encShort 11#6 o
  | .frsqLong o => encLong 11#6 o
  | .fsqrt o => encShort 12#6 o
  | .fsqrtLong o => encLong 12#6 o
  | .fdiv o => encShort 13#6 o
  | .fdivLong o => encLong 13#6 o
  | .fexp2 o => encShort 14#6 o
  | .fexp2Long o => encLong 14#6 o
  | .flog2 o => encShort 15#6 o
  | .flog2Long o => encLong 15#6 o
  | .fsinp o => encShort 16#6 o
  | .fsinpLong o => encLong 16#6 o
  | .fcosp o => encShort 17#6 o
  | .fcospLong o => encLong 17#6 o
  | .frnd o => encShort 18#6 o
  | .frndLong o => encLong 18#6 o
  | .cvtff o => encShort 20#6 o
  | .cvtffLong o => encLong 20#6 o
  | .cvtfi o => encShort 21#6 o
  | .cvtfiLong o => encLong 21#6 o
  | .cvtif o => encShort 22#6 o
  | .cvtifLong o => encLong 22#6 o
  | .cvtblk o => encLong 23#6 o
  | .fscale o => encShort 24#6 o
  | .fscaleLong o => encLong 24#6 o
  | .fma2 o => encLong 25#6 o
  | .fadd2 o => encShort 26#6 o
  | .fadd2Long o => encLong 26#6 o
  | .fmul2 o => encShort 27#6 o
  | .fmul2Long o => encLong 27#6 o
  | .fsmode o => encLong 28#6 o
  | .fstat o => encLong 29#6 o
  | .ainit o => encLong 0#6 o
  | .afromv o => encLong 1#6 o
  | .aadd o => encLong 2#6 o
  | .asub o => encLong 3#6 o
  | .ascl o => encLong 4#6 o
  | .amul o => encLong 5#6 o
  | .afma o => encLong 6#6 o
  | .arcp o => encLong 7#6 o
  | .asqrt o => encLong 8#6 o
  | .acnd o => encLong 9#6 o
  | .acoll o => encLong 10#6 o
  | .actr o => encLong 11#6 o
  | .arad o => encLong 12#6 o
  | .abnd o => encLong 13#6 o
  | .asym o => encLong 14#6 o
  | .azld o => encLong 15#6 o
  | .axfer o => encLong 16#6 o
  | .ld o => encMem 0#6 o
  | .st o => encMem 1#6 o
  | .ldl o => encMem 2#6 o
  | .stl o => encMem 3#6 o
  | .atom o => encMem 4#6 o
  | .atoml o => encMem 5#6 o
  | .pref o => encMem 6#6 o
  | .land o => encMem 7#6 o
  | .tld o => encMem 8#6 o
  | .tst o => encMem 9#6 o
  | .zflush o => encMem 10#6 o
  | .zdrop o => encMem 11#6 o
  | .zerr o => encMem 12#6 o
  | .clean o => encMem 13#6 o
  | .inval o => encMem 14#6 o
  | .bar o => encSync 0#6 o
  | .bara o => encSync 1#6 o
  | .barw o => encSync 2#6 o
  | .fence o => encSync 3#6 o
  | .semadd o => encSync 4#6 o
  | .semwait o => encSync 5#6 o
  | .semrd o => encSync 6#6 o
  | .semset o => encSync 7#6 o
  | .mwait o => encSync 8#6 o
  | .chkwait o => encSync 9#6 o
  | .yield o => encSync 10#6 o
  | .waitsb o => encSync 11#6 o
  | .mma o => encMat 0#6 o
  | .mgath o => encMat 1#6 o
  | .mclose o => encMat 2#6 o
  | .tshp o => encMat 3#6 o
  | .tzero o => encMat 4#6 o
  | .tmovv o => encMat 5#6 o
  | .vmovt o => encMat 6#6 o
  | .tscl o => encMat 7#6 o
  | .tcvt o => encMat 8#6 o
  | .nop o => encCtl 0#6 o
  | .bra o => encBr 1#6 o
  | .brc o => encBr 2#6 o
  | .join o => encCtl 3#6 o
  | .brgp o => encBr 4#6 o
  | .rgjoin o => encCtl 5#6 o
  | .call o => encBr 6#6 o
  | .ret o => encCtl 7#6 o
  | .bri o => encCtl 8#6 o
  | .exit o => encCtl 9#6 o
  | .trap o => encCtl 10#6 o
  | .eret o => encCtl 11#6 o
  | .brk o => encCtl 12#6 o
  | .defer o => encCtl 13#6 o
  | .tfrd o => encCtl 14#6 o
  | .tfwr o => encCtl 15#6 o
  | .tfres o => encCtl 16#6 o
  | .lkill o => encCtl 17#6 o
  | .lnch o => encCtl 18#6 o
  | .undefinedInstruction _ w0 w1 => [w0, w1]
  | .dieLeavingReset _ => []
  | .powerLoss _ => []
  | .linkUp _ => []
  | .securityStateAdvance => []
  | .atsTranslationCompletion _ _ _ => []
  | .dieUnpark _ => []

end Sys2Proof
end

