-- ==== Sys2Proof/Config.lean ====
section
/-! DEFINITION. What an implementation fixes and what the manual leaves open. Every constant here is opaque: it has no
body, so no proof can rest on a value of it. Values that may differ from use to use are `freeNat` applied to the
counter `State.freeCtr`. -/

namespace Sys2Proof.Config

/-- A free value for each use; the step that takes one advances the counter (log 2). -/
opaque freeNat : Nat → Nat

/-- Which of the two neighbouring FP64 values an elementary function returns for an operand: `true` the upper one. The
first argument is the opcode. Every device returns the same bits for the same input (R288, log 20). -/
opaque fp64Upper : Nat → BitVec 64 → Bool

/-- How many units of the last working place beyond the floor the lower bound, and beyond the ceiling the upper bound,
of R219 lie for an interval: the manual says only that each evaluation is bounded outward (R219, log 21). The first
argument is the opcode, the others the interval ends. -/
opaque affineSlack : Nat → BitVec 64 → BitVec 64 → Nat × Nat

/-- ML-DSA-87 signature verification under a key, of a message, with a signature (R437, R452, log 8). -/
opaque mldsaVerify : List Byte → List Byte → List Byte → Bool

/-- ML-DSA-87 signature of the device identity key over a message, byte by byte (R438, R451, log 8). -/
opaque mldsaSign : List Byte → Nat → Byte

/-- The recovery image at an address of host memory, given as its listed bytes: image, public key, signature and security version; none
where it cannot be read. The manual gives no layout for it (R446, log 11). -/
opaque recoveryImage : List (Nat × Byte) → Nat → Option (List Byte × List Byte × List Byte × Nat)

/-- The device identity public key, byte by byte: 2,592 bytes made at manufacture (R438, R451). -/
opaque identityKey : Nat → Byte

/-- The vendor public key whose digest is fused, byte by byte (R452). -/
opaque vendorKey : Nat → Byte

/-- The fused digest of the accepted firmware key, and of the development key in one-time storage (R437). -/
opaque bootKeyDigest : BitVec 512
/-- The digest of the development key in one-time storage (R437). -/
opaque devKeyDigest : BitVec 512

end Sys2Proof.Config
end

