-- ==== Sys2Proof/Machine/State.lean ====
section
/-! DEFINITION. The state of the device (Table 00-1, Table 07-1, Table 08-1, Table 18-10), as plain data, with the reasons a
step can stop and the state after reset. A sparse map is a list of (key, value) pairs with rising keys that lists no entry equal
to the map's default; the default of each map is said where the map is declared. -/

namespace Sys2Proof.Machine

/-- A sparse map from numbers. -/
abbrev NMap (α : Type) := List (Nat × α)

/-- Why the model stops. -/
inductive Fault where
  /-- An instruction was executed while the flight that should execute it does not exist; raised by every meaning of an
  instruction row. No hardware does this: an instruction issues only from a flight (R222). Safe. -/
  | noSuchFlight (f : Nat)
  deriving DecidableEq, Repr

/-- Why the model has no meaning. -/
inductive Refusal where
  /-- An instruction row that has no meaning yet; raised by its arm of the dispatch only. Safe. -/
  | notModelled (mnemonic : String)
  deriving DecidableEq, Repr

/-- Who moves next: a flight issues, a step of the device is taken, a number of clocks pass, the debug port asks for a debug state in
Development (Table 18-9), or the memory device tells what the read for a pending fill found in each sector (R9, R10). The ordering machine takes any step whose condition holds (R142); the agenda says which. -/
inductive Choice where
  | issue (f : Nat)
  | event (i : Instr)
  | advance (n : Nat)
  | debugState (st : Nat)
  | readFinds (line : Nat) (found : List EccFinding)
  | outerFails (line : Nat) (fails : Bool)
  deriving DecidableEq, Repr

/-- Names of registers that can be pending, in flight or marked. -/
inductive Reg where
  | v (n : Nat)
  | s (n : Nat)
  | p (n : Nat)
  | x (n : Nat)
  | exm
  | tile (n : Nat)
  deriving DecidableEq, Repr

/-- Where an access goes: a line of a tier, host or peer memory, a device register, a workgroup's allocation (by its handle),
or the view of a Z-region. -/
inductive Space where
  | tier
  | host
  | peer (port : Nat)
  | dev
  | loc (wg : Nat)
  | view (asid zr : Nat)
  deriving DecidableEq, Repr

/-- How far one lane's access has come. -/
inductive Phase where
  /-- Not performed yet. -/
  | todo
  /-- In a waiting list at its home (R80, R46). -/
  | queued
  /-- Performed. -/
  | done
  /-- Refused: it met poison and has no destination (R412). -/
  | refused
  deriving DecidableEq, Repr

/-- One lane's access. `pa` is a physical address, an offset in an allocation or a byte offset in a view. -/
structure Access where
  lane : Nat := 0
  va : Nat := 0
  space : Space := .tier
  pa : Nat := 0
  size : Nat := 4
  /-- The translation had WR = 0 (R83). -/
  ro : Bool := false
  /-- Size of the page that the translation used (R65). -/
  shift : Nat := 16
  data : Nat := 0
  /-- Second operand of a compare-and-swap. -/
  data2 : Nat := 0
  /-- First destination register of the lane, or its tile byte. -/
  reg : Nat := 0
  /-- Owner tag stamped on a window access, and the core of its allocation (R102); tag 0 for none. -/
  tag : Nat := 0
  core : Nat := 0
  /-- Halves of a two-wide add done (R113). -/
  half : Nat := 0
  phase : Phase := .todo
  got : Nat := 0
  /-- Sector address of the poison met (R411). -/
  pois : Option Nat := none
  deriving DecidableEq, Repr

/-- What an outstanding operation does. -/
inductive OpKind where
  | load
  | store
  | atomic
  | tileLoad
  | tileStore
  | pref
  | zflush
  | zdrop
  | zerr
  | azld
  | clean
  | inval
  | fence
  | semAdd
  | semSet
  | semRd
  | mma
  | mgath
  | lnch
  /-- A variable-latency result already computed, waiting to land. -/
  | result
  deriving DecidableEq, Repr

/-- What a register write of an operation writes: lane `l` of `vn` or `xn` has key 64n+l, tile byte `b` of `tn` key
1632n+b, bit `l` of `pn` key 128n+l, and all of `pn` key 128n+64. -/
structure RegWrite where
  reg : Reg
  key : Nat
  val : Nat
  deriving DecidableEq, Repr

/-- An operation that has issued and is not done (R189, R235). -/
structure Op where
  id : Nat
  /-- Place in program order (R146). -/
  seq : Nat
  pc : Nat
  kind : OpKind
  acc : List Access := []
  /-- Registers pending until it lands. -/
  dests : List Reg := []
  /-- Result writes that are known before it lands. -/
  writes : List RegWrite := []
  /-- Registers or tiles it still reads (R332). -/
  reads : List Reg := []
  sb : Option Nat := none
  /-- Access type, atomic code, or element type. -/
  code : Nat := 0
  ord : Nat := 0
  scope : Nat := 0
  hint : Nat := 0
  /-- Tile, scalar or semaphore number. -/
  num : Nat := 0
  /-- Its destination is ZERO, so that poison is only reported (R411). -/
  toZero : Bool := false
  /-- A landing prefetch (R316). -/
  land : Bool := false
  /-- The accumulator range a later MMA may chain to (R337), and the batch. -/
  accBase : Nat := 0
  batch : Nat := 0
  /-- Symbol minted for it (R186). -/
  sym : Nat := 0
  /-- Discards of its acquire have been taken; every read of an MGATH is done. -/
  acquired : Bool := false
  /-- Registers in which a fixed-latency result written in its window prevails (R234). -/
  lost : List Reg := []
  /-- A shadow's: its value comes from the leader (R417). -/
  lv : Bool := false
  /-- Its instruction took the counts of FSTAT across THR, as one of the flight (1) or of its queue (2): trap 0x1A follows when it has landed (R188). -/
  crossed : Nat := 0
  /-- Lanes that die once its results are written (R249). -/
  kills : DWord := 0
  deriving DecidableEq, Repr

/-- A fixed-latency result delivered at clock `ready`, with what its register held before (R234). -/
structure Fixed where
  reg : Reg
  ready : Nat
  pc : Nat
  old : List (Nat × Nat)
  deriving DecidableEq, Repr

/-- What an entry of the residual queue is for R192. -/
inductive MemKind where
  | none
  | load
  | store
  | atomic
  | fence
  deriving DecidableEq, Repr

/-- A poisoned-pending mark on a register lane (R411); scalar registers and tiles use lane 0. -/
structure PMark where
  reg : Reg
  lane : Nat
  pa : Nat
  deriving DecidableEq, Repr

/-- An entry of the residual queue (R190, R191). -/
structure REntry where
  id : Nat
  seq : Nat
  pc : Nat
  cls : Nat
  words : List Word
  /-- The instruction that the words decode to. -/
  ins : Option Instr
  mem : MemKind
  /-- Captured registers, masks and index registers. -/
  v : NMap Word
  s : NMap DWord
  p : NMap DWord
  x : NMap Word
  exm : DWord
  dead : DWord
  sym : Nat
  marks : List PMark
  /-- Registers it waits for. -/
  waits : List Reg
  /-- Tiles it reads (R332). -/
  tiles : List Reg
  /-- Head of its chain. -/
  chain : Reg
  dests : List Reg
  sb : Option Nat
  /-- 4-byte granules its lanes name, when its address is known (R192). -/
  granules : Option (List Nat)
  /-- ORD acquire or acq-rel. -/
  acq : Bool
  /-- A landing prefetch (R316). -/
  land : Bool
  deriving DecidableEq, Repr

/-- A refused lane waiting to raise trap 0x18 with CAUSE 2 (R412). -/
structure Refused where
  lane : Nat
  pa : Nat
  pc : Nat
  deriving DecidableEq, Repr

/-- The clause in progress (R222, R223): words of its instructions not yet issued, already fetched (R63). -/
structure Clause where
  cls : Nat
  words : List Word
  left : Nat
  chk : Bool
  def_ : Bool
  deriving DecidableEq, Repr

/-- The reconvergence stack (R346). -/
inductive StackEntry where
  | reconv (mask : DWord)
  | pending (mask : DWord) (pc : Nat)
  | regroup
  deriving DecidableEq, Repr

/-- A block of spilled stack entries, oldest first; its bytes in memory are the free values from `key` (R373, R374). -/
structure SpillBlock where
  entries : List StackEntry
  key : Nat
  deriving DecidableEq, Repr

/-- The recorded region (R407, R408). -/
structure Region where
  start : Nat
  exm : DWord
  depth : Nat
  valid : Bool
  deriving DecidableEq, Repr

/-- How a trap stands: waiting for its run, handled by a run (the handler's flight), or left stopped by a run (R402). -/
inductive TrapPhase where
  | raised
  | running (h : Nat)
  | held
  deriving DecidableEq, Repr

/-- A trap that holds a flight: its frame s0 to s7 (R404), and the order in which traps were raised (R402). -/
structure TrapRec where
  frame : List DWord
  phase : TrapPhase
  /-- The clock in which it was raised (R402). -/
  order : Nat
  deriving DecidableEq, Repr

/-- The debug port's hold on a flight (R424). -/
inductive PortHold where
  | free
  | asked
  | stopped
  deriving DecidableEq, Repr

/-- A wait in which a flight is parked (R428): its kind, since when, the place, what it watches (workgroup, semaphore or word, threshold
or mask or batch), and whether what it waits for has happened, with the Before sets and the mark it then found. -/
structure Wait where
  kind : Nat
  since : Nat := 0
  pc : Nat := 0
  wg : Nat := 0
  num : Nat := 0
  val : Nat := 0
  woken : Bool := false
  before : List Nat := []
  mark : Option Nat := none
  deriving DecidableEq, Repr

/-- Where a flight stands with the scheduler (R391): active since a clock, pending and ready since a clock, or not ready, and whether it has aged. -/
inductive Place where
  | active (since : Nat)
  | pending (since : Option Nat) (aged : Bool)
  | evicted (order : Nat)
  | ended
  deriving DecidableEq, Repr

/-- A barrier instance a flight has arrived at (R324): complete when `done`, with the Before sets it acquires (R165). -/
structure ArrivedAt where
  scope : Nat
  num : Nat
  inst : Nat
  done : Bool
  before : List Nat
  deriving DecidableEq, Repr

/-- A write on its way (R140): in the write queue, or in a die's transit set. -/
structure Wr where
  id : Nat
  flight : Nat
  seq : Nat
  op : Nat
  acc : Access
  core : Nat
  tenant : Nat
  /-- Release scope, 0 for a relaxed write, and its Before set (R149). -/
  rel : Nat
  before : List Nat
  hint : Nat
  /-- It stands in the waiting list of its home (R80, R46). -/
  queued : Bool
  /-- Address space and host function of its launch. -/
  asid : Nat
  fn : Nat
  /-- Sectors of its line that the lanes of its store together cover (R8, R80). -/
  full : BitVec 4 := 0
  deriving DecidableEq, Repr

/-- A translation result delivered to a flight by a walk (R61). -/
structure WalkResult where
  frame : Nat
  /-- Fault cause of Table 03-6, 0 for none, and the level where the walk ended. -/
  cause : Nat
  level : Nat
  /-- PA[47:16] of the frame and permissions AT, PRIV, EX, WR, RD as bits 6 to 2 of the entry. -/
  pfn : Nat
  perm : Nat
  /-- Size of the page that the translation used: 16, 21 or 30. -/
  shift : Nat := 16
  deriving DecidableEq, Repr

/-- What a regrouped flight takes back at RGJOIN (R352, R353), with its registers as they stood, for lanes that did not move. -/
structure HomeState where
  exm : DWord
  dead : DWord
  exited : DWord
  s : NMap DWord
  fmode : DWord
  counts : NMap (BitVec 2)
  v : NMap Word
  x : NMap Word
  p : NMap DWord
  stoch : NMap Word
  marks : List PMark
  deriving DecidableEq, Repr

/-- What kind of flight (R365, R400, R416). -/
inductive FKind where
  | leader
  | shadow (leader : Nat)
  | handler (of_ : Nat)
  deriving DecidableEq, Repr

/-- A value handed from a leader to its shadow (R417). -/
structure LoadValue where
  seq : Nat
  writes : List RegWrite
  marks : List PMark
  deriving DecidableEq, Repr

/-- A flight (R170, R365). Maps: `v` key 64·register+lane, default 0; `s`, `p` default 0; `x` key 64·register+lane, default 0; `tiles` key
1632·tile+byte, default 0; `shapes` default 0; `counts` and `snap` default 3 (unlimited); `tokens` default 0; `stoch` key lane,
default the lane number (R209). -/
structure Flight where
  id : Nat
  kind : FKind := .leader
  launch : Nat := 0
  wg : Nat := 0
  fidx : Nat := 0
  core : Nat := 0
  part : Nat := 0
  nVregs : Nat := 8
  nTiles : Nat := 0
  priv : Bool := false
  chkAll : Bool := false
  v : NMap Word := []
  s : NMap DWord := []
  p : NMap DWord := []
  x : NMap Word := []
  tiles : NMap Byte := []
  shapes : NMap Word := []
  exm : DWord := BitVec.allOnes 64
  dead : DWord := 0
  exited : DWord := 0
  fmode : DWord := 1
  fstat : DWord := 0
  symNext : BitVec 13 := 16
  symLimit : BitVec 12 := 4095
  rgnc : Word := 1
  counts : NMap (BitVec 2) := []
  snap : NMap (BitVec 2) := []
  slots : List Nat := []
  region : Region := { start := 0, exm := BitVec.allOnes 64, depth := 0, valid := true }
  pc : Nat := 0
  clause : Option Clause := none
  stack : List StackEntry := []
  /-- Blocks in the spill area, in the order they were written (R373). -/
  spilled : List SpillBlock := []
  tokens : NMap Nat := []
  batch : Nat := 0
  stoch : NMap Word := []
  residual : List REntry := []
  /-- A refused 33rd or 9th entry waits for the queue to empty (R195): cause, head, length, occupancy. -/
  capTrap : Option (Nat × Reg × Nat × Nat) := none
  ops : List Op := []
  fixed : List Fixed := []
  wq : List Wr := []
  /-- Writes observed (R149), each with the place in program order of the first observation. -/
  obs : List (Nat × Nat) := []
  marks : List PMark := []
  refused : List Refused := []
  step : Bool := false
  trap : Option TrapRec := none
  port : PortHold := .free
  place : Place := .active 0
  /-- Chosen for eviction (R395). -/
  leaving : Bool := false
  wait : Option Wait := none
  /-- Pending registers the flight waits for outside deferral (R391). -/
  blocked : List Reg := []
  nextIssue : Nat := 0
  /-- Clock of its last issue, plus 1; 0 before it has issued (R392). -/
  lastIssue : Nat := 0
  seq : Nat := 0
  arrivals : List ArrivedAt := []
  walkRes : List WalkResult := []
  lvq : List LoadValue := []
  home : Option HomeState := none
  /-- Home flight and home lane of each lane of a regrouped flight: key lane, value 64·flight index+lane. -/
  homeLane : NMap Nat := []
  /-- In a regrouped stretch (R351). -/
  regrouped : Bool := false
  /-- Flights that a handler run has resumed (R402). -/
  resumed : List Nat := []
  /-- A store or atomic held on a shadow mismatch (R420). -/
  heldInstr : Bool := false
  deriving DecidableEq, Repr

/-- A semaphore register (R104, R136, R164): default value 0, no mark, nothing to acquire. `before` is what a satisfied wait acquires, `last`
the Before set of the operation that gave the value, which a SEMRD observes. -/
structure Sem where
  val : Word
  mark : Option Nat
  before : List Nat
  last : List Nat := []
  deriving DecidableEq, Repr

/-- Where a workgroup stands in a BRGP gather (R351): the place, and the flights that have arrived. -/
structure Gather where
  pc : Nat
  arrived : List Nat
  deriving DecidableEq, Repr

/-- A workgroup (R362, R370). `mem` and the writer map of its allocation default to 0; `sems` to an untouched register; `rels` is the order of
writes to a 128-byte line of the allocation, as in `MemSys`. -/
structure Workgroup where
  id : Nat
  launch : Nat := 0
  d : Nat := 0
  c : Nat := 0
  w : Nat := 0
  s : Nat := 0
  core : Nat := 0
  size : Nat := 0
  tag : Nat := 0
  mem : List Host.Cell := []
  writer : NMap Nat := []
  rels : NMap (List Nat) := []
  nsem : Nat := 0
  sems : NMap Sem := []
  /-- Ring entries the engine has taken, PUB as last seen, entries as they stood at a release publish by ring index (R116), and what ring
  bytes held before their last write. -/
  taken : Nat := 0
  pubSeen : Nat := 0
  /-- Entries that PUB covered when the last flight executed EXIT and the engine has not taken (R119); none before that. -/
  owed : Option Nat := none
  ringSnap : List (Nat × List Byte) := []
  oldRing : List Host.Cell := []
  /-- Commands completed, and completed with another status than DONE (Table 06-1). -/
  cmdsDone : Nat := 0
  errs : Nat := 0
  /-- Index of the latest command completed, with the algorithm and register that a CHAIN continues (R126). -/
  lastSum : Option (Nat × Option (Bool × Nat)) := none
  gather : Option Gather := none
  rejoin : List Nat := []
  placed : Nat := 0
  deriving DecidableEq, Repr

/-- How a launch goes on (R387, R406). -/
inductive LPhase where
  | running
  | ending (why : Nat) (frame : List DWord)
  | edges (i : Nat)
  | retiring
  deriving DecidableEq, Repr

/-- A launch (R362 to R372). -/
structure Launch where
  id : Nat
  recd : List DWord := []
  va : Nat := 0
  queue : Nat := 0
  asid : Nat := 0
  tenant : Nat := 0
  priv : Bool := false
  /-- Logical die bound to each grid die, and logical cluster bound to each grid cluster: key 4·d+c (R363). -/
  dies : NMap Nat := []
  clusters : NMap Nat := []
  nextTuple : Nat := 0
  admitted : Nat := 0
  zr : List Nat := []
  phase : LPhase := .running
  /-- Bytes as they stood at admission where memory has been written since (R227). -/
  oldCode : List Host.Cell := []
  deriving DecidableEq, Repr

/-- A head launch of a queue (R383). -/
structure Head where
  queue : Nat
  recd : List DWord
  va : Nat
  wait : Option (Nat × Word)
  deriving DecidableEq, Repr

/-- A barrier instance that is open (R323, R324). `key` is the workgroup, cluster, die or 0 that its scope gives. -/
structure Barrier where
  inst : Nat
  launch : Nat
  scope : Nat
  stage : Nat
  key : Nat
  num : Nat
  count : Option Nat
  arrived : List Nat
  before : List Nat
  core : Nat
  deriving DecidableEq, Repr

/-- A copy of a tier line at an L1 or a far-line slice (R93, R86): valid sectors, read-only mark, generation, bytes and their writers
(offsets 0 to 127, default 0). -/
structure LineCopy where
  /-- Core of an L1 line, or die of a far-line copy. -/
  unit : Nat
  line : Nat
  valid : BitVec 4
  ro : Bool
  gen : Nat
  /-- Replacement class of R97: 0 normal, 1 next victim, 3 kept longest. -/
  hint : Nat
  bytes : NMap Byte
  wids : NMap Nat
  /-- Core that last received the line for a read-only request, plus 1; 0 for none (R83). -/
  reader : Nat
  deriving DecidableEq, Repr

/-- A request waiting at a home (R80, R46). A read keeps the FGEN of its die when it was sent (R88). -/
inductive HomeReq where
  | read (f op lane gen : Nat)
  | write (d w : Nat) (drained : Bool)
  | atomic (f op lane : Nat)
  | flush (f op lane : Nat) (drop : Bool)
  deriving DecidableEq, Repr

/-- A line at its home slice (R79). -/
structure L2Line where
  line : Nat
  valid : BitVec 4
  dirty : BitVec 4
  /-- Poison marks of the valid sectors, as in `MemSys.poison`. -/
  pois : BitVec 4
  bytes : NMap Byte
  filling : Bool
  /-- What the memory device's read for the pending fill found in each sector; clean where it says nothing (R9, R10). -/
  finds : List EccFinding := []
  waiting : List HomeReq
  /-- Copy command that owns it (R156). -/
  owner : Option Nat
  reader : Nat
  deriving DecidableEq, Repr

/-- States of a decoded block (Table 02-11); an absent block is not listed. -/
inductive BState where
  | fill
  | clean
  | dirty
  /-- Encoding: code lines still to write, and whether the block then stays CLEAN (ZFLUSH). -/
  | enc (flush : Bool)
  deriving DecidableEq, Repr

/-- A decoded block at its home slice (R46). -/
structure Block where
  asid : Nat
  zr : Nat
  blk : Nat
  st : BState
  elems : List Nat
  wids : NMap Nat
  pois : Option Nat
  /-- Elements stored since the poisoned fill. -/
  stored : List Nat
  /-- Error bound of its code (R42). -/
  bound : Word
  waiting : List HomeReq
  /-- Code bytes still to be written, as (address, byte). -/
  todo : List Host.Cell
  deriving DecidableEq, Repr

/-- A TLB entry (R58): `part` 6 is the core TLB. `shift` 16, 21 or 30. -/
structure TlbEntry where
  core : Nat
  part : Nat
  asid : Nat
  shift : Nat
  vpn : Nat
  pfn : Nat
  perm : Nat
  deriving DecidableEq, Repr

/-- A walk-cache entry (R58): level 4 is the address-space entry; `target` is the table it points to, `src` the address it was read at. -/
structure WalkEntry where
  die : Nat
  asid : Nat
  level : Nat
  idx : Nat
  target : Nat
  src : Nat
  deriving DecidableEq, Repr

/-- A miss entry of a core (R58, R61): the flights and copy commands that wait for the frame, and whether a request of the die stands for it. -/
structure Miss where
  core : Nat
  asid : Nat
  frame : Nat
  who : List Nat
  sent : Bool
  deriving DecidableEq, Repr

/-- An entry of a die's walk request table (R61), oldest first. -/
structure WalkReq where
  die : Nat
  asid : Nat
  frame : Nat
  deriving DecidableEq, Repr

/-- Who asked for a shootdown (R64, R70, R72, R433). -/
inductive ShootOwner where
  | software
  | mgmt
  | ats (fn : Nat)
  deriving DecidableEq, Repr

/-- A shootdown in progress (R64). -/
structure Shoot where
  kind : Nat
  asid : Nat
  first : Nat
  count : Nat
  pend : BitVec 8
  owner : ShootOwner
  deriving DecidableEq, Repr

/-- Phases of a copy command (R117, R128 to R135). -/
inductive CPhase where
  | taken
  | running
  /-- Rejected or faulted: only its completion is left. -/
  | finishing
  deriving DecidableEq, Repr

/-- One destination of a command: a window of a global destination (R130), or one target of a local one with its owner tag and core; the
bytes still to be written as (address, stream offset), in stream order. -/
structure CDest where
  space : Space
  tag : Nat
  core : Nat
  todo : List (Nat × Nat)
  deriving DecidableEq, Repr

/-- A copy command that an engine has taken (R117). -/
structure Cmd where
  id : Nat
  core : Nat
  wg : Nat
  launch : Nat
  seq : Nat
  words : List DWord
  pblock : List DWord
  phase : CPhase := .taken
  /-- Where its rows start (R122), and its key. -/
  rowsAt : List Nat := []
  destAt : List Nat := []
  key : BitVec 256 := 0
  /-- Checksum register that a CHAIN continues (R126). -/
  chain0 : Nat := 0
  /-- Translated frames of the destination and of the source: VA frame to PA frame. -/
  frames : NMap Nat := []
  srcFrames : NMap Nat := []
  /-- Size of the page of each frame translated: key VA frame, default 16; and the walks delivered to it. -/
  shifts : NMap Nat := []
  walkRes : List WalkResult := []
  /-- Source bytes read so far by stream offset, sectors read, and poisoned stream bytes. -/
  src : NMap Byte := []
  srcDone : List Nat := []
  srcPois : List Nat := []
  dests : List CDest := []
  owned : List Nat := []
  /-- Lines still to be owned in this window, ascending. -/
  toOwn : List Nat := []
  /-- Chunk bits set. -/
  chunks : List Nat := []
  st : Nat := 0
  cause : Nat := 0
  /-- ADDR: faulting VA, lowest poisoned sector, first dropped write. -/
  fault : Option Nat := none
  poisAt : Option Nat := none
  dropAt : Option Nat := none
  dropt : Bool := false
  deriving DecidableEq, Repr

/-- A report (R448): the words that the ring's counter does not fill. -/
structure Report where
  kind : Nat
  die : Nat
  core : Nat
  /-- Launch words 1 and 2. -/
  w1 : DWord
  w2 : DWord
  p : List DWord
  frame : List DWord
  deriving DecidableEq, Repr

/-- A management command in progress (R449, R70, R72). -/
structure Mgmt where
  op : Nat
  args : List DWord
  phase : Nat
  slot : Nat
  deriving DecidableEq, Repr

/-- A posted write of a host function (R432). -/
structure HostWr where
  fn : Nat
  pa : Nat
  bytes : List Byte
  deriving DecidableEq, Repr

/-- A matrix array (R393): end of its last MMA's array time, awake. -/
structure MArray where
  busyTo : Nat
  awake : Bool
  deriving DecidableEq, Repr

/-- A request to wake an idle array (R393). -/
structure WakeReq where
  core : Nat
  part : Nat
  since : Nat
  deriving DecidableEq, Repr

/-- What a partition issued in a clock (R392): the flights, and whether a vector and another class have issued. -/
structure IssueSlot where
  clock : Nat
  flights : List Nat
  vec : Bool
  other : Bool
  deriving DecidableEq, Repr

/-- A key slot (R439). -/
structure KeySlot where
  slot : Nat
  tenant : Nat
  key : BitVec 256
  deriving DecidableEq, Repr

/-- Who released with a write, and at which scope (R154). -/
structure RelInfo where
  id : Nat
  scope : Nat
  wg : Nat
  core : Nat
  deriving DecidableEq, Repr

/-- Memory and its views (Table 07-1). `bytes` covers tiers, host and peer memory; an unlisted byte reads 0. `writer` is the last
write applied at the home of a byte, default 0: none that is still known. -/
structure MemSys where
  bytes : List Host.Cell
  poison : List Nat
  ce : NMap Nat
  writer : NMap Nat
  before : NMap (List Nat)
  /-- Writes applied to a line at its home or system point, in their order, from the first release on (R154): key line, or the key of a
  view line; and who released with each release. -/
  rels : NMap (List Nat)
  relOf : List RelInfo
  l2 : List L2Line
  far : List LineCopy
  fgen : NMap Nat
  l1 : List LineCopy
  /-- Peer predictor: key 256·core+entry, value peer core (R83); default invalid. -/
  pred : NMap Nat
  /-- Transit sets: key die. -/
  transit : List (Nat × Wr)
  blocks : List Block
  /-- Lines being cleaned for an ARS commit or FLCFG change need no state of their own. -/
  hostPosted : List HostWr
  deriving DecidableEq, Repr

/-- Translation stores (R58, R61, R64, R433). -/
structure TransSys where
  tlb : List TlbEntry
  wcache : List WalkEntry
  misses : List Miss
  walks : List WalkReq
  /-- Core whose miss a full table of a die took last, plus 1 (R61): key die, default 0. Flights whose access a core with no miss entry left holds. -/
  walkTurn : NMap Nat
  heldMiss : List Nat
  shoots : List Shoot
  /-- Functions with ATS enabled, and cached completions as (function, page, host page). -/
  atsOn : List Nat
  ats : List (Nat × Nat × Nat)
  deriving DecidableEq, Repr

/-- Device registers and what the gallery die holds. `regs`: key offset of Table 18-10, listed where it differs from its reset value. -/
structure Device where
  regs : NMap DWord
  /-- Committed address-range table: key 2n+word, default 0 (R14, R15). -/
  ars : NMap DWord
  arsBusy : Bool
  /-- Launch that validated a Z-region entry: key 16·ASID+n (R30). -/
  zrOwner : NMap Nat
  badList : List DWord
  badSeq : Nat
  withheld : List Nat
  sec : Nat
  rollback : Nat
  /-- Firmware images: bytes of image, public key and signature, and version (R437). -/
  images : List (List Byte × List Byte × List Byte × Nat)
  running : List (BitVec 512)
  dbg : Nat
  tokSerial : DWord
  keys : List KeySlot
  repSeq : Nat
  repQueue : List Report
  repHeld : List (Nat × Report)
  msix : List Nat
  telSeq : NMap Nat
  telLast : Nat
  mgmt : Option Mgmt
  dieRst : List Nat
  portDown : List Nat
  /-- Lines of host and peer memory that answer the device with an error: an input (R433, R435). -/
  outerBad : List Nat
  /-- Next expected flit of each port and channel: key 4·port+vc (R434). -/
  flits : NMap Nat
  idleSince : Nat
  /-- TBCFG values written and not yet in force: key 16·die+n (R90). -/
  tbNext : NMap DWord
  lastRefill : Nat
  /-- FLWAYS of a die before the change in progress (R86). -/
  flWas : NMap Nat
  /-- What the last HOST_READ, PEER_ACCESS or DEBUG_READ answered: status 0 ok, 1 unsupported or error, and the bytes. -/
  answer : Nat × List Byte
  deriving DecidableEq, Repr

/-- Queues, placement and issue (R381 to R397). -/
structure Sched where
  heads : List Head
  /-- Copies made by LNCH: (queue, ring index) and the record with its address (R384). -/
  copies : List ((Nat × Nat) × (List DWord × Nat))
  /-- The queue whose turn it is, plus 1, and the admissions it has had in it (R388): key 8·processor+priority, default (0, 0). -/
  turn : NMap (Nat × Nat)
  /-- Owner-tag counters: key core, default 0 (R102). -/
  tags : NMap Nat
  /-- Bucket counts: key 16·core+tenant, as integers; listed where a count is in force (R90). -/
  buckets : NMap Int
  /-- Parked flights of a bucket, in order. -/
  parked : List Nat
  /-- Matrix arrays: key 6·core+partition. -/
  arrays : NMap MArray
  wakeReqs : List WakeReq
  lastWake : NMap Nat
  slots : NMap IssueSlot
  /-- Order counters of traps, evictions, placements. -/
  order : Nat
  /-- Wakes delayed by pacing since the last sample: key die. -/
  delayed : NMap Nat
  /-- Workgroup whose ring an engine took from last (R117): key core. -/
  ringTurn : NMap Nat
  deriving DecidableEq, Repr

/-- The device. The first six fields are the model's own: the agenda, the flight that the next issue is for and the instruction it decoded,
the clock, the counter of free values, and the next fresh handle. -/
structure State where
  agenda : List Choice
  cur : Nat
  ins : Option Instr
  clock : Nat
  freeCtr : Nat
  nextId : Nat
  flights : List Flight
  wgs : List Workgroup
  launches : List Launch
  cmds : List Cmd
  barriers : List Barrier
  mem : MemSys
  tr : TransSys
  dev : Device
  sched : Sched
  deriving DecidableEq, Repr

/-- After module reset (R170, R14, R365 and the reset columns of the register tables; logs 2 to 8): nothing resident, registers
at their reset values, memory with nothing listed. -/
def State.reset : State where
  agenda := []
  cur := 0
  ins := none
  clock := 0
  freeCtr := 0
  nextId := 1
  flights := []
  wgs := []
  launches := []
  cmds := []
  barriers := []
  mem :=
    { bytes := [], poison := [], ce := [], writer := [], before := [], rels := [], relOf := [], l2 := [], far := [], fgen := [], l1 := [], pred := [],
      transit := [], blocks := [], hostPosted := [] }
  tr := { tlb := [], wcache := [], misses := [], walks := [], walkTurn := [], heldMiss := [], shoots := [], atsOn := [], ats := [] }
  dev :=
    { regs := [], ars := [], arsBusy := false, zrOwner := [], badList := [], badSeq := 0, withheld := [], sec := 0, rollback := 0,
      images := [], running := [], dbg := 0, tokSerial := 0, keys := [], repSeq := 0, repQueue := [], repHeld := [], msix := [],
      telSeq := [], telLast := 0, mgmt := none, dieRst := [], portDown := [], outerBad := [], flits := [], idleSince := 0,
      tbNext := [], lastRefill := 0, flWas := [], answer := (0, []) }
  sched :=
    { heads := [], copies := [], turn := [], tags := [], buckets := [], parked := [], arrays := [], wakeReqs := [], lastWake := [],
      slots := [], order := 0, delayed := [], ringTurn := [] }

end Sys2Proof.Machine
end

