-- ==== Sys2Proof/Machine/Ops.lean ====
section
/-! DEFINITION. The named operations over maps, bytes, flights, registers and traps. Taking a trap (R398 to R406) is `raiseTrap`, and
the return from one `resumeFlight`. -/

namespace Sys2Proof.Machine

/-! ### Maps, lists and bits -/

/-- The value at key `k` of a sparse map with default `d`. -/
def mget (d : α) : NMap α → Nat → α
  | [], _ => d
  | (k', a) :: r, k => if k' = k then a else mget d r k

/-- A value put at key `k` of a map, before the greater keys. -/
def mput : NMap α → Nat → α → NMap α
  | [], k, a => [(k, a)]
  | (k', b) :: r, k, a =>
    if k < k' then (k, a) :: (k', b) :: r else if k = k' then (k, a) :: r else (k', b) :: mput r k a

/-- A sparse map with `k` set to `a`: keys stay rising and the default is not listed. -/
def mset [DecidableEq α] (d : α) (m : NMap α) (k : Nat) (a : α) : NMap α :=
  if a = d then m.filter fun p => decide (p.1 ≠ k) else mput m k a

/-- Whether keys rise and no value is the default: the canonical form of a sparse map. -/
def mwf [DecidableEq α] (d : α) : NMap α → Bool
  | [] => true
  | (_, a) :: [] => decide (a ≠ d)
  | (k, a) :: (k', b) :: r => decide (a ≠ d) && decide (k < k') && mwf d ((k', b) :: r)

/-- Several writes in order. -/
def msets [DecidableEq α] (d : α) (m : NMap α) (l : List (Nat × α)) : NMap α := l.foldl (fun m p => mset d m p.1 p.2) m

/-- Entries of `m` whose keys lie in [lo, lo + n), with keys counted from `lo`. -/
def mslice (m : NMap α) (lo n : Nat) : NMap α :=
  (m.filter fun p => decide (lo ≤ p.1 ∧ p.1 < lo + n)).map fun p => (p.1 - lo, p.2)

/-- `m` with the keys [lo, lo + n) cleared. -/
def mclear (m : NMap α) (lo n : Nat) : NMap α := m.filter fun p => decide (p.1 < lo ∨ lo + n ≤ p.1)

/-- The entry of `l` whose key function gives `k`. -/
def findBy (key : α → Nat) (l : List α) (k : Nat) : Option α := l.find? fun a => decide (key a = k)

/-- `l` with the entry of key `k` replaced. -/
def replBy (key : α → Nat) (l : List α) (k : Nat) (a : α) : List α := l.map fun b => if key b = k then a else b

/-- Bits [lo + n - 1 : lo] of a number. -/
def nbits (w lo n : Nat) : Nat := (w >>> lo) % 2 ^ n

/-- Bits [lo + n - 1 : lo] of a word. -/
def fld (w : BitVec k) (lo n : Nat) : Nat := nbits w.toNat lo n

/-- `w` with bits [lo + n - 1 : lo] set to the low bits of `x`. -/
def setFld (w : BitVec k) (lo n x : Nat) : BitVec k :=
  BitVec.ofNat k (w.toNat - (nbits w.toNat lo n) * 2 ^ lo + (x % 2 ^ n) * 2 ^ lo)

/-- A number of `w` bits read as two's complement. -/
def sgn (w x : Nat) : Int := if x < 2 ^ (w - 1) then (x : Int) else (x : Int) - (2 ^ w : Nat)

/-- An integer as a number of `w` bits, two's complement. -/
def wrapInt (w : Nat) (x : Int) : Nat := (x % (2 ^ w : Nat)).toNat

/-- Sign extension from `a` to `b` bits. -/
def sext (a b x : Nat) : Nat := wrapInt b (sgn a (x % 2 ^ a))

/-- Smallest multiple of `m` that is at least `x`. -/
def roundUp (x m : Nat) : Nat := (x + m - 1) / m * m

/-- `n` bytes of a number, least significant first. -/
def leBytes : Nat → Nat → List Byte
  | 0, _ => []
  | n + 1, x => BitVec.ofNat 8 x :: leBytes n (x / 256)

/-- The number whose bytes, least significant first, are given. -/
def ofLe : List Byte → Nat
  | [] => 0
  | b :: r => b.toNat + 256 * ofLe r

/-- Lane numbers. -/
def lanes : List Nat := List.range 64

/-- Lanes whose bit is set, ascending. -/
def lanesOf (m : DWord) : List Nat := lanes.filter fun l => m.getLsbD l

/-- The mask of a list of lanes. -/
def maskOf (l : List Nat) : DWord := BitVec.ofNat 64 (l.foldl (fun a i => a ||| 2 ^ i) 0)

/-- A list sorted by a key, equal keys in the order they had. -/
def insertBy (key : α → Nat) (a : α) : List α → List α
  | [] => [a]
  | b :: r => if key a < key b then a :: b :: r else b :: insertBy key a r

/-- Stable sort by a key. -/
def sortBy (key : α → Nat) (l : List α) : List α := l.foldl (fun acc a => insertBy key a acc) []

/-- First occurrences only. -/
def dedup [DecidableEq α] (l : List α) : List α := (l.foldl (fun acc a => if a ∈ acc then acc else a :: acc) []).reverse

/-- A list with a fixed number of entries folded over with its index. -/
def enum (l : List α) : List (Nat × α) := (List.range l.length).zip l

/-! ### Memory bytes -/

/-- What an unlisted byte reads as (log 3). -/
def blankByte : Byte := 0

/-- A byte of memory cells. -/
def cellGet (m : List Host.Cell) (a : Nat) : Byte := mget blankByte m a

/-- A byte of memory cells written. -/
def cellSet (m : List Host.Cell) (a : Nat) (b : Byte) : List Host.Cell := mset blankByte m a b

/-- Memory cells in canonical form: addresses strictly rising, none equal to what an unlisted address reads as. -/
abbrev Memory.wf (m : List Host.Cell) : Prop := mwf blankByte m = true

/-- `n` bytes from `a`, as a number, least significant byte first. -/
def cellsGet (m : List Host.Cell) (a n : Nat) : Nat := ofLe ((List.range n).map fun i => cellGet m (a + i))

/-- Bytes written from `a`. -/
def cellsPut (m : List Host.Cell) (a : Nat) : List Byte → List Host.Cell
  | [] => m
  | b :: r => cellsPut (cellSet m a b) (a + 1) r

/-! ### Flights, workgroups, launches, commands -/

def State.flight? (s : State) (f : Nat) : Option Flight := findBy Flight.id s.flights f
def State.setFlight (s : State) (f : Flight) : State := { s with flights := replBy Flight.id s.flights f.id f }
/-- A flight changed, when it exists. -/
def State.updFlight (s : State) (f : Nat) (g : Flight → Flight) : State :=
  match s.flight? f with
  | some x => s.setFlight (g x)
  | none => s
def State.wg? (s : State) (w : Nat) : Option Workgroup := findBy Workgroup.id s.wgs w
def State.setWg (s : State) (w : Workgroup) : State := { s with wgs := replBy Workgroup.id s.wgs w.id w }
def State.updWg (s : State) (w : Nat) (g : Workgroup → Workgroup) : State :=
  match s.wg? w with
  | some x => s.setWg (g x)
  | none => s
def State.launch? (s : State) (l : Nat) : Option Launch := findBy Launch.id s.launches l
def State.setLaunch (s : State) (l : Launch) : State := { s with launches := replBy Launch.id s.launches l.id l }
def State.cmd? (s : State) (c : Nat) : Option Cmd := findBy Cmd.id s.cmds c
def State.setCmd (s : State) (c : Cmd) : State := { s with cmds := replBy Cmd.id s.cmds c.id c }

/-- A fresh handle. -/
def State.fresh (s : State) : Nat × State := (s.nextId, { s with nextId := s.nextId + 1 })

/-- A free value (log 2). -/
def State.free (s : State) : Nat × State := (Config.freeNat s.freeCtr, { s with freeCtr := s.freeCtr + 1 })

/-- Word `n` of a launch's record copy (R366). -/
def Launch.word (l : Launch) (n : Nat) : DWord := l.recd.getD n 0

def recField (r : List DWord) (w lo n : Nat) : Nat := fld (r.getD w 0) lo n

/-- Extents and fields of a launch record (Tables 15-1, 15-2). -/
def recNdie (r : List DWord) : Nat := recField r 1 0 4
def recNcl (r : List DWord) : Nat := recField r 1 4 4
def recNwg (r : List DWord) : Nat := recField r 1 8 16
def recNstg (r : List DWord) : Nat := recField r 1 24 4
def recNfl (r : List DWord) : Nat := recField r 1 28 6
def recVregs (r : List DWord) : Nat := recField r 1 34 9
def recNtiles (r : List DWord) : Nat := recField r 1 43 5
def recLmem (r : List DWord) : Nat := recField r 2 0 20
def recNsem (r : List DWord) : Nat := recField r 2 20 9
def recPersist (r : List DWord) : Bool := recField r 2 32 1 = 1
def recDeferOk (r : List DWord) : Bool := recField r 2 33 1 = 1
def recShadow (r : List DWord) : Bool := recField r 2 34 1 = 1
def recChk (r : List DWord) : Bool := recField r 2 35 1 = 1
def recPriv (r : List DWord) : Bool := recField r 2 36 1 = 1
def recAfb (r : List DWord) : Nat := recField r 2 40 8
def recSymLimit (r : List DWord) : Nat := recField r 2 48 12
def recCring (r : List DWord) : Nat := recField r 3 0 19
def recCrlen (r : List DWord) : Nat := recField r 3 19 9
def recCnotify (r : List DWord) : Nat := recField r 3 28 19
def recCthr (r : List DWord) : Nat := recField r 4 0 32
def recPrio (r : List DWord) : Nat := recField r 4 32 3
def recQueue (r : List DWord) : Nat := recField r 4 40 8
def recTenant (r : List DWord) : Nat := recField r 4 48 4
def recSpill (r : List DWord) : Nat := recField r 5 0 48
def recSdepth (r : List DWord) : Nat := recField r 5 48 16
def recSave (r : List DWord) : Nat := recField r 6 0 48
def recEdges (r : List DWord) : Nat := recField r 7 0 48
def recNedge (r : List DWord) : Nat := recField r 7 48 8
def recZset (r : List DWord) : Nat := recField r 8 0 48
def recZmask (r : List DWord) : Nat := recField r 8 48 16
def recSlot (r : List DWord) (n : Nat) : DWord := r.getD (16 + n) 0

/-- The launch, record and workgroup of a flight; an absent one reads as an empty one. -/
def State.launchOf (s : State) (f : Flight) : Launch := (s.launch? f.launch).getD { id := 0 }
def State.recOf (s : State) (f : Flight) : List DWord := (s.launchOf f).recd
def State.wgOf (s : State) (f : Flight) : Workgroup := (s.wg? f.wg).getD { id := 0 }

/-- Flights of a workgroup that are not handler runs or shadows, in index order. -/
def State.wgFlights (s : State) (w : Nat) : List Flight :=
  sortBy Flight.fidx (s.flights.filter fun f => decide (f.wg = w) && (match f.kind with | .leader => true | _ => false))

def Flight.isEnded (f : Flight) : Bool := match f.place with | .ended => true | _ => false
def Flight.isEvicted (f : Flight) : Bool := match f.place with | .evicted _ => true | _ => false
def Flight.isActive (f : Flight) : Bool := match f.place with | .active _ => true | _ => false
def Flight.isHandler (f : Flight) : Bool := match f.kind with | .handler _ => true | _ => false
def Flight.isShadow (f : Flight) : Bool := match f.kind with | .shadow _ => true | _ => false
/-- Lanes that are neither dead nor exited (R249, R355). -/
def Flight.live (f : Flight) : DWord := ~~~(f.dead ||| f.exited)

/-- The other flight of a shadow pair (R416). -/
def State.partner (s : State) (f : Flight) : Option Flight :=
  match f.kind with
  | .shadow l => s.flight? l
  | .leader => s.flights.find? fun g => match g.kind with | .shadow l => decide (l = f.id) | _ => false
  | .handler _ => none

/-- Compute die and cluster of a logical core (R379). -/
def dieOf (core : Nat) : Nat := core / 16
def clusterOf (core : Nat) : Nat := core / 4

/-! ### Device registers -/

def regOff : Nat := 0xF00000000000
/-- Reset values of Table 18-10's registers that are not zero. -/
def regReset (off : Nat) : DWord :=
  if off = 0x100 then 0x40000
  else if off = 0x108 then 0x79
  else if off = 0x110 then 0x1010
  else if off = 0x200 then 0x8
  else if off = 0x300 then 0xC
  else if 0x100000 ≤ off ∧ off < 0x180000 ∧ off % 0x10000 = 8 then 0x100008101401
  else 0
/-- What register `off` holds. -/
def State.reg (s : State) (off : Nat) : DWord := ((findBy Prod.fst s.dev.regs off).map Prod.snd).getD (regReset off)
/-- Register `off` set; values equal to the reset value are not listed. -/
def State.setReg (s : State) (off : Nat) (v : DWord) : State :=
  { s with dev := { s.dev with regs := mset (regReset off) s.dev.regs off v } }

/-! ### Reports -/

def launchWords (l : Option Launch) : DWord × DWord :=
  match l with
  | none => (0, 0)
  | some l => (BitVec.ofNat 64 (1 + l.asid * 2 ^ 24 + l.tenant * 2 ^ 36 + l.queue * 2 ^ 40), BitVec.ofNat 64 l.va)

/-- A report goes to the gallery die (R447, R448). -/
def State.report (s : State) (kind die core : Nat) (l : Option Launch) (p : List Nat) (frame : List DWord) : State :=
  let (w1, w2) := launchWords l
  { s with dev := { s.dev with repQueue := s.dev.repQueue ++
      [{ kind, die, core, w1, w2, p := p.map (BitVec.ofNat 64), frame }] } }

/-- A report about a flight. -/
def State.reportFlight (s : State) (f : Flight) (kind : Nat) (p : List Nat) (frame : List DWord) : State :=
  s.report kind (dieOf f.core) f.core (s.launch? f.launch) p frame

/-! ### Registers of a flight -/

def Flight.rdV (f : Flight) (n l : Nat) : Word := mget 0 f.v (64 * n + l)
def Flight.rdS (f : Flight) (n : Nat) : DWord := mget 0 f.s n
def Flight.rdP (f : Flight) (n : Nat) : DWord := mget 0 f.p n
def Flight.rdX (f : Flight) (n l : Nat) : Word := mget 0 f.x (64 * n + l)
def Flight.rdTile (f : Flight) (t b : Nat) : Byte := mget 0 f.tiles (1632 * t + b)
def Flight.shape (f : Flight) (t : Nat) : Word := mget 0 f.shapes t
def Flight.count (f : Flight) (n : Nat) : BitVec 2 := mget 3#2 f.counts n
/-- Stochastic state of lane `l` (R209). -/
def Flight.rng (f : Flight) (l : Nat) : Word := mget (BitVec.ofNat 32 l) f.stoch l
def Flight.setRng (f : Flight) (l : Nat) (w : Word) : Flight := { f with stoch := mset (BitVec.ofNat 32 l) f.stoch l w }

/-- A mark is cleared by a write to its lane (R411). -/
def Flight.unmark (f : Flight) (r : Reg) (lane : Nat) : Flight :=
  { f with marks := f.marks.filter fun m => !(decide (m.reg = r) && decide (m.lane = lane)) }
/-- All marks of a register cleared (R181). -/
def Flight.unmarkAll (f : Flight) (r : Reg) : Flight := { f with marks := f.marks.filter fun m => !decide (m.reg = r) }
/-- A poisoned-pending mark, keeping the lowest address (R411). -/
def Flight.mark (f : Flight) (r : Reg) (lane pa : Nat) : Flight :=
  match f.marks.find? fun m => decide (m.reg = r) && decide (m.lane = lane) with
  | some m => if m.pa ≤ pa then f else { (f.unmark r lane) with marks := f.marks.filter (fun m => !(decide (m.reg = r) && decide (m.lane = lane))) ++ [⟨r, lane, pa⟩] }
  | none => { f with marks := f.marks ++ [⟨r, lane, pa⟩] }

def Flight.wrV (f : Flight) (n l : Nat) (w : Word) : Flight := { (f.unmark (.v n) l) with v := mset 0 f.v (64 * n + l) w }
def Flight.wrS (f : Flight) (n : Nat) (w : DWord) : Flight := { (f.unmark (.s n) 0) with s := mset 0 f.s n w }
def Flight.wrP (f : Flight) (n : Nat) (w : DWord) : Flight := { f with p := mset 0 f.p n w }
def Flight.wrX (f : Flight) (n l : Nat) (w : Word) : Flight := { f with x := mset 0 f.x (64 * n + l) w }
def Flight.wrTile (f : Flight) (t b : Nat) (w : Byte) : Flight := { (f.unmark (.tile t) 0) with tiles := mset 0 f.tiles (1632 * t + b) w }
def Flight.setShape (f : Flight) (t : Nat) (w : Word) : Flight := { f with shapes := mset 0 f.shapes t w }
/-- Count state set; a register released frees its landing slot (R177, R179). -/
def Flight.setCount (f : Flight) (n : Nat) (c : BitVec 2) : Flight :=
  { f with counts := mset 3#2 f.counts n c, slots := if c = 0#2 then f.slots.filter (· ≠ n) else f.slots }
/-- A register receives a landing slot when one of the 64 is free (R179). -/
def Flight.giveSlot (f : Flight) (n : Nat) : Flight :=
  if n ∈ f.slots then f else if f.slots.length < 64 then { f with slots := f.slots ++ [n] } else f

/-- One result write of an operation. -/
def Flight.regWrite (f : Flight) (w : RegWrite) : Flight :=
  match w.reg with
  | .v n => f.wrV n (w.key % 64) (BitVec.ofNat 32 w.val)
  | .s n => f.wrS n (BitVec.ofNat 64 w.val)
  | .p n =>
    if w.key % 128 < 64 then f.wrP n (setFld (f.rdP n) (w.key % 128) 1 w.val) else f.wrP n (BitVec.ofNat 64 w.val)
  | .x n => f.wrX n (w.key % 64) (BitVec.ofNat 32 w.val)
  | .exm => { f with exm := BitVec.ofNat 64 w.val }
  | .tile t => f.wrTile t (w.key % 1632) (BitVec.ofNat 8 w.val)

/-- Home flight and lane of a lane, as 64·index+lane (R352). -/
def Flight.homeOf (f : Flight) (l : Nat) : Nat := if f.regrouped then mget 0 f.homeLane l else 64 * (f.fidx % 32) + l

def Flight.token (f : Flight) (k : Nat) : Nat := mget 0 f.tokens k
def Flight.addToken (f : Flight) (k : Nat) : Flight := { f with tokens := mset 0 f.tokens k (f.token k + 1) }
def Flight.subToken (f : Flight) (k : Nat) : Flight := { f with tokens := mset 0 f.tokens k (f.token k - 1) }
def Flight.subTokenOpt (f : Flight) (k : Option Nat) : Flight := match k with | some k => f.subToken k | none => f

/-- Registers pending: destinations of outstanding operations and of residual entries (R189). -/
def Flight.pendingRegs (f : Flight) : List Reg := f.ops.flatMap Op.dests ++ f.residual.flatMap REntry.dests
def Flight.isPending (f : Flight) (r : Reg) : Bool := decide (r ∈ f.pendingRegs)

def Flight.op? (f : Flight) (o : Nat) : Option Op := findBy Op.id f.ops o
def Flight.setOp (f : Flight) (o : Op) : Flight := { f with ops := replBy Op.id f.ops o.id o }
/-- An operation is done: its token falls (R235). -/
def Flight.endOp (f : Flight) (o : Op) : Flight :=
  { (f.subTokenOpt o.sb) with ops := f.ops.filter fun x => decide (x.id ≠ o.id) }

/-- An operation joins the outstanding ones. -/
def State.addOp (s : State) (f : Nat) (mk : Nat → Op) : State :=
  let id := s.nextId
  ({ s with nextId := id + 1 }).updFlight f fun x => { x with ops := x.ops ++ [mk id] }

/-! ### Place in the program -/

/-- Address of the header after the clause in progress. -/
def Flight.nextHeader (f : Flight) : Nat := match f.clause with | some c => (f.pc + 4 * c.words.length) % 2 ^ 48 | none => f.pc

/-- The flight moves past an instruction of `k` words (R222). -/
def Flight.advance (f : Flight) (k : Nat) : Flight :=
  match f.clause with
  | some c =>
    { f with pc := (f.pc + 4 * k) % 2 ^ 48, seq := f.seq + 1,
             clause := if c.left ≤ 1 then none else some { c with words := c.words.drop k, left := c.left - 1 } }
  | none => { f with seq := f.seq + 1 }

/-- The flight continues at the header at `pc`; a place that is no canonical address faults when it is fetched (R54, R63). -/
def Flight.jump (f : Flight) (pc : Nat) : Flight := { f with pc := pc % 2 ^ 64, clause := none }

/-- Whether the instruction to issue is the last of its clause. -/
def Flight.isLast (f : Flight) : Bool := match f.clause with | some c => decide (c.left ≤ 1) | none => true

/-! ### Scheduler places -/

/-- A flight leaves the active set: its landing slots are freed (R391, R179), its fixed-latency results are delivered (R234). One whose residual queue
is not empty stays (R196). -/
def Flight.leaveActive (f : Flight) : Flight :=
  match f.place, f.residual with
  | .active _, [] => { f with place := .pending none false, slots := [], fixed := [] }
  | _, _ => f

/-- A flight parks in a wait (R428): it leaves the active set, unless its queue holds it there (R196); a wait that goes on keeps its
start. -/
def Flight.park (f : Flight) (w : Wait) (clock : Nat) : Flight :=
  let f := f.leaveActive
  match f.wait with
  | some v => if v.kind = w.kind ∧ v.pc = f.pc then f else { f with wait := some { w with since := clock, pc := f.pc } }
  | none => { f with wait := some { w with since := clock, pc := f.pc } }

/-- The wait a flight stands in at its instruction, if of the kind. -/
def Flight.waiting (f : Flight) (kind : Nat) : Option Wait :=
  match f.wait with
  | some w => if w.kind = kind ∧ w.pc = f.pc then some w else none
  | none => none

/-- A parked flight's wait has ended. -/
def Flight.wake (f : Flight) : Flight := { f with wait := f.wait.map fun w => { w with woken := true } }

/-! ### Stack -/

/-- Depth of the reconvergence stack, spilled entries included (R373). -/
def Flight.depth (f : Flight) : Nat := f.stack.length + (f.spilled.map fun b => b.entries.length).sum

/-- Lanes removed from every mask on the stack (R346, R355, R360). -/
def StackEntry.less (m : DWord) : StackEntry → StackEntry
  | .reconv a => .reconv (a &&& ~~~m)
  | .pending a pc => .pending (a &&& ~~~m) pc
  | .regroup => .regroup

def Flight.stackLess (f : Flight) (m : DWord) : Flight :=
  { f with stack := f.stack.map (StackEntry.less m), spilled := f.spilled.map fun b => { b with entries := b.entries.map (StackEntry.less m) } }

/-! ### Traps -/

/-- What Table 17-4 fills for a trap. -/
structure TrapInfo where
  code : Nat
  cause : Nat := 0
  info : Nat := 0
  mask : DWord := 0
  addr : Nat := 0
  aux : Nat := 0
  xtra : Nat := 0
  /-- PC of the trapping instruction, where it is not the flight's PC. -/
  pc : Option Nat := none
  restart : Bool := false
  held : Bool := false
  deriving DecidableEq, Repr

/-- The frame s0 to s7 (R404, Tables 17-2 and 17-3). The flight's PC is the resume point; a fault inside a residual chain resumes at the
instruction that raised it (R194, R405). -/
def trapFrame (f : Flight) (t : TrapInfo) : List DWord :=
  let b (x : Bool) (i : Nat) : Nat := if x then 2 ^ i else 0
  [ BitVec.ofNat 64 (t.code + (f.fidx % 32) * 2 ^ 21 + b f.isShadow 26 + b t.restart 27 + b f.region.valid 28 + b t.held 29
      + (t.cause % 256) * 2 ^ 40 + (t.info % 256) * 2 ^ 48),
    BitVec.ofNat 64 ((t.pc.getD f.pc) % 2 ^ 48),
    BitVec.ofNat 64 ((if t.restart ∧ t.code ≠ 0x1A then t.pc.getD f.pc else f.pc) % 2 ^ 48),
    BitVec.ofNat 64 (f.region.start % 2 ^ 48),
    BitVec.ofNat 64 (f.rgnc.toNat + (t.xtra % 2 ^ 32) * 2 ^ 32),
    t.mask,
    BitVec.ofNat 64 t.addr,
    BitVec.ofNat 64 t.aux ]

/-- A launch is ended (R406): its flights stop issuing and lose their outstanding results, performed writes and taken commands go on,
and completion follows. Reasons: 1 trap, 2 double fault, 3 save-area fault (Table 18-14). -/
def State.endLaunch (s : State) (l why : Nat) (frame : List DWord) : State :=
  match s.launch? l with
  | none => s
  | some x =>
    match x.phase with
    | .running =>
      let s := s.setLaunch { x with phase := .ending why frame }
      { s with flights := s.flights.map fun f =>
          if f.launch = l then
            { f with place := .ended, ops := f.ops.filter fun o => o.dests.isEmpty || decide (o.kind = .atomic), residual := [], fixed := [], trap := none, port := .free, wait := none, clause := none }
          else f }
    | _ => s

/-- Loads and their like that a stop waits for (R424). -/
def Op.stopWaits (o : Op) : Bool :=
  match o.kind with
  | .load | .tileLoad | .mgath | .semRd | .zerr | .azld => true
  | .atomic => !o.toZero
  | _ => false

/-- Whether a stop of the flight can complete: its queue is empty, results have landed, fixed-latency results are delivered (R196, R424). -/
def Flight.mayStop (f : Flight) (clock : Nat) : Bool :=
  f.residual.isEmpty && !f.ops.any Op.stopWaits && f.fixed.all fun r => decide (r.ready ≤ clock)

/-- Whether trap 0x1A is to come once results have been written, before the next instruction issues (R188). -/
def Flight.crossing (f : Flight) : Bool := f.ops.any fun o => decide (o.crossed ≠ 0)
/-- Whether the flight is parked by its tenant's bucket (R92). -/
def Flight.bucketParked (f : Flight) : Bool := match f.wait with | some w => decide (w.kind = 8) && !w.woken | none => false

/-- The flight of the handled flight's view: whether a trap of `f` stops it for the port (R426). -/
def State.portTakes (s : State) (f : Flight) (code : Nat) : Bool :=
  (decide (code = 0x21) || decide (code = 0x22)) && decide (s.dev.dbg = 2) && !f.isHandler

/-- A trap is raised at flight `id` (R398, R401, R426): a handler's trap ends the launch; otherwise the flight stops with its frame. -/
def State.raiseTrap (s : State) (id : Nat) (t : TrapInfo) : State :=
  match s.flight? id with
  | none => s
  | some f =>
    let frame := trapFrame f t
    if f.isHandler then s.endLaunch f.launch 2 frame
    else if s.portTakes f t.code then
      s.setFlight { (f.leaveActive) with port := if f.mayStop s.clock then .stopped else .asked, wait := none, walkRes := [] }
    else
      let f := { f.leaveActive with trap := some ⟨frame, .raised, s.clock⟩, heldInstr := t.held, walkRes := [] }
      let f := if t.code = 0x31 then f else { f with wait := none }
      let s := s.setFlight f
      /- A mismatch is raised in both flights of the pair (R420). -/
      match if t.code = 0x19 then s.partner f else none with
      | some g => s.setFlight { g.leaveActive with trap := some (g.trap.getD ⟨trapFrame g { t with held := false }, .raised, s.clock⟩), wait := none }
      | none => s

/-- Whether a trap or the port holds the flight or its pair (R402, R419). -/
def State.isHeld (s : State) (f : Flight) : Bool :=
  let own (g : Flight) : Bool := g.trap.isSome || (match g.port with | .stopped => true | _ => false)
  own f || (match s.partner f with | some g => own g | none => false)

/-- A region restart (R409): the count states come back, landing slots and the residual queue go, EXM and the stack depth are those
of the region's start. -/
def dropSpill (n : Nat) : List SpillBlock → List SpillBlock
  | [] => []
  | b :: r =>
    if n = 0 then [] else if b.entries.length ≤ n then b :: dropSpill (n - b.entries.length) r else [{ b with entries := b.entries.take n }]

def Flight.restartRegion (f : Flight) : Flight :=
  let below := (f.spilled.map fun b => b.entries.length).sum
  let depth := f.region.depth
  { f with
    counts := f.snap, slots := [],
    tokens := f.residual.foldl (fun t e => match e.sb with | some k => mset 0 t k (mget 0 t k - 1) | none => t) f.tokens,
    residual := [], capTrap := none, wait := none, walkRes := [], heldInstr := false,
    exm := f.region.exm &&& f.live,
    stack := f.stack.drop (f.stack.length - (depth - below)),
    spilled := if depth < below then dropSpill depth f.spilled else f.spilled,
    pc := f.region.start, clause := none }

/-- Resumption of a stopped flight (R359, R405): MOD 0 at its resume point, or from its region when RESTART is set; MOD 1 from its
region; MOD 2 at a header. -/
def Flight.resume (f : Flight) (mode pc : Nat) : Flight :=
  let restart := match f.trap with | some t => (t.frame.getD 0 0).getLsbD 27 | none => false
  /- A gather still reading for an instruction that has not issued reads anew. -/
  let f := { f with trap := none, ops := f.ops.filter fun o => !(decide (o.kind = .mgath) && decide (o.hint = 0)) }
  match mode with
  | 0 => if restart then f.restartRegion else f
  | 1 => f.restartRegion
  | _ => { (f.jump pc) with wait := none }

/-- The return from a trap, as a state change. -/
def State.resumeFlight (s : State) (id mode pc : Nat) : State := s.updFlight id fun f => f.resume mode pc

/-- A region loses its validity (R408). -/
def Flight.endRegion (f : Flight) : Flight := { f with region := { f.region with valid := false } }

/-- Region entry at a header (R180, R407). -/
def Flight.enterRegion (f : Flight) : Flight :=
  { f with rgnc := f.rgnc + 1, snap := f.counts, region := ⟨f.pc, f.exm, f.depth, true⟩ }

/-- Lanes die (R360). -/
def Flight.killLanes (f : Flight) (m : DWord) : Flight :=
  { (f.stackLess m) with dead := f.dead ||| m, exm := f.exm &&& ~~~m }

end Sys2Proof.Machine
end

