-- ==== Sys2Proof/Machine/Number.lean ====
section
/-! DEFINITION. Numbers to the last bit: the formats (R197, R200 to R204), exact values, and Round (R206 to R209). A finite value is an
integer times a power of two; a result that is not one carries a mark that a positive amount below one unit of its last place is left
over. -/

namespace Sys2Proof.Machine

/-! ### Flags (Table 08-10) and categories (R127) -/

def fINV : Nat := 1
def fDZ : Nat := 2
def fOVF : Nat := 4
def fUNF : Nat := 8
def fINX : Nat := 16

/-- How an output element is counted (R127). -/
inductive Cat where
  | none
  | nan
  | sat
  | ftz
  deriving DecidableEq, Repr

/-- A rounded result: its bits, the flags it raises, its category. -/
structure RRes where
  bits : Nat
  flags : Nat := 0
  cat : Cat := .none
  deriving DecidableEq, Repr

/-! ### Formats -/

/-- A floating-point format: width, precision with the hidden bit, bias, the largest finite magnitude `maxM`·2^`maxE` with its code,
whether it has infinities, and the NaN it produces (Tables 09-1 and 09-2). -/
structure Fmt where
  w : Nat
  p : Nat
  bias : Nat
  maxM : Nat
  maxE : Int
  maxCode : Nat
  inf : Option Nat
  nan : Nat
  deriving DecidableEq, Repr

def fp64 : Fmt := ⟨64, 53, 1023, 2 ^ 53 - 1, 971, 0x7FEFFFFFFFFFFFFF, some 0x7FF0000000000000, 0x7FF8000000000000⟩
def fp32 : Fmt := ⟨32, 24, 127, 2 ^ 24 - 1, 104, 0x7F7FFFFF, some 0x7F800000, 0x7FC00000⟩
def fp16 : Fmt := ⟨16, 11, 15, 2 ^ 11 - 1, 5, 0x7BFF, some 0x7C00, 0x7E00⟩
def bf16 : Fmt := ⟨16, 8, 127, 2 ^ 8 - 1, 120, 0x7F7F, some 0x7F80, 0x7FC0⟩
def e4m3 : Fmt := ⟨8, 4, 7, 14, 5, 0x7E, none, 0x7F⟩
def e5m2 : Fmt := ⟨8, 3, 15, 7, 13, 0x7B, some 0x7C, 0x7E⟩

/-- Smallest normal exponent, and the exponent of the last place below it. -/
def Fmt.emin (F : Fmt) : Int := 1 - (F.bias : Int)
def Fmt.qmin (F : Fmt) : Int := F.emin - ((F.p : Int) - 1)

/-- What a code means. -/
inductive FVal where
  | nan (signalling : Bool)
  | inf (neg : Bool)
  | num (neg : Bool) (m : Nat) (e : Int)
  deriving DecidableEq, Repr

/-- The value of a code (R197, R200). -/
def Fmt.decode (F : Fmt) (x : Nat) : FVal :=
  let mb := F.p - 1
  let x := x % 2 ^ F.w
  let neg := decide (2 ^ (F.w - 1) ≤ x)
  let mag := x % 2 ^ (F.w - 1)
  let ex := mag >>> mb
  let ma := mag % 2 ^ mb
  match F.inf with
  | none => if mag = 2 ^ (F.w - 1) - 1 then .nan false
    else if ex = 0 then .num neg ma F.qmin else .num neg (ma + 2 ^ mb) (F.qmin + (ex : Int) - 1)
  | some i =>
    if mag = i then .inf neg
    else if i < mag then .nan (decide (ma < 2 ^ (mb - 1)))
    else if ex = 0 then .num neg ma F.qmin else .num neg (ma + 2 ^ mb) (F.qmin + (ex : Int) - 1)

/-- A code's value where signalling NaNs matter: E5M2, like the IEEE formats, has a signalling NaN where the leading significand bit is 0
(R198, R200; DEDUCED, log 23). -/
def Fmt.decodeQ (F : Fmt) (x : Nat) : FVal := F.decode x

/-- Whether a code is subnormal. -/
def Fmt.isSub (F : Fmt) (x : Nat) : Bool := decide (0 < x % 2 ^ (F.w - 1) ∧ x % 2 ^ (F.w - 1) < 2 ^ (F.p - 1))

/-- A code read with subnormals as zeros when `daz` is set (R199). -/
def Fmt.read (F : Fmt) (daz : Bool) (x : Nat) : FVal :=
  match F.decodeQ x with
  | .num neg m e => if daz && F.isSub x then .num neg 0 F.qmin else .num neg m e
  | v => v

/-! ### Exact values -/

/-- The real (−1)^neg · (m + θ)·2^e with 0 < θ < 1 when `sticky`, θ = 0 otherwise. -/
structure Ex where
  neg : Bool
  m : Nat
  e : Int
  sticky : Bool := false
  deriving DecidableEq, Repr

/-- A dyadic rational: integer times power of two. -/
structure Dy where
  i : Int
  e : Int
  deriving DecidableEq, Repr

/-- `m`·2^`k` for `k` ≥ 0. -/
def shl (m : Nat) (k : Int) : Nat := m * 2 ^ k.toNat

def Dy.ofNum (neg : Bool) (m : Nat) (e : Int) : Dy := ⟨if neg then -(m : Int) else m, e⟩
def Dy.zero : Dy := ⟨0, 0⟩
def Dy.add (a b : Dy) : Dy :=
  let e := min a.e b.e
  ⟨a.i * (2 ^ (a.e - e).toNat : Nat) + b.i * (2 ^ (b.e - e).toNat : Nat), e⟩
def Dy.neg (a : Dy) : Dy := ⟨-a.i, a.e⟩
def Dy.sub (a b : Dy) : Dy := a.add b.neg
def Dy.mul (a b : Dy) : Dy := ⟨a.i * b.i, a.e + b.e⟩
def Dy.abs (a : Dy) : Dy := ⟨a.i.natAbs, a.e⟩
def Dy.lt (a b : Dy) : Bool := decide ((a.sub b).i < 0)
def Dy.le (a b : Dy) : Bool := decide ((a.sub b).i ≤ 0)
def Dy.eq (a b : Dy) : Bool := decide ((a.sub b).i = 0)
def Dy.isZero (a : Dy) : Bool := decide (a.i = 0)
def Dy.sum (l : List Dy) : Dy := l.foldl Dy.add Dy.zero
/-- Half of a dyadic. -/
def Dy.half (a : Dy) : Dy := ⟨a.i, a.e - 1⟩
/-- As an exact value to be rounded; `negZero` is the sign of an exact zero. -/
def Dy.toEx (a : Dy) (negZero : Bool) : Ex := ⟨if a.i = 0 then negZero else decide (a.i < 0), a.i.natAbs, a.e, false⟩

/-- floor(√n), bit by bit. -/
def isqrtAux (n : Nat) : Nat → Nat → Nat
  | 0, r => r
  | i + 1, r => let t := r + 2 ^ i; isqrtAux n i (if t * t ≤ n then t else r)
def isqrt (n : Nat) : Nat := isqrtAux n (n.log2 / 2 + 1) 0

/-- Bits of a quotient or root that are formed before its left-over mark. -/
def workBits : Nat := 96

/-- |a| ÷ |b| for nonzero `mb`, with at least `workBits` bits. -/
def exDiv (neg : Bool) (ma : Nat) (ea : Int) (mb : Nat) (eb : Int) : Ex :=
  let s := workBits + mb.log2
  let q := (ma * 2 ^ s) / mb
  ⟨neg, q, ea - eb - s, decide ((ma * 2 ^ s) % mb ≠ 0)⟩

/-- √(m·2^e). -/
def exSqrt (m : Nat) (e : Int) : Ex :=
  let odd := e % 2 ≠ 0
  let m' := (if odd then 2 * m else m) * 4 ^ workBits
  let e' := if odd then e - 1 else e
  let r := isqrt m'
  ⟨false, r, e' / 2 - workBits, decide (r * r ≠ m')⟩

/-- 1/√(m·2^e) for nonzero `m`. -/
def exRsqrt (m : Nat) (e : Int) : Ex :=
  let odd := e % 2 ≠ 0
  let m' := if odd then 2 * m else m
  let e' := if odd then e - 1 else e
  let k := workBits + m'.log2
  let x := 4 ^ k
  let r := isqrt (x / m')
  ⟨false, r, -(k : Int) - e' / 2, decide (r * r * m' ≠ x)⟩

/-! ### Rounding -/

/-- Whether the neighbour of larger magnitude is taken (Table 09-6), for a magnitude that lies `r`/2^`sh` (and a left-over amount) of a
spacing above the lower neighbour; `oddLo` and `oddHi` are bit 0 of the neighbours' encodings; `draw` is state[31:8] of the draw. -/
def chooseUp (rm : Nat) (neg : Bool) (r den : Nat) (sticky oddLo oddHi : Bool) (draw : Nat) : Bool :=
  match rm with
  | 2 => false
  | 3 => !neg
  | 4 => neg
  | 5 => decide (den ≤ 2 * r)
  | 6 =>
    if neg then
      let n := 2 ^ 24 * (den - r)
      let thr := if sticky && decide (n % den = 0) then n / den - 1 else n / den
      !decide (draw < thr)
    else decide (draw < 2 ^ 24 * r / den)
  | 7 => oddHi
  | _ => decide (den < 2 * r) || (decide (2 * r = den) && (sticky || oddLo))

/-- An exact magnitude split at the place 2^q: whole places, and the rest as `r`/`den`. -/
def splitAt (x : Ex) (q : Int) : Nat × Nat × Nat :=
  if q ≤ x.e then (shl x.m (x.e - q), 0, 2) else
    let den := 2 ^ (q - x.e).toNat
    (x.m / den, x.m % den, den)

/-- Overflow (R207): `sat` for the slot policy SATP = 0. -/
def overflow (F : Fmt) (rm : Nat) (sat neg : Bool) (flags : Nat) : RRes :=
  let sign := if neg then 2 ^ (F.w - 1) else 0
  let toInf := !sat && (match rm with | 2 => false | 7 => false | 3 => !neg | 4 => neg | _ => true)
  if toInf then
    match F.inf with
    | some i => ⟨sign + i, flags, .sat⟩
    | none => ⟨F.nan, flags, .nan⟩
  else ⟨sign + F.maxCode, flags, .sat⟩

/-- Round (R206 to R208) to a floating-point format: `flush` when subnormal results flush (R199), `sat` for a slot with SATP = 0. -/
def roundF (F : Fmt) (rm : Nat) (flush sat : Bool) (draw : Nat) (x : Ex) : RRes :=
  let sign := if x.neg then 2 ^ (F.w - 1) else 0
  if x.m = 0 ∧ x.sticky = false then ⟨sign, 0, .none⟩ else
  let top : Int := x.e + (x.m.log2 : Int)
  let q := max (top - ((F.p : Int) - 1)) F.qmin
  let (k, r, den) := splitAt x q
  let inexact := x.sticky || decide (r ≠ 0)
  let k' := if inexact && chooseUp rm x.neg r den x.sticky (k.testBit 0) ((k + 1).testBit 0) draw then k + 1 else k
  if Dy.lt ⟨F.maxM, F.maxE⟩ ⟨k', q⟩ then overflow F rm sat x.neg (fOVF ||| fINX) else
  let tiny := decide (top < F.emin)
  let sub := decide (0 < k') && decide (q = F.qmin) && decide (k' < 2 ^ (F.p - 1))
  if flush && sub then ⟨sign, fUNF ||| fINX, .ftz⟩ else
  let flags := if inexact then (if tiny then fUNF ||| fINX else fINX) else 0
  let (k'', q') := if 2 ^ F.p ≤ k' then (k' / 2, q + 1) else (k', q)
  if k'' < 2 ^ (F.p - 1) then ⟨sign + k'', flags, .none⟩
  else ⟨sign + (((q' - F.qmin).toNat + 1) * 2 ^ (F.p - 1)) + (k'' - 2 ^ (F.p - 1)), flags, .none⟩

/-- Round to an integer, with whether it is inexact. -/
def roundI (rm : Nat) (draw : Nat) (x : Ex) : Int × Bool :=
  let (k, r, den) := splitAt x 0
  let inexact := x.sticky || decide (r ≠ 0)
  let k' := if inexact && chooseUp rm x.neg r den x.sticky (k.testBit 0) ((k + 1).testBit 0) draw then k + 1 else k
  (if x.neg then -(k' : Int) else k', inexact)

/-- An integer into a two's-complement or unsigned integer format of `w` bits (R207, R210, R293). -/
def fitInt (w : Nat) (signed : Bool) (i : Int) (inexact : Bool) : RRes :=
  let lo : Int := if signed then -(2 ^ (w - 1) : Nat) else 0
  let hi : Int := if signed then (2 ^ (w - 1) : Nat) - 1 else (2 ^ w : Nat) - 1
  if i < lo then ⟨wrapInt w lo, fINV, .sat⟩
  else if hi < i then ⟨wrapInt w hi, fINV, .sat⟩
  else ⟨wrapInt w i, if inexact then fINX else 0, .none⟩

/-! ### Block-4 (R202) -/

/-- Magnitudes of codes 0 to 7 of a sign-magnitude type, in units of 2^−6 (Table 09-3): 1 E2M1, 2 POW2, 3 HYB. -/
def b4Mags : Nat → List Nat
  | 1 => [0, 32, 64, 96, 128, 192, 256, 384]
  | 2 => [0, 1, 2, 4, 8, 16, 32, 64]
  | _ => [0, 16, 32, 48, 64, 96, 128, 192]

/-- Value of a block-4 code of type `t`: sign, magnitude in units of 2^−6. -/
def b4Decode (t code : Nat) : Bool × Nat :=
  if t = 0 then (if code < 8 then (false, 64 * code) else (true, 64 * (16 - code)))
  else (decide (8 ≤ code), (b4Mags t).getD (code % 8) 0)

/-- Codes of one sign with their magnitudes, ascending. -/
def b4Side (t : Nat) (neg : Bool) : List (Nat × Nat) :=
  if t = 0 then (if neg then (0, 0) :: (List.range 8).map (fun i => (64 * (i + 1), 15 - i)) else (List.range 8).map fun i => (64 * i, i))
  else (List.range 8).map fun i => ((b4Mags t).getD i 0, if neg && decide (i ≠ 0) then i + 8 else i)

/-- Round to a block-4 code of type `t`; beyond the largest value the largest of that sign is taken (R207). -/
def roundB4 (t rm draw : Nat) (x : Ex) : RRes :=
  if x.m = 0 ∧ x.sticky = false then ⟨0, 0, .none⟩ else
  let side := b4Side t x.neg
  let (n, r, den) := splitAt x (-6)
  let exact := !x.sticky && decide (r = 0)
  let lo := (side.filter fun p => decide (p.1 ≤ n)).getLastD (0, 0)
  if exact && decide (lo.1 = n) then ⟨lo.2, 0, .none⟩ else
  match side.find? fun p => decide (n < p.1) with
  | none => ⟨(side.getLastD (0, 0)).2, fOVF ||| fINX, .sat⟩
  | some hi =>
    let num := (n - lo.1) * den + r
    let dd := (hi.1 - lo.1) * den
    let code := if chooseUp rm x.neg num dd x.sticky (lo.2.testBit 0) (hi.2.testBit 0) draw then hi.2 else lo.2
    ⟨code, fINX, .none⟩

/-! ### Stochastic generator (R209) -/

def rngStep (s : Nat) : Nat := (s * 1664525 + 1013904223) % 2 ^ 32
/-- State after a draw when the mode draws, and the drawn bits. -/
def draw (rm s : Nat) : Nat × Nat := if rm = 6 then (rngStep s, rngStep s >>> 8) else (s, 0)

/-! ### Format slots (R204, R205) -/

def slotElem (d : DWord) : Nat := fld d 0 4
def slotSkind (d : DWord) : Nat := fld d 10 2
def slotBsize (d : DWord) : Nat := fld d 14 2
def slotDeft (d : DWord) : Nat := fld d 17 2
def slotSatp (d : DWord) : Nat := fld d 19 1
def slotNanp (d : DWord) : Nat := fld d 20 2
def slotFtzo (d : DWord) : Nat := fld d 22 2
/-- Elements of a block: 16, 32, or 0 for none. -/
def slotBlock (d : DWord) : Nat := match slotBsize d with | 1 => 16 | 2 => 32 | _ => 0

/-- The category of an output whose input `x` was read in format `F`: a nonzero value that the reading flushed counts in FTZ where nothing
else counts (R127). -/
def flushedCat (F : Option Fmt) (flush : Bool) (x : Nat) (c : Cat) : Cat :=
  match F, c with
  | some F, .none => if flush && F.isSub x then .ftz else .none
  | _, c => c

def slotOk (d : DWord) : Bool :=
  let e := slotElem d; let k := slotSkind d; let b := slotBsize d
  decide (fld d 24 40 = 0) && decide (fld d 16 1 = 0) && decide (fld d 12 2 = 0) && decide (fld d 4 6 = 0)
  && decide (e ≠ 7) && decide (k ≠ 3) && decide (b ≠ 3) && decide (slotNanp d < 2) && decide (slotFtzo d ≠ 3)
  && decide (k = 2 ↔ e = 6) && decide (k = 2 → b = 2)
  && decide (k = 1 → (e = 4 ∨ e = 5) ∧ (b = 1 ∨ b = 2)) && decide (k = 0 ↔ b = 0)

/-- Flush and keep decisions of a slot over FMODE's bit (R199). -/
def slotFlush (d : DWord) (mode : Bool) : Bool := match slotFtzo d with | 1 => true | 2 => false | _ => mode

def fmtOfElem : Nat → Option Fmt
  | 0 => some fp64
  | 1 => some fp32
  | 2 => some fp16
  | 3 => some bf16
  | 4 => some e4m3
  | 5 => some e5m2
  | _ => none

/-- Width in bits of an element code (Table 09-5). -/
def elemBits : Nat → Nat
  | 0 => 64 | 1 => 32 | 2 => 16 | 3 => 16 | 4 => 8 | 5 => 8 | 6 => 4
  | 8 => 8 | 9 => 16 | 10 => 32 | 11 => 64 | 12 => 8 | 13 => 16 | 14 => 32 | 15 => 64
  | _ => 8

/-! ### Conversions (R210, R211) -/

/-- A floating-point value to a floating-point format: `sat` and `nanZero` are the destination policies. An infinity that no infinity
stands for counts as saturated, whatever R207 then gives (R210). -/
def convF (F : Fmt) (rm : Nat) (flush sat nanZero : Bool) (dr : Nat) (v : FVal) : RRes :=
  match v with
  | .nan sig => ⟨if nanZero then 0 else F.nan, if sig then fINV else 0, .nan⟩
  | .inf neg =>
    if sat then ⟨(if neg then 2 ^ (F.w - 1) else 0) + F.maxCode, 0, .sat⟩
    else match F.inf with
      | some i => ⟨(if neg then 2 ^ (F.w - 1) else 0) + i, 0, .none⟩
      | none => { overflow F rm false neg 0 with cat := .sat }
  | .num neg m e => roundF F rm flush sat dr ⟨neg, m, e, false⟩

/-- A floating-point value to an integer format. -/
def convI (w : Nat) (signed : Bool) (rm dr : Nat) (v : FVal) : RRes :=
  match v with
  | .nan _ => ⟨0, fINV, .nan⟩
  | .inf neg => fitInt w signed (if neg then -(2 ^ 80 : Nat) else (2 ^ 80 : Nat)) false
  | .num neg m e => let (i, x) := roundI rm dr ⟨neg, m, e, false⟩; fitInt w signed i x

/-- A floating-point value to a block-4 code, already divided by its scale. -/
def convB4 (t rm dr : Nat) (v : FVal) : RRes :=
  match v with
  | .nan sig => ⟨0, if sig then fINV else 0, .nan⟩
  | .inf neg => ⟨((b4Side t neg).getLastD (0, 0)).2, 0, .sat⟩
  | .num neg m e => roundB4 t rm dr ⟨neg, m, e, false⟩

/-- Divide by a power of two. -/
def FVal.scale (v : FVal) (k : Int) : FVal := match v with | .num neg m e => .num neg m (e + k) | v => v

/-- Exponent of a scale byte: UE8 (R201) or block-4 (R202); none for the UE8 NaN. -/
def scaleExp (skind s : Nat) : Option Int :=
  if skind = 1 then (if s = 0xFF then none else some ((s : Int) - 127)) else some ((s % 64 : Nat) - 31)

/-- The value of an element code under slot `d` with scale byte `sc` (R201, R202); `daz` is FMODE's bit. -/
def slotRead (d : DWord) (daz : Bool) (sc x : Nat) : FVal :=
  match slotElem d with
  | 6 => let (neg, m) := b4Decode (sc / 64) (x % 16); .num neg m (-6 + ((sc % 64 : Nat) - 31))
  | e =>
    match fmtOfElem e with
    | some F =>
      let v := F.read (slotFlush d daz) x
      if slotSkind d = 1 then (match scaleExp 1 sc with | some k => v.scale k | none => .nan false) else v
    | none =>
      let w := elemBits e
      let i : Int := if e < 12 then sgn w (x % 2 ^ w) else (x % 2 ^ w : Nat)
      .num (decide (i < 0)) i.natAbs 0

/-- One element to the code of slot `d` under scale byte `sc` (one rounding of the exact quotient, R210, R295). -/
def slotWrite (d : DWord) (ftz : Bool) (rm dr sc : Nat) (v : FVal) : RRes :=
  match slotElem d with
  | 6 => convB4 (sc / 64) rm dr (v.scale (-((sc % 64 : Nat) - 31)))
  | e =>
    match fmtOfElem e with
    | some F =>
      let sat := decide (slotSatp d = 0)
      let nz := decide (slotNanp d = 1)
      if slotSkind d = 1 then
        match scaleExp 1 sc with
        | some k => convF F rm (slotFlush d ftz) sat nz dr (v.scale (-k))
        | none => convF F rm false sat nz dr (.nan false)
      else convF F rm (slotFlush d ftz) sat nz dr v
    | none => convI (elemBits e) (decide (e < 12)) rm dr v

/-- Whether an element, once rounded under `rm` (mode 6 away from zero), exceeds the largest magnitude of the element format (R125, R211, R295). -/
def exceeds (d : DWord) (rm : Nat) (k : Int) (v : FVal) : Bool :=
  match v with
  | .num neg m e =>
    if m = 0 then false else
    let x : Ex := ⟨neg, m, e - k, false⟩
    let rm' := if rm = 6 then (if neg then 4 else 3) else rm
    match slotElem d with
    | 6 =>
      Dy.lt ⟨((b4Side (slotDeft d) neg).getLastD (0, 0)).1, -6⟩ ⟨m, e - k⟩
    | el =>
      match fmtOfElem el with
      | some F =>
        let top : Int := x.e + (x.m.log2 : Int)
        let q := max (top - ((F.p : Int) - 1)) F.qmin
        let (n, r, den) := splitAt x q
        let n' := if decide (r ≠ 0) && chooseUp rm' neg r den false (n.testBit 0) ((n + 1).testBit 0) 0 then n + 1 else n
        Dy.lt ⟨F.maxM, F.maxE⟩ ⟨n', q⟩
      | none => false
  | _ => false

/-- The first scale from `s` on, of `n` candidates, under which nothing exceeds; the last when none does. -/
def firstScale (d : DWord) (rm : Nat) (vs : List FVal) : Nat → Nat → Nat
  | 0, s => s
  | n + 1, s =>
    match scaleExp (slotSkind d) s with
    | some k => if vs.any (exceeds d rm k) then firstScale d rm vs n (s + 1) else s
    | none => s

/-- The scale byte of a block (R125, R211). -/
def chooseScale (d : DWord) (rm : Nat) (vs : List FVal) : Nat :=
  let some0 := vs.any fun v => match v with | .num _ m _ => decide (m ≠ 0) | _ => false
  if slotSkind d = 1 then (if some0 then firstScale d rm vs 254 0 else 0)
  else 64 * slotDeft d + (if some0 then firstScale d rm vs 63 0 else 0)

/-! ### Functions (R288), by fixed-point evaluation with wide margins -/

/-- arctan(1/x)·2^P by its series. -/
def atanAux (x2 : Nat) : Nat → Nat → Nat → Int → Int
  | 0, _, _, acc => acc
  | n + 1, t, k, acc => atanAux x2 n (t / x2) (k + 2) (if k % 4 = 1 then acc + (t / k : Nat) else acc - (t / k : Nat))
def atanInv (P x : Nat) : Int := atanAux (x * x) (P / 2) (2 ^ P / x) 1 0
/-- π·2^P. -/
def piFix (P : Nat) : Nat := ((16 * atanInv (P + 16) 5 - 4 * atanInv (P + 16) 239) / 2 ^ 16).toNat

/-- sin of `t`/2^P by its series. -/
def sinAux (P t2 : Nat) : Nat → Nat → Nat → Int → Int
  | 0, _, _, acc => acc
  | n + 1, term, k, acc =>
    sinAux P t2 n (term * t2 / 2 ^ P / ((k + 1) * (k + 2))) (k + 2) (if k % 4 = 1 then acc + (term : Int) else acc - (term : Int))
def sinFix (P t : Nat) : Nat := (sinAux P (t * t / 2 ^ P) 80 t 1 0).toNat

/-- sin(π·r) for the dyadic r = m·2^e in (0, 1/2); it is less than 1 however near r lies to 1/2. -/
def exSinPi (m : Nat) (e : Int) : Ex :=
  let P := 320 + (-(e + (m.log2 : Int))).toNat
  let t := if 0 ≤ e + P then piFix P * shl m (e + P) / 2 ^ P else piFix P * (m / 2 ^ (-(e + P)).toNat) / 2 ^ P
  ⟨false, min (sinFix P t) (2 ^ P - 1), -(P : Int), true⟩

/-- 2^(f/2^B) for 0 ≤ f < 2^B, as a fixed-point number of P bits: square roots of square roots. -/
def exp2Aux (P f : Nat) : Nat → Nat → Nat → Nat
  | 0, _, acc => acc
  | b + 1, root, acc =>
    let root' := isqrt (root * 2 ^ P)
    exp2Aux P f b root' (if f.testBit b then acc * root' / 2 ^ P else acc)

/-- 2^a for a dyadic a that is not an integer. -/
def exExp2 (neg : Bool) (m : Nat) (e : Int) : Ex :=
  let P := 320
  let top : Int := e + (m.log2 : Int)
  if top < -130 then (if neg then ⟨false, 2 ^ 160 - 1, -160, true⟩ else ⟨false, 2 ^ 160, -160, true⟩)
  else
    let i : Int := if neg then -(m : Int) else m
    let b := (-e).toNat
    let n := i / (2 ^ b : Nat)
    let f := (i % (2 ^ b : Nat)).toNat
    ⟨false, exp2Aux P f b (2 ^ (P + 1)) (2 ^ P), n - P, true⟩

/-- Fraction bits of log2 of x/2^P in [1, 2). -/
def log2Aux (P : Nat) : Nat → Nat → Nat → Nat
  | 0, _, acc => acc
  | n + 1, x, acc =>
    let y := x * x / 2 ^ P
    if 2 ^ (P + 1) ≤ y then log2Aux P n (y / 2) (2 * acc + 1) else log2Aux P n y (2 * acc)

/-- log2 of m·2^e, not a power of two. -/
def exLog2 (m : Nat) (e : Int) : Ex :=
  let P := 640
  let B := 256
  let k := m.log2
  let n : Int := e + k
  let F := log2Aux P B (m * 2 ^ (P - k)) 0
  let v : Int := n * (2 ^ B : Nat) + F
  if 0 ≤ v then ⟨false, v.toNat, -(B : Int), true⟩ else ⟨true, (-v - 1).toNat, -(B : Int), true⟩

end Sys2Proof.Machine
end

