-- ==== Sys2Proof/Machine/Flags.lean ====
section
/-! DEFINITION. FMODE and FSTAT (R187, R188): fields, flags, counters, and what a write of them accepts (R296). -/

namespace Sys2Proof.Machine

def Flight.rndMode (f : Flight) : Nat := fld f.fmode 0 3
def Flight.ftz (f : Flight) : Bool := f.fmode.getLsbD 5
def Flight.daz (f : Flight) : Bool := f.fmode.getLsbD 6
def Flight.dstrict (f : Flight) : Bool := f.fmode.getLsbD 7
def Flight.defer (f : Flight) : Bool := f.fmode.getLsbD 8
/-- RM, or FMODE.RND when RM is 0 (R206). -/
def Flight.rm (f : Flight) (rm : Nat) : Nat := if rm = 0 then f.rndMode else rm

/-- Whether a value may be written to FMODE (R187, R296). -/
def fmodeOk (w : DWord) : Bool := decide (fld w 0 3 ≠ 0) && decide (fld w 3 2 = 0) && decide (fld w 9 23 = 0)
/-- Whether a value may be written to FSTAT (R296). -/
def fstatOk (w : DWord) : Bool := decide (fld w 5 11 = 0)

/-- Generators reseeded (R209): lane l gets SEED xor l. -/
def Flight.reseed (f : Flight) : Flight :=
  let seed := BitVec.ofNat 32 (fld f.fmode 32 32)
  lanes.foldl (fun g l => g.setRng l (seed ^^^ BitVec.ofNat 32 l)) f

def fstatSat (w : DWord) : Nat := fld w 28 12
def fstatFtz (w : DWord) : Nat := fld w 40 12
def fstatNan (w : DWord) : Nat := fld w 52 12
def fstatThr (w : DWord) : Nat := fld w 16 12
def fstatSum (w : DWord) : Nat := fstatSat w + fstatFtz w + fstatNan w
def satAdd (a b : Nat) : Nat := min 4095 (a + b)

/-- Counts of output elements by category. -/
structure Counts where
  sat : Nat := 0
  ftz : Nat := 0
  nan : Nat := 0
  deriving DecidableEq, Repr

def Counts.add (c : Counts) : Cat → Counts
  | .none => c
  | .sat => { c with sat := c.sat + 1 }
  | .ftz => { c with ftz := c.ftz + 1 }
  | .nan => { c with nan := c.nan + 1 }

/-- Flags ORed in and counters advanced (R188). -/
def fstatAdd (w : DWord) (flags : Nat) (c : Counts) : DWord :=
  setFld (setFld (setFld (w ||| BitVec.ofNat 64 (flags % 32)) 28 12 (satAdd (fstatSat w) c.sat)) 40 12 (satAdd (fstatFtz w) c.ftz))
    52 12 (satAdd (fstatNan w) c.nan)

/-- Whether the counters cross the threshold (R188). -/
def fstatCross (old new : DWord) : Bool :=
  decide (fstatThr old ≠ 0) && decide (fstatSum old ≤ fstatThr old) && decide (fstatThr old < fstatSum new)

end Sys2Proof.Machine
end

