-- ==== Sys2Proof/Machine/Operands.lean ====
section
/-! DEFINITION. Operand specifiers (Tables 10-16, 10-17), what each operand of an instruction may be, and how it is read
(R171 to R178, R184, R244, R245, R282). -/

namespace Sys2Proof.Machine

/-- The 9-bit specifier of a 7-bit one (Table 10-16); 127 becomes a reserved value. -/
def spec9 (x : Nat) : Nat :=
  if x < 96 then x
  else if x < 112 then x - 96 + 256
  else if x < 116 then x - 112 + 320
  else if x < 127 then x - 116 + 328
  else 511

/-- What a 9-bit specifier names (Table 10-17). -/
inductive OKind where
  | v (n : Nat)
  | s (n : Nat)
  | vx (n : Nat) (post : Bool)
  | zero
  | laneid
  | p (n : Nat)
  | exm
  | a (n : Nat)
  | t (n : Nat)
  | bad
  deriving DecidableEq, Repr

def okind (x : Nat) : OKind :=
  if x < 256 then .v x
  else if x < 320 then .s (x - 256)
  else if x < 324 then .vx (x - 320) false
  else if x < 328 then .vx (x - 324) true
  else if x = 328 then .zero
  else if x = 329 then .laneid
  else if x < 338 then .p (x - 330)
  else if x = 338 then .exm
  else if x < 355 then .a (x - 339)
  else if x < 371 then .t (x - 355)
  else .bad

/-- Kinds without their numbers, for the lists of what a position allows. -/
inductive KTag where
  | v | s | vx | vxp | z | l | p | e | a | t
  deriving DecidableEq, Repr

def OKind.tag : OKind → Option KTag
  | .v _ => some .v
  | .s _ => some .s
  | .vx _ false => some .vx
  | .vx _ true => some .vxp
  | .zero => some .z
  | .laneid => some .l
  | .p _ => some .p
  | .exm => some .e
  | .a _ => some .a
  | .t _ => some .t
  | .bad => none

/-- How an instruction uses an operand. -/
inductive Use where
  | src
  | dst
  | both
  deriving DecidableEq, Repr

/-- One operand: position 0 D, 1 A, 2 B, 3 C; registers it takes and their alignment; whether its registers are a multi-register
operand (R178); whether `v[xn]` names the index register itself (R279). -/
structure Opnd where
  pos : Nat
  spec : Nat
  use : Use
  kinds : List KTag
  regs : Nat := 1
  align : Nat := 1
  multi : Bool := false
  self : Bool := false
  deriving DecidableEq, Repr

/-- Most scalar registers a flight may name (R400). -/
def Flight.nS (f : Flight) : Nat := if f.isHandler then 8 else 64

/-- First vector register of affine register `n` (R184). -/
def affBase (afb n : Nat) : Nat := afb + 16 * n

/-- Whether an operand breaks R233 in a flight with affine base `afb`. -/
def Opnd.bad (f : Flight) (afb : Nat) (o : Opnd) : Bool :=
  match (okind o.spec).tag with
  | none => true
  | some k =>
    if k ∉ o.kinds then true else
    match okind o.spec with
    | .v n => decide (n % o.align ≠ 0) || decide (f.nVregs < n + o.regs)
    | .s n => decide (f.nS ≤ n)
    | .laneid => o.use ≠ .src
    | .a n => decide (f.nVregs < affBase afb n + 16)
    | .t n => decide (f.nTiles ≤ n)
    | _ => false

/-- Fields of an index register (Table 08-2). -/
def xIdx (w : Word) : Nat := fld w 0 8
def xBase (w : Word) : Nat := fld w 8 8
def xBound (w : Word) : Nat := fld w 16 8
def xWrap (w : Word) : Bool := w.getLsbD 24

/-- How `v[xn]` resolves in a lane (R175): the register, or the trap code that fails the lane. -/
def resolve (f : Flight) (n regs lane : Nat) : Except Nat Nat :=
  let x := f.rdX n lane
  let i := xIdx x
  let go (i : Nat) : Except Nat Nat :=
    let r := xBase x + i
    if f.nVregs ≤ r || (decide (1 < regs) && (decide (r % 2 ≠ 0) || decide (f.nVregs < r + regs))) then .error 0x02 else .ok r
  if i < xBound x then go i
  else if xWrap x && decide (xBound x ≠ 0) then go (i % xBound x)
  else .error 0x06

/-- The register an operand names in a lane, `v[xn]` resolved. -/
def regAt (f : Flight) (spec regs lane : Nat) : Nat :=
  match okind spec with
  | .v n => n
  | .vx n _ => match resolve f n regs lane with | .ok r => r | .error _ => 0
  | _ => 0

/-- Post-increment (R175), once per index register. -/
def postInc (x : Word) : Word :=
  let i := xIdx x
  if xWrap x then
    let i := if xBound x ≤ i ∧ xBound x ≠ 0 then i % xBound x else i
    setFld x 0 8 ((i + 1) % (if xBound x = 0 then 256 else xBound x))
  else setFld x 0 8 ((i + 1) % 256)

/-- Lanes of EXM whose `v[xn]` operand fails with `code`. -/
def Opnd.failLanes (f : Flight) (code : Nat) (o : Opnd) : List Nat :=
  match okind o.spec with
  | .vx n _ => if o.self then [] else (lanesOf f.exm).filter fun l => match resolve f n o.regs l with | .error c => decide (c = code) | .ok _ => false
  | _ => []

/-- Vector registers an operand touches, in ascending order. -/
def Opnd.vregs (f : Flight) (afb : Nat) (o : Opnd) : List Nat :=
  match okind o.spec with
  | .v n => (List.range o.regs).map (n + ·)
  | .vx n _ =>
    if o.self then [] else
    dedup ((lanesOf f.exm).flatMap fun l => match resolve f n o.regs l with | .ok r => (List.range o.regs).map (r + ·) | .error _ => [])
  | .a n => (List.range 16).map (affBase afb n + ·)
  | _ => []

/-- Registers an operand touches (R189, R234). -/
def Opnd.regList (f : Flight) (afb : Nat) (o : Opnd) : List Reg :=
  let vs := (o.vregs f afb).map Reg.v
  match okind o.spec with
  | .s n => [.s n]
  | .p n => [.p n]
  | .vx n _ => .x n :: vs
  | .t n => [.tile n]
  | _ => vs

/-- Whether the operand's registers are written. -/
def Opnd.writes (o : Opnd) : Bool := o.use ≠ .src
def Opnd.reads (o : Opnd) : Bool := o.use ≠ .dst

/-- Registers the operand writes (an index operand's own index register is not one). -/
def Opnd.destList (f : Flight) (afb : Nat) (o : Opnd) : List Reg :=
  if o.writes then
    match okind o.spec with
    | .vx n _ => if o.self then [.x n] else (o.vregs f afb).map Reg.v
    | _ => o.regList f afb
  else []

/-- A 32·`regs`-bit value of vector registers from `n` in a lane (R173). -/
def Flight.rdVs (f : Flight) (n lane : Nat) : Nat → Nat
  | 0 => 0
  | k + 1 => (f.rdV n lane).toNat + 2 ^ 32 * f.rdVs (n + 1) lane k

/-- An operand read in a lane as a value of `regs` registers (R244, R245, R282). -/
def rdLane (f : Flight) (spec regs lane : Nat) : Nat :=
  match okind spec with
  | .v n => f.rdVs n lane regs
  | .vx _ _ => f.rdVs (regAt f spec regs lane) lane regs
  | .s n => (f.rdS n).toNat % 2 ^ (32 * regs)
  | .laneid => f.homeOf lane % 64
  | .p n => if (f.rdP n).getLsbD lane then 1 else 0
  | _ => 0

/-- A uniform operand (R244). -/
def rdUni (f : Flight) (spec : Nat) : DWord :=
  match okind spec with
  | .s n => f.rdS n
  | .p n => f.rdP n
  | .exm => f.exm
  | _ => 0

/-- The B position: a specifier or an immediate (R247). -/
inductive BSrc where
  | spec (x : Nat)
  | imm (x : Nat)
  deriving DecidableEq, Repr

/-- B in a lane; an immediate of 32 bits is sign-extended where 64 are needed (R247). -/
def BSrc.lane (b : BSrc) (f : Flight) (regs l : Nat) : Nat :=
  match b with
  | .spec x => rdLane f x regs l
  | .imm i => if regs ≤ 1 then i % 2 ^ 32 else sext 32 (32 * regs) i

/-- B as a uniform value. -/
def BSrc.uni (b : BSrc) (f : Flight) : DWord :=
  match b with
  | .spec x => rdUni f x
  | .imm i => BitVec.ofNat 64 (sext 32 64 i)

/-- Result writes of a value of `regs` registers to the destination of a lane. -/
def vWrites (f : Flight) (spec regs lane val : Nat) : List RegWrite :=
  match okind spec with
  | .v n => (List.range regs).map fun i => ⟨.v (n + i), 64 * (n + i) + lane, nbits val (32 * i) 32⟩
  | .vx _ _ =>
    let n := regAt f spec regs lane
    (List.range regs).map fun i => ⟨.v (n + i), 64 * (n + i) + lane, nbits val (32 * i) 32⟩
  | _ => []

/-- Result writes of a uniform value. -/
def uWrites (spec : Nat) (val : DWord) : List RegWrite :=
  match okind spec with
  | .s n => [⟨.s n, n, val.toNat⟩]
  | .p n => [⟨.p n, 128 * n + 64, val.toNat⟩]
  | _ => []

/-! ### Long forms of short words (R230) -/

/-- The fields of an instruction of classes SCALAR, VINT, VFP and AFF, short words made long. -/
structure Fields where
  short : Bool
  immForm : Bool
  li : Bool
  cc : Nat
  st : Nat
  d : Nat
  a : Nat
  b : BSrc
  c : Nat
  rm : Nat
  fs : Nat
  mod : Nat
  resv : Nat
  deriving DecidableEq, Repr

def ofShort (o : ShortOps) : Fields :=
  { short := true, immForm := false, li := false, cc := o.cc.toNat, st := o.st.toNat, d := spec9 o.d.toNat, a := spec9 o.a.toNat,
    b := .spec (spec9 o.b.toNat), c := 328, rm := 0, fs := 0, mod := 0, resv := 0 }

/-- The I form; IMM7 is extended as Table 10-12 says. -/
def ofImm (signed : Bool) (o : ImmOps) : Fields :=
  { short := true, immForm := true, li := true, cc := o.cc.toNat, st := o.st.toNat, d := spec9 o.d.toNat, a := spec9 o.a.toNat,
    b := .imm (if signed then sext 7 32 o.imm.toNat else o.imm.toNat), c := 328, rm := 0, fs := 0, mod := 0, resv := 0 }

def ofLong (o : LongOps) : Fields :=
  match o.w1 with
  | .lr resv mod fs rm c b =>
    { short := false, immForm := false, li := false, cc := o.cc.toNat, st := o.st.toNat, d := o.d.toNat, a := o.a.toNat,
      b := .spec b.toNat, c := c.toNat, rm := rm.toNat, fs := fs.toNat, mod := mod.toNat, resv := resv.toNat }
  | .li imm =>
    { short := false, immForm := false, li := true, cc := o.cc.toNat, st := o.st.toNat, d := o.d.toNat, a := o.a.toNat,
      b := .imm imm.toNat, c := 328, rm := 0, fs := 0, mod := 0, resv := 0 }

/-- An unused field holds 0 or the ZERO specifier (R248). -/
def unused (x : Nat) : Bool := decide (x = 0) || decide (x = 328)
def BSrc.unused : BSrc → Bool
  | .spec x => Machine.unused x
  | .imm i => decide (i = 0)

end Sys2Proof.Machine
end

