-- ==== Sys2Proof/Machine/Memory.lean ====
section
/-! DEFINITION. The physical address map (R11, R12), homes (R14 to R19), frame remapping (R69), the value of a line at its home (R79 to
R82, R7 to R10), the core and die views (R93 to R97, R83 to R88), the discards of an acquire (R152), and what a release waits for
(R141, R149, R150). -/

namespace Sys2Proof.Machine

/-! ### Map and homes -/

/-- What a physical address is (Table 01-2); none for the reserved ranges. -/
def paSpace (pa : Nat) : Option Space :=
  if pa < 0x3000000000 then some .tier
  else if pa < 0x10000000000 then none
  else if pa < 0x20000000000 then some .tier
  else if pa < 0xE0000000000 then some (.peer (pa / 0x20000000000 - 1))
  else if pa < 0x100000000000 then none
  else if pa < 0x800000000000 then some .host
  else if pa < 0xF00000000000 then none
  else if pa < 0x1000000000000 then some .dev
  else none

/-- 0 first tier, 1 second tier. -/
def tierOf (pa : Nat) : Nat := if pa < 0x3000000000 then 0 else 1
def inTier (pa : Nat) : Bool := decide (paSpace pa = some .tier)

/-- Default hash (R18). -/
def hashBit (pa i : Nat) : Nat := (nbits pa (8 + i) 1 + nbits pa (15 + i) 1 + nbits pa (22 + i) 1 + nbits pa (29 + i) 1 + nbits pa (36 + i) 1) % 2
def defaultHash (pa : Nat) : Nat := ((List.range 7).map fun i => hashBit pa i * 2 ^ i).sum
/-- Tier slice (R19). -/
def tierSlice (pa : Nat) : Nat :=
  ((List.range 3).map fun i => (((List.range 10).map fun j => nbits pa (8 + i + 3 * j) 1).sum % 2) * 2 ^ i).sum

/-- Die and GDDR device that store a first-tier granule (R13). -/
def storedAt (pa : Nat) : Nat × Nat := let h := defaultHash pa; (nbits h 4 3, nbits h 2 2)

/-- Index of set bit number `k` of an `n`-bit mask. -/
def setBit (mask n k : Nat) : Nat := ((List.range n).filter fun i => mask.testBit i).getD k 0
def popcount (mask n : Nat) : Nat := ((List.range n).filter fun i => mask.testBit i).length

/-- Fields of an address-range entry (Tables 01-3, 01-4). -/
def arsHit (w0 w1 : DWord) (pa : Nat) : Bool :=
  w0.getLsbD 0 && decide (fld w1 0 32 ≤ pa / 2 ^ 16) && decide (pa / 2 ^ 16 ≤ fld w1 32 32)

/-- Home by an entry (R17): die and slice. -/
def arsHome (w0 w1 : DWord) (pa : Nat) : Nat × Nat :=
  let dies := fld w0 8 8; let slices := fld w0 16 16
  let nd := popcount dies 8; let ns := popcount slices 16
  let k := ((pa - fld w1 0 32 * 2 ^ 16) / 2 ^ (8 + fld w0 4 4)) % (nd * ns)
  (setBit dies 8 (k / ns), setBit slices 16 (k % ns))

/-- Home of a tier address under a table `t` (R17 to R19): die 0 to 7 and slice, or die 8 and tier slice. -/
def homeUnder (t : NMap DWord) (pa : Nat) : Nat × Nat :=
  if tierOf pa = 1 then (8, tierSlice pa)
  else match (List.range 64).find? fun n => arsHit (mget 0 t (2 * n)) (mget 0 t (2 * n + 1)) pa with
    | some n => arsHome (mget 0 t (2 * n)) (mget 0 t (2 * n + 1)) pa
    | none => let h := defaultHash pa; (h / 16, h % 16)

def State.home (s : State) (pa : Nat) : Nat × Nat := homeUnder s.dev.ars pa
def State.homeDie (s : State) (pa : Nat) : Nat := (s.home pa).1

/-- A die number of a mask (R436, R442): logical compute dies. -/
def allDies : List Nat := List.range 8

/-! ### Frame remapping (R69, R70) -/

def frmapOff (n : Nat) : Nat := 0x11000 + 16 * n
def State.frmapHit (s : State) (n pa : Nat) : Bool :=
  (s.reg (frmapOff n + 8)).getLsbD 0 && decide (fld (s.reg (frmapOff n)) 0 32 = pa / 2 ^ 16)
/-- An address after remapping. -/
def State.remap (s : State) (pa : Nat) : Nat :=
  match (List.range 8).find? fun n => s.frmapHit n pa with
  | some n => fld (s.reg (frmapOff n)) 32 32 * 2 ^ 16 + pa % 2 ^ 16
  | none => pa
/-- Whether an address lies in a frame that is being copied: accesses wait (R70). -/
def State.onHold (s : State) (pa : Nat) : Bool :=
  (List.range 8).any fun n => s.frmapHit n pa && (s.reg (frmapOff n + 8)).getLsbD 1

/-- A pending commit of the address-range table changes this address's home (R15). -/
def State.arsNew (s : State) : NMap DWord :=
  (List.range 64).foldl (fun t n => mset 0 (mset 0 t (2 * n) (s.reg (0x10000 + 16 * n))) (2 * n + 1) (s.reg (0x10000 + 16 * n + 8))) []
def State.homeMoves (s : State) (pa : Nat) : Bool := s.dev.arsBusy && decide (homeUnder s.arsNew pa ≠ s.home pa)

/-! ### Lines at home -/

def lineOf (pa : Nat) : Nat := pa / 128
def secOf (pa : Nat) : Nat := pa % 128 / 32
def State.l2? (s : State) (line : Nat) : Option L2Line := findBy L2Line.line s.mem.l2 line
def State.setL2 (s : State) (x : L2Line) : State :=
  { s with mem := { s.mem with l2 := if (s.l2? x.line).isSome then replBy L2Line.line s.mem.l2 x.line x else s.mem.l2 ++ [x] } }
def State.dropL2 (s : State) (line : Nat) : State := { s with mem := { s.mem with l2 := s.mem.l2.filter fun x => decide (x.line ≠ line) } }
def L2Line.empty (line : Nat) : L2Line :=
  { line, valid := 0, dirty := 0, pois := 0, bytes := [], filling := false, waiting := [], owner := none, reader := 0 }

/-- Whether the home slice holds the sector of `pa`. -/
def State.l2Has (s : State) (pa : Nat) : Bool := match s.l2? (lineOf pa) with | some x => x.valid.getLsbD (secOf pa) | none => false

/-- A byte at its home or system point. -/
def State.homeByte (s : State) (pa : Nat) : Byte :=
  match s.l2? (lineOf pa) with
  | some x => if x.valid.getLsbD (secOf pa) then mget blankByte x.bytes (pa % 128) else cellGet s.mem.bytes pa
  | none => cellGet s.mem.bytes pa

/-- `n` bytes at home, as a number. -/
def State.homeBytes (s : State) (pa n : Nat) : Nat := ofLe ((List.range n).map fun i => s.homeByte (pa + i))

/-- Whether a sector is poisoned (R8, R9), whatever the home slice holds of it; `sec` is PA div 32. -/
def State.secPoisoned (s : State) (sec : Nat) : Bool :=
  decide (sec ∈ s.mem.poison) || (match s.l2? (sec / 4) with | some x => x.valid.getLsbD (sec % 4) && x.pois.getLsbD (sec % 4) | none => false)

/-- Port of an access of the device outside the module that completes with an error: a peer's, whose port is down or which answers so, or 6 for the host
(R433, R435). -/
def State.failPort (s : State) (pa : Nat) : Option Nat :=
  match paSpace pa with
  | some (.peer n) => if n ∈ s.dev.portDown ∨ lineOf pa ∈ s.dev.outerBad then some n else none
  | some .host => if lineOf pa ∈ s.dev.outerBad then some 6 else none
  | _ => none
/-- Whether an access goes to host or peer memory. -/
def Access.isOuter (a : Access) : Bool := match a.space with | .host | .peer _ => true | _ => false
/-- Whether one of `n` bytes at `pa` outside the module answers with an error. -/
def State.failsIn (s : State) (pa n : Nat) : Bool := s.dev.outerBad.any fun l => decide (pa < 128 * l + 128) && decide (128 * l < pa + n)
/-- What host or peer memory answers accesses to a line with, from now on: an input (R433, R435). -/
def State.outerFails (s : State) (line : Nat) (fails : Bool) : State :=
  match paSpace (128 * line) with
  | some .host | some (.peer _) =>
    let l := s.dev.outerBad.filter (· ≠ line)
    { s with dev := { s.dev with outerBad := if fails then l ++ [line] else l } }
  | _ => s

/-- Lowest sector address that `n` bytes at `pa` touch and that gives a read no value: it is poisoned, or answers with an error. -/
def State.poisonIn (s : State) (pa n : Nat) : Option Nat :=
  ((List.range ((pa + n - 1) / 32 - pa / 32 + 1)).map (pa / 32 + ·)).find? (fun x => s.secPoisoned x || (s.failPort (32 * x)).isSome) |>.map (· * 32)

/-- A sector's mark, at its memory device and in the way that holds it. -/
def State.setPoison (s : State) (sec : Nat) (on : Bool) : State :=
  let s := { s with mem := { s.mem with poison :=
    if on then (if sec ∈ s.mem.poison then s.mem.poison else s.mem.poison ++ [sec]) else s.mem.poison.filter (· ≠ sec) } }
  match s.l2? (sec / 4) with
  | some x =>
    if x.valid.getLsbD (sec % 4) then
      s.setL2 { x with pois := if on then x.pois ||| BitVec.ofNat 4 (2 ^ (sec % 4)) else x.pois &&& ~~~BitVec.ofNat 4 (2 ^ (sec % 4)) }
    else s
  | none => s

/-- Die that stores a tier sector, as reports name it: 8 for the second tier (log 73). -/
def storingDie (pa : Nat) : Nat := if tierOf pa = 1 then 8 else (storedAt pa).1
/-- What a read of the memory device finds in a sector: a corrected error is counted and reported (kind 1, P2 = 1 for the scrubber, R10), an
uncorrectable one marks the sector poisoned, with a report of its own where the scrubber finds it (kind 3, R7). -/
def State.eccFound (s : State) (sec : Nat) (scrub : Bool) (found : EccFinding) : State :=
  let pa := sec * 32
  let t := tierOf pa
  match found with
  | .clean => s
  | .corrected =>
    ({ s with mem := { s.mem with ce := mset 0 s.mem.ce (pa / 2 ^ 16) (mget 0 s.mem.ce (pa / 2 ^ 16) + 1) } }).report 1 (storingDie pa) 255 none
      [pa, t, if scrub then 1 else 0] []
  | .uncorrectable =>
    let s := s.setPoison sec true
    if scrub then s.report 3 (storingDie pa) 255 none [pa, t] [] else s

/-- The byte a running launch's code had at admission is kept when memory is written (R227). -/
def keepOld (pa : Nat) (old : Byte) (l : Launch) : Launch :=
  if l.oldCode.any fun c => decide (c.1 = pa) then l else { l with oldCode := l.oldCode ++ [(pa, old)] }

/-- One byte applied at its home by write `w` (0: an agent whose writes are complete when applied). -/
def State.homePut (s : State) (w pa : Nat) (b : Byte) : State :=
  let old := s.homeByte pa
  let s := if old = b then s else { s with launches := s.launches.map (keepOld pa old) }
  let s := { s with mem := { s.mem with writer := mset 0 s.mem.writer pa w } }
  match s.l2? (lineOf pa) with
  | some x =>
    if x.valid.getLsbD (secOf pa) then
      s.setL2 { x with bytes := mset blankByte x.bytes (pa % 128) b, dirty := x.dirty ||| BitVec.ofNat 4 (2 ^ secOf pa) }
    else { s with mem := { s.mem with bytes := cellSet s.mem.bytes pa b } }
  | none => { s with mem := { s.mem with bytes := cellSet s.mem.bytes pa b } }

/-- Bytes applied from `pa`. -/
def State.homePuts (s : State) (w pa : Nat) : List Byte → State
  | [] => s
  | b :: r => (s.homePut w pa b).homePuts w (pa + 1) r

/-- Sectors that `n` bytes at `pa` touch, with whether they are wholly covered. -/
def sectorsOf (pa n : Nat) : List (Nat × Bool) :=
  (List.range ((pa + n - 1) / 32 - pa / 32 + 1)).map fun i =>
    let sec := pa / 32 + i
    (sec, decide (pa ≤ sec * 32) && decide (sec * 32 + 32 ≤ pa + n))

/-- How a write stands to a poisoned sector it touches: it covers it wholly, it is one of several that together do and is not the last, or
it covers a part. -/
inductive Cover where
  | whole
  | among
  | part
  deriving DecidableEq, Repr

/-- The poison rule of R8 for one sector that a write touches: a sector wholly covered is clean again, a part merged into a poisoned sector
leaves it poisoned and is reported (kind 4; the home die and no launch, log 73). -/
def State.coverSector (s : State) (sec : Nat) (c : Cover) : State :=
  if s.secPoisoned sec then
    match c with
    | .whole => s.setPoison sec false
    | .among => s
    | .part => s.report 4 (min (s.homeDie (sec * 32)) 8) 255 none [sec * 32, tierOf (sec * 32)] []
  else s

/-- A write at its home under the poison rule; `cov` says how it stands to a sector that it does not cover alone. -/
def State.homeWriteBy (s : State) (w pa : Nat) (bytes : List Byte) (cov : Nat → Cover) : State :=
  if bytes = [] then s else
  let s := (sectorsOf pa bytes.length).foldl (fun s (sec, full) => s.coverSector sec (if full then .whole else cov sec)) s
  s.homePuts w pa bytes
/-- A write that is a whole request by itself. -/
def State.homeWrite (s : State) (w pa : Nat) (bytes : List Byte) : State := s.homeWriteBy w pa bytes fun _ => .part
/-- Bytes that the device writes for a core and a launch, line by line: a line that fails outside the module is reported only (R433); `k` is at least the
number of lines. -/
def State.postLines (core : Nat) (l : Option Launch) : Nat → Nat → List Byte → State → State
  | 0, _, _, s => s
  | k + 1, pa, bytes, s =>
    if bytes = [] then s else
    let m := 128 - pa % 128
    State.postLines core l k (pa + m) (bytes.drop m)
      (match s.failPort pa with | some p => s.report 13 (dieOf core) core l [pa, p, 2] [] | none => s.homeWrite 0 pa (bytes.take m))
/-- A write of the device's own. -/
def State.postWrite (s : State) (core : Nat) (l : Option Launch) (pa : Nat) (bytes : List Byte) : State :=
  State.postLines core l (bytes.length / 128 + 2) pa bytes s

/-- A fill: sectors not valid come from the memory device (R82), with their poison. -/
def State.fillLine (s : State) (line : Nat) : State :=
  let x := (s.l2? line).getD (L2Line.empty line)
  let need := (List.range 4).filter fun i => !x.valid.getLsbD i
  let bytes := need.foldl (fun m i => (List.range 32).foldl (fun m j =>
      mset blankByte m (32 * i + j) (cellGet s.mem.bytes (128 * line + 32 * i + j))) m) x.bytes
  let pois := need.foldl (fun (p : BitVec 4) i =>
    if (4 * line + i) ∈ s.mem.poison then p ||| BitVec.ofNat 4 (2 ^ i) else p &&& ~~~BitVec.ofNat 4 (2 ^ i)) x.pois
  s.setL2 { x with valid := 15, bytes, pois, filling := false, finds := [] }

/-- Whether a request at the home must wait for sectors of a line to be filled, or for a pending fill of it (R80). -/
def State.unfilled (s : State) (line : Nat) (need : BitVec 4) : Bool :=
  match s.l2? line with | some x => x.filling || decide (need &&& ~~~x.valid ≠ 0) | none => true
/-- A fill begun for a request that waits outside the line's waiting list. -/
def State.startFill (s : State) (line : Nat) : State := s.setL2 { (s.l2? line).getD (L2Line.empty line) with filling := true }

/-- Dirty sectors written back to the memory device (R81); a poison mark stays (R8). -/
def State.writeBack (s : State) (x : L2Line) : State :=
  let ds := (List.range 4).filter fun i => x.dirty.getLsbD i
  let bytes := ds.foldl (fun m i => (List.range 32).foldl (fun m j =>
      cellSet m (128 * x.line + 32 * i + j) (mget blankByte x.bytes (32 * i + j))) m) s.mem.bytes
  { s with mem := { s.mem with bytes } }

/-- Whether a line may not be evicted (R81). -/
def L2Line.pinned (x : L2Line) : Bool := x.filling || !x.waiting.isEmpty || x.owner.isSome

/-- A line cleaned: dirty sectors written back, and kept clean. -/
def State.cleanLine (s : State) (line : Nat) : State :=
  match s.l2? line with
  | some x => (s.writeBack x).setL2 { x with dirty := 0 }
  | none => s

/-! ### Views (L1 and far-line copies) -/

/-- Key of a view line in the L1's tags: lines of views of compressed arrays are numbered apart from physical lines. -/
def viewLine (asid zr off : Nat) : Nat := 2 ^ 64 + (asid * 16 + zr) * 2 ^ 48 + off / 128

/-- Line key and offset of an access in L1 tags. -/
def Access.lineKey (a : Access) : Nat :=
  match a.space with
  | .view asid zr => viewLine asid zr a.pa
  | _ => lineOf a.pa

/-- Sectors a `n`-byte access at `off` within its line touches, as a mask. -/
def secMask (off n : Nat) : BitVec 4 :=
  (List.range 4).foldl (fun (m : BitVec 4) i => if 32 * i < off + n ∧ off < 32 * i + 32 then m ||| BitVec.ofNat 4 (2 ^ i) else m) 0

def findCopy (l : List LineCopy) (unit line : Nat) : Option LineCopy := l.find? fun c => decide (c.unit = unit) && decide (c.line = line)
def putCopy (l : List LineCopy) (c : LineCopy) : List LineCopy :=
  if (findCopy l c.unit c.line).isSome then l.map fun x => if x.unit = c.unit ∧ x.line = c.line then c else x else l ++ [c]
def dropCopy (l : List LineCopy) (unit line : Nat) : List LineCopy := l.filter fun c => !(decide (c.unit = unit) && decide (c.line = line))

/-- Whether a copy serves `n` bytes at offset `off`. -/
def LineCopy.has (c : LineCopy) (off n : Nat) : Bool := (secMask off n) &&& ~~~c.valid = 0
def LineCopy.read (c : LineCopy) (off n : Nat) : Nat := ofLe ((List.range n).map fun i => mget blankByte c.bytes (off + i))
def LineCopy.writers (c : LineCopy) (off n : Nat) : List Nat := dedup ((List.range n).map (fun i => mget 0 c.wids (off + i)) |>.filter (· ≠ 0))

/-- A store updates the sectors that are present (R95). -/
def LineCopy.update (c : LineCopy) (w off : Nat) (bytes : List Byte) : LineCopy :=
  (enum bytes).foldl (fun c (i, b) =>
    if c.valid.getLsbD ((off + i) / 32) then { c with bytes := mset blankByte c.bytes (off + i) b, wids := mset 0 c.wids (off + i) w } else c) c

/-- FGEN of a die (R88). -/
def State.fgen (s : State) (d : Nat) : Nat := mget 0 s.mem.fgen d
/-- A far-line copy that is current (R88). -/
def State.farCopy (s : State) (d line : Nat) : Option LineCopy :=
  match findCopy s.mem.far d line with
  | some c => if c.gen = s.fgen d then some c else none
  | none => none
def State.l1Copy (s : State) (core line : Nat) : Option LineCopy := findCopy s.mem.l1 core line
def State.putL1 (s : State) (c : LineCopy) : State := { s with mem := { s.mem with l1 := putCopy s.mem.l1 c } }
def State.putFar (s : State) (c : LineCopy) : State := { s with mem := { s.mem with far := putCopy s.mem.far c } }
def State.dropL1 (s : State) (core line : Nat) : State := { s with mem := { s.mem with l1 := dropCopy s.mem.l1 core line } }
def State.dropFar (s : State) (d line : Nat) : State := { s with mem := { s.mem with far := dropCopy s.mem.far d line } }

/-- Writes of a die that travel to a tier line, in the order they entered the transit set, put into a copy that is filled from the home (R87, R145). -/
def State.mergeTransit (s : State) (d : Nat) (c : LineCopy) : LineCopy :=
  s.mem.transit.foldl (fun (c : LineCopy) p =>
    if p.1 = d ∧ p.2.acc.space = .tier ∧ lineOf p.2.acc.pa = c.line then c.update p.2.id (p.2.acc.pa % 128) (leBytes p.2.acc.size p.2.acc.data) else c) c

/-- Sectors of a home line brought into a copy of die `d`: `ro` marks it read-only (R84); a copy that held other sectors keeps them (R94), and
is read-only when every fill of it was (log 74). -/
def State.copyFrom (s : State) (old : Option LineCopy) (d unit line : Nat) (mask : BitVec 4) (ro : Bool) (gen hint : Nat) : LineCopy :=
  let c0 : LineCopy := old.getD { unit, line, valid := 0, ro := false, gen, hint, bytes := [], wids := [], reader := 0 }
  let c := (List.range 4).foldl (fun (c : LineCopy) i =>
    if mask.getLsbD i then
      (List.range 32).foldl (fun (c : LineCopy) j =>
        let a := 128 * line + 32 * i + j
        { c with bytes := mset blankByte c.bytes (32 * i + j) (s.homeByte a), wids := mset 0 c.wids (32 * i + j) (mget 0 s.mem.writer a) }) c
    else c) c0
  s.mergeTransit d { c with valid := c.valid ||| mask, ro := if old.isSome then c0.ro && ro else ro, gen, hint }

/-- The same from another copy. -/
def LineCopy.copyTo (src : LineCopy) (old : Option LineCopy) (unit : Nat) (mask : BitVec 4) (ro : Bool) (gen hint : Nat) : LineCopy :=
  let c0 : LineCopy := old.getD { unit, line := src.line, valid := 0, ro := false, gen, hint, bytes := [], wids := [], reader := 0 }
  let c := (List.range 4).foldl (fun (c : LineCopy) i =>
    if mask.getLsbD i && src.valid.getLsbD i then
      (List.range 32).foldl (fun (c : LineCopy) j =>
        { c with bytes := mset blankByte c.bytes (32 * i + j) (mget blankByte src.bytes (32 * i + j)),
                 wids := mset 0 c.wids (32 * i + j) (mget 0 src.wids (32 * i + j)) }) c
    else c) c0
  { c with valid := c.valid ||| (mask &&& src.valid), ro := if old.isSome then c0.ro && ro else ro, gen, hint }

/-- FLWAYS of a die (R86). -/
def flcfgOff (d : Nat) : Nat := 0x100000 + 0x10000 * d
def State.flways (s : State) (d : Nat) : Nat := fld (s.reg (flcfgOff d)) 0 5

/-! ### Discards of an acquire (R85, R88, R96, R152) -/

def State.discardCore (s : State) (core : Nat) : State :=
  { s with mem := { s.mem with l1 := s.mem.l1.filter fun c =>
      !(decide (c.unit = core)) && !(c.ro && decide (clusterOf c.unit = clusterOf core)) } }

/-- FGEN advances; at a wrap to 0 every far-line copy of the die is dropped (R88). -/
def State.discardFar (s : State) (d : Nat) : State :=
  let g := (s.fgen d + 1) % 2 ^ 16
  let far := if g = 0 then s.mem.far.filter fun c => decide (c.unit ≠ d) else s.mem.far
  { s with mem := { s.mem with fgen := mset 0 s.mem.fgen d g, far } }

/-- The discards of an acquire at a scope by a flight on `core`. -/
def State.acquire (s : State) (core scope : Nat) : State :=
  if scope ≤ 1 then s
  else if scope ≤ 3 then s.discardCore core
  else (s.discardCore core).discardFar (dieOf core)

/-! ### Writes on their way, and releases -/

/-- Whether write `w` has not yet reached scope `sc` for its line (Table 07-2): `own` restricts drains to `drained`. -/
def State.unreached (s : State) (w sc : Nat) : Bool :=
  (s.flights.any fun f => f.wq.any fun x => decide (x.id = w)) ||
  (s.mem.transit.any fun (_, x) => decide (x.id = w) &&
    (match x.acc.space with
     | .tier => decide (4 ≤ sc)
     | .view _ _ => decide (4 ≤ sc)
     | .loc _ => true
     | _ => decide (5 ≤ sc)))

/-- Closure of a set of writes under the Before sets of its releases (R149). -/
def State.closeBefore (s : State) (ws : List Nat) : List Nat := dedup (ws ++ ws.flatMap fun w => mget [] s.mem.before w)

/-- Writes of a flight that are in its write queue, earlier than `seq`. -/
def Flight.ownWrites (f : Flight) (seq : Nat) : List Nat := (f.wq.filter fun w => decide (w.seq < seq)).map Wr.id

/-- Writes of flight `f` that travel in a transit set. -/
def State.travelling (s : State) (f seq : Nat) : List Nat :=
  (s.mem.transit.filter fun (_, w) => decide (w.flight = f) && decide (w.seq < seq)).map fun p => p.2.id

/-- Writes that reads and synchronisations earlier than `seq` observed. -/
def Flight.observed (f : Flight) (seq : Nat) : List Nat := (f.obs.filter fun p => decide (p.2 < seq)).map Prod.fst

/-- Before(W) of a release by `f` at place `seq` (R149). -/
def State.beforeOf (s : State) (f : Flight) (seq : Nat) : List Nat :=
  s.closeBefore (dedup (f.ownWrites seq ++ s.travelling f.id seq ++ f.observed seq))

/-- Whether an operation is a read of its flight, or reads as part of an atomic. -/
def OpKind.isRead : OpKind → Bool
  | .load => true
  | .atomic => true
  | .tileLoad => true
  | .zerr => true
  | .azld => true
  | .mgath => true
  | .semRd => true
  | _ => false

def Op.performed (o : Op) : Bool := o.acc.all fun a => match a.phase with | .done => true | .refused => true | _ => false

/-- Every earlier read performed and every earlier write in the write queue or beyond (R150, R153). -/
def Flight.earlierPerformed (f : Flight) (seq : Nat) : Bool :=
  (f.ops.all fun o => !decide (o.seq < seq) || (o.performed && (decide (o.kind ≠ .mgath) || o.acquired))) && (f.residual.all fun e => !decide (e.seq < seq) || (match e.mem with | .none => true | _ => false))

/-- The condition of a release at scope `sc` (R150): reads performed, Before(W) drained and at its points of coherence. -/
def State.releaseOk (s : State) (f : Flight) (seq sc : Nat) (before : List Nat) : Bool :=
  f.earlierPerformed seq && before.all fun w => !s.unreached w sc

/-- One write observed at place `seq`; the earliest place is kept. -/
def noteObs (seq : Nat) (l : List (Nat × Nat)) (w : Nat) : List (Nat × Nat) :=
  if w = 0 then l else if l.any fun p => decide (p.1 = w) then l.map fun p => if p.1 = w then (w, min p.2 seq) else p else l ++ [(w, seq)]
/-- Writes that an access at place `seq` of a flight observed (R149). -/
def State.observe (s : State) (f seq : Nat) (ws : List Nat) : State := s.updFlight f fun x => { x with obs := ws.foldl (noteObs seq) x.obs }

/-! ### Release and acquire (R154) -/

/-- Whether a scope covers two flights, by workgroup and core. -/
def scopeCovers (x wg core wg' core' : Nat) : Bool :=
  match x with
  | 1 => decide (wg = wg')
  | 2 => decide (clusterOf core = clusterOf core')
  | 3 => decide (dieOf core = dieOf core')
  | _ => true
/-- A release at scope X and an acquire at scope `y` by `f` cover each other's flights. -/
def RelInfo.meets (r : RelInfo) (f : Flight) (y : Nat) : Bool := scopeCovers r.scope r.wg r.core f.wg f.core && scopeCovers y r.wg r.core f.wg f.core

/-- A line's order with one more write. -/
def orderPut (order : List Nat) (w : Nat) (rel : Bool) : List Nat :=
  if w = 0 ∨ (order = [] ∧ rel = false) ∨ order.getLast? = some w then order else order ++ [w]
/-- A write applied to a line that key `k` names. -/
def State.noteWrite (s : State) (k w : Nat) (rel : Bool) : State :=
  let l := mget [] s.mem.rels k
  if orderPut l w rel = l then s else { s with mem := { s.mem with rels := mset [] s.mem.rels k (orderPut l w rel) } }

/-- A write that is on its way: it will come after every write its line has seen. -/
def State.coming (s : State) (w : Nat) : Bool :=
  (s.flights.any fun f => f.wq.any fun x => decide (x.id = w)) || s.mem.transit.any fun p => decide (p.2.id = w)
/-- The part of a line's order up to the latest of the writes returned. -/
def State.orderUpTo (s : State) (order ws : List Nat) : List Nat :=
  if ws.any s.coming then order else order.take ((enum order).foldl (fun n (i, w) => if w ∈ ws then i + 1 else n) 0)
/-- What an acquire read at scope `y` acquires: the releases that it or an earlier write of the line's order returns, where the scopes cover. -/
def State.acquired (s : State) (f : Flight) (y : Nat) (order ws : List Nat) : List Nat :=
  (s.orderUpTo order ws).filter fun w => s.mem.relOf.any fun r => decide (r.id = w) && r.meets f y
/-- A write that releases at scope `x` (0: none), with its Before set. -/
def State.noteRelease (s : State) (w x wg core : Nat) (before : List Nat) : State :=
  if x = 0 then s
  else { s with mem := { s.mem with before := mset [] s.mem.before w before, relOf := s.mem.relOf ++ [⟨w, x, wg, core⟩] } }

end Sys2Proof.Machine
end

