-- ==== Sys2Proof/Machine/Codec.lean ====
section
/-! DEFINITION. Z-regions (R25 to R34) and the code of one block (R35 to R43). -/

namespace Sys2Proof.Machine

/-- A Z-region entry (Tables 02-1 to 02-3). -/
structure ZRegion where
  valid : Bool
  rd : Bool
  wr : Bool
  launch : Bool
  wide : Bool
  dims : Nat
  rate : Nat
  err : Nat
  vbase : Nat
  cbase : Nat
  nx : Nat
  ny : Nat
  nz : Nat
  deriving DecidableEq, Repr

def zrOff (asid n : Nat) : Nat := 0x1000000 + 0x1000 * asid + 32 * n

def zrOf (w0 w1 w2 w3 : DWord) : ZRegion :=
  { valid := w0.getLsbD 0, rd := w0.getLsbD 2, wr := w0.getLsbD 3, launch := w0.getLsbD 4, wide := w0.getLsbD 14,
    dims := fld w0 15 2, rate := fld w0 17 7, err := fld w0 28 4, vbase := fld w0 32 32 * 2 ^ 16, cbase := fld w1 8 40 * 2 ^ 8,
    nx := fld w2 0 24, ny := fld w2 32 24, nz := fld w3 0 24 }

def State.zr (s : State) (asid n : Nat) : ZRegion :=
  let o := zrOff asid n
  zrOf (s.reg o) (s.reg (o + 8)) (s.reg (o + 16)) (s.reg (o + 24))

def ZRegion.esize (z : ZRegion) : Nat := if z.wide then 8 else 4
def ZRegion.fmt (z : ZRegion) : Fmt := if z.wide then fp64 else fp32
/-- Elements of a block (R31). -/
def ZRegion.n (z : ZRegion) : Nat := 4 ^ z.dims
def ZRegion.bx (z : ZRegion) : Nat := (z.nx + 3) / 4
def ZRegion.by_ (z : ZRegion) : Nat := (z.ny + 3) / 4
def ZRegion.bz (z : ZRegion) : Nat := (z.nz + 3) / 4
/-- Bytes of a block's code (R31). -/
def ZRegion.bytes (z : ZRegion) : Nat := z.n * z.rate / 8
def ZRegion.codeLen (z : ZRegion) : Nat := z.bx * z.by_ * z.bz * z.bytes
def ZRegion.codeAt (z : ZRegion) (blk : Nat) : Nat := z.cbase + blk * z.bytes
/-- Length of the view (R28). -/
def ZRegion.viewLen (z : ZRegion) : Nat := roundUp (z.nx * z.ny * z.nz * z.esize) 65536
def ZRegion.elemCount (z : ZRegion) : Nat := z.nx * z.ny * z.nz
/-- Block and place in the block of view element `e` (R31). -/
def ZRegion.place (z : ZRegion) (e : Nat) : Nat × Nat :=
  let x := e % z.nx; let y := e / z.nx % z.ny; let c := e / z.nx / z.ny
  ((c / 4 * z.by_ + y / 4) * z.bx + x / 4, x % 4 + 4 * (y % 4) + 16 * (c % 4))
/-- Whether place `i` of block `blk` is an element, not padding (R32). -/
def ZRegion.real (z : ZRegion) (blk i : Nat) : Bool :=
  decide (4 * (blk % z.bx) + i % 4 < z.nx) && decide (4 * (blk / z.bx % z.by_) + i / 4 % 4 < z.ny)
  && decide (4 * (blk / z.bx / z.by_) + i / 16 < z.nz)
/-- View element at place `i` of block `blk`. -/
def ZRegion.elemAt (z : ZRegion) (blk i : Nat) : Nat :=
  ((4 * (blk / z.bx / z.by_) + i / 16) * z.ny + (4 * (blk / z.bx % z.by_) + i / 4 % 4)) * z.nx + (4 * (blk % z.bx) + i % 4)

/-- Whether the rate is legal (Table 02-6). -/
def rateOk (fp64 : Bool) (dims rate : Nat) : Bool :=
  let top := if fp64 then 64 else 32
  if dims = 1 then decide (rate % 2 = 0) && decide (6 ≤ rate) && decide (rate ≤ top) else decide (3 ≤ rate) && decide (rate ≤ top)

/-- The valid Z-region of an address space whose view holds `va` (R28). -/
def State.zrAt (s : State) (asid va : Nat) : Option Nat :=
  (List.range 16).find? fun n =>
    let z := s.zr asid n
    z.valid && decide (z.vbase ≤ va) && decide (va < z.vbase + z.viewLen)

/-- Valid entries as (ASID, number), from the registers that are listed. -/
def State.validZrs (s : State) : List (Nat × Nat) :=
  s.dev.regs.filterMap fun (o, w) =>
    if 0x1000000 ≤ o ∧ o < 0x2000000 ∧ o % 32 = 0 ∧ w.getLsbD 0 then some ((o - 0x1000000) / 0x1000, (o - 0x1000000) % 0x1000 / 32) else none

def rangesMeet (a n b m : Nat) : Bool := decide (a < b + m) && decide (b < a + n)

/-- Addresses that a remapped address may stand for: itself, and its place in the frames that move to its frame (R69). -/
def State.unmaps (s : State) (pa : Nat) : List Nat :=
  pa :: (List.range 8).filterMap fun n =>
    if (s.reg (frmapOff n + 8)).getLsbD 0 ∧ fld (s.reg (frmapOff n)) 32 32 = pa / 2 ^ 16 then some (fld (s.reg (frmapOff n)) 0 32 * 2 ^ 16 + pa % 2 ^ 16) else none

/-- Whether `n` bytes of one frame, from a remapped address, meet the code of a valid Z-region, which is remapped too (R52, R69). -/
def State.codeMeets (s : State) (pa n : Nat) : Bool :=
  (s.unmaps pa).any fun q => s.validZrs.any fun (a, k) => let z := s.zr a k; rangesMeet q n z.cbase z.codeLen
/-- Whether a remapped address lies in the code of a valid Z-region (R52). -/
def State.inCode (s : State) (pa : Nat) : Bool := s.codeMeets pa 1

/-! ### Lifting (R38, R39) -/

def fwd (a b : Int) : Int × Int := let h := a - b; (b + h / 2, h)
def inv (l h : Int) : Int × Int := let b := l - h / 2; (h + b, b)
def lift4 (x0 x1 x2 x3 : Int) : List Int :=
  let (l0, h0) := fwd x0 x1
  let (l1, h1) := fwd x2 x3
  let (l, h) := fwd l0 l1
  [l, h, h0, h1]
def unlift4 (l h h0 h1 : Int) : List Int :=
  let (l0, l1) := inv l h
  let (x0, x1) := inv l0 h0
  let (x2, x3) := inv l1 h1
  [x0, x1, x2, x3]

/-- A transform of four values applied along the axis of stride `st`. -/
def along (g : Int → Int → Int → Int → List Int) (st : Nat) (q : List Int) : List Int :=
  (List.range q.length).map fun i =>
    let k := i / st % 4
    let b := i - st * k
    (g (q.getD b 0) (q.getD (b + st) 0) (q.getD (b + 2 * st) 0) (q.getD (b + 3 * st) 0)).getD k 0

def liftD (d : Nat) (q : List Int) : List Int := (List.range d).foldl (fun q a => along lift4 (4 ^ a) q) q
def unliftD (d : Nat) (q : List Int) : List Int := (List.range d).reverse.foldl (fun q a => along unlift4 (4 ^ a) q) q

def posLevel (p : Nat) : Nat := [0, 1, 2, 2].getD p 0
def levelOf (j : Nat) : Nat := posLevel (j % 4) + posLevel (j / 4 % 4) + posLevel (j / 16)
/-- Coefficients in allocation order. -/
def allocOrder (n : Nat) : List Nat := sortBy (fun j => 64 * levelOf j + j) (List.range n)

/-! ### Allocation (R40) -/

def allocPass (cap m : Nat) : List Nat → NMap Nat × Nat → NMap Nat × Nat
  | [], a => a
  | j :: r, (k, left) =>
    if levelOf j ≤ m ∧ mget 0 k j < cap ∧ 0 < left then allocPass cap m r (mset 0 k j (mget 0 k j + 1), left - 1)
    else allocPass cap m r (k, left)

def allocLoop (cap : Nat) (order : List Nat) : Nat → Nat → NMap Nat × Nat → NMap Nat
  | 0, _, a => a.1
  | fuel + 1, m, a => if a.2 = 0 then a.1 else allocLoop cap order fuel (m + 1) (allocPass cap m order a)

def zCap (fp64 : Bool) : Nat := if fp64 then 64 else 32
def zHead (fp64 : Bool) : Nat := if fp64 then 12 else 9
/-- Bits of every coefficient. -/
def allocate (fp64 : Bool) (n rate : Nat) (special : Bool) : NMap Nat :=
  allocLoop (zCap fp64) (allocOrder n) 80 0 ([], n * rate - zHead fp64 - (if special then 2 * n else 0))

/-! ### Encode (R37) -/

def classOfVal (v : FVal) : Nat := match v with | .num .. => 0 | .inf false => 1 | .inf true => 2 | .nan _ => 3

/-- Biased exponent field of a code. -/
def expField (F : Fmt) (x : Nat) : Nat := (x % 2 ^ (F.w - 1)) >>> (F.p - 1)

/-- Bits fields packed from bit 0: (value, width). -/
def packBits : List (Nat × Nat) → Nat
  | [] => 0
  | (v, w) :: r => v % 2 ^ w + 2 ^ w * packBits r

/-- A block quantised: whether it holds a special value, its E, and for each coefficient in allocation order its index, its field, the
field's width, and whether the field was clamped. -/
structure Quantised where
  special : Bool
  e : Nat
  fields : List (Nat × Nat × Nat × Bool)
  deriving DecidableEq, Repr

def quantise (z : ZRegion) (elems : List Nat) : Quantised :=
  let F := z.fmt
  let vals := elems.map F.decode
  let special := vals.any fun v => classOfVal v ≠ 0
  let e0 := (elems.zip vals).foldl (fun m (x, v) => if classOfVal v = 0 then max m (expField F x) else m) 0
  let e : Int := (max e0 1 : Nat) - (F.bias : Int)
  let cap := zCap z.wide
  let q : List Int := vals.map fun v =>
    match v with
    | .num neg m ev =>
      let sh : Int := ev + ((cap : Int) - 2) - z.dims - e
      let a := if 0 ≤ sh then shl m sh else m / 2 ^ (-sh).toNat
      if neg then -(a : Int) else a
    | _ => 0
  let c := liftD z.dims q
  let k := allocate z.wide z.n z.rate special
  let fields := (allocOrder z.n).map fun j =>
    let kj := mget 0 k j
    if kj = 0 then (j, 0, 0, false) else
      let d : Int := (2 ^ (cap - kj) : Nat)
      let f := (2 * c.getD j 0 + d) / (2 * d)
      let top : Int := (2 ^ (kj - 1) : Nat) - 1
      (j, wrapInt kj (min f top), kj, decide (top < f))
  ⟨special, e0, fields⟩

/-- The code of a block of elements, as bytes. -/
def encodeBlock (z : ZRegion) (elems : List Nat) : List Byte :=
  let q := quantise z elems
  let head := [(if q.special then 1 else 0, 1), (q.e, zHead z.wide - 1)]
  let classes := if q.special then elems.map fun x => (classOfVal (z.fmt.decode x), 2) else []
  leBytes z.bytes (packBits (head ++ classes ++ q.fields.map fun f => (f.2.1, f.2.2.1)))

/-- The elements whose coefficient's field an encode clamps (R127). -/
def clampedBy (z : ZRegion) (elems : List Nat) : List Nat := ((quantise z elems).fields.filter fun f => f.2.2.2).map Prod.fst

/-! ### Decode and bound (R41 to R43) -/

/-- Fields read from bit `pos`, in allocation order: index and signed value. -/
def readFields (code : Nat) (k : NMap Nat) : List Nat → Nat → List (Nat × Int)
  | [], _ => []
  | j :: r, pos =>
    let kj := mget 0 k j
    (j, if kj = 0 then 0 else sgn kj (nbits code pos kj)) :: readFields code k r (pos + kj)

/-- What a code gives: the elements, their bound (R42), and which elements R41 limited to the largest magnitude (R127). -/
structure Decoding where
  elems : List Nat
  bound : Nat
  sat : List Bool
  deriving DecidableEq, Repr

def gainShift (j : Nat) : Nat := (if j % 4 = 0 then 0 else 1) + (if j / 4 % 4 = 0 then 0 else 1) + (if j / 16 = 0 then 0 else 1)

/-- Elements and bound of a block's code. A largest value of zero has the least unit in the last place (R42; DESIGN CHOICE, log 89). -/
def decodeBlock (z : ZRegion) (bytes : List Byte) : Decoding :=
  let F := z.fmt
  let code := ofLe bytes
  let special := code.testBit 0
  let hb := zHead z.wide
  let e : Int := (max (nbits code 1 (hb - 1)) 1 : Nat) - (F.bias : Int)
  let cls := (List.range z.n).map fun i => if special then nbits code (hb + 2 * i) 2 else 0
  let cap := zCap z.wide
  let k := allocate z.wide z.n z.rate special
  let fields := readFields code k (allocOrder z.n) (hb + if special then 2 * z.n else 0)
  let coef := (List.range z.n).map fun j =>
    ((findBy Prod.fst fields j).map Prod.snd).getD 0 * (2 ^ (cap - mget 0 k j) : Nat)
  let q := unliftD z.dims coef
  let sc : Int := e + z.dims - ((cap : Int) - 2)
  let rnd (x : Int) : RRes := roundF F 1 false true 0 ⟨decide (x < 0), x.natAbs, sc, false⟩
  let elems := (cls.zip q).map fun (c, x) =>
    match c with
    | 0 =>
      let r := (rnd x).bits
      if r % 2 ^ (F.w - 1) = 0 then 0 else r
    | 1 => F.inf.getD 0
    | 2 => 2 ^ (F.w - 1) + F.inf.getD 0
    | _ => F.nan
  let fin := (cls.zip elems).filter fun p => decide (p.1 = 0)
  let big := fin.foldl (fun m p => max m (p.2 % 2 ^ (F.w - 1))) 0
  let h : Dy := if fin.isEmpty then Dy.zero else ⟨1, ((max (expField F big) 1 : Nat) : Int) - F.bias - F.p⟩
  let sum := fields.foldl (fun a (j, f) =>
    let kj := mget 0 k j
    let st : Int := (cap : Int) - kj
    let d : Dy := if kj = cap then Dy.zero
      else if 1 ≤ kj ∧ f = (2 ^ (kj - 1) : Nat) - 1 then ⟨1, st⟩ else ⟨1, st - 1⟩
    Dy.add a ⟨d.i, d.e - gainShift j⟩) (⟨1 + z.dims, 0⟩ : Dy)
  let b := Dy.add ⟨sum.i, sum.e + sc⟩ h
  ⟨elems, (roundF fp32 3 false false 0 (b.toEx false)).bits, (cls.zip q).map fun (c, x) => decide (c = 0) && decide ((rnd x).cat = .sat)⟩

/-! ### Decoded blocks -/

def State.block? (s : State) (asid zr blk : Nat) : Option Block :=
  s.mem.blocks.find? fun b => decide (b.asid = asid) && decide (b.zr = zr) && decide (b.blk = blk)
def Block.is (b : Block) (asid zr blk : Nat) : Bool := decide (b.asid = asid) && decide (b.zr = zr) && decide (b.blk = blk)
def State.putBlock (s : State) (b : Block) : State :=
  { s with mem := { s.mem with blocks :=
      if (s.block? b.asid b.zr b.blk).isSome then s.mem.blocks.map fun x => if x.is b.asid b.zr b.blk then b else x
      else s.mem.blocks ++ [b] } }
def State.dropBlock (s : State) (asid zr blk : Nat) : State :=
  { s with mem := { s.mem with blocks := s.mem.blocks.filter fun x => !x.is asid zr blk } }

/-- Code bytes of a block at their homes; code reads apply FRMAP (R69). -/
def State.codeBytes (s : State) (z : ZRegion) (blk : Nat) : List Byte :=
  (List.range z.bytes).map fun i => s.homeByte (s.remap (z.codeAt blk + i))
/-- Lowest poisoned code sector of a block (R50). -/
def State.codePoison (s : State) (z : ZRegion) (blk : Nat) : Option Nat :=
  (sortBy id (dedup ((List.range z.bytes).map fun i => s.remap (z.codeAt blk + i) / 32))).find? (fun x => s.secPoisoned x) |>.map (· * 32)
/-- Whether a code byte of a block lies in a frame that is being copied (R70). -/
def State.codeHeld (s : State) (z : ZRegion) (blk : Nat) : Bool := (List.range z.bytes).any fun i => s.onHold (z.codeAt blk + i)
/-- Code lines of a block that its decode must have filled first (R46, R80). -/
def State.codeFills (s : State) (z : ZRegion) (blk : Nat) : List Nat :=
  (dedup ((List.range z.bytes).map fun i => lineOf (s.remap (z.codeAt blk + i)))).filter fun l => s.unfilled l 15

/-- Padding is encoded as +0 (R32); an encode of a poisoned block takes +0 for elements not stored since the fill (R50). -/
def Block.toEncode (b : Block) (z : ZRegion) : List Nat :=
  (enum b.elems).map fun (i, x) => if !z.real b.blk i then 0 else if b.pois.isSome && !decide (i ∈ b.stored) then 0 else x

end Sys2Proof.Machine
end

