-- ==== Sys2Proof/Machine/Groups.lean ====
section
/-! DEFINITION. Groups of flights: who takes part in a barrier and when it completes (R323, R324), and the end of a flight (R355, R414). -/

namespace Sys2Proof.Machine

/-- Key of a barrier's group, and how many flights take part. -/
def barKey (s : State) (f : Flight) (scope : Nat) : Nat :=
  let w := s.wgOf f
  match scope with | 1 => w.id | 2 => 4 * w.d + w.c | 3 => w.d | _ => 0
def barParts (s : State) (f : Flight) (scope : Nat) : Nat :=
  let r := s.recOf f
  match scope with
  | 1 => recNfl r
  | 2 => recNfl r * recNwg r
  | 3 => recNfl r * recNwg r * recNcl r
  | _ => recNfl r * recNwg r * recNcl r * recNdie r

def Barrier.takes (b : Barrier) (s : State) (f : Flight) : Bool :=
  decide (b.launch = f.launch) && decide (b.stage = (s.wgOf f).s) && decide (b.key = barKey s f b.scope)
  && (match f.kind with | .leader => true | _ => false)

/-- The open instances of a flight's barrier, in order. -/
def State.openBars (s : State) (f : Flight) (scope num : Nat) : List Barrier :=
  s.barriers.filter fun b => decide (b.scope = scope) && decide (b.num = num) && b.takes s f

/-- The instance a flight's next arrival joins. -/
def State.joins (s : State) (f : Flight) (scope num : Nat) : Option Barrier :=
  (s.openBars f scope num).find? fun b => decide (f.id ∉ b.arrived)

/-- Whether every workgroup of a barrier's group has been placed; tuples are placed in rising order. -/
def State.groupPlaced (s : State) (launch scope key : Nat) : Bool :=
  match s.launch? launch with
  | none => true
  | some l =>
    let r := l.recd
    let last := match scope with
      | 1 => 0
      | 2 => recNwg r * (key % 4 + recNcl r * (key / 4) + 1)
      | 3 => recNwg r * recNcl r * (key + 1)
      | _ => recNwg r * recNcl r * recNdie r
    decide (last ≤ l.nextTuple)

/-- Whether an instance has received its count of arrivals (R324): the count told, or every participant, where one that has ended counts. -/
def Barrier.full (b : Barrier) (s : State) : Bool :=
  match b.count with
  | some n => decide (n ≤ b.arrived.length)
  | none => s.groupPlaced b.launch b.scope b.key && s.flights.all fun f => !b.takes s f || f.isEnded || decide (f.id ∈ b.arrived)

/-- Instances that are full complete: their arrivals acquire every arrival's Before set (R165). -/
def State.completeBars (s : State) : State :=
  let done := s.barriers.filter fun b => b.full s
  let mark (a : ArrivedAt) : ArrivedAt :=
    match done.find? fun b => decide (b.inst = a.inst) with
    | some b => { a with done := true, before := b.before }
    | none => a
  { s with barriers := s.barriers.filter (fun b => !b.full s),
           flights := if done.isEmpty then s.flights else s.flights.map fun f => { f with arrivals := f.arrivals.map mark } }

/-- PUB of a workgroup, and how many entries it covers that the engine has not taken (R116). -/
def Workgroup.pub (w : Workgroup) (r : List DWord) : Nat := cellsGet w.mem (recCnotify r) 4
def Workgroup.covered (w : Workgroup) (r : List DWord) : Nat := (w.pub r + 2 ^ 32 - w.taken) % 2 ^ 32
/-- Whether more is published than the ring holds (R116). -/
def Workgroup.over (w : Workgroup) (r : List DWord) : Bool := decide (recCrlen r < w.covered r)

/-- When a workgroup's last flight has ended, the entries that PUB covers then are owed to it (R119). -/
def State.owe (s : State) (wg : Nat) : State :=
  if s.flights.all fun f => decide (f.wg ≠ wg) || f.isEnded || f.isHandler then
    s.updWg wg fun w => { w with owed := some (w.owed.getD (w.covered (((s.launch? w.launch).map Launch.recd).getD []))) }
  else s

/-- A flight ends (R355, R414): it counts as arrived at its barriers. -/
def State.endFlight (s : State) (id : Nat) : State :=
  let wg := ((s.flight? id).map Flight.wg).getD 0
  ((s.updFlight id fun f =>
    { f with place := .ended, exm := 0, exited := f.exited ||| f.exm, clause := none, stack := [], spilled := [], wait := none, fixed := [] }).owe wg).completeBars

end Sys2Proof.Machine
end

