-- ==== Sys2Proof/Machine/Translate.lean ====
section
/-! DEFINITION. Address translation (R54 to R63): walks, the translation stores, code fetch (R63, R222, R227), and the completion of a
walk. -/

namespace Sys2Proof.Machine

/-- Frames that `n` bytes from `va` touch, each with its part: virtual address and bytes. -/
def frameParts (va n : Nat) : List (Nat × Nat) :=
  if n = 0 then [] else
  (List.range ((va + n - 1) / 2 ^ 16 - va / 2 ^ 16 + 1)).map fun i =>
    let lo := max va ((va / 2 ^ 16 + i) * 2 ^ 16)
    let hi := min (va + n) ((va / 2 ^ 16 + i + 1) * 2 ^ 16)
    (lo, hi - lo)

/-- What an access needs of its leaf (R57). -/
inductive Need where
  | rd
  | wr
  | ex
  | at
  /-- Spill and fill (R373). -/
  | rw
  deriving DecidableEq, Repr

/-- Permission bits of a leaf: RD, WR, EX, PRIV, AT from bit 0. -/
def permRd (p : Nat) : Bool := p.testBit 0
def permWr (p : Nat) : Bool := p.testBit 1
def permEx (p : Nat) : Bool := p.testBit 2
def permPriv (p : Nat) : Bool := p.testBit 3
def permAt (p : Nat) : Bool := p.testBit 4

/-- A 64-bit word at its home or system point. -/
def State.word64 (s : State) (pa : Nat) : DWord := BitVec.ofNat 64 (s.homeBytes pa 8)
/-- Tables lie in the tiers or host memory (R56). -/
def tableOk (pa : Nat) : Bool := match paSpace pa with | some .tier => true | some .host => true | _ => false

/-- What a walk found: the result, where the leaf's page starts and its size, and the pointer entries it read. -/
structure Walked where
  res : WalkResult
  base : Nat := 0
  shift : Nat := 16
  ptrs : List WalkEntry := []
  /-- Addresses of the entries read. -/
  reads : List Nat := []
  deriving DecidableEq, Repr

def levelShift (n : Nat) : Nat := match n with | 0 => 16 | 1 => 21 | 2 => 30 | _ => 39
def levelBits (n : Nat) : Nat := if n = 0 then 5 else 9

/-- Whether an entry with V = 1 at level `n` is malformed (R57). -/
def pteBad (n : Nat) (w : DWord) : Bool :=
  decide (fld w 48 16 ≠ 0) || w.getLsbD 7 ||
  (if w.getLsbD 1 then
     decide (3 ≤ n) || decide (fld w 8 8 ≠ 0) || (decide (n = 1) && decide (fld w 16 5 ≠ 0)) || (decide (n = 2) && decide (fld w 16 14 ≠ 0))
   else
     decide (n = 0) || decide (fld w 2 5 ≠ 0) || (decide (2 ≤ n) && decide (fld w 8 4 ≠ 0)) || !tableOk (fld w 8 40 * 2 ^ 8))

/-- A pointer entry held by the walk cache of a die. -/
def State.cached (s : State) (die asid level idx : Nat) : Option WalkEntry :=
  s.tr.wcache.find? fun e => decide (e.die = die) && decide (e.asid = asid) && decide (e.level = level) && decide (e.idx = idx)

/-- Whether a remapping touches a page (R70): the walk's leaf then serves the frame of its access only. -/
def State.remapsIn (s : State) (base shift : Nat) : Bool :=
  (List.range 8).any fun n =>
    (s.reg (frmapOff n + 8)).getLsbD 0 && decide (base / 2 ^ 16 ≤ fld (s.reg (frmapOff n)) 0 32)
      && decide (fld (s.reg (frmapOff n)) 0 32 < base / 2 ^ 16 + 2 ^ (shift - 16))

/-- The walk below a table at level `n` (Table 03-2). `fuel` is `n` + 1. -/
def walkFrom (s : State) (die asid va : Nat) : Nat → Nat → List WalkEntry → List Nat → Walked
  | 0, _, ptrs, reads => { res := { frame := va / 2 ^ 16, cause := 4, level := 0, pfn := 0, perm := 0 }, ptrs, reads }
  | n + 1, table, ptrs, reads =>
    let idx := va / 2 ^ levelShift n
    match s.cached die asid n idx with
    | some e => walkFrom s die asid va n e.target ptrs reads
    | none =>
      let src := table + 8 * (idx % 2 ^ levelBits n)
      let w := s.word64 src
      let fault (c : Nat) : Walked := { res := { frame := va / 2 ^ 16, cause := c, level := n, pfn := 0, perm := 0 }, ptrs, reads := reads ++ [src] }
      if w.getLsbD 0 = false then fault 3
      else if pteBad n w then fault 4
      else if w.getLsbD 1 then
        let base := fld w 16 32 * 2 ^ 16
        let pa := base + va % 2 ^ levelShift n
        let shift := if s.remapsIn base (levelShift n) then 16 else levelShift n
        { res := { frame := va / 2 ^ 16, cause := 0, level := n, pfn := s.remap pa / 2 ^ 16, perm := fld w 2 5, shift }, base, shift := levelShift n, ptrs
          reads := reads ++ [src] }
      else walkFrom s die asid va n (fld w 8 40 * 2 ^ 8) (⟨die, asid, n, idx, fld w 8 40 * 2 ^ 8, src⟩ :: ptrs) (reads ++ [src])

/-- A walk of the tables as they stand (R55 to R57). The address-space table is read where ASTBASE puts it, wherever that is (log 80). -/
def State.walk (s : State) (die asid va : Nat) : Walked :=
  match s.cached die asid 4 0 with
  | some e => walkFrom s die asid va 4 e.target [] []
  | none =>
    let src := fld (s.reg 0x500) 0 32 * 2 ^ 16 + 16 * asid
    let w := s.word64 src
    let root := fld w 12 36 * 2 ^ 12
    let fault (c : Nat) : Walked := { res := { frame := va / 2 ^ 16, cause := c, level := 4, pfn := 0, perm := 0 }, reads := [src] }
    if w.getLsbD 0 = false then fault 3
    else if fld w 48 16 ≠ 0 ∨ fld w 1 11 ≠ 0 ∨ s.word64 (src + 8) ≠ 0 ∨ tableOk root = false then fault 4
    else walkFrom s die asid va 4 root [⟨die, asid, 4, 0, root, src⟩] [src]

/-- Whether an address-space entry admits launches (R55). -/
def State.asidOk (s : State) (asid : Nat) : Bool :=
  let src := fld (s.reg 0x500) 0 32 * 2 ^ 16 + 16 * asid
  let w := s.word64 src
  w.getLsbD 0 && decide (fld w 48 16 = 0) && decide (fld w 1 11 = 0) && decide (s.word64 (src + 8) = 0)

/-- First fault cause of an access by a leaf (Table 03-6), 0 for none. -/
def leafCause (priv : Bool) (need : Need) (pa perm : Nat) : Nat :=
  match paSpace pa with
  | none => 2
  | some sp =>
    if sp = .dev ∧ priv = false then 2
    else if permPriv perm ∧ priv = false then 5
    else
      match need with
      | .rd => if permRd perm then 0 else 6
      | .wr => if permWr perm then 0 else 6
      | .ex => if permEx perm then 0 else 6
      | .rw => if permRd perm && permWr perm then 0 else 6
      | .at => if permWr perm = false then 6 else if permAt perm then 0 else 7

/-- One translation (R59 to R62). -/
inductive Xl where
  | ok (pa perm : Nat)
  | fault (cause level : Nat)
  | miss
  deriving DecidableEq, Repr

/-- Trap code of a cause (Table 03-6). -/
def causeTrap (c : Nat) : Nat := if c = 3 ∨ c = 4 then 0x10 else 0x11

/-- An entry of the partition's or the core's TLB that holds an address (R58). -/
def State.tlbFind (s : State) (core part asid va : Nat) : Option TlbEntry :=
  let hit (p : Nat) (e : TlbEntry) : Bool :=
    decide (e.core = core) && decide (e.part = p) && decide (e.asid = asid) && decide (e.vpn = va / 2 ^ e.shift)
  (s.tr.tlb.find? (hit part)).or (s.tr.tlb.find? (hit 6))
/-- A hit: physical address and permissions. -/
def State.tlbHit (s : State) (core part asid va : Nat) : Option (Nat × Nat) :=
  (s.tlbFind core part asid va).map fun e => (e.pfn * 2 ^ 16 + va % 2 ^ e.shift, e.perm)

/-- Translation by what a requester holds: a walk's answer, else a TLB hit whose permissions serve (R60), else a miss. An access to a frame that is
being copied waits as a miss does (R70). -/
def State.xlateBy (s : State) (res : List WalkResult) (hit : Option (Nat × Nat)) (priv : Bool) (need : Need) (va : Nat) : Xl :=
  if 2 ^ 48 ≤ va then .fault 1 0xFF
  else match res.find? fun r => decide (r.frame = va / 2 ^ 16) with
  | some r =>
    if r.cause ≠ 0 then .fault r.cause r.level
    else
      let pa := r.pfn * 2 ^ 16 + va % 2 ^ 16
      let c := leafCause priv need pa r.perm
      if c ≠ 0 then .fault c r.level else if s.onHold pa then .miss else .ok pa r.perm
  | none =>
    match hit with
    | some (pa, perm) => if leafCause priv need pa perm = 0 ∧ s.onHold pa = false then .ok pa perm else .miss
    | none => .miss
/-- Translation of an access of a flight. -/
def State.xlate (s : State) (f : Flight) (asid : Nat) (need : Need) (va : Nat) : Xl :=
  s.xlateBy f.walkRes (s.tlbHit f.core f.part asid va) f.priv need va

/-- Level at which the translation of an address ended, and the size of the page that it used, where it succeeded. -/
def State.xlLeaf (s : State) (f : Flight) (asid va : Nat) : Nat × Nat :=
  match f.walkRes.find? fun r => decide (r.frame = va / 2 ^ 16) with
  | some r => (r.level, r.shift)
  | none =>
    match s.tlbFind f.core f.part asid va with
    | some e => (if e.shift = 16 then 0 else if e.shift = 21 then 1 else 2, e.shift)
    | none => (0xFF, 16)
def State.xlLevel (s : State) (f : Flight) (asid va : Nat) : Nat := (s.xlLeaf f asid va).1

/-! ### Misses and the walk request table (R61) -/

def Miss.is (m : Miss) (core asid frame : Nat) : Bool := decide (m.core = core) && decide (m.asid = asid) && decide (m.frame = frame)
def WalkReq.is (w : WalkReq) (die asid frame : Nat) : Bool := decide (w.die = die) && decide (w.asid = asid) && decide (w.frame = frame)
/-- Miss entries of a core, and requests of a die. -/
def TransSys.missesOf (t : TransSys) (core : Nat) : List Miss := t.misses.filter fun m => decide (m.core = core)
def TransSys.walksOf (t : TransSys) (die : Nat) : List WalkReq := t.walks.filter fun w => decide (w.die = die)

/-- A request enters the table of a die, with every miss of the die that matches it. -/
def TransSys.request (t : TransSys) (die asid frame : Nat) : TransSys :=
  { t with
    walks := if t.walks.any fun w => w.is die asid frame then t.walks else t.walks ++ [⟨die, asid, frame⟩]
    misses := t.misses.map fun m => if dieOf m.core = die ∧ m.asid = asid ∧ m.frame = frame then { m with sent := true } else m }

/-- While a die's table has room, the misses that wait at the cores are taken in round-robin order of the cores, one at a time. -/
def TransSys.takeMisses (t : TransSys) (die : Nat) : Nat → TransSys
  | 0 => t
  | n + 1 =>
    let wait := t.misses.filter fun m => decide (dieOf m.core = die) && !m.sent
    if 256 ≤ (t.walksOf die).length then t
    else match (sortBy Miss.core wait).find? (fun m => decide (mget 0 t.walkTurn die < m.core + 1)) |>.or (sortBy Miss.core wait).head? with
    | none => t
    | some m => TransSys.takeMisses { t.request die m.asid m.frame with walkTurn := mset 0 t.walkTurn die (m.core + 1) } die n

/-- A requester on a core misses a frame: it joins the core's miss entry, or takes one of the 64. A miss that matches a request joins it; another
enters the table when there is room. -/
def TransSys.addMiss (t : TransSys) (id core asid frame : Nat) : TransSys :=
  if t.misses.any fun m => m.is core asid frame then
    { t with misses := t.misses.map fun m => if m.is core asid frame then { m with who := if id ∈ m.who then m.who else m.who ++ [id] } else m }
  else if 64 ≤ (t.missesOf core).length then { t with heldMiss := if id ∈ t.heldMiss then t.heldMiss else t.heldMiss ++ [id] }
  else
    let die := dieOf core
    let t := { t with misses := t.misses ++ [⟨core, asid, frame, [id], false⟩] }
    if (t.walks.any fun w => w.is die asid frame) || decide ((t.walksOf die).length < 256) then t.request die asid frame else t

/-- The frames that a requester misses. -/
def TransSys.addMisses (t : TransSys) (id core asid : Nat) (frames : List Nat) : TransSys :=
  (dedup frames).foldl (fun t fr => t.addMiss id core asid fr) { t with heldMiss := t.heldMiss.filter (· ≠ id) }

/-- A flight waits for the walks of the frames it misses, and leaves the active set unless its residual queue holds it there (R61, R196). -/
def State.askWalks (s : State) (id : Nat) (asid : Nat) (frames : List Nat) : State :=
  match s.flight? id with
  | none => s
  | some f => { s with tr := s.tr.addMisses id f.core asid frames }.setFlight f.leaveActive

/-- Whether a flight still waits for a walk, or for a miss entry of its core. -/
def State.walking (s : State) (f : Flight) : Bool :=
  (s.tr.misses.any fun m => decide (f.id ∈ m.who)) || (decide (f.id ∈ s.tr.heldMiss) && decide (64 ≤ (s.tr.missesOf f.core).length))

/-! ### TLBs and the walk cache (R58) -/

/-- A TLB entry enters its store of `ways` ways and `cap` entries. Which entries share a set, and which is lost, is not said (log 22): from `ways` entries
on one may be lost, and from `cap` on one is. -/
def State.tlbPut (s : State) (ways cap : Nat) (e : TlbEntry) : State :=
  let l := s.tr.tlb
  let mine := l.filter fun x => decide (x.core = e.core) && decide (x.part = e.part)
  let (k, s) := s.free
  let keep := decide (mine.length < ways) || (decide (mine.length < cap) && decide (k % 2 = 0))
  let l := if keep then l else
    match mine[k / 2 % mine.length]? with
    | some v => l.filter (· ≠ v)
    | none => l
  { s with tr := { s.tr with tlb := l ++ [e] } }

/-- Entries of a store that hold an address go. -/
def State.tlbDrop (s : State) (core part asid va : Nat) : State :=
  { s with tr := { s.tr with tlb := s.tr.tlb.filter fun e =>
      !(decide (e.core = core) && decide (e.part = part) && decide (e.asid = asid) && decide (e.vpn = va / 2 ^ e.shift)) } }

/-- What a walk found replaces what the stores hold of the address (R60): the leaf whole, or one frame when a remapping touches it (R70); nothing for a
walk that faults (R58). -/
def State.install (s : State) (core part asid va : Nat) (w : Walked) : State :=
  let s := (s.tlbDrop core part asid va).tlbDrop core 6 asid va
  if w.res.cause ≠ 0 then s else
  let e : TlbEntry :=
    if s.remapsIn w.base w.shift then ⟨core, part, asid, 16, va / 2 ^ 16, w.res.pfn, w.res.perm⟩
    else ⟨core, part, asid, w.shift, va / 2 ^ w.shift, w.base / 2 ^ 16, w.res.perm⟩
  let s := if part < 6 then s.tlbPut 32 32 e else s
  s.tlbPut 8 2048 { e with part := 6 }

/-- Pointer entries enter the walk cache of the die (R58). -/
def State.cachePtrs (s : State) (ps : List WalkEntry) : State :=
  ps.foldl (fun s e =>
    let mine := s.tr.wcache.filter fun x => decide (x.die = e.die)
    let (k, s) := s.free
    let l := if mine.length < 256 then s.tr.wcache else
      match mine[k % 256]? with
      | some v => s.tr.wcache.filter (· ≠ v)
      | none => s.tr.wcache
    { s with tr := { s.tr with wcache := l ++ [e] } }) s

/-- A walk that must wait: its leaf's frame, or a table entry it reads, is in copy (R70), or the home of an entry moves (R15). -/
def State.walkWaits (s : State) (va : Nat) (w : Walked) : Bool :=
  (decide (w.res.cause = 0) && s.onHold (w.base + va % 2 ^ w.shift)) || w.reads.any fun a => s.onHold a || s.homeMoves a

/-- A walk's answer among those a requester has. -/
def putRes (l : List WalkResult) (r : WalkResult) : List WalkResult := l.filter (fun x => decide (x.frame ≠ r.frame)) ++ [r]

/-- One requester on a core receives a walk's answer. -/
def State.giveWalk (s : State) (core asid va : Nat) (w : Walked) (id : Nat) : State :=
  match s.flight? id with
  | some f => if f.core = core then (s.setFlight { f with walkRes := putRes f.walkRes w.res }).install core f.part asid va w else s
  | none =>
    match s.cmd? id with
    | some c => if c.core = core then (s.setCmd { c with walkRes := putRes c.walkRes w.res }).install core 6 asid va w else s
    | none => s

/-- The requesters of a miss entry receive a walk's answer. -/
def State.giveMiss (s : State) (asid va : Nat) (w : Walked) (m : Miss) : State := m.who.foldl (fun s id => s.giveWalk m.core asid va w id) s

/-- The misses that a request stands for. -/
def Miss.servedBy (m : Miss) (die asid frame : Nat) : Bool := decide (dieOf m.core = die) && decide (m.asid = asid) && decide (m.frame = frame)

/-- WALK_COMPLETE (R61): one of the die's 32 oldest requests completes, every requester receives its result, and the table takes waiting misses. -/
def execWalkComplete (die asid frame : Nat) (s : State) : Host.Outcome State Fault Refusal :=
  if !(((s.tr.walksOf die).take 32).any fun w => w.is die asid frame) then .next s else
  let va := frame * 2 ^ 16
  let w := s.walk die asid va
  if s.walkWaits va w then .next s else
  let served := s.tr.misses.filter fun m => m.servedBy die asid frame
  let t : TransSys := { s.tr with
    walks := s.tr.walks.filter fun w => !w.is die asid frame, misses := s.tr.misses.filter fun m => !m.servedBy die asid frame }
  let s := { s with tr := t.takeMisses die t.misses.length }.cachePtrs w.ptrs
  .next (served.foldl (fun s m => s.giveMiss asid va w m) s)

/-! ### Code fetch -/

inductive Fetch where
  | ok (ws : List Word)
  | trap (t : TrapInfo)
  | miss (frame : Nat)
  /-- The home of the word moves (R15), or a view there is being retired (R27). -/
  | wait
  deriving DecidableEq, Repr

/-- A code word at `pa`: a word rewritten since admission is old or new (R227); `k` picks the free value. -/
def State.codeWord (s : State) (l : Launch) (k pa : Nat) : Word :=
  let old (i : Nat) : Option Byte := (findBy Prod.fst l.oldCode (pa + i)).map Prod.snd
  let new (i : Nat) : Byte := match paSpace pa with | some .dev => BitVec.ofNat 8 ((s.reg ((pa - regOff) / 8 * 8)).toNat / 2 ^ (8 * ((pa + i) % 8))) | _ => s.homeByte (pa + i)
  let stale := (List.range 4).any fun i => (old i).isSome
  let b (i : Nat) : Byte := if stale && decide (Config.freeNat (s.freeCtr + k) % 2 = 1) then (old i).getD (new i) else new i
  BitVec.ofNat 32 (ofLe [b 0, b 1, b 2, b 3])

/-- One code word of a flight (R222, R63, R307). A valid view's addresses bypass translation and hold no instructions: EX is 0 there (log 81).
A poisoned word has no destination to mark, so CAUSE is 2 (log 87). -/
def State.fetchWord (s : State) (f : Flight) (k va : Nat) : Fetch :=
  let l := s.launchOf f
  if va % 4 ≠ 0 then .trap { code := 0x12, mask := f.exm, addr := va }
  else match s.zrAt l.asid va with
  | some n => if (s.zr l.asid n).err = 15 then .wait else .trap { code := 0x11, cause := 6, info := 0xFF, mask := f.exm, addr := va }
  | none =>
  match s.xlate f l.asid .ex va with
  | .miss => .miss (va / 2 ^ 16)
  | .fault c lv => .trap { code := causeTrap c, cause := c, info := lv, mask := f.exm, addr := va }
  | .ok pa _ =>
    if s.homeMoves pa then .wait
    else if (s.poisonIn pa 4).isSome then .trap { code := 0x18, cause := 2, mask := f.exm, addr := va, aux := 0x1FF + (f.pc % 2 ^ 48) * 2 ^ 16 }
    else .ok [s.codeWord l k pa]

/-- Words of `n` instructions from `va` (R222). -/
def State.fetchInstrs (s : State) (f : Flight) : Nat → Nat → Nat → Fetch
  | 0, _, _ => .ok []
  | n + 1, k, va =>
    match s.fetchWord f k va with
    | .ok (w :: _) =>
      if w.getLsbD 0 then
        match s.fetchWord f (k + 1) ((va + 4) % 2 ^ 48) with
        | .ok (w1 :: _) =>
          match s.fetchInstrs f n (k + 2) ((va + 8) % 2 ^ 48) with
          | .ok r => .ok (w :: w1 :: r)
          | e => e
        | e => e
      else
        match s.fetchInstrs f n (k + 1) ((va + 4) % 2 ^ 48) with
        | .ok r => .ok (w :: r)
        | e => e
    | e => e

/-! ### Clause headers (Table 10-1) -/

def hdrOk (w : Word) : Bool := decide (fld w 28 4 = 13) && decide (fld w 19 9 = 0) && decide (fld w 0 4 ≠ 0)
def hdrN (w : Word) : Nat := fld w 0 4
def hdrCls (w : Word) : Nat := fld w 4 3
def hdrWsb (w : Word) : Nat := fld w 7 8
def hdrWland (w : Word) : Bool := w.getLsbD 15
def hdrDef (w : Word) : Bool := w.getLsbD 16
def hdrRgn (w : Word) : Bool := w.getLsbD 17
def hdrChk (w : Word) : Bool := w.getLsbD 18

end Sys2Proof.Machine
end

