-- ==== Sys2Proof/Machine/Issue.lean ====
section
/-! DEFINITION. How an instruction issues: its description, the checks in the order of R237, R308 and R415, waiting and deferral
(R189 to R195), and what issuing does whatever the instruction (R175 to R179, R222, R234, R235, R392). Every meaning of an instruction
row is `issue` of its description. -/

namespace Sys2Proof.Machine

/-- What an instruction sees: its flight (with captured operands when it runs from the residual queue), its place, and the symbol
minted for it. -/
structure Ctx where
  f : Flight
  pc : Nat
  seq : Nat
  queued : Bool := false
  sym : Nat := 0
  deriving DecidableEq, Repr

/-- What an instruction computes: register writes, FSTAT flags and counts, stochastic states, and lanes that die (R249). -/
structure Out where
  writes : List RegWrite := []
  flags : Nat := 0
  cnt : Counts := {}
  rng : List (Nat × Word) := []
  dead : DWord := 0
  deriving DecidableEq, Repr

/-- Outcome of a check. -/
inductive Verdict where
  | go
  | trap (t : TrapInfo)
  | hold (s : State)

/-- How an instruction meets pending registers (R189 to R193): it waits or defers; it is a memory instruction (R192); it never defers
(R193, first list); or it waits for an empty queue (R193, second list). -/
inductive DKind where
  | normal
  | mem (k : MemKind)
  | stop
  | empty
  deriving DecidableEq, Repr

/-- Latency of the register results of `res` (Table 10-18). -/
inductive Lat where
  | fixed (n : Nat)
  | late
  | none
  deriving DecidableEq, Repr

/-- What a shadow pair compares of an instruction with an effect outside the flight (R418): per lane, addresses and data. -/
abbrev ExtData := List (Nat × Nat × Nat)

/-- The description of an instruction. -/
structure Desc where
  cls : Nat
  st : Nat := 0
  cc : Nat := 3
  /-- Control transfer (R225). -/
  transfer : Bool := false
  /-- Third row of Table 10-28. -/
  encBad : Bool := false
  /-- SCOPE or ORD against R147. -/
  scopeBad : Bool := false
  /-- An immediate code in B's place that the opcode lists and refuses (R262). -/
  codeBad : Bool := false
  opnds : List Opnd := []
  perLane : Bool := true
  collective : Bool := false
  /-- Lanes of its vector operands that it reads, where they are not all that take part (R263, R315). -/
  takes : Flight → DWord := fun _ => BitVec.allOnes 64
  /-- Raises trap 0x07 in a regrouped flight (R352), and other cases of that trap. -/
  tiled : Bool := false
  chk07 : Ctx → State → Bool := fun _ _ => false
  /-- Must end an idempotent region (R307, R361). -/
  region : Bool := false
  mints : Bool := false
  dkind : DKind := .normal
  sb : Option Nat := none
  lat : Lat := .none
  /-- The encoded fields, for the comparison of R418. -/
  ext : Option (Ctx → State → ExtData) := none
  /-- Its register values go through the load-value queue of a shadow pair (R417). -/
  shadowed : Bool := false
  /-- A wait, whose completion a shadow takes from its leader (R417). -/
  waits : Bool := false
  /-- Writes FSTAT itself, which never raises trap 0x1A (R296). -/
  quiet : Bool := false
  /-- Further cases of trap 0x02: cause, mask, specifier. -/
  chk02 : Ctx → State → Option (Nat × DWord × Nat) := fun _ _ => none
  /-- Trap 0x11 for privilege, and other traps an entry gives before the memory lane traps. -/
  chkPriv : Ctx → State → Option TrapInfo := fun _ _ => none
  /-- Lane traps, translation and waits. -/
  pre : Ctx → State → Verdict := fun _ _ => .go
  /-- What holds the instruction back after every trap: its bucket (R92), a full barrier store, an unsatisfied wait. -/
  room : Ctx → State → Verdict := fun _ _ => .go
  res : Ctx → State → Out := fun _ _ => {}
  /-- Granules that its lanes name (R192), and whether it is an atomic that acquires. -/
  gran : Ctx → State → List Nat := fun _ _ => []
  acq : Bool := false
  /-- Positions of operands that give no address (R192). -/
  data : List Nat := [0]
  /-- A landing prefetch (R316). -/
  land : Bool := false
  /-- Its addresses are not known before it reads. -/
  wild : Bool := false
  /-- Pending registers that a chained MMA takes inside the array (R337). -/
  chained : Flight → List Reg := fun _ => []
  /-- Effects beyond `res`, on the state after the flight has moved past the instruction. -/
  eff : Ctx → State → State := fun _ s => s

/-- Whether a shadow takes the outcome from its leader (R417, R418). -/
def Desc.fromLeader (d : Desc) : Bool := d.shadowed || d.waits || d.ext.isSome

/-- A memory or synchronisation instruction (R322). -/
def Desc.ordered (d : Desc) : Bool :=
  decide (d.cls = 3) || decide (d.cls = 6) || (match d.dkind with | .mem _ => true | _ => false)

/-- First vector register of a flight's affine registers (R184). -/
def State.afb (s : State) (f : Flight) : Nat := if f.isHandler then 0 else recAfb (s.recOf f)

def allOnes : DWord := BitVec.allOnes 64
/-- MASK of a trap that names no lanes of its own (R405). -/
def Desc.mask (d : Desc) (f : Flight) : DWord := if d.perLane then f.exm else allOnes

/-! ### Consumer counts (R176 to R179) -/

/-- Reads counted in operand order; the register that is released, if one is. -/
def countRead (n : Nat) : Nat → NMap (BitVec 2) → Except Nat (NMap (BitVec 2))
  | 0, m => .ok m
  | k + 1, m =>
    let c := mget 3#2 m n
    if c = 0#2 then .error n else countRead (n + 1) k (mset 3#2 m n (if c = 3#2 then 3#2 else c - 1))

def countReads (f : Flight) (afb : Nat) : List Opnd → NMap (BitVec 2) → Except Nat (NMap (BitVec 2))
  | [], m => .ok m
  | o :: r, m =>
    if o.reads then
      match okind o.spec, o.multi with
      | .v n, false =>
        match countRead n o.regs m with
        | .ok m => countReads f afb r m
        | .error e => .error e
      | _, _ =>
        match (o.vregs f afb).find? fun n => decide (mget 3#2 m n = 0#2) with
        | some n => .error n
        | none => countReads f afb r m
    else countReads f afb r m

/-- Registers whose state a read lowered to released lose their slots (R179). -/
def Flight.setCounts (f : Flight) (m : NMap (BitVec 2)) : Flight :=
  { f with counts := m, slots := f.slots.filter fun n => decide (mget 3#2 m n ≠ 0#2) }

/-- State that a write gives the registers of an operand: CC for a register named directly, else unlimited (R177, R178). -/
def Opnd.newCount (o : Opnd) (cc : Nat) : BitVec 2 :=
  match okind o.spec, o.multi with
  | .v _, false => BitVec.ofNat 2 cc
  | _, _ => 3#2
/-- A register's state set, with a landing slot for a short-lived value (R179, R298). -/
def Flight.writeCount (f : Flight) (n : Nat) (c : BitVec 2) : Flight :=
  if c = 1#2 ∨ c = 2#2 then (f.setCount n c).giveSlot n else f.setCount n c
/-- States set by the writes. -/
def countWrites (f : Flight) (afb cc : Nat) (view : Flight) : List Opnd → Flight
  | [] => f
  | o :: r =>
    countWrites (if o.writes then (o.vregs view afb).foldl (fun f n => f.writeCount n (o.newCount cc)) f else f) afb cc view r

/-! ### Index registers -/

/-- Index registers that some operand post-increments (R175). -/
def incremented (os : List Opnd) : List Nat :=
  dedup (os.filterMap fun o => match okind o.spec with | .vx n true => some n | _ => none)
def Flight.postIncs (f : Flight) (os : List Opnd) : Flight :=
  (incremented os).foldl (fun f n => (lanesOf f.exm).foldl (fun f l => f.wrX n l (postInc (f.rdX n l))) f) f

/-! ### Fixed-latency results (R234) -/

/-- Registers that an instruction reads or writes. -/
def Desc.regs (d : Desc) (f : Flight) (afb : Nat) : List Reg := dedup (d.opnds.flatMap fun o => o.regList f afb)

/-- Results that a consumer would meet too early. -/
def hazards (f : Flight) (clock : Nat) (regs : List Reg) : List Fixed :=
  f.fixed.filter fun x => decide (clock < x.ready) && decide (x.reg ∈ regs)

/-- Whether checking is on (R234, R400). -/
def State.checking (s : State) (f : Flight) : Bool :=
  f.chkAll || recChk (s.recOf f) || (match f.clause with | some c => c.chk | none => false)

/-- A register as it was before an undelivered result. -/
def Flight.undo (f : Flight) (x : Fixed) : Flight :=
  x.old.foldl (fun f (k, v) =>
    match x.reg with
    | .v _ => { f with v := mset 0 f.v k (BitVec.ofNat 32 v) }
    | .x _ => { f with x := mset 0 f.x k (BitVec.ofNat 32 v) }
    | .s n => { f with s := mset 0 f.s n (BitVec.ofNat 64 v) }
    | .p n => { f with p := mset 0 f.p n (BitVec.ofNat 64 v) }
    | _ => f) f

/-- What a register holds, for `Fixed.old`. -/
def Flight.cells (f : Flight) (r : Reg) : List (Nat × Nat) :=
  match r with
  | .v n => lanes.map fun l => (64 * n + l, (f.rdV n l).toNat)
  | .x n => lanes.map fun l => (64 * n + l, (f.rdX n l).toNat)
  | .s n => [(n, (f.rdS n).toNat)]
  | .p n => [(n, (f.rdP n).toNat)]
  | _ => []

/-- The flight as an early consumer sees it: each early result is there or not, which is not said (R234; free values, log 2). -/
def earlyView (ctr : Nat) (f : Flight) (hs : List Fixed) : Flight :=
  (enum hs).foldl (fun g (i, x) => if Config.freeNat (ctr + i) % 2 = 1 then g.undo x else g) f

/-- Registers, written twice in a window, in which the earlier result prevails. -/
def earlyLost (ctr : Nat) (hs : List Fixed) (dests : List Reg) : List Reg :=
  (enum hs).filterMap fun (i, x) => if x.reg ∈ dests ∧ Config.freeNat (ctr + 128 + i) % 2 = 1 then some x.reg else none

/-- Free values that one issue may use. -/
def freeStride : Nat := 512

/-! ### Poison (R411, R412) -/

/-- Marks an operand meets in the lanes that take part: (lane, address). -/
def Opnd.marked (f : Flight) (afb : Nat) (part : DWord) (o : Opnd) : List (Nat × Nat) :=
  if !o.reads then [] else
  f.marks.flatMap fun m =>
    match m.reg, okind o.spec with
    | .s n, .s k => if n = k then (lanesOf part).map fun l => (l, m.pa) else []
    | .tile n, .t k => if n = k then (lanesOf part).map fun l => (l, m.pa) else []
    | .v n, .v k => if k ≤ n ∧ n < k + o.regs ∧ part.getLsbD m.lane then [(m.lane, m.pa)] else []
    | .v n, .a k => if affBase afb k ≤ n ∧ n < affBase afb k + 16 ∧ part.getLsbD m.lane then [(m.lane, m.pa)] else []
    | .v n, .vx k _ =>
      if o.self then [] else
      match resolve f k o.regs m.lane with
      | .ok r => if r ≤ n ∧ n < r + o.regs ∧ part.getLsbD m.lane then [(m.lane, m.pa)] else []
      | .error _ => []
    | _, _ => []

/-- Trap 0x18 with CAUSE 1 (R412). -/
def poisonTrap (d : Desc) (f : Flight) (afb : Nat) : Option TrapInfo :=
  let part := if d.collective then f.live else if d.perLane then f.exm else allOnes
  let read (o : Opnd) : DWord := match okind o.spec with | .s _ => part | .t _ => part | _ => part &&& d.takes f
  let hits := d.opnds.map fun o => (o, o.marked f afb (read o))
  match hits.find? fun p => !p.2.isEmpty with
  | none => none
  | some (o, _) =>
    let all := hits.flatMap Prod.snd
    let low := all.foldl (fun a p => min a p.2) (2 ^ 48)
    some { code := 0x18, cause := 1, mask := maskOf (dedup (all.map Prod.fst)), addr := low, aux := o.spec }

/-! ### Checks before waiting -/

/-- Both words of the instruction (Table 17-4). -/
def Flight.bothWords (f : Flight) : Nat :=
  match f.clause with
  | some c =>
    match c.words with
    | w0 :: w1 :: _ => if w0.getLsbD 0 then w0.toNat + w1.toNat * 2 ^ 32 else w0.toNat
    | [w0] => w0.toNat
    | [] => 0
  | none => 0

/-- Words of the instruction at issue. -/
def Flight.wordCount (f : Flight) : Nat :=
  match f.clause with
  | some c => match c.words with | w0 :: _ => if w0.getLsbD 0 then 2 else 1 | [] => 1
  | none => 1

/-- The rows of Table 10-28 after the header's. -/
def encTrap (d : Desc) (f : Flight) (afb : Nat) : Option TrapInfo :=
  if d.transfer && !f.isLast then some { code := 0x03, cause := 3, mask := allOnes }
  else if d.encBad then some { code := 0x01, mask := d.mask f, aux := f.bothWords }
  else match d.opnds.find? fun o => o.bad f afb with
  | some o => some { code := 0x02, cause := o.pos, mask := d.mask f, aux := o.spec }
  | none =>
    if d.scopeBad then some { code := 0x02, cause := 4, mask := d.mask f }
    else if d.codeBad then some { code := 0x02, cause := 2, mask := d.mask f } else none

/-- Index register of an operand that fails. -/
def firstFail (f : Flight) (code : Nat) (os : List Opnd) : Option (Opnd × DWord) :=
  match os.find? fun o => !(o.failLanes f code).isEmpty with
  | none => none
  | some o => some (o, maskOf (dedup (os.flatMap fun o => o.failLanes f code)))

/-- Operand-state traps 0x06, 0x02, 0x05 and 0x04, in that order (R237); `values` says whether operand values are there to be looked at. -/
def stateTrap (d : Desc) (c : Ctx) (s : State) (afb : Nat) (hs : List Fixed) (checking values : Bool) : Option TrapInfo :=
  match firstFail c.f 0x06 d.opnds with
  | some (o, m) => some { code := 0x06, info := (match okind o.spec with | .vx n _ => n | _ => 0), mask := m }
  | none =>
    match (firstFail c.f 0x02 d.opnds).map (fun (o, m) => (o.pos, m, o.spec)) |>.or (if values then d.chk02 c s else none) with
    | some (p, m, sp) => some { code := 0x02, cause := p, mask := m, aux := sp }
    | none =>
      match countReads c.f afb d.opnds c.f.counts with
      | .error n => some { code := 0x05, mask := d.mask c.f, aux := n }
      | .ok _ =>
        match hs with
        | x :: _ => if checking then some { code := 0x04, info := x.ready - s.clock, mask := d.mask c.f, aux := x.pc } else none
        | [] => none

/-- The header after the clause, for an instruction that must end a region (R307, R361). -/
def regionTrap (d : Desc) (c : Ctx) (s : State) : Verdict :=
  if !d.region || c.queued then .go
  else if !c.f.isLast then .trap { code := 0x03, cause := 4, mask := d.mask c.f }
  else match s.fetchWord c.f 256 ((c.pc + 4 * c.f.wordCount) % 2 ^ 48) with
  | .miss fr => .hold (s.askWalks c.f.id (s.launchOf c.f).asid [fr])
  | .wait => .hold s
  | .trap t => .trap { t with mask := d.mask c.f }
  | .ok ws =>
    match ws with
    | w :: _ => if hdrOk w && hdrRgn w then .go else .trap { code := 0x03, cause := 4, mask := d.mask c.f }
    | [] => .trap { code := 0x03, cause := 4, mask := d.mask c.f }

/-- A minted symbol: trap 0x09 past the limit (R186). -/
def mintTrap (d : Desc) (f : Flight) : Option TrapInfo :=
  if d.mints && (decide (f.symLimit.toNat < f.symNext.toNat) || decide (4095 < f.symNext.toNat)) then
    some { code := 0x09, mask := d.mask f, xtra := f.symNext.toNat } else none

def Verdict.andThen (v : Verdict) (w : Unit → Verdict) : Verdict := match v with | .go => w () | v => v
def Verdict.ofTrap : Option TrapInfo → Verdict
  | some t => .trap t
  | none => .go

/-- The checks after the operand-state traps, in the order of R415. -/
def lateChecks (d : Desc) (c : Ctx) (s : State) (afb : Nat) : Verdict :=
  (regionTrap d c s).andThen fun _ =>
  (Verdict.ofTrap (if d.collective && decide (c.f.exm ≠ ~~~c.f.dead) then some { code := 0x07, mask := ~~~(c.f.exm ^^^ c.f.dead) } else none)).andThen fun _ =>
  (Verdict.ofTrap (if (d.tiled && c.f.regrouped) || d.chk07 c s then some { code := 0x07, mask := allOnes } else none)).andThen fun _ =>
  (Verdict.ofTrap (d.chkPriv c s)).andThen fun _ =>
  (Verdict.ofTrap (if c.queued then none else mintTrap d c.f)).andThen fun _ =>
  (if c.f.isShadow && d.fromLeader then .go else d.pre c s).andThen fun _ => Verdict.ofTrap (poisonTrap d c.f afb)

/-! ### Waiting and deferral -/

/-- Registers an instruction must wait for, in operand order. -/
def Desc.pend (d : Desc) (f : Flight) (afb : Nat) : List Reg := (d.regs f afb).filter fun r => f.isPending r && !decide (r ∈ d.chained f)

def MemKind.orders : MemKind → Bool
  | .store => true
  | .atomic => true
  | .fence => true
  | _ => false

/-- The youngest store, atomic or fence in the queue (R192). -/
def Flight.lastOrdered (f : Flight) : Option REntry := f.residual.reverse.find? fun e => e.mem.orders

/-- Whether a younger load is held back by the queue (R192); `grans` are its granules when its address is known. -/
def loadBehind (f : Flight) (grans : Option (List Nat)) : Bool :=
  f.residual.any fun e =>
    match e.mem with
    | .fence => true
    | .atomic => e.acq
    | .store => overlap e
    | _ => false
where
  overlap (e : REntry) : Bool :=
    match e.granules, grans with
    | some a, some b => a.any fun x => decide (x ∈ b)
    | _, _ => true

/-- Whether the flight defers in its clause (R190). -/
def Flight.deferring (f : Flight) : Bool := f.defer && (match f.clause with | some c => c.def_ | none => false)

inductive Meet where
  | go
  | wait (rs : List Reg)
  | enter (chain : Reg)
  deriving DecidableEq, Repr

/-- Index registers through which the operands name others. -/
def indexRegs (os : List Opnd) : List Reg := dedup (os.filterMap fun o => match okind o.spec with | .vx n _ => some (.x n) | _ => none)

/-- What an instruction does about pending registers (R189 to R193). One that names a register through a pending index register is waited for even when it
might defer: the queue takes resolved index operands (R190, log 86). -/
def meet (d : Desc) (f : Flight) (afb : Nat) (grans : Option (List Nat)) : Meet :=
  let p := d.pend f afb
  let xs := p.filter fun r => decide (r ∈ indexRegs d.opnds)
  let headOf (r : Reg) : Reg := match f.residual.find? fun e => decide (r ∈ e.dests) with | some e => e.chain | none => r
  match d.dkind with
  | .stop => if p.isEmpty then .go else .wait p
  | .empty => if p.isEmpty && f.residual.isEmpty then .go else .wait (p ++ f.residual.flatMap REntry.dests)
  | .normal =>
    match p with
    | [] => .go
    | r :: _ => if !f.deferring || !xs.isEmpty then .wait p else .enter (headOf r)
  | .mem k =>
    if !f.deferring then (if p.isEmpty then .go else .wait p)
    else if !xs.isEmpty then .wait p
    else
      let behind := match k with | .load => loadBehind f grans | _ => f.lastOrdered.isSome
      match p, behind with
      | [], false => .go
      | [], true => .enter (match f.lastOrdered with | some e => e.chain | none => .exm)
      | r :: _, false => .enter (headOf r)
      | r :: _, true => .enter (match f.lastOrdered with | some e => e.chain | none => headOf r)

/-! ### Who may issue -/

/-- Partition key. -/
def Flight.partKey (f : Flight) : Nat := 6 * f.core + f.part
def isVecClass (c : Nat) : Bool := decide (c = 1) || decide (c = 2) || decide (c = 5)

/-- Issue slots of the partition in this clock (R392). -/
def State.slotFree (s : State) (f : Flight) (cls : Nat) : Bool :=
  match (findBy Prod.fst s.sched.slots f.partKey).map Prod.snd with
  | none => true
  | some x =>
    decide (x.clock ≠ s.clock) || (decide (f.id ∉ x.flights) && decide (x.flights.length < 2) && !(if isVecClass cls then x.vec else x.other))

def State.takeSlot (s : State) (f : Flight) (cls : Nat) : State :=
  let old := ((findBy Prod.fst s.sched.slots f.partKey).map Prod.snd).getD ⟨s.clock, [], false, false⟩
  let old := if old.clock = s.clock then old else ⟨s.clock, [], false, false⟩
  let new : IssueSlot := ⟨s.clock, old.flights ++ [f.id], old.vec || isVecClass cls, old.other || !isVecClass cls⟩
  { s with sched := { s.sched with slots := mset ⟨0, [], false, false⟩ s.sched.slots f.partKey new } }

/-- A flight may come to issue: active, held by nothing, its launch running, and its clock come. -/
def State.canIssue (s : State) (f : Flight) (cls : Nat) : Bool :=
  f.isActive && !s.isHeld f && (match f.port with | .free => true | _ => false) && !f.leaving && f.capTrap.isNone
  && decide (f.nextIssue ≤ s.clock) && s.slotFree f cls && !f.bucketParked && !f.crossing

/-- A tile that the instruction writes is still being read (R332). -/
def Desc.tileClash (d : Desc) (f : Flight) : Bool :=
  d.opnds.any fun o => o.writes && (match okind o.spec with
    | .t n => (f.ops.any fun p => decide (.tile n ∈ p.reads)) || (f.residual.any fun e => decide (.tile n ∈ e.tiles))
    | _ => false)

/-- An outstanding FENCE, after which later MEM and SYNC instructions wait (R322). -/
def Flight.openFence (f : Flight) : Bool := f.ops.any fun o => decide (o.kind = .fence)
/-- The same with one in the queue: what may defer joins it there, and the rest waits (R192, R322). -/
def Flight.fenced (f : Flight) : Bool := f.openFence || f.residual.any fun e => decide (e.mem = .fence)

/-- Trap 0x18 with CAUSE 2 at an instruction boundary (R412). -/
def refusalTrap (f : Flight) : Option TrapInfo :=
  match f.refused with
  | [] => none
  | r :: rs =>
    let same := (r :: rs).filter fun x => decide (x.pc = r.pc)
    some { code := 0x18, cause := 2, mask := maskOf (dedup (same.map Refused.lane)),
           addr := same.foldl (fun a x => min a x.pa) r.pa, aux := 0x1FF + (r.pc % 2 ^ 48) * 2 ^ 16 }

/-- The refusals that the trap reports are taken. -/
def Flight.takeRefusals (f : Flight) : Flight :=
  match f.refused with
  | [] => f
  | r :: _ => { f with refused := f.refused.filter fun x => decide (x.pc ≠ r.pc) }

/-! ### Shadow pairs (R416 to R420) -/

/-- Whether the values of an operation go to the shadow (R417). -/
def Op.shared (o : Op) : Bool :=
  match o.kind with
  | .load | .tileLoad | .zerr | .azld | .semRd | .lnch => true
  | .atomic => !o.toZero
  | .result => o.acquired
  | _ => false

/-- What the pair compares lane by lane: AUX bits that differ and lanes (R420). -/
def extDiff (a b : ExtData) : Nat × DWord :=
  let diff (g : Nat × Nat × Nat → Nat) : List Nat :=
    a.filterMap fun x => match b.find? fun y => decide (y.1 = x.1) with | some y => if g x ≠ g y then some x.1 else none | none => none
  let da := diff fun x => x.2.1
  let dd := diff fun x => x.2.2
  ((if da.isEmpty then 0 else 1) + (if dd.isEmpty then 0 else 2), maskOf (da ++ dd))

/-- Trap 0x19 for what two flights' views of an instruction differ in (R418, R420): fields, place, a trap of the shadow alone, EXM, addresses and data. MASK
holds the lanes, or all ones where the difference is of the instruction as a whole. -/
def mismatch (d : Desc) (a b : ExtData) (f g : Flight) (fields place trapped : Bool) : Option TrapInfo :=
  let (n, lanes) := extDiff a b
  let aux := n + (if f.exm ≠ g.exm then 4 else 0) + (if fields then 8 else 0) + (if place then 16 else 0) + (if trapped then 32 else 0)
  if aux = 0 then none
  else some { code := 0x19, addr := ((a.head?).map fun x => x.2.1).getD 0, aux, held := true,
              mask := if 8 ≤ aux ∨ (n ≠ 0 ∧ d.perLane = false) then allOnes else lanes ||| (f.exm ^^^ g.exm) }

/-- Whether the shadow's own copy of the instruction would trap. -/
def shadowTraps (d : Desc) (c : Ctx) (s : State) (g : Flight) : Bool :=
  let c : Ctx := { c with f := g, pc := g.pc, seq := g.seq, sym := g.symNext.toNat }
  let checking := s.checking g
  (stateTrap d c s (s.afb g) (hazards g s.clock (d.regs g (s.afb g))) checking true).isSome
  || (match lateChecks d c s (s.afb g) with | .trap _ => true | _ => false)

/-- Words of the instruction at which a flight stands. -/
def Flight.atWords (f : Flight) : List Word := match f.clause with | some k => k.words.take f.wordCount | none => []

/-- The comparison for a leader's instruction with an effect outside (R418): the shadow must stand at the same instruction, with its operands landed. -/
def shadowCheck (d : Desc) (c : Ctx) (s : State) (g : Flight) : Verdict :=
  match d.ext with
  | none => .go
  | some ext =>
    let f := c.f
    if g.seq < f.seq ∨ g.clause.isNone ∨ s.clock < g.nextIssue ∨ !(d.pend g (s.afb g)).isEmpty then .hold s
    else Verdict.ofTrap (mismatch d (ext c s) (ext { c with f := g, pc := g.pc } s) f g (decide (f.atWords ≠ g.atWords)) (decide (f.pc ≠ g.pc)) (shadowTraps d c s g))

/-- Instructions whose values and completions fill the load-value queue of a pair: those that wait there, and those of the leader still to land (R417). -/
def lvqRoom (f g : Flight) : Bool := decide (g.lvq.length + (f.ops.filter Op.shared).length < 256)

/-- What a shadow pair asks of an instruction before it issues. -/
def pairCheck (d : Desc) (c : Ctx) (s : State) : Verdict :=
  match s.partner c.f with
  | none => .go
  | some g =>
    match c.f.kind with
    | .leader =>
      if d.ext.isSome then shadowCheck d c s g
      else if (d.shadowed || d.waits) && !lvqRoom c.f g then .hold s else .go
    | .shadow _ =>
      if d.ext.isSome then .hold s
      else if (d.shadowed || d.waits) && decide (g.seq ≤ c.f.seq) then .hold s
      else match d.lat with
        | .fixed _ => if d.shadowed && !(c.f.lvq.any fun x => decide (x.seq = c.seq)) then .hold s else .go
        | _ => .go
    | .handler _ => .go

/-! ### The gate -/

inductive Gate where
  | go (c : Ctx)
  | enter (c : Ctx) (chain : Reg)
  | trap (t : TrapInfo)
  | hold (s : State)

/-- A flight that must wait leaves the active set, unless its queue holds it there (R391, R196). -/
def State.waitFor (s : State) (f : Flight) (rs : List Reg) : State :=
  if f.residual.isEmpty then s.setFlight { (f.leaveActive) with blocked := rs } else s

/-- Registers that an instruction's addresses come from. -/
def Desc.addressRegs (d : Desc) (f : Flight) (afb : Nat) : List Reg :=
  dedup ((d.opnds.filter fun o => decide (o.pos ∉ d.data)).flatMap fun o => o.regList f afb)
/-- Granules of an instruction's lanes; unknown while a register of its address is pending, or it reads for its addresses. -/
def granulesOf (d : Desc) (c : Ctx) (s : State) (afb : Nat) : Option (List Nat) :=
  if !d.wild && (d.addressRegs c.f afb).all (fun r => !c.f.isPending r) then some (d.gran c s) else none

/-- Everything between an instruction coming to issue and its issuing. -/
def gate (d : Desc) (f : Flight) (s : State) : Gate :=
  if !s.canIssue f d.cls then .hold s else
  match refusalTrap f with
  | some t => .trap t
  | none =>
  if f.openFence && d.ordered then .hold s else
  let afb := s.afb f
  match encTrap d f afb with
  | some t => .trap t
  | none =>
  if d.tileClash f then .hold s else
  let checking := s.checking f
  let hs := hazards f s.clock (d.regs f afb)
  let view := if checking then f else earlyView s.freeCtr f hs
  let c : Ctx := { f := view, pc := f.pc, seq := f.seq, sym := f.symNext.toNat }
  match meet d f afb (granulesOf d c s afb) with
  | .wait rs => .hold (s.waitFor f rs)
  | .enter chain =>
    match stateTrap d c s afb hs checking false with
    | some t => .trap t
    | none =>
    match mintTrap d f with
    | some t => .trap t
    | none =>
    if 63 ≤ (match d.sb with | some k => f.token k | none => 0) then .hold s else .enter c chain
  | .go =>
    if f.fenced && d.ordered then .hold s
    /- A shadow's instruction with an effect outside is its leader's to compare, traps and all (R418, R420). -/
    else if f.isShadow && d.ext.isSome then .hold s else
    match stateTrap d c s afb hs checking true with
    | some t => .trap t
    | none =>
    let full := 63 ≤ (match d.sb with | some k => f.token k | none => 0)
    match ((lateChecks d c s afb).andThen fun _ => pairCheck d c s).andThen fun _ =>
        if full then .hold s else if c.f.isShadow && d.fromLeader then .go else d.room c s with
    | .trap t => .trap t
    | .hold s => .hold s
    | .go => .go c

/-! ### What issuing does -/

/-- Lanes of a flight die, and with them those of its pair (R360, R419), with a report of kind 5; a flight with no lane left ends (R414),
but for one in a regrouped stretch. `frame` is that of a handler run's flight. -/
def State.killLanesOf (s : State) (id : Nat) (m : DWord) (frame : List DWord) : State :=
  match s.flight? id with
  | none => s
  | some f =>
    let m := m &&& ~~~f.dead
    if m = 0 then s else
    let s := s.setFlight (f.killLanes m)
    let s := match s.partner f with | some g => s.setFlight (g.killLanes m) | none => s
    let s := s.reportFlight f 5 [m.toNat, (f.dead ||| m).toNat, f.fidx] frame
    let gone (s : State) (g : Flight) : State := if (f.killLanes m).live = 0 ∧ f.regrouped = false ∧ f.isHandler = false then s.endFlight g.id else s
    match s.partner f with
    | some g => gone (gone s f) g
    | none => gone s f

/-- Counts, landing slots and index registers after an instruction that reads and writes what `view` shows. -/
def Flight.counted (f : Flight) (d : Desc) (view : Flight) (afb : Nat) : Flight :=
  let f := match countReads view afb d.opnds f.counts with | .ok m => f.setCounts m | .error _ => f
  (countWrites f afb d.cc view d.opnds).postIncs d.opnds

/-- Tokens after an instruction with a scoreboard operand. -/
def Flight.tokensFor (f : Flight) (sb : Option Nat) : NMap Nat := match sb with | some k => (f.addToken k).tokens | none => f.tokens

/-- The flight's counts, index registers, token, symbol, place and clock after an instruction has issued or entered the queue. -/
def Flight.issued (f : Flight) (d : Desc) (view : Flight) (afb clock : Nat) : Flight :=
  let g := f.counted d view afb
  { g with
    lastIssue := clock + 1, tokens := f.tokensFor d.sb, symNext := if d.mints then f.symNext + 1 else f.symNext, nextIssue := clock + 1 + d.st,
    fixed := f.fixed.filter (fun x => decide (clock < x.ready)), walkRes := [], wait := none, blocked := [] }.advance f.wordCount

/-- Fixed-latency results are written, each remembering what its register held (R234). -/
def Flight.deliver (f : Flight) (ws : List RegWrite) (lat clock pc : Nat) : Flight :=
  let regs := dedup (ws.map RegWrite.reg)
  let fx := regs.map fun r => ({ reg := r, ready := clock + lat, pc, old := f.cells r } : Fixed)
  { (ws.foldl Flight.regWrite f) with fixed := f.fixed.filter (fun x => decide (x.reg ∉ regs)) ++ fx }

/-- FSTAT, stochastic states. -/
def Flight.account (f : Flight) (o : Out) : Flight :=
  let f := if o.flags = 0 ∧ o.cnt = {} then f else { f with fstat := fstatAdd f.fstat o.flags o.cnt }
  o.rng.foldl (fun f (l, w) => f.setRng l w) f

/-- Destination registers of an instruction. -/
def Desc.dests (d : Desc) (f : Flight) (afb : Nat) : List Reg := dedup (d.opnds.flatMap fun o => o.destList f afb)

/-- Results of `calc` that land later, with the lanes that die then (R249); `crossed` is 0, or 1 for an instruction and 2 for a queued one whose counts have crossed THR. -/
def State.later (s : State) (c : Ctx) (dests : List Reg) (o : Out) (lost : List Reg) (sb : Option Nat) (crossed : Nat) : State :=
  s.addOp c.f.id fun id => { id, seq := c.seq, pc := c.pc, kind := .result, dests, writes := o.writes, sb, lost, crossed, kills := o.dead }

/-- Traps after results (R415): trap 0x1A when the counters cross THR, then trap 0x22 under STEP. -/
def State.afterResults (s : State) (id pc : Nat) (old : Option DWord) : State :=
  match s.flight? id with
  | none => s
  | some f =>
    if f.trap.isSome || f.isEnded || f.crossing then s
    else if fstatCross (old.getD f.fstat) f.fstat then s.raiseTrap id { code := 0x1A, cause := 1, mask := 0, pc := some pc }
    else if f.step then s.raiseTrap id { code := 0x22, mask := 0, pc := some pc } else s

/-- A shadow's instruction whose value comes from its leader (R417). -/
def State.takeLater (s : State) (id seq pc : Nat) (dests : List Reg) (sb : Option Nat) : State :=
  s.addOp id fun o => { id := o, seq, pc, kind := .result, dests, sb, lv := true }

/-- Values go to the shadow of a pair (R417). -/
def State.giveShadow (s : State) (f : Flight) (seq : Nat) (ws : List RegWrite) (ms : List PMark) : State :=
  match f.kind, s.partner f with
  | .leader, some g => s.setFlight { g with lvq := g.lvq ++ [⟨seq, ws, ms⟩] }
  | _, _ => s

/-- Operations just begun honour the early results that prevail over theirs (R234). -/
def State.loseEarly (s : State) (id seq : Nat) (lost : List Reg) : State :=
  if lost.isEmpty then s else s.updFlight id fun f => { f with ops := f.ops.map fun o => if o.seq = seq then { o with lost } else o }

/-- A leader's instruction that has no operation to wait for, since no lane takes part, gives the shadow its place in the queue at once (R417). -/
def State.giveNothing (s : State) (f : Flight) (seq : Nat) : State :=
  match s.flight? f.id with
  | some g => if g.ops.any fun o => decide (o.seq = seq) then s else s.giveShadow f seq [] []
  | none => s

/-- What the effect of an instruction does to its flight: results, accounts, deaths, and effects of its own. -/
def runBody (d : Desc) (c : Ctx) (dests lost : List Reg) (s : State) : State :=
  if c.f.isShadow && d.shadowed then
    match d.lat with
    | .fixed n =>
      let ws := ((c.f.lvq.find? fun x => decide (x.seq = c.seq)).map LoadValue.writes).getD []
      s.updFlight c.f.id fun f => { (f.deliver ws n s.clock c.pc) with lvq := f.lvq.filter fun x => decide (x.seq ≠ c.seq) }
    | _ => s.takeLater c.f.id c.seq c.pc dests d.sb
  else
  let o := d.res c s
  let o := { o with writes := o.writes.filter fun w => decide (w.reg ∉ lost) }
  let before := ((s.flight? c.f.id).map Flight.fstat).getD 0
  let s := s.updFlight c.f.id fun f => f.account o
  let after := ((s.flight? c.f.id).map Flight.fstat).getD 0
  let crossed := if !d.quiet && fstatCross before after then (if c.queued then 2 else 1) else 0
  let s :=
    match d.lat, c.queued with
    | .fixed n, false =>
      let s := s.updFlight c.f.id fun f => f.deliver o.writes n s.clock c.pc
      (if d.shadowed then s.giveShadow c.f c.seq o.writes [] else s).killLanesOf c.f.id o.dead []
    | .none, _ => s.updFlight c.f.id fun f => o.writes.foldl Flight.regWrite f
    | _, _ => s.later c dests o lost (if d.lat = Lat.late then d.sb else none) crossed
  let s := (d.eff c s).loseEarly c.f.id c.seq lost
  if d.shadowed && (match d.lat with | .fixed _ => c.queued | _ => true) then s.giveNothing c.f c.seq else s

/-- A pair moves on together past an instruction with an effect outside the flight (R418), and both regions end where it ends one (R408). A leader's wait
that has completed takes its place in the load-value queue, and its shadow takes it out (R417). -/
def passShadow (d : Desc) (f : Flight) (clock : Nat) (s : State) : State :=
  if d.ext.isNone then
    if d.waits && !d.shadowed then
      if f.isShadow then s.updFlight f.id fun g => { g with lvq := g.lvq.filter fun x => decide (x.seq ≠ f.seq) } else s.giveShadow f f.seq [] []
    else s
  else
  match s.partner f with
  | none => s
  | some g =>
    let afb := s.afb g
    let h := g.issued { d with sb := none } g afb clock
    let s := s.setFlight (if ((s.flight? f.id).map fun x => x.region.valid) = some false then h.endRegion else h)
    if d.shadowed then s.takeLater g.id g.seq g.pc (d.dests g afb) none else s

/-- An instruction issues. -/
def commit (d : Desc) (c : Ctx) (s : State) : State :=
  match s.flight? c.f.id with
  | none => s
  | some f =>
    let afb := s.afb f
    let hs := if s.checking f then [] else hazards f s.clock (d.regs f afb)
    let dests := d.dests c.f afb
    let lost := earlyLost s.freeCtr hs dests
    let s1 := ({ s with freeCtr := s.freeCtr + freeStride }).takeSlot f d.cls
    let s2 := s1.setFlight (f.issued d c.f afb s.clock)
    let s3 := passShadow d f s.clock (runBody d c dests lost s2)
    s3.afterResults f.id c.pc (if d.quiet then none else some f.fstat)

/-- An instruction enters the residual queue, or is refused room (R190, R191, R195). -/
def enterQueue (d : Desc) (c : Ctx) (chain : Reg) (s : State) : State :=
  match s.flight? c.f.id with
  | none => s
  | some f =>
    let afb := s.afb f
    let len := (f.residual.filter fun e => decide (e.chain = chain)).length
    if 32 ≤ f.residual.length then s.setFlight { f with capTrap := some (1, chain, len, f.residual.length) }
    else if 8 ≤ len then s.setFlight { f with capTrap := some (2, chain, len, f.residual.length) }
    else
      let pend := d.pend f afb
      let srcs := dedup (d.opnds.flatMap fun o => if o.reads then o.regList c.f afb else [])
      let e : REntry :=
        { id := s.nextId, seq := f.seq, pc := f.pc, cls := d.cls, words := (match f.clause with | some k => k.words.take f.wordCount | none => []),
          ins := s.ins, mem := (match d.dkind with | .mem k => k | _ => .none),
          v := srcs.flatMap (fun r => match r with | .v n => lanes.map fun l => (64 * n + l, c.f.rdV n l) | _ => []) |> msets 0 [],
          s := srcs.filterMap (fun r => match r with | .s n => some (n, c.f.rdS n) | _ => none) |> msets 0 [],
          p := (List.range 8).map (fun n => (n, c.f.rdP n)) |> msets 0 [],
          x := c.f.x, exm := c.f.exm, dead := c.f.dead, sym := c.sym,
          marks := c.f.marks.filter fun m => decide (m.reg ∈ srcs),
          waits := pend, tiles := srcs.filter (fun r => match r with | .tile _ => true | _ => false), chain,
          dests := d.dests c.f afb, sb := d.sb, granules := granulesOf d c s afb,
          acq := d.acq, land := d.land }
      let s := { s with nextId := s.nextId + 1, freeCtr := s.freeCtr + freeStride }
      let s := s.takeSlot f d.cls
      s.setFlight { (f.issued d c.f afb s.clock) with residual := f.residual ++ [e] }

/-- A trap that comes after the minting of a symbol in the order of R415 leaves SYMNEXT advanced (R300). -/
def Flight.mintKept (f : Flight) (d : Desc) (t : TrapInfo) : Flight :=
  if d.mints ∧ (t.code ∈ [0x10, 0x11, 0x12, 0x14] ∨ (t.code = 0x18 ∧ t.cause = 1)) then { f with symNext := f.symNext + 1 } else f

/-- The meaning of an instruction row: it comes to issue from the flight whose turn it is. -/
def issue (d : Desc) (s : State) : Host.Outcome State Fault Refusal :=
  match s.flight? s.cur with
  | none => .fault (.noSuchFlight s.cur)
  | some f =>
    match gate d f s with
    | .go c => .next (commit d c s)
    | .enter c chain => .next (enterQueue d c chain s)
    | .trap t => .next ((s.updFlight f.id fun f => f.takeRefusals.mintKept d t).raiseTrap f.id t)
    | .hold t => .next t

end Sys2Proof.Machine
end

