-- ==== Sys2Proof/Machine/Scalar.lean ====
section
/-! DEFINITION. Class SCALAR (R244, R250 to R263), but for SLD and SST, which stand with the memory instructions. -/

namespace Sys2Proof.Machine

/-! ### What the SCALAR, VINT, VFP and AFF classes share -/

/-- Fields that no entry of these classes accepts (R232): reserved bits, a layout, MOD, RM or FS that the opcode does not take. -/
def badFields (x : Fields) (lr li modOk rmOk fsOk : Bool) : Bool :=
  decide (x.resv ≠ 0) || (!x.short && x.li && !li) || (!x.short && !x.li && !lr) || !modOk
  || (!rmOk && decide (x.rm ≠ 0)) || (!fsOk && decide (x.fs ≠ 0))

def opD (x : Fields) (use : Use) (kinds : List KTag) (regs : Nat := 1) : Opnd :=
  { pos := 0, spec := x.d, use, kinds, regs, align := regs }
def opA (x : Fields) (kinds : List KTag) (regs : Nat := 1) : Opnd :=
  { pos := 1, spec := x.a, use := .src, kinds, regs, align := regs }
def opB (x : Fields) (kinds : List KTag) (regs : Nat := 1) : List Opnd :=
  match x.b with
  | .spec b => [{ pos := 2, spec := b, use := .src, kinds, regs, align := regs }]
  | .imm _ => []
def opC (x : Fields) (kinds : List KTag) (regs : Nat := 1) (use : Use := .src) : Opnd :=
  { pos := 3, spec := x.c, use, kinds, regs, align := regs }

/-- Sources and destinations of R244. -/
def scSrc : List KTag := [.s, .z, .p, .e]
def scDst : List KTag := [.s, .z]
def scDstP : List KTag := [.s, .z, .p]

/-- A scalar instruction whose uniform result is a function of its flight. -/
def scalarDesc (x : Fields) (bad : Bool) (opnds : List Opnd) (lat : Lat) (f : Ctx → DWord) : Desc :=
  { cls := 0, st := x.st, cc := x.cc, encBad := bad, opnds, perLane := false, lat,
    res := fun c _ => { writes := uWrites x.d (f c) } }

/-- Two sources, MOD 0, forms S, LR and LI (R251). -/
def sbin (x : Fields) (f : DWord → DWord → DWord) : Desc :=
  scalarDesc x (badFields x true true (x.mod = 0) false false || !unused x.c)
    ([opD x .dst scDstP, opA x scSrc] ++ opB x scSrc) (.fixed 4) fun c => f (rdUni c.f x.a) (x.b.uni c.f)

/-! ### Table 11-2 -/

def sMulh (a b : DWord) : DWord := BitVec.ofInt 64 (a.toInt * b.toInt / (2 ^ 64 : Nat))
def sMulhn (a b : DWord) : DWord := BitVec.ofNat 64 (a.toNat * b.toNat / 2 ^ 64)
def sShl (a b : DWord) : DWord := if b.toNat < 64 then a <<< b.toNat else 0
def sShr (a b : DWord) : DWord := if b.toNat < 64 then a >>> b.toNat else 0
def sSra (a b : DWord) : DWord := a.sshiftRight (min b.toNat 63)
def sMin (a b : DWord) : DWord := if a.slt b then a else b
def sMax (a b : DWord) : DWord := if a.slt b then b else a
def sMinn (a b : DWord) : DWord := if a.ult b then a else b
def sMaxn (a b : DWord) : DWord := if a.ult b then b else a

def descSadd (x : Fields) : Desc := sbin x fun a b => a + b
def descSsub (x : Fields) : Desc := sbin x fun a b => a - b
def descSmul (x : Fields) : Desc := sbin x fun a b => a * b
def descSmulh (x : Fields) : Desc := sbin x sMulh
def descSmulhn (x : Fields) : Desc := sbin x sMulhn
def descSand (x : Fields) : Desc := sbin x fun a b => a &&& b
def descSor (x : Fields) : Desc := sbin x fun a b => a ||| b
def descSxor (x : Fields) : Desc := sbin x fun a b => a ^^^ b
def descSshl (x : Fields) : Desc := sbin x sShl
def descSshr (x : Fields) : Desc := sbin x sShr
def descSsra (x : Fields) : Desc := sbin x sSra
def descSmin (x : Fields) : Desc := sbin x sMin
def descSmax (x : Fields) : Desc := sbin x sMax
def descSminn (x : Fields) : Desc := sbin x sMinn
def descSmaxn (x : Fields) : Desc := sbin x sMaxn

/-! ### Division (R252) -/

/-- Quotient and remainder; `n` for unsigned. -/
def sDivRem (n : Bool) (a b : DWord) : DWord × DWord :=
  if b = 0 then (allOnes, a)
  else if n then (BitVec.ofNat 64 (a.toNat / b.toNat), BitVec.ofNat 64 (a.toNat % b.toNat))
  else (BitVec.ofInt 64 (a.toInt.tdiv b.toInt), BitVec.ofInt 64 (a.toInt.tmod b.toInt))

def sdivDesc (x : Fields) (f : DWord × DWord → DWord) : Desc :=
  scalarDesc x (badFields x true true (x.mod < 2) false false || !unused x.c)
    ([opD x .dst scDst, opA x scSrc] ++ opB x scSrc) .late fun c => f (sDivRem (x.mod = 1) (rdUni c.f x.a) (x.b.uni c.f))
def descSdiv (x : Fields) : Desc := sdivDesc x Prod.fst
def descSrem (x : Fields) : Desc := sdivDesc x Prod.snd

/-! ### Compare, select, move, count (R253 to R257) -/

/-- Conditions 0 to 5 (R253, R269). -/
def condInt (k : Nat) (a b : Int) : Bool :=
  match k with
  | 0 => decide (a = b)
  | 1 => decide (a ≠ b)
  | 2 => decide (a < b)
  | 3 => decide (a ≤ b)
  | 4 => decide (b < a)
  | _ => decide (b ≤ a)

def descScmp (x : Fields) : Desc :=
  scalarDesc x (badFields x true true (x.mod < 12) false false || !unused x.c)
    ([opD x .dst scDstP, opA x scSrc] ++ opB x scSrc) (.fixed 4) fun c =>
      let a := rdUni c.f x.a; let b := x.b.uni c.f
      let r := if x.mod % 2 = 1 then condInt (x.mod / 2) a.toNat b.toNat else condInt (x.mod / 2) a.toInt b.toInt
      if r then allOnes else 0

def descSsel (x : Fields) : Desc :=
  scalarDesc x (badFields x true true (x.mod = 0) false false)
    ([opD x .dst scDstP, opA x scSrc] ++ opB x scSrc ++ [opC x scSrc]) (.fixed 4) fun c =>
      if rdUni c.f x.c ≠ 0 then rdUni c.f x.a else x.b.uni c.f

def descSmov (x : Fields) : Desc :=
  scalarDesc x (badFields x true false (x.mod = 0) false false || !unused x.c || !x.b.unused)
    [opD x .dst scDstP, opA x scSrc] (.fixed 4) fun c => rdUni c.f x.a

def descSmovi (x : Fields) : Desc :=
  scalarDesc x (badFields x false true (x.mod = 0) false false || !unused x.a)
    [opD x .dst scDstP] (.fixed 4) fun c => x.b.uni c.f

def descSmovh (x : Fields) : Desc :=
  scalarDesc x (badFields x false true (x.mod = 0) false false)
    [opD x .dst scDstP, opA x scDst] (.fixed 4) fun c => (x.b.uni c.f <<< 32) ||| (rdUni c.f x.a &&& 0xFFFFFFFF#64)

/-- Number of 1 bits. -/
def popc (w x : Nat) : Nat := ((List.range w).filter fun i => x.testBit i).length
/-- Number of 0 bits above the highest 1 of `w` bits. -/
def clz (w x : Nat) : Nat := if x = 0 then w else w - 1 - x.log2

def descSpopc (x : Fields) : Desc :=
  scalarDesc x (badFields x true false (x.mod = 0) false false || !unused x.c || !x.b.unused)
    [opD x .dst scDst, opA x scSrc] (.fixed 4) fun c => BitVec.ofNat 64 (popc 64 (rdUni c.f x.a).toNat)
def descSclz (x : Fields) : Desc :=
  scalarDesc x (badFields x true false (x.mod = 0) false false || !unused x.c || !x.b.unused)
    [opD x .dst scDst, opA x scSrc] (.fixed 4) fun c => BitVec.ofNat 64 (clz 64 (rdUni c.f x.a).toNat)

/-- R257. -/
def sAddx (mod : Nat) (a b : DWord) (k : Nat) : DWord :=
  match mod with
  | 0 => BitVec.ofNat 64 (a.toNat + b.toNat + k)
  | 1 => if 2 ^ 64 ≤ a.toNat + b.toNat + k then 1 else 0
  | 2 => a - b - BitVec.ofNat 64 k
  | _ => if a.toNat < b.toNat + k then 1 else 0

def descSaddx (x : Fields) : Desc :=
  scalarDesc x (badFields x true true (x.mod < 4) false false)
    ([opD x .dst scDst, opA x scSrc] ++ opB x scSrc ++ [opC x scSrc]) (.fixed 4) fun c =>
      sAddx x.mod (rdUni c.f x.a) (x.b.uni c.f) (fld (rdUni c.f x.c) 0 1)

/-! ### Launch record and special registers (R258, R261, R262) -/

/-- An immediate read unsigned. -/
def BSrc.immU (b : BSrc) : Nat := match b with | .imm i => i | .spec _ => 0

def descSlda (x : Fields) : Desc :=
  let idx (c : Ctx) : Nat := (rdUni c.f x.a).toNat + x.b.immU
  { cls := 0, st := x.st, cc := x.cc, perLane := false, lat := .late,
    encBad := badFields x false true (x.mod = 0) false false
    opnds := [opD x .dst scDst, opA x scDst]
    chk02 := fun c _ => if 64 ≤ idx c then some (4, allOnes, 0) else none
    res := fun c s => { writes := uWrites x.d ((s.launchOf c.f).word (idx c)) } }

/-- The flight that a handler run handles, for SWR and the special registers of a run (R262, R400). -/
def handled (f : Flight) : Nat := match f.kind with | .handler h => h | _ => f.id

def srListed (k : Nat) : Bool := decide (k ≤ 12) || (decide (16 ≤ k) && decide (k ≤ 19))

/-- Table 11-4; LANEID and FLIGHT are a lane's home, a uniform FLIGHT that of lane 0 (R352). -/
def srValue (s : State) (f : Flight) (k : Nat) : Nat :=
  let r := s.recOf f
  let w := s.wgOf f
  match k with
  | 1 => f.homeOf 0 / 64
  | 2 => recNfl r
  | 3 => w.w
  | 4 => recNwg r
  | 5 => w.c
  | 6 => recNcl r
  | 7 => w.d
  | 8 => recNdie r
  | 9 => w.s
  | 10 => f.core
  | 11 => f.part
  | 12 => (s.launchOf f).va
  | 16 => f.dead.toNat
  | 17 => f.rgnc.toNat
  | 18 => f.symNext.toNat
  | 19 => f.symLimit.toNat
  | _ => 0

def isS (spec : Nat) : Bool := match okind spec with | .s _ => true | _ => false

def descSrd (x : Fields) : Desc :=
  let k := x.b.immU
  { cls := 0, st := x.st, cc := x.cc, perLane := (match okind x.d with | .v _ => true | .vx _ _ => true | _ => false), lat := .fixed 4
    encBad := badFields x false true (x.mod = 0) false false || !unused x.a || !srListed k
    opnds := [opD x .dst [.s, .z, .v, .vx]]
    shadowed := true
    chk02 := fun _ _ => if k = 0 ∧ isS x.d then some (0, allOnes, x.d) else none
    res := fun c s =>
      { writes := if isS x.d then uWrites x.d (BitVec.ofNat 64 (srValue s c.f k))
          else (lanesOf c.f.exm).flatMap fun l => vWrites c.f x.d 1 l (if k = 0 then c.f.homeOf l % 64 else if k = 1 then c.f.homeOf l / 64 else srValue s c.f k % 2 ^ 32) } }

/-- A write of SYMNEXT keeps 13 bits, and a value below 16 is written as 16 (R186). -/
def symWrite (w : DWord) : BitVec 13 := let v := w.toNat % 2 ^ 13; BitVec.ofNat 13 (if v < 16 then 16 else v)

def descSwr (x : Fields) : Desc :=
  let k := x.b.immU
  { cls := 0, st := x.st, cc := x.cc, perLane := false
    encBad := badFields x false true (x.mod = 0) false false || !unused x.d || !srListed k
    opnds := [opA x scDst]
    codeBad := decide (k ≠ 17) && decide (k ≠ 18)
    chkPriv := fun c _ => if c.f.priv then none else some { code := 0x11, cause := 9, mask := allOnes, info := 0xFF }
    eff := fun c s =>
      let a := rdUni c.f x.a
      s.updFlight (handled c.f) fun f =>
        if k = 17 then { f with rgnc := BitVec.ofNat 32 a.toNat } else { f with symNext := symWrite a } }

/-! ### Lane to scalar (R263) -/

def descVlane2s (x : Fields) : Desc :=
  let regs := if x.mod = 2 then 2 else 1
  let lane (f : Flight) : Nat := (x.b.uni f).toNat % 64
  { scalarDesc x (badFields x true true (x.mod < 3) false false || !unused x.c)
    ([opD x .dst scDst, opA x [.v] regs] ++ opB x scDst) (.fixed 4) fun c =>
      let v := if c.f.dead.getLsbD (lane c.f) then 0 else rdLane c.f x.a regs (lane c.f)
      BitVec.ofNat 64 (if x.mod = 1 then sext 32 64 v else v) with
    takes := fun f => maskOf [lane f] &&& ~~~f.dead }

/-! ### Meanings -/

/-- SADD (R251). -/
def execSadd (o : ShortOps) (s : State) : Host.Outcome State Fault Refusal := issue (descSadd (ofShort o)) s
/-- SADD_LONG (R251). -/
def execSaddLong (o : LongOps) (s : State) : Host.Outcome State Fault Refusal := issue (descSadd (ofLong o)) s
/-- SSUB (R251). -/
def execSsub (o : ShortOps) (s : State) : Host.Outcome State Fault Refusal := issue (descSsub (ofShort o)) s
/-- SSUB_LONG (R251). -/
def execSsubLong (o : LongOps) (s : State) : Host.Outcome State Fault Refusal := issue (descSsub (ofLong o)) s
/-- SMUL (R251). -/
def execSmul (o : ShortOps) (s : State) : Host.Outcome State Fault Refusal := issue (descSmul (ofShort o)) s
/-- SMUL_LONG (R251). -/
def execSmulLong (o : LongOps) (s : State) : Host.Outcome State Fault Refusal := issue (descSmul (ofLong o)) s
/-- SMULH (R251). -/
def execSmulh (o : ShortOps) (s : State) : Host.Outcome State Fault Refusal := issue (descSmulh (ofShort o)) s
/-- SMULH_LONG (R251). -/
def execSmulhLong (o : LongOps) (s : State) : Host.Outcome State Fault Refusal := issue (descSmulh (ofLong o)) s
/-- SMULHN (R251). -/
def execSmulhn (o : ShortOps) (s : State) : Host.Outcome State Fault Refusal := issue (descSmulhn (ofShort o)) s
/-- SMULHN_LONG (R251). -/
def execSmulhnLong (o : LongOps) (s : State) : Host.Outcome State Fault Refusal := issue (descSmulhn (ofLong o)) s
/-- SDIV (R252). -/
def execSdiv (o : ShortOps) (s : State) : Host.Outcome State Fault Refusal := issue (descSdiv (ofShort o)) s
/-- SDIV_LONG (R252). -/
def execSdivLong (o : LongOps) (s : State) : Host.Outcome State Fault Refusal := issue (descSdiv (ofLong o)) s
/-- SREM (R252). -/
def execSrem (o : ShortOps) (s : State) : Host.Outcome State Fault Refusal := issue (descSrem (ofShort o)) s
/-- SREM_LONG (R252). -/
def execSremLong (o : LongOps) (s : State) : Host.Outcome State Fault Refusal := issue (descSrem (ofLong o)) s
/-- SAND (R251). -/
def execSand (o : ShortOps) (s : State) : Host.Outcome State Fault Refusal := issue (descSand (ofShort o)) s
/-- SAND_LONG (R251). -/
def execSandLong (o : LongOps) (s : State) : Host.Outcome State Fault Refusal := issue (descSand (ofLong o)) s
/-- SOR (R251). -/
def execSor (o : ShortOps) (s : State) : Host.Outcome State Fault Refusal := issue (descSor (ofShort o)) s
/-- SOR_LONG (R251). -/
def execSorLong (o : LongOps) (s : State) : Host.Outcome State Fault Refusal := issue (descSor (ofLong o)) s
/-- SXOR (R251). -/
def execSxor (o : ShortOps) (s : State) : Host.Outcome State Fault Refusal := issue (descSxor (ofShort o)) s
/-- SXOR_LONG (R251). -/
def execSxorLong (o : LongOps) (s : State) : Host.Outcome State Fault Refusal := issue (descSxor (ofLong o)) s
/-- SSHL (R251). -/
def execSshl (o : ShortOps) (s : State) : Host.Outcome State Fault Refusal := issue (descSshl (ofShort o)) s
/-- SSHL_LONG (R251). -/
def execSshlLong (o : LongOps) (s : State) : Host.Outcome State Fault Refusal := issue (descSshl (ofLong o)) s
/-- SSHR (R251). -/
def execSshr (o : ShortOps) (s : State) : Host.Outcome State Fault Refusal := issue (descSshr (ofShort o)) s
/-- SSHR_LONG (R251). -/
def execSshrLong (o : LongOps) (s : State) : Host.Outcome State Fault Refusal := issue (descSshr (ofLong o)) s
/-- SSRA (R251). -/
def execSsra (o : ShortOps) (s : State) : Host.Outcome State Fault Refusal := issue (descSsra (ofShort o)) s
/-- SSRA_LONG (R251). -/
def execSsraLong (o : LongOps) (s : State) : Host.Outcome State Fault Refusal := issue (descSsra (ofLong o)) s
/-- SMIN (R251). -/
def execSmin (o : ShortOps) (s : State) : Host.Outcome State Fault Refusal := issue (descSmin (ofShort o)) s
/-- SMIN_LONG (R251). -/
def execSminLong (o : LongOps) (s : State) : Host.Outcome State Fault Refusal := issue (descSmin (ofLong o)) s
/-- SMAX (R251). -/
def execSmax (o : ShortOps) (s : State) : Host.Outcome State Fault Refusal := issue (descSmax (ofShort o)) s
/-- SMAX_LONG (R251). -/
def execSmaxLong (o : LongOps) (s : State) : Host.Outcome State Fault Refusal := issue (descSmax (ofLong o)) s
/-- SMINN (R251). -/
def execSminn (o : ShortOps) (s : State) : Host.Outcome State Fault Refusal := issue (descSminn (ofShort o)) s
/-- SMINN_LONG (R251). -/
def execSminnLong (o : LongOps) (s : State) : Host.Outcome State Fault Refusal := issue (descSminn (ofLong o)) s
/-- SMAXN (R251). -/
def execSmaxn (o : ShortOps) (s : State) : Host.Outcome State Fault Refusal := issue (descSmaxn (ofShort o)) s
/-- SMAXN_LONG (R251). -/
def execSmaxnLong (o : LongOps) (s : State) : Host.Outcome State Fault Refusal := issue (descSmaxn (ofLong o)) s
/-- SCMP (R253). -/
def execScmp (o : ShortOps) (s : State) : Host.Outcome State Fault Refusal := issue (descScmp (ofShort o)) s
/-- SCMP_LONG (R253). -/
def execScmpLong (o : LongOps) (s : State) : Host.Outcome State Fault Refusal := issue (descScmp (ofLong o)) s
/-- SSEL (R254). -/
def execSsel (o : LongOps) (s : State) : Host.Outcome State Fault Refusal := issue (descSsel (ofLong o)) s
/-- SMOV (R255). -/
def execSmov (o : ShortOps) (s : State) : Host.Outcome State Fault Refusal := issue (descSmov (ofShort o)) s
/-- SMOV_LONG (R255). -/
def execSmovLong (o : LongOps) (s : State) : Host.Outcome State Fault Refusal := issue (descSmov (ofLong o)) s
/-- SMOVI (R255). -/
def execSmovi (o : ImmOps) (s : State) : Host.Outcome State Fault Refusal := issue (descSmovi (ofImm true o)) s
/-- SMOVI_LONG (R255). -/
def execSmoviLong (o : LongOps) (s : State) : Host.Outcome State Fault Refusal := issue (descSmovi (ofLong o)) s
/-- SMOVH (R255). -/
def execSmovh (o : ImmOps) (s : State) : Host.Outcome State Fault Refusal := issue (descSmovh (ofImm false o)) s
/-- SMOVH_LONG (R255). -/
def execSmovhLong (o : LongOps) (s : State) : Host.Outcome State Fault Refusal := issue (descSmovh (ofLong o)) s
/-- SLDA (R258). -/
def execSlda (o : ImmOps) (s : State) : Host.Outcome State Fault Refusal := issue (descSlda (ofImm false o)) s
/-- SLDA_LONG (R258). -/
def execSldaLong (o : LongOps) (s : State) : Host.Outcome State Fault Refusal := issue (descSlda (ofLong o)) s
/-- SRD (R261). -/
def execSrd (o : ImmOps) (s : State) : Host.Outcome State Fault Refusal := issue (descSrd (ofImm false o)) s
/-- SRD_LONG (R261). -/
def execSrdLong (o : LongOps) (s : State) : Host.Outcome State Fault Refusal := issue (descSrd (ofLong o)) s
/-- SWR (R262). -/
def execSwr (o : ImmOps) (s : State) : Host.Outcome State Fault Refusal := issue (descSwr (ofImm false o)) s
/-- SWR_LONG (R262). -/
def execSwrLong (o : LongOps) (s : State) : Host.Outcome State Fault Refusal := issue (descSwr (ofLong o)) s
/-- SPOPC (R256). -/
def execSpopc (o : ShortOps) (s : State) : Host.Outcome State Fault Refusal := issue (descSpopc (ofShort o)) s
/-- SPOPC_LONG (R256). -/
def execSpopcLong (o : LongOps) (s : State) : Host.Outcome State Fault Refusal := issue (descSpopc (ofLong o)) s
/-- SCLZ (R256). -/
def execSclz (o : ShortOps) (s : State) : Host.Outcome State Fault Refusal := issue (descSclz (ofShort o)) s
/-- SCLZ_LONG (R256). -/
def execSclzLong (o : LongOps) (s : State) : Host.Outcome State Fault Refusal := issue (descSclz (ofLong o)) s
/-- SADDX (R257). -/
def execSaddx (o : LongOps) (s : State) : Host.Outcome State Fault Refusal := issue (descSaddx (ofLong o)) s
/-- VLANE2S (R263). -/
def execVlane2s (o : ShortOps) (s : State) : Host.Outcome State Fault Refusal := issue (descVlane2s (ofShort o)) s
/-- VLANE2S_LONG (R263). -/
def execVlane2sLong (o : LongOps) (s : State) : Host.Outcome State Fault Refusal := issue (descVlane2s (ofLong o)) s

end Sys2Proof.Machine
end

