-- ==== Sys2Proof/Machine/Vint.lean ====
section
/-! DEFINITION. Class VINT (R245 to R249, R264 to R280). -/

namespace Sys2Proof.Machine

/-- Sources and destinations of R245. -/
def viSrc : List KTag := [.v, .vx, .vxp, .s, .z, .l]
def viDst : List KTag := [.v, .vx, .z]

/-- Result writes of a lane function in the lanes of EXM. -/
def laneWrites (c : Ctx) (d regs : Nat) (g : Nat → Nat) : List RegWrite :=
  (lanesOf c.f.exm).flatMap fun l => vWrites c.f d regs l (g l)

/-- Predicate bits of the lanes of EXM. -/
def predWrites (c : Ctx) (d : Nat) (g : Nat → Bool) : List RegWrite :=
  match okind d with
  | .p n => (lanesOf c.f.exm).map fun l => ⟨.p n, 128 * n + l, if g l then 1 else 0⟩
  | _ => []

def typRegs (t : Nat) : Nat := if t % 2 = 1 then 2 else 1

/-- A lane instruction with a result of `regs` registers. -/
def vintDesc (x : Fields) (bad : Bool) (opnds : List Opnd) (regs : Nat) (g : Ctx → Nat → Nat) : Desc :=
  { cls := 1, st := x.st, cc := x.cc, encBad := bad, opnds, lat := .fixed 4
    res := fun c _ => { writes := laneWrites c x.d regs (g c) } }

/-- Two sources of type TYP (R246, R264): `f` takes TYP, the width, a and b. -/
def vbin (x : Fields) (typs : Nat) (f : Nat → Nat → Nat → Nat → Nat) : Desc :=
  let r := typRegs x.mod
  vintDesc x (badFields x true true (x.mod < typs) false false || !unused x.c)
    ([opD x .dst viDst r, opA x viSrc r] ++ opB x viSrc r) r fun c l =>
      f x.mod (32 * r) (rdLane c.f x.a r l) (x.b.lane c.f r l)

/-- One source of type TYP. -/
def vun (x : Fields) (f : Nat → Nat → Nat) : Desc :=
  let r := typRegs x.mod
  vintDesc x (badFields x true true (x.mod < 2) false false || !unused x.c || !x.b.unused)
    [opD x .dst viDst r, opA x viSrc r] r fun c l => f (32 * r) (rdLane c.f x.a r l)

/-! ### Table 11-5 -/

/-- An operand as a number under TYP. -/
def tval (t w x : Nat) : Int := if t < 2 then sgn w x else (x : Int)
def vMulh (t w a b : Nat) : Nat := wrapInt w (tval t w a * tval t w b / (2 ^ w : Nat))
def vShl (_ w a n : Nat) : Nat := if n < w then a * 2 ^ n % 2 ^ w else 0
def vShr (_ w a n : Nat) : Nat := if n < w then a / 2 ^ n else 0
def vSra (_ w a n : Nat) : Nat := wrapInt w (sgn w a / (2 ^ min n (w - 1) : Nat))
def vMin (t w a b : Nat) : Nat := if tval t w a < tval t w b then a else b
def vMax (t w a b : Nat) : Nat := if tval t w a < tval t w b then b else a
def vAbs (w a : Nat) : Nat := wrapInt w (sgn w a).natAbs

def descVadd (x : Fields) : Desc := vbin x 2 fun _ w a b => (a + b) % 2 ^ w
def descVsub (x : Fields) : Desc := vbin x 2 fun _ w a b => wrapInt w ((a : Int) - b)
def descVmul (x : Fields) : Desc := vbin x 2 fun _ w a b => a * b % 2 ^ w
def descVmulh (x : Fields) : Desc := vbin x 4 vMulh
def descVand (x : Fields) : Desc := vbin x 2 fun _ _ a b => a &&& b
def descVor (x : Fields) : Desc := vbin x 2 fun _ _ a b => a ||| b
def descVxor (x : Fields) : Desc := vbin x 2 fun _ _ a b => a ^^^ b
def descVnot (x : Fields) : Desc := vun x fun w a => 2 ^ w - 1 - a
def descVshl (x : Fields) : Desc := vbin x 2 vShl
def descVshr (x : Fields) : Desc := vbin x 2 vShr
def descVsra (x : Fields) : Desc := vbin x 2 vSra
def descVmin (x : Fields) : Desc := vbin x 4 vMin
def descVmax (x : Fields) : Desc := vbin x 4 vMax
def descVabs (x : Fields) : Desc := vun x vAbs
def descVpopc (x : Fields) : Desc := vun x popc
def descVclz (x : Fields) : Desc := vun x clz

/-! ### Multiply-add and carry (R265, R266) -/

def descVmad (x : Fields) : Desc :=
  let ab := if x.mod = 1 then 2 else 1
  let cd := if x.mod = 0 then 1 else 2
  vintDesc x (badFields x true true (x.mod < 4) false false)
    ([opD x .dst viDst cd, opA x viSrc ab] ++ opB x viSrc ab ++ [opC x viSrc cd]) cd fun c l =>
      let a := rdLane c.f x.a ab l; let b := x.b.lane c.f ab l; let k := rdLane c.f x.c cd l
      match x.mod with
      | 0 => (a * b + k) % 2 ^ 32
      | 1 => (a * b + k) % 2 ^ 64
      | 2 => wrapInt 64 (sgn 32 a * sgn 32 b + k)
      | _ => (a * b + k) % 2 ^ 64

def descVaddc (x : Fields) : Desc :=
  let val (c : Ctx) (l : Nat) : Int :=
    let a : Int := rdLane c.f x.a 1 l; let b : Int := x.b.lane c.f 1 l; let k : Int := rdLane c.f x.c 1 l
    if x.mod = 0 then a + b + k else a - b - k
  { cls := 1, st := x.st, cc := x.cc, lat := .fixed 4
    encBad := badFields x true true (x.mod < 2) false false
    opnds := [opD x .dst viDst, opA x viSrc] ++ opB x viSrc ++ [opC x [.p] 1 .both]
    res := fun c _ =>
      { writes := laneWrites c x.d 1 (fun l => wrapInt 32 (val c l))
          ++ predWrites c x.c fun l => decide (val c l < 0) || decide ((2 ^ 32 : Nat) ≤ val c l) } }

/-! ### Moves and bit fields (R267, R268) -/

def descVmov (x : Fields) : Desc :=
  let r := typRegs x.mod
  vintDesc x (badFields x true true (x.mod < 2) false false || !unused x.c || !x.b.unused)
    [opD x .dst viDst r, opA x viSrc r] r fun c l => rdLane c.f x.a r l
def descVmovi (x : Fields) : Desc :=
  vintDesc x (badFields x false true (x.mod = 0) false false || !unused x.a)
    [opD x .dst viDst] 1 fun c l => x.b.lane c.f 1 l

/-- POS and effective length of a field (R268). -/
def bfPos (b : Nat) : Nat := b % 32
def bfLen (b : Nat) : Nat := min (min (nbits b 8 6) 32) (32 - bfPos b)
def vBfx (signed : Bool) (a b : Nat) : Nat :=
  let m := bfLen b
  let v := nbits a (bfPos b) m
  if signed && decide (m ≠ 0) then sext m 32 v else v
def vBfi (a b c : Nat) : Nat :=
  let p := bfPos b; let m := bfLen b
  a - nbits a p m * 2 ^ p + (c % 2 ^ m) * 2 ^ p

def descVbfx (x : Fields) : Desc :=
  vintDesc x (badFields x true true (x.mod < 2) false false || !unused x.c)
    ([opD x .dst viDst, opA x viSrc] ++ opB x viSrc) 1 fun c l => vBfx (x.mod = 1) (rdLane c.f x.a 1 l) (x.b.lane c.f 1 l)
def descVbfi (x : Fields) : Desc :=
  vintDesc x (badFields x true true (x.mod = 0) false false)
    ([opD x .dst viDst, opA x viSrc] ++ opB x viSrc ++ [opC x viSrc]) 1 fun c l =>
      vBfi (rdLane c.f x.a 1 l) (x.b.lane c.f 1 l) (rdLane c.f x.c 1 l)

/-! ### Compare and select (R269, R270) -/

def descVcmp (x : Fields) : Desc :=
  let t := x.mod % 4; let r := typRegs t
  { cls := 1, st := x.st, cc := x.cc, lat := .fixed 4
    encBad := badFields x true true (x.mod < 24) false false || !unused x.c
    opnds := [opD x .dst [.p], opA x viSrc r] ++ opB x viSrc r
    res := fun c _ =>
      { writes := predWrites c x.d fun l =>
          condInt (x.mod / 4) (tval t (32 * r) (rdLane c.f x.a r l)) (tval t (32 * r) (x.b.lane c.f r l)) } }

def descVsel (x : Fields) : Desc :=
  let r := typRegs x.mod
  vintDesc x (badFields x true true (x.mod < 2) false false)
    ([opD x .dst viDst r, opA x viSrc r] ++ opB x viSrc r ++ [opC x [.p]]) r fun c l =>
      if rdLane c.f x.c 1 l = 1 then rdLane c.f x.a r l else x.b.lane c.f r l

/-! ### Across lanes (R271 to R275) -/

def descVbcast (x : Fields) : Desc :=
  let r := typRegs x.mod
  let dead (c : Ctx) : Bool := c.f.dead.getLsbD ((x.b.uni c.f).toNat % 64)
  { cls := 1, st := x.st, cc := x.cc, lat := .fixed 4
    encBad := badFields x true true (x.mod < 2) false false || !unused x.c
    opnds := [opD x .dst viDst r, opA x [.v] r] ++ opB x [.s, .z]
    res := fun c _ =>
      { writes := laneWrites c x.d r (fun _ => if dead c then 0 else rdLane c.f x.a r ((x.b.uni c.f).toNat % 64))
        dead := if dead c then c.f.exm else 0 } }

/-- Source lane of VSHFL; none keeps the lane's own (R272). -/
def shflSrc (mode k l : Nat) : Option Nat :=
  match mode with
  | 0 => some (k % 64)
  | 1 => if k ≤ l then some (l - k) else none
  | 2 => if l + k < 64 then some (l + k) else none
  | _ => some (l ^^^ (k % 64))

def descVshfl (x : Fields) : Desc :=
  let r := if x.mod.testBit 2 then 2 else 1
  let src (c : Ctx) (l : Nat) : Nat := (shflSrc (x.mod % 4) (x.b.lane c.f 1 l) l).getD l
  { cls := 1, st := x.st, cc := x.cc, lat := .late
    encBad := badFields x true true (x.mod < 8) false false || !unused x.c
    opnds := [opD x .dst viDst r, opA x [.v] r] ++ opB x viSrc
    res := fun c _ =>
      { writes := laneWrites c x.d r (fun l => if c.f.dead.getLsbD (src c l) then 0 else rdLane c.f x.a r (src c l))
        dead := maskOf ((lanesOf c.f.exm).filter fun l => c.f.dead.getLsbD (src c l)) } }

def descVperm (x : Fields) : Desc :=
  let r := typRegs x.mod
  { cls := 1, st := x.st, cc := x.cc, lat := .late
    encBad := badFields x true true (x.mod < 2) false false || !unused x.c
    opnds := [opD x .dst viDst r, opA x viSrc r] ++ opB x viSrc
    res := fun c _ =>
      { writes := (lanesOf c.f.exm).flatMap fun l =>
          let t := x.b.lane c.f 1 l % 64
          if c.f.exm.getLsbD t then vWrites c.f x.d r t (rdLane c.f x.a r l) else [] } }

def descVvote (x : Fields) : Desc :=
  let r := if x.mod.testBit 2 then 2 else 1
  { cls := 1, st := x.st, cc := x.cc, lat := .fixed 4
    encBad := badFields x true false (x.mod < 8) false false || !unused x.c || !x.b.unused
    opnds := [opD x .dst scDstP, opA x [.v, .vx, .s, .l, .p] r]
    res := fun c _ =>
      let q := lanesOf c.f.exm
      let a (l : Nat) : Nat := rdLane c.f x.a r l
      let v : DWord := match x.mod % 4 with
        | 0 => if q.all fun l => a l ≠ 0 then allOnes else 0
        | 1 => if q.any fun l => a l ≠ 0 then allOnes else 0
        | 2 => maskOf (q.filter fun l => a l ≠ 0)
        | _ => if q.all fun l => decide (a l = a (q.headD 0)) then allOnes else 0
      { writes := uWrites x.d v } }

/-- Reduction operations (R275): identity and step. -/
def redId (op t w : Nat) : Nat :=
  match op with
  | 1 => if t < 2 then 2 ^ (w - 1) - 1 else 2 ^ w - 1
  | 2 => if t < 2 then 2 ^ (w - 1) else 0
  | 3 => 2 ^ w - 1
  | _ => 0
def redOp (op t w v a : Nat) : Nat :=
  match op with
  | 0 => (v + a) % 2 ^ w
  | 1 => vMin t w v a
  | 2 => vMax t w v a
  | 3 => v &&& a
  | 4 => v ||| a
  | _ => v ^^^ a

def descVred (x : Fields) : Desc :=
  let t := x.mod % 4; let r := typRegs t; let op := x.mod / 8
  { cls := 1, st := x.st, cc := x.cc, lat := .late
    encBad := badFields x true false (x.mod < 48 ∧ !x.mod.testBit 2) false false || !unused x.c || !x.b.unused
    opnds := [opD x .dst scDst, opA x viSrc r]
    res := fun c _ =>
      let v := (lanesOf c.f.exm).foldl (fun v l => redOp op t (32 * r) v (rdLane c.f x.a r l)) (redId op t (32 * r))
      { writes := uWrites x.d (BitVec.ofNat 64 (if t < 2 then sext (32 * r) 64 v else v)) } }

/-- Running values of VSCAN: (lane, result), the last value at the end. -/
def scanVals (op t w : Nat) (excl : Bool) (g : Nat → Nat) : List Nat → Nat → List (Nat × Nat)
  | [], _ => []
  | l :: r, v => let v' := redOp op t w v (g l); (l, if excl then v else v') :: scanVals op t w excl g r v'

def descVscan (x : Fields) : Desc :=
  let t := x.mod % 4; let r := typRegs t; let op := x.mod / 8
  { cls := 1, st := x.st, cc := x.cc, lat := .late
    encBad := badFields x true false (x.mod < 48) false false || !unused x.c || !x.b.unused
    opnds := [opD x .dst [.v] r, opA x viSrc r]
    res := fun c _ =>
      { writes := (scanVals op t (32 * r) (x.mod.testBit 2) (fun l => rdLane c.f x.a r l) (lanesOf c.f.exm) (redId op t (32 * r))).flatMap
          fun (l, v) => vWrites c.f x.d r l v } }

/-! ### Predicates, EXM and index registers (R276 to R280) -/

def descPlog (x : Fields) : Desc :=
  { cls := 1, st := x.st, cc := x.cc, lat := .fixed 4
    encBad := badFields x true false (x.mod < 32) false false || !unused x.c
    opnds := [opD x .dst [.p], opA x [.p, .e, .s, .z]] ++ opB x [.p, .e, .s, .z]
    res := fun c _ =>
      let a := rdUni c.f x.a; let b := x.b.uni c.f
      let bit (l : Nat) : Bool := x.mod.testBit ((if a.getLsbD l then 2 else 0) + (if b.getLsbD l then 1 else 0))
      { writes := if x.mod.testBit 4 then uWrites x.d (maskOf (lanes.filter bit)) else predWrites c x.d bit } }

/-- EXM after EXMSET (R277). -/
def exmsetMask (mod : Nat) (exm a live : DWord) : DWord :=
  (match mod with | 0 => a | 1 => exm &&& a | _ => exm &&& ~~~a) &&& live

def descExmset (x : Fields) : Desc :=
  { cls := 1, st := x.st, cc := x.cc, perLane := false, dkind := .stop
    encBad := badFields x true false (x.mod < 3) false false || !unused x.c || !unused x.d || !x.b.unused
    opnds := [opA x [.p, .s, .e, .z]]
    eff := fun c s => s.updFlight c.f.id fun f => { f with exm := exmsetMask x.mod f.exm (rdUni c.f x.a) f.live } }

def descExmrd (x : Fields) : Desc :=
  { scalarDesc x (badFields x true false (x.mod = 0) false false || !unused x.c || !unused x.a || !x.b.unused)
      [opD x .dst scDstP] (.fixed 4) (fun c => c.f.exm) with cls := 1 }

/-- The index register a D specifier names (R279). -/
def xNum (spec : Nat) : Nat := match okind spec with | .vx n _ => n | _ => 0
def opX (x : Fields) (use : Use) : Opnd := { pos := 0, spec := x.d, use, kinds := [.vx], self := true }
/-- Writes to bits 31 to 25 are ignored (R174). -/
def xKeep (v : Nat) : Nat := v % 2 ^ 25
def xWrites (c : Ctx) (n : Nat) (g : Nat → Nat) : List RegWrite :=
  (lanesOf c.f.exm).map fun l => ⟨.x n, 64 * n + l, xKeep (g l)⟩

def descXset (x : Fields) : Desc :=
  { cls := 1, st := x.st, cc := x.cc, lat := .fixed 4
    encBad := badFields x true true (x.mod = 0) false false || !unused x.c
    opnds := [opX x .dst, opA x viSrc] ++ opB x viSrc
    res := fun c _ => { writes := xWrites c (xNum x.d) fun l => (rdLane c.f x.a 1 l + x.b.lane c.f 1 l) % 2 ^ 32 } }

/-- R280. -/
def xStep (x : Word) (i : Int) : Nat :=
  let t : Int := xIdx x + i
  let n := if xWrap x ∧ xBound x ≠ 0 then t % (xBound x : Int) else t % 256
  (setFld x 0 8 n.toNat).toNat

def descXinc (x : Fields) : Desc :=
  { cls := 1, st := x.st, cc := x.cc, lat := .fixed 4
    encBad := badFields x false true (x.mod = 0) false false || !unused x.a
    opnds := [opX x .both]
    res := fun c _ => { writes := xWrites c (xNum x.d) fun l => xStep (c.f.rdX (xNum x.d) l) (sgn 32 (x.b.immU)) } }

/-! ### Meanings -/

/-- VADD (R264). -/
def execVadd (o : ShortOps) (s : State) : Host.Outcome State Fault Refusal := issue (descVadd (ofShort o)) s
/-- VADD_LONG (R264). -/
def execVaddLong (o : LongOps) (s : State) : Host.Outcome State Fault Refusal := issue (descVadd (ofLong o)) s
/-- VSUB (R264). -/
def execVsub (o : ShortOps) (s : State) : Host.Outcome State Fault Refusal := issue (descVsub (ofShort o)) s
/-- VSUB_LONG (R264). -/
def execVsubLong (o : LongOps) (s : State) : Host.Outcome State Fault Refusal := issue (descVsub (ofLong o)) s
/-- VMUL (R264). -/
def execVmul (o : ShortOps) (s : State) : Host.Outcome State Fault Refusal := issue (descVmul (ofShort o)) s
/-- VMUL_LONG (R264). -/
def execVmulLong (o : LongOps) (s : State) : Host.Outcome State Fault Refusal := issue (descVmul (ofLong o)) s
/-- VMULH (R264). -/
def execVmulh (o : ShortOps) (s : State) : Host.Outcome State Fault Refusal := issue (descVmulh (ofShort o)) s
/-- VMULH_LONG (R264). -/
def execVmulhLong (o : LongOps) (s : State) : Host.Outcome State Fault Refusal := issue (descVmulh (ofLong o)) s
/-- VMAD (R265). -/
def execVmad (o : LongOps) (s : State) : Host.Outcome State Fault Refusal := issue (descVmad (ofLong o)) s
/-- VAND (R264). -/
def execVand (o : ShortOps) (s : State) : Host.Outcome State Fault Refusal := issue (descVand (ofShort o)) s
/-- VAND_LONG (R264). -/
def execVandLong (o : LongOps) (s : State) : Host.Outcome State Fault Refusal := issue (descVand (ofLong o)) s
/-- VOR (R264). -/
def execVor (o : ShortOps) (s : State) : Host.Outcome State Fault Refusal := issue (descVor (ofShort o)) s
/-- VOR_LONG (R264). -/
def execVorLong (o : LongOps) (s : State) : Host.Outcome State Fault Refusal := issue (descVor (ofLong o)) s
/-- VXOR (R264). -/
def execVxor (o : ShortOps) (s : State) : Host.Outcome State Fault Refusal := issue (descVxor (ofShort o)) s
/-- VXOR_LONG (R264). -/
def execVxorLong (o : LongOps) (s : State) : Host.Outcome State Fault Refusal := issue (descVxor (ofLong o)) s
/-- VNOT (R264). -/
def execVnot (o : ShortOps) (s : State) : Host.Outcome State Fault Refusal := issue (descVnot (ofShort o)) s
/-- VNOT_LONG (R264). -/
def execVnotLong (o : LongOps) (s : State) : Host.Outcome State Fault Refusal := issue (descVnot (ofLong o)) s
/-- VSHL (R264). -/
def execVshl (o : ShortOps) (s : State) : Host.Outcome State Fault Refusal := issue (descVshl (ofShort o)) s
/-- VSHL_LONG (R264). -/
def execVshlLong (o : LongOps) (s : State) : Host.Outcome State Fault Refusal := issue (descVshl (ofLong o)) s
/-- VSHR (R264). -/
def execVshr (o : ShortOps) (s : State) : Host.Outcome State Fault Refusal := issue (descVshr (ofShort o)) s
/-- VSHR_LONG (R264). -/
def execVshrLong (o : LongOps) (s : State) : Host.Outcome State Fault Refusal := issue (descVshr (ofLong o)) s
/-- VSRA (R264). -/
def execVsra (o : ShortOps) (s : State) : Host.Outcome State Fault Refusal := issue (descVsra (ofShort o)) s
/-- VSRA_LONG (R264). -/
def execVsraLong (o : LongOps) (s : State) : Host.Outcome State Fault Refusal := issue (descVsra (ofLong o)) s
/-- VMIN (R264). -/
def execVmin (o : ShortOps) (s : State) : Host.Outcome State Fault Refusal := issue (descVmin (ofShort o)) s
/-- VMIN_LONG (R264). -/
def execVminLong (o : LongOps) (s : State) : Host.Outcome State Fault Refusal := issue (descVmin (ofLong o)) s
/-- VMAX (R264). -/
def execVmax (o : ShortOps) (s : State) : Host.Outcome State Fault Refusal := issue (descVmax (ofShort o)) s
/-- VMAX_LONG (R264). -/
def execVmaxLong (o : LongOps) (s : State) : Host.Outcome State Fault Refusal := issue (descVmax (ofLong o)) s
/-- VABS (R264). -/
def execVabs (o : ShortOps) (s : State) : Host.Outcome State Fault Refusal := issue (descVabs (ofShort o)) s
/-- VABS_LONG (R264). -/
def execVabsLong (o : LongOps) (s : State) : Host.Outcome State Fault Refusal := issue (descVabs (ofLong o)) s
/-- VCMP (R269). -/
def execVcmp (o : ShortOps) (s : State) : Host.Outcome State Fault Refusal := issue (descVcmp (ofShort o)) s
/-- VCMP_LONG (R269). -/
def execVcmpLong (o : LongOps) (s : State) : Host.Outcome State Fault Refusal := issue (descVcmp (ofLong o)) s
/-- VSEL (R270). -/
def execVsel (o : LongOps) (s : State) : Host.Outcome State Fault Refusal := issue (descVsel (ofLong o)) s
/-- VMOV (R267). -/
def execVmov (o : ShortOps) (s : State) : Host.Outcome State Fault Refusal := issue (descVmov (ofShort o)) s
/-- VMOV_LONG (R267). -/
def execVmovLong (o : LongOps) (s : State) : Host.Outcome State Fault Refusal := issue (descVmov (ofLong o)) s
/-- VMOVI (R267). -/
def execVmovi (o : ImmOps) (s : State) : Host.Outcome State Fault Refusal := issue (descVmovi (ofImm true o)) s
/-- VMOVI_LONG (R267). -/
def execVmoviLong (o : LongOps) (s : State) : Host.Outcome State Fault Refusal := issue (descVmovi (ofLong o)) s
/-- VBCAST (R271). -/
def execVbcast (o : ShortOps) (s : State) : Host.Outcome State Fault Refusal := issue (descVbcast (ofShort o)) s
/-- VBCAST_LONG (R271). -/
def execVbcastLong (o : LongOps) (s : State) : Host.Outcome State Fault Refusal := issue (descVbcast (ofLong o)) s
/-- VPOPC (R264). -/
def execVpopc (o : ShortOps) (s : State) : Host.Outcome State Fault Refusal := issue (descVpopc (ofShort o)) s
/-- VPOPC_LONG (R264). -/
def execVpopcLong (o : LongOps) (s : State) : Host.Outcome State Fault Refusal := issue (descVpopc (ofLong o)) s
/-- VCLZ (R264). -/
def execVclz (o : ShortOps) (s : State) : Host.Outcome State Fault Refusal := issue (descVclz (ofShort o)) s
/-- VCLZ_LONG (R264). -/
def execVclzLong (o : LongOps) (s : State) : Host.Outcome State Fault Refusal := issue (descVclz (ofLong o)) s
/-- VBFX (R268). -/
def execVbfx (o : ShortOps) (s : State) : Host.Outcome State Fault Refusal := issue (descVbfx (ofShort o)) s
/-- VBFX_LONG (R268). -/
def execVbfxLong (o : LongOps) (s : State) : Host.Outcome State Fault Refusal := issue (descVbfx (ofLong o)) s
/-- VBFI (R268). -/
def execVbfi (o : LongOps) (s : State) : Host.Outcome State Fault Refusal := issue (descVbfi (ofLong o)) s
/-- VSHFL (R272). -/
def execVshfl (o : ShortOps) (s : State) : Host.Outcome State Fault Refusal := issue (descVshfl (ofShort o)) s
/-- VSHFL_LONG (R272). -/
def execVshflLong (o : LongOps) (s : State) : Host.Outcome State Fault Refusal := issue (descVshfl (ofLong o)) s
/-- VVOTE (R274). -/
def execVvote (o : ShortOps) (s : State) : Host.Outcome State Fault Refusal := issue (descVvote (ofShort o)) s
/-- VVOTE_LONG (R274). -/
def execVvoteLong (o : LongOps) (s : State) : Host.Outcome State Fault Refusal := issue (descVvote (ofLong o)) s
/-- VRED (R275). -/
def execVred (o : ShortOps) (s : State) : Host.Outcome State Fault Refusal := issue (descVred (ofShort o)) s
/-- VRED_LONG (R275). -/
def execVredLong (o : LongOps) (s : State) : Host.Outcome State Fault Refusal := issue (descVred (ofLong o)) s
/-- VSCAN (R275). -/
def execVscan (o : ShortOps) (s : State) : Host.Outcome State Fault Refusal := issue (descVscan (ofShort o)) s
/-- VSCAN_LONG (R275). -/
def execVscanLong (o : LongOps) (s : State) : Host.Outcome State Fault Refusal := issue (descVscan (ofLong o)) s
/-- VADDC (R266). -/
def execVaddc (o : LongOps) (s : State) : Host.Outcome State Fault Refusal := issue (descVaddc (ofLong o)) s
/-- VPERM (R273). -/
def execVperm (o : ShortOps) (s : State) : Host.Outcome State Fault Refusal := issue (descVperm (ofShort o)) s
/-- VPERM_LONG (R273). -/
def execVpermLong (o : LongOps) (s : State) : Host.Outcome State Fault Refusal := issue (descVperm (ofLong o)) s
/-- PLOG (R276). -/
def execPlog (o : ShortOps) (s : State) : Host.Outcome State Fault Refusal := issue (descPlog (ofShort o)) s
/-- PLOG_LONG (R276). -/
def execPlogLong (o : LongOps) (s : State) : Host.Outcome State Fault Refusal := issue (descPlog (ofLong o)) s
/-- EXMSET (R277). -/
def execExmset (o : ShortOps) (s : State) : Host.Outcome State Fault Refusal := issue (descExmset (ofShort o)) s
/-- EXMSET_LONG (R277). -/
def execExmsetLong (o : LongOps) (s : State) : Host.Outcome State Fault Refusal := issue (descExmset (ofLong o)) s
/-- EXMRD (R278). -/
def execExmrd (o : ShortOps) (s : State) : Host.Outcome State Fault Refusal := issue (descExmrd (ofShort o)) s
/-- EXMRD_LONG (R278). -/
def execExmrdLong (o : LongOps) (s : State) : Host.Outcome State Fault Refusal := issue (descExmrd (ofLong o)) s
/-- XSET (R279). -/
def execXset (o : ShortOps) (s : State) : Host.Outcome State Fault Refusal := issue (descXset (ofShort o)) s
/-- XSET_LONG (R279). -/
def execXsetLong (o : LongOps) (s : State) : Host.Outcome State Fault Refusal := issue (descXset (ofLong o)) s
/-- XINC (R280). -/
def execXinc (o : ImmOps) (s : State) : Host.Outcome State Fault Refusal := issue (descXinc (ofImm true o)) s
/-- XINC_LONG (R280). -/
def execXincLong (o : LongOps) (s : State) : Host.Outcome State Fault Refusal := issue (descXinc (ofLong o)) s

end Sys2Proof.Machine
end

