-- ==== Sys2Proof/Machine/Vfp.lean ====
section
/-! DEFINITION. Class VFP (R198, R199, R281 to R297). -/

namespace Sys2Proof.Machine

/-! ### Arithmetic on values -/

/-- A result before its rounding: settled, or a number to round. -/
inductive Raw where
  | done (r : RRes)
  | round (x : Ex)
  deriving DecidableEq, Repr

def Fmt.sign (F : Fmt) (neg : Bool) : Nat := if neg then 2 ^ (F.w - 1) else 0
def rawNan (F : Fmt) (invalid : Bool) : Raw := .done ⟨F.nan, if invalid then fINV else 0, .none⟩
def rawInf (F : Fmt) (neg : Bool) (flags : Nat) : Raw := .done ⟨F.sign neg + F.inf.getD F.maxCode, flags, .none⟩
def rawZero (_F : Fmt) (neg : Bool) : Raw := .round ⟨neg, 0, 0, false⟩

def FVal.isNan : FVal → Bool | .nan _ => true | _ => false
def FVal.isSnan : FVal → Bool | .nan s => s | _ => false
def FVal.neg' : FVal → FVal
  | .nan s => .nan s
  | .inf n => .inf (!n)
  | .num n m e => .num (!n) m e

/-- Rounding with a draw when the mode is stochastic and a number is rounded (R209). -/
def finish (F : Fmt) (rm : Nat) (flush : Bool) (st : Nat) : Raw → RRes × Nat
  | .done r => (r, st)
  | .round x => let (st', dr) := draw rm st; (roundF F rm flush false dr x, st')

/-- The sum of numbers, with the sign of an exact zero (R198). -/
def sumNums (rm : Nat) (xs : List (Bool × Nat × Int)) : Raw :=
  let t := Dy.sum (xs.map fun (n, m, e) => Dy.ofNum n m e)
  let same := xs.all fun (n, m, _) => decide (m = 0) && decide (n = (xs.headD (false, 0, 0)).1)
  .round (t.toEx (if same then (xs.headD (false, 0, 0)).1 else decide (rm = 4)))

def fAdd (F : Fmt) (rm : Nat) (a b : FVal) : Raw :=
  if a.isNan || b.isNan then rawNan F (a.isSnan || b.isSnan) else
  match a, b with
  | .inf n, .inf m => if n = m then rawInf F n 0 else rawNan F true
  | .inf n, _ => rawInf F n 0
  | _, .inf m => rawInf F m 0
  | .num n m e, .num n' m' e' => sumNums rm [(n, m, e), (n', m', e')]
  | _, _ => rawNan F false

def fMul (F : Fmt) (_rm : Nat) (a b : FVal) : Raw :=
  if a.isNan || b.isNan then rawNan F (a.isSnan || b.isSnan) else
  match a, b with
  | .inf n, .inf m => rawInf F (n != m) 0
  | .inf n, .num n' m _ => if m = 0 then rawNan F true else rawInf F (n != n') 0
  | .num n' m _, .inf n => if m = 0 then rawNan F true else rawInf F (n != n') 0
  | .num n m e, .num n' m' e' => .round ⟨n != n', m * m', e + e', false⟩
  | _, _ => rawNan F false

def fDiv (F : Fmt) (_rm : Nat) (a b : FVal) : Raw :=
  if a.isNan || b.isNan then rawNan F (a.isSnan || b.isSnan) else
  match a, b with
  | .inf _, .inf _ => rawNan F true
  | .inf n, .num n' _ _ => rawInf F (n != n') 0
  | .num n _ _, .inf n' => rawZero F (n != n')
  | .num n m e, .num n' m' e' =>
    if m' = 0 then (if m = 0 then rawNan F true else rawInf F (n != n') fDZ)
    else if m = 0 then rawZero F (n != n')
    else .round (exDiv (n != n') m e m' e')
  | _, _ => rawNan F false

/-- A × B + C, one rounding (R286). -/
def fFma (F : Fmt) (rm : Nat) (a b c : FVal) : Raw :=
  let zeroInf := match a, b with
    | .inf _, .num _ m _ => decide (m = 0)
    | .num _ m _, .inf _ => decide (m = 0)
    | _, _ => false
  if zeroInf then rawNan F true
  else if a.isNan || b.isNan || c.isNan then rawNan F (a.isSnan || b.isSnan || c.isSnan) else
  match a, b, c with
  | .num n m e, .num n' m' e', .num k p q => sumNums rm [(n != n', m * m', e + e'), (k, p, q)]
  | .num _ _ _, .num _ _ _, .inf k => rawInf F k 0
  | _, _, _ =>
    let sg (v : FVal) : Bool := match v with | .inf n => n | .num n _ _ => n | .nan _ => false
    let p := sg a != sg b
    match c with
    | .inf k => if k = p then rawInf F p 0 else rawNan F true
    | _ => rawInf F p 0

/-- IEEE 754 order with −0 below +0: a ≤ b. -/
def fLeZ (a b : FVal) : Bool :=
  match a, b with
  | .inf n, .inf m => n || !m
  | .inf n, _ => n
  | _, .inf m => !m
  | .num n m e, .num n' m' e' =>
    let x := Dy.ofNum n m e; let y := Dy.ofNum n' m' e'
    if x.eq y then (n || !n') else x.lt y
  | _, _ => false

/-- An operand returned as a result: nothing is rounded. -/
def rawVal (F : Fmt) (flags : Nat) (v : FVal) : Raw :=
  match v with
  | .nan _ => .done ⟨F.nan, flags, .none⟩
  | .inf n => rawInf F n flags
  | .num n m e => if m = 0 then .done ⟨F.sign n, flags, .none⟩ else .round ⟨n, m, e, false⟩

/-- FMIN and FMAX: `num` for minimumNumber. -/
def fMinMax (F : Fmt) (max num : Bool) (a b : FVal) : Raw :=
  let inv := if a.isSnan || b.isSnan then fINV else 0
  if a.isNan || b.isNan then
    if !num || (a.isNan && b.isNan) then .done ⟨F.nan, inv, .none⟩
    else match rawVal F 0 (if a.isNan then b else a) with
      | .done r => .done { r with flags := inv }
      | r => r
  else rawVal F inv (if fLeZ a b != max then a else b)

/-- The flag of a signalling operand of a `.num` operation whose result is the other operand. -/
def numInv (num : Bool) (a b : FVal) : Nat := if num && (a.isSnan || b.isSnan) then fINV else 0

def fSqrt (F : Fmt) (a : FVal) : Raw :=
  match a with
  | .nan s => rawNan F s
  | .inf n => if n then rawNan F true else rawInf F false 0
  | .num n m e => if m = 0 then rawZero F n else if n then rawNan F true else .round (exSqrt m e)

/-- Rounding to an integral value (R287); the result is exact in the format. -/
def fRnd (F : Fmt) (rm st : Nat) (a : FVal) : RRes × Nat :=
  match a with
  | .nan s => (⟨F.nan, if s then fINV else 0, .none⟩, st)
  | .inf n => (⟨F.sign n + F.inf.getD F.maxCode, 0, .none⟩, st)
  | .num n m e =>
    let (st', dr) := draw rm st
    let (i, _) := roundI rm dr ⟨n, m, e, false⟩
    (⟨(roundF F 1 false false 0 ⟨n, i.natAbs, 0, false⟩).bits, 0, .none⟩, st')

/-- a × 2^n (R285): beyond 2^±6000 the exponent no longer matters. -/
def fScale (F : Fmt) (a : FVal) (n : Int) : Raw :=
  match a with
  | .nan s => rawNan F s
  | .inf neg => rawInf F neg 0
  | .num neg m e => .round ⟨neg, m, e + max (-6000) (min 6000 n), false⟩

/-! ### Functions (R288) -/

/-- A number delivered by a function: correctly rounded for FP32; for FP64 exact, or one of its neighbours, which one is left open. -/
def funNum (F : Fmt) (op bits : Nat) (flush : Bool) (x : Ex) : RRes :=
  let near := roundF F 1 flush false 0 x
  if F.w = 32 then near
  else if near.flags &&& fINX = 0 then near
  else if near.flags &&& fOVF ≠ 0 then near
  else roundF F (if Config.fp64Upper op (BitVec.ofNat 64 bits) then 3 else 4) flush false 0 x

/-- sin(π·r) for r = n/2^b in [0, 2). -/
def sinTurn (n b : Nat) : Option Ex :=
  let one := 2 ^ b
  let neg := decide (one ≤ n)
  let n := n % one
  let half := one / 2
  if n = 0 then none
  else if n = half then some ⟨neg, 1, 0, false⟩
  else
    let k := if half < n then one - n else n
    some { exSinPi k (-(b : Int)) with neg := neg }

/-- The elementary functions by opcode: FRSQ 11, FEXP2 14, FLOG2 15, FSINP 16, FCOSP 17. -/
def fFun (F : Fmt) (op bits : Nat) (flush : Bool) (a : FVal) : RRes :=
  let nan (i : Bool) : RRes := ⟨F.nan, if i then fINV else 0, .none⟩
  let inf (n : Bool) (fl : Nat) : RRes := ⟨F.sign n + F.inf.getD F.maxCode, fl, .none⟩
  let num (x : Ex) : RRes := funNum F op bits flush x
  match a with
  | .nan s => nan s
  | .inf n =>
    match op with
    | 11 => if n then nan true else ⟨0, 0, .none⟩
    | 14 => if n then ⟨0, 0, .none⟩ else inf false 0
    | 15 => if n then nan true else inf false 0
    | _ => nan true
  | .num n m e =>
    match op with
    | 11 => if m = 0 then inf n fDZ else if n then nan true else num (exRsqrt m e)
    | 14 =>
      if m = 0 then num ⟨false, 1, 0, false⟩
      else if 12 ≤ e + (m.log2 : Int) then num ⟨false, 1, if n then -3000 else 3000, false⟩
      else if 0 ≤ e then num ⟨false, 1, if n then -(shl m e : Int) else (shl m e : Int), false⟩
      else if m % 2 ^ (-e).toNat = 0 then num ⟨false, 1, if n then -(m / 2 ^ (-e).toNat : Nat) else (m / 2 ^ (-e).toNat : Nat), false⟩
      else num (exExp2 n m e)
    | 15 =>
      if m = 0 then inf true fDZ
      else if n then nan true
      else if m = 2 ^ m.log2 then
        let k : Int := e + (m.log2 : Int)
        num ⟨decide (k < 0), k.natAbs, 0, false⟩
      else num (exLog2 m e)
    | _ =>
      let b := if e < -1 then (-e).toNat else 1
      let t := shl m (e + b)
      if op = 16 then
        if t % 2 ^ b = 0 then ⟨F.sign n, 0, .none⟩
        else match sinTurn (t % 2 ^ (b + 1)) b with
          | some x => num { x with neg := x.neg != n }
          | none => ⟨F.sign n, 0, .none⟩
      else
        match sinTurn ((t + 2 ^ b / 2) % 2 ^ (b + 1)) b with
        | some x => num x
        | none => ⟨0, 0, .none⟩

/-! ### Lanes -/

/-- What one lane produces: its bits, flags, categories and stochastic state. -/
structure LaneRes where
  bits : Nat
  flags : Nat
  cat : Cat := .none
  st : Nat
  deriving DecidableEq, Repr

/-- A lane instruction of class VFP: results of `regs` registers. -/
def vfpOut (c : Ctx) (d regs : Nat) (g : Nat → Nat → LaneRes) : Out :=
  (lanesOf c.f.exm).foldl (fun o l =>
    let st := (c.f.rng l).toNat
    let r := g l st
    { o with
      writes := o.writes ++ vWrites c.f d regs l r.bits
      flags := o.flags ||| r.flags
      cnt := o.cnt.add r.cat
      rng := if r.st = st then o.rng else o.rng ++ [(l, BitVec.ofNat 32 r.st)] }) {}

/-- Sources of R282. -/
def vfSrc : List KTag := [.v, .vx, .vxp, .s, .z]
def ftRegs (t : Nat) : Nat := if t = 1 then 2 else 1
def ftFmt (t : Nat) : Fmt := match t with | 0 => fp32 | 1 => fp64 | 2 => fp16 | _ => bf16
def vfpLat (t : Nat) : Lat := .fixed (if t = 1 then 8 else 6)

def RRes.lane (p : RRes × Nat) : LaneRes := { bits := p.1.bits, flags := p.1.flags, st := p.2 }
/-- B as an FP64 value: an FP32 immediate is only for FP32 types (MOD 0), so no widening is needed. -/
def half (x h : Nat) : Nat := nbits x (16 * h) 16

/-- Two halves, element 0 first; flags ORed (R291). -/
def halves (g : Nat → Nat → RRes × Nat) (st : Nat) : LaneRes :=
  let (r0, s0) := g 0 st
  let (r1, s1) := g 1 s0
  { bits := r0.bits + r1.bits * 2 ^ 16, flags := r0.flags ||| r1.flags, st := s1 }

/-- Two sources of one type, one rounding. -/
def vfp2 (x : Fields) (lat : Lat) (f : Fmt → Nat → FVal → FVal → Raw) : Desc :=
  let t := x.mod; let r := ftRegs t; let F := ftFmt t
  { cls := 2, st := x.st, cc := x.cc, lat
    encBad := badFields x true true (t < 2) true false || !unused x.c
    opnds := [opD x .dst viDst r, opA x vfSrc r] ++ opB x vfSrc r
    res := fun c _ => vfpOut c x.d r fun l st =>
      let rm := c.f.rm x.rm
      RRes.lane (finish F rm c.f.ftz st (f F rm (F.read c.f.daz (rdLane c.f x.a r l)) (F.read c.f.daz (x.b.lane c.f r l)))) }

def descFadd (x : Fields) : Desc := vfp2 x (vfpLat x.mod) fAdd
def descFsub (x : Fields) : Desc := vfp2 x (vfpLat x.mod) fun F rm a b => fAdd F rm a b.neg'
def descFmul (x : Fields) : Desc := vfp2 x (vfpLat x.mod) fMul
def descFdiv (x : Fields) : Desc := vfp2 x .late fDiv

/-- FMIN and FMAX (R285): MOD[2] is .nan. -/
def fminmax (x : Fields) (max : Bool) : Desc :=
  let t := x.mod % 4; let r := ftRegs t; let F := ftFmt t; let num := !x.mod.testBit 2
  let one (c : Ctx) (a b : Nat) : RRes :=
    let va := F.read c.f.daz a; let vb := F.read c.f.daz b
    let q := (finish F 1 c.f.ftz 0 (fMinMax F max num va vb)).1
    { q with flags := q.flags ||| numInv num va vb }
  { cls := 2, st := x.st, cc := x.cc, lat := vfpLat t
    encBad := badFields x true true (x.mod < 8) false false || !unused x.c
    opnds := [opD x .dst viDst r, opA x vfSrc r] ++ opB x vfSrc r
    res := fun c _ => vfpOut c x.d r fun l st =>
      let a := rdLane c.f x.a r l; let b := x.b.lane c.f r l
      if t < 2 then RRes.lane (one c a b, st) else halves (fun h st => (one c (half a h) (half b h), st)) st }
def descFmin (x : Fields) : Desc := fminmax x false
def descFmax (x : Fields) : Desc := fminmax x true

def descFscale (x : Fields) : Desc :=
  let t := x.mod; let r := ftRegs t; let F := ftFmt t
  { cls := 2, st := x.st, cc := x.cc, lat := vfpLat t
    encBad := badFields x true true (t < 2) true false || !unused x.c
    opnds := [opD x .dst viDst r, opA x vfSrc r] ++ opB x vfSrc
    res := fun c _ => vfpOut c x.d r fun l st =>
      RRes.lane (finish F (c.f.rm x.rm) c.f.ftz st (fScale F (F.read c.f.daz (rdLane c.f x.a r l)) (sgn 32 (x.b.lane c.f 1 l)))) }

def descFfma (x : Fields) : Desc :=
  let t := x.mod; let r := ftRegs t; let F := ftFmt t
  { cls := 2, st := x.st, cc := x.cc, lat := vfpLat t
    encBad := badFields x true false (t < 2) true false
    opnds := [opD x .dst viDst r, opA x vfSrc r] ++ opB x vfSrc r ++ [opC x vfSrc r]
    res := fun c _ => vfpOut c x.d r fun l st =>
      let rm := c.f.rm x.rm; let rd (v : Nat) : FVal := F.read c.f.daz v
      RRes.lane (finish F rm c.f.ftz st (fFma F rm (rd (rdLane c.f x.a r l)) (rd (x.b.lane c.f r l)) (rd (rdLane c.f x.c r l)))) }

/-- One source (R287): `g` gives result and state. -/
def vfp1 (x : Fields) (types : Nat) (rmOk : Bool) (lat : Lat) (g : Ctx → Fmt → Nat → Nat → RRes × Nat) : Desc :=
  let t := x.mod; let r := ftRegs t; let F := ftFmt t
  { cls := 2, st := x.st, cc := x.cc, lat
    encBad := badFields x true false (t < types) rmOk false || !unused x.c || !x.b.unused
    opnds := [opD x .dst viDst r, opA x vfSrc r]
    res := fun c _ => vfpOut c x.d r fun l st =>
      let a := rdLane c.f x.a r l
      if t < 2 then RRes.lane (g c F a st) else halves (fun h st => g c F (half a h) st) st }

/-- |a| and −a: a NaN gives the default NaN, DAZ and FTZ apply (R287). -/
def fSignOp (c : Ctx) (F : Fmt) (neg : Bool → Bool) (a st : Nat) : RRes × Nat :=
  let v := match F.read c.f.daz a with | .nan s => FVal.nan s | .inf n => .inf (neg n) | .num n m e => .num (neg n) m e
  (match v with
   | .nan s => ⟨F.nan, if s then fINV else 0, .none⟩
   | v => (finish F 1 c.f.ftz 0 (rawVal F 0 v)).1, st)
def descFabs (x : Fields) : Desc := vfp1 x 4 false (vfpLat x.mod) fun c F a st => fSignOp c F (fun _ => false) a st
def descFneg (x : Fields) : Desc := vfp1 x 4 false (vfpLat x.mod) fun c F a st => fSignOp c F (fun n => !n) a st
def descFsqrt (x : Fields) : Desc :=
  vfp1 x 2 true .late fun c F a st => finish F (c.f.rm x.rm) c.f.ftz st (fSqrt F (F.read c.f.daz a))
def descFrcp (x : Fields) : Desc :=
  vfp1 x 2 true .late fun c F a st => finish F (c.f.rm x.rm) c.f.ftz st (fDiv F (c.f.rm x.rm) (.num false 1 0) (F.read c.f.daz a))
def descFrnd (x : Fields) : Desc :=
  vfp1 x 2 true (.fixed 6) fun c F a st => fRnd F (c.f.rm x.rm) st (F.read c.f.daz a)

/-- The functions (R288). -/
def vfpFun (x : Fields) (op : Nat) : Desc :=
  vfp1 x 2 false .late fun c F a st => (fFun F op a c.f.ftz (F.read c.f.daz a), st)
def descFrsq (x : Fields) : Desc := vfpFun x 11
def descFexp2 (x : Fields) : Desc := vfpFun x 14
def descFlog2 (x : Fields) : Desc := vfpFun x 15
def descFsinp (x : Fields) : Desc := vfpFun x 16
def descFcosp (x : Fields) : Desc := vfpFun x 17

/-! ### Compare and classify (R289, R290) -/

/-- Numbers compared, zeros equal: less, equal. -/
def fOrd (a b : FVal) : Bool × Bool :=
  let k (v : FVal) : Dy := match v with | .num n m e => Dy.ofNum n m e | _ => Dy.zero
  match a, b with
  | .inf n, .inf m => (n && !m, decide (n = m))
  | .inf n, _ => (n, false)
  | _, .inf m => (!m, false)
  | _, _ => ((k a).lt (k b), (k a).eq (k b))

def fCond (cond : Nat) (a b : FVal) : Bool × Nat :=
  let un := a.isNan || b.isNan
  let inv := if a.isSnan || b.isSnan || (un && decide (2 ≤ cond) && decide (cond ≤ 5)) then fINV else 0
  let (lt, eq) := fOrd a b
  (match cond with
   | 0 => !un && eq
   | 1 => un || !eq
   | 2 => !un && lt
   | 3 => !un && (lt || eq)
   | 4 => !un && !(lt || eq)
   | 5 => !un && !lt
   | 6 => un
   | _ => !un, inv)

def descFcmp (x : Fields) : Desc :=
  let t := x.mod % 4; let r := ftRegs t; let F := ftFmt t
  let cmp (c : Ctx) (l : Nat) : Bool × Nat :=
    fCond (x.mod / 4) (F.read c.f.daz (rdLane c.f x.a r l)) (F.read c.f.daz (x.b.lane c.f r l))
  { cls := 2, st := x.st, cc := x.cc, lat := vfpLat t
    encBad := badFields x true true (t < 2 ∧ x.mod < 32) false false || !unused x.c
    opnds := [opD x .dst [.p], opA x vfSrc r] ++ opB x vfSrc r
    res := fun c _ =>
      { writes := predWrites c x.d fun l => (cmp c l).1
        flags := (lanesOf c.f.exm).foldl (fun a l => a ||| (cmp c l).2) 0 } }

/-- Class bit (R290). -/
def fClass (F : Fmt) (a : Nat) : Nat :=
  match F.decode a with
  | .nan s => if s then 2 ^ 8 else 2 ^ 9
  | .inf n => if n then 1 else 2 ^ 7
  | .num n m _ =>
    if m = 0 then (if n then 2 ^ 3 else 2 ^ 4)
    else if F.isSub a then (if n then 2 ^ 2 else 2 ^ 5) else (if n then 2 else 2 ^ 6)

def descFclass (x : Fields) : Desc :=
  let t := x.mod; let r := ftRegs t
  { cls := 2, st := x.st, cc := x.cc, lat := vfpLat t
    encBad := badFields x true false (t < 2) false false || !unused x.c || !x.b.unused
    opnds := [opD x .dst viDst, opA x vfSrc r]
    res := fun c _ => { writes := laneWrites c x.d 1 fun l => fClass (ftFmt t) (rdLane c.f x.a r l) } }

/-! ### Packed 16-bit (R291) -/

def packed (x : Fields) (three : Bool) (f : Fmt → Nat → FVal → FVal → FVal → Raw) : Desc :=
  let F := if x.mod = 0 then fp16 else bf16
  { cls := 2, st := x.st, cc := x.cc, lat := .fixed 6
    encBad := badFields x true (!three) (x.mod < 2) true false || (!three && !unused x.c)
    opnds := [opD x .dst viDst, opA x vfSrc] ++ opB x vfSrc ++ (if three then [opC x vfSrc] else [])
    res := fun c _ => vfpOut c x.d 1 fun l st =>
      let a := rdLane c.f x.a 1 l; let b := x.b.lane c.f 1 l; let k := if three then rdLane c.f x.c 1 l else 0
      let rm := c.f.rm x.rm; let rd (v : Nat) : FVal := F.read c.f.daz v
      halves (fun h st => finish F rm c.f.ftz st (f F rm (rd (half a h)) (rd (half b h)) (rd (half k h)))) st }
def descFadd2 (x : Fields) : Desc := packed x false fun F rm a b _ => fAdd F rm a b
def descFmul2 (x : Fields) : Desc := packed x false fun F rm a b _ => fMul F rm a b
def descFma2 (x : Fields) : Desc := packed x true fFma

/-! ### Conversions (R292 to R295) -/

def floatCode (k : Nat) : Fmt := match k with | 0 => fp32 | 1 => fp64 | 2 => fp16 | 3 => bf16 | 4 => e4m3 | _ => e5m2

/-- A conversion result with a draw when a number is rounded. -/
def withDraw (rm st : Nat) (v : FVal) (g : Nat → RRes) : LaneRes :=
  let (st', dr) := match v with | .num _ _ _ => draw rm st | _ => (st, 0)
  let r := g dr
  { bits := r.bits, flags := r.flags, cat := r.cat, st := st' }

/-- Slot descriptor that the flight at issue names. -/
def State.slotAt (s : State) (n : Nat) : DWord :=
  match s.flight? s.cur with
  | some f => recSlot (s.recOf f) n
  | none => 0

def descCvtff (x : Fields) (s : State) : Desc :=
  let d := s.slotAt x.fs
  let src := x.mod % 8; let dst := x.mod / 8
  let slot := decide (src = 6) || decide (dst = 6)
  let regs (k : Nat) : Nat := if k = 1 ∨ (k = 6 ∧ slotElem d = 0) then 2 else 1
  { cls := 2, st := x.st, cc := x.cc, lat := .fixed 6
    encBad := badFields x true false (src < 7 ∧ dst < 7) true slot || !unused x.c || !x.b.unused
    opnds := [opD x .dst viDst (regs dst), opA x vfSrc (regs src)]
    chk02 := fun c _ => if slot && !(slotOk d && decide (slotElem d < 6) && decide (slotSkind d = 0)) then some (4, c.f.exm, 0) else none
    res := fun c _ => vfpOut c x.d (regs dst) fun l st =>
      let rm := c.f.rm x.rm
      let a := rdLane c.f x.a (regs src) l
      let v := if src = 6 then slotRead d c.f.daz 0 a else (floatCode src).read c.f.daz a
      withDraw rm st v fun dr => if dst = 6 then slotWrite d c.f.ftz rm dr 0 v else convF (floatCode dst) rm c.f.ftz false false dr v }

/-- Integer codes of Table 12-8: width and signedness. -/
def intCode (k : Nat) : Nat × Bool :=
  match k with
  | 0 => (32, true) | 1 => (64, true) | 2 => (32, false) | 3 => (64, false)
  | 4 => (8, true) | 5 => (16, true) | 6 => (8, false) | _ => (16, false)

def descCvtfi (x : Fields) : Desc :=
  let F := floatCode (x.mod % 4); let (w, sg) := intCode (x.mod / 4)
  let rs := if x.mod % 4 = 1 then 2 else 1; let rd := if w = 64 then 2 else 1
  { cls := 2, st := x.st, cc := x.cc, lat := .fixed 6
    encBad := badFields x true false (x.mod < 32) true false || !unused x.c || !x.b.unused
    opnds := [opD x .dst viDst rd, opA x vfSrc rs]
    res := fun c _ => vfpOut c x.d rd fun l st =>
      let rm := c.f.rm x.rm
      let v := F.read c.f.daz (rdLane c.f x.a rs l)
      withDraw rm st v fun dr =>
        let r := convI w sg rm dr v
        { r with bits := if w < 32 ∧ sg then sext w 32 r.bits else r.bits } }

def descCvtif (x : Fields) : Desc :=
  let F := floatCode (x.mod % 4); let (w, sg) := intCode (x.mod / 4)
  let rd := if x.mod % 4 = 1 then 2 else 1; let rs := if w = 64 then 2 else 1
  { cls := 2, st := x.st, cc := x.cc, lat := .fixed 6
    encBad := badFields x true false (x.mod < 32) true false || !unused x.c || !x.b.unused
    opnds := [opD x .dst viDst rd, opA x vfSrc rs]
    res := fun c _ => vfpOut c x.d rd fun l st =>
      let rm := c.f.rm x.rm
      let a := rdLane c.f x.a rs l % 2 ^ w
      let i : Int := if sg then sgn w a else (a : Int)
      let v := FVal.num (decide (i < 0)) i.natAbs 0
      withDraw rm st v fun dr => convF F rm c.f.ftz false false dr v }

def descCvtblk (x : Fields) (s : State) : Desc :=
  let d := s.slotAt x.fs
  let sc := x.mod.testBit 0; let wide := x.mod.testBit 1
  let r := if wide then 2 else 1; let F := if wide then fp64 else fp32
  { cls := 2, st := x.st, cc := x.cc, lat := .fixed 6
    encBad := badFields x true false (x.mod < 4) true true || !x.b.unused || (!sc && !unused x.c)
    opnds := [opD x .dst viDst, opA x vfSrc r] ++ (if sc then [opC x vfSrc] else [])
    chk02 := fun c _ => if slotOk d && decide (slotSkind d ≠ 0) then none else some (4, c.f.exm, 0)
    res := fun c _ =>
      let rm := c.f.rm x.rm; let bs := slotBlock d
      let val (l : Nat) : FVal := F.read c.f.daz (rdLane c.f x.a r l)
      let scale (l : Nat) : Nat :=
        if sc then rdLane c.f x.c 1 l % 256
        else chooseScale d rm (((lanesOf c.f.exm).filter fun k => decide (k / bs = l / bs)).map val)
      vfpOut c x.d 1 fun l st =>
        let k := scale l
        let p := withDraw rm st (if slotSkind d = 1 ∧ k = 255 then .nan false else val l) fun dr => slotWrite d c.f.ftz rm dr k (val l)
        { p with bits := k * 256 + p.bits } }

/-! ### FMODE and FSTAT (R296, R297) -/

/-- `new` from the old value and operands. -/
def modeNew (old a b : DWord) : DWord := (old &&& ~~~b) ||| (a &&& b)

def modeDesc (x : Fields) (get : Flight → DWord) (ok : DWord → Bool) (put : Flight → DWord → DWord → Flight) : Desc :=
  let new (c : Ctx) : DWord := modeNew (get c.f) (rdUni c.f x.a) (x.b.uni c.f)
  { cls := 2, st := x.st, cc := x.cc, perLane := false, lat := .fixed 6, dkind := .empty, quiet := true
    encBad := badFields x true true (x.mod = 0) false false || !unused x.c
    opnds := [opD x .dst scDst, opA x scDst] ++ opB x scDst
    chk02 := fun c _ => if ok (new c) then none else some (4, allOnes, 0)
    pre := fun c s =>
      if (c.f.ops.any fun o => (match o.kind with | .result => true | .mma => true | _ => false)) || c.f.fixed.any fun r => decide (s.clock < r.ready) then .hold s
      else .go
    res := fun c _ => { writes := uWrites x.d (get c.f) }
    eff := fun c s => s.updFlight c.f.id fun f => put f (new c) (x.b.uni c.f) }

def descFsmode (x : Fields) : Desc :=
  modeDesc x Flight.fmode fmodeOk fun f w b =>
    let f := { f with fmode := w }
    if fld b 32 32 ≠ 0 then f.reseed else f
def descFstat (x : Fields) : Desc := modeDesc x Flight.fstat fstatOk fun f w _ => { f with fstat := w }

/-! ### Meanings -/

/-- FADD (R285). -/
def execFadd (o : ShortOps) (s : State) : Host.Outcome State Fault Refusal := issue (descFadd (ofShort o)) s
/-- FADD_LONG (R285). -/
def execFaddLong (o : LongOps) (s : State) : Host.Outcome State Fault Refusal := issue (descFadd (ofLong o)) s
/-- FSUB (R285). -/
def execFsub (o : ShortOps) (s : State) : Host.Outcome State Fault Refusal := issue (descFsub (ofShort o)) s
/-- FSUB_LONG (R285). -/
def execFsubLong (o : LongOps) (s : State) : Host.Outcome State Fault Refusal := issue (descFsub (ofLong o)) s
/-- FMUL (R285). -/
def execFmul (o : ShortOps) (s : State) : Host.Outcome State Fault Refusal := issue (descFmul (ofShort o)) s
/-- FMUL_LONG (R285). -/
def execFmulLong (o : LongOps) (s : State) : Host.Outcome State Fault Refusal := issue (descFmul (ofLong o)) s
/-- FFMA (R286). -/
def execFfma (o : LongOps) (s : State) : Host.Outcome State Fault Refusal := issue (descFfma (ofLong o)) s
/-- FMIN (R285). -/
def execFmin (o : ShortOps) (s : State) : Host.Outcome State Fault Refusal := issue (descFmin (ofShort o)) s
/-- FMIN_LONG (R285). -/
def execFminLong (o : LongOps) (s : State) : Host.Outcome State Fault Refusal := issue (descFmin (ofLong o)) s
/-- FMAX (R285). -/
def execFmax (o : ShortOps) (s : State) : Host.Outcome State Fault Refusal := issue (descFmax (ofShort o)) s
/-- FMAX_LONG (R285). -/
def execFmaxLong (o : LongOps) (s : State) : Host.Outcome State Fault Refusal := issue (descFmax (ofLong o)) s
/-- FABS (R287). -/
def execFabs (o : ShortOps) (s : State) : Host.Outcome State Fault Refusal := issue (descFabs (ofShort o)) s
/-- FABS_LONG (R287). -/
def execFabsLong (o : LongOps) (s : State) : Host.Outcome State Fault Refusal := issue (descFabs (ofLong o)) s
/-- FNEG (R287). -/
def execFneg (o : ShortOps) (s : State) : Host.Outcome State Fault Refusal := issue (descFneg (ofShort o)) s
/-- FNEG_LONG (R287). -/
def execFnegLong (o : LongOps) (s : State) : Host.Outcome State Fault Refusal := issue (descFneg (ofLong o)) s
/-- FCMP (R289). -/
def execFcmp (o : ShortOps) (s : State) : Host.Outcome State Fault Refusal := issue (descFcmp (ofShort o)) s
/-- FCMP_LONG (R289). -/
def execFcmpLong (o : LongOps) (s : State) : Host.Outcome State Fault Refusal := issue (descFcmp (ofLong o)) s
/-- FCLASS (R290). -/
def execFclass (o : ShortOps) (s : State) : Host.Outcome State Fault Refusal := issue (descFclass (ofShort o)) s
/-- FCLASS_LONG (R290). -/
def execFclassLong (o : LongOps) (s : State) : Host.Outcome State Fault Refusal := issue (descFclass (ofLong o)) s
/-- FRCP (R287). -/
def execFrcp (o : ShortOps) (s : State) : Host.Outcome State Fault Refusal := issue (descFrcp (ofShort o)) s
/-- FRCP_LONG (R287). -/
def execFrcpLong (o : LongOps) (s : State) : Host.Outcome State Fault Refusal := issue (descFrcp (ofLong o)) s
/-- FRSQ (R288). -/
def execFrsq (o : ShortOps) (s : State) : Host.Outcome State Fault Refusal := issue (descFrsq (ofShort o)) s
/-- FRSQ_LONG (R288). -/
def execFrsqLong (o : LongOps) (s : State) : Host.Outcome State Fault Refusal := issue (descFrsq (ofLong o)) s
/-- FSQRT (R287). -/
def execFsqrt (o : ShortOps) (s : State) : Host.Outcome State Fault Refusal := issue (descFsqrt (ofShort o)) s
/-- FSQRT_LONG (R287). -/
def execFsqrtLong (o : LongOps) (s : State) : Host.Outcome State Fault Refusal := issue (descFsqrt (ofLong o)) s
/-- FDIV (R285). -/
def execFdiv (o : ShortOps) (s : State) : Host.Outcome State Fault Refusal := issue (descFdiv (ofShort o)) s
/-- FDIV_LONG (R285). -/
def execFdivLong (o : LongOps) (s : State) : Host.Outcome State Fault Refusal := issue (descFdiv (ofLong o)) s
/-- FEXP2 (R288). -/
def execFexp2 (o : ShortOps) (s : State) : Host.Outcome State Fault Refusal := issue (descFexp2 (ofShort o)) s
/-- FEXP2_LONG (R288). -/
def execFexp2Long (o : LongOps) (s : State) : Host.Outcome State Fault Refusal := issue (descFexp2 (ofLong o)) s
/-- FLOG2 (R288). -/
def execFlog2 (o : ShortOps) (s : State) : Host.Outcome State Fault Refusal := issue (descFlog2 (ofShort o)) s
/-- FLOG2_LONG (R288). -/
def execFlog2Long (o : LongOps) (s : State) : Host.Outcome State Fault Refusal := issue (descFlog2 (ofLong o)) s
/-- FSINP (R288). -/
def execFsinp (o : ShortOps) (s : State) : Host.Outcome State Fault Refusal := issue (descFsinp (ofShort o)) s
/-- FSINP_LONG (R288). -/
def execFsinpLong (o : LongOps) (s : State) : Host.Outcome State Fault Refusal := issue (descFsinp (ofLong o)) s
/-- FCOSP (R288). -/
def execFcosp (o : ShortOps) (s : State) : Host.Outcome State Fault Refusal := issue (descFcosp (ofShort o)) s
/-- FCOSP_LONG (R288). -/
def execFcospLong (o : LongOps) (s : State) : Host.Outcome State Fault Refusal := issue (descFcosp (ofLong o)) s
/-- FRND (R287). -/
def execFrnd (o : ShortOps) (s : State) : Host.Outcome State Fault Refusal := issue (descFrnd (ofShort o)) s
/-- FRND_LONG (R287). -/
def execFrndLong (o : LongOps) (s : State) : Host.Outcome State Fault Refusal := issue (descFrnd (ofLong o)) s
/-- CVTFF (R292). -/
def execCvtff (o : ShortOps) (s : State) : Host.Outcome State Fault Refusal := issue (descCvtff (ofShort o) s) s
/-- CVTFF_LONG (R292). -/
def execCvtffLong (o : LongOps) (s : State) : Host.Outcome State Fault Refusal := issue (descCvtff (ofLong o) s) s
/-- CVTFI (R293). -/
def execCvtfi (o : ShortOps) (s : State) : Host.Outcome State Fault Refusal := issue (descCvtfi (ofShort o)) s
/-- CVTFI_LONG (R293). -/
def execCvtfiLong (o : LongOps) (s : State) : Host.Outcome State Fault Refusal := issue (descCvtfi (ofLong o)) s
/-- CVTIF (R293). -/
def execCvtif (o : ShortOps) (s : State) : Host.Outcome State Fault Refusal := issue (descCvtif (ofShort o)) s
/-- CVTIF_LONG (R293). -/
def execCvtifLong (o : LongOps) (s : State) : Host.Outcome State Fault Refusal := issue (descCvtif (ofLong o)) s
/-- CVTBLK (R295). -/
def execCvtblk (o : LongOps) (s : State) : Host.Outcome State Fault Refusal := issue (descCvtblk (ofLong o) s) s
/-- FSCALE (R285). -/
def execFscale (o : ShortOps) (s : State) : Host.Outcome State Fault Refusal := issue (descFscale (ofShort o)) s
/-- FSCALE_LONG (R285). -/
def execFscaleLong (o : LongOps) (s : State) : Host.Outcome State Fault Refusal := issue (descFscale (ofLong o)) s
/-- FMA2 (R291). -/
def execFma2 (o : LongOps) (s : State) : Host.Outcome State Fault Refusal := issue (descFma2 (ofLong o)) s
/-- FADD2 (R291). -/
def execFadd2 (o : ShortOps) (s : State) : Host.Outcome State Fault Refusal := issue (descFadd2 (ofShort o)) s
/-- FADD2_LONG (R291). -/
def execFadd2Long (o : LongOps) (s : State) : Host.Outcome State Fault Refusal := issue (descFadd2 (ofLong o)) s
/-- FMUL2 (R291). -/
def execFmul2 (o : ShortOps) (s : State) : Host.Outcome State Fault Refusal := issue (descFmul2 (ofShort o)) s
/-- FMUL2_LONG (R291). -/
def execFmul2Long (o : LongOps) (s : State) : Host.Outcome State Fault Refusal := issue (descFmul2 (ofLong o)) s
/-- FSMODE (R296). -/
def execFsmode (o : LongOps) (s : State) : Host.Outcome State Fault Refusal := issue (descFsmode (ofLong o)) s
/-- FSTAT (R296). -/
def execFstat (o : LongOps) (s : State) : Host.Outcome State Fault Refusal := issue (descFstat (ofLong o)) s

end Sys2Proof.Machine
end

