-- ==== Sys2Proof/Machine/Aff.lean ====
section
/-! DEFINITION. Class AFF (R184, R185, R215 to R221, R298 to R302), but for AZLD, which stands with the memory instructions. -/

namespace Sys2Proof.Machine

/-- An affine value: FP64 centre and FP32 slack as codes, terms as (symbol, FP32 code). -/
structure Aff where
  centre : Nat
  slack : Nat
  unb : Bool
  terms : List (Nat × Nat)
  deriving DecidableEq, Repr

def f64 (x : Nat) : FVal := fp64.decode x
def f32 (x : Nat) : FVal := fp32.decode x
def finite (v : FVal) : Bool := match v with | .num .. => true | _ => false
def dyOf (v : FVal) : Dy := match v with | .num n m e => Dy.ofNum n m e | _ => Dy.zero
def d64 (x : Nat) : Dy := dyOf (f64 x)
def d32 (x : Nat) : Dy := dyOf (f32 x)
/-- Rounding of an exact real to a code. -/
def rn64 (d : Dy) : Nat := (roundF fp64 1 false false 0 (d.toEx false)).bits
def rn32 (d : Dy) : Nat := (roundF fp32 1 false false 0 (d.toEx false)).bits
def ru32 (d : Dy) : Nat := (roundF fp32 3 false false 0 (d.toEx false)).bits
/-- Toward −infinity a sum that is exactly zero is −0 (R198). -/
def rd64 (d : Dy) : Nat := (roundF fp64 4 false false 0 (d.toEx true)).bits
def ru64 (d : Dy) : Nat := (roundF fp64 3 false false 0 (d.toEx false)).bits
def inf32 : Nat := 0x7F800000
def nan64 : Nat := 0x7FF8000000000000

/-- The 16 slots (Table 08-6). -/
def slotsOf (f : Flight) (base lane : Nat) : List Nat := (List.range 16).map fun i => (f.rdV (base + i) lane).toNat
/-- The 96-bit field of symbols. -/
def symField (w : List Nat) : Nat := w.getD 12 0 + w.getD 13 0 * 2 ^ 32 + w.getD 14 0 * 2 ^ 64
def affOf (w : List Nat) : Aff :=
  { centre := w.getD 0 0 + w.getD 1 0 * 2 ^ 32, slack := w.getD 2 0, unb := (w.getD 3 0).testBit 4
    terms := (List.range (nbits (w.getD 3 0) 0 4)).map fun j => (nbits (symField w) (12 * j) 12, w.getD (4 + j) 0) }

def ascending : List (Nat × Nat) → Bool
  | a :: b :: r => decide (a.1 < b.1) && ascending (b :: r)
  | _ => true

/-- Canonical form (R185). -/
def canonical (w : List Nat) : Bool :=
  let a := affOf w
  let n := a.terms.length
  decide (nbits (w.getD 3 0) 5 27 = 0) && decide (n ≤ 8)
  && ((List.range 8).all fun j => decide (j < n) || (decide (w.getD (4 + j) 0 = 0) && decide (nbits (symField w) (12 * j) 12 = 0)))
  && (if a.unb then decide (n = 0) && decide (a.slack = inf32)
      else finite (f64 a.centre) && finite (f32 a.slack) && (decide (a.slack < 2 ^ 31) || decide (a.slack = 2 ^ 31))
        && ascending a.terms && a.terms.all fun t => finite (f32 t.2) && decide (t.2 % 2 ^ 31 ≠ 0))

/-- Slots of a value; slot 15 is zero (R298). -/
def affPack (a : Aff) : List Nat :=
  let syms := (enum a.terms).foldl (fun s (j, t) => s + t.1 * 2 ^ (12 * j)) 0
  [a.centre % 2 ^ 32, a.centre / 2 ^ 32, a.slack, a.terms.length + (if a.unb then 16 else 0)]
  ++ (List.range 8).map (fun j => (a.terms.getD j (0, 0)).2)
  ++ [nbits syms 0 32, nbits syms 32 32, nbits syms 64 32, 0]

/-- An unbounded value (R221). -/
def unbounded (centre : Nat) : Aff := ⟨centre, inf32, true, []⟩
def Aff.ok (x : Aff) : Bool := !x.unb && finite (f64 x.centre) && finite (f32 x.slack) && x.terms.all fun t => finite (f32 t.2)
/-- Σ|α| + s. -/
def Aff.radius (x : Aff) : Dy := Dy.sum ((d32 x.slack).abs :: x.terms.map fun t => (d32 t.2).abs)

/-- The term that Limit moves next: smallest magnitude, then higher symbol (R217). -/
def weakest : List (Nat × Nat) → Option (Nat × Nat)
  | [] => none
  | t :: r =>
    match weakest r with
    | none => some t
    | some u => if t.2 % 2 ^ 31 < u.2 % 2 ^ 31 ∨ (t.2 % 2 ^ 31 = u.2 % 2 ^ 31 ∧ u.1 < t.1) then some t else some u

/-- Limit to `k` terms; `n` bounds the moves. -/
def limitTo (k : Nat) : Nat → List (Nat × Nat) → Dy → List (Nat × Nat) × Dy
  | 0, ts, x => (ts, x)
  | n + 1, ts, x =>
    if ts.length ≤ k then (ts, x) else
    match weakest ts with
    | none => (ts, x)
    | some t => limitTo k n (ts.filter (· ≠ t)) (x.add (d32 t.2).abs)

/-- Exact coefficient sums by symbol, ascending, over (factor, value). -/
def gather (ps : List (Dy × Aff)) : List (Nat × Dy) :=
  let syms := sortBy id (dedup (ps.flatMap fun p => p.2.terms.map Prod.fst))
  syms.map fun s => (s, Dy.sum (ps.flatMap fun p => p.2.terms.filterMap fun t => if t.1 = s then some (p.1.mul (d32 t.2)) else none))

/-- A product not rounded, with the infinities and NaNs of IEEE 754. -/
def mulExact (a b : FVal) : FVal :=
  match a, b with
  | .num n m e, .num k j f => .num (n != k) (m * j) (e + f)
  | .inf n, .num k j _ => if j = 0 then .nan false else .inf (n != k)
  | .num n m _, .inf k => if m = 0 then .nan false else .inf (n != k)
  | .inf n, .inf k => .inf (n != k)
  | _, _ => .nan false
def isNegZero (a : FVal) : Bool := match a with | .num true 0 _ => true | _ => false
def isInf (neg : Bool) (a : FVal) : Bool := match a with | .inf n => n == neg | _ => false

/-- RN64 of an exact sum: one rounding, the zero of R198, and the infinities and NaNs of IEEE 754. -/
def sum64 (l : List FVal) : Nat :=
  if (l.any fun a => match a with | .nan _ => true | _ => false) || (l.any (isInf true) && l.any (isInf false)) then nan64
  else if l.any (isInf true) then 0xFFF0000000000000
  else if l.any (isInf false) then 0x7FF0000000000000
  else (roundF fp64 1 false false 0 ((Dy.sum (l.map dyOf)).toEx (l.all isNegZero))).bits

/-- A result from the addends of its centre, its exact coefficients and extra, with a fresh term (R216 to R219; log 28); `unb` is the centre of an unbounded one
(R221). -/
def finishAff (cs : List FVal) (ae : List (Nat × Dy)) (extra : Dy) (fresh : Option (Nat × Nat)) (unb : Nat) : Aff :=
  let ce := Dy.sum (cs.map dyOf)
  let cz := sum64 cs
  let az := ae.map fun (s, d) => (s, d, rn32 d)
  if !finite (f64 cz) || az.any (fun t => !finite (f32 t.2.2)) || (match fresh with | some t => !finite (f32 t.2) | none => false) then unbounded unb
  else
    let extra := Dy.sum (extra :: (ce.sub (d64 cz)).abs :: az.map fun t => (t.2.1.sub (d32 t.2.2)).abs)
    let terms := (az.filter fun t => decide (t.2.2 % 2 ^ 31 ≠ 0)).map fun t => (t.1, t.2.2)
    let (terms, extra) := match fresh with
      | some (s, k) =>
        /- A term already on the fresh symbol goes into the slack, whatever the fresh coefficient (R218). -/
        let old := terms.filter fun t => decide (t.1 = s)
        let kept := terms.filter fun t => decide (t.1 ≠ s)
        (if k % 2 ^ 31 = 0 then kept else sortBy Prod.fst (kept ++ [(s, k)]), Dy.sum (extra :: old.map fun t => (d32 t.2).abs))
      | none => (terms, extra)
    let (terms, extra) := limitTo 8 32 terms extra
    let sz := ru32 extra
    if finite (f32 sz) then ⟨cz, sz, false, terms⟩ else unbounded unb

/-- IEEE 754 centre of an unbounded result. -/
def ieee (r : Raw) : FVal × Nat := let b := (finish fp64 1 false 0 r).1.bits; (f64 b, b)

/-- z = λx + μy + κ (R216). -/
def linearAff (ps : List (FVal × Aff)) (kap : FVal) : Aff :=
  let cs := ps.map (fun p => mulExact p.1 (f64 p.2.centre)) ++ [kap]
  if ps.any (fun p => !p.2.ok || !finite p.1) || !finite kap then unbounded (sum64 cs)
  else
    let qs := ps.map fun p => (dyOf p.1, p.2)
    finishAff cs (gather qs) (Dy.sum (qs.map fun q => q.1.abs.mul (d32 q.2.slack))) none (sum64 cs)

/-- Centre and slack given (R216): the centre is exact. -/
def initAff (c s : FVal) : Aff :=
  let cz := (ieee (rawVal fp64 0 c)).2
  match c, s with
  | .num .., .num n m e =>
    if n && decide (m ≠ 0) then unbounded cz
    else let sz := ru32 (Dy.ofNum false m e); if finite (f32 sz) then ⟨cz, sz, false, []⟩ else unbounded cz
  | _, _ => unbounded cz

/-- z = xy (+ w) (R218). -/
def productAff (x y : Aff) (w : Option Aff) (sym : Nat) : Aff :=
  let ws := w.toList
  let cs := mulExact (f64 x.centre) (f64 y.centre) :: ws.map fun v => f64 v.centre
  if !x.ok || !y.ok || ws.any (fun v => !v.ok) then unbounded (sum64 cs)
  else
    let cx := d64 x.centre; let cy := d64 y.centre
    finishAff cs
      (gather ([(cx, y), (cy, x)] ++ ws.map fun v => (⟨1, 0⟩, v)))
      (Dy.sum ([cx.abs.mul (d32 y.slack), cy.abs.mul (d32 x.slack)] ++ ws.map fun v => d32 v.slack))
      (some (sym, ru32 (x.radius.mul y.radius))) (sum64 cs)

/-! ### Min-range linearisation (R219) -/

/-- Lower and upper bounds of 1/d, d ≠ 0. -/
def recipBounds (d : Dy) : Dy × Dy :=
  let x := exDiv false 1 0 d.i.natAbs d.e
  let lo : Dy := ⟨x.m, x.e⟩
  let hi : Dy := if x.sticky then ⟨x.m + 1, x.e⟩ else lo
  if d.i < 0 then (hi.neg, lo.neg) else (lo, hi)
/-- Lower and upper bounds of √d, d ≥ 0. -/
def sqrtBounds (d : Dy) : Dy × Dy :=
  if d.i = 0 then (Dy.zero, Dy.zero) else
  let x := exSqrt d.i.natAbs d.e
  (⟨x.m, x.e⟩, if x.sticky then ⟨x.m + 1, x.e⟩ else ⟨x.m, x.e⟩)

def dyMin (l : List Dy) : Dy := l.foldl (fun a b => if b.lt a then b else a) (l.headD Dy.zero)
def dyMax (l : List Dy) : Dy := l.foldl (fun a b => if a.lt b then b else a) (l.headD Dy.zero)
/-- One unit 120 places below a bound's leading place. -/
def tailUnit (d : Dy) : Dy := ⟨1, d.e + (d.i.natAbs.log2 : Int) - 120⟩

/-- ARCP (`op` 7) and ASQRT (`op` 8). How far outward each bound lies is left open (Config.affineSlack). -/
def nonlinearAff (op : Nat) (x : Aff) (sym : Nat) : Aff :=
  let rcp := decide (op = 7)
  let cbad := (ieee (if rcp then fDiv fp64 1 (.num false 1 0) (f64 x.centre) else fSqrt fp64 (f64 x.centre))).2
  let bad := unbounded cbad
  if !x.ok then bad else
  let ac := rd64 ((d64 x.centre).sub x.radius)
  let bc := ru64 ((d64 x.centre).add x.radius)
  if !finite (f64 ac) || !finite (f64 bc) then bad else
  let a := d64 ac; let b := d64 bc
  if (if rcp then decide (a.i ≤ 0) && decide (0 ≤ b.i) else decide (a.i < 0)) then bad else
  let m := if rcp && decide (b.i < 0) then a else b
  let alc : Nat :=
    if rcp then (roundF fp64 1 false false 0 (exDiv true 1 0 (m.i.natAbs * m.i.natAbs) (2 * m.e))).bits
    else if b.i = 0 then 0
    else let r := exRsqrt b.i.natAbs b.e; (roundF fp64 1 false false 0 { r with e := r.e - 1 }).bits
  if !finite (f64 alc) then bad else
  let al := d64 alc
  let at_ (t : Dy) : Dy × Dy := let (lo, hi) := if rcp then recipBounds t else sqrtBounds t; (lo.sub (al.mul t), hi.sub (al.mul t))
  let inner : List (Dy × Dy) :=
    if al.i = 0 then [] else
    if rcp then
      let n := al.neg
      let lo := if b.i < 0 then b else a
      let hi := if b.i < 0 then a else b
      if ((lo.mul lo).mul n).le ⟨1, 0⟩ && (Dy.le ⟨1, 0⟩ ((hi.mul hi).mul n)) then
        let (p, q) := sqrtBounds n
        let p : Dy := ⟨p.i, p.e + 1⟩; let q : Dy := ⟨q.i, q.e + 1⟩
        if b.i < 0 then [(q.neg, p.neg)] else [(p, q)]
      else []
    else
      let k : Dy := ⟨(al.mul al).i, (al.mul al).e + 2⟩
      if (a.mul k).le ⟨1, 0⟩ && (Dy.le ⟨1, 0⟩ (b.mul k)) then [recipBounds ⟨al.i, al.e + 2⟩] else []
  let bs := at_ a :: at_ b :: inner
  let lo0 := dyMin (bs.map Prod.fst); let hi0 := dyMax (bs.map Prod.snd)
  let sl := Config.affineSlack op (BitVec.ofNat 64 ac) (BitVec.ofNat 64 bc)
  let dlo := lo0.sub ((⟨sl.1, 0⟩ : Dy).mul (tailUnit lo0))
  let dhi := hi0.add ((⟨sl.2, 0⟩ : Dy).mul (tailUnit hi0))
  let mid := (dlo.add dhi).half
  let zc := rn64 mid
  if !finite (f64 zc) then bad else
  let fresh := ru32 ((dhi.sub dlo).half.add ((d64 zc).sub mid).abs)
  finishAff [mulExact (f64 alc) (f64 x.centre), f64 zc] (gather [(al, x)]) (al.abs.mul (d32 x.slack)) (some (sym, fresh)) cbad

/-! ### Collapse, transfer, queries (R217, R220) -/

def condenseAff (k : Nat) (x : Aff) : Aff :=
  if x.unb then unbounded x.centre else
  let (ts, e) := limitTo k 16 x.terms (d32 x.slack)
  let sz := ru32 e
  if finite (f32 sz) then { x with terms := ts, slack := sz } else unbounded x.centre
def collapseAff (n : Nat) (x : Aff) : Aff :=
  if x.unb then unbounded x.centre else
  match x.terms with
  | [] => x
  | ts => let k := ru32 (Dy.sum (ts.map fun t => (d32 t.2).abs)); if finite (f32 k) then { x with terms := [(n, k)] } else unbounded x.centre
def transferAff (x : Aff) : Aff :=
  if x.unb then unbounded x.centre else
  let sz := ru32 x.radius
  if finite (f32 sz) then ⟨x.centre, sz, false, []⟩ else unbounded x.centre
/-- ARAD: the radius of an unbounded value is infinite. -/
def radOf (x : Aff) : Nat := if x.unb then inf32 else ru32 x.radius
/-- ABND: with an infinite radius the sums are those of IEEE 754. -/
def boundsOf (x : Aff) : Nat × Nat :=
  if x.unb then
    ((ieee (fAdd fp64 4 (f64 x.centre) (.inf true))).2, (ieee (fAdd fp64 3 (f64 x.centre) (.inf false))).2)
  else (rd64 ((d64 x.centre).sub x.radius), ru64 ((d64 x.centre).add x.radius))
def coefOf (x : Aff) (s : Nat) : Nat := ((x.terms.find? fun t => decide (t.1 = s)).map Prod.snd).getD 0

/-! ### Instructions (Table 12-10) -/

def aNum (spec : Nat) : Nat := match okind spec with | .a n => n | _ => 0
def opAff (pos spec : Nat) (use : Use) : Opnd := { pos, spec, use, kinds := [.a] }
def bSpec (x : Fields) : Nat := match x.b with | .spec b => b | .imm _ => 328

/-- The value of affine register `spec` in a lane. -/
def rdAff (s : State) (f : Flight) (spec lane : Nat) : Aff := affOf (slotsOf f (affBase (s.afb f) (aNum spec)) lane)

/-- Lanes in which an a operand is not canonical, over the operands; the first such operand (R299). -/
def nonCanon (ops : List (Nat × Nat)) (c : Ctx) (s : State) : Option (Nat × DWord × Nat) :=
  let bad (sp : Nat) : List Nat := (lanesOf c.f.exm).filter fun l => !canonical (slotsOf c.f (affBase (s.afb c.f) (aNum sp)) l)
  match ops.find? fun o => !(bad o.2).isEmpty with
  | none => none
  | some o => some (o.1, maskOf (dedup (ops.flatMap fun o => bad o.2)), o.2)

/-- An affine result in the lanes of EXM. -/
def affWrites (s : State) (c : Ctx) (d : Nat) (g : Nat → Aff) : List RegWrite :=
  let base := affBase (s.afb c.f) (aNum d)
  (lanesOf c.f.exm).flatMap fun l =>
    (enum (affPack (g l))).map fun (i, w) => ⟨.v (base + i), 64 * (base + i) + l, w⟩

def affDesc (x : Fields) (bad : Bool) (lat : Lat) (mints : Bool) (ops : List Opnd) (res : Ctx → State → Out) : Desc :=
  { cls := 5, st := x.st, cc := x.cc, lat, mints, encBad := bad, opnds := ops, res
    chk02 := nonCanon (ops.filterMap fun o => match okind o.spec with | .a _ => if o.reads then some (o.pos, o.spec) else none | _ => none) }

/-- No MOD, RM or FS; LR only (R298). -/
def affBad (x : Fields) (li : Bool) (mods : Nat) (useA useB useC : Bool) : Bool :=
  badFields x true li (x.mod < mods) false false || (!useA && !unused x.a) || (!useB && !x.b.unused) || (!useC && !unused x.c)

def descAinit (x : Fields) : Desc :=
  affDesc x (affBad x true 1 true true false) (.fixed 8) false
    ([opAff 0 x.d .dst, opA x [.s, .z]] ++ opB x [.s, .z]) fun c s =>
      let sl := match x.b with | .imm i => f32 i | .spec b => f64 (rdUni c.f b).toNat
      { writes := affWrites s c x.d fun _ => initAff (f64 (rdUni c.f x.a).toNat) sl }

def descAfromv (x : Fields) : Desc :=
  let r := if x.mod = 1 then 2 else 1
  affDesc x (affBad x false 2 true true false) (.fixed 8) false
    ([opAff 0 x.d .dst, opA x vfSrc r] ++ opB x [.v, .s, .z]) fun c s =>
      { writes := affWrites s c x.d fun l =>
          let a := rdLane c.f x.a r l
          initAff (if r = 2 then f64 a else f32 a) (f32 (x.b.lane c.f 1 l)) }

/-- Two a operands. -/
def aff2 (x : Fields) (lat : Lat) (mints : Bool) (g : Ctx → Aff → Aff → Aff) : Desc :=
  affDesc x (affBad x false 1 true true false) lat mints [opAff 0 x.d .dst, opAff 1 x.a .src, opAff 2 (bSpec x) .src] fun c s =>
    { writes := affWrites s c x.d fun l => g c (rdAff s c.f x.a l) (rdAff s c.f (bSpec x) l) }
/-- One a operand. -/
def aff1 (x : Fields) (mods : Nat) (lat : Lat) (mints : Bool) (g : Ctx → Aff → Aff) : Desc :=
  affDesc x (affBad x false mods true false false) lat mints [opAff 0 x.d .dst, opAff 1 x.a .src] fun c s =>
    { writes := affWrites s c x.d fun l => g c (rdAff s c.f x.a l) }

def one64 : FVal := .num false 1 0
def zero64 : FVal := .num false 0 0
def descAadd (x : Fields) : Desc := aff2 x (.fixed 8) false fun _ a b => linearAff [(one64, a), (one64, b)] zero64
def descAsub (x : Fields) : Desc := aff2 x (.fixed 8) false fun _ a b => linearAff [(one64, a), (one64.neg', b)] zero64
def descAscl (x : Fields) : Desc :=
  affDesc x (affBad x false 1 true true true) (.fixed 8) false
    ([opAff 0 x.d .dst, opAff 1 x.a .src] ++ opB x [.s, .v, .z] 2 ++ [opC x [.s, .v, .z] 2]) fun c s =>
      { writes := affWrites s c x.d fun l =>
          linearAff [(f64 (x.b.lane c.f 2 l), rdAff s c.f x.a l)] (f64 (rdLane c.f x.c 2 l)) }
def descAmul (x : Fields) : Desc := aff2 x .late true fun c a b => productAff a b none c.sym
def descAfma (x : Fields) : Desc :=
  affDesc x (affBad x false 1 true true true) .late true
    [opAff 0 x.d .dst, opAff 1 x.a .src, opAff 2 (bSpec x) .src, opAff 3 x.c .src] fun c s =>
      { writes := affWrites s c x.d fun l => productAff (rdAff s c.f x.a l) (rdAff s c.f (bSpec x) l) (some (rdAff s c.f x.c l)) c.sym }
def descArcp (x : Fields) : Desc := aff1 x 1 .late true fun c a => nonlinearAff 7 a c.sym
def descAsqrt (x : Fields) : Desc := aff1 x 1 .late true fun c a => nonlinearAff 8 a c.sym
def descAcnd (x : Fields) : Desc := aff1 x 9 (.fixed 8) false fun _ a => condenseAff x.mod a
def descAcoll (x : Fields) : Desc :=
  affDesc x (affBad x false 1 false false false) (.fixed 8) false [opAff 0 x.d .both] fun c s =>
    { writes := affWrites s c x.d fun l => collapseAff (aNum x.d) (rdAff s c.f x.d l) }

/-- Queries: a v destination directly named (R298). -/
def affQuery (x : Fields) (regs : Nat) (b : Bool) (g : Ctx → Nat → Aff → Nat) : Desc :=
  affDesc x (affBad x false 1 true b false) (.fixed 8) false
    ([opD x .dst [.v] regs, opAff 1 x.a .src] ++ (if b then opB x [.v, .s, .z] else [])) fun c s =>
      { writes := laneWrites c x.d regs fun l => g c l (rdAff s c.f x.a l) }
def descActr (x : Fields) : Desc := affQuery x 2 false fun _ _ a => a.centre
def descArad (x : Fields) : Desc := affQuery x 1 false fun _ _ a => radOf a
def descAbnd (x : Fields) : Desc := affQuery x 4 false fun _ _ a => (boundsOf a).1 + (boundsOf a).2 * 2 ^ 64
def descAsym (x : Fields) : Desc := affQuery x 1 true fun c l a => coefOf a (x.b.lane c.f 1 l % 2 ^ 12)

/-- AXFER (R302): the source lane is in EXM or not; a dead one kills the reader. -/
def descAxfer (x : Fields) : Desc :=
  let src (c : Ctx) (l : Nat) : Nat := x.b.lane c.f 1 l % 64
  let words (s : State) (c : Ctx) (l : Nat) : List Nat := slotsOf c.f (affBase (s.afb c.f) (aNum x.a)) (src c l)
  { cls := 5, st := x.st, cc := x.cc, lat := .late
    encBad := affBad x false 1 true true false
    opnds := [opAff 0 x.d .dst, opAff 1 x.a .src] ++ opB x [.v, .s, .z]
    chk02 := fun c s =>
      let bad := (lanesOf c.f.exm).filter fun l => !c.f.dead.getLsbD (src c l) && !canonical (words s c l)
      if bad.isEmpty then none else some (1, maskOf bad, x.a)
    res := fun c s =>
      { writes := affWrites s c x.d fun l => if c.f.dead.getLsbD (src c l) then ⟨0, 0, false, []⟩ else transferAff (affOf (words s c l))
        dead := maskOf ((lanesOf c.f.exm).filter fun l => c.f.dead.getLsbD (src c l)) } }

/-! ### Meanings -/

/-- AINIT (R216). -/
def execAinit (o : LongOps) (s : State) : Host.Outcome State Fault Refusal := issue (descAinit (ofLong o)) s
/-- AFROMV (R216). -/
def execAfromv (o : LongOps) (s : State) : Host.Outcome State Fault Refusal := issue (descAfromv (ofLong o)) s
/-- AADD (R216). -/
def execAadd (o : LongOps) (s : State) : Host.Outcome State Fault Refusal := issue (descAadd (ofLong o)) s
/-- ASUB (R216). -/
def execAsub (o : LongOps) (s : State) : Host.Outcome State Fault Refusal := issue (descAsub (ofLong o)) s
/-- ASCL (R216). -/
def execAscl (o : LongOps) (s : State) : Host.Outcome State Fault Refusal := issue (descAscl (ofLong o)) s
/-- AMUL (R218). -/
def execAmul (o : LongOps) (s : State) : Host.Outcome State Fault Refusal := issue (descAmul (ofLong o)) s
/-- AFMA (R218). -/
def execAfma (o : LongOps) (s : State) : Host.Outcome State Fault Refusal := issue (descAfma (ofLong o)) s
/-- ARCP (R219). -/
def execArcp (o : LongOps) (s : State) : Host.Outcome State Fault Refusal := issue (descArcp (ofLong o)) s
/-- ASQRT (R219). -/
def execAsqrt (o : LongOps) (s : State) : Host.Outcome State Fault Refusal := issue (descAsqrt (ofLong o)) s
/-- ACND (R217). -/
def execAcnd (o : LongOps) (s : State) : Host.Outcome State Fault Refusal := issue (descAcnd (ofLong o)) s
/-- ACOLL (R220). -/
def execAcoll (o : LongOps) (s : State) : Host.Outcome State Fault Refusal := issue (descAcoll (ofLong o)) s
/-- ACTR (R220). -/
def execActr (o : LongOps) (s : State) : Host.Outcome State Fault Refusal := issue (descActr (ofLong o)) s
/-- ARAD (R220). -/
def execArad (o : LongOps) (s : State) : Host.Outcome State Fault Refusal := issue (descArad (ofLong o)) s
/-- ABND (R220). -/
def execAbnd (o : LongOps) (s : State) : Host.Outcome State Fault Refusal := issue (descAbnd (ofLong o)) s
/-- ASYM (R220). -/
def execAsym (o : LongOps) (s : State) : Host.Outcome State Fault Refusal := issue (descAsym (ofLong o)) s
/-- AXFER (R302). -/
def execAxfer (o : LongOps) (s : State) : Host.Outcome State Fault Refusal := issue (descAxfer (ofLong o)) s

end Sys2Proof.Machine
end

