-- ==== Sys2Proof/Machine/Crypto.lean ====
section
/-! DEFINITION. CRC-32C and ADD32 (R126), the AES-256 counter-mode keystream of the decrypt stage (R123), and SHA3-512 (R20, R437). The
manual names AES-256 and SHA3-512 by their public standards (log 10). -/

namespace Sys2Proof.Machine

/-! ### Checksums (R126) -/

/-- One byte into the register of CRC-32C. -/
def crcByte (r : Nat) (b : Byte) : Nat :=
  (List.range 8).foldl (fun r _ => if r % 2 = 1 then (r / 2) ^^^ 0x82F63B78 else r / 2) (r ^^^ b.toNat)
/-- Register after a stream, before the final XOR. -/
def crcFrom (r : Nat) (l : List Byte) : Nat := l.foldl crcByte r
def crcInit : Nat := 0xFFFFFFFF
def crcOut (r : Nat) : Nat := r ^^^ 0xFFFFFFFF

/-- Little-endian 32-bit words summed; `n` bounds them. -/
def add32Go : Nat → List Byte → Nat → Nat
  | 0, _, a => a
  | n + 1, l, a => if l.isEmpty then a else add32Go n (l.drop 4) ((a + ofLe (l.take 4)) % 2 ^ 32)
def add32 (l : List Byte) : Nat := add32Go l.length l 0

/-! ### AES-256 -/

/-- Doubling in the field of AES. -/
def gfDouble (a : Nat) : Nat := if a < 128 then 2 * a else ((2 * a) % 256) ^^^ 0x1B
def gfMul (a b : Nat) : Nat := ((List.range 8).foldl (fun (p, x) i => (if b.testBit i then p ^^^ x else p, gfDouble x)) (0, a)).1
/-- a^254: the inverse, and 0 for 0. -/
def gfInv (a : Nat) : Nat :=
  let a2 := gfMul a a; let a4 := gfMul a2 a2; let a8 := gfMul a4 a4; let a16 := gfMul a8 a8
  let a32 := gfMul a16 a16; let a64 := gfMul a32 a32; let a128 := gfMul a64 a64
  gfMul (gfMul (gfMul a2 a4) (gfMul a8 a16)) (gfMul (gfMul a32 a64) a128)
def rotl8 (a k : Nat) : Nat := (a * 2 ^ k) % 256 ||| a / 2 ^ (8 - k)
def sbox (a : Nat) : Nat := let i := gfInv a; i ^^^ rotl8 i 1 ^^^ rotl8 i 2 ^^^ rotl8 i 3 ^^^ rotl8 i 4 ^^^ 0x63

def xorL (a b : List Nat) : List Nat := (a.zip b).map fun (x, y) => x ^^^ y
/-- Key schedule: words of 4 bytes, the latest first. -/
def aesExpand : Nat → Nat → List (List Nat) → List (List Nat)
  | 0, _, ws => ws
  | n + 1, i, ws =>
    let t := ws.headD []
    let t :=
      if i % 8 = 0 then
        let r := (t.drop 1 ++ t.take 1).map sbox
        xorL r [2 ^ (i / 8 - 1), 0, 0, 0]
      else if i % 8 = 4 then t.map sbox else t
    aesExpand n (i + 1) (xorL (ws.getD 7 []) t :: ws)
/-- 60 words of the schedule of a key given as 32 bytes. -/
def aesSchedule (key : List Nat) : List (List Nat) :=
  (aesExpand 52 8 (((List.range 8).map fun i => (key.drop (4 * i)).take 4).reverse)).reverse
def aesRoundKey (ws : List (List Nat)) (r : Nat) : List Nat := ((ws.drop (4 * r)).take 4).flatten
/-- Row `i % 4` of column `i / 4` moves by its row. -/
def shiftRows (s : List Nat) : List Nat := (List.range 16).map fun i => s.getD ((i + 4 * (i % 4)) % 16) 0
def mixColumns (s : List Nat) : List Nat :=
  (List.range 16).map fun i =>
    let c := i / 4 * 4; let r := i % 4
    let x (k : Nat) : Nat := s.getD (c + (r + k) % 4) 0
    gfDouble (x 0) ^^^ (gfDouble (x 1) ^^^ x 1) ^^^ x 2 ^^^ x 3
def aesBlock (ws : List (List Nat)) (b : List Nat) : List Nat :=
  let s := (List.range 13).foldl (fun s r => xorL (mixColumns (shiftRows (s.map sbox))) (aesRoundKey ws (r + 1))) (xorL b (aesRoundKey ws 0))
  xorL (shiftRows (s.map sbox)) (aesRoundKey ws 14)

/-- `n` bytes of a number, most significant first. -/
def beBytes (n x : Nat) : List Nat := (List.range n).map fun i => x / 2 ^ (8 * (n - 1 - i)) % 256
/-- Keystream block `j` (Table 06-6); the key's bytes stand most significant first (log 10). -/
def keyBlock (key : BitVec 256) (nonce ctr j : Nat) : List Nat :=
  aesBlock (aesSchedule (beBytes 32 key.toNat)) (beBytes 16 (nonce * 2 ^ 32 + (ctr + j) % 2 ^ 32))

/-! ### SHA3-512 -/

def keccakRc : List DWord :=
  [0x0000000000000001, 0x0000000000008082, 0x800000000000808A, 0x8000000080008000, 0x000000000000808B, 0x0000000080000001,
   0x8000000080008081, 0x8000000000008009, 0x000000000000008A, 0x0000000000000088, 0x0000000080008009, 0x000000008000000A]
  ++ [0x000000008000808B, 0x800000000000008B, 0x8000000000008089, 0x8000000000008003, 0x8000000000008002, 0x8000000000000080,
      0x000000000000800A, 0x800000008000000A, 0x8000000080008081, 0x8000000000008080, 0x0000000080000001, 0x8000000080008008]
def keccakRot : List Nat := [0, 1, 62, 28, 27, 36, 44, 6, 55, 20, 3, 10, 43, 25, 39, 41, 45, 15, 21, 8, 18, 2, 61, 56, 14]

def keccakRound (a : List DWord) (rc : DWord) : List DWord :=
  let g (l : List DWord) (i : Nat) : DWord := l.getD i 0
  let c := (List.range 5).map fun x => g a x ^^^ g a (x + 5) ^^^ g a (x + 10) ^^^ g a (x + 15) ^^^ g a (x + 20)
  let d := (List.range 5).map fun x => g c ((x + 4) % 5) ^^^ (g c ((x + 1) % 5)).rotateLeft 1
  let a := (List.range 25).map fun i => (g a i ^^^ g d (i % 5)).rotateLeft (keccakRot.getD i 0)
  let b := (List.range 25).map fun i => g a ((i % 5 + 3 * (i / 5)) % 5 + 5 * (i % 5))
  let r := (List.range 25).map fun i => g b i ^^^ (~~~(g b ((i % 5 + 1) % 5 + i / 5 * 5)) &&& g b ((i % 5 + 2) % 5 + i / 5 * 5))
  (g r 0 ^^^ rc) :: r.drop 1
def keccakF (a : List DWord) : List DWord := keccakRc.foldl keccakRound a

/-- Padding to whole blocks of 72 bytes. -/
def sha3Pad (m : List Byte) : List Byte :=
  let k := 72 - m.length % 72
  if k = 1 then m ++ [0x86] else m ++ [0x06] ++ List.replicate (k - 2) 0 ++ [0x80]
/-- Blocks absorbed; `n` bounds them. -/
def sha3Absorb : Nat → List Byte → List DWord → List DWord
  | 0, _, a => a
  | n + 1, m, a =>
    if m.isEmpty then a else
    let a := (List.range 25).map fun i => if i < 9 then a.getD i 0 ^^^ BitVec.ofNat 64 (ofLe ((m.drop (8 * i)).take 8)) else a.getD i 0
    sha3Absorb n (m.drop 72) (keccakF a)
/-- The 64-byte digest. -/
def sha3 (m : List Byte) : List Byte :=
  let p := sha3Pad m
  ((sha3Absorb (p.length / 72) p (List.replicate 25 0)).take 8).flatMap fun w => leBytes 8 w.toNat
/-- The digest as a number whose byte 0 is the least significant. -/
def sha3Word (m : List Byte) : BitVec 512 := BitVec.ofNat 512 (ofLe (sha3 m))

end Sys2Proof.Machine
end

