-- ==== Sys2Proof/Machine/Mem.lean ====
section
/-! DEFINITION. Class MEM (R304 to R320), with SLD and SST (R259, R260) and AZLD (R303): operands, addresses, lane traps, and the
operation each issues. How its lanes are then performed stands in Home, Perform and Landing. -/

namespace Sys2Proof.Machine

/-! ### Fields -/

/-- The fields of a MEM word. -/
structure MFields where
  ty : Nat
  a : Nat
  d : Nat
  imm : Nat
  hint : Nat
  ord : Nat
  scope : Nat
  sb : Nat
  scl : Nat
  b : Nat
  cc : Nat
  deriving DecidableEq, Repr

def ofMem (o : MemOps) : MFields :=
  { ty := o.ty.toNat, a := o.a.toNat, d := o.d.toNat, imm := o.imm.toNat, hint := o.hint.toNat, ord := o.ord.toNat,
    scope := o.scope.toNat, sb := o.sb.toNat, scl := o.scl.toNat, b := o.b.toNat, cc := o.cc.toNat }

/-- Bytes per lane and registers of an access type (Table 10-15). -/
def tySize (ty : Nat) : Nat := [1, 1, 2, 2, 4, 8, 16, 32].getD ty 4
def tyRegs (ty : Nat) : Nat := [1, 1, 1, 1, 1, 2, 4, 8].getD ty 1

/-- SCOPE and ORD against R147. -/
def scopeOrdBad (scope ord : Nat) : Bool := decide (5 < scope) || (decide (ord ≠ 0) && decide (scope = 0))

def isAcq (ord : Nat) : Bool := decide (ord = 1) || decide (ord = 3)
def isRel (ord : Nat) : Bool := decide (ord = 2) || decide (ord = 3)

/-- Atomic operation codes (Table 13-3). -/
def atomCodeOk (c : Nat) : Bool :=
  decide (c < 13) || (decide (16 ≤ c) && decide (c ≤ 20)) || (decide (24 ≤ c) && decide (c ≤ 29)) || (decide (32 ≤ c) && decide (c ≤ 37))
/-- Operand bytes of an atomic code. -/
def atomSize (c : Nat) : Nat := if c ∈ [2, 3, 5, 10, 11, 18, 19, 25, 27, 29, 33, 35] then 8 else 4
/-- Two-wide codes and compare-and-swap codes. -/
def atomTwoWide (c : Nat) : Bool := decide (c = 6) || decide (c = 7)
def atomCas (c : Nat) : Bool := decide (c = 34) || decide (c = 35)
/-- Codes that exist in the host window (R111). -/
def atomHost (c : Nat) : Bool := decide (c < 4) || (decide (32 ≤ c) && decide (c ≤ 35))

/-! ### Addresses (R304) -/

/-- B as an offset: an s register gives 64 bits. -/
def offB (f : Flight) (b l : Nat) : Nat := match okind b with | .s n => (f.rdS n).toNat | _ => rdLane f b 1 l
def gaddr (x : MFields) (f : Flight) (l : Nat) : Nat :=
  (rdLane f x.a 2 l + offB f x.b l * 2 ^ x.scl + sext 11 64 x.imm) % 2 ^ 64
/-- Address of an atomic, of a tile: A + IMM11. -/
def gaddrA (x : MFields) (f : Flight) (l : Nat) : Nat := (rdLane f x.a 2 l + sext 11 64 x.imm) % 2 ^ 64
def laddr (x : MFields) (f : Flight) (l : Nat) : Nat :=
  (rdLane f x.a 1 l + offB f x.b l * 2 ^ x.scl + sext 11 32 x.imm) % 2 ^ 32
def laddrA (x : MFields) (f : Flight) (l : Nat) : Nat := (rdLane f x.a 1 l + sext 11 32 x.imm) % 2 ^ 32

/-! ### Global lanes (R308) -/

/-- What an access is, for its checks. -/
inductive AccKind where
  | load
  | store
  | atomic (code : Nat)
  /-- AZLD and ZERR, which read a block; ZFLUSH and ZDROP, which need WR. -/
  | block (rd : Bool)
  /-- CLEAN and INVAL. -/
  | line
  deriving DecidableEq, Repr

inductive Spots where
  | ok (l : List Access)
  | bad (v : Verdict)

/-- Failing lanes of one trap code as its frame: (lane, address, cause, level), lowest lane first. -/
def laneTrap (code : Nat) (uni : Bool) (l : List (Nat × Nat × Nat × Nat)) : Option TrapInfo :=
  match l with
  | [] => none
  | (_, va, c, lv) :: _ => some { code, cause := c, info := lv, mask := if uni then allOnes else maskOf (l.map fun x => x.1), addr := va }

/-- Cause of trap 0x14 for a view lane (Table 02-13), 0 for none. What the table does not decide is the model's (log 90). -/
def viewCause (z : ZRegion) (k : AccKind) (size off : Nat) : Nat :=
  let es := z.esize
  let beyond (n : Nat) : Bool := decide (z.elemCount * es < off + n)
  match k with
  | .load | .store =>
    if size ≠ es ∧ size ≠ 2 * es ∧ size ≠ 4 * es then 2 else if off % size ≠ 0 then 1 else if beyond size then 5 else 0
  | .atomic c => if size ≠ es ∨ atomTwoWide c then 3 else if off % size ≠ 0 then 1 else if beyond size then 5 else 0
  | .block _ => if beyond 1 then 5 else if off % es ≠ 0 then 1 else 0
  | .line => 0

def AccKind.need : AccKind → Need
  | .store => .wr
  | .atomic _ => .at
  | _ => .rd

/-- Whether a view lane breaks RD or WR (R28). -/
def AccKind.viewDenied (k : AccKind) (z : ZRegion) : Bool :=
  match k with
  | .load => !z.rd
  | .store => !z.wr
  | .atomic _ => !z.wr
  | .block rd => if rd then !z.rd else !z.wr
  | .line => false

/-- The lanes' accesses, or the first trap of R308 in its order, or a wait for walks or a retirement. `uni` is a uniform instruction's
access; `align` is 1 where no alignment is asked. -/
def resolveGlobal (s : State) (f : Flight) (k : AccKind) (size align : Nat) (uni : Bool) (addrs : List (Nat × Nat)) : Spots :=
  let asid := (s.launchOf f).asid
  let vs := addrs.map fun (l, va) => (l, va, s.zrAt asid va)
  let plain := vs.filter fun x => x.2.2.isNone
  let views := vs.filterMap fun (l, va, z) => z.map fun n => (l, va, n)
  let isBlock : Bool := match k with | .block _ => true | _ => false
  match laneTrap 0x12 uni ((if isBlock then [] else plain).filterMap fun (l, va, _) => if va % align ≠ 0 then some (l, va, 0, 0) else none) with
  | some t => .bad (.trap t)
  | none =>
  if views.any fun (_, _, n) => decide ((s.zr asid n).err = 15) then .bad (.hold s) else
  let xs := (if isBlock then [] else plain).map fun (l, va, _) => (l, va, s.xlate f asid k.need va)
  let miss := xs.filterMap fun (_, va, r) => match r with | .miss => some (va / 2 ^ 16) | _ => none
  if !miss.isEmpty then .bad (.hold (s.askWalks f.id asid miss)) else
  let faults := xs.filterMap fun (l, va, r) =>
    match r with
    | .fault c lv => some (l, va, c, lv)
    | .ok pa _ =>
      match k with
      | .atomic c => if paSpace pa = some .host ∧ atomHost c = false then some (l, va, 11, s.xlLevel f asid va) else none
      | _ => none
    | .miss => none
  match laneTrap 0x10 uni (faults.filter fun x => decide (causeTrap x.2.2.1 = 0x10)) with
  | some t => .bad (.trap t)
  | none =>
  let denied := views.filterMap fun (l, va, n) => if k.viewDenied (s.zr asid n) then some (l, va, 10, 0xFF) else none
  match laneTrap 0x11 uni (sortBy Prod.fst (faults ++ denied)) with
  | some t => .bad (.trap t)
  | none =>
  let isLine : Bool := match k with | .line => true | _ => false
  let devs := xs.filterMap fun (l, va, r) =>
    match r with
    | .ok pa _ => if paSpace pa = some .dev ∧ size ≠ 4 ∧ size ≠ 8 ∧ isLine = false then some (l, va, 0, 0) else none
    | _ => none
  match laneTrap 0x12 uni devs with
  | some t => .bad (.trap t)
  | none =>
  let writes : Bool := match k with | .store => true | .atomic _ => true | _ => false
  let codes := xs.filterMap fun (l, va, r) =>
    match r with
    | .ok pa _ => if writes && (List.range size).any (fun i => s.inCode (pa + i)) then some (l, va, 7, 0) else none
    | _ => none
  let vbad := views.filterMap fun (l, va, n) =>
    let z := s.zr asid n
    let c := viewCause z k size (va - z.vbase)
    if c = 0 then none else some (l, va, c, 0)
  let notView := if isBlock then plain.map fun (l, va, _) => (l, va, 6, 0) else []
  match laneTrap 0x14 uni (sortBy Prod.fst (codes ++ vbad ++ notView)) with
  | some t => .bad (.trap t)
  | none =>
  let pAcc := xs.filterMap fun (l, va, r) =>
    match r with
    | .ok pa perm => some ({ lane := l, va, space := (paSpace pa).getD .tier, pa, size, ro := !permWr perm, shift := (s.xlLeaf f asid va).2 } : Access)
    | _ => none
  let vAcc := views.map fun (l, va, n) =>
    ({ lane := l, va, space := .view asid n, pa := va - (s.zr asid n).vbase, size := if isBlock then (s.zr asid n).esize else size } : Access)
  .ok (sortBy Access.lane (pAcc ++ vAcc))

/-! ### Local lanes (R99 to R102) -/

/-- The resident workgroup of stage `stg` beside a flight's own. -/
def State.sibling (s : State) (w : Workgroup) (stg : Nat) : Option Workgroup :=
  s.wgs.find? fun x => decide (x.launch = w.launch) && decide (x.d = w.d) && decide (x.c = w.c) && decide (x.w = w.w) && decide (x.s = stg)

/-- The workgroup and offset that a local address names; none where R100 refuses it. -/
def State.local? (s : State) (f : Flight) (a size : Nat) : Option (Workgroup × Nat) :=
  let off := nbits a 0 19
  let stg := nbits a 20 3
  if nbits a 24 8 ≠ 0 ∨ a.testBit 19 then none
  else
    let w? : Option Workgroup :=
      if a.testBit 23 then (if recNstg (s.recOf f) ≤ stg then none else s.sibling (s.wgOf f) stg) else s.wg? f.wg
    match w? with
    | some w => if off + size ≤ w.size then some (w, off) else none
    | none => none

/-- The lanes' local accesses; a window access carries the target's owner tag. -/
def resolveLocal (s : State) (f : Flight) (size : Nat) (uni : Bool) (addrs : List (Nat × Nat)) : Spots :=
  let xs := addrs.map fun (l, a) => (l, a, s.local? f a size)
  match laneTrap 0x11 uni (xs.filterMap fun (l, a, r) => if r.isNone then some (l, a, 8, 0xFF) else none) with
  | some t => .bad (.trap t)
  | none =>
  match laneTrap 0x12 uni (xs.filterMap fun (l, a, _) => if a % size ≠ 0 then some (l, a, 0, 0) else none) with
  | some t => .bad (.trap t)
  | none =>
    .ok (xs.filterMap fun (l, a, r) => r.map fun (w, off) =>
      ({ lane := l, va := a, space := .loc w.id, pa := off, size, tag := if w.id = f.wg then 0 else w.tag } : Access))

def Spots.verdict : Spots → Verdict
  | .ok _ => .go
  | .bad v => v
def Spots.list : Spots → List Access
  | .ok l => l
  | .bad _ => []

/-! ### The bucket (R90 to R92) -/

def tbcfgOff (d n : Nat) : Nat := 0x100100 + 0x10000 * d + 8 * n
def tbparkOff (d k n : Nat) : Nat := 0x101000 + 0x10000 * d + 0x80 * k + 8 * n
/-- Home die of an access: of its line, of its block (R33). -/
def State.accDie (s : State) (a : Access) : Nat :=
  match a.space with
  | .view asid n =>
    let z := s.zr asid n
    s.homeDie (s.remap (z.codeAt (z.place (a.pa / z.esize)).1))
  | _ => s.homeDie a.pa
/-- Whether a bucket charges an access of a flight on core `c`. -/
def State.charged (s : State) (cfg : DWord) (core : Nat) (a : Access) : Bool :=
  match a.space with
  | .host => cfg.getLsbD 2
  | .peer _ => cfg.getLsbD 3
  | .tier => cfg.getLsbD 1 && decide (s.accDie a ≠ dieOf core)
  | .view _ _ => cfg.getLsbD 1 && decide (s.accDie a ≠ dieOf core)
  | _ => false
/-- Charge of coalesced accesses: 32-byte tokens of the bytes each line takes, or one for an atomic. -/
def State.charge (s : State) (f : Flight) (atomic : Bool) (l : List Access) : Nat :=
  let cfg := s.reg (tbcfgOff (dieOf f.core) (s.launchOf f).tenant)
  if !cfg.getLsbD 0 then 0 else
  let rem := l.filter fun a => s.charged cfg f.core a
  let key (a : Access) : Nat := match a.space with | .view asid n => viewLine asid n a.pa | _ => lineOf a.pa
  let bytes (k : Nat) : List Nat := dedup ((rem.filter fun a => decide (key a = k)).flatMap fun a => (List.range a.size).map (a.pa + ·))
  ((dedup (rem.map key)).map fun k => if atomic then 1 else ((bytes k).length + 31) / 32).sum

def bucketKey (s : State) (f : Flight) : Nat := 16 * f.core + (s.launchOf f).tenant
def State.bucket (s : State) (k : Nat) : Int := mget 0 s.sched.buckets k
/-- A charged instruction that meets a count below 1 parks (R92), as does one of the residual queue, though its flight then stays in the active set (R196). -/
def bucketRoom (f : Flight) (charge : Nat) (s : State) : Verdict :=
  if charge = 0 ∨ 1 ≤ s.bucket (bucketKey s f) then .go
  else if (match f.waiting 8 with | some w => !w.woken | none => false) then .hold s
  else
    let off := tbparkOff (dieOf f.core) (f.core % 16) (s.launchOf f).tenant
    let s := s.setReg off (BitVec.ofNat 64 (min ((s.reg off).toNat + 1) (2 ^ 32 - 1)))
    let s := s.updFlight f.id fun x => { x with wait := none }.park { kind := 8 } s.clock
    .hold { s with sched := { s.sched with parked := s.sched.parked.filter (· ≠ f.id) ++ [f.id] } }
def State.spend (s : State) (f : Flight) (charge : Nat) : State :=
  if charge = 0 then s else { s with sched := { s.sched with buckets := mset 0 s.sched.buckets (bucketKey s f) (s.bucket (bucketKey s f) - charge) } }

/-! ### What the MEM descriptions share -/

/-- Tokens fall at once for an instruction with no access; else the operation joins the outstanding ones. -/
def startOp (c : Ctx) (sb : Nat) (atomic : Bool) (acc : List Access) (mk : Nat → Op) (s : State) : State :=
  if acc.isEmpty then s.updFlight c.f.id fun f => f.subToken sb
  else (s.spend c.f (s.charge c.f atomic acc)).addOp c.f.id fun id => { mk id with seq := c.seq, pc := c.pc, acc, sb := some sb }

/-- Operands A and B of a global or a local address. -/
def memA (x : MFields) (loc : Bool) : Opnd :=
  { pos := 1, spec := x.a, use := .src, kinds := [.s, .z, .v], regs := if loc then 1 else 2, align := if loc then 1 else 2 }
def memB (x : MFields) : Opnd := { pos := 2, spec := x.b, use := .src, kinds := [.v, .vx, .l, .s, .z] }

/-- 4-byte granules of accesses by address (R192); local ones stand apart. -/
def granules (base size : Nat) (addrs : List (Nat × Nat)) : List Nat :=
  dedup (addrs.flatMap fun (_, a) => (List.range ((a + size - 1) / 4 - a / 4 + 1)).map fun i => base + a / 4 + i)

/-- The plain description of a MEM instruction: its accesses give the lane traps and the bucket's charge. -/
def memDesc (x : MFields) (os : List Opnd) (k : MemKind) (atomic : Bool) (spots : Ctx → State → Spots) : Desc :=
  { cls := 3, cc := x.cc, sb := some x.sb, opnds := os, dkind := .mem k
    scopeBad := scopeOrdBad x.scope x.ord
    pre := fun c s => (spots c s).verdict
    room := fun c s => bucketRoom c.f (s.charge c.f atomic (spots c s).list) s }

/-! ### LD, ST, LDL, STL, LAND (R310, R311, R315) -/

def lsAddrs (x : MFields) (loc : Bool) (f : Flight) : List (Nat × Nat) :=
  (lanesOf f.exm).map fun l => (l, if loc then laddr x f l else gaddr x f l)
def lsSpots (x : MFields) (loc : Bool) (k : AccKind) (c : Ctx) (s : State) : Spots :=
  if loc then resolveLocal s c.f (tySize x.ty) false (lsAddrs x loc c.f)
  else resolveGlobal s c.f k (tySize x.ty) (tySize x.ty) false (lsAddrs x loc c.f)
def lsGran (x : MFields) (loc : Bool) (c : Ctx) (_ : State) : List Nat :=
  granules (if loc then 2 ^ 64 else 0) (tySize x.ty) (lsAddrs x loc c.f)

/-- Fields of which an entry is undefined are trap 0x01, but a SCOPE or ORD that R147 refuses is trap 0x02 (R237). -/
def ordBad (x : MFields) (ok : List Nat) : Bool := decide (x.ord ∉ ok) && !scopeOrdBad x.scope x.ord

def loadDesc (x : MFields) (loc land : Bool) : Desc :=
  let n := tyRegs x.ty
  { memDesc x
      ([{ pos := 0, spec := x.d, use := .dst, kinds := [.v, .z] ++ (if x.ty ≤ 4 then [.vx] else []), regs := n, align := n },
        memA x loc, memB x]) .load false (lsSpots x loc .load) with
    encBad := decide (7 < x.ty) || ordBad x (if land then [0] else [0, 1]) || ((loc || land) && decide (x.hint ≠ 0))
    shadowed := true
    acq := isAcq x.ord
    land
    gran := lsGran x loc
    eff := fun c s =>
      let acc := (lsSpots x loc .load c s).list.map fun a => { a with reg := regAt c.f x.d n a.lane }
      let dest : Opnd := { pos := 0, spec := x.d, use := .dst, kinds := [.v, .z, .vx], regs := n }
      let s := if land then s.updFlight c.f.id fun f => (sortBy id (dest.vregs c.f 0)).foldl Flight.giveSlot f else s
      startOp c x.sb false acc (fun id =>
        { id, seq := 0, pc := 0, kind := .load, dests := dest.destList c.f 0, code := x.ty, ord := x.ord, scope := x.scope,
          hint := x.hint, toZero := decide (okind x.d = .zero), land }) s }

def descLd (x : MFields) : Desc := loadDesc x false false
def descLdl (x : MFields) : Desc := loadDesc x true false

def storeDesc (x : MFields) (loc : Bool) : Desc :=
  let n := tyRegs x.ty
  let data (f : Flight) (l : Nat) : Nat := rdLane f x.d n l % 2 ^ (8 * tySize x.ty)
  { memDesc x
      ([{ pos := 0, spec := x.d, use := .src, kinds := [.v, .z] ++ (if x.ty ≤ 4 then [.vx] else []) ++ (if x.ty ≤ 5 then [.s] else []), regs := n, align := n },
        memA x loc, memB x]) .store false (lsSpots x loc .store) with
    encBad := decide (7 < x.ty) || ordBad x [0, 2] || (loc && decide (x.hint ≠ 0))
    dkind := if x.ord = 2 then .empty else .mem .store
    region := decide (x.ord = 2)
    gran := lsGran x loc
    ext := some fun c _ => (lsAddrs x loc c.f).map fun (l, a) => (l, a, data c.f l)
    eff := fun c s =>
      let acc := (lsSpots x loc .store c s).list.map fun a => { a with data := data c.f a.lane }
      let s := if x.ord = 2 then s.updFlight c.f.id Flight.endRegion else s
      startOp c x.sb false acc (fun id =>
        { id, seq := 0, pc := 0, kind := .store, code := x.ty, ord := x.ord, scope := x.scope, hint := x.hint }) s }

def descSt (x : MFields) : Desc := storeDesc x false
def descStl (x : MFields) : Desc := storeDesc x true

/-- The register form of LAND: slots for n registers, values unchanged (R315). -/
def landReg (x : MFields) : Desc :=
  { cls := 3, cc := x.cc, sb := some x.sb, dkind := .mem .load
    encBad := !unused x.a || !unused x.b || decide (x.scl ≠ 0) || decide (x.hint ≠ 0) || ordBad x [0]
    scopeBad := scopeOrdBad x.scope x.ord || decide (x.imm = 0) || decide (64 < x.imm)
    perLane := false
    takes := fun f => f.exm
    opnds := [{ pos := 0, spec := x.d, use := .src, kinds := [.v], regs := if 64 < x.imm then 1 else x.imm, multi := true }]
    eff := fun c s => s.updFlight c.f.id fun f =>
      (((List.range x.imm).map fun i => regAt f x.d 1 0 + i).foldl Flight.giveSlot f).subToken x.sb }

def descLand (x : MFields) : Desc := if x.ty = 15 then landReg x else loadDesc x false true

/-! ### ATOM, ATOML (R312, R313) -/

def atomDesc (x : MFields) (loc : Bool) : Desc :=
  let code := 4 * x.ty + x.scl
  let size := atomSize code
  let n := size / 4
  let ret := decide (okind x.d ≠ .zero)
  let addrs (f : Flight) : List (Nat × Nat) := (lanesOf f.exm).map fun l => (l, if loc then laddrA x f l else gaddrA x f l)
  let spots (c : Ctx) (s : State) : Spots :=
    if loc then resolveLocal s c.f size false (addrs c.f) else resolveGlobal s c.f (.atomic code) size size false (addrs c.f)
  let data (f : Flight) (l : Nat) : Nat := rdLane f x.b (if atomCas code then 2 * n else n) l
  let bo : Opnd :=
    if atomCas code then { pos := 2, spec := x.b, use := .src, kinds := [.v], regs := 2 * n, align := 2 * n }
    else { pos := 2, spec := x.b, use := .src, kinds := [.v, .s, .z] ++ (if n = 1 then [.vx] else []), regs := n, align := n }
  let dest : Opnd := { pos := 0, spec := x.d, use := .dst, kinds := [.v, .z], regs := n, align := n }
  { memDesc x [dest, memA x loc, bo] .atomic true spots with
    encBad := !atomCodeOk code || decide (x.hint ≠ 0)
    dkind := if ret || isRel x.ord then .empty else .mem .atomic
    region := ret
    shadowed := ret
    acq := isAcq x.ord
    data := [0, 2]
    gran := fun c _ => granules (if loc then 2 ^ 64 else 0) size (addrs c.f)
    ext := some fun c _ => (addrs c.f).map fun (l, a) => (l, a, data c.f l)
    eff := fun c s =>
      let acc := (spots c s).list.map fun a =>
        { a with data := data c.f a.lane % 2 ^ (8 * size), data2 := data c.f a.lane / 2 ^ (8 * size), reg := regAt c.f x.d n a.lane }
      let s := if ret then s.updFlight c.f.id Flight.endRegion else s
      startOp c x.sb true acc (fun id =>
        { id, seq := 0, pc := 0, kind := .atomic, dests := dest.destList c.f 0, code, ord := x.ord, scope := x.scope, toZero := !ret }) s }

def descAtom (x : MFields) : Desc := atomDesc x false
def descAtoml (x : MFields) : Desc := atomDesc x true

/-! ### PREF (R314) -/

/-- Hint drops of a launch are counted in HDROPq (R442). -/
def hdropOff (q : Nat) : Nat := 0x20000 + 64 * q + 40
def State.dropHint (s : State) (f : Flight) (n : Nat) : State :=
  if n = 0 then s else let o := hdropOff (s.launchOf f).queue; s.setReg o (BitVec.ofNat 64 (min ((s.reg o).toNat + n) (2 ^ 32 - 1)))

/-- Lanes of a prefetch that survive, with the number dropped; or the frames whose walks are missing, none while a retiring view holds it (R27). -/
def prefSpots (s : State) (f : Flight) (addrs : List (Nat × Nat)) : Except (List Nat) (List Access × Nat) :=
  let asid := (s.launchOf f).asid
  let xs := addrs.map fun (l, va) =>
    match s.zrAt asid va with
    | some n => (l, va, (Sum.inr n : Sum Xl Nat))
    | none => (l, va, .inl (s.xlate f asid .rd va))
  if xs.any fun (_, _, r) => match r with | .inr n => decide ((s.zr asid n).err = 15) | _ => false then .error [] else
  let miss := xs.filterMap fun (_, va, r) => match r with | .inl .miss => some (va / 2 ^ 16) | _ => none
  if !miss.isEmpty then .error miss else
  let acc := xs.filterMap fun (l, va, r) =>
    match r with
    | .inl (.ok pa perm) => some ({ lane := l, va, space := (paSpace pa).getD .tier, pa := pa / 128 * 128, size := 128, ro := !permWr perm, shift := (s.xlLeaf f asid va).2 } : Access)
    | .inr n =>
      let z := s.zr asid n
      let off := va - z.vbase
      if off / z.esize < z.elemCount ∧ z.rd then some { lane := l, va, space := .view asid n, pa := off / z.esize * z.esize, size := z.esize } else none
    | _ => none
  .ok (acc, addrs.length - acc.length)

def descPref (x : MFields) : Desc :=
  { cls := 3, cc := x.cc, sb := some x.sb, dkind := .mem .load
    encBad := decide (1 < x.ty) || ordBad x [0] || !unused x.d
    scopeBad := scopeOrdBad x.scope x.ord
    opnds := [memA x false, memB x]
    gran := fun c _ => granules 0 1 (lsAddrs x false c.f)
    pre := fun c s =>
      if c.f.isShadow then .go else
      match prefSpots s c.f (lsAddrs x false c.f) with
      | .error [] => .hold s
      | .error fr => .hold (s.askWalks c.f.id (s.launchOf c.f).asid fr)
      | .ok _ => .go
    room := fun c s =>
      if c.f.isShadow then .go else
      match prefSpots s c.f (lsAddrs x false c.f) with
      | .error _ => .go
      | .ok (acc, _) => bucketRoom c.f (s.charge c.f false acc) s
    eff := fun c s =>
      match if c.f.isShadow then .ok ([], 0) else prefSpots s c.f (lsAddrs x false c.f) with
      | .error _ => s.updFlight c.f.id fun f => f.subToken x.sb
      | .ok (acc, n) =>
        startOp c x.sb false acc (fun id => { id, seq := 0, pc := 0, kind := .pref, code := x.ty, hint := x.hint }) (s.dropHint c.f n) }

/-! ### TLD, TST (R317, R318) -/

def shapeV (w : Word) : Bool := w.getLsbD 31
def shapeRows (w : Word) : Nat := fld w 0 6
def shapeCols (w : Word) : Nat := fld w 8 8
def shapeEw (w : Word) : Nat := fld w 21 3
def shapeSbnd (w : Word) : Nat := fld w 24 2
/-- Element width in bits. -/
def shapeBits (w : Word) : Nat := 4 * 2 ^ shapeEw w
/-- Tile number of a specifier. -/
def tNum (spec : Nat) : Nat := match okind spec with | .t n => n | _ => 0
def scaleGroups (w : Word) : Nat := if shapeSbnd w = 1 then shapeCols w / 32 else if shapeSbnd w = 2 then shapeCols w / 16 else 0

/-- Pieces that a tile operation moves: address of the byte, bit in it, bit of the tile, and bits. -/
def tilePieces (side : Bool) (scl0 : Nat) (w : Word) (base pitch : Nat) : List (Nat × Nat × Nat × Nat) :=
  let rows := List.range (shapeRows w)
  if side then
    rows.flatMap fun i => (List.range (scaleGroups w)).map fun k => ((base + i * pitch + k) % 2 ^ 64, 0, 8 * (1536 + 3 * i + k), 8)
  else if shapeEw w = 0 then
    rows.flatMap fun i => (List.range (shapeCols w)).map fun j =>
      /- Nibbles are numbered modulo 2^65, and a pitch of 2^63 or more lies below zero (log 88). -/
      let n : Nat := (Int.ofNat (2 * base + scl0 + j) + Int.ofNat i * (BitVec.ofNat 64 pitch).toInt).emod (2 ^ 65) |>.toNat
      (n / 2, 4 * (n % 2), 384 * i + 4 * j, 4)
  else
    rows.flatMap fun i => (List.range (shapeCols w * shapeBits w / 8)).map fun k => ((base + i * pitch + k) % 2 ^ 64, 0, 384 * i + 8 * k, 8)

/-- The lines of a footprint as accesses, or the first trap of R308 and R160. -/
def resolveTile (s : State) (f : Flight) (store : Bool) (base : Nat) (lines : List Nat) : Spots :=
  let asid := (s.launchOf f).asid
  let vs := lines.map fun va => (va, s.zrAt asid va)
  if vs.any fun (_, z) => match z with | some n => decide ((s.zr asid n).err = 15) | none => false then .bad (.hold s) else
  let xs := vs.filterMap fun (va, z) => if z.isNone then some (va, s.xlate f asid (if store then .wr else .rd) va) else none
  let miss := xs.filterMap fun (va, r) => match r with | .miss => some (va / 2 ^ 16) | _ => none
  if !miss.isEmpty then .bad (.hold (s.askWalks f.id asid miss)) else
  let faults := xs.filterMap fun (va, r) => match r with | .fault c lv => some (0, va, c, lv) | _ => none
  match (laneTrap 0x10 true (faults.filter fun x => decide (causeTrap x.2.2.1 = 0x10))).or (laneTrap 0x11 true faults) with
  | some t => .bad (.trap t)
  | none =>
  let oks := xs.filterMap fun (va, r) => match r with | .ok pa perm => some (va, pa, perm) | _ => none
  match laneTrap 0x12 true (oks.filterMap fun (va, pa, _) => if paSpace pa = some .dev then some (0, va, 0, 0) else none) with
  | some t => .bad (.trap t)
  | none =>
  let views := vs.filterMap fun (va, z) => if z.isSome then some (0, va, 4, 0) else none
  let codes := oks.filterMap fun (va, pa, _) => if store && (List.range 128).any (fun i => s.inCode (pa + i)) then some (0, va, 7, 0) else none
  match laneTrap 0x14 true (sortBy (fun x => x.2.1) (views ++ codes)) with
  | some t => .bad (.trap t)
  | none =>
  let n := (dedup (oks.map fun x => lineOf x.2.1)).length
  if 64 < n then .bad (.trap { code := 0x13, info := min n 255, mask := allOnes, addr := base }) else
  match laneTrap 0x11 true (oks.filterMap fun (va, pa, _) =>
      match paSpace pa with
      | some .tier => none
      | _ => some (0, va, 11, s.xlLevel f asid va)) with
  | some t => .bad (.trap t)
  | none => .ok (oks.map fun (va, pa, perm) => { va, space := .tier, pa, size := 128, ro := !permWr perm, shift := (s.xlLeaf f asid va).2 })

def tileDesc (x : MFields) (store : Bool) : Desc :=
  let t := tNum x.d
  let side := decide (x.ty = 1)
  let sh (f : Flight) : Word := f.shape t
  let base (f : Flight) : Nat := gaddrA x f 0
  let pitch (f : Flight) : Nat := (rdUni f x.b).toNat
  let pieces (f : Flight) := tilePieces side (x.scl % 2) (sh f) (base f) (pitch f)
  let lines (f : Flight) : List Nat := sortBy id (dedup ((pieces f).map fun p => p.1 / 128 * 128))
  let spots (c : Ctx) (s : State) : Spots :=
    let w := shapeBits (sh c.f) / 8
    if !side && decide (1 ≤ shapeEw (sh c.f)) && (decide (base c.f % w ≠ 0) || decide (pitch c.f % w ≠ 0)) then
      .bad (.trap { code := 0x12, mask := allOnes, addr := base c.f })
    else resolveTile s c.f store (base c.f) (lines c.f)
  /- The charge takes the bytes of each line (R91). -/
  let sized (c : Ctx) (l : List Access) : List Access :=
    l.flatMap fun a => ((pieces c.f).filter fun p => decide (p.1 / 128 * 128 = a.va)).map fun p => { a with pa := a.pa + p.1 % 128, size := 1 }
  { memDesc x
      [{ pos := 0, spec := x.d, use := if store then .src else .dst, kinds := [.t] },
       { pos := 1, spec := x.a, use := .src, kinds := [.s, .z] }, { pos := 2, spec := x.b, use := .src, kinds := [.s, .z] }]
      (if store then .store else .load) false spots with
    perLane := false
    collective := true
    tiled := true
    encBad := decide (1 < x.ty) || decide (2 ≤ x.scl) || (side && decide (x.scl = 1)) || decide (x.hint ≠ 0) || ordBad x (if store then [0, 2] else [0, 1])
    chk02 := fun c _ =>
      if !shapeV (sh c.f) || (side && decide (shapeSbnd (sh c.f) = 0)) || (decide (x.scl % 2 = 1) && decide (shapeEw (sh c.f) ≠ 0)) then
        some (0, allOnes, x.d) else none
    dkind := if store && decide (x.ord = 2) then .empty else .mem (if store then .store else .load)
    region := store && decide (x.ord = 2)
    shadowed := !store
    acq := !store && isAcq x.ord
    ext := if store then some fun c _ => [(0, base c.f, ofLe ((List.range 1632).map fun b => c.f.rdTile t b)), (1, pitch c.f, 0)] else none
    gran := fun c _ => dedup ((pieces c.f).map fun p => p.1 / 4)
    room := fun c s => bucketRoom c.f (s.charge c.f false (sized c (spots c s).list)) s
    eff := fun c s =>
      let acc := (spots c s).list
      let s := if store && decide (x.ord = 2) then s.updFlight c.f.id Flight.endRegion else s
      let s := s.spend c.f (s.charge c.f false (sized c acc))
      s.addOp c.f.id fun id =>
        { id, seq := c.seq, pc := c.pc, kind := if store then .tileStore else .tileLoad, acc, sb := some x.sb
          dests := if store then [] else [.tile t], reads := if store then [.tile t] else []
          writes := if store then ((mslice c.f.tiles (1632 * t) 1632).map fun p => ⟨.tile t, 1632 * t + p.1, p.2.toNat⟩) else []
          code := 2 * x.ty + x.scl % 2, ord := x.ord, scope := x.scope, num := t, sym := (sh c.f).toNat
          accBase := base c.f, batch := pitch c.f } }

def descTld (x : MFields) : Desc := tileDesc x false
def descTst (x : MFields) : Desc := tileDesc x true

/-! ### ZFLUSH, ZDROP, ZERR (R319) -/

def blockSpots (x : MFields) (rd : Bool) (c : Ctx) (s : State) : Spots := resolveGlobal s c.f (.block rd) 4 1 false (lsAddrs x false c.f)

/-- Lanes that name one block act on it once, when all of them may (`flushMates`). -/
def blockDesc (x : MFields) (kind : OpKind) : Desc :=
  { memDesc x [memA x false, memB x] .store false (blockSpots x false) with
    encBad := decide (x.ty ≠ 0) || decide (x.hint ≠ 0) || ordBad x [0] || !unused x.d
    gran := fun c _ => granules 0 8 (lsAddrs x false c.f)
    ext := some fun c _ => (lsAddrs x false c.f).map fun (l, a) => (l, a, 0)
    room := fun _ _ => .go
    eff := fun c s =>
      let acc := (blockSpots x false c s).list
      if acc.isEmpty then s.updFlight c.f.id fun f => f.subToken x.sb
      else s.addOp c.f.id fun id => { id, seq := c.seq, pc := c.pc, kind, acc, sb := some x.sb } }

def descZflush (x : MFields) : Desc := blockDesc x .zflush
def descZdrop (x : MFields) : Desc := blockDesc x .zdrop
def descZerr (x : MFields) : Desc :=
  let dest : Opnd := { pos := 0, spec := x.d, use := .dst, kinds := [.v] }
  { memDesc x [dest, memA x false, memB x] .load false (blockSpots x true) with
    encBad := decide (x.ty ≠ 0) || decide (x.hint ≠ 0) || ordBad x [0]
    shadowed := true
    gran := fun c _ => granules 0 8 (lsAddrs x false c.f)
    eff := fun c s =>
      startOp c x.sb false ((blockSpots x true c s).list.map fun a => { a with reg := regAt c.f x.d 1 a.lane })
        (fun id => { id, seq := 0, pc := 0, kind := .zerr, dests := dest.destList c.f 0 }) s }

/-! ### CLEAN, INVAL (R320) -/

def lineDesc (x : MFields) (kind : OpKind) : Desc :=
  let spots (c : Ctx) (s : State) : Spots := resolveGlobal s c.f .line 1 1 false (lsAddrs x false c.f)
  { memDesc x [memA x false, memB x] .store false spots with
    encBad := decide (x.ty ≠ 0) || decide (x.hint ≠ 0) || ordBad x [0] || !unused x.d
    scopeBad := scopeOrdBad x.scope x.ord || decide (x.scope = 0)
    /- CLEAN holds no later instruction (R320). -/
    gran := fun c _ => if kind = .clean then [] else dedup ((lsAddrs x false c.f).flatMap fun (_, a) => (List.range 32).map fun i => a / 128 * 32 + i)
    ext := some fun c _ => (lsAddrs x false c.f).map fun (l, a) => (l, a, 0)
    room := fun _ _ => .go
    eff := fun c s =>
      let acc := (spots c s).list
      if acc.isEmpty then s.updFlight c.f.id fun f => f.subToken x.sb
      else s.addOp c.f.id fun id => { id, seq := c.seq, pc := c.pc, kind, acc, sb := some x.sb, scope := x.scope } }

def descClean (x : MFields) : Desc := lineDesc x .clean
def descInval (x : MFields) : Desc := lineDesc x .inval

/-! ### SLD, SST (R259, R260) -/

/-- Bytes by MOD[1:0]; LI has 8. -/
def sSize (x : Fields) : Nat := if x.li then 8 else if x.mod % 4 = 0 then 8 else 4
def sAddr (x : Fields) (f : Flight) : Nat :=
  if x.li then ((rdUni f x.a).toNat + (x.b.uni f).toNat) % 2 ^ 64
  else ((rdUni f x.a).toNat + (x.b.uni f).toNat * 2 ^ (x.mod / 4 % 4) + (rdUni f x.c).toNat) % 2 ^ 64
def sSpots (x : Fields) (k : AccKind) (c : Ctx) (s : State) : Spots :=
  resolveGlobal s c.f k (sSize x) (sSize x) true [(0, sAddr x c.f)]
def sMem (x : Fields) (store : Bool) (d : Opnd) : Desc :=
  { cls := 0, st := x.st, cc := x.cc, perLane := false, dkind := .mem (if store then .store else .load)
    encBad := badFields x true true (decide (x.mod < 16) && decide (x.mod % 4 < if store then 2 else 3)) false false || (x.li && !unused x.c)
    opnds := [d, opA x [.s, .z]] ++ opB x [.s, .z] ++ (if x.li then [] else [opC x [.s, .z]])
    gran := fun c _ => granules 0 (sSize x) [(0, sAddr x c.f)]
    pre := fun c s => (sSpots x (if store then .store else .load) c s).verdict
    room := fun c s => bucketRoom c.f (s.charge c.f false (sSpots x (if store then .store else .load) c s).list) s }

def descSld (x : Fields) : Desc :=
  let d : Opnd := opD x .dst scDst
  { sMem x false d with
    shadowed := true
    eff := fun c s =>
      let acc := (sSpots x .load c s).list.map fun a => { a with reg := match okind x.d with | .s n => n | _ => 0 }
      (s.spend c.f (s.charge c.f false acc)).addOp c.f.id fun id =>
        { id, seq := c.seq, pc := c.pc, kind := .load, acc, dests := d.destList c.f 0, toZero := decide (okind x.d = .zero)
          code := if x.li then 16 else 16 + x.mod % 4 } }

def descSst (x : Fields) : Desc :=
  let data (f : Flight) : Nat := (rdUni f x.d).toNat % 2 ^ (8 * sSize x)
  { sMem x true (opD x .src scSrc) with
    ext := some fun c _ => [(0, sAddr x c.f, data c.f)]
    eff := fun c s =>
      let acc := (sSpots x .store c s).list.map fun a => { a with data := data c.f }
      (s.spend c.f (s.charge c.f false acc)).addOp c.f.id fun id => { id, seq := c.seq, pc := c.pc, kind := .store, acc, code := 4 } }

/-! ### AZLD (R303) -/

def descAzld (x : Fields) : Desc :=
  let addrs (f : Flight) : List (Nat × Nat) := (lanesOf f.exm).map fun l => (l, ((rdUni f x.a).toNat + x.b.lane f 1 l) % 2 ^ 64)
  let spots (c : Ctx) (s : State) : Spots := resolveGlobal s c.f (.block true) 4 1 false (addrs c.f)
  { cls := 5, st := x.st, cc := x.cc, mints := true, dkind := .mem .load, shadowed := true
    encBad := affBad x false 1 true true false
    opnds := [opAff 0 x.d .dst, opA x [.s]] ++ opB x [.v]
    gran := fun c s => dedup ((addrs c.f).flatMap fun a =>
      granules 0 (match s.zrAt (s.launchOf c.f).asid a.2 with | some n => (s.zr (s.launchOf c.f).asid n).esize | none => 4) [a])
    pre := fun c s => (spots c s).verdict
    room := fun c s => bucketRoom c.f (s.charge c.f false (spots c s).list) s
    eff := fun c s =>
      let acc := (spots c s).list.map fun a => { a with reg := affBase (s.afb c.f) (aNum x.d) }
      if acc.isEmpty then s else
      (s.spend c.f (s.charge c.f false acc)).addOp c.f.id fun id =>
        { id, seq := c.seq, pc := c.pc, kind := .azld, acc, sym := c.sym
          dests := (List.range 16).map fun i => .v (affBase (s.afb c.f) (aNum x.d) + i) } }

/-! ### Meanings -/

/-- SLD (R259). -/
def execSld (o : LongOps) (s : State) : Host.Outcome State Fault Refusal := issue (descSld (ofLong o)) s
/-- SST (R259). -/
def execSst (o : LongOps) (s : State) : Host.Outcome State Fault Refusal := issue (descSst (ofLong o)) s
/-- AZLD (R303). -/
def execAzld (o : LongOps) (s : State) : Host.Outcome State Fault Refusal := issue (descAzld (ofLong o)) s
/-- LD (R310). -/
def execLd (o : MemOps) (s : State) : Host.Outcome State Fault Refusal := issue (descLd (ofMem o)) s
/-- ST (R310). -/
def execSt (o : MemOps) (s : State) : Host.Outcome State Fault Refusal := issue (descSt (ofMem o)) s
/-- LDL (R311). -/
def execLdl (o : MemOps) (s : State) : Host.Outcome State Fault Refusal := issue (descLdl (ofMem o)) s
/-- STL (R311). -/
def execStl (o : MemOps) (s : State) : Host.Outcome State Fault Refusal := issue (descStl (ofMem o)) s
/-- ATOM (R312). -/
def execAtom (o : MemOps) (s : State) : Host.Outcome State Fault Refusal := issue (descAtom (ofMem o)) s
/-- ATOML (R312). -/
def execAtoml (o : MemOps) (s : State) : Host.Outcome State Fault Refusal := issue (descAtoml (ofMem o)) s
/-- PREF (R314). -/
def execPref (o : MemOps) (s : State) : Host.Outcome State Fault Refusal := issue (descPref (ofMem o)) s
/-- LAND (R315). -/
def execLand (o : MemOps) (s : State) : Host.Outcome State Fault Refusal := issue (descLand (ofMem o)) s
/-- TLD (R317). -/
def execTld (o : MemOps) (s : State) : Host.Outcome State Fault Refusal := issue (descTld (ofMem o)) s
/-- TST (R317). -/
def execTst (o : MemOps) (s : State) : Host.Outcome State Fault Refusal := issue (descTst (ofMem o)) s
/-- ZFLUSH (R319). -/
def execZflush (o : MemOps) (s : State) : Host.Outcome State Fault Refusal := issue (descZflush (ofMem o)) s
/-- ZDROP (R319). -/
def execZdrop (o : MemOps) (s : State) : Host.Outcome State Fault Refusal := issue (descZdrop (ofMem o)) s
/-- ZERR (R319). -/
def execZerr (o : MemOps) (s : State) : Host.Outcome State Fault Refusal := issue (descZerr (ofMem o)) s
/-- CLEAN (R320). -/
def execClean (o : MemOps) (s : State) : Host.Outcome State Fault Refusal := issue (descClean (ofMem o)) s
/-- INVAL (R320). -/
def execInval (o : MemOps) (s : State) : Host.Outcome State Fault Refusal := issue (descInval (ofMem o)) s

end Sys2Proof.Machine
end

