-- ==== Sys2Proof/Machine/Sync.lean ====
section
/-! DEFINITION. Class SYNC (R321 to R330): barriers, fences, semaphores and waits, with the operations on semaphores and local memory
that wake waiting flights (R104 to R107, R136, R137, R163 to R165). -/

namespace Sys2Proof.Machine

/-! ### Fields -/

/-- The fields of a SYNC word. -/
structure SFields where
  st : Nat
  a : Nat
  d : Nat
  resv : Nat
  id : Nat
  ord : Nat
  scope : Nat
  sb : Nat
  b : Nat
  deriving DecidableEq, Repr

def ofSync (o : SyncOps) : SFields :=
  { st := o.st.toNat, a := o.a.toNat, d := o.d.toNat, resv := o.resv1.toNat + o.resv2.toNat, id := o.id.toNat, ord := o.ord.toNat,
    scope := o.scope.toNat, sb := o.sb.toNat, b := o.b.toNat }

/-! ### Semaphores -/

/-- A register that nothing has touched. -/
def Sem.blank : Sem := ⟨0, none, [], []⟩
def Workgroup.sem (w : Workgroup) (n : Nat) : Sem := mget Sem.blank w.sems n
/-- Whether a value meets a threshold (R106). -/
def semMet (v : Word) (t : Nat) : Bool := decide (0 ≤ sgn 32 ((v.toNat + 2 ^ 32 - t % 2 ^ 32) % 2 ^ 32))

/-- Waiters of a semaphore whose condition now holds wake, with what the wait acquires (R107, R164); an evicted flight's wait is evaluated when it
returns (R396). -/
def wakeSem (w : Workgroup) (n : Nat) (f : Flight) : Flight :=
  match f.wait with
  | some x =>
    if f.isEvicted = false ∧ x.kind = 1 ∧ x.woken = false ∧ x.wg = w.id ∧ x.num = n ∧ semMet (w.sem n).val x.val then
      { f with wait := some { x with woken := true, before := (w.sem n).before, mark := (w.sem n).mark } }
    else f
  | none => f

/-- One operation of the unit on a semaphore register (R106). -/
def State.semStep (s : State) (wg n : Nat) (g : Sem → Sem) : State :=
  match s.wg? wg with
  | none => s
  | some w =>
    let w := { w with sems := mset Sem.blank w.sems n (g (w.sem n)) }
    let s := s.setWg w
    { s with flights := s.flights.map (wakeSem w n) }

/-- The workgroup and number of a semaphore reference (Table 05-4, R105). -/
def State.semRef (s : State) (f : Flight) (id : Nat) : Option (Workgroup × Nat) :=
  let w? := if id.testBit 11 then (if recNstg (s.recOf f) ≤ nbits id 8 3 then none else s.sibling (s.wgOf f) (nbits id 8 3)) else s.wg? f.wg
  w?.map fun w => (w, id % 256)

/-! ### Local memory -/

/-- Word of the bitmap. -/
def Workgroup.word (w : Workgroup) (off : Nat) : Nat := cellsGet w.mem off 4

def Workgroup.writersOf (w : Workgroup) (off n : Nat) : List Nat := dedup ((List.range n).map fun i => mget 0 w.writer (off + i))
/-- What a flight acquires from the bits of a bitmap word (R164, R328): the writes that gave the word, and the Before sets of releases. -/
def State.chunkSeen (s : State) (f : Flight) (w : Workgroup) (off : Nat) : List Nat :=
  let ws := w.writersOf off 4
  ws ++ s.acquired f 1 (mget [] w.rels (lineOf off)) ws

/-- Waiters of a bitmap word whose condition now holds wake. -/
def State.wakeChunk (s : State) (w : Workgroup) (f : Flight) : Flight :=
  match f.wait with
  | some x =>
    if f.isEvicted = false ∧ x.kind = 2 ∧ x.woken = false ∧ x.wg = w.id ∧ w.word x.num &&& x.val = x.val then
      { f with wait := some { x with woken := true, before := s.chunkSeen f w x.num } }
    else f
  | none => f

/-- The last word of the control block (Table 06-1). -/
def Workgroup.putErrs (w : Workgroup) (r : List DWord) : Workgroup :=
  { w with mem := cellsPut w.mem (recCnotify r + 12) (leBytes 4 (w.errs + if w.over r then 256 else 0)) }

/-- The engine watches a write of `n` bytes (R116): what the ring's bytes held is kept, and a store to PUB covers entries, as they stand when it
is a release. -/
def Workgroup.watch (w : Workgroup) (r : List DWord) (old : List Host.Cell) (off n : Nat) (rel : Bool) : Workgroup :=
  if recCrlen r = 0 then w else
  let inRing := (List.range n).filter fun i => decide (recCring r ≤ off + i) && decide (off + i < recCring r + 32 * recCrlen r)
  let w := { w with oldRing := inRing.foldl (fun m i => cellSet m (off + i) (cellGet old (off + i))) w.oldRing }
  if off < recCnotify r + 4 ∧ recCnotify r < off + n then
    let pub := w.pub r
    /- What the workgroup's end has come to owe is kept when PUB falls, and grows when it rises (R119, log 62). -/
    let w := { w with owed := w.owed.map fun n => if recCrlen r < n then w.covered r else max n (w.covered r) }
    if w.over r then w.putErrs r
    else
      let count := (pub + 2 ^ 32 - w.pubSeen) % 2 ^ 32
      let idx := if rel ∧ count ≤ recCrlen r then (List.range count).map fun k => (w.pubSeen + k) % 2 ^ 32 else []
      let keep := w.ringSnap.filter fun e => decide (e.1 ∉ idx) && decide ((e.1 + 2 ^ 32 - w.taken) % 2 ^ 32 < max (w.covered r) (w.owed.getD 0))
      let snap := idx.map fun i => (i, (List.range 32).map fun k => cellGet w.mem (recCring r + 32 * (i % recCrlen r) + k))
      { w with ringSnap := keep ++ snap, pubSeen := pub }.putErrs r
  else w

/-- Bytes written into an allocation by write `wid`, a release or not, and the chunk waits they satisfy (R328). -/
def State.locPut (s : State) (wg off : Nat) (bytes : List Byte) (wid : Nat) (rel : Bool) : State :=
  match s.wg? wg with
  | none => s
  | some w0 =>
    let w : Workgroup := { w0 with
      mem := cellsPut w0.mem off bytes
      writer := (List.range bytes.length).foldl (fun m i => mset 0 m (off + i) wid) w0.writer
      rels := mset [] w0.rels (lineOf off) (orderPut (mget [] w0.rels (lineOf off)) wid rel) }
    let w := w.watch (((s.launch? w.launch).map Launch.recd).getD []) w0.mem off bytes.length rel
    let s := s.setWg w
    { s with flights := s.flights.map (s.wakeChunk w) }

/-! ### What the SYNC descriptions share -/

/-- Own operations on a semaphore or local bytes that come first (Table 07-4). -/
def Flight.earlierOn (f : Flight) (seq wg lo n : Nat) (sem : Bool) : Bool :=
  (f.ops.any fun o => decide (o.seq < seq) && (decide (o.kind = .semAdd) || decide (o.kind = .semSet) || decide (o.kind = .semRd)) == sem
      && o.acc.any fun a => decide (a.space = .loc wg) && decide (a.pa < lo + n) && decide (lo < a.pa + a.size)
        && (match a.phase with | .todo => true | .queued => true | _ => false))
  || (!sem && f.wq.any fun w => decide (w.acc.space = .loc wg) && decide (w.acc.pa < lo + n) && decide (lo < w.acc.pa + w.acc.size))

/-- An operation that everything later follows: a fence, an acquire whose discards are to come, a gather still reading. -/
def Op.holdsAll (o : Op) : Bool :=
  match o.kind with
  | .fence => true
  | .mgath => !o.acquired
  | .load | .atomic | .tileLoad => isAcq o.ord && !o.acquired
  | _ => false
/-- An earlier acquire or fence that every later access follows is still to be performed (Table 07-4). -/
def Flight.acquiresBefore (f : Flight) (seq : Nat) : Bool :=
  (f.ops.any fun o => decide (o.seq < seq) && o.holdsAll)
  || f.residual.any fun e => decide (e.seq < seq) && (e.acq || decide (e.mem = .fence))

def sUnused (x : SFields) (a b d : Bool) : Bool := (a && !unused x.a) || (b && !unused x.b) || (d && !unused x.d)

/-- The plain description: fields no opcode takes are trap 0x01, SCOPE and ORD of R147 trap 0x02. -/
def syncDesc (x : SFields) (scopes ords : List Nat) (sb : Bool) (bad : Bool) (os : List Opnd) : Desc :=
  let sob := decide (5 < x.scope) || (decide (x.ord ≠ 0) && decide (x.scope = 0))
  { cls := 6, st := x.st, perLane := false, opnds := os, dkind := .stop, sb := if sb then some x.sb else none
    scopeBad := sob
    encBad := decide (x.resv ≠ 0) || bad || (!sb && decide (x.sb ≠ 0))
      || (!sob && (decide (x.scope ∉ scopes) || decide (x.ord ∉ ords))) }

def sB (x : SFields) (kinds : List KTag) : Opnd := { pos := 2, spec := x.b, use := .src, kinds }
/-- Refused in a handler run (R401). -/
def notInHandler (c : Ctx) (_ : State) : Option TrapInfo :=
  if c.f.isHandler then some { code := 0x11, cause := 9, info := 0xFF, mask := allOnes } else none

/-! ### Barriers (R323, R324, R165) -/

/-- Core that holds a barrier's entry: that of the lowest-indexed workgroup of its group. -/
def State.barCore (s : State) (f : Flight) (scope : Nat) : Nat :=
  if scope = 1 then (s.wgOf f).core else
  let ws := s.wgs.filter fun w => decide (w.launch = f.launch) && decide (w.s = (s.wgOf f).s)
    && (match scope with | 2 => decide (4 * w.d + w.c = barKey s f 2) | 3 => decide (w.d = barKey s f 3) | _ => true)
  let r := s.recOf f
  ((sortBy (fun (w : Workgroup) => w.w + recNwg r * (w.c + recNcl r * w.d)) ws).head?.map Workgroup.core).getD f.core

/-- Whether every participant of a .cl barrier has become resident. -/
def State.clPlaced (s : State) (f : Flight) : Bool :=
  let r := s.recOf f
  decide (recNwg r * ((s.wgOf f).c + recNcl r * (s.wgOf f).d + 1) ≤ (s.launchOf f).nextTuple)

/-- Whether an arrival finds what it needs: the residency of a .cl barrier's participants, and an instance to join or a free entry. -/
def State.entryRoom (s : State) (f : Flight) (scope num : Nat) : Bool :=
  (decide (scope ≠ 2) || s.clPlaced f)
  && ((s.joins f scope num).isSome || decide ((s.barriers.filter fun b => decide (b.core = s.barCore f scope)).length < 1024))

/-- A flight arrives (R324). -/
def State.arrive (s : State) (f : Flight) (scope num : Nat) (count : Option Nat) : State :=
  let before := s.beforeOf f f.seq
  let s := s.updFlight f.id Flight.endRegion
  let (inst, s) : Nat × State :=
    match s.joins f scope num with
    | some b => (b.inst, { s with barriers := s.barriers.map fun x =>
        if x.inst = b.inst then { x with arrived := x.arrived ++ [f.id], before := dedup (x.before ++ before) } else x })
    | none =>
      (s.nextId, { s with nextId := s.nextId + 1, barriers := s.barriers ++
        [{ inst := s.nextId, launch := f.launch, scope, stage := (s.wgOf f).s, key := barKey s f scope, num, count,
           arrived := [f.id], before, core := s.barCore f scope }] })
  (s.updFlight f.id fun x =>
    { x with arrivals := x.arrivals.filter (fun a => !(decide (a.scope = scope) && decide (a.num = num))) ++ [⟨scope, num, inst, false, []⟩] }).completeBars

def Flight.pendingBar (f : Flight) (scope num : Nat) : Option ArrivedAt := f.arrivals.find? fun a => decide (a.scope = scope) && decide (a.num = num)

/-- What holds an arrival back: a place, an entry, the release (R150). -/
def arriveRoom (x : SFields) (c : Ctx) (s : State) : Verdict :=
  if s.entryRoom c.f x.scope (x.id % 1024) = false then
    .hold (s.updFlight c.f.id fun f => f.park { kind := 5, num := x.id % 1024, val := x.scope } s.clock)
  else if s.releaseOk c.f c.seq x.scope (s.beforeOf c.f c.seq) then .go else .hold s

/-- Count errors of an arrival, and a wide barrier without PERSIST (R323, R324). -/
def arriveBad (x : SFields) (arrives : Bool) (c : Ctx) (s : State) : Option (Nat × DWord × Nat) :=
  let n := (rdUni c.f x.b).toNat
  let parts := barParts s c.f x.scope
  let told : Nat := if okind x.b = .zero then parts else n
  if 3 ≤ x.scope ∧ recPersist (s.recOf c.f) = false then some (4, allOnes, 0)
  else if !arrives || (c.f.waiting 4).isSome then none
  else if told = 0 ∨ parts < told then some (2, allOnes, x.b)
  else match s.joins c.f x.scope (x.id % 1024) with
    | some b => if b.count.getD parts ≠ told then some (2, allOnes, x.b) else none
    | none => none

def barCount (x : SFields) (f : Flight) : Option Nat := if okind x.b = .zero then none else some (rdUni f x.b).toNat

def barDesc (x : SFields) (arrives waits : Bool) : Desc :=
  { syncDesc x [1, 2, 3, 4] [0] false (decide (1024 ≤ x.id) || sUnused x true (!arrives) true) (if arrives then [sB x [.s, .z]] else []) with
    dkind := .empty
    waits
    chk02 := arriveBad x arrives
    chkPriv := notInHandler
    ext := if arrives then some fun c _ => [(0, x.id % 1024, (rdUni c.f x.b).toNat)] else none
    room := fun c s =>
      let num := x.id % 1024
      let go (s : State) : Verdict :=
        match (s.flight? c.f.id).bind fun f => f.pendingBar x.scope num with
        | some a => if a.done then .go else .hold (s.updFlight c.f.id fun f => f.park { kind := 4, num, val := x.scope } s.clock)
        | none => .go
      if !arrives || (c.f.waiting 4).isSome then go s
      else (arriveRoom x c s).andThen fun _ =>
        if !waits then .go
        else
          /- The arrival is made, and stays made; the flight then waits at the instruction. -/
          let s := s.arrive c.f x.scope num (barCount x c.f)
          match go s with
          | .go => .hold (s.updFlight c.f.id fun f => { f with wait := some { kind := 4, since := s.clock, pc := f.pc, num, val := x.scope } })
          | v => v
    eff := fun c s =>
      let num := x.id % 1024
      if !waits then s.arrive c.f x.scope num (barCount x c.f)
      else
        let s := if arrives then s.updFlight c.f.id Flight.endRegion else s
        match (s.flight? c.f.id).bind fun f => f.pendingBar x.scope num with
        | some a =>
          let s := s.updFlight c.f.id fun f => { f with arrivals := f.arrivals.filter fun b => decide (b.inst ≠ a.inst) }
          (s.observe c.f.id c.seq a.before).acquire c.f.core x.scope
        | none => s }

def descBar (x : SFields) : Desc := barDesc x true true
def descBara (x : SFields) : Desc := barDesc x true false
def descBarw (x : SFields) : Desc := barDesc x false true

/-! ### FENCE (R325, R153) -/

def descFence (x : SFields) : Desc :=
  { syncDesc x [0, 1, 2, 3, 4, 5] [0] true (decide (x.id ≠ 0) || sUnused x true true true) [] with
    scopeBad := decide (5 < x.scope) || decide (x.scope = 0)
    dkind := .mem .fence
    ext := some fun _ _ => []
    eff := fun c s => s.addOp c.f.id fun id => { id, seq := c.seq, pc := c.pc, kind := .fence, sb := some x.sb, scope := x.scope } }

/-! ### Semaphore instructions (R326) -/

def semBad (x : SFields) (c : Ctx) (s : State) : Option (Nat × DWord × Nat) :=
  match s.semRef c.f x.id with
  | some (w, n) => if w.nsem ≤ n then some (4, allOnes, 0) else none
  | none => none
def semAbsent (x : SFields) (c : Ctx) (s : State) : Option TrapInfo :=
  if (s.semRef c.f x.id).isNone then some { code := 0x11, cause := 8, info := 0xFF, mask := allOnes } else none
/-- The operation on the unit, as an access of the register. -/
def semAcc (x : SFields) (c : Ctx) (s : State) (data : Nat) : List Access :=
  match s.semRef c.f x.id with
  | some (w, n) => [{ space := .loc w.id, pa := n, size := 1, data }]
  | none => []
def semPre (x : SFields) (c : Ctx) (s : State) : Verdict := Verdict.ofTrap (semAbsent x c s)

/-- SEMADD and SEMSET; only SEMADD ends a region (R307). -/
def semWrite (x : SFields) (kind : OpKind) (region : Bool) : Desc :=
  { syncDesc x [0, 1, 2, 3, 4, 5] [0, 2] true (sUnused x true false true) [sB x [.s, .z]] with
    dkind := if region || decide (x.ord = 2) then .empty else .stop
    region
    chk02 := semBad x
    chkPriv := notInHandler
    pre := semPre x
    ext := some fun c _ => [(0, x.id, (rdUni c.f x.b).toNat % 2 ^ 32)]
    eff := fun c s =>
      let s := if region then s.updFlight c.f.id Flight.endRegion else s
      s.addOp c.f.id fun id =>
        { id, seq := c.seq, pc := c.pc, kind, acc := semAcc x c s ((rdUni c.f x.b).toNat % 2 ^ 32), sb := some x.sb, ord := x.ord, scope := x.scope } }

def descSemadd (x : SFields) : Desc := semWrite x .semAdd true
def descSemset (x : SFields) : Desc := semWrite x .semSet false

def descSemrd (x : SFields) : Desc :=
  let d : Opnd := { pos := 0, spec := x.d, use := .dst, kinds := [.s, .z] }
  { syncDesc x [0] [0] true (sUnused x true true false) [d] with
    chk02 := semBad x
    pre := semPre x
    shadowed := true
    eff := fun c s => s.addOp c.f.id fun id =>
      { id, seq := c.seq, pc := c.pc, kind := .semRd, acc := semAcc x c s 0, sb := some x.sb, dests := d.destList c.f 0 } }

/-- A satisfied SEMWAIT acquires, and then raises trap 0x1A when the register is marked (R136, R164). -/
def descSemwait (x : SFields) : Desc :=
  { syncDesc x [0] [0] false (sUnused x true false true) [sB x [.s, .z]] with
    waits := true
    chk02 := semBad x
    chkPriv := notInHandler
    pre := semPre x
    room := fun c s =>
      let t := (rdUni c.f x.b).toNat % 2 ^ 32
      match s.semRef c.f x.id with
      | none => .go
      | some (w, n) =>
        if c.f.earlierOn c.seq w.id n 1 true || c.f.acquiresBefore c.seq then .hold s
        else if (match c.f.waiting 1 with | some k => k.woken | none => false) || semMet (w.sem n).val t then .go
        else .hold (s.updFlight c.f.id fun f => f.park { kind := 1, wg := w.id, num := n, val := t } s.clock)
    eff := fun c s =>
      if c.f.isShadow then s else
      match s.semRef c.f x.id with
      | none => s
      | some (w, n) =>
        let (before, mark) :=
          match c.f.waiting 1 with
          | some k => if k.woken then (k.before, k.mark) else ((w.sem n).before, (w.sem n).mark)
          | none => ((w.sem n).before, (w.sem n).mark)
        let s := s.observe c.f.id c.seq before
        match mark with
        | some seq => s.raiseTrap c.f.id { code := 0x1A, cause := 2, mask := 0, aux := x.id, xtra := seq, pc := some c.pc }
        | none => s }

/-! ### MWAIT, CHKWAIT, YIELD, WAITSB (R327 to R330) -/

def descMwait (x : SFields) : Desc :=
  let n := x.id % 256
  { syncDesc x [0] [0] false (decide (256 ≤ x.id) || sUnused x true true true) [] with
    waits := true
    chk02 := fun c _ => if (c.f.batch + 256 - n) % 256 = 0 then some (4, allOnes, 0) else none
    room := fun c s =>
      if 128 < (c.f.batch + 256 - n) % 256 then .go
      else if c.f.ops.any fun o => decide (o.kind = .mma) && decide (o.batch % 256 = n) then
        .hold (s.updFlight c.f.id fun f => f.park { kind := 3, num := n } s.clock)
      else .go }

def chkSpots (x : SFields) (c : Ctx) (s : State) : Spots := resolveLocal s c.f 4 true [(0, (rdUni c.f x.a).toNat % 2 ^ 32)]

def descChkwait (x : SFields) : Desc :=
  { syncDesc x [0] [0] false (decide (x.id ≠ 0) || sUnused x false false true)
      [{ pos := 1, spec := x.a, use := .src, kinds := [.s, .z] }, sB x [.s]] with
    waits := true
    pre := fun c s => (chkSpots x c s).verdict
    room := fun c s =>
      let m := (rdUni c.f x.b).toNat % 2 ^ 32
      match (chkSpots x c s).list with
      | a :: _ =>
        match a.space with
        | .loc w =>
          if m = 0 then .go
          else if c.f.earlierOn c.seq w a.pa 4 false || c.f.acquiresBefore c.seq then .hold s
          else if (match c.f.waiting 2 with | some k => k.woken | none => false) then .go
          else match s.wg? w with
            | some g =>
              if g.word a.pa &&& m = m then .go
              else .hold (s.updFlight c.f.id fun f => f.park { kind := 2, wg := w, num := a.pa, val := m } s.clock)
            | none => .go
        | _ => .go
      | [] => .go
    eff := fun c s =>
      match (chkSpots x c s).list with
      | a :: _ =>
        (match a.space with
         | .loc w =>
           (match c.f.waiting 2, s.wg? w with
            | some k, some g => s.observe c.f.id c.seq (if k.woken then k.before else s.chunkSeen c.f g a.pa)
            | none, some g => s.observe c.f.id c.seq (if (rdUni c.f x.b).toNat % 2 ^ 32 = 0 then [] else s.chunkSeen c.f g a.pa)
            | _, none => s)
         | _ => s)
      | [] => s }

/-- The flight becomes the youngest of the pending set. -/
def descYield (x : SFields) : Desc :=
  { syncDesc x [0] [0] false (decide (x.id ≠ 0) || sUnused x true true true) [] with
    eff := fun c s =>
      match s.flight? c.f.id with
      | some f => { s with flights := s.flights.filter (fun g => decide (g.id ≠ f.id)) ++ [f.leaveActive] }
      | none => s }

def descWaitsb (x : SFields) : Desc :=
  { syncDesc x [0] [0] false (decide (256 ≤ x.id) || sUnused x true true true) [] with
    room := fun c s => if (List.range 8).any fun k => x.id.testBit k && decide (c.f.token k ≠ 0) then .hold s else .go }

/-! ### Meanings -/

/-- BAR (R324). -/
def execBar (o : SyncOps) (s : State) : Host.Outcome State Fault Refusal := issue (descBar (ofSync o)) s
/-- BARA (R324). -/
def execBara (o : SyncOps) (s : State) : Host.Outcome State Fault Refusal := issue (descBara (ofSync o)) s
/-- BARW (R324). -/
def execBarw (o : SyncOps) (s : State) : Host.Outcome State Fault Refusal := issue (descBarw (ofSync o)) s
/-- FENCE (R325). -/
def execFence (o : SyncOps) (s : State) : Host.Outcome State Fault Refusal := issue (descFence (ofSync o)) s
/-- SEMADD (R326). -/
def execSemadd (o : SyncOps) (s : State) : Host.Outcome State Fault Refusal := issue (descSemadd (ofSync o)) s
/-- SEMWAIT (R326). -/
def execSemwait (o : SyncOps) (s : State) : Host.Outcome State Fault Refusal := issue (descSemwait (ofSync o)) s
/-- SEMRD (R326). -/
def execSemrd (o : SyncOps) (s : State) : Host.Outcome State Fault Refusal := issue (descSemrd (ofSync o)) s
/-- SEMSET (R326). -/
def execSemset (o : SyncOps) (s : State) : Host.Outcome State Fault Refusal := issue (descSemset (ofSync o)) s
/-- MWAIT (R327). -/
def execMwait (o : SyncOps) (s : State) : Host.Outcome State Fault Refusal := issue (descMwait (ofSync o)) s
/-- CHKWAIT (R328). -/
def execChkwait (o : SyncOps) (s : State) : Host.Outcome State Fault Refusal := issue (descChkwait (ofSync o)) s
/-- YIELD (R329). -/
def execYield (o : SyncOps) (s : State) : Host.Outcome State Fault Refusal := issue (descYield (ofSync o)) s
/-- WAITSB (R330). -/
def execWaitsb (o : SyncOps) (s : State) : Host.Outcome State Fault Refusal := issue (descWaitsb (ofSync o)) s

end Sys2Proof.Machine
end

