-- ==== Sys2Proof/Machine/Mat.lean ====
section
/-! DEFINITION. Class MAT (R331 to R344): tiles, matrix multiply-accumulate, batches, moves and conversions. The reads of MGATH stand
in Landing. -/

namespace Sys2Proof.Machine

/-! ### Fields -/

/-- The fields of a MAT word. -/
structure TFields where
  st : Nat
  a : Nat
  d : Nat
  resv : Nat
  sb : Nat
  fsb : Nat
  fsa : Nat
  rm : Nat
  c : Nat
  b : Nat
  deriving DecidableEq, Repr

def ofMat (o : MatOps) : TFields :=
  { st := o.st.toNat, a := o.a.toNat, d := o.d.toNat, resv := o.resv.toNat, sb := o.sb.toNat, fsb := o.fsb.toNat, fsa := o.fsa.toNat,
    rm := o.rm.toNat, c := o.c.toNat, b := o.b.toNat }

/-! ### Tile bits (R182) -/

/-- A tile as one number: bit n is bit n mod 8 of byte n div 8. -/
def Flight.tileNum (f : Flight) (t : Nat) : Nat :=
  (mslice f.tiles (1632 * t) 1632).foldl (fun a p => a + p.2.toNat * 2 ^ (8 * p.1)) 0
/-- Bits of a number replaced. -/
def putBits (n pos w v : Nat) : Nat := n - nbits n pos w * 2 ^ pos + v % 2 ^ w * 2 ^ pos
/-- A tile's new content as result writes: the bytes that change, and byte 0 always, since a write clears the tile's mark (R411). -/
def tileWrites (t old new : Nat) : List RegWrite :=
  (List.range 1632).filterMap fun b =>
    if b ≠ 0 ∧ nbits new (8 * b) 8 = nbits old (8 * b) 8 then none else some ⟨.tile t, 1632 * t + b, nbits new (8 * b) 8⟩

/-- Element (i, j), and side-band byte g of row i. -/
def elemPos (w : Word) (i j : Nat) : Nat := 384 * i + shapeBits w * j
def sidePos (i g : Nat) : Nat := 8 * (1536 + 3 * i + g)
def tileElem (n : Nat) (w : Word) (i j : Nat) : Nat := nbits n (elemPos w i j) (shapeBits w)
def tileSide (n : Nat) (i g : Nat) : Nat := nbits n (sidePos i g) 8

/-- Bits of a row, and whether a side-band byte is in use. -/
def rowBits (w : Word) : Nat := shapeCols w * shapeBits w
def sideUsed (w : Word) (i g : Nat) : Bool := decide (i < shapeRows w) && decide (g < scaleGroups w)

/-- Whether a shape with V = 1 keeps the rules of R183. -/
def shapeOk (w : Word) : Bool :=
  decide (1 ≤ shapeRows w) && decide (shapeRows w ≤ 32) && decide (1 ≤ shapeCols w) && decide (shapeEw w < 5) && decide (rowBits w ≤ 384)
  && decide (shapeSbnd w ≠ 3)
  && (decide (shapeSbnd w ≠ 1) || (decide (shapeEw w ≤ 1) && decide (shapeCols w % 32 = 0)))
  && (decide (shapeSbnd w ≠ 2) || (decide (shapeEw w = 1) && decide (shapeCols w % 16 = 0)))
/-- Reserved bits of the shape register. -/
def shapeResv (w : Word) : Bool := decide (fld w 26 5 ≠ 0) || decide (fld w 16 5 ≠ 0) || decide (fld w 6 2 ≠ 0)

/-! ### What the MAT descriptions share -/

def tileOp (pos spec : Nat) (use : Use) : Opnd := { pos, spec, use, kinds := [.t] }
def mSrc (pos spec : Nat) (kinds : List KTag) : Opnd := { pos, spec, use := .src, kinds }

/-- The plain description: fields that Table 14-1 does not use. -/
def matDesc (x : TFields) (useA useB useC fsa fsb rm : Bool) (os : List Opnd) : Desc :=
  { cls := 4, st := x.st, perLane := false, opnds := os, sb := some x.sb, tiled := os.any fun o => decide (o.kinds = [.t]), chkPriv := notInHandler
    encBad := decide (x.resv ≠ 0) || (!useA && !unused x.a) || (!useB && !unused x.b) || (!useC && !unused x.c)
      || (!fsa && decide (x.fsa ≠ 0)) || (!fsb && decide (x.fsb ≠ 0)) || (!rm && decide (x.rm ≠ 0))
    chk02 := fun c _ =>
      (os.find? fun o => decide (o.kinds = [.t]) && !shapeV (c.f.shape (tNum o.spec))).map fun o => (o.pos, allOnes, o.spec) }

/-- Several cases of trap 0x02, in order. -/
def first02 (l : List (Ctx → State → Option (Nat × DWord × Nat))) (c : Ctx) (s : State) : Option (Nat × DWord × Nat) := l.findSome? fun g => g c s

/-- Trap 0x02 unless `ok`. -/
def need02 (ok : Ctx → State → Bool) (c : Ctx) (s : State) : Option (Nat × DWord × Nat) := if ok c s then none else some (4, allOnes, 0)

/-! ### MMA (R333 to R337) -/

/-- Whether a slot's element, EW, side band and K match (Table 14-2 and R344). -/
def slotTile (d : DWord) (w : Word) : Bool :=
  slotOk d && decide (shapeBits w = elemBits (slotElem d))
  && (match slotBsize d with | 1 => decide (shapeSbnd w = 2) | 2 => decide (shapeSbnd w = 1) | _ => true)

/-- Whether two slots and tiles form a pair of Table 14-2. -/
def mmaPair (da db : DWord) (wa wb : Word) : Bool :=
  let ea := slotElem da; let eb := slotElem db; let k := shapeCols wa
  let fam (e : Nat) : Nat := match e with | 6 => 1 | 4 => 2 | 5 => 2 | 2 => 3 | 3 => 3 | 0 => 4 | _ => 0
  slotTile da wa && slotTile db wb && decide (fam ea ≠ 0) && decide (fam ea = fam eb) && decide (shapeCols wb = k)
  && decide (slotSkind da = slotSkind db) && decide (shapeSbnd wa = shapeSbnd wb)
  && (match fam ea with
      | 1 => decide (k = 32 ∨ k = 64 ∨ k = 96)
      | 2 => decide (k ≤ 48) && (if slotSkind da = 1 then decide (k % slotBlock da = 0) else decide (shapeSbnd wa = 0))
      | 3 => decide (k ≤ 24) && decide (shapeSbnd wa = 0)
      | _ => decide (k ≤ 6) && decide (shapeSbnd wa = 0))

/-- Element (i, j) of a tile under a slot, times its scale. -/
def tileVal (d : DWord) (daz : Bool) (n : Nat) (w : Word) (i j : Nat) : FVal :=
  let b := slotBlock d
  slotRead d daz (if b = 0 then 0 else tileSide n i (j / b)) (tileElem n w i j)

/-- One group of a dot product, before its rounding (R213, R214). -/
def dotGroup (F : Fmt) (rm : Nat) (acc : FVal) (ps : List (FVal × FVal)) : Raw :=
  let zeroInf (p : FVal × FVal) : Bool :=
    match p with
    | (.inf _, .num _ m _) => decide (m = 0)
    | (.num _ m _, .inf _) => decide (m = 0)
    | _ => false
  let sg (v : FVal) : Bool := match v with | .inf n => n | .num n _ _ => n | .nan _ => false
  let isInf (v : FVal) : Bool := match v with | .inf _ => true | _ => false
  if acc.isNan || ps.any fun p => p.1.isNan || p.2.isNan then
    rawNan F (acc.isSnan || (ps.any fun p => p.1.isSnan || p.2.isSnan) || ps.any zeroInf)
  else if ps.any zeroInf then rawNan F true
  else
    let infs := (if isInf acc then [sg acc] else []) ++ ps.filterMap fun p => if isInf p.1 || isInf p.2 then some (sg p.1 != sg p.2) else none
    match infs with
    | n :: r => if r.all (· == n) then rawInf F n 0 else rawNan F true
    | [] =>
      sumNums rm ((match acc with | .num n m e => (n, m, e) | _ => (false, 0, 0)) :: ps.map fun p =>
        match p with
        | (.num n m e, .num n' m' e') => (n != n', m * m', e + e')
        | _ => (false, 0, 0))

/-- Groups of 16 products. -/
def groups16 : Nat → List α → List (List α)
  | 0, _ => []
  | n + 1, l => if l.isEmpty then [] else l.take 16 :: groups16 n (l.drop 16)

/-- A dot product from a code `acc`: code, flags and stochastic state. -/
def dotProduct (F : Fmt) (rm : Nat) (ftz : Bool) (acc st : Nat) (ps : List (FVal × FVal)) : Nat × Nat × Nat :=
  (groups16 8 ps).foldl (fun (acc, fl, st) g =>
    let (r, st) := finish F rm ftz st (dotGroup F rm (F.decodeQ acc) g)
    (r.bits, fl ||| r.flags, st)) (acc, 0, st)

/-- Register of row pair `h` of an accumulator from `r`, and the registers it has. -/
def accRegs (wide : Bool) : Nat := if wide then 32 else 16
def accReg (wide : Bool) (r h : Nat) : Nat := if wide then r + 2 * h else r + h

/-- The accumulator code of element (2h + l div 32, l mod 32), from the registers or from a chained result (R337). -/
def accIn (f : Flight) (prev : Option Op) (wide : Bool) (r h l : Nat) : Nat :=
  let word (n : Nat) : Nat :=
    match prev with
    | some p => ((p.writes.find? fun w => decide (w.key = 64 * n + l)).map RegWrite.val).getD 0
    | none => (f.rdV n l).toNat
  let n := accReg wide r h
  if wide then word n + 2 ^ 32 * word (n + 1) else word n

/-- The flight's most recent MMA that has not finished. -/
def Flight.lastMma (f : Flight) : Option Op := f.ops.reverse.find? fun o => decide (o.kind = .mma)

/-- Clocks of array time (Table 14-2). -/
def arrayTime (wide : Bool) : Nat := if wide then 32 else 4
def mrcfgOff (d : Nat) : Nat := flcfgOff d + 8
def State.array (s : State) (f : Flight) : MArray := mget ⟨0, false⟩ s.sched.arrays f.partKey

/-- Results of an MMA: writes, flags and stochastic states. Elements of dead lanes are free values (R336). -/
def mmaOut (x : TFields) (da db : DWord) (wide : Bool) (c : Ctx) (s : State) : Out :=
  let f := c.f
  let F := if wide then fp64 else fp32
  let wa := f.shape (tNum x.a); let wb := f.shape (tNum x.b)
  let na := f.tileNum (tNum x.a); let nb := f.tileNum (tNum x.b)
  let ks := List.range (shapeCols wa)
  let rowsA := (List.range (shapeRows wa)).map fun i => ks.map fun k => tileVal da f.daz na wa i k
  let rowsB := (List.range (shapeRows wb)).map fun j => ks.map fun k => tileVal db f.daz nb wb j k
  let rm := f.rm x.rm
  let d := regAt f x.d 1 0
  let src : Option (Nat × Option Op) :=
    match okind x.c with
    | .v n => some (n, match f.lastMma with | some o => if o.accBase = n then some o else none | none => none)
    | _ => none
  let lane (l : Nat) : List RegWrite × Nat × Nat :=
    (List.range 16).foldl (fun (ws, fl, st) h =>
      let i := 2 * h + l / 32; let j := l % 32
      let acc := match src with | some (r, prev) => accIn f prev wide r h l | none => 0
      let (v, fl', st) := if i < shapeRows wa ∧ j < shapeRows wb then dotProduct F rm f.ftz acc st ((rowsA.getD i []).zip (rowsB.getD j [])) else (acc, 0, st)
      let n := accReg wide d h
      let dead := f.dead.getLsbD l
      let word (k v : Nat) : RegWrite :=
        ⟨.v (n + k), 64 * (n + k) + l, if dead then Config.freeNat (s.freeCtr + 64 * (2 * h + k) + l) % 2 ^ 32 else v % 2 ^ 32⟩
      (ws ++ word 0 v :: (if wide then [word 1 (v / 2 ^ 32)] else []), fl ||| fl', st)) ([], 0, (f.rng l).toNat)
  let rs := lanes.map lane
  { writes := rs.flatMap fun r => r.1, flags := rs.foldl (fun a r => a ||| r.2.1) 0
    rng := if rm = 6 then (enum rs).map fun (l, r) => (l, BitVec.ofNat 32 r.2.2) else [] }

def descMma (x : TFields) (s : State) : Desc :=
  let da := s.slotAt x.fsa; let db := s.slotAt x.fsb
  let wide := decide (slotElem da = 0)
  let n := accRegs wide
  let acc (pos spec : Nat) (use : Use) (kinds : List KTag) : Opnd := { pos, spec, use, kinds, regs := n, align := n, multi := true }
  let base (spec : Nat) : Option Nat := match okind spec with | .v n => some n | _ => none
  let m := matDesc x true true true true true true [acc 0 x.d .dst [.v], tileOp 1 x.a .src, tileOp 2 x.b .src, acc 3 x.c .src [.v, .z]]
  { m with
    collective := true
    dkind := .empty
    chk02 := first02 [m.chk02, need02 fun c _ => mmaPair da db (c.f.shape (tNum x.a)) (c.f.shape (tNum x.b)),
      fun _ _ => match base x.d, base x.c with
        | some d, some c => if d = c ∨ d + n ≤ c ∨ c + n ≤ d then none else some (3, allOnes, x.c)
        | _, _ => none]
    chained := fun f => match f.lastMma with
      | some o =>
        if (some o.accBase = base x.d ∨ some o.accBase = base x.c) ∧ o.code = n then
          (List.range n).map fun i => .v (o.accBase + i) else []
      | none => []
    /- The array is awake and free, or the flight asks for its wake (R337, R393). -/
    room := fun c s =>
      let a := s.array c.f
      if !a.awake then
        if s.sched.wakeReqs.any fun w => decide (w.core = c.f.core) && decide (w.part = c.f.part) then .hold s
        else .hold { s with sched := { s.sched with wakeReqs := s.sched.wakeReqs ++ [⟨c.f.core, c.f.part, s.clock⟩] } }
      else if s.clock < a.busyTo then .hold s else .go
    eff := fun c s =>
      let o := mmaOut x da db wide c s
      let s := { s with freeCtr := s.freeCtr + 2048,
                        sched := { s.sched with arrays := mset ⟨0, false⟩ s.sched.arrays c.f.partKey ⟨s.clock + arrayTime wide, true⟩ } }
      let s := s.updFlight c.f.id fun f => f.account o
      s.addOp c.f.id fun id =>
        { id, seq := c.seq, pc := c.pc, kind := .mma, writes := o.writes, sb := some x.sb, batch := c.f.batch, code := n
          accBase := regAt c.f x.d 1 0, dests := (List.range n).map fun i => .v (regAt c.f x.d 1 0 + i)
          reads := [.tile (tNum x.a), .tile (tNum x.b)] } }

/-! ### MGATH (R338) -/

/-- The instruction reads before it issues: an operation stands in for it while its reads are performed (`hint` 1 from the queue). -/
def descMgath (x : TFields) (_s : State) : Desc :=
  let m := matDesc x true true true false false false [tileOp 0 x.d .dst, mSrc 1 x.a [.s], mSrc 2 x.b [.s], mSrc 3 x.c [.s]]
  let running (f : Flight) (seq : Nat) : Option Op := f.ops.find? fun o => decide (o.kind = .mgath) && decide (o.seq = seq)
  { m with
    collective := true
    dkind := .mem .load
    wild := true
    shadowed := true
    chk02 := first02 [m.chk02, need02 fun c _ => decide (1 ≤ shapeEw (c.f.shape (tNum x.d)))]
    pre := fun c _ =>
      let a := (rdUni c.f x.a).toNat
      if a % 32 ≠ 0 then .trap { code := 0x12, mask := c.f.exm, addr := a } else .go
    room := fun c s =>
      match running c.f c.seq with
      | some o => if o.acquired then bucketRoom c.f (s.charge c.f false o.acc) s else .hold s
      | none =>
        if c.queued then .go else
        .hold (s.addOp c.f.id fun id =>
          { id, seq := c.seq, pc := c.pc, kind := .mgath, num := tNum x.d, sym := (c.f.shape (tNum x.d)).toNat
            accBase := (rdUni c.f x.a).toNat, batch := (rdUni c.f x.b).toNat, scope := (rdUni c.f x.c).toNat, code := x.a })
    eff := fun c s =>
      match running c.f c.seq with
      | some o =>
        let s := s.spend c.f (s.charge c.f false o.acc)
        s.updFlight c.f.id fun f =>
          { f with ops := (f.ops.filter fun p => decide (p.id ≠ o.id)) ++
              [{ o with kind := .result, acc := [], dests := [.tile (tNum x.d)], sb := some x.sb }] }
      | none =>
        s.addOp c.f.id fun id =>
          { id, seq := c.seq, pc := c.pc, kind := .mgath, num := tNum x.d, sym := (c.f.shape (tNum x.d)).toNat, hint := 1
            accBase := (rdUni c.f x.a).toNat, batch := (rdUni c.f x.b).toNat, scope := (rdUni c.f x.c).toNat, code := x.a
            dests := [.tile (tNum x.d)], sb := some x.sb } }

/-! ### MCLOSE, TSHP, TZERO, TSCL (R339 to R342) -/

def descMclose (x : TFields) : Desc :=
  { matDesc x false false false false false false [{ pos := 0, spec := x.d, use := .dst, kinds := [.s, .z] }] with
    lat := .late
    room := fun c s => if c.f.ops.any fun o => decide (o.kind = .mma) && decide (o.batch = (c.f.batch + 129) % 256) then .hold s else .go
    res := fun c _ => { writes := uWrites x.d (BitVec.ofNat 64 c.f.batch) }
    eff := fun c s => s.updFlight c.f.id fun f => { f with batch := (c.f.batch + 1) % 256 } }

def descTshp (x : TFields) : Desc :=
  let w (f : Flight) : Word := BitVec.ofNat 32 (rdUni f x.a).toNat
  { matDesc x true false false false false false [tileOp 0 x.d .dst, mSrc 1 x.a [.s, .z]] with
    chk02 := fun c _ => if shapeResv (w c.f) || (shapeV (w c.f) && !shapeOk (w c.f)) then some (1, allOnes, x.a) else none
    eff := fun c s => s.updFlight c.f.id fun f => (f.setShape (tNum x.d) (w c.f)).subToken x.sb }

/-- A tile result that lands later. -/
def tileRes (x : TFields) (g : Ctx → Nat → Word → Nat) (c : Ctx) : List RegWrite :=
  let n := c.f.tileNum (tNum x.d)
  tileWrites (tNum x.d) n (g c n (c.f.shape (tNum x.d)))

def zeroTile (n : Nat) (w : Word) : Nat :=
  (List.range (shapeRows w)).foldl (fun n i =>
    (List.range (scaleGroups w)).foldl (fun n g => putBits n (sidePos i g) 8 0) (putBits n (384 * i) (rowBits w) 0)) n

def descTzero (x : TFields) (_s : State) : Desc :=
  { matDesc x false false false false false false [tileOp 0 x.d .dst] with
    lat := .late, res := fun c _ => { writes := tileRes x (fun _ n w => zeroTile n w) c } }

/-- One side-band byte with `n` added to its exponent, and the flags. -/
def scaleAdd (skind : Nat) (n : Int) (u : Nat) : Nat × Nat :=
  let (e, top) : Nat × Nat := if skind = 1 then (u, 254) else (u % 64, 63)
  if skind = 1 ∧ u = 0xFF then (u, 0)
  else
    let v : Int := (e : Int) + n
    let r := if v < 0 then 0 else min v.toNat top
    let fl := if v < 0 then fUNF ||| fINX else if (top : Int) < v then fOVF ||| fINX else 0
    (if skind = 1 then r else u / 64 * 64 + r, fl)

def descTscl (x : TFields) (s : State) : Desc :=
  let d := s.slotAt x.fsa
  let m := matDesc x false true false true false false [tileOp 0 x.d .both, mSrc 2 x.b [.s, .z]]
  let run (c : Ctx) : Nat × Nat :=
    let w := c.f.shape (tNum x.d)
    let n := sgn 32 ((rdUni c.f x.b).toNat % 2 ^ 32)
    (List.range (shapeRows w)).foldl (fun acc i =>
      (List.range (scaleGroups w)).foldl (fun (t, fl) g =>
        let (u, fl') := scaleAdd (slotSkind d) n (tileSide t i g)
        (putBits t (sidePos i g) 8 u, fl ||| fl')) acc) (c.f.tileNum (tNum x.d), 0)
  { m with
    chk02 := first02 [m.chk02, need02 fun c _ => slotOk d && decide (slotSkind d ≠ 0) &&
      decide (shapeSbnd (c.f.shape (tNum x.d)) = if slotBsize d = 1 then 2 else 1)]
    lat := .late
    res := fun c _ => let r := run c; { writes := tileWrites (tNum x.d) (c.f.tileNum (tNum x.d)) r.1, flags := r.2 } }

/-! ### TMOVV, VMOVT (R343) -/

/-- First register of a v operand, none for ZERO. -/
def vBase (spec : Nat) : Option Nat := match okind spec with | .v n => some n | _ => none

def descTmovv (x : TFields) (_s : State) : Desc :=
  { matDesc x true true false false false false
      [tileOp 0 x.d .dst, { pos := 1, spec := x.a, use := .src, kinds := [.v, .z], regs := 6, multi := true }, mSrc 2 x.b [.v, .z]] with
    perLane := true
    lat := .late
    res := fun c _ =>
      { writes := tileRes x (fun c n w =>
          (lanesOf c.f.exm).foldl (fun n l =>
            let i := l % 32
            let n := match vBase x.a with
              | some r =>
                (List.range 6).foldl (fun n k =>
                  let at_ := 32 * (k + 6 * (l / 32))
                  let bits := min 32 (rowBits w - at_)
                  if i < shapeRows w then putBits n (384 * i + at_) bits (c.f.rdV (r + k) l).toNat else n) n
              | none => n
            match vBase x.b with
            | some r => if l < 32 then (List.range 3).foldl (fun n g => if sideUsed w i g then putBits n (sidePos i g) 8 (fld (c.f.rdV r l) (8 * g) 8) else n) n else n
            | none => n) n) c } }

def descVmovt (x : TFields) (_s : State) : Desc :=
  { matDesc x true false true false false false
      [{ pos := 0, spec := x.d, use := .dst, kinds := [.v, .z], regs := 6, multi := true }, tileOp 1 x.a .src,
       { pos := 3, spec := x.c, use := .dst, kinds := [.v, .z], multi := true }] with
    perLane := true
    lat := .late
    res := fun c _ =>
      let n := c.f.tileNum (tNum x.a); let w := c.f.shape (tNum x.a)
      { writes := (lanesOf c.f.exm).flatMap fun l =>
          let i := l % 32
          (match vBase x.d with
            | some r => (List.range 6).map fun k =>
                let at_ := 32 * (k + 6 * (l / 32))
                ⟨.v (r + k), 64 * (r + k) + l, if i < shapeRows w then nbits n (384 * i + at_) (min 32 (rowBits w - at_)) else 0⟩
            | none => []) ++
          (match vBase x.c with
            | some r => [⟨.v r, 64 * r + l, if l < 32 then ((List.range 3).map fun g => if sideUsed w i g then tileSide n i g * 2 ^ (8 * g) else 0).sum else 0⟩]
            | none => []) } }

/-! ### TCVT (R344) -/

/-- A conversion result added to flags and counts. -/
structure Tally where
  n : Nat
  flags : Nat
  cnt : Counts
  st : Nat
  deriving DecidableEq, Repr

def tcvtRow (da db : DWord) (f : Flight) (rm : Nat) (src : Nat) (ws wd : Word) (t : Tally) (i : Nat) : Tally :=
  let vals := (List.range (shapeCols ws)).map fun j => tileVal da f.daz src ws i j
  let b := slotBlock db
  (enum vals).foldl (fun (t : Tally) (j, v) =>
    let sc := if b = 0 then 0 else chooseScale db rm ((vals.drop (j / b * b)).take b)
    /- One draw per element (R344), whatever its value. -/
    let (st, dr) := draw rm t.st
    let r := slotWrite db f.ftz rm dr sc v
    let n := putBits t.n (elemPos wd i j) (shapeBits wd) r.bits
    { n := if b ≠ 0 ∧ j % b = 0 then putBits n (sidePos i (j / b)) 8 sc else n
      flags := t.flags ||| r.flags, cnt := t.cnt.add r.cat, st }) t

def descTcvt (x : TFields) (s : State) : Desc :=
  let da := s.slotAt x.fsa; let db := s.slotAt x.fsb
  let m := matDesc x true false false true true true [tileOp 0 x.d .dst, tileOp 1 x.a .src]
  { m with
    chk02 := first02 [m.chk02, need02 fun c _ =>
      let wd := c.f.shape (tNum x.d); let wa := c.f.shape (tNum x.a)
      slotTile da wa && slotTile db wd && decide (shapeRows wd = shapeRows wa) && decide (shapeCols wd = shapeCols wa)]
    lat := .late
    res := fun c _ =>
      let wd := c.f.shape (tNum x.d); let wa := c.f.shape (tNum x.a)
      let rm := c.f.rm x.rm
      let old := c.f.tileNum (tNum x.d)
      let t := (List.range (shapeRows wa)).foldl (tcvtRow da db c.f rm (c.f.tileNum (tNum x.a)) wa wd) ⟨old, 0, {}, (c.f.rng 0).toNat⟩
      { writes := tileWrites (tNum x.d) old t.n, flags := t.flags, cnt := t.cnt
        rng := if rm = 6 then [(0, BitVec.ofNat 32 t.st)] else [] } }

/-! ### Meanings -/

/-- MMA (R335). -/
def execMma (o : MatOps) (s : State) : Host.Outcome State Fault Refusal := issue (descMma (ofMat o) s) s
/-- MGATH (R338). -/
def execMgath (o : MatOps) (s : State) : Host.Outcome State Fault Refusal := issue (descMgath (ofMat o) s) s
/-- MCLOSE (R339). -/
def execMclose (o : MatOps) (s : State) : Host.Outcome State Fault Refusal := issue (descMclose (ofMat o)) s
/-- TSHP (R340). -/
def execTshp (o : MatOps) (s : State) : Host.Outcome State Fault Refusal := issue (descTshp (ofMat o)) s
/-- TZERO (R341). -/
def execTzero (o : MatOps) (s : State) : Host.Outcome State Fault Refusal := issue (descTzero (ofMat o) s) s
/-- TMOVV (R343). -/
def execTmovv (o : MatOps) (s : State) : Host.Outcome State Fault Refusal := issue (descTmovv (ofMat o) s) s
/-- VMOVT (R343). -/
def execVmovt (o : MatOps) (s : State) : Host.Outcome State Fault Refusal := issue (descVmovt (ofMat o) s) s
/-- TSCL (R342). -/
def execTscl (o : MatOps) (s : State) : Host.Outcome State Fault Refusal := issue (descTscl (ofMat o) s) s
/-- TCVT (R344). -/
def execTcvt (o : MatOps) (s : State) : Host.Outcome State Fault Refusal := issue (descTcvt (ofMat o) s) s

end Sys2Proof.Machine
end

