-- ==== Sys2Proof/Machine/Ctrl.lean ====
section
/-! DEFINITION. Class CTRL (R345 to R361): the reconvergence stack with its spills (R373, R374), branches, regrouping (R351 to R353), traps by
instruction, and what a handler does to other flights. -/

namespace Sys2Proof.Machine

/-! ### Fields -/

/-- Fields of layout LC. -/
structure CFields where
  st : Nat
  a : Nat
  d : Nat
  resv : Nat
  mod : Nat
  c : Nat
  b : Nat
  deriving DecidableEq, Repr

def ofCtl (o : CtlOps) : CFields :=
  { st := o.st.toNat, a := o.a.toNat, d := o.d.toNat, resv := o.resv.toNat, mod := o.mod.toNat, c := o.c.toNat, b := o.b.toNat }

/-- Fields of layout LB. -/
structure BFields where
  st : Nat
  a : Nat
  d : Nat
  mod : Nat
  off : Nat
  deriving DecidableEq, Repr

def ofBr (o : BrOps) : BFields := { st := o.st.toNat, a := o.a.toNat, d := o.d.toNat, mod := o.mod.toNat, off := o.off.toNat }

/-- PC + 4·OFF. -/
def BFields.target (x : BFields) (pc : Nat) : Nat := (pc + wrapInt 48 (4 * sgn 26 x.off)) % 2 ^ 48

/-- The plain descriptions of the two layouts; fields that Table 14-4 does not use follow R248. -/
def lcDesc (x : CFields) (useD useA useB useC modOk : Bool) (os : List Opnd) : Desc :=
  { cls := 7, st := x.st, perLane := false, opnds := os
    encBad := decide (x.resv ≠ 0) || !modOk || (!useD && !unused x.d) || (!useA && !unused x.a) || (!useB && !unused x.b) || (!useC && !unused x.c) }
def lbDesc (x : BFields) (useD useA modOk : Bool) (os : List Opnd) : Desc :=
  { cls := 7, st := x.st, perLane := false, opnds := os, transfer := true, dkind := .stop
    encBad := !modOk || (!useD && !unused x.d) || (!useA && !unused x.a) }

/-- Refused outside a handler run (R345). -/
def onlyHandler (c : Ctx) (_ : State) : Option TrapInfo :=
  if c.f.isHandler then none else some { code := 0x11, cause := 9, info := 0xFF, mask := allOnes }

/-! ### The reconvergence stack (R346, R373, R374) -/

/-- Number of a workgroup's tuple, and of a flight in its launch (R368). -/
def tupleIndex (r : List DWord) (w : Workgroup) : Nat := w.w + recNwg r * (w.c + recNcl r * w.d)
def State.gIndex (s : State) (f : Flight) : Nat :=
  let r := s.recOf f; let w := s.wgOf f
  f.fidx % 32 + recNfl r * (tupleIndex r w + recNwg r * recNcl r * recNdie r * w.s)

/-- Spilled entries a flight may have; a handler run has no spill area. -/
def State.sdepth (s : State) (f : Flight) : Nat := if f.isHandler then 0 else recSdepth (s.recOf f)
/-- VA of spill block `n`. -/
def State.spillVa (s : State) (f : Flight) (n : Nat) : Nat :=
  (recSpill (s.recOf f) + 16 * s.sdepth f * s.gIndex f + 128 * n) % 2 ^ 64

def stackTrap (cause addr : Nat) : Verdict := .trap { code := 0x0A, cause, mask := allOnes, addr }

/-- Bytes of a spill block: private to the device (R374), so free values. -/
def spillBytes (key : Nat) : List Byte := (List.range 128).map fun i => BitVec.ofNat 8 (Config.freeNat (key + i))

/-- Physical address of a spill block; `v` holds the walks made for the instruction. What is not memory that the flight may write, a view, the code of a
Z-region (R52) or a device register, is refused as a translation fault is (R63, log 37). -/
def State.spillPa (s : State) (v : Flight) (n : Nat) : Except Verdict Nat :=
  let va := s.spillVa v n
  let asid := (s.launchOf v).asid
  match s.zrAt asid va with
  | some z => .error (if (s.zr asid z).err = 15 then .hold s else stackTrap 2 va)
  | none =>
    match s.xlate v asid .rw va with
    | .miss => .error (.hold (s.askWalks v.id asid [va / 2 ^ 16]))
    | .fault _ _ => .error (stackTrap 2 va)
    | .ok pa _ => if paSpace pa = some .dev ∨ s.codeMeets pa 128 then .error (stackTrap 2 va) else if s.homeMoves pa then .error (.hold s) else .ok pa

/-- One entry pushed; with 32 on chip the 8 oldest go to the next block. A shadow's stack makes no memory access (R417). -/
def pushOne (v : Flight) (s : State) (e : StackEntry) : Except Verdict State :=
  match s.flight? v.id with
  | none => .ok s
  | some g =>
    if g.stack.length < 32 then .ok (s.setFlight { g with stack := e :: g.stack })
    else
      let n := g.spilled.length
      let key := s.freeCtr
      let g := { g with stack := e :: g.stack.take 24, spilled := g.spilled ++ [⟨(g.stack.drop 24).reverse, key⟩] }
      if s.sdepth v < 8 * (n + 1) then .error (stackTrap 1 0)
      else if v.isShadow then .ok (s.setFlight g)
      else match s.spillPa v n with
        | .error e => .error e
        | .ok pa => .ok ((({ s with freeCtr := key + 128 }).postWrite v.core (s.launch? v.launch) pa (spillBytes key)).setFlight g)

/-- Blocks that a number of pushes sends to the spill area. -/
def Flight.spillsFor (v : Flight) (n : Nat) : Nat := (n + v.stack.length - 32 + 7) / 8
/-- What keeps a block that the pushes spill from being written: a fault, or a walk to wait for. -/
def State.spillStop (s : State) (v : Flight) (n : Nat) : Option Verdict :=
  (List.range (v.spillsFor n)).findSome? fun k => match s.spillPa v (v.spilled.length + k) with | .error e => some e | .ok _ => none

/-- Entries pushed together, the last of the list ending on top; they all fit and can all be written, or none is pushed. -/
def pushAll (v : Flight) (es : List StackEntry) (s : State) : Except Verdict State :=
  if 32 + s.sdepth v < v.depth + es.length then .error (stackTrap 1 0)
  else match if v.isShadow then none else s.spillStop v es.length with
    | some e => .error e
    | none => es.foldlM (pushOne v) s

/-- The most recent block comes back on chip. -/
def fillStack (v : Flight) (s : State) (g : Flight) : Except Verdict State :=
  match g.spilled.getLast? with
  | none => .ok (s.setFlight g)
  | some b =>
    let g := { g with stack := g.stack ++ b.entries.reverse, spilled := g.spilled.dropLast }
    let n := g.spilled.length
    if v.isShadow then .ok (s.setFlight g)
    else match s.spillPa v n with
      | .error e => .error e
      | .ok pa =>
        if (s.poisonIn pa 128).isSome then .error (stackTrap 3 (s.spillVa v n))
        else if s.homeBytes pa 128 ≠ ofLe (spillBytes b.key) then .error (stackTrap 4 (s.spillVa v n))
        else .ok (s.setFlight g)

/-- The top entry popped. -/
def popOne (v : Flight) (s : State) : Except Verdict (Option StackEntry × State) :=
  match s.flight? v.id with
  | none => .ok (none, s)
  | some g0 =>
    match if g0.stack.isEmpty then fillStack v s g0 else .ok s with
    | .error e => .error e
    | .ok s =>
      match s.flight? v.id with
      | none => .ok (none, s)
      | some g =>
        match g.stack with
        | [] => .ok (none, s)
        | e :: r =>
          let g := { g with stack := r }
          match if r.isEmpty then fillStack v s g else .ok (s.setFlight g) with
          | .error e => .error e
          | .ok s => .ok (some e, s)

/-- The top entry, wherever it lies. -/
def Flight.top (f : Flight) : Option StackEntry :=
  match f.stack with
  | e :: _ => some e
  | [] => f.spilled.getLast?.bind fun b => b.entries.getLast?

/-- JOIN's effect (R350). -/
def joinPop (v : Flight) (s : State) : Except Verdict State :=
  match popOne v s with
  | .error e => .error e
  | .ok (e, s) =>
    .ok (s.updFlight v.id fun f =>
      match e with
      | some (.pending m pc) => { f with exm := m &&& f.live }.jump pc
      | some (.reconv m) => { f with exm := m &&& f.live }
      | _ => f)

def Flight.toVerdict (r : Except Verdict State) : Verdict := match r with | .error v => v | .ok _ => .go
def State.orSame (s : State) (r : Except Verdict State) : State := match r with | .error _ => s | .ok s => s

/-! ### NOP, BRA, BRC, BRI, CALL, RET, JOIN (R345 to R350, R354) -/

def descNop (x : CFields) : Desc := lcDesc x false false false false (x.mod = 0) []

def descBra (x : BFields) : Desc :=
  { lbDesc x false false (x.mod = 0) [] with eff := fun c s => s.updFlight c.f.id fun f => f.jump (x.target c.pc) }

/-- Lanes of EXM whose predicate condition holds. -/
def condMask (f : Flight) (a mod : Nat) : DWord := (if mod % 2 = 1 then ~~~(rdUni f a) else rdUni f a) &&& f.exm

/-- What BRC does: jump, fall through, or diverge with the taken lanes. -/
inductive Way where
  | jump
  | fall
  | split (t : DWord)
  deriving DecidableEq, Repr

def brcWay (x : BFields) (f : Flight) : Way :=
  match okind x.a with
  | .s n => if (f.rdS n ≠ 0) = (x.mod % 2 = 0) then .jump else .fall
  | _ =>
    let t := condMask f x.a x.mod
    match x.mod / 2 with
    | 0 => if t = f.exm then .jump else if t = 0 then .fall else .split t
    | 1 => if t ≠ 0 then .jump else .fall
    | _ => if t = f.exm then .jump else .fall

/-- Divergence (R348): EXM := T and the jump, the other lanes pending at the next header. -/
def brcSplit (c : Ctx) (t : DWord) (next : Nat) (s : State) : Except Verdict State :=
  pushAll c.f [.reconv c.f.exm, .pending (c.f.exm &&& ~~~t) next] s

def descBrc (x : BFields) : Desc :=
  { lbDesc x false true (decide (x.mod < 6) && (decide (x.mod < 2) || (match okind x.a with | .s _ => false | _ => true)))
      [{ pos := 1, spec := x.a, use := .src, kinds := [.p, .s] }] with
    pre := fun c s =>
      match brcWay x c.f with
      | .split t => Flight.toVerdict (brcSplit c t c.f.nextHeader s)
      | _ => .go
    eff := fun c s =>
      match brcWay x c.f with
      | .jump => s.updFlight c.f.id fun f => f.jump (x.target c.pc)
      | .fall => s
      | .split t =>
        match brcSplit c t c.f.nextHeader s with
        | .error _ => s
        | .ok s => s.updFlight c.f.id fun f => { f with exm := t &&& f.live }.jump (x.target c.pc) }

/-- Groups of lanes with one target, in ascending order of their lowest lane (R349). -/
def briGroups (f : Flight) (a : Nat) : List (Nat × DWord) :=
  let ts := (lanesOf f.exm).map fun l => (l, rdLane f a 2 l)
  (dedup (ts.map Prod.snd)).map fun t => (t, maskOf ((ts.filter fun p => decide (p.2 = t)).map Prod.fst))

def briPush (c : Ctx) (gs : List (Nat × DWord)) (s : State) : Except Verdict State :=
  match gs with
  | _ :: r@(_ :: _) => pushAll c.f (.reconv c.f.exm :: r.reverse.map fun p => .pending p.2 p.1) s
  | _ => .ok s

def descBri (x : CFields) : Desc :=
  let uni : Bool := match okind x.a with | .s _ => true | _ => false
  { lcDesc x false true false false (x.mod = 0) [{ pos := 1, spec := x.a, use := .src, kinds := [.s, .v], regs := 2, align := 2 }] with
    perLane := !uni
    transfer := true
    dkind := .stop
    pre := fun c s => if uni then .go else Flight.toVerdict (briPush c (briGroups c.f x.a) s)
    eff := fun c s =>
      if uni then s.updFlight c.f.id fun f => f.jump (rdUni c.f x.a).toNat
      else match briGroups c.f x.a with
        | [] => s
        | (t, m) :: r =>
          match briPush c ((t, m) :: r) s with
          | .error _ => s
          | .ok s => s.updFlight c.f.id fun f => (if r.isEmpty then f else { f with exm := m &&& f.live }).jump t }

def descCall (x : BFields) : Desc :=
  { lbDesc x true false (x.mod = 0) [{ pos := 0, spec := x.d, use := .dst, kinds := [.s] }] with
    lat := .fixed 4
    res := fun c _ => { writes := uWrites x.d (BitVec.ofNat 64 ((c.pc + 8) % 2 ^ 48)) }
    eff := fun c s => s.updFlight c.f.id fun f => f.jump (x.target c.pc) }

def descRet (x : CFields) : Desc :=
  { lcDesc x false true false false (x.mod = 0) [{ pos := 1, spec := x.a, use := .src, kinds := [.s] }] with
    transfer := true
    dkind := .stop
    eff := fun c s => s.updFlight c.f.id fun f => f.jump (rdUni c.f x.a).toNat }

def descJoin (x : CFields) : Desc :=
  { lcDesc x false false false false (x.mod = 0) [] with
    transfer := true
    dkind := .empty
    chk07 := fun c _ => match c.f.top with | some .regroup => true | _ => false
    pre := fun c s => Flight.toVerdict (joinPop c.f s)
    eff := fun c s => (s.orSame (joinPop c.f s)).updFlight c.f.id Flight.endRegion }

/-! ### BRGP, RGJOIN (R351 to R353) -/

/-- A new flight's lanes as (participant, lane), in lane order; the first `taken` of them go to the target. -/
structure Pack where
  lanes : List (Nat × Nat)
  taken : Nat
  deriving DecidableEq, Repr

/-- Full groups of 64. -/
def fullGroups (l : List α) : List (List α) := (List.range (l.length / 64)).map fun i => (l.drop (64 * i)).take 64

/-- Packing of the two lists into `n` flights. -/
def packs (n : Nat) (tk nt : List (Nat × Nat)) : List Pack :=
  let a := fullGroups tk; let b := fullGroups nt
  let rt := tk.drop (64 * a.length); let rn := nt.drop (64 * b.length)
  let rest : List Pack :=
    if rt.isEmpty ∧ rn.isEmpty then []
    else if rt.isEmpty = false ∧ rn.isEmpty = false ∧ a.length + b.length + 2 ≤ n then [⟨rt, rt.length⟩, ⟨rn, 0⟩]
    else [⟨rt ++ rn, rt.length⟩]
  let l := a.map (fun g => ⟨g, 64⟩) ++ b.map (fun g => ⟨g, 0⟩) ++ rest
  l ++ List.replicate (n - l.length) ⟨[], 0⟩

/-- A map of per-lane registers with each lane moved: `dst` says where lane `l` of source `i` goes. -/
def relane (srcs : List (NMap α)) (dst : Nat → Nat → Option Nat) : NMap α :=
  sortBy Prod.fst ((enum srcs).flatMap fun (i, m) => m.filterMap fun (k, a) => (dst i (k % 64)).map fun j => (64 * (k / 64) + j, a))
/-- The same for predicates. -/
def relaneP (srcs : List (NMap DWord)) (dst : Nat → Nat → Option Nat) : NMap DWord :=
  msets 0 [] ((List.range 8).map fun n =>
    (n, maskOf ((enum srcs).flatMap fun (i, m) => (lanesOf (mget 0 m n)).filterMap fun l => dst i l)))
def laneMark (dst : Nat → Option Nat) (m : PMark) : Option PMark :=
  match m.reg with | .v _ => (dst m.lane).map fun j => { m with lane := j } | _ => none
def relaneM (srcs : List (List PMark)) (dst : Nat → Nat → Option Nat) : List PMark :=
  (enum srcs).flatMap fun (i, ms) => ms.filterMap (laneMark (dst i))
/-- Marks that stand with the tiles, and with the scalar registers. -/
def tileMarks (ms : List PMark) : List PMark := ms.filter fun m => match m.reg with | .tile _ => true | _ => false
def uniMarks (ms : List PMark) : List PMark := ms.filter fun m => match m.reg with | .s _ => true | _ => false

/-- The place in a new flight of lane `l` of participant `i`. -/
def Pack.dst (p : Pack) (i l : Nat) : Option Nat := p.lanes.idxOf? (i, l)

/-- A participant becomes a new flight. -/
def regroupOne (fs : List Flight) (p : Pack) (f : Flight) (target next : Nat) : Flight :=
  let occ := maskOf (List.range p.lanes.length)
  let t := maskOf (List.range p.taken)
  let from_ := ((p.lanes.head?).bind fun x => fs[x.1]?).getD f
  let split := decide (0 < p.taken) && decide (p.taken < p.lanes.length)
  let g : Flight := { f with
    home := some { exm := f.exm, dead := f.dead, exited := f.exited, s := f.s, fmode := f.fmode, counts := f.counts, v := f.v, x := f.x,
                   p := f.p, stoch := f.stoch, marks := f.marks }
    homeLane := msets 0 [] ((enum p.lanes).map fun (j, i, l) => (j, 64 * (((fs[i]?).map Flight.fidx).getD 0 % 32) + l))
    regrouped := true
    v := relane (fs.map Flight.v) p.dst, x := relane (fs.map Flight.x) p.dst, p := relaneP (fs.map Flight.p) p.dst
    stoch := msets 0 [] []
    marks := relaneM (fs.map Flight.marks) p.dst ++ uniMarks from_.marks ++ tileMarks f.marks
    s := from_.s, fmode := from_.fmode, counts := [], slots := [], fixed := [], dead := 0, exited := ~~~occ
    exm := if split then t else occ
    stack := if split then [.pending (occ &&& ~~~t) next, .reconv occ, .regroup] else [.regroup]
    spilled := [] }
  let g := (enum p.lanes).foldl (fun (g : Flight) (j, i, l) => g.setRng j (((fs[i]?).map fun h => h.rng l).getD 0)) g
  (g.jump (if 0 < p.taken then target else next)).endRegion

/-- A flight's own bookkeeping when a gather moves it on. -/
def Flight.movedOn (f : Flight) (clock st : Nat) : Flight :=
  { f with seq := f.seq + 1, nextIssue := clock + 1 + st, lastIssue := clock + 1, wait := none, blocked := [], walkRes := [] }

/-- Lanes whose condition holds, and the others, in order of flight and lane. -/
def gatherLists (fs : List Flight) (a mod : Nat) : List (Nat × Nat) × List (Nat × Nat) :=
  ((enum fs).flatMap fun (i, f) => (lanesOf (condMask f a mod)).map fun l => (i, l),
   (enum fs).flatMap fun (i, f) => (lanesOf (f.exm &&& ~~~(condMask f a mod))).map fun l => (i, l))

/-- The flights of a workgroup trade lanes; those left over count as arrived at RGJOIN. -/
def State.regroup (s : State) (wg st : Nat) (fs : List Flight) (ps : List Pack) (target next : Nat) : State :=
  let one (s : State) (x : Flight × Pack) : State :=
    let g := (regroupOne fs x.2 x.1 target next).movedOn s.clock st
    let g := if x.2.lanes.isEmpty then g.park { kind := 6 } s.clock else g
    s.setFlight g
  let s := (fs.zip ps).foldl one s
  s.updWg wg fun w => { w with gather := none, rejoin := ((fs.zip ps).filter fun x => x.2.lanes.isEmpty).map fun x => x.1.id }

/-- Operations with register results still to come. -/
def Flight.unlanded (f : Flight) : Bool := f.ops.any fun o => !o.dests.isEmpty

/-- Shadows of the flights, one for each or none. -/
def State.shadows (s : State) (fs : List Flight) : List Flight := fs.filterMap s.partner

def descBrgp (x : BFields) : Desc :=
  { lbDesc x false true (x.mod < 2) [{ pos := 1, spec := x.a, use := .src, kinds := [.p] }] with
    dkind := .empty
    collective := true
    waits := true
    tiled := true
    chk07 := fun c s => decide (0 < c.f.depth) || (match (s.wgOf c.f).gather with
      | some g => decide (g.pc ≠ c.pc) && (g.arrived.any fun i => decide (i ≠ c.f.id) && (match s.flight? i with | some h => decide (h.pc = g.pc) && !h.isEnded | none => false))
      | none => false)
    chkPriv := notInHandler
    room := fun c s =>
      let late (f : Flight) : Bool := f.unlanded
      if late c.f || (match s.partner c.f with | some g => decide (g.seq ≠ c.seq) || late g || decide (g.pc ≠ c.pc) | none => false) then .hold s
      else
        let s := s.updWg c.f.wg fun w => { w with gather := some ⟨c.pc, (match w.gather with | some g => if g.pc = c.pc then g.arrived.filter (· ≠ c.f.id) else [] | none => []) ++ [c.f.id]⟩ }
        let fs := (s.wgFlights c.f.wg).filter fun f => !f.isEnded
        let arrived := ((s.wgOf c.f).gather.map Gather.arrived).getD []
        /- A flight chosen to leave is gathered after its return (R375). -/
        if fs.all fun f => decide (f.id ∈ arrived) && decide (f.pc = c.pc) && !f.isEvicted && !f.leaving then
          let (tk, nt) := gatherLists fs x.a x.mod
          let ps := packs fs.length tk nt
          let s := (s.regroup c.f.wg x.st fs ps (x.target c.pc) c.f.nextHeader)
          let gs := s.shadows fs
          .hold (if gs.isEmpty then s else s.regroup c.f.wg x.st gs ps (x.target c.pc) c.f.nextHeader)
        else .hold (s.updFlight c.f.id fun f => f.park { kind := 6 } s.clock) }

/-- The home participant and lane of lane `l` of new flight `f`. -/
def Flight.homeAt (f : Flight) (l : Nat) : Option (Nat × Nat) :=
  if f.exited.getLsbD l then none else some (mget 0 f.homeLane l / 64, mget 0 f.homeLane l % 64)

/-- A home flight takes its lanes back. -/
def rejoinOne (fs : List Flight) (f : Flight) (next : Nat) : Flight :=
  match f.home with
  | none => f
  | some h =>
    let dst (i l : Nat) : Option Nat := (fs[i]?).bind fun g => (g.homeAt l).bind fun (a, b) => if a = f.fidx % 32 then some b else none
    let held := fs.filter fun g => lanes.any fun l => match g.homeAt l with | some (a, _) => decide (a = f.fidx % 32) | none => false
    let back := maskOf ((enum fs).flatMap fun (i, _) => lanes.filterMap (dst i))
    let killed := maskOf ((enum fs).flatMap fun (i, g) => (lanesOf g.dead).filterMap (dst i))
    let stay (m : NMap Word) : NMap Word := m.filter fun p => !back.getLsbD (p.1 % 64)
    let flags := held.foldl (fun a g => a ||| fld g.fstat 0 5) 0
    let g : Flight := { f with
      v := sortBy Prod.fst (stay h.v ++ relane (fs.map Flight.v) dst), x := sortBy Prod.fst (stay h.x ++ relane (fs.map Flight.x) dst)
      p := msets 0 [] ((List.range 8).map fun n => (n, (mget 0 h.p n &&& ~~~back) ||| mget 0 (relaneP (fs.map Flight.p) dst) n))
      marks := (h.marks.filter fun m => match m.reg with | .v _ => !back.getLsbD m.lane | .s _ => true | _ => false)
        ++ relaneM (fs.map Flight.marks) dst ++ tileMarks f.marks
      stoch := h.stoch, s := h.s, fmode := h.fmode, counts := h.counts, slots := [], fixed := []
      exm := h.exm &&& ~~~killed, dead := h.dead ||| killed, exited := h.exited, fstat := setFld f.fstat 0 5 flags
      stack := [], spilled := [], home := none, homeLane := [], regrouped := false }
    let g := (enum fs).foldl (fun (g : Flight) (i, k) => lanes.foldl (fun (g : Flight) l => match dst i l with | some b => g.setRng b (k.rng l) | none => g) g) g
    (g.jump next).endRegion

/-- Every lane returns home (R353). Each flight goes on after the RGJOIN at which it waits itself; one that got no lanes, and so met none, after the last
(log 84). A flight with no lane left then ends (R414). -/
def State.ungroup (s : State) (wg st : Nat) (fs : List Flight) (next : Nat) : State :=
  let s := fs.foldl (fun s f => s.setFlight ((rejoinOne fs f (if f.clause.isSome then f.nextHeader else next)).movedOn s.clock st)) s
  let s := s.updWg wg fun w => { w with rejoin := [] }
  fs.foldl (fun s f => match s.flight? f.id with | some g => if g.live = 0 then s.endFlight g.id else s | none => s) s

/-- RGJOIN pops one entry above the REGROUP entry an execution; once REGROUP is on top, by that pop or before, the flight waits at it (R353, log 84). -/
def descRgjoin (x : CFields) : Desc :=
  let isTop (f : Flight) : Bool := match f.top with | some .regroup => true | _ => false
  let pops (f : Flight) : Bool := f.regrouped && !isTop f
  let popped (f : Flight) (s : State) : State := if pops f then s.orSame (joinPop f s) else s
  let onTop (f : Flight) (s : State) : Bool := f.regrouped && (match (popped f s).flight? f.id with | some g => isTop g && g.clause.isSome | none => false)
  { lcDesc x false false false false (x.mod = 0) [] with
    transfer := true
    dkind := .empty
    waits := true
    chkPriv := notInHandler
    pre := fun c s => if pops c.f then Flight.toVerdict (joinPop c.f s) else .go
    room := fun c s =>
      if !onTop c.f s then .go
      else if c.f.unlanded || (match s.partner c.f with | some g => decide (g.seq ≠ c.seq) || g.unlanded | none => false) then .hold s
      else
        let s := (popped c.f s).updWg c.f.wg fun w => { w with rejoin := w.rejoin.filter (· ≠ c.f.id) ++ [c.f.id] }
        let fs := (s.wgFlights c.f.wg).filter fun f => !f.isEnded
        if fs.all fun f => decide (f.id ∈ (s.wgOf c.f).rejoin) && !f.isEvicted then
          let gs := s.shadows fs
          let s := s.ungroup c.f.wg x.st fs c.f.nextHeader
          .hold (if gs.isEmpty then s else s.ungroup c.f.wg x.st gs c.f.nextHeader)
        else .hold (s.updFlight c.f.id fun f => f.park { kind := 6 } s.clock)
    eff := fun c s => (popped c.f s).updFlight c.f.id Flight.endRegion }

/-! ### EXIT (R355) -/

/-- The flight without the lanes of EXM, and whether it then ends. -/
def Flight.leave (f : Flight) : Flight := { (f.stackLess f.exm) with exited := f.exited ||| f.exm, exm := 0 }
def Flight.exitEnds (f : Flight) : Bool := decide (f.depth = 0) || decide (f.live &&& ~~~f.exm = 0)

def descExit (x : CFields) : Desc :=
  { lcDesc x false false false false (x.mod = 0) [] with
    transfer := true
    dkind := .empty
    tiled := true
    chkPriv := notInHandler
    pre := fun c s => if c.f.exitEnds then .go else Flight.toVerdict (joinPop c.f s)
    /- A refusal may still arrive (R412). -/
    room := fun c s =>
      if c.f.exitEnds && (c.f.ops.any fun o => (decide (o.kind = .atomic) && o.toZero) || decide (o.kind = .tileStore)) then .hold s else .go
    eff := fun c s =>
      if c.f.exitEnds then s.endFlight c.f.id
      else
        let s := s.updFlight c.f.id Flight.leave
        (s.orSame (joinPop c.f s)).updFlight c.f.id Flight.endRegion }

/-! ### TRAP, BRK, ERET, DEFER (R356, R357, R402) -/

def trapDesc (x : CFields) (code : Nat) : Desc :=
  { lcDesc x false false false false true [] with
    transfer := true
    eff := fun c s => s.raiseTrap c.f.id { code, info := x.mod, mask := 0, pc := some c.pc } }
def descTrap (x : CFields) : Desc := trapDesc x 0x20
def descBrk (x : CFields) : Desc := trapDesc x 0x21

/-- A run ends; a flight whose trap it handled and that it did not resume stays stopped and is reported (kind 8). -/
def State.endRun (s : State) (h : Flight) : State :=
  let s := s.updFlight h.id fun f => { f with place := .ended, clause := none, wait := none }
  s.flights.foldl (fun (s : State) (f : Flight) =>
    match f.trap with
    | some t =>
      if t.phase = .running h.id then (s.setFlight { f with trap := some { t with phase := .held } }).reportFlight f 8 [f.fidx] t.frame else s
    | none => s) s

def descEret (x : CFields) : Desc :=
  { lcDesc x false false false false (x.mod = 0) [] with
    transfer := true
    chkPriv := onlyHandler
    eff := fun c s =>
      match s.flight? c.f.id with
      | some h => (match h.kind with | .handler _ => s.endRun h | _ => s)
      | none => s }

def descDefer (x : CFields) : Desc :=
  { lcDesc x false false false false (x.mod < 2) [] with
    chkPriv := fun c s =>
      if x.mod = 1 ∧ (c.f.isHandler ∨ recDeferOk (s.recOf c.f) = false) then some { code := 0x11, cause := 9, info := 0xFF, mask := allOnes } else none
    eff := fun c s => s.updFlight c.f.id fun f => { f with fmode := setFld f.fmode 8 1 x.mod } }

/-! ### TFRD, TFWR, TFRES, LKILL (R358 to R360) -/

/-- A flight of a workgroup by its index, 32 more for a shadow (R416). -/
def State.byIndex (s : State) (wg n : Nat) : Option Flight :=
  s.flights.find? fun f => decide (f.wg = wg) && !f.isHandler && decide (n = f.fidx % 32 + if f.isShadow then 32 else 0)
/-- A stopped flight that a handler names. -/
def State.named (s : State) (c : Ctx) (a : Nat) : Option Flight :=
  (s.byIndex c.f.wg (rdUni c.f a).toNat).bind fun f => if s.isHeld f then some f else none
def namedBad (a : Nat) (c : Ctx) (s : State) : Option (Nat × DWord × Nat) := if (s.named c a).isNone then some (1, allOnes, a) else none

/-- Selector fields (Table 14-7). -/
def selLane (w : DWord) : Nat := fld w 16 6
def selCls (w : DWord) : Nat := fld w 12 4
def selIdx (w : DWord) : Nat := fld w 0 12
/-- Whether a selector names state of the flight (Table 14-8). -/
def selOk (f : Flight) (w : DWord) : Bool :=
  let i := selIdx w
  decide (fld w 22 42 = 0) &&
  (match selCls w with
   | 0 => decide (i < f.nVregs)
   | 1 => decide (i < 64)
   | 2 => decide (i < 8)
   | 3 => decide (i < 4)
   | 4 => decide (i < 16)
   | 5 => decide (i < 9)
   | 6 => decide (i < f.nVregs)
   | 7 => decide (i < 408) && decide (selLane w < 16)
   | _ => false)

/-- The selected state. -/
def selRead (f : Flight) (w : DWord) : DWord :=
  let i := selIdx w; let l := selLane w
  match selCls w with
  | 0 => BitVec.ofNat 64 (f.rdV i l).toNat
  | 1 => f.rdS i
  | 2 => f.rdP i
  | 3 => BitVec.ofNat 64 (f.rdX i l).toNat
  | 4 => BitVec.ofNat 64 (f.shape i).toNat
  | 5 =>
    match i with
    | 0 => BitVec.ofNat 64 f.pc
    | 1 => f.exm
    | 2 => f.fmode
    | 3 => f.fstat
    | 4 => f.dead
    | 5 => BitVec.ofNat 64 f.rgnc.toNat
    | 6 => BitVec.ofNat 64 f.region.start
    | 7 => BitVec.ofNat 64 f.symNext.toNat
    | _ => BitVec.ofNat 64 f.symLimit.toNat
  | 6 => BitVec.ofNat 64 (f.count i).toNat
  | _ => BitVec.ofNat 64 (ofLe ((List.range 4).map fun k => f.rdTile l (4 * i + k)))

/-- Whether the state may be written, and with this value. -/
def selWritable (w : DWord) : Bool := decide (selCls w ≠ 5) || decide (selIdx w ∈ [1, 2, 3, 5, 7])
def selValueOk (w v : DWord) : Bool :=
  match selCls w with
  | 4 => let x := BitVec.ofNat 32 v.toNat; !shapeResv x && (!shapeV x || shapeOk x)
  | 5 => decide (selIdx w ≠ 2) || fmodeOk v
  | _ => true

/-- A write of the selected state (R181, R183, R358). -/
def selWrite (f : Flight) (w v : DWord) : Flight :=
  let i := selIdx w; let l := selLane w
  match selCls w with
  | 0 =>
    let f := (f.wrV i l (BitVec.ofNat 32 v.toNat)).unmarkAll (.v i)
    if f.count i = 0#2 then f.setCount i 3#2 else f
  | 1 => f.wrS i v
  | 2 => f.wrP i v
  | 3 => f.wrX i l (BitVec.ofNat 32 (v.toNat % 2 ^ 25))
  | 4 => f.setShape i (BitVec.ofNat 32 v.toNat)
  | 5 =>
    match i with
    | 1 => { f with exm := v &&& f.live }
    | 2 => { f with fmode := v }.reseed
    | 3 => { f with fstat := setFld v 5 11 0 }
    | 5 => { f with rgnc := BitVec.ofNat 32 v.toNat }
    | 7 => { f with symNext := symWrite v }
    | _ => f
  | 6 => f.setCount i (BitVec.ofNat 2 v.toNat)
  | _ => (List.range 4).foldl (fun f k => f.wrTile l (4 * i + k) (BitVec.ofNat 8 (v.toNat / 2 ^ (8 * k)))) f

/-- A write of selected state; EXM is written in both flights of a pair (R416). -/
def State.selWrite (s : State) (f : Flight) (w v : DWord) : State :=
  let s := s.setFlight (Machine.selWrite f w v)
  match s.partner f with
  | some g => if selCls w = 5 ∧ selIdx w = 1 then s.setFlight (Machine.selWrite g w v) else s
  | none => s

def sOp (pos spec : Nat) (kinds : List KTag) (use : Use := .src) : Opnd := { pos, spec, use, kinds }

def selBad (x : CFields) (write : Bool) (c : Ctx) (s : State) : Option (Nat × DWord × Nat) :=
  match s.named c x.a with
  | none => some (1, allOnes, x.a)
  | some f =>
    let w := rdUni c.f x.b
    if !selOk f w || (write && !selWritable w) then some (2, allOnes, x.b)
    else if write && !selValueOk w (rdUni c.f x.c) then some (3, allOnes, x.c) else none

def descTfrd (x : CFields) : Desc :=
  { lcDesc x true true true false (x.mod = 0) [sOp 0 x.d [.s] .dst, sOp 1 x.a [.s], sOp 2 x.b [.s]] with
    chk02 := fun c s => if c.f.isHandler then selBad x false c s else none
    chkPriv := onlyHandler
    lat := .late
    res := fun c s => { writes := match s.named c x.a with | some f => uWrites x.d (selRead f (rdUni c.f x.b)) | none => [] } }

def descTfwr (x : CFields) : Desc :=
  { lcDesc x false true true true (x.mod = 0) [sOp 1 x.a [.s], sOp 2 x.b [.s], sOp 3 x.c [.s]] with
    chk02 := fun c s => if c.f.isHandler then selBad x true c s else none
    chkPriv := onlyHandler
    eff := fun c s => match s.named c x.a with | some f => s.selWrite f (rdUni c.f x.b) (rdUni c.f x.c) | none => s }

def descTfres (x : CFields) : Desc :=
  { lcDesc x false true true false (x.mod < 3) [sOp 1 x.a [.s], sOp 2 x.b [.s, .z]] with
    chk02 := fun c s =>
      if !c.f.isHandler then none
      else match s.named c x.a with
        | none => some (1, allOnes, x.a)
        | some f => if x.mod = 1 ∧ f.region.valid = false then some (4, allOnes, 0) else none
    chkPriv := onlyHandler
    eff := fun c s =>
      match s.named c x.a with
      | some f => (s.resumeFlight f.id x.mod (rdUni c.f x.b).toNat).updFlight c.f.id fun h => { h with resumed := h.resumed ++ [f.id] }
      | none => s }

/-- The frame of the trap that a handler run handles. -/
def State.handledFrame (s : State) (f : Flight) : List DWord :=
  match f.kind with
  | .handler o => (((s.flight? o).bind Flight.trap).map TrapRec.frame).getD []
  | _ => []

def descLkill (x : CFields) : Desc :=
  let own : Bool := match okind x.a with | .zero => true | _ => false
  { lcDesc x false true true false (x.mod = 0) [sOp 1 x.a [.s, .z], sOp 2 x.b [.p, .s]] with
    chk02 := fun c s => if own || !c.f.isHandler then none else namedBad x.a c s
    chkPriv := fun c s => if own then none else onlyHandler c s
    eff := fun c s =>
      let m := rdUni c.f x.b
      if own then s.killLanesOf c.f.id m (s.handledFrame c.f)
      else match s.named c x.a with
        | some f => s.killLanesOf f.id m (s.handledFrame c.f)
        | none => s }

/-! ### LNCH (R361) -/

/-- Its three steps are the release, the copy and the status (event LNCH_RECORD_COPY). -/
def descLnch (x : CFields) : Desc :=
  { lcDesc x true true false false (x.mod = 0) [sOp 0 x.d [.s] .dst, sOp 1 x.a [.s]] with
    dkind := .empty
    region := true
    shadowed := true
    chkPriv := notInHandler
    ext := some fun c _ => [(0, (rdUni c.f x.a).toNat, 0)]
    pre := fun c _ =>
      let a := (rdUni c.f x.a).toNat
      if a % 512 ≠ 0 then .trap { code := 0x12, mask := allOnes, addr := a } else .go
    eff := fun c s =>
      (s.updFlight c.f.id Flight.endRegion).addOp c.f.id fun id =>
        { id, seq := c.seq, pc := c.pc, kind := .lnch, accBase := (rdUni c.f x.a).toNat, dests := (sOp 0 x.d [.s] .dst).destList c.f 0 } }

/-! ### Meanings -/

/-- NOP (R345). -/
def execNop (o : CtlOps) (s : State) : Host.Outcome State Fault Refusal := issue (descNop (ofCtl o)) s
/-- BRA (R347). -/
def execBra (o : BrOps) (s : State) : Host.Outcome State Fault Refusal := issue (descBra (ofBr o)) s
/-- BRC (R347). -/
def execBrc (o : BrOps) (s : State) : Host.Outcome State Fault Refusal := issue (descBrc (ofBr o)) s
/-- JOIN (R350). -/
def execJoin (o : CtlOps) (s : State) : Host.Outcome State Fault Refusal := issue (descJoin (ofCtl o)) s
/-- BRGP (R351). -/
def execBrgp (o : BrOps) (s : State) : Host.Outcome State Fault Refusal := issue (descBrgp (ofBr o)) s
/-- RGJOIN (R353). -/
def execRgjoin (o : CtlOps) (s : State) : Host.Outcome State Fault Refusal := issue (descRgjoin (ofCtl o)) s
/-- CALL (R354). -/
def execCall (o : BrOps) (s : State) : Host.Outcome State Fault Refusal := issue (descCall (ofBr o)) s
/-- RET (R354). -/
def execRet (o : CtlOps) (s : State) : Host.Outcome State Fault Refusal := issue (descRet (ofCtl o)) s
/-- BRI (R349). -/
def execBri (o : CtlOps) (s : State) : Host.Outcome State Fault Refusal := issue (descBri (ofCtl o)) s
/-- EXIT (R355). -/
def execExit (o : CtlOps) (s : State) : Host.Outcome State Fault Refusal := issue (descExit (ofCtl o)) s
/-- TRAP (R356). -/
def execTrap (o : CtlOps) (s : State) : Host.Outcome State Fault Refusal := issue (descTrap (ofCtl o)) s
/-- ERET (R356). -/
def execEret (o : CtlOps) (s : State) : Host.Outcome State Fault Refusal := issue (descEret (ofCtl o)) s
/-- BRK (R356). -/
def execBrk (o : CtlOps) (s : State) : Host.Outcome State Fault Refusal := issue (descBrk (ofCtl o)) s
/-- DEFER (R357). -/
def execDefer (o : CtlOps) (s : State) : Host.Outcome State Fault Refusal := issue (descDefer (ofCtl o)) s
/-- TFRD (R358). -/
def execTfrd (o : CtlOps) (s : State) : Host.Outcome State Fault Refusal := issue (descTfrd (ofCtl o)) s
/-- TFWR (R358). -/
def execTfwr (o : CtlOps) (s : State) : Host.Outcome State Fault Refusal := issue (descTfwr (ofCtl o)) s
/-- TFRES (R359). -/
def execTfres (o : CtlOps) (s : State) : Host.Outcome State Fault Refusal := issue (descTfres (ofCtl o)) s
/-- LKILL (R360). -/
def execLkill (o : CtlOps) (s : State) : Host.Outcome State Fault Refusal := issue (descLkill (ofCtl o)) s
/-- LNCH (R361). -/
def execLnch (o : CtlOps) (s : State) : Host.Outcome State Fault Refusal := issue (descLnch (ofCtl o)) s

end Sys2Proof.Machine
end

