-- ==== Sys2Proof/Machine/Header.lean ====
section
/-! DEFINITION. Clause headers (R222 to R227) and words that are no instruction of their class (R225, R236). -/

namespace Sys2Proof.Machine

/-- Whether a flight may come to a header: as for an instruction, but a header takes no slot (R224). -/
def State.canHeader (s : State) (f : Flight) : Bool :=
  f.isActive && !s.isHeld f && (match f.port with | .free => true | _ => false) && !f.leaving && f.capTrap.isNone && decide (f.nextIssue ≤ s.clock) && !f.bucketParked && !f.crossing

/-- The trap of a header that breaks R224. -/
def headerTrap : TrapInfo := { code := 0x03, cause := 1, mask := allOnes }

/-- Outstanding landing prefetches, counted from their entry into the queue (R224, R316). -/
def Flight.landing (f : Flight) : Bool := f.ops.any Op.land || f.residual.any REntry.land

/-- What a sound header waits for, in its order: WSB, WLAND, and an empty queue before a region (R224). -/
def headerWaits (f : Flight) (w : Word) : Bool :=
  ((List.range 8).any fun k => (hdrWsb w).testBit k && decide (f.token k ≠ 0)) || (hdrWland w && f.landing) || (hdrRgn w && !f.residual.isEmpty)

/-- The clause is entered. -/
def Flight.enterClause (f : Flight) (w : Word) (ws : List Word) : Flight :=
  let f := if hdrRgn w then f.enterRegion else f
  { f with pc := (f.pc + 4) % 2 ^ 48, walkRes := [], blocked := []
           clause := some { cls := hdrCls w, words := ws, left := hdrN w, chk := hdrChk w, def_ := hdrDef w } }

/-- What comes of a header at issue. -/
inductive HeaderGate where
  | enter (w : Word) (ws : List Word)
  | trap (t : TrapInfo)
  | miss (frame : Nat)
  | wait

/-- The header is checked and its clause fetched (R63, R224). -/
def headerGate (f : Flight) (s : State) : HeaderGate :=
  if f.clause.isSome || !s.canHeader f then .wait else
  match s.fetchWord f 0 f.pc with
  | .miss fr => .miss fr
  | .wait => .wait
  | .trap t => .trap t
  | .ok ws =>
    let w := ws.headD 0
    if !hdrOk w then .trap headerTrap else
    match s.fetchInstrs f (hdrN w) 1 ((f.pc + 4) % 2 ^ 48) with
    | .miss fr => .miss fr
    | .wait => .wait
    | .trap t => .trap t
    | .ok ws => if headerWaits f w then .wait else .enter w ws

/-- CLAUSE_HEADER_ISSUE (R224): the header of the flight whose turn it is. -/
def execClauseHeaderIssue (s : State) : Host.Outcome State Fault Refusal :=
  match s.flight? s.cur with
  | none => .next s
  | some f =>
    match headerGate f s with
    | .wait => .next s
    | .miss fr => .next (s.askWalks f.id (s.launchOf f).asid [fr])
    | .trap t => .next (s.raiseTrap f.id t)
    | .enter w ws => .next (({ s with freeCtr := s.freeCtr + freeStride }).setFlight (f.enterClause w ws))

/-- Opcodes of the control-transfer instructions (R225, Table 10-27). -/
def isTransfer (cls : Nat) (w0 : Word) : Bool := decide (cls = 7) && decide (1 ≤ fld w0 1 6) && decide (fld w0 1 6 ≤ 12)
/-- The description of a word that is no instruction: trap 0x01, or trap 0x03 for a short word in a long-only class, or for a control transfer that is not
last, whatever its layout (Table 10-28). -/
def descUndefined (cls : Nat) (w0 : Word) : Desc := { cls, perLane := decide (cls ∈ [1, 2, 3, 5]), encBad := true, transfer := isTransfer cls w0 }

/-- UNDEFINED_INSTRUCTION (R225, R236). -/
def execUndefinedInstruction (cls : BitVec 3) (w0 _w1 : BitVec 32) (s : State) : Host.Outcome State Fault Refusal :=
  if 3 ≤ cls.toNat ∧ w0.getLsbD 0 = false then
    match s.flight? s.cur with
    | none => .fault (.noSuchFlight s.cur)
    | some f =>
      if !s.canIssue f cls.toNat then .next s
      else .next ((s.updFlight f.id Flight.takeRefusals).raiseTrap f.id ((refusalTrap f).getD { code := 0x03, cause := 2, mask := allOnes }))
  else issue (descUndefined cls.toNat w0) s

end Sys2Proof.Machine
end

