-- ==== Sys2Proof/Machine/Land.lean ====
section
/-! DEFINITION. The residual queue at work (R189 to R196): the description of a queued instruction, its run, its trap (R194), the capacity
trap (R195), and the landing of results (R189, R234, R411). -/

namespace Sys2Proof.Machine

open Sys2Proof

/-- The description of an instruction; the rows that are steps of the device have none. -/
def descOf (s : State) (i : Instr) : Option Desc :=
  match i with
  | .sadd o => some (descSadd (ofShort o))
  | .saddLong o => some (descSadd (ofLong o))
  | .ssub o => some (descSsub (ofShort o))
  | .ssubLong o => some (descSsub (ofLong o))
  | .smul o => some (descSmul (ofShort o))
  | .smulLong o => some (descSmul (ofLong o))
  | .smulh o => some (descSmulh (ofShort o))
  | .smulhLong o => some (descSmulh (ofLong o))
  | .smulhn o => some (descSmulhn (ofShort o))
  | .smulhnLong o => some (descSmulhn (ofLong o))
  | .sdiv o => some (descSdiv (ofShort o))
  | .sdivLong o => some (descSdiv (ofLong o))
  | .srem o => some (descSrem (ofShort o))
  | .sremLong o => some (descSrem (ofLong o))
  | .sand o => some (descSand (ofShort o))
  | .sandLong o => some (descSand (ofLong o))
  | .sor o => some (descSor (ofShort o))
  | .sorLong o => some (descSor (ofLong o))
  | .sxor o => some (descSxor (ofShort o))
  | .sxorLong o => some (descSxor (ofLong o))
  | .sshl o => some (descSshl (ofShort o))
  | .sshlLong o => some (descSshl (ofLong o))
  | .sshr o => some (descSshr (ofShort o))
  | .sshrLong o => some (descSshr (ofLong o))
  | .ssra o => some (descSsra (ofShort o))
  | .ssraLong o => some (descSsra (ofLong o))
  | .smin o => some (descSmin (ofShort o))
  | .sminLong o => some (descSmin (ofLong o))
  | .smax o => some (descSmax (ofShort o))
  | .smaxLong o => some (descSmax (ofLong o))
  | .sminn o => some (descSminn (ofShort o))
  | .sminnLong o => some (descSminn (ofLong o))
  | .smaxn o => some (descSmaxn (ofShort o))
  | .smaxnLong o => some (descSmaxn (ofLong o))
  | .scmp o => some (descScmp (ofShort o))
  | .scmpLong o => some (descScmp (ofLong o))
  | .ssel o => some (descSsel (ofLong o))
  | .smov o => some (descSmov (ofShort o))
  | .smovLong o => some (descSmov (ofLong o))
  | .smovi o => some (descSmovi (ofImm true o))
  | .smoviLong o => some (descSmovi (ofLong o))
  | .smovh o => some (descSmovh (ofImm false o))
  | .smovhLong o => some (descSmovh (ofLong o))
  | .slda o => some (descSlda (ofImm false o))
  | .sldaLong o => some (descSlda (ofLong o))
  | .sld o => some (descSld (ofLong o))
  | .sst o => some (descSst (ofLong o))
  | .srd o => some (descSrd (ofImm false o))
  | .srdLong o => some (descSrd (ofLong o))
  | .swr o => some (descSwr (ofImm false o))
  | .swrLong o => some (descSwr (ofLong o))
  | .spopc o => some (descSpopc (ofShort o))
  | .spopcLong o => some (descSpopc (ofLong o))
  | .sclz o => some (descSclz (ofShort o))
  | .sclzLong o => some (descSclz (ofLong o))
  | .saddx o => some (descSaddx (ofLong o))
  | .vlane2s o => some (descVlane2s (ofShort o))
  | .vlane2sLong o => some (descVlane2s (ofLong o))
  | .vadd o => some (descVadd (ofShort o))
  | .vaddLong o => some (descVadd (ofLong o))
  | .vsub o => some (descVsub (ofShort o))
  | .vsubLong o => some (descVsub (ofLong o))
  | .vmul o => some (descVmul (ofShort o))
  | .vmulLong o => some (descVmul (ofLong o))
  | .vmulh o => some (descVmulh (ofShort o))
  | .vmulhLong o => some (descVmulh (ofLong o))
  | .vmad o => some (descVmad (ofLong o))
  | .vand o => some (descVand (ofShort o))
  | .vandLong o => some (descVand (ofLong o))
  | .vor o => some (descVor (ofShort o))
  | .vorLong o => some (descVor (ofLong o))
  | .vxor o => some (descVxor (ofShort o))
  | .vxorLong o => some (descVxor (ofLong o))
  | .vnot o => some (descVnot (ofShort o))
  | .vnotLong o => some (descVnot (ofLong o))
  | .vshl o => some (descVshl (ofShort o))
  | .vshlLong o => some (descVshl (ofLong o))
  | .vshr o => some (descVshr (ofShort o))
  | .vshrLong o => some (descVshr (ofLong o))
  | .vsra o => some (descVsra (ofShort o))
  | .vsraLong o => some (descVsra (ofLong o))
  | .vmin o => some (descVmin (ofShort o))
  | .vminLong o => some (descVmin (ofLong o))
  | .vmax o => some (descVmax (ofShort o))
  | .vmaxLong o => some (descVmax (ofLong o))
  | .vabs o => some (descVabs (ofShort o))
  | .vabsLong o => some (descVabs (ofLong o))
  | .vcmp o => some (descVcmp (ofShort o))
  | .vcmpLong o => some (descVcmp (ofLong o))
  | .vsel o => some (descVsel (ofLong o))
  | .vmov o => some (descVmov (ofShort o))
  | .vmovLong o => some (descVmov (ofLong o))
  | .vmovi o => some (descVmovi (ofImm true o))
  | .vmoviLong o => some (descVmovi (ofLong o))
  | .vbcast o => some (descVbcast (ofShort o))
  | .vbcastLong o => some (descVbcast (ofLong o))
  | .vpopc o => some (descVpopc (ofShort o))
  | .vpopcLong o => some (descVpopc (ofLong o))
  | .vclz o => some (descVclz (ofShort o))
  | .vclzLong o => some (descVclz (ofLong o))
  | .vbfx o => some (descVbfx (ofShort o))
  | .vbfxLong o => some (descVbfx (ofLong o))
  | .vbfi o => some (descVbfi (ofLong o))
  | .vshfl o => some (descVshfl (ofShort o))
  | .vshflLong o => some (descVshfl (ofLong o))
  | .vvote o => some (descVvote (ofShort o))
  | .vvoteLong o => some (descVvote (ofLong o))
  | .vred o => some (descVred (ofShort o))
  | .vredLong o => some (descVred (ofLong o))
  | .vscan o => some (descVscan (ofShort o))
  | .vscanLong o => some (descVscan (ofLong o))
  | .vaddc o => some (descVaddc (ofLong o))
  | .vperm o => some (descVperm (ofShort o))
  | .vpermLong o => some (descVperm (ofLong o))
  | .plog o => some (descPlog (ofShort o))
  | .plogLong o => some (descPlog (ofLong o))
  | .exmset o => some (descExmset (ofShort o))
  | .exmsetLong o => some (descExmset (ofLong o))
  | .exmrd o => some (descExmrd (ofShort o))
  | .exmrdLong o => some (descExmrd (ofLong o))
  | .xset o => some (descXset (ofShort o))
  | .xsetLong o => some (descXset (ofLong o))
  | .xinc o => some (descXinc (ofImm true o))
  | .xincLong o => some (descXinc (ofLong o))
  | .fadd o => some (descFadd (ofShort o))
  | .faddLong o => some (descFadd (ofLong o))
  | .fsub o => some (descFsub (ofShort o))
  | .fsubLong o => some (descFsub (ofLong o))
  | .fmul o => some (descFmul (ofShort o))
  | .fmulLong o => some (descFmul (ofLong o))
  | .ffma o => some (descFfma (ofLong o))
  | .fmin o => some (descFmin (ofShort o))
  | .fminLong o => some (descFmin (ofLong o))
  | .fmax o => some (descFmax (ofShort o))
  | .fmaxLong o => some (descFmax (ofLong o))
  | .fabs o => some (descFabs (ofShort o))
  | .fabsLong o => some (descFabs (ofLong o))
  | .fneg o => some (descFneg (ofShort o))
  | .fnegLong o => some (descFneg (ofLong o))
  | .fcmp o => some (descFcmp (ofShort o))
  | .fcmpLong o => some (descFcmp (ofLong o))
  | .fclass o => some (descFclass (ofShort o))
  | .fclassLong o => some (descFclass (ofLong o))
  | .frcp o => some (descFrcp (ofShort o))
  | .frcpLong o => some (descFrcp (ofLong o))
  | .frsq o => some (descFrsq (ofShort o))
  | .frsqLong o => some (descFrsq (ofLong o))
  | .fsqrt o => some (descFsqrt (ofShort o))
  | .fsqrtLong o => some (descFsqrt (ofLong o))
  | .fdiv o => some (descFdiv (ofShort o))
  | .fdivLong o => some (descFdiv (ofLong o))
  | .fexp2 o => some (descFexp2 (ofShort o))
  | .fexp2Long o => some (descFexp2 (ofLong o))
  | .flog2 o => some (descFlog2 (ofShort o))
  | .flog2Long o => some (descFlog2 (ofLong o))
  | .fsinp o => some (descFsinp (ofShort o))
  | .fsinpLong o => some (descFsinp (ofLong o))
  | .fcosp o => some (descFcosp (ofShort o))
  | .fcospLong o => some (descFcosp (ofLong o))
  | .frnd o => some (descFrnd (ofShort o))
  | .frndLong o => some (descFrnd (ofLong o))
  | .cvtff o => some (descCvtff (ofShort o) s)
  | .cvtffLong o => some (descCvtff (ofLong o) s)
  | .cvtfi o => some (descCvtfi (ofShort o))
  | .cvtfiLong o => some (descCvtfi (ofLong o))
  | .cvtif o => some (descCvtif (ofShort o))
  | .cvtifLong o => some (descCvtif (ofLong o))
  | .cvtblk o => some (descCvtblk (ofLong o) s)
  | .fscale o => some (descFscale (ofShort o))
  | .fscaleLong o => some (descFscale (ofLong o))
  | .fma2 o => some (descFma2 (ofLong o))
  | .fadd2 o => some (descFadd2 (ofShort o))
  | .fadd2Long o => some (descFadd2 (ofLong o))
  | .fmul2 o => some (descFmul2 (ofShort o))
  | .fmul2Long o => some (descFmul2 (ofLong o))
  | .fsmode o => some (descFsmode (ofLong o))
  | .fstat o => some (descFstat (ofLong o))
  | .ld o => some (descLd (ofMem o))
  | .st o => some (descSt (ofMem o))
  | .ldl o => some (descLdl (ofMem o))
  | .stl o => some (descStl (ofMem o))
  | .atom o => some (descAtom (ofMem o))
  | .atoml o => some (descAtoml (ofMem o))
  | .pref o => some (descPref (ofMem o))
  | .land o => some (descLand (ofMem o))
  | .tld o => some (descTld (ofMem o))
  | .tst o => some (descTst (ofMem o))
  | .zflush o => some (descZflush (ofMem o))
  | .zdrop o => some (descZdrop (ofMem o))
  | .zerr o => some (descZerr (ofMem o))
  | .clean o => some (descClean (ofMem o))
  | .inval o => some (descInval (ofMem o))
  | .mma o => some (descMma (ofMat o) s)
  | .mgath o => some (descMgath (ofMat o) s)
  | .mclose o => some (descMclose (ofMat o))
  | .tshp o => some (descTshp (ofMat o))
  | .tzero o => some (descTzero (ofMat o) s)
  | .tmovv o => some (descTmovv (ofMat o) s)
  | .vmovt o => some (descVmovt (ofMat o) s)
  | .tscl o => some (descTscl (ofMat o) s)
  | .tcvt o => some (descTcvt (ofMat o) s)
  | .ainit o => some (descAinit (ofLong o))
  | .afromv o => some (descAfromv (ofLong o))
  | .aadd o => some (descAadd (ofLong o))
  | .asub o => some (descAsub (ofLong o))
  | .ascl o => some (descAscl (ofLong o))
  | .amul o => some (descAmul (ofLong o))
  | .afma o => some (descAfma (ofLong o))
  | .arcp o => some (descArcp (ofLong o))
  | .asqrt o => some (descAsqrt (ofLong o))
  | .acnd o => some (descAcnd (ofLong o))
  | .acoll o => some (descAcoll (ofLong o))
  | .actr o => some (descActr (ofLong o))
  | .arad o => some (descArad (ofLong o))
  | .abnd o => some (descAbnd (ofLong o))
  | .asym o => some (descAsym (ofLong o))
  | .azld o => some (descAzld (ofLong o))
  | .axfer o => some (descAxfer (ofLong o))
  | .bar o => some (descBar (ofSync o))
  | .bara o => some (descBara (ofSync o))
  | .barw o => some (descBarw (ofSync o))
  | .fence o => some (descFence (ofSync o))
  | .semadd o => some (descSemadd (ofSync o))
  | .semwait o => some (descSemwait (ofSync o))
  | .semrd o => some (descSemrd (ofSync o))
  | .semset o => some (descSemset (ofSync o))
  | .mwait o => some (descMwait (ofSync o))
  | .chkwait o => some (descChkwait (ofSync o))
  | .yield o => some (descYield (ofSync o))
  | .waitsb o => some (descWaitsb (ofSync o))
  | .nop o => some (descNop (ofCtl o))
  | .bra o => some (descBra (ofBr o))
  | .brc o => some (descBrc (ofBr o))
  | .join o => some (descJoin (ofCtl o))
  | .brgp o => some (descBrgp (ofBr o))
  | .rgjoin o => some (descRgjoin (ofCtl o))
  | .call o => some (descCall (ofBr o))
  | .ret o => some (descRet (ofCtl o))
  | .bri o => some (descBri (ofCtl o))
  | .exit o => some (descExit (ofCtl o))
  | .trap o => some (descTrap (ofCtl o))
  | .eret o => some (descEret (ofCtl o))
  | .brk o => some (descBrk (ofCtl o))
  | .defer o => some (descDefer (ofCtl o))
  | .tfrd o => some (descTfrd (ofCtl o))
  | .tfwr o => some (descTfwr (ofCtl o))
  | .tfres o => some (descTfres (ofCtl o))
  | .lkill o => some (descLkill (ofCtl o))
  | .lnch o => some (descLnch (ofCtl o))
  | _ => none

/-! ### Landing -/

/-- The queue is discarded. -/
def Flight.dropQueue (f : Flight) : Flight :=
  { f with
    tokens := f.residual.foldl (fun t e => match e.sb with | some k => mset 0 t k (mget 0 t k - 1) | none => t) f.tokens
    residual := [], capTrap := none }

/-- An entry takes a landed register that it waits for. -/
def REntry.capture (g : Flight) (rs : List Reg) (e : REntry) : REntry :=
  (e.waits.filter fun r => decide (r ∈ rs)).foldl (fun e r =>
    let e := { e with waits := e.waits.filter (· ≠ r), marks := e.marks.filter (fun m => decide (m.reg ≠ r)) ++ g.marks.filter fun m => decide (m.reg = r) }
    match r with
    | .v n => { e with v := msets 0 e.v (lanes.map fun l => (64 * n + l, g.rdV n l)) }
    | .s n => { e with s := mset 0 e.s n (g.rdS n) }
    | .p n => { e with p := mset 0 e.p n (g.rdP n) }
    | .x n => { e with x := msets 0 e.x (lanes.map fun l => (64 * n + l, g.rdX n l)) }
    | _ => e) e

/-- Queued entries take registers that an instruction at `seq` has landed, but for those that an entry between them writes (R191). -/
def Flight.landTo (g : Flight) (seq : Nat) (rs : List Reg) : Flight :=
  { g with residual := g.residual.map fun e =>
      REntry.capture g (rs.filter fun r => !g.residual.any fun x => decide (seq < x.seq) && decide (x.seq < e.seq) && decide (r ∈ x.dests)) e }

/-- A trap that a queued instruction raises discards the queue and is resumed by a restart of the region (R194). -/
def State.residualTrap (s : State) (id pc : Nat) (t : TrapInfo) : State :=
  (s.updFlight id Flight.dropQueue).raiseTrap id { t with pc := some (t.pc.getD pc), restart := true }

/-- Trap 0x1A of an instruction whose late results have now been written (R188). -/
def State.crossTrap (s : State) (id : Nat) (o : Op) : State :=
  let t : TrapInfo := { code := 0x1A, cause := 1, mask := 0 }
  match o.crossed with
  | 0 => s
  | 1 => s.raiseTrap id { t with pc := some o.pc }
  | _ => s.residualTrap id o.pc t

/-- An operation's results are written; its registers are no longer pending, and its token falls. -/
def State.landOp (s : State) (id : Nat) (o : Op) (ws : List RegWrite) (ms : List PMark) : State :=
  match s.flight? id with
  | none => s
  | some f =>
    let ws := ws.filter fun w => decide (w.reg ∉ o.lost)
    let g := ws.foldl Flight.regWrite f
    let g := ms.foldl (fun g m => g.mark m.reg m.lane m.pa) g
    let g := g.endOp o
    let g := g.landTo o.seq o.dests
    let s := s.setFlight g
    let s := if o.shared then s.giveShadow g o.seq ws ms else s
    let s := s.killLanesOf id o.kills []
    if g.trap.isSome || g.isEnded then s else s.crossTrap id o

/-! ### Running an entry -/

/-- The flight as a queued instruction sees it: its captured registers and masks. -/
def Flight.asEntry (f : Flight) (e : REntry) : Flight :=
  { f with v := e.v, s := e.s, p := e.p, x := e.x, exm := e.exm &&& f.live, dead := e.dead ||| f.dead, marks := e.marks }

/-- Whether an entry may run: its operands have landed, and it is first of its chain and of the memory entries (R191, R192). -/
def Flight.entryReady (f : Flight) (e : REntry) : Bool :=
  e.waits.isEmpty && f.residual.all fun x =>
    !decide (x.seq < e.seq) || (decide (x.chain ≠ e.chain) && (decide (e.mem = .none) || decide (x.mem = .none)))

/-- What the pair compares of an entry, and whether the shadow's copy is there (R418). -/
def entryPair (d : Desc) (c : Ctx) (e : REntry) (s : State) : Verdict :=
  match c.f.kind, s.partner c.f with
  | .leader, some g =>
    match d.ext with
    | none => if d.shadowed && !lvqRoom c.f g then .hold s else .go
    | some ext =>
      match g.residual.find? fun x => decide (x.seq = e.seq) && g.entryReady x with
      | none => .hold s
      | some ge =>
        let gf := g.asEntry ge
        let gc : Ctx := { c with f := gf, pc := ge.pc, sym := ge.sym }
        let odd := (d.chk02 gc s).isSome || (match lateChecks d gc s (s.afb g) with | .trap _ => true | _ => false)
        Verdict.ofTrap (mismatch d (ext c s) (ext gc s) c.f gf (decide (e.words ≠ ge.words)) (decide (e.pc ≠ ge.pc)) odd)
  | .shadow _, _ => if d.ext.isSome then .hold s else .go
  | _, _ => .go

/-- The entry leaves the queue and its effect is taken. -/
def runEntry (d : Desc) (c : Ctx) (e : REntry) (s : State) : State :=
  match s.flight? c.f.id with
  | none => s
  | some f =>
    let s := ({ s with freeCtr := s.freeCtr + freeStride }).setFlight { f with residual := f.residual.filter fun x => decide (x.id ≠ e.id) }
    let s := runBody d c e.dests [] s
    let s :=
      match d.ext, s.partner f with
      | some _, some g =>
        let s := s.setFlight { (g.subTokenOpt e.sb) with residual := g.residual.filter fun x => decide (x.seq ≠ e.seq) }
        if d.shadowed then s.takeLater g.id e.seq e.pc e.dests none else s
      | _, _ => s
    match s.flight? f.id with
    | none => s
    | some g =>
      /- A register that the entry leaves with nothing to wait for, since no lane takes part, is as it was. -/
      let s := s.setFlight (g.landTo e.seq (e.dests.filter fun r => !g.ops.any fun o => decide (r ∈ o.dests)))
      if !d.quiet && !g.trap.isSome && !g.crossing && fstatCross f.fstat g.fstat then s.residualTrap f.id e.pc { code := 0x1A, cause := 1, mask := 0 } else s

/-- RESIDUAL_ENTRY_RUN (R191): the checks on values, the lane traps and poison of R415, then the effect. -/
def execResidualEntryRun (f i : Nat) (s : State) : Host.Outcome State Fault Refusal :=
  match s.flight? f with
  | none => .next s
  | some x =>
    if s.isHeld x || x.isEnded then .next s else
    match x.residual.find? fun e => decide (e.id = i) && x.entryReady e with
    | none => .next s
    | some e =>
      match e.ins.bind (descOf { s with cur := f }) with
      | none => .next s
      | some d =>
        let s := { s with cur := f }
        let c : Ctx := { f := x.asEntry e, pc := e.pc, seq := e.seq, queued := true, sym := e.sym }
        match d.chk02 c s with
        | some (p, m, sp) => .next (s.residualTrap f e.pc { code := 0x02, cause := p, mask := m, aux := sp })
        | none =>
          match (lateChecks d c s (s.afb x)).andThen fun _ => entryPair d c e s with
          | .trap t => .next (s.residualTrap f e.pc t)
          | .hold s => .next s
          | .go =>
            match if x.isShadow && d.fromLeader then .go else d.room c s with
            | .trap t => .next (s.residualTrap f e.pc t)
            | .hold s => .next s
            | .go => .next (runEntry d c e (s.updFlight f fun y => if (y.waiting 8).isSome then { y with wait := none } else y))

/-- Specifier of a chain's head register. -/
def Reg.spec : Reg → Nat
  | .v n => n
  | .s n => 256 + n
  | .p n => 330 + n
  | .x n => 320 + n
  | .exm => 338
  | .tile n => 355 + n

/-- RESIDUAL_CAPACITY_TRAP (R195): once the queue has emptied. -/
def execResidualCapacityTrap (f : Nat) (s : State) : Host.Outcome State Fault Refusal :=
  match s.flight? f with
  | none => .next s
  | some x =>
    match x.capTrap with
    | none => .next s
    | some (cause, head, len, occ) =>
      if !x.residual.isEmpty || s.isHeld x || x.isEnded then .next s
      else
        let t : TrapInfo := { code := 0x08, cause, mask := allOnes }
        .next ((s.setFlight { x with capTrap := none }).raiseTrap f
          (if x.dstrict then { t with info := len, aux := head.spec, xtra := occ } else t))

end Sys2Proof.Machine
end

