-- ==== Sys2Proof/Machine/Home.lean ====
section
/-! DEFINITION. How one lane's access is performed (R140 to R151, R155 to R163): the order kept within a flight, reads at the views and
at the home, writes applied, atomics (R108 to R113), and decoded blocks (R46 to R50). The steps that use these are events. -/

namespace Sys2Proof.Machine

/-! ### Order within a flight (Table 07-4) -/

def Op.isSem (o : Op) : Bool := decide (o.kind = .semAdd) || decide (o.kind = .semSet) || decide (o.kind = .semRd)
def Access.isOpen (a : Access) : Bool := match a.phase with | .todo => true | .queued => true | _ => false
def overlapping (sp : Space) (pa n : Nat) (a : Access) : Bool := decide (a.space = sp) && decide (a.pa < pa + n) && decide (pa < a.pa + a.size)

/-- The bytes that a tile operation touches, as accesses of one byte. -/
def Op.tileSpots (o : Op) : List Access :=
  (tilePieces (decide (o.code / 2 = 1)) (o.code % 2) (BitVec.ofNat 32 o.sym) o.accBase o.batch).filterMap fun p =>
    (o.acc.find? fun a => decide (a.va = p.1 / 128 * 128)).map fun a => { a with va := p.1, pa := a.pa + p.1 % 128, size := 1 }
/-- Their physical addresses. -/
def tileBytes (o : Op) : List Nat := dedup (o.tileSpots.map Access.pa)

/-- Whether an unfinished operation touches any of `n` bytes. -/
def Op.touches (o : Op) (sp : Space) (pa n : Nat) : Bool :=
  match o.kind with
  | .pref | .mma | .result | .lnch | .fence | .semAdd | .semSet | .semRd | .mgath | .clean => false
  | .tileLoad | .tileStore => decide (sp = .tier) && (tileBytes o).any fun b => decide (pa ≤ b) && decide (b < pa + n)
  | .inval => o.acc.any fun b => b.isOpen && decide (b.space = sp) && decide (lineOf b.pa = lineOf pa)
  | _ => o.acc.any fun b => b.isOpen && overlapping sp pa n b

/-- 4-byte granules of an access, as the residual queue counts them (R192). -/
def Access.granules (a : Access) : List Nat :=
  let base := match a.space with | .loc _ => 2 ^ 64 | _ => 0
  (List.range ((a.va + a.size - 1) / 4 - a.va / 4 + 1)).map fun i => base + a.va / 4 + i

/-- Whether an earlier queued entry holds the access back. -/
def REntry.holds (e : REntry) (a : Access) : Bool :=
  match e.mem with
  | .none => false
  | .fence => true
  | _ => e.acq || (match e.granules with | some g => a.granules.any fun x => decide (x ∈ g) | none => true)

/-- Whether Table 07-4 lets `n` bytes of operation `o` be performed now. -/
def Flight.mayTouch (f : Flight) (o : Op) (a : Access) : Bool :=
  (f.ops.all fun p => !decide (p.seq < o.seq) || !(p.holdsAll || p.touches a.space a.pa a.size))
  && (f.residual.all fun e => !decide (e.seq < o.seq) || !e.holds a)

/-- The same with the lanes of the instruction itself: an overlapping lower lane of a store or an atomic goes first (R109, R144). -/
def Flight.mayPerform (f : Flight) (o : Op) (a : Access) : Bool :=
  f.mayTouch o a && (match o.kind with
    | .store | .atomic => o.acc.all fun b => !(decide (b.lane < a.lane) && b.isOpen && overlapping a.space a.pa a.size b)
    | _ => true)

/-- Whether a write of the flight earlier than `seq` to these bytes is still on its way. -/
def State.ownComing (s : State) (f : Flight) (seq : Nat) (a : Access) : Bool :=
  (f.wq.any fun w => decide (w.seq < seq) && overlapping a.space a.pa a.size w.acc)
  || s.mem.transit.any fun p => decide (p.2.flight = f.id) && decide (p.2.seq < seq) && overlapping a.space a.pa a.size p.2.acc

/-! ### Lanes done -/

def Op.setAcc (o : Op) (a : Access) : Op := { o with acc := o.acc.map fun b => if b.lane = a.lane then a else b }
def Op.lane? (o : Op) (lane : Nat) : Option Access := findBy Access.lane o.acc lane

/-- Operations whose results are written by RESULT_LAND; the others end when their last lane is done. -/
def Op.lands (o : Op) : Bool :=
  match o.kind with
  | .load | .zerr | .azld | .semRd | .fence | .semAdd | .semSet | .clean | .inval | .lnch | .result | .mma | .mgath | .tileLoad => true
  | .atomic => !o.toZero
  | _ => false

/-- What follows when the lanes of an operation are all performed: the discards of an acquire (R152), and the end of an operation
that has no result. -/
def State.settle (s : State) (f opn : Nat) : State :=
  match (s.flight? f).bind fun x => (x.op? opn).map fun o => (x, o) with
  | none => s
  | some (x, o) =>
    if !o.performed then s else
    let s := if isAcq o.ord && !o.acquired && o.kind.isRead then (s.acquire x.core o.scope).updFlight f fun y => y.setOp { o with acquired := true } else s
    if o.lands then s
    else if decide (o.kind = .store) && (x.wq.any fun w => decide (w.op = opn)) then s
    else s.updFlight f fun y => match y.op? opn with | some o => y.endOp o | none => y

/-- A lane's read is performed with its value, or meets poison; the writes it returns are observed at its place (R149). -/
def State.lanePerformed (s : State) (f opn : Nat) (a : Access) (obs : List Nat) : State :=
  (s.updFlight f fun x => match x.op? opn with
    | some o => { x.setOp (o.setAcc a) with obs := obs.foldl (noteObs o.seq) x.obs }
    | none => x).settle f opn

/-- A lane without a destination is refused (R412). -/
def State.refuse (s : State) (f opn : Nat) (a : Access) (sec pc : Nat) : State :=
  let s := s.updFlight f fun x => { x with refused := x.refused ++ [⟨a.lane, sec, pc⟩] }
  s.lanePerformed f opn { a with phase := .refused, pois := some sec } []

/-! ### Reads (R143, R151) -/

/-- A byte of a write in a queue. -/
def Wr.byteAt (w : Wr) (sp : Space) (pa : Nat) : Option Byte :=
  if overlapping sp pa 1 w.acc then some (BitVec.ofNat 8 (w.acc.data / 2 ^ (8 * (pa - w.acc.pa)))) else none
/-- Bytes of an access that come from the flight's write queue, youngest write first. -/
def Flight.forwarded (f : Flight) (a : Access) : List (Option Byte) :=
  (List.range a.size).map fun i => f.wq.reverse.findSome? fun w => w.byteAt a.space (a.pa + i)
/-- What a read returns when every byte of it comes from the write queue (item 1 of R143). -/
def Flight.ownValue (f : Flight) (a : Access) : Option Nat :=
  let fw := f.forwarded a
  if fw.all Option.isSome then some (ofLe (fw.map fun b => b.getD 0)) else none
/-- A value with the forwarded bytes over the ones read. -/
def overlay (fw : List (Option Byte)) (n : Nat) : Nat := ofLe ((enum fw).map fun (i, b) => b.getD (BitVec.ofNat 8 (n / 2 ^ (8 * i))))

/-- Scope of an operation's acquire, 0 for none. -/
def Op.acqScope (o : Op) : Nat := if isAcq o.ord then o.scope else 0

/-- Whether the home serves a request now, must first be filled, or lets it wait (R80, R157, R15). -/
inductive HomeNow where
  | ready
  | miss
  | wait
  deriving DecidableEq, Repr

def State.homeNow (s : State) (pa : Nat) (need : BitVec 4) : HomeNow :=
  if s.homeMoves pa then .wait
  else match s.l2? (lineOf pa) with
  | none => .miss
  | some x => if x.owner.isSome then .wait else if x.filling then .miss else if need &&& ~~~x.valid = 0 then .ready else .miss

/-- A request joins the waiting list of a pending fill. -/
def State.joinFill (s : State) (line : Nat) (r : HomeReq) : State :=
  let x := (s.l2? line).getD (L2Line.empty line)
  s.setL2 { x with filling := true, waiting := x.waiting ++ [r] }

def State.lanePhase (s : State) (f opn lane : Nat) (p : Phase) : State :=
  s.updFlight f fun x => match x.op? opn with
    | some o => (match o.lane? lane with | some a => x.setOp (o.setAcc { a with phase := p }) | none => x)
    | none => x

/-- Sectors of an access that are not poisoned. -/
def State.cleanMask (s : State) (line : Nat) (m : BitVec 4) : BitVec 4 :=
  (List.range 4).foldl (fun m i => if s.secPoisoned (4 * line + i) then m &&& ~~~BitVec.ofNat 4 (2 ^ i) else m) m

/-- The peer predictor of a core: an entry, and an entry set or cleared (R83). -/
def predKey (core pa : Nat) : Nat := 256 * core + nbits pa 7 8
def State.predict (s : State) (core pa : Nat) : Option Nat := let p := mget 0 s.mem.pred (predKey core pa); if p = 0 then none else some (p - 1)
def State.train (s : State) (core pa peer : Nat) : State := { s with mem := { s.mem with pred := mset 0 s.mem.pred (predKey core pa) (peer + 1) } }
def State.untrain (s : State) (core pa : Nat) : State := { s with mem := { s.mem with pred := mset 0 s.mem.pred (predKey core pa) 0 } }
/-- Training by the last-reader field, which holds a core plus 1. -/
def State.trainBy (s : State) (core pa field : Nat) : State :=
  if field ≠ 0 ∧ field - 1 ≠ core ∧ clusterOf (field - 1) = clusterOf core then s.train core pa (field - 1) else s

/-- A line comes into a core view from the home. -/
def State.l1FromHome (s : State) (core line : Nat) (m : BitVec 4) (ro : Bool) (hint : Nat) : State :=
  if hint = 2 then s else s.putL1 (s.copyFrom (s.l1Copy core line) (dieOf core) core line (s.cleanMask line m) ro 0 hint)
/-- The same from another copy. -/
def State.l1FromCopy (s : State) (core : Nat) (c : LineCopy) (m : BitVec 4) (ro : Bool) (hint : Nat) : State :=
  if hint = 2 then s else s.putL1 (c.copyTo (s.l1Copy core c.line) core m ro 0 hint)

/-- A prefetched lane holds no value. -/
def Op.noValue (o : Op) : Bool := decide (o.kind = .pref)
/-- Whether the lane brings its line into the core view. -/
def Op.fillsL1 (o : Op) : Bool := !(o.noValue && decide (o.code = 1))

/-- What a read observes: the writers of its bytes, and what an acquire read takes from releases (R149, R154). -/
def State.seen (s : State) (f : Flight) (o : Op) (order ws : List Nat) : List Nat :=
  if isAcq o.ord then ws ++ s.acquired f o.scope order ws else ws
def State.homeWriters (s : State) (pa n : Nat) : List Nat := dedup ((List.range n).map fun i => mget 0 s.mem.writer (pa + i))
def State.lineOrder (s : State) (k : Nat) : List Nat := mget [] s.mem.rels k

/-- A far-line copy filled from the home by a fill sent under FGEN `gen`: a copy of the present generation is not replaced by an older fill, and
the last-reader field stays with the way unless a read-only request sets it (R83, R87, R88). -/
def State.fillFar (s : State) (core line gen : Nat) (ro : Bool) : State :=
  let d := dieOf core
  let old := s.farCopy d line
  if old.isSome ∧ gen ≠ s.fgen d then s
  else
    let reader := if ro then core + 1 else (old.map LineCopy.reader).getD 0
    s.putFar { s.copyFrom old d d line (s.cleanMask line 15) false gen 0 with reader }

/-- A read served at the home (item 5 of R143); `gen` is the FGEN under which it was sent. -/
def State.readHome (s : State) (f : Flight) (o : Op) (a : Access) (gen : Nat) : State :=
  let line := lineOf a.pa
  let d := dieOf f.core
  let m := secMask (a.pa % 128) a.size
  let off := decide (s.homeDie a.pa ≠ d)
  let bad := if o.noValue then none else s.poisonIn a.pa a.size
  let got := overlay (f.forwarded a) (s.homeBytes a.pa a.size)
  let obs := s.seen f o (s.lineOrder line) (s.homeWriters a.pa a.size)
  let far := off && decide (s.flways d ≠ 0) && decide (o.acqScope < 4)
  let field := if far then ((s.farCopy d line).map LineCopy.reader).getD 0 else match s.l2? line with | some x => x.reader | none => 0
  let s := if a.ro && !off then (match s.l2? line with | some x => s.setL2 { x with reader := f.core + 1 } | none => s) else s
  let s := if a.ro && (far || !off) then s.trainBy f.core a.pa field else s
  let s := if far then s.fillFar f.core line gen a.ro else s
  let s := if o.fillsL1 then s.l1FromHome f.core line m a.ro o.hint else s
  match bad with
  | some p => s.lanePerformed f.id o.id { a with phase := .done, pois := some p } []
  | none => s.lanePerformed f.id o.id { a with phase := .done, got } obs

/-- A read served by a copy. -/
def State.readCopy (s : State) (f : Flight) (o : Op) (a : Access) (c : LineCopy) : State :=
  let off := a.pa % 128
  s.lanePerformed f.id o.id { a with phase := .done, got := overlay (f.forwarded a) (c.read off a.size) }
    (s.seen f o (s.lineOrder a.lineKey) (c.writers off a.size))

/-- Whether an earlier write of the die to the line is still in its transit set (R144). -/
def State.inTransit (s : State) (d : Nat) (a : Access) : Bool :=
  s.mem.transit.any fun p => decide (p.1 = d) && decide (p.2.acc.space = a.space) && decide (lineOf p.2.acc.pa = lineOf a.pa)

/-- A read of a tier line beyond the core view: the die view, then the home. -/
def State.readBeyond (s : State) (f : Flight) (o : Op) (a : Access) : State :=
  let d := dieOf f.core
  let line := lineOf a.pa
  let m := secMask (a.pa % 128) a.size
  let home := s.homeDie a.pa
  let far := if home = d ∨ 4 ≤ o.acqScope then none else (s.farCopy d line).bind fun c => if c.has (a.pa % 128) a.size then some c else none
  match far with
  | some c =>
    let s := if a.ro then (s.putFar { c with reader := f.core + 1 }).trainBy f.core a.pa c.reader else s
    let s := if o.fillsL1 then s.l1FromCopy f.core c m a.ro o.hint else s
    s.readCopy f o a c
  | none =>
    if home ≠ d ∧ s.inTransit d a then s
    else match s.homeNow a.pa m with
      | .wait => s
      | .miss => (s.joinFill line (.read f.id o.id a.lane (s.fgen d))).lanePhase f.id o.id a.lane .queued
      | .ready => s.readHome f o a (s.fgen d)

/-- A request that the peer predictor may steer (R83): an LD, a LAND or a PREF; an SLD has a code from 16 on. -/
def probed (o : Op) (a : Access) : Bool :=
  ((decide (o.kind = .load) && decide (o.code < 16)) || decide (o.kind = .pref)) && a.ro && !isAcq o.ord && decide (a.space = .tier)

/-- A read of a tier line. -/
def State.readTier (s : State) (f : Flight) (o : Op) (a : Access) : State :=
  let c := if 2 ≤ o.acqScope then none else (s.l1Copy f.core (lineOf a.pa)).bind fun c => if c.has (a.pa % 128) a.size then some c else none
  match c with
  | some c => s.readCopy f o a c
  | none =>
    if probed o a && (s.predict f.core a.pa).isSome then s else s.readBeyond f o a

/-- A read of a window line at its system point (R143; log 42). -/
def State.readSystem (s : State) (f : Flight) (o : Op) (a : Access) : State :=
  s.lanePerformed f.id o.id { a with phase := .done, got := overlay (f.forwarded a) (s.homeBytes a.pa a.size) }
    (s.seen f o (s.lineOrder (lineOf a.pa)) (s.homeWriters a.pa a.size))

/-- A read of local memory; an allocation that is gone gives no stated value. -/
def State.readLocal (s : State) (f : Flight) (o : Op) (a : Access) (wg : Nat) : State :=
  match s.wg? wg with
  | some w =>
    s.lanePerformed f.id o.id { a with phase := .done, got := overlay (f.forwarded a) (cellsGet w.mem a.pa a.size) }
      (s.seen f o (mget [] w.rels (lineOf a.pa)) (w.writersOf a.pa a.size))
  | none =>
    let (x, s) := s.free
    s.lanePerformed f.id o.id { a with phase := .done, got := overlay (f.forwarded a) (x % 2 ^ (8 * a.size)) } []

/-! ### Writes -/

/-- Bytes of a write. -/
def Wr.bytes (w : Wr) : List Byte := leBytes w.acc.size w.acc.data
/-- Sectors of its line that the lanes of a store together cover (R8, R80). -/
def Op.covers (o : Op) (a : Access) : BitVec 4 :=
  if a.space ≠ .tier then 0 else
  let mine := o.acc.filter fun b => decide (b.space = .tier) && decide (lineOf b.pa = lineOf a.pa)
  (List.range 4).foldl (fun (m : BitVec 4) i =>
    if (List.range 32).all fun j => mine.any fun b => decide (b.pa ≤ lineOf a.pa * 128 + 32 * i + j) && decide (lineOf a.pa * 128 + 32 * i + j < b.pa + b.size)
    then m ||| BitVec.ofNat 4 (2 ^ i) else m) 0
/-- Other lanes of the write's store that touch a range and are still to be applied. -/
def State.matesLeft (s : State) (w : Wr) (pa n : Nat) : Bool :=
  let mine (v : Wr) : Bool := decide (v.flight = w.flight) && decide (v.op = w.op) && decide (v.id ≠ w.id) && overlapping .tier pa n v.acc
  (match s.flight? w.flight with
   | some x => x.wq.any mine || (match x.op? w.op with | some o => o.acc.any fun a => a.isOpen && overlapping .tier pa n a | none => false)
   | none => false) || s.mem.transit.any fun p => mine p.2
/-- How a lane's write stands to a sector: the lanes of its store count as one write (R8, log 75). -/
def State.coverBy (s : State) (w : Wr) (sec : Nat) : Cover :=
  if w.full.getLsbD (sec % 4) then (if s.matesLeft w (sec * 32) 32 then .among else .whole) else .part
/-- A store of all 128 bytes of a line needs no fill, unless one is pending (R80). -/
def State.noFill (s : State) (w : Wr) : Bool :=
  decide (w.full = 15) && (match s.l2? (lineOf w.acc.pa) with | some x => !x.filling | none => true)
/-- A way allocated whole and dirty by such a store, with its last lane. -/
def State.allocWhole (s : State) (w : Wr) : State :=
  if s.noFill w ∧ !s.matesLeft w (w.acc.pa / 128 * 128) 128 then
    let s := s.fillLine (lineOf w.acc.pa)
    match s.l2? (lineOf w.acc.pa) with | some x => s.setL2 { x with dirty := 15 } | none => s
  else s
/-- A write applied at its home or system point. -/
def State.applyHome (s : State) (w : Wr) : State :=
  (s.homeWriteBy w.id w.acc.pa w.bytes (s.coverBy w)).noteWrite (lineOf w.acc.pa) w.id (decide (w.rel ≠ 0))

/-- The allocation that a window write reaches: its target, or one that has since taken its tag on its core (R102). -/
def State.tagged (s : State) (wg core tag : Nat) : Option Workgroup :=
  match s.wg? wg with
  | some g => if tag ≠ 0 ∧ tag ≠ g.tag then none else some g
  | none => if tag = 0 then none else s.wgs.find? fun g => decide (g.core = core) && decide (g.tag = tag)
/-- Bytes written to an allocation by write `w`; bytes beyond its end, which only a tag's recurrence can give, are lost (log 76). -/
def State.localWrite (s : State) (g : Workgroup) (off : Nat) (bytes : List Byte) (w : Nat) (rel : Bool) : State :=
  s.locPut g.id off (bytes.take (g.size - off)) w rel
/-- A write applied to an allocation; a tag that no longer matches drops it, with a report (R102). -/
def State.applyLocal (s : State) (w : Wr) (wg : Nat) : State :=
  match s.tagged wg w.acc.core w.acc.tag with
  | some g => s.localWrite g w.acc.pa w.bytes w.id (decide (w.rel ≠ 0))
  | none => s.report 17 (dieOf w.core) w.core ((s.flight? w.flight).bind fun f => s.launch? f.launch) [0, w.acc.va] []

/-- A store updates the present sectors of the issuing core's copy, which becomes the next victim under hint 1 (R95, R97). -/
def State.updateL1 (s : State) (core : Nat) (w : Wr) : State :=
  match s.l1Copy core w.acc.lineKey with
  | some c =>
    let c := c.update w.id (w.acc.pa % 128) w.bytes
    s.putL1 (if w.hint = 1 then { c with hint := 1 } else c)
  | none => s
/-- And of its die's far-line copy (R87). -/
def State.updateFar (s : State) (core : Nat) (w : Wr) : State :=
  match s.farCopy (dieOf core) (lineOf w.acc.pa) with
  | some c => s.putFar (c.update w.id (w.acc.pa % 128) w.bytes)
  | none => s

/-- A write leaves its write queue, with the Before set of a release. -/
def State.leaveQueue (s : State) (w : Wr) (before : List Nat) : State :=
  let s := s.noteRelease w.id w.rel (((s.flight? w.flight).map Flight.wg).getD 0) w.core before
  s.updFlight w.flight fun f => { f with wq := f.wq.filter fun x => decide (x.id ≠ w.id) }

/-! ### Atomics (R111 to R113) -/

/-- An FP add under R112. -/
def atomAdd (F : Fmt) (a b : Nat) : Nat := (finish F 1 false 0 (fAdd F 1 (F.decode a) (F.decode b))).1.bits
def atomMinMax (max : Bool) (a b : Nat) : Nat := (finish fp32 1 false 0 (fMinMax fp32 max true (fp32.decode a) (fp32.decode b))).1.bits

/-- The new value of an operand (Table 05-6); the two-wide codes are done by halves. -/
def atomNew (code old op op2 : Nat) : Nat :=
  let w := 8 * atomSize code
  let sMin (a b : Nat) : Nat := if sgn w a ≤ sgn w b then a else b
  let sMax (a b : Nat) : Nat := if sgn w a ≤ sgn w b then b else a
  match code with
  | 0 | 1 | 2 | 3 => (old + op) % 2 ^ w
  | 4 => atomAdd fp32 old op
  | 5 => atomAdd fp64 old op
  | 8 | 10 => sMin old op
  | 9 | 11 => min old op
  | 12 => atomMinMax false old op
  | 16 | 18 => sMax old op
  | 17 | 19 => max old op
  | 20 => atomMinMax true old op
  | 24 | 25 => old &&& op
  | 26 | 27 => old ||| op
  | 28 | 29 => old ^^^ op
  | 32 | 33 => op
  | 34 | 35 => if old = op then op2 else old
  | 36 => if op ≤ old then 0 else old + 1
  | 37 => if old = 0 ∨ op < old then op else old - 1
  | _ => old

/-- A half of a two-wide add. -/
def atomHalf (code old op half : Nat) : Nat :=
  let F := if code = 6 then bf16 else fp16
  let sh := 16 * half
  putBits old sh 16 (atomAdd F (nbits old sh 16) (nbits op sh 16))

/-- What one Atomic step makes of the operand: the new operand, and the lane. -/
def atomLane (o : Op) (a : Access) (old : Nat) : Nat × Access :=
  if atomTwoWide o.code then
    let got := putBits a.got (16 * a.half) 16 (nbits old (16 * a.half) 16)
    (atomHalf o.code old a.data a.half, { a with got, half := a.half + 1, phase := if a.half = 0 then .todo else .done })
  else (atomNew o.code old a.data a.data2, { a with got := old, phase := .done })

/-- Copies discarded by an atomic or a tile step (R108, R159). -/
def State.discardOwn (s : State) (core line : Nat) : State := (s.dropL1 core line).dropFar (dieOf core) line

/-- The write part of an atomic or a tile store: a fresh write, remembered with its Before set when it is a release. -/
def State.stepWriter (s : State) (f : Flight) (o : Op) : Nat × State :=
  let (id, s) := s.fresh
  (id, s.noteRelease id (if isRel o.ord then o.scope else 0) f.wg f.core (s.beforeOf f o.seq))

/-- An Atomic step at the home or the system point. -/
def State.atomHome (s : State) (f : Flight) (o : Op) (a : Access) : State :=
  match if a.space = .tier then s.poisonIn a.pa a.size else none with
  | some p =>
    if o.toZero then s.refuse f.id o.id a p o.pc
    else s.lanePerformed f.id o.id { a with phase := .done, pois := some p } []
  | none =>
    let old := s.homeBytes a.pa a.size
    let obs := s.seen f o (s.lineOrder (lineOf a.pa)) (s.homeWriters a.pa a.size)
    let (v, b) := atomLane o a old
    let (wid, s) := s.stepWriter f o
    let s := (s.homeWrite wid a.pa (leBytes a.size v)).noteWrite (lineOf a.pa) wid (isRel o.ord)
    (s.discardOwn f.core (lineOf a.pa)).lanePerformed f.id o.id b obs

/-- An Atomic step at an allocation (R110); a window target with another tag returns 0 (R313). -/
def State.atomLocal (s : State) (f : Flight) (o : Op) (a : Access) (wg : Nat) : State :=
  let drop (s : State) : State :=
    (s.report 17 (dieOf f.core) f.core (s.launch? f.launch) [0, a.va] []).lanePerformed f.id o.id { a with phase := .done, got := 0 } []
  match s.tagged wg a.core a.tag with
  | none => drop s
  | some w =>
    let (v, b) := atomLane o a (cellsGet w.mem a.pa a.size)
    let obs := s.seen f o (mget [] w.rels (lineOf a.pa)) (w.writersOf a.pa a.size)
    let (wid, s) := s.stepWriter f o
    (s.localWrite w a.pa (leBytes a.size v) wid (isRel o.ord)).lanePerformed f.id o.id b obs

/-! ### Decoded blocks (R46 to R50) -/

/-- Blocks and places of the elements that `n` view bytes cover. -/
def ZRegion.spots (z : ZRegion) (off n : Nat) : List (Nat × Nat) := (List.range ((n + z.esize - 1) / z.esize)).map fun i => z.place (off / z.esize + i)
def ZRegion.blocksOf (z : ZRegion) (off n : Nat) : List Nat := dedup ((z.spots off n).map Prod.fst)

def Block.isDecoded (b : Block) : Bool := match b.st with | .clean => true | .dirty => true | _ => false
/-- The element at a place of a decoded block. -/
def State.elemIn (s : State) (asid zr : Nat) (p : Nat × Nat) : Nat := ((s.block? asid zr p.1).map fun b => b.elems.getD p.2 0).getD 0
def listSet (l : List Nat) (i x : Nat) : List Nat := (enum l).map fun (j, y) => if j = i then x else y

/-- An element stored (R46, R50). -/
def State.putElem (s : State) (z : ZRegion) (asid zr wid : Nat) (p : Nat × Nat) (x : Nat) : State :=
  match s.block? asid zr p.1 with
  | none => s
  | some b =>
    let stored := if p.2 ∈ b.stored then b.stored else b.stored ++ [p.2]
    let whole := (List.range z.n).all fun i => !z.real b.blk i || decide (i ∈ stored)
    s.putBlock { b with st := .dirty, elems := listSet b.elems p.2 x, wids := mset 0 b.wids p.2 wid, stored,
                        pois := if whole then none else b.pois }

/-- Poison that an access of decoded blocks meets. -/
def State.blockPoison (s : State) (z : ZRegion) (asid zr off n : Nat) : Option Nat :=
  (z.blocksOf off n).findSome? fun b => (s.block? asid zr b).bind Block.pois

/-- The bytes of view elements, as a number. -/
def State.viewBytes (s : State) (z : ZRegion) (asid zr off n : Nat) : Nat :=
  let es := z.esize
  ofLe (((z.spots off n).flatMap fun p => leBytes es (s.elemIn asid zr p)).take n)

/-- The sector of a view around `off` comes into a core view, when every block it shows is decoded and none is poisoned. -/
def State.viewFill (s : State) (z : ZRegion) (asid zr core off hint : Nat) : State :=
  let lo := off / 32 * 32
  let n := min 32 (z.elemCount * z.esize - lo)
  let ok := (z.blocksOf lo n).all fun b => match s.block? asid zr b with | some b => b.isDecoded && b.pois.isNone | none => false
  if hint = 2 || !ok then s
  else
    let line := viewLine asid zr off
    let c0 : LineCopy := (s.l1Copy core line).getD { unit := core, line, valid := 0, ro := false, gen := 0, hint, bytes := [], wids := [], reader := 0 }
    let sec := off % 128 / 32
    let writer (p : Nat × Nat) : Nat := ((s.block? asid zr p.1).map fun b => mget 0 b.wids p.2).getD 0
    let c := (enum (leBytes 32 (s.viewBytes z asid zr lo n))).foldl (fun (c : LineCopy) (i, b) =>
      { c with bytes := mset blankByte c.bytes (32 * sec + i) b,
               wids := mset 0 c.wids (32 * sec + i) (if i < n then writer (z.place ((lo + i) / z.esize)) else 0) }) c0
    s.putL1 { c with valid := c.valid ||| BitVec.ofNat 4 (2 ^ sec), hint }

/-- L1 lines of a block's elements. -/
def State.dropBlockLines (s : State) (z : ZRegion) (asid zr blk core : Nat) : State :=
  (dedup (((List.range z.n).filter fun i => z.real blk i).map fun i => viewLine asid zr (z.elemAt blk i * z.esize))).foldl (fun s l => s.dropL1 core l) s

/-- Writers of the elements that an access covers. -/
def State.elemWriters (s : State) (z : ZRegion) (asid zr : Nat) (a : Access) : List Nat :=
  (z.spots a.pa a.size).map fun p => ((s.block? asid zr p.1).map fun b => mget 0 b.wids p.2).getD 0

/-- A view read, ZERR or AZLD lane performed on decoded blocks. -/
def State.viewRead (s : State) (f : Flight) (o : Op) (a : Access) (asid zr : Nat) : State :=
  let z := s.zr asid zr
  match if o.noValue then none else s.blockPoison z asid zr a.pa a.size with
  | some p => s.lanePerformed f.id o.id { a with phase := .done, pois := some p } []
  | none =>
    let got := overlay (f.forwarded a) (s.viewBytes z asid zr a.pa a.size)
    let bound := ((s.block? asid zr (z.place (a.pa / z.esize)).1).map Block.bound).getD 0
    let obs := s.seen f o (s.lineOrder a.lineKey) (s.elemWriters z asid zr a)
    let isLoad := decide (o.kind = .load) || decide (o.kind = .pref)
    let s := if isLoad && o.fillsL1 then s.viewFill z asid zr f.core a.pa o.hint else s
    match o.kind with
    | .zerr => s.lanePerformed f.id o.id { a with phase := .done, got := bound.toNat } obs
    | _ => s.lanePerformed f.id o.id { a with phase := .done, got, data2 := bound.toNat } obs

/-- An atomic on a view element (R49, R50). -/
def State.viewAtomic (s : State) (f : Flight) (o : Op) (a : Access) (asid zr : Nat) : State :=
  let z := s.zr asid zr
  match s.blockPoison z asid zr a.pa a.size with
  | some p => if o.toZero then s.refuse f.id o.id a p o.pc else s.lanePerformed f.id o.id { a with phase := .done, pois := some p } []
  | none =>
    let p := z.place (a.pa / z.esize)
    let (v, b) := atomLane o a (s.elemIn asid zr p)
    let obs := s.seen f o (s.lineOrder a.lineKey) (s.elemWriters z asid zr a)
    let (wid, s) := s.stepWriter f o
    (((s.putElem z asid zr wid p v).noteWrite a.lineKey wid (isRel o.ord)).dropL1 f.core (viewLine asid zr a.pa)).lanePerformed f.id o.id b obs

/-- A view store performed on decoded blocks: it leaves its write queue. -/
def State.viewStore (s : State) (w : Wr) (asid zr : Nat) : State :=
  let z := s.zr asid zr
  let s := (enum (z.spots w.acc.pa w.acc.size)).foldl (fun s (i, p) =>
    s.putElem z asid zr w.id p (nbits w.acc.data (8 * z.esize * i) (8 * z.esize))) s
  let before := match s.flight? w.flight with | some f => if w.rel = 0 then [] else s.beforeOf f w.seq | none => []
  let s := s.noteWrite w.acc.lineKey w.id (decide (w.rel ≠ 0))
  ((s.updateL1 w.core w).leaveQueue w before).settle w.flight w.op

def State.wr? (s : State) (w : Nat) : Option Wr := s.flights.findSome? fun f => findBy Wr.id f.wq w

/-- Code of a block to be written by its Encode steps. -/
def Block.code (b : Block) (z : ZRegion) : List Host.Cell := (enum (encodeBlock z (b.toEncode z))).map fun (i, x) => (z.codeAt b.blk + i, x)

/-- Lanes of a ZFLUSH or ZDROP that name one block: they act on it once (R319). -/
def State.flushMates (s : State) (o : Op) (asid zr blk : Nat) : List Access :=
  o.acc.filter fun a => a.isOpen && decide (a.space = .view asid zr) && decide (((s.zr asid zr).blocksOf a.pa a.size).headD 0 = blk)
/-- They are done together. -/
def State.flushDone (s : State) (f opn asid zr blk : Nat) : State :=
  match (s.flight? f).bind fun x => x.op? opn with
  | some o => (s.flushMates o asid zr blk).foldl (fun s a => s.lanePerformed f opn { a with phase := .done } []) s
  | none => s

/-- Requests of a waiting list served in order (R46); a flush of a dirty block starts its encode and a drop empties it, and what is left
waits. -/
def State.serve (s : State) (asid zr blk : Nat) : List HomeReq → State
  | [] => s
  | r :: rest =>
    let z := s.zr asid zr
    let lane? (f opn lane : Nat) : Option (Flight × Op × Access) :=
      (s.flight? f).bind fun x => (x.op? opn).bind fun o => (o.lane? lane).map fun a => (x, o, a)
    match s.block? asid zr blk with
    | none => s
    | some b =>
      match r with
      | .read f opn lane _ => ((match lane? f opn lane with | some (x, o, a) => s.viewRead x o a asid zr | none => s)).serve asid zr blk rest
      | .atomic f opn lane => ((match lane? f opn lane with | some (x, o, a) => s.viewAtomic x o a asid zr | none => s)).serve asid zr blk rest
      | .write _ w _ => ((match s.wr? w with | some w => s.viewStore w asid zr | none => s)).serve asid zr blk rest
      | .flush f opn _ drop =>
        let core := ((s.flight? f).map Flight.core).getD 0
        let s := s.dropBlockLines z asid zr blk core
        let finish (s : State) : State := s.flushDone f opn asid zr blk
        if drop then
          let s := finish (s.dropBlock asid zr blk)
          if rest.isEmpty then s
          else s.putBlock { b with st := .fill, elems := [], wids := [], pois := none, stored := [], bound := 0, waiting := rest, todo := [] }
        else if b.st = .dirty then s.putBlock { b with st := .enc true, waiting := r :: rest, todo := b.code z }
        else (finish s).serve asid zr blk rest

/-- A request comes to its home slice's block: served, or joined to the waiting list of a fill, or left waiting for the lock. -/
def State.blockRequest (s : State) (asid zr : Nat) (blks : List Nat) (r : HomeReq) (queue : State → State) : State :=
  let z := s.zr asid zr
  let blank (blk : Nat) (ws : List HomeReq) : Block :=
    { asid, zr, blk, st := .fill, elems := [], wids := [], pois := none, stored := [], bound := 0, waiting := ws, todo := [] }
  if z.valid = false then s else
  match blks with
  | [blk] =>
    match s.block? asid zr blk with
    | none =>
      (match r with
       | .flush f opn _ _ => (s.dropBlockLines z asid zr blk (((s.flight? f).map Flight.core).getD 0)).flushDone f opn asid zr blk
       | _ => queue (s.putBlock (blank blk [r])))
    | some b =>
      match b.st with
      | .fill => queue (s.putBlock { b with waiting := b.waiting ++ [r] })
      | .enc _ => s
      | _ => s.serve asid zr blk [r]
  | _ =>
    let absent := blks.filter fun b => (s.block? asid zr b).isNone
    if !absent.isEmpty then absent.foldl (fun s b => s.putBlock (blank b [])) s
    else if blks.all fun b => match s.block? asid zr b with | some b => b.isDecoded | none => false then s.serve asid zr (blks.headD 0) [r]
    else s

end Sys2Proof.Machine
end

