-- ==== Sys2Proof/Machine/Zreg.lean ====
section
/-! DEFINITION. Z-region entries (R25 to R30) and the steps of a decoded block (R46, R47, R50): decode done, eviction, encode. -/

namespace Sys2Proof.Machine

/-! ### Entries -/

/-- Bytes of the tier from `pa` to its end; none outside both tiers. -/
def tierRoom (pa : Nat) : Option Nat :=
  if pa < 0x3000000000 then some (0x3000000000 - pa)
  else if 0x10000000000 ≤ pa ∧ pa < 0x20000000000 then some (0x20000000000 - pa) else none

/-- First failing check of Table 02-4 for entry `n` of an address space, 0 for none. -/
def State.zrCheck (s : State) (asid n : Nat) (z : ZRegion) : Nat :=
  if 1 ≤ z.dims ∧ rateOk z.wide z.dims z.rate = false then 1
  else if z.dims = 0 ∨ z.nx = 0 ∨ z.ny = 0 ∨ z.nz = 0 ∨ (z.dims = 1 ∧ z.ny ≠ 1) ∨ (z.dims ≤ 2 ∧ z.nz ≠ 1) then 2
  else if (match tierRoom z.cbase with | some r => decide (r < z.codeLen) | none => true) then 3
  else if s.validZrs.any fun (a, m) =>
      !(decide (a = asid) && decide (m = n)) &&
      (let y := s.zr a m
       (decide (a = asid) && rangesMeet z.vbase z.viewLen y.vbase y.viewLen) || rangesMeet z.cbase z.codeLen y.cbase y.codeLen) then 4
  else 0

/-- Writable bits of word 0. -/
def zrMask0 : DWord := 0xFFFFFFFF00FFC00D

/-- An entry validated with words given: V and ERR follow the checks; `lnch` is LNCH. -/
def State.zrSet (s : State) (asid n : Nat) (w0 : DWord) (lnch : Bool) : State :=
  let o := zrOff asid n
  let w := setFld (setFld (w0 &&& zrMask0) 0 1 0) 4 1 (if lnch then 1 else 0)
  let s := s.setReg o w
  let e := s.zrCheck asid n (s.zr asid n)
  s.setReg o (setFld (setFld w 28 4 e) 0 1 (if e = 0 then 1 else 0))

/-! ### Blocks -/

def State.blocksOf (s : State) (asid zr : Nat) : List Block := s.mem.blocks.filter fun b => decide (b.asid = asid) && decide (b.zr = zr)

/-- A dirty block goes to ENCODE, to be absent afterwards. -/
def State.startEncode (s : State) (b : Block) : State :=
  if b.st = .dirty then s.putBlock { b with st := .enc false, todo := b.code (s.zr b.asid b.zr) } else s

/-- Bytes of a code line written by an encode of a block that is still poisoned (R50). -/
def State.poisonedWrite (s : State) (pa : Nat) (bytes : List Byte) : State :=
  (sectorsOf pa bytes.length).foldl (fun s (sec, _) =>
    (s.setPoison sec true).report 4 (min (s.homeDie (sec * 32)) 8) 255 none [sec * 32, tierOf (sec * 32)] []) (s.homePuts 0 pa bytes)

/-- One Encode step: the block's bytes of one code line. -/
def State.encodeLine (s : State) (b : Block) : State :=
  match b.todo with
  | [] => s
  | (a, _) :: _ =>
    let bytes := (b.todo.filter fun c => decide (lineOf c.1 = lineOf a)).map Prod.snd
    let s := if b.pois.isSome then s.poisonedWrite (s.remap a) bytes else s.homeWrite 0 (s.remap a) bytes
    s.putBlock { b with todo := b.todo.filter fun c => decide (lineOf c.1 ≠ lineOf a) }

/-- A block's elements, bound and poison as its code gives them (R41, R43, R50). -/
def State.loaded (s : State) (b : Block) : Block :=
  let z := s.zr b.asid b.zr
  let d := decodeBlock z (s.codeBytes z b.blk)
  { b with st := .clean, elems := d.elems, pois := s.codePoison z b.blk, stored := [], bound := BitVec.ofNat 32 d.bound, waiting := [], todo := [] }

/-- An encode whose lines are written ends (R47). -/
def State.endEncode (s : State) (b : Block) : State :=
  match b.st with
  | .enc true => (s.putBlock (s.loaded b)).serve b.asid b.zr b.blk b.waiting
  | .enc false =>
    if b.waiting.isEmpty then s.dropBlock b.asid b.zr b.blk
    else s.putBlock { b with st := .fill, elems := [], wids := [], pois := none, stored := [], bound := 0, todo := [] }
  | _ => s

/-- Encode steps to the end; `n` bounds the lines. -/
def State.encodeAll : Nat → State → Nat → Nat → Nat → State
  | 0, s, _, _, _ => s
  | n + 1, s, asid, zr, blk =>
    match s.block? asid zr blk with
    | some b => match b.st with
      | .enc _ => if b.todo.isEmpty then s.endEncode b else (s.encodeLine b).encodeAll n asid zr blk
      | _ => s
    | none => s

/-- A block encoded and absent at once. -/
def State.encodeNow (s : State) (b : Block) : State := (s.startEncode b).encodeAll 1024 b.asid b.zr b.blk

/-- BLOCK_DECODE_DONE (R46): once its code lines are filled and no copy of a frame holds them (R70), the waiting list is served in order. -/
def execBlockDecodeDone (asid zr blk : Nat) (s : State) : Host.Outcome State Fault Refusal :=
  .next (match s.block? asid zr blk with
    | some b =>
      let z := s.zr asid zr
      if b.st ≠ .fill ∨ s.codeHeld z blk then s
      else if !(s.codeFills z blk).isEmpty then (s.codeFills z blk).foldl State.startFill s
      else (s.putBlock (s.loaded b)).serve asid zr blk b.waiting
    | none => s)

/-- BLOCK_EVICT_CHOSEN (R46). -/
def execBlockEvictChosen (asid zr blk : Nat) (s : State) : Host.Outcome State Fault Refusal :=
  .next (match s.block? asid zr blk with
    | some b => match b.st with
      | .clean => s.dropBlock asid zr blk
      | .dirty => s.startEncode b
      | _ => s
    | none => s)

/-- ENCODE (R47): one code line, and with the last line the end. -/
def execEncode (asid zr blk : Nat) (s : State) : Host.Outcome State Fault Refusal :=
  .next (match s.block? asid zr blk with
    | some b => match b.st with
      | .enc _ =>
        if s.codeHeld (s.zr asid zr) blk then s else
        let s := s.encodeLine b
        (match s.block? asid zr blk with
          | some b => if b.todo.isEmpty then s.endEncode b else s
          | none => s)
      | _ => s
    | none => s)

/-! ### Retirement (R27) -/

/-- Retirement begins: ERR reads 15, and the modified blocks go to ENCODE. -/
def State.zrRetireStart (s : State) (asid n : Nat) : State :=
  let o := zrOff asid n
  let s := s.setReg o (setFld (s.reg o) 28 4 15)
  (s.blocksOf asid n).foldl State.startEncode s

/-- Whether an access is of the region. -/
def Access.inView (a : Access) (asid n : Nat) : Bool := decide (a.space = .view asid n)
/-- View accesses translated before the retirement and not performed yet. -/
def State.viewComing (s : State) (asid n : Nat) : Bool :=
  s.flights.any fun f => (f.ops.any fun o => o.acc.any fun a => a.isOpen && a.inView asid n) || f.wq.any fun w => w.acc.inView asid n

/-- View lines of the region leave every core view, and the orders of their writes end. -/
def State.dropViewLines (s : State) (asid n : Nat) : State :=
  let lo := viewLine asid n 0
  let mine (k : Nat) : Bool := decide (lo ≤ k) && decide (k < lo + 2 ^ 48)
  { s with mem := { s.mem with l1 := s.mem.l1.filter (fun c => !mine c.line), rels := s.mem.rels.filter fun p => !mine p.1 } }

/-- The region is retired: blocks and view lines are dropped, V and ERR are 0. -/
def State.zrRetireEnd (s : State) (asid n : Nat) : State :=
  let o := zrOff asid n
  let s := (s.blocksOf asid n).foldl (fun s b => s.dropBlock asid n b.blk) s
  let s := s.dropViewLines asid n
  let s := s.setReg o (setFld (setFld (s.reg o) 28 4 0) 0 1 0)
  { s with dev := { s.dev with zrOwner := mset 0 s.dev.zrOwner (16 * asid + n) 0 } }

/-- Blocks written by accesses performed after the retirement began go to ENCODE in their turn; ZR_RETIRE_DONE waits for all. -/
def execZrRetireDone (asid n : Nat) (s : State) : Host.Outcome State Fault Refusal :=
  if (s.zr asid n).err ≠ 15 ∨ s.viewComing asid n then .next s
  else if (s.blocksOf asid n).any fun b => match b.st with | .dirty => true | .enc _ => true | .fill => !b.waiting.isEmpty | .clean => false then
    .next ((s.blocksOf asid n).foldl State.startEncode s)
  else .next (s.zrRetireEnd asid n)

end Sys2Proof.Machine
end

