-- ==== Sys2Proof/Machine/Regs.lean ====
section
/-! DEFINITION. The device-register range (R444, R445): its map, reads, and what a write of a register without a longer story does. Reports
(R447), telemetry (R443) and shootdowns (R64 to R66) as far as registers start them. -/

namespace Sys2Proof.Machine

/-- The registers of Table 18-10. -/
inductive DevReg where
  | bootstat | rcvaddr | rcvgo | pwrctl | wdcfg | rascfg | tlmcfg | tlmwr | tlmrd | repcfg | repwr | reprd
  | mgmtcmd | mgmtstat | mgmtarg (k : Nat) | mgmtres | astbase | arsctl | tlbiaddr | tlbictl
  | ars (n w : Nat) | frmap (n w : Nat) | pacl (n w : Nat)
  | qcfg (q : Nat) | qptr (q : Nat) | qstat (q : Nat) | qtrap (q : Nat) | qown (q : Nat) | hdrop (q : Nat)
  | evt (n : Nat) | flcfg (d : Nat) | mrcfg (d : Nat) | tbcfg (d n : Nat) | tbpark (d k n : Nat) | zr (asid n w : Nat)
  deriving DecidableEq, Repr

/-- The register at an 8-byte aligned offset, if Table 18-10 gives one. -/
def devReg? (o : Nat) : Option DevReg :=
  if o = 0 then some .bootstat
  else if o = 0x8 then some .rcvaddr
  else if o = 0x10 then some .rcvgo
  else if o = 0x100 then some .pwrctl
  else if o = 0x108 then some .wdcfg
  else if o = 0x110 then some .rascfg
  else if o = 0x200 then some .tlmcfg
  else if o = 0x208 then some .tlmwr
  else if o = 0x210 then some .tlmrd
  else if o = 0x300 then some .repcfg
  else if o = 0x308 then some .repwr
  else if o = 0x310 then some .reprd
  else if o = 0x400 then some .mgmtcmd
  else if o = 0x408 then some .mgmtstat
  else if 0x410 ≤ o ∧ o < 0x430 then some (.mgmtarg ((o - 0x410) / 8))
  else if o = 0x430 then some .mgmtres
  else if o = 0x500 then some .astbase
  else if o = 0x600 then some .arsctl
  else if o = 0x700 then some .tlbiaddr
  else if o = 0x708 then some .tlbictl
  else if 0x10000 ≤ o ∧ o < 0x10400 then some (.ars ((o - 0x10000) / 16) (o % 16 / 8))
  else if 0x11000 ≤ o ∧ o < 0x11080 then some (.frmap ((o - 0x11000) / 16) (o % 16 / 8))
  else if 0x12000 ≤ o ∧ o < 0x12060 then some (.pacl ((o - 0x12000) / 16) (o % 16 / 8))
  else if 0x20000 ≤ o ∧ o < 0x24000 then
    let q := (o - 0x20000) / 64
    (match o % 64 with
     | 0 => some (.qcfg q) | 8 => some (.qptr q) | 16 => some (.qstat q) | 24 => some (.qtrap q) | 32 => some (.qown q) | 40 => some (.hdrop q)
     | _ => none)
  else if 0x24000 ≤ o ∧ o < 0x26000 then some (.evt ((o - 0x24000) / 8))
  else if 0x100000 ≤ o ∧ o < 0x180000 then
    let d := (o - 0x100000) / 0x10000
    let r := o % 0x10000
    (if r = 0 then some (.flcfg d)
     else if r = 8 then some (.mrcfg d)
     else if 0x100 ≤ r ∧ r < 0x180 then some (.tbcfg d ((r - 0x100) / 8))
     else if 0x1000 ≤ r ∧ r < 0x1800 then some (.tbpark d ((r - 0x1000) / 0x80) (r % 0x80 / 8))
     else none)
  else if 0x1000000 ≤ o ∧ o < 0x2000000 then
    (if o % 0x1000 < 512 then some (.zr ((o - 0x1000000) / 0x1000) (o % 0x1000 / 32) (o % 32 / 8)) else none)
  else none

/-! ### Reads -/

/-- A bucket configuration that was written and governs from the next refill reads as written; bit 63 says that one is there. -/
def tbPending (s : State) (d n : Nat) : Option DWord :=
  let w := mget 0 s.dev.tbNext (16 * d + n)
  if w.getLsbD 63 then some (setFld w 63 1 0) else none

/-- A register read whole; write-only fields read zero, since they are never stored. -/
def State.devRead8 (s : State) (o : Nat) : DWord :=
  match devReg? o with
  | none => 0
  | some (.tbcfg d n) => (tbPending s d n).getD (s.reg o)
  | some _ => s.reg o

/-- An aligned read of 4 or 8 bytes. -/
def State.devRead (s : State) (off n : Nat) : Nat :=
  let w := (s.devRead8 (off / 8 * 8)).toNat
  if n = 8 then w else nbits w (8 * (off % 8)) 32

/-! ### Writes: which half, and plain fields -/

/-- Bits of the half written: 0 both halves, 1 bits [31:0], 2 bits [63:32]. -/
def halfMask (half : Nat) : DWord := if half = 1 then 0xFFFFFFFF else if half = 2 then 0xFFFFFFFF00000000 else allOnes
/-- Writable bits written. -/
def rw (cur mask w : DWord) (half : Nat) : DWord := (cur &&& ~~~(mask &&& halfMask half)) ||| (w &&& mask &&& halfMask half)
/-- RW1C bits cleared. -/
def w1c (cur mask w : DWord) (half : Nat) : DWord := cur &&& ~~~(mask &&& w &&& halfMask half)
def State.setBits (s : State) (o : Nat) (m : DWord) : State := s.setReg o (s.reg o ||| m)

/-- The nearer bound of a range. -/
def clampTo (lo hi x : Nat) : Nat := max lo (min hi x)
/-- A saturating count. -/
def satInc (x top : Nat) : Nat := min (x + 1) top

/-! ### Report and telemetry rings -/

/-- Whether `n` bytes at `pa` lie in the host window. -/
def inHost (pa n : Nat) : Bool := decide (0x100000000000 ≤ pa) && decide (pa + n ≤ 0x800000000000)

/-- LOST of a ring's write register advances. -/
def State.lost (s : State) (wr : Nat) : State := s.setReg wr (setFld (s.reg wr) 32 32 (satInc (fld (s.reg wr) 32 32) 0xFFFFFFFF))

/-- An entry of `n` bytes written to the ring of configuration `cfg`; whether it was. -/
def State.ringPut (s : State) (cfg n : Nat) (bytes : List Byte) : Bool × State :=
  let c := s.reg cfg
  let base := fld c 28 36 * 2 ^ 12
  let len := 2 ^ fld c 1 4
  let wr := fld (s.reg (cfg + 8)) 0 32
  let rd := fld (s.reg (cfg + 16)) 0 32
  if inHost base (n * len) = false ∨ s.failsIn (base + n * (wr % len)) n = true ∨ len ≤ (wr + 2 ^ 32 - rd) % 2 ^ 32 then (false, s.lost (cfg + 8))
  else
    let s := s.homePuts 0 (base + n * (wr % len)) bytes
    (true, s.setReg (cfg + 8) (setFld (s.reg (cfg + 8)) 0 32 (wr + 1)))

def Report.bytes (r : Report) (seq : Nat) : List Byte :=
  let w0 := r.kind + r.core % 256 * 2 ^ 20 + r.die % 16 * 2 ^ 28 + seq % 2 ^ 32 * 2 ^ 32
  leBytes 8 w0 ++ leBytes 8 r.w1.toNat ++ leBytes 8 r.w2.toNat
  ++ (List.range 5).flatMap (fun i => leBytes 8 (r.p.getD i 0).toNat) ++ (List.range 8).flatMap fun i => leBytes 8 (r.frame.getD i 0).toNat

def repCfg : Nat := 0x300
/-- A report written to its ring; the write that ends an empty ring sends the interrupt (R447). -/
def State.writeReport (s : State) (seq : Nat) (r : Report) : State :=
  let was := fld (s.reg (repCfg + 8)) 0 32 = fld (s.reg (repCfg + 16)) 0 32
  match s.ringPut repCfg 128 (r.bytes seq) with
  | (true, s) => if was then { s with dev := { s.dev with msix := s.dev.msix ++ [fld (s.reg repCfg) 10 6] } } else s
  | (false, s) => s

/-- Reports held while the ring was off are written out (R447). -/
def State.flushReports (s : State) : State :=
  if (s.reg repCfg).getLsbD 0 then
    s.dev.repHeld.foldl (fun s p => s.writeReport p.1 p.2) { s with dev := { s.dev with repHeld := [] } }
  else s

/-- REPORT_WRITE (R447): the next report is numbered, and written, held or dropped. -/
def execReportWrite (s : State) : Host.Outcome State Fault Refusal :=
  match s.dev.repQueue with
  | [] => .next s
  | r :: rest =>
    let seq := s.dev.repSeq
    let s := { s with dev := { s.dev with repQueue := rest, repSeq := (seq + 1) % 2 ^ 32 } }
    .next (
      if (s.reg repCfg).getLsbD 0 then s.writeReport seq r
      else if s.dev.repHeld.length < 64 then { s with dev := { s.dev with repHeld := s.dev.repHeld ++ [(seq, r)] } }
      else s.lost (repCfg + 8))

def tlmCfg : Nat := 0x200
/-- The sample of one die (Table 18-7). -/
def tlmSample (d pst seq power wakes : Nat) : List Byte :=
  leBytes 8 (d + 16 * pst + seq % 2 ^ 32 * 2 ^ 32) ++ leBytes 8 (power % 2 ^ 32) ++ leBytes 8 (wakes % 2 ^ 32) ++ leBytes 8 0

/-! ### Power states (R441, R442) -/

def pwrOff : Nat := 0x100
def State.parked (s : State) : Nat := fld (s.reg pwrOff) 24 8
def State.parkAsked (s : State) : Nat := fld (s.reg pwrOff) 32 8
def State.asleep (s : State) : Bool := decide (fld (s.reg pwrOff) 4 4 = 3)
/-- Nothing has been resident for the idle delay. -/
def State.idleNow (s : State) : Bool := s.wgs.isEmpty && decide (s.dev.idleSince + 2 ^ (fld (s.reg pwrOff) 16 4 + 10) ≤ s.clock)
/-- STATE follows PARKED, and idleness. -/
def State.setPower (s : State) (idle : Bool) : State :=
  s.setReg pwrOff (setFld (s.reg pwrOff) 4 4 (if s.parked ≠ 0 then 2 else if idle then 1 else 0))

/-- Every key slot emptied, with the report of kind 16 (R440, R442). -/
def State.clearKeys (s : State) : State := ({ s with dev := { s.dev with keys := [] } }).report 16 8 255 none [3] []

/-- A sleep request (R442): refused, or the tiers cleaned, the keys cleared and telemetry stopped. -/
def State.sleepAsk (s : State) : State :=
  let refuse := !s.launches.isEmpty
    || ((List.range 256).any fun q =>
        let o := 0x20000 + 64 * q
        (s.reg o).getLsbD 0 && decide (fld (s.reg (o + 8)) 0 32 ≠ fld (s.reg (o + 8)) 32 32))
    || s.flights.any fun f => f.port == .stopped
  if refuse then s.setReg pwrOff (setFld (s.reg pwrOff) 3 1 1)
  else
    let s := s.mem.blocks.foldl State.encodeNow s
    let s := s.mem.l2.foldl (fun s x => s.cleanLine x.line) s
    let s := s.clearKeys
    s.setReg pwrOff (setFld (s.reg pwrOff) 4 4 3)

/-! ### Shootdowns (R64) -/

def tlbiOff : Nat := 0x708
/-- Dies that a shootdown waits for: all but those in reset (R67). -/
def State.shootDies (s : State) : BitVec 8 :=
  BitVec.ofNat 8 ((allDies.filter fun d => decide (d ∉ s.dev.dieRst)).foldl (fun a d => a + 2 ^ d) 0)
/-- Pages of an ATS invalidation leave the cached completions (R433). -/
def Shoot.dropAts (k : Shoot) (l : List (Nat × Nat × Nat)) : List (Nat × Nat × Nat) :=
  match k.owner with
  | .ats fn => l.filter fun c => !(decide (c.1 = fn) && decide (k.first ≤ c.2.1) && decide (c.2.1 < k.first + k.count))
  | _ => l
/-- Shootdowns that every die has acknowledged end; TLBICTL shows how software's stands (R65). -/
def State.finishShoots (s : State) : State :=
  let done : List Shoot := s.tr.shoots.filter fun k => decide (k.pend = 0)
  let s := { s with tr := { s.tr with shoots := s.tr.shoots.filter (fun k => decide (k.pend ≠ 0)), ats := done.foldl (fun l (k : Shoot) => k.dropAts l) s.tr.ats } }
  if (s.reg tlbiOff).getLsbD 3 then
    match s.tr.shoots.find? fun (k : Shoot) => decide (k.owner = .software) with
    | some k => s.setReg tlbiOff (setFld (s.reg tlbiOff) 8 8 k.pend.toNat)
    | none => s.setReg tlbiOff (setFld (setFld (setFld (s.reg tlbiOff) 8 8 0) 3 1 0) 4 1 1)
  else s
def State.startShoot (s : State) (kind asid first count : Nat) (o : ShootOwner) : State :=
  let k : Shoot := { kind, asid, first, count, pend := s.shootDies, owner := o }
  State.finishShoots { s with tr := { s.tr with shoots := s.tr.shoots ++ [k] } }

/-- A write of TLBICTL. -/
def State.tlbiWrite (s : State) (half : Nat) (w : DWord) : State :=
  let cur := s.reg tlbiOff
  if cur.getLsbD 3 then s.setBits tlbiOff 0x20
  else
    let nv := w1c (rw cur 0xFFFFFFFF0FFF0006 w half) 0x30 w half
    if (w &&& halfMask half).getLsbD 0 then
      let kind := fld nv 1 2
      if (kind = 0 ∨ kind = 3) ∧ fld nv 32 32 = 0 then s.setReg tlbiOff (setFld (setFld nv 6 1 1) 4 1 1)
      else
        let s := s.setReg tlbiOff (setFld (setFld nv 6 1 0) 3 1 1)
        s.startShoot kind (fld nv 16 12) (fld (s.reg 0x700) 16 32) (fld nv 32 32) .software
    else s.setReg tlbiOff nv

/-! ### The address-range table (R14 to R16) -/

def arsctl : Nat := 0x600
/-- First check a valid entry fails (Table 01-5), 0 for none. -/
def arsFault (w0 w1 : DWord) : Nat :=
  if fld w0 8 8 = 0 ∨ fld w0 16 16 = 0 then 1
  else if 8 < fld w0 4 4 then 2
  else if fld w1 32 32 < fld w1 0 32 then 3
  else if 0x300000 ≤ fld w1 32 32 then 4 else 0

/-- Lines and blocks whose home changes under the new table. -/
def State.moves (s : State) (pa : Nat) : Bool := inTier pa && decide (homeUnder s.arsNew pa ≠ s.home pa)
def State.blockPa (s : State) (b : Block) : Nat := s.remap ((s.zr b.asid b.zr).codeAt b.blk)

/-- A write of ARSCTL: a commit is checked, and begins. -/
def State.arsctlWrite (s : State) (half : Nat) (w : DWord) : State :=
  let cur := s.reg arsctl
  let nv := w1c cur 0xC w half
  if (w &&& halfMask half).getLsbD 0 ∧ cur.getLsbD 1 = false then
    let bad := (List.range 64).findSome? fun n =>
      let w0 := s.reg (0x10000 + 16 * n); let w1 := s.reg (0x10000 + 16 * n + 8)
      if w0.getLsbD 0 ∧ arsFault w0 w1 ≠ 0 then some (n, arsFault w0 w1) else none
    match bad with
    | some (n, e) => s.setReg arsctl (setFld (setFld (setFld nv 8 6 n) 4 4 e) 2 1 1)
    | none =>
      let s := s.setReg arsctl (setFld (setFld (setFld nv 8 6 0) 4 4 0) 1 1 1)
      let s := { s with dev := { s.dev with arsBusy := true } }
      (s.mem.blocks.filter fun b => s.moves (s.blockPa b)).foldl State.startEncode s
  else s.setReg arsctl nv

/-- A line that moves, cleaned and invalidated; a copy command that owns it owns it at its new home (R131, log 77). -/
def State.moveLine (s : State) (x : L2Line) : State :=
  let s := (s.writeBack x).dropL2 x.line
  if x.owner.isSome then s.setL2 { L2Line.empty x.line with owner := x.owner } else s

/-- ARS_COMMIT_SWITCH (R15): the lines and blocks that move are clean and gone, and the new table governs. -/
def execArsCommitSwitch (s : State) : Host.Outcome State Fault Refusal :=
  if s.dev.arsBusy = false then .next s else
  let lines := s.mem.l2.filter fun x => s.moves (128 * x.line)
  let blocks := s.mem.blocks.filter fun b => s.moves (s.blockPa b)
  if lines.any fun x => x.filling || !x.waiting.isEmpty then .next s
  else if blocks.any fun b => match b.st with | .dirty => true | .enc _ => true | .fill => !b.waiting.isEmpty | .clean => false then
    .next (blocks.foldl State.startEncode s)
  else
    let s := lines.foldl State.moveLine s
    let s := blocks.foldl (fun s b => s.dropBlock b.asid b.zr b.blk) s
    let s := { s with mem := { s.mem with far := s.mem.far.filter fun c => !s.moves (128 * c.line) } }
    let s := { s with dev := { s.dev with ars := s.arsNew, arsBusy := false } }
    .next (s.setReg arsctl (setFld (setFld (s.reg arsctl) 1 1 0) 2 1 1))

/-! ### Queues (R381, R384, R399, R431) -/

def qOff (q : Nat) : Nat := 0x20000 + 64 * q

/-- A rejected entry, or a discarded TAIL, is recorded in QSTATq. -/
def State.queueErr (s : State) (q idx chk : Nat) : State :=
  let o := qOff q + 16
  let v := s.reg o
  s.setReg o (setFld (setFld (setFld v 16 16 idx) 8 8 (satInc (fld v 8 8) 255)) 0 8 chk)

def State.qcfgPut (s : State) (q half : Nat) (w : DWord) : State :=
  let o := qOff q
  let cur := s.reg o
  if cur.getLsbD 0 then (if half ≠ 2 ∧ w.getLsbD 0 = false then s.setReg o (setFld cur 0 1 0) else s)
  else
    let nv := rw cur 0xFFFFFFFFFFFFFFF7 w half
    let ok := decide (2 ≤ fld nv 4 4) && decide (fld nv 4 4 ≤ 12) && decide (fld nv 8 8 ≠ 0)
    s.setReg o (if nv.getLsbD 0 && !ok then setFld nv 0 1 0 else nv)

/-- A write of TAIL (R384). -/
def State.tailPut (s : State) (q tail : Nat) : State :=
  let c := s.reg (qOff q); let o := qOff q + 8
  let p := s.reg o
  if c.getLsbD 2 then s
  else if 2 ^ fld c 4 4 < (tail + 2 ^ 32 - fld p 0 32) % 2 ^ 32 then s.queueErr q (tail % 2 ^ 16) 11
  else s.setReg o (setFld p 32 32 tail)

/-! ### One register written -/

/-- A write of a Z-region word (R26, R27). One that retires the entry writes none of its other fields (log 91). -/
def State.zrPut (s : State) (asid n w half : Nat) (v : DWord) : State :=
  let o := zrOff asid n + 8 * w
  let cur := s.reg o
  let valid := (s.reg (zrOff asid n)).getLsbD 0
  match w with
  | 0 =>
    let nv := rw cur zrMask0 v half
    if valid then
      (if nv.getLsbD 0 = false ∧ fld cur 28 4 ≠ 15 then s.zrRetireStart asid n else s)
    else if nv.getLsbD 0 then s.zrSet asid n nv false
    else s.setReg o nv
  | 1 => if valid then s else s.setReg o (rw cur 0x0000FFFFFFFFFF00 v half)
  | 2 => if valid then s else s.setReg o (rw cur 0x00FFFFFF00FFFFFF v half)
  | _ => if valid then s else s.setReg o (rw cur 0x0000000000FFFFFF v half)

/-- A write of FLCFG (R86): a change of FLWAYS drops the far lines that no longer have a way once it is done. -/
def State.flcfgPut (s : State) (d half : Nat) (w : DWord) : State :=
  let o := flcfgOff d
  let cur := s.reg o
  if half = 2 then s
  else if cur.getLsbD 7 ∨ 16 < fld w 0 5 then s.setBits o 0x40
  else
    let nv := w1c (rw cur 0x1F w half) 0x40 w half
    if fld nv 0 5 = fld cur 0 5 then s.setReg o nv
    else { (s.setReg o (setFld nv 7 1 1)) with dev := { (s.setReg o (setFld nv 7 1 1)).dev with flWas := mset 0 s.dev.flWas d (fld cur 0 5) } }

/-- Writes of the registers whose story is plain; MGMTCMD and RCVGO stand in Mgmt. -/
def State.regPut (s : State) (o half : Nat) (w : DWord) : State :=
  let cur := s.reg o
  match devReg? o with
  | none => s
  | some r =>
    match r with
    | .bootstat | .tlmwr | .repwr | .mgmtres | .qstat _ => s
    | .mgmtcmd | .rcvgo => s
    | .rcvaddr => s.setReg o (rw cur 0x0000FFFFFFFFF000 w half)
    | .pwrctl =>
      let nv := w1c (rw cur 0xF0000 w half) 0x8 w half
      let nv := if half ≠ 1 ∧ fld w 32 8 ≠ 255 then setFld nv 32 8 (fld w 32 8) else nv
      let s := s.setReg o nv
      if half ≠ 2 ∧ w.getLsbD 1 then s.sleepAsk else s
    | .wdcfg =>
      let nv := rw cur 0xFD w half
      s.setReg o (setFld nv 2 6 (clampTo 20 40 (fld nv 2 6)))
    | .rascfg =>
      let nv := rw cur 0xFFFF w half
      s.setReg o (setFld (setFld nv 0 8 (max 1 (fld nv 0 8))) 8 8 (max 1 (fld nv 8 8)))
    | .tlmcfg =>
      let nv := rw cur 0xFFFFFFFFF000001F w half
      s.setReg o (setFld nv 1 4 (max 4 (fld nv 1 4)))
    | .tlmrd | .reprd => s.setReg o (rw cur 0xFFFFFFFF w half)
    | .repcfg =>
      let nv := rw cur 0xFFFFFFFFF000FC1F w half
      (s.setReg o (setFld nv 1 4 (max 4 (fld nv 1 4)))).flushReports
    | .mgmtstat => s.setReg o (w1c cur 6 w half)
    | .mgmtarg _ => if (s.reg 0x408).getLsbD 0 then s.setBits 0x408 4 else s.setReg o (rw cur allOnes w half)
    | .astbase => s.setReg o (rw cur 0xFFFFFFFF w half)
    | .arsctl => s.arsctlWrite half w
    | .tlbiaddr => if (s.reg tlbiOff).getLsbD 3 then s.setBits tlbiOff 0x20 else s.setReg o (rw cur 0x0000FFFFFFFF0000 w half)
    | .tlbictl => s.tlbiWrite half w
    | .ars n k =>
      if (s.reg (0x10000 + 16 * n)).getLsbD 1 then s
      else if s.dev.arsBusy then s.setBits arsctl 0x8
      else if k = 0 then s.setReg o (rw cur 0xFFFFFFF1 w half ||| (w &&& 2 &&& halfMask half))
      else s.setReg o (rw cur allOnes w half)
    | .frmap _ k => if k = 1 ∧ half ≠ 2 ∧ w.getLsbD 0 = false ∧ cur.getLsbD 1 = false then s.setReg o (setFld cur 0 1 0) else s
    | .pacl _ _ => s.setReg o (rw cur 0xFFFFFFFF w half)
    | .qcfg q => s.qcfgPut q half w
    | .qptr q => if half = 1 then s else s.tailPut q (fld w 32 32)
    | .qtrap _ => s.setReg o (rw cur 0x0000FFFFFFFFFFFD w half)
    | .qown q => if (s.reg (qOff q)).getLsbD 0 then s else s.setReg o (rw cur 0x1F w half)
    | .hdrop _ => s.setReg o 0
    | .evt _ => s.setReg o (rw cur 0xFFFFFFFF w half)
    | .flcfg d => s.flcfgPut d half w
    | .mrcfg _ =>
      let nv := rw cur 0x0000FF00FFFFFF01 w half
      s.setReg o (setFld nv 8 8 (clampTo 5 200 (fld nv 8 8)))
    | .tbcfg d n =>
      let nv := rw (s.devRead8 o) 0x0000FFFFFFFF000F w half
      { s with dev := { s.dev with tbNext := mset 0 s.dev.tbNext (16 * d + n) (setFld nv 63 1 1) } }
    | .tbpark _ _ _ => s.setReg o 0
    | .zr asid n k => s.zrPut asid n k half w

/-! ### Events that end what a write began -/

/-- Which lines stood in the ways that a change of FLCFG moves is not said: a free value for each (log 45). -/
def inMovedWay (key i : Nat) : Bool := decide (Config.freeNat (key + i) % 2 = 1)

/-- Far lines of a die in ways that are returned: all of them with FLWAYS 0, and none kept in more ways than there are. -/
def State.dropFarWays (s : State) (d : Nat) : State :=
  let kept := (enum s.mem.far).filter fun (i, c) => decide (c.unit ≠ d) || (decide (s.flways d ≠ 0) && !inMovedWay s.freeCtr i)
  { s with mem := { s.mem with far := kept.map Prod.snd }, freeCtr := s.freeCtr + s.mem.far.length }

/-- Home lines of a die's slices in ways that are taken are cleaned and evicted, but for those that may not be (R81). -/
def State.evictHomeWays (s : State) (d : Nat) : State :=
  let go := ((enum s.mem.l2).filter fun (i, x) => decide (s.homeDie (128 * x.line) = d) && !x.pinned && inMovedWay s.freeCtr i).map Prod.snd
  go.foldl (fun s x => (s.writeBack x).dropL2 x.line) { s with freeCtr := s.freeCtr + s.mem.l2.length }

/-- FLCFG_CHANGE_DONE (R86): far lines in ways being returned are dropped, home lines in ways being taken are cleaned and evicted, and BUSY clears. -/
def execFlcfgChangeDone (d : Nat) (s : State) : Host.Outcome State Fault Refusal :=
  if (s.reg (flcfgOff d)).getLsbD 7 then
    let s := if s.flways d < mget 0 s.dev.flWas d then s.dropFarWays d else s.evictHomeWays d
    .next (s.setReg (flcfgOff d) (setFld (s.reg (flcfgOff d)) 7 1 0))
  else .next s

end Sys2Proof.Machine
end

