-- ==== Sys2Proof/Machine/Mgmt.lean ====
section
/-! DEFINITION. Boot and reset (R22, R437, R446), the management commands (R449 to R452, R21, R23, R70, R72), and the debug and security
states (R436, R440). With them every register write is whole: `State.regWrite`. -/

namespace Sys2Proof.Machine

/-! ### Debug states (R440) -/

/-- The debug state changes: entering Halt clears the key slots, leaving it releases every port stop. -/
def State.setDebug (s : State) (st : Nat) : State :=
  let was := s.dev.dbg
  let s := { s with dev := { s.dev with dbg := st } }
  if st = 2 ∧ was ≠ 2 then s.clearKeys
  else if was = 2 ∧ st ≠ 2 then { s with flights := s.flights.map fun f => { f with port := .free } }
  else s

/-- A request of the debug port for a state, which Development alone grants (R440, Table 18-9). -/
def State.askDebug (s : State) (st : Nat) : State := if s.dev.sec = 0 ∧ st < 3 then s.setDebug st else s

/-- SECURITY_STATE_ADVANCE (R436): a debug state that the new state gives only to a token ends (Table 18-9). -/
def execSecurityStateAdvance (s : State) : Host.Outcome State Fault Refusal :=
  if s.dev.sec < 2 then .next (({ s with dev := { s.dev with sec := s.dev.sec + 1 } }).setDebug 0) else .next s

/-! ### Boot (R437) -/

/-- FAIL of Table 18-11 for an image, 0 for none. -/
def imageFail (sec rollback : Nat) (img key sig : List Byte) (ver : Nat) : Nat :=
  if Config.mldsaVerify key (sha3 img) sig = false then 1
  else if !(decide (sha3Word key = Config.bootKeyDigest) || (decide (sec = 0) && decide (sha3Word key = Config.devKeyDigest))) then 2
  else if ver < rollback then 3 else 0

/-- A check failed: BOOTSTAT says which, and a report is issued. -/
def State.bootFail (s : State) (image fail : Nat) : State :=
  let w := setFld (setFld (0 : DWord) 8 8 image) 1 3 fail
  (s.setReg 0 w).report 16 8 255 none [1, w.toNat] []

/-- Images verified in order: the first that fails with its code, or none. -/
def bootCheck (sec rollback : Nat) : Nat → List (List Byte × List Byte × List Byte × Nat) → Option (Nat × Nat)
  | _, [] => none
  | i, (img, key, sig, ver) :: r =>
    let f := imageFail sec rollback img key sig ver
    if f = 0 then bootCheck sec rollback (i + 1) r else some (i, f)

/-- CHK of a bad-frame entry (Table 01-6): the byte orders are the model's (log 10). -/
def chkOf (w : DWord) : Nat := fld (sha3Word (leBytes 6 (fld w 0 48))) 0 16
def chkGood (w : DWord) : Bool := decide (chkOf w = fld w 48 16)
def badFrame (w : DWord) : Nat := fld w 0 32
/-- Whether a frame is listed. -/
def State.isBad (s : State) (frame : Nat) : Bool := s.dev.badList.any fun w => chkGood w && decide (badFrame w = frame)

/-- Firmware reads the bad-frame list (R22). -/
def State.readBadList (s : State) : State :=
  let bad := s.dev.badList.filter fun w => !chkGood w
  let s := { s with dev := { s.dev with withheld := (s.dev.badList.filter chkGood).map badFrame } }
  bad.foldl (fun s w => s.report 11 8 255 none [w.toNat] []) s

/-- What a module reset leaves: everything at its reset value, but the stores that outlive it, what lies outside the module, and what the
memory devices hold (log 12). -/
def State.afterReset (s : State) : State :=
  let r := State.reset
  { r with
    agenda := s.agenda, clock := s.clock, freeCtr := s.freeCtr, nextId := s.nextId
    mem := { r.mem with bytes := s.mem.bytes, poison := s.mem.poison }
    dev := { r.dev with badList := s.dev.badList, badSeq := s.dev.badSeq, sec := s.dev.sec, rollback := s.dev.rollback, images := s.dev.images,
                        tokSerial := s.dev.tokSerial, portDown := s.dev.portDown, outerBad := s.dev.outerBad, flits := s.dev.flits, idleSince := s.clock,
                        msix := s.dev.msix, answer := s.dev.answer } }

/-- MODULE_RESET (R437, R22). -/
def execModuleReset (s : State) : Host.Outcome State Fault Refusal :=
  let s := s.afterReset
  match bootCheck s.dev.sec s.dev.rollback 0 s.dev.images with
  | some (i, f) => .next (s.bootFail i f)
  | none =>
    let s : State := { s with dev := { s.dev with running := s.dev.images.map fun (img, _) => sha3Word img } }
    .next (s.setReg 0 1).readBadList

/-- RECOVERY_GO: a write of 1 to GO while OK is 0 verifies the image at RCVADDR, and runs it (R446). -/
def State.recover (s : State) : State :=
  if (s.reg 0).getLsbD 0 then s else
  let pa := fld (s.reg 8) 12 36 * 2 ^ 12
  match if inHost pa 1 then Config.recoveryImage (s.mem.bytes.filter fun c => decide (0x100000000000 ≤ c.1) && decide (c.1 < 0x800000000000)) pa else none with
  | none => s.bootFail 0 4
  | some (img, key, sig, ver) =>
    let f := imageFail s.dev.sec s.dev.rollback img key sig ver
    if f ≠ 0 then s.bootFail 0 f
    else (({ s with dev := { s.dev with running := [sha3Word img] } }).setReg 0 1).readBadList

/-! ### The mailbox (R449) -/

def mgmtStat : Nat := 0x408
/-- A command completes with a status and a result; the report vector is sent. -/
def State.mgmtDone (s : State) (status res : Nat) : State :=
  let s := { s with dev := { s.dev with mgmt := none, msix := s.dev.msix ++ [fld (s.reg repCfg) 10 6] } }
  let s := s.setReg 0x430 (BitVec.ofNat 64 res)
  s.setReg mgmtStat (setFld (setFld (setFld (s.reg mgmtStat) 8 8 status) 0 1 0) 1 1 1)

def frameTier (frame : Nat) : Option Nat := match tierRoom (frame * 2 ^ 16) with | some _ => some (tierOf (frame * 2 ^ 16)) | none => none
def Mgmt.arg (m : Mgmt) (k lo n : Nat) : Nat := fld (m.args.getD k 0) lo n

/-- A bad-frame entry appended, with the statuses of R21. -/
def State.appendBad (s : State) (frame cause : Nat) : State :=
  let n := s.dev.badList.length
  if s.isBad frame then s.mgmtDone 1 n
  else if 4096 ≤ n then s.mgmtDone 2 n
  else
    let w : DWord := BitVec.ofNat 64 (frame + (frameTier frame).getD 0 * 2 ^ 33 + cause * 2 ^ 34 + s.dev.badSeq % 4096 * 2 ^ 36)
    let s := { s with dev := { s.dev with badList := s.dev.badList ++ [setFld w 48 16 (chkOf w)], badSeq := (s.dev.badSeq + 1) % 4096 } }
    s.mgmtDone 0 (n + 1)

/-- The remap entry whose FROM is a frame. -/
def State.frmapOf (s : State) (frame : Nat) : Option Nat := (List.range 8).find? fun n => s.frmapHit n (frame * 2 ^ 16)
def State.mgmtShooting (s : State) : Bool := s.tr.shoots.any fun k => decide (k.owner = .mgmt)
def State.setMgmt (s : State) (m : Mgmt) : State := { s with dev := { s.dev with mgmt := some m } }

/-- RETIRE's next step (R72). -/
def State.retireStep (s : State) (m : Mgmt) : State :=
  let frame := m.arg 0 0 32
  match m.phase with
  | 0 =>
    (match s.frmapOf frame with
     | some n => if (s.reg (frmapOff n + 8)).getLsbD 1 then s else s.appendBad frame (m.arg 1 0 2)
     | none => (s.setMgmt { m with phase := 1 }).startShoot 3 0 frame 1 .mgmt)
  | _ => if s.mgmtShooting then s else s.appendBad frame (m.arg 1 0 2)

/-- Status that keeps MIGRATE from starting, 0 for none; the statuses stand in their table order. -/
def State.migrateBad (s : State) (f g : Nat) : Nat :=
  let valid := (List.range 8).filter fun n => (s.reg (frmapOff n + 8)).getLsbD 0
  let used (x : Nat) : Bool := valid.any fun n => decide (fld (s.reg (frmapOff n)) 0 32 = x) || decide (fld (s.reg (frmapOff n)) 32 32 = x)
  if valid.length = 8 then 3
  else if frameTier f ≠ frameTier g ∨ f = g ∨ s.isBad g ∨ used f ∨ used g then 4
  else if s.validZrs.any fun (a, n) => let z := s.zr a n; rangesMeet (f * 2 ^ 16) (2 ^ 16) z.cbase z.codeLen then 5
  else 0

/-- Lines of a frame at their homes. -/
def State.linesIn (s : State) (frame : Nat) : List L2Line := s.mem.l2.filter fun x => decide (x.line / 512 = frame)
/-- Sectors, within a frame, at which frame `f` or frame `g` holds anything. -/
def State.busySectors (s : State) (f g : Nat) : List Nat :=
  let cells := (s.mem.bytes.filter fun c => decide (c.1 / 2 ^ 16 = f) || decide (c.1 / 2 ^ 16 = g)).map fun c => c.1 % 2 ^ 16 / 32
  let pois := (s.mem.poison.filter fun x => decide (x / 2 ^ 11 = f) || decide (x / 2 ^ 11 = g)).map (· % 2 ^ 11)
  let lines := (s.linesIn f ++ s.linesIn g).flatMap fun x => (List.range 4).map fun i => x.line % 512 * 4 + i
  sortBy id (dedup (cells ++ pois ++ lines))

/-- One sector copied from frame F to frame G (R70). -/
def State.copySector (s : State) (n f g sec : Nat) : State :=
  let src := f * 2 ^ 11 + sec; let dst := g * 2 ^ 11 + sec
  let bad := s.secPoisoned src
  let s := s.homePuts 0 (dst * 32) (leBytes 32 (s.homeBytes (src * 32) 32))
  if bad then
    let o := frmapOff n + 8
    ((s.setPoison dst true).setReg o (setFld (s.reg o) 32 32 (fld (s.reg o) 32 32 + 1))).report 12 8 255 none [src * 32, n] []
  else s.setPoison dst false

/-- MIGRATE's next step (R70). -/
def State.migrateStep (s : State) (m : Mgmt) : State :=
  let f := m.arg 0 0 32; let g := m.arg 1 0 32
  match m.phase with
  | 0 =>
    let e := s.migrateBad f g
    if e ≠ 0 then s.mgmtDone e 0
    else
      match (List.range 8).find? fun n => (s.reg (frmapOff n + 8)).getLsbD 0 = false with
      | none => s.mgmtDone 3 0
      | some n =>
        let s := (s.setReg (frmapOff n) (BitVec.ofNat 64 (f + g * 2 ^ 32))).setReg (frmapOff n + 8) 3
        (s.setMgmt { m with phase := 1, slot := n }).startShoot 3 0 f 1 .mgmt
  | 1 =>
    if s.mgmtShooting then s
    else
      let s := (s.linesIn f).foldl (fun s x => s.cleanLine x.line) s
      let s := { s with mem := { s.mem with far := s.mem.far.filter fun c => decide (c.line / 512 ≠ f) } }
      s.setMgmt { m with phase := 2 }
  | 2 => ((s.busySectors f g).foldl (fun s x => s.copySector m.slot f g x) s).setMgmt { m with phase := 3 }
  | _ => s

/-- Bytes of a buffer in host memory. -/
def State.hostBytes (s : State) (pa n : Nat) : List Byte := leBytes n (s.homeBytes pa n)
/-- A buffer that can be accessed (R450). -/
def State.bufOk (s : State) (pa n : Nat) : Bool := inHost pa n && !s.failsIn pa n

/-- The attestation report without its signature (R451). -/
def State.attestBody (s : State) (nonce : List Byte) : List Byte :=
  leBytes 8 (7315 + 64 * s.dev.running.length) ++ leBytes 1 s.dev.sec ++ leBytes 1 s.dev.dbg ++ leBytes 2 s.dev.running.length
  ++ leBytes 4 s.dev.rollback ++ leBytes 4 s.dev.badList.length ++ leBytes 12 0 ++ nonce
  ++ s.dev.running.flatMap (fun d => leBytes 64 d.toNat) ++ (List.range 2592).map Config.identityKey
def State.attestation (s : State) (nonce : List Byte) : List Byte :=
  let b := s.attestBody nonce
  b ++ (List.range 4627).map (Config.mldsaSign (sha3 b))

/-- Whether a debug token is accepted (R452). -/
def State.tokenOk (s : State) (t : List Byte) : Bool :=
  let n (lo k : Nat) : Nat := ofLe ((t.drop lo).take k)
  decide (s.dev.sec ≠ 2) && decide (n 0 4 = 1) && (decide (n 4 1 = 1) || decide (n 4 1 = 2))
  && decide ((t.drop 16).take 64 = sha3 ((List.range 2592).map Config.identityKey))
  && decide (s.dev.tokSerial.toNat < n 8 8)
  && Config.mldsaVerify ((List.range 2592).map Config.vendorKey) (sha3 (t.take 80)) ((t.drop 80).take 4627)

/-- The commands that are done at once. -/
def State.mgmtQuick (s : State) (m : Mgmt) : State :=
  let a0 := m.arg 0 0 64; let a1 := m.arg 1 0 64
  match m.op with
  | 3 => if s.dev.sec ≠ 0 then s.mgmtDone 6 0 else ({ s with dev := { s.dev with badList := [] } }).mgmtDone 0 s.dev.badList.length
  | 4 =>
    let len := 7315 + 64 * s.dev.running.length
    if s.bufOk a0 64 = false ∨ s.bufOk a1 (m.arg 2 0 32) = false then s.mgmtDone 8 0
    else if m.arg 2 0 32 < len then s.mgmtDone 7 0
    else (s.homePuts 0 a1 (s.attestation (s.hostBytes a0 64))).mgmtDone 0 len
  | 5 =>
    let len := m.arg 1 0 16
    if s.bufOk a0 len = false then s.mgmtDone 8 s.dev.dbg
    else
      let t := s.hostBytes a0 len
      let serial := ofLe ((t.drop 8).take 8)
      if len = 4707 ∧ s.tokenOk t then
        let s := ({ s with dev := { s.dev with tokSerial := BitVec.ofNat 64 serial } }).setDebug (ofLe ((t.drop 4).take 1))
        s.mgmtDone 0 s.dev.dbg
      else (s.report 16 8 255 none [2, serial] []).mgmtDone 9 s.dev.dbg
  | _ =>
    let n := s.dev.badList.length
    if s.bufOk a0 (m.arg 1 0 32) = false then s.mgmtDone 8 0
    else if m.arg 1 0 32 < 8 * n then s.mgmtDone 7 0
    else (s.homePuts 0 a0 (s.dev.badList.flatMap fun w => leBytes 8 w.toNat)).mgmtDone 0 n

/-- Whether a command's arguments break R449 and R450. -/
def mgmtBadArg (m : Mgmt) : Bool :=
  let hi (k n : Nat) : Bool := decide (m.arg k n (64 - n) ≠ 0)
  match m.op with
  | 1 => hi 0 32 || hi 1 2 || decide (2 < m.arg 1 0 2) || (frameTier (m.arg 0 0 32)).isNone
  | 2 => hi 0 32 || hi 1 32 || (frameTier (m.arg 0 0 32)).isNone || (frameTier (m.arg 1 0 32)).isNone
  | 4 => hi 2 32 || decide (m.arg 0 0 3 ≠ 0) || decide (m.arg 1 0 3 ≠ 0)
  | 5 => hi 1 16 || decide (m.arg 0 0 3 ≠ 0)
  | 6 => hi 1 32 || decide (m.arg 0 0 3 ≠ 0)
  | _ => false

/-- A write of a command code to MGMTCMD. -/
def State.mgmtStart (s : State) (op : Nat) : State :=
  if (s.reg mgmtStat).getLsbD 0 then s.setBits mgmtStat 4
  else
    let m : Mgmt := { op, args := (List.range 4).map fun k => s.reg (0x410 + 8 * k), phase := 0, slot := 0 }
    if op = 0 ∨ 6 < op then s.mgmtDone 14 0
    else if mgmtBadArg m then s.mgmtDone 15 0
    else if op = 1 then ((s.setBits mgmtStat 1).setMgmt m).retireStep m
    else if op = 2 then ((s.setBits mgmtStat 1).setMgmt m).migrateStep m
    else s.mgmtQuick m

end Sys2Proof.Machine
end

