-- ==== Sys2Proof/Machine/Device.lean ====
section
/-! DEFINITION. Writes of device registers (R445), and the rows of the opcode table that are a register's write or a management
command. -/

namespace Sys2Proof.Machine

/-- A write of register `o`: `half` 0 both halves, 1 bits [31:0], 2 bits [63:32]; `w` holds the bits at their places. -/
def State.regWrite (s : State) (o half : Nat) (w : DWord) : State :=
  match devReg? o with
  | some .mgmtcmd => if (s.reg mgmtStat).getLsbD 0 then s.setBits mgmtStat 4 else if half = 2 then s else s.mgmtStart (fld w 0 8)
  | some .rcvgo => if half ≠ 2 ∧ w.getLsbD 0 then s.recover else s
  | _ => s.regPut o half w

/-- An aligned write of 4 or 8 bytes to the device-register range. -/
def State.devWrite (s : State) (off n v : Nat) : State :=
  if n = 8 then s.regWrite (off / 8 * 8) 0 (BitVec.ofNat 64 v)
  else if off % 8 = 0 then s.regWrite off 1 (BitVec.ofNat 64 (v % 2 ^ 32))
  else s.regWrite (off / 8 * 8) 2 (BitVec.ofNat 64 (v % 2 ^ 32 * 2 ^ 32))

/-- REGISTER_WRITE (R445). -/
def execRegisterWrite (off half : Nat) (v : BitVec 64) (s : State) : Host.Outcome State Fault Refusal := .next (s.regWrite off half v)
/-- ARS_WRITE (R14). -/
def execArsWrite (n w : Nat) (v : BitVec 64) (s : State) : Host.Outcome State Fault Refusal := .next (s.regWrite (0x10000 + 16 * n + 8 * w) 0 v)
/-- ARS_COMMIT (R15). -/
def execArsCommit (v : BitVec 64) (s : State) : Host.Outcome State Fault Refusal := .next (s.regWrite arsctl 0 (v ||| 1))
/-- ZR_VALIDATE (R26). -/
def execZrValidate (asid n : Nat) (v : BitVec 64) (s : State) : Host.Outcome State Fault Refusal := .next (s.regWrite (zrOff asid n) 0 (v ||| 1))
/-- ZR_RETIRE (R27). -/
def execZrRetire (asid n : Nat) (v : BitVec 64) (s : State) : Host.Outcome State Fault Refusal :=
  .next (s.regWrite (zrOff asid n) 0 (setFld v 0 1 0))

/-- A GO with a kind given. -/
def goKind (v : DWord) (k : Nat) : DWord := setFld v 1 2 k ||| 1
/-- TLBI_VA_RANGE (R64). -/
def execTlbiVaRange (v : BitVec 64) (s : State) : Host.Outcome State Fault Refusal := .next (s.regWrite tlbiOff 0 (goKind v 0))
/-- TLBI_ASID (R64). -/
def execTlbiAsid (v : BitVec 64) (s : State) : Host.Outcome State Fault Refusal := .next (s.regWrite tlbiOff 0 (goKind v 1))
/-- TLBI_ALL (R64). -/
def execTlbiAll (v : BitVec 64) (s : State) : Host.Outcome State Fault Refusal := .next (s.regWrite tlbiOff 0 (goKind v 2))
/-- TLBI_PA_RANGE (R64). -/
def execTlbiPaRange (v : BitVec 64) (s : State) : Host.Outcome State Fault Refusal := .next (s.regWrite tlbiOff 0 (goKind v 3))
/-- TLBIADDR_WRITE (R64). -/
def execTlbiaddrWrite (v : BitVec 64) (s : State) : Host.Outcome State Fault Refusal := .next (s.regWrite 0x700 0 v)
/-- FRMAP_WRITE (R71). -/
def execFrmapWrite (n : Nat) (v : BitVec 64) (s : State) : Host.Outcome State Fault Refusal := .next (s.regWrite (frmapOff n + 8) 0 v)
/-- FLCFG_WRITE (R86). -/
def execFlcfgWrite (d : Nat) (v : BitVec 64) (s : State) : Host.Outcome State Fault Refusal := .next (s.regWrite (flcfgOff d) 0 v)
/-- TBCFG_WRITE (R90). -/
def execTbcfgWrite (d n : Nat) (v : BitVec 64) (s : State) : Host.Outcome State Fault Refusal := .next (s.regWrite (tbcfgOff d n) 0 v)
/-- QCFG_WRITE (R381). -/
def execQcfgWrite (q : Nat) (v : BitVec 64) (s : State) : Host.Outcome State Fault Refusal := .next (s.regWrite (qOff q) 0 v)
/-- QTAIL_WRITE (R384). -/
def execQtailWrite (q : Nat) (tail : BitVec 32) (s : State) : Host.Outcome State Fault Refusal :=
  .next (s.regWrite (qOff q + 8) 2 (BitVec.ofNat 64 (tail.toNat * 2 ^ 32)))
/-- QOWN_WRITE (R431). -/
def execQownWrite (q : Nat) (v : BitVec 64) (s : State) : Host.Outcome State Fault Refusal := .next (s.regWrite (qOff q + 32) 0 v)
/-- HDROP_WRITE (R427). -/
def execHdropWrite (q : Nat) (s : State) : Host.Outcome State Fault Refusal := .next (s.regWrite (hdropOff q) 0 0)
/-- TBPARK_WRITE (R444). -/
def execTbparkWrite (d k n : Nat) (s : State) : Host.Outcome State Fault Refusal := .next (s.regWrite (tbparkOff d k n) 0 0)
/-- REPCFG_WRITE (R447). -/
def execRepcfgWrite (v : BitVec 64) (s : State) : Host.Outcome State Fault Refusal := .next (s.regWrite repCfg 0 v)
/-- PWRCTL_SLEEP (R442). -/
def execPwrctlSleep (s : State) : Host.Outcome State Fault Refusal := .next (s.regWrite pwrOff 1 (setFld (s.reg pwrOff &&& 0xF0000) 1 1 1))
/-- PWRCTL_PARK (R442). -/
def execPwrctlPark (v : BitVec 64) (s : State) : Host.Outcome State Fault Refusal := .next (s.regWrite pwrOff 2 v)
/-- RECOVERY_GO (R446). -/
def execRecoveryGo (s : State) : Host.Outcome State Fault Refusal := .next (s.regWrite 0x10 0 1)
/-- MGMTARG_WRITE (R449). -/
def execMgmtargWrite (k : Nat) (v : BitVec 64) (s : State) : Host.Outcome State Fault Refusal := .next (s.regWrite (0x410 + 8 * k) 0 v)

/-- A management command: the write of its code, or its next step while it is in progress. -/
def State.mgmtCmd (s : State) (op : Nat) : State := s.regWrite 0x400 0 (BitVec.ofNat 64 op)

/-- RETIRE (R21, R72). -/
def execRetire (s : State) : Host.Outcome State Fault Refusal :=
  .next (match s.dev.mgmt with | some m => if m.op = 1 then s.retireStep m else s.mgmtCmd 1 | none => s.mgmtCmd 1)
/-- MIGRATE (R70). -/
def execMigrate (s : State) : Host.Outcome State Fault Refusal :=
  .next (match s.dev.mgmt with | some m => if m.op = 2 then s.migrateStep m else s.mgmtCmd 2 | none => s.mgmtCmd 2)
/-- MIGRATE_HOLD_CLEAR (R70). -/
def execMigrateHoldClear (n : Nat) (s : State) : Host.Outcome State Fault Refusal :=
  match s.dev.mgmt with
  | some m =>
    if m.op = 2 ∧ m.phase = 3 ∧ m.slot = n then .next ((s.setReg (frmapOff n + 8) (setFld (s.reg (frmapOff n + 8)) 1 1 0)).mgmtDone 0 n)
    else .next s
  | none => .next s
/-- CLEARBAD (R23). -/
def execClearbad (s : State) : Host.Outcome State Fault Refusal := .next (s.mgmtCmd 3)
/-- ATTEST (R438). -/
def execAttest (s : State) : Host.Outcome State Fault Refusal := .next (s.mgmtCmd 4)
/-- DEBUGTOKEN (R452). -/
def execDebugtoken (s : State) : Host.Outcome State Fault Refusal := .next (s.mgmtCmd 5)
/-- READBAD (R450). -/
def execReadbad (s : State) : Host.Outcome State Fault Refusal := .next (s.mgmtCmd 6)
/-- MGMT_UNKNOWN_COMMAND (R449). -/
def execMgmtUnknownCommand (op : BitVec 8) (s : State) : Host.Outcome State Fault Refusal := .next (s.mgmtCmd op.toNat)

/-! ### Power loss, and dies that come and go -/

/-- POWER_LOSS (R20, R22): what the memory devices and the device registers held is gone; the non-volatile store stays. A RETIRE that it
cuts short leaves an entry whose CHK does not match. -/
def execPowerLoss (torn : Bool) (s : State) : Host.Outcome State Fault Refusal :=
  let (k, s) := s.free
  let bad : List DWord :=
    match torn, s.dev.mgmt with
    | true, some m =>
      if m.op = 1 ∧ s.dev.badList.length < 4096 then
        let f := m.arg 0 0 32
        let w : DWord := BitVec.ofNat 64 (f + (frameTier f).getD 0 * 2 ^ 33 + m.arg 1 0 2 * 2 ^ 34 + s.dev.badSeq % 4096 * 2 ^ 36)
        [setFld w 48 16 (chkOf w + 1 + k % 65535)]
      else []
    | _, _ => []
  let outside (c : Nat × Byte) : Bool := !inTier c.1
  let t := s.afterReset
  .next { t with
    mem := { t.mem with bytes := t.mem.bytes.filter outside, poison := [] }
    dev := { t.dev with badList := s.dev.badList ++ bad } }

/-- LINK_UP (R435). -/
def execLinkUp (port : Nat) (s : State) : Host.Outcome State Fault Refusal :=
  .next { s with dev := { s.dev with portDown := s.dev.portDown.filter (· ≠ port) } }

/-- FRAME_SUSPECT_REPORT (R10): a frame whose count has reached its tier's threshold is reported, and its count restarts. The
report names the gallery die and no launch (log 73). -/
def execFrameSuspectReport (frame : Nat) (s : State) : Host.Outcome State Fault Refusal :=
  let t := tierOf (frame * 2 ^ 16)
  let thr := fld (s.reg 0x110) (8 * t) 8
  if mget 0 s.mem.ce frame < thr then .next s
  else .next (({ s with mem := { s.mem with ce := mset 0 s.mem.ce frame 0 } }).report 2 8 255 none [frame, t, thr] [])

/-- PATROL_SCRUB_READ (R7, R10). -/
def execPatrolScrubRead (sector : Nat) (found : EccFinding) (s : State) : Host.Outcome State Fault Refusal :=
  if inTier (sector * 32) then .next (s.eccFound sector true found) else .next s

end Sys2Proof.Machine
end

