-- ==== Sys2Proof/Machine/Perform.lean ====
section
/-! DEFINITION. The steps of Table 07-3 that perform accesses: reads, writes, drains, deliveries, evictions, atomics, tiles, and views
(R142 to R163, R79 to R88, R46). A step named while its condition does not hold changes nothing. -/

namespace Sys2Proof.Machine

/-- The lane of an operation that a step names. -/
def State.lane? (s : State) (f opn lane : Nat) : Option (Flight × Op × Access) :=
  (s.flight? f).bind fun x => (x.op? opn).bind fun o => (o.lane? lane).map fun a => (x, o, a)

def Access.isTodo (a : Access) : Bool := match a.phase with | .todo => true | _ => false
def Access.isQueued (a : Access) : Bool := match a.phase with | .queued => true | _ => false

/-! ### Host and peer memory (R433, R435) -/

/-- Function that a flight's host accesses use: its queue's (R431). -/
def State.fnOf (s : State) (f : Flight) : Nat := fld (s.reg (qOff (s.launchOf f).queue + 32)) 0 5
/-- A host page waits for its ATS completion. -/
def State.atsWait (s : State) (fn pa : Nat) : Bool :=
  decide (fn ∈ s.tr.atsOn) && !(s.tr.ats.any fun c => decide (c.1 = fn) && decide (c.2.1 = pa / 4096))
/-- A read or atomic that completes with an error marks its destination and is reported. -/
def State.failRead (s : State) (f : Flight) (o : Op) (a : Access) (port : Nat) : State :=
  (s.reportFlight f 13 [a.pa, port, 1] []).lanePerformed f.id o.id
    { a with phase := .done, got := 0, pois := if o.noValue || o.toZero then none else some (a.pa / 32 * 32) } []

/-! ### Device registers, in program order (R445) -/

def Access.isDev (a : Access) : Bool := decide (a.space = .dev)
/-- Device accesses of the flight that come first. -/
def State.devBefore (s : State) (f : Flight) (seq lane : Nat) : Bool :=
  (f.ops.any fun o => o.acc.any fun a => a.isOpen && a.isDev && (decide (o.seq < seq) || (decide (o.seq = seq) && decide (a.lane < lane))))
  || (f.wq.any fun w => w.acc.isDev && (decide (w.seq < seq) || (decide (w.seq = seq) && decide (w.acc.lane < lane))))
  || s.mem.transit.any fun p => decide (p.2.flight = f.id) && p.2.acc.isDev
      && (decide (p.2.seq < seq) || (decide (p.2.seq = seq) && decide (p.2.acc.lane < lane)))

def State.readDev (s : State) (f : Flight) (o : Op) (a : Access) : State :=
  if s.devBefore f o.seq a.lane then s
  else s.lanePerformed f.id o.id { a with phase := .done, got := if o.noValue then 0 else s.devRead (a.pa - regOff) a.size } []

/-! ### Views (R46, R162) -/

def State.viewBlocks (s : State) (asid zr : Nat) (a : Access) : List Nat := (s.zr asid zr).blocksOf a.pa a.size
/-- A commit of the address-range table moves the home of a block that the access needs (R15). -/
def State.viewMoves (s : State) (asid zr : Nat) (a : Access) : Bool :=
  (s.viewBlocks asid zr a).any fun b => s.homeMoves (s.remap ((s.zr asid zr).codeAt b))

/-- A core view's copy of view bytes. -/
def State.viewCopy (s : State) (core asid zr : Nat) (a : Access) : Option LineCopy :=
  (s.l1Copy core (viewLine asid zr a.pa)).bind fun c => if c.has (a.pa % 128) a.size then some c else none

/-- A view access at its block's home slice. -/
def State.viewHome (s : State) (f : Flight) (o : Op) (a : Access) (asid zr : Nat) : State :=
  if s.viewMoves asid zr a then s else
  let blks := s.viewBlocks asid zr a
  let queue (t : State) : State := t.lanePhase f.id o.id a.lane .queued
  /- The lanes of a ZFLUSH or ZDROP that name one block act on it once, after the writes that each of them follows (R162, R319). -/
  let flush (blk : Nat) (drop : Bool) : State :=
    let mates := s.flushMates o asid zr blk
    if mates.any fun b => !f.mayPerform o b || s.ownComing f o.seq b then s
    else s.blockRequest asid zr [blk] (.flush f.id o.id a.lane drop) fun t => mates.foldl (fun t b => t.lanePhase f.id o.id b.lane .queued) t
  match o.kind with
  | .load | .pref | .zerr | .azld => s.blockRequest asid zr blks (.read f.id o.id a.lane (s.fgen (dieOf f.core))) queue
  | .atomic =>
    if s.ownComing f o.seq a || (isRel o.ord && !s.releaseOk f o.seq o.scope (s.beforeOf f o.seq)) then s
    else s.blockRequest asid zr blks (.atomic f.id o.id a.lane) queue
  | .zflush => flush (blks.headD 0) false
  | .zdrop => flush (blks.headD 0) true
  | _ => s

/-! ### Perform read (R143, R151) -/

/-- A read that the write queue does not serve whole (items 2 to 5 of R143). -/
def State.readPast (s : State) (f : Flight) (o : Op) (a : Access) : State :=
  match a.space with
  | .tier => if s.homeMoves a.pa then s else s.readTier f o a
  | .loc wg => s.readLocal f o a wg
  | .dev => s.readDev f o a
  | .view asid zr =>
    (match if 2 ≤ o.acqScope ∨ s.viewMoves asid zr a then none else s.viewCopy f.core asid zr a with
     | some c => s.readCopy f o a c
     | none => s)
  | sp =>
    if o.noValue then s.lanePerformed f.id o.id { a with phase := .done } []
    else if decide (sp = .host) && s.atsWait (s.fnOf f) a.pa then s
    else match s.failPort a.pa with
    | some p => s.failRead f o a p
    | none => s.readSystem f o a

/-- A lane's read takes the first value of R143 that exists. -/
def State.readNow (s : State) (f : Flight) (o : Op) (a : Access) : State :=
  match if o.noValue || a.isDev then none else f.ownValue a with
  | some got => s.lanePerformed f.id o.id { a with phase := .done, got } []
  | none => s.readPast f o a

/-! ### Perform write, drain, deliver (R142, R144, R150) -/

/-- PERFORM_WRITE: the lane's write enters the write queue. -/
def execPerformWrite (f op lane : Nat) (s : State) : Host.Outcome State Fault Refusal :=
  match s.lane? f op lane with
  | none => .next s
  | some (x, o, a) =>
    if o.kind ≠ .store ∨ a.isTodo = false ∨ x.mayPerform o a = false ∨ (a.isDev ∧ s.devBefore x o.seq lane) then .next s
    else
      let (id, s) := s.fresh
      let w : Wr := { id, flight := f, seq := o.seq, op, acc := { a with phase := .todo }, core := x.core, tenant := (s.launchOf x).tenant,
                      rel := if isRel o.ord then o.scope else 0, before := [], hint := o.hint, queued := false,
                      asid := (s.launchOf x).asid, fn := s.fnOf x, full := o.covers a }
      let s := s.updFlight f fun y => { y with wq := y.wq ++ [w] }
      .next ((s.lanePhase f op lane .done).settle f op)

/-- Writes of the queue that come before `w` in program order and overlap it. -/
def Flight.heldBy (x : Flight) (w : Wr) : Bool :=
  (x.wq.takeWhile fun v => decide (v.id ≠ w.id)).any fun v => overlapping w.acc.space w.acc.pa w.acc.size v.acc

/-- A write enters its die's transit set. -/
def State.toTransit (s : State) (w : Wr) (before : List Nat) : State :=
  let s := s.leaveQueue w before
  ({ s with mem := { s.mem with transit := s.mem.transit ++ [(dieOf w.core, w)] } }).settle w.flight w.op

/-- A write applied where its flight's die is its home. -/
def State.drainHome (s : State) (x : Flight) (w : Wr) : State :=
  let before := if w.rel = 0 then [] else s.beforeOf x w.seq
  (((s.updateL1 w.core w).applyHome w).leaveQueue w before).settle w.flight w.op

def State.queueWrite (s : State) (w : Wr) : State :=
  s.updFlight w.flight fun x => { x with wq := x.wq.map fun v => if v.id = w.id then { v with queued := true } else v }

/-- One write leaves the write queue, or waits at its home. -/
def State.drainOne (s : State) (x : Flight) (w : Wr) : State :=
  let before := if w.rel = 0 then [] else s.beforeOf x w.seq
  if w.queued || x.heldBy w || (decide (w.rel ≠ 0) && !s.releaseOk x w.seq w.rel before) then s
  else match w.acc.space with
  | .loc wg =>
    if w.acc.tag = 0 ∨ w.acc.core = x.core then ((s.applyLocal w wg).leaveQueue w before).settle w.flight w.op
    else s.toTransit w before
  | .tier =>
    if s.homeDie w.acc.pa = dieOf w.core ∧ !s.inTransit (dieOf w.core) w.acc then
      match s.homeNow w.acc.pa (secMask (w.acc.pa % 128) w.acc.size) with
      | .wait => s
      | .miss =>
        if s.noFill w then (s.drainHome x w).allocWhole w
        else (s.joinFill (lineOf w.acc.pa) (.write (dieOf w.core) w.id false)).queueWrite w
      | .ready => s.drainHome x w
    else if s.homeMoves w.acc.pa then s
    else ((s.updateL1 w.core w).updateFar w.core w).toTransit w before
  | .view asid zr =>
    if s.viewMoves asid zr w.acc then s
    else s.blockRequest asid zr (s.viewBlocks asid zr w.acc) (.write (dieOf w.core) w.id false) fun t => t.queueWrite w
  | _ => s.toTransit w before

/-- DRAIN (R144). -/
def execDrain (f w : Nat) (s : State) : Host.Outcome State Fault Refusal :=
  .next (match s.flight? f with
    | some x => (match findBy Wr.id x.wq w with | some v => s.drainOne x v | none => s)
    | none => s)

/-- A write leaves its transit set. -/
def State.leaveTransit (s : State) (w : Wr) : State :=
  { s with mem := { s.mem with transit := s.mem.transit.filter fun p => decide (p.2.id ≠ w.id) } }
def State.queueTransit (s : State) (w : Wr) : State :=
  { s with mem := { s.mem with transit := s.mem.transit.map fun p => if p.2.id = w.id then (p.1, { p.2 with queued := true }) else p } }

/-- DELIVER (R144, R169): earlier writes of the die to the line go first. -/
def execDeliver (d w : Nat) (s : State) : Host.Outcome State Fault Refusal :=
  match s.mem.transit.find? fun p => decide (p.1 = d) && decide (p.2.id = w) with
  | none => .next s
  | some (_, v) =>
    let earlier := (s.mem.transit.takeWhile fun p => decide (p.2.id ≠ w)).any fun p =>
      decide (p.1 = d) && decide (p.2.acc.space = v.acc.space) && decide (lineOf p.2.acc.pa = lineOf v.acc.pa)
    if earlier ∨ v.queued then .next s
    else match v.acc.space with
    | .tier =>
      (match s.homeNow v.acc.pa (secMask (v.acc.pa % 128) v.acc.size) with
       | .wait => .next s
       | .miss =>
         if s.noFill v then .next (((s.applyHome v).leaveTransit v).allocWhole v)
         else .next ((s.joinFill (lineOf v.acc.pa) (.write d w true)).queueTransit v)
       | .ready => .next ((s.applyHome v).leaveTransit v))
    | .loc wg => .next ((s.applyLocal v wg).leaveTransit v)
    | .view _ _ => .next s
    | .dev =>
      let first := s.mem.transit.any fun p => decide (p.2.flight = v.flight) && p.2.acc.isDev
        && (decide (p.2.seq < v.seq) || (decide (p.2.seq = v.seq) && decide (p.2.acc.lane < v.acc.lane)))
      if first then .next s else .next ((s.leaveTransit v).devWrite (v.acc.pa - regOff) v.acc.size v.acc.data)
    | sp =>
      if decide (sp = .host) && s.atsWait v.fn v.acc.pa then .next s
      else match s.failPort v.acc.pa with
      | some p => .next ((s.leaveTransit v).report 13 d v.core ((s.flight? v.flight).bind fun f => s.launch? f.launch) [v.acc.pa, p, 2] [])
      | none => .next ((s.applyHome v).leaveTransit v)

/-! ### Atomic (R155) -/

/-- ATOMIC_STEP. -/
def execAtomicStep (f op lane : Nat) (s : State) : Host.Outcome State Fault Refusal :=
  match s.lane? f op lane with
  | none => .next s
  | some (x, o, a) =>
    if o.kind ≠ .atomic ∨ a.isTodo = false ∨ x.mayPerform o a = false ∨ s.ownComing x o.seq a
        ∨ (isRel o.ord ∧ s.releaseOk x o.seq o.scope (s.beforeOf x o.seq) = false) then .next s
    else match a.space with
    | .tier =>
      (match s.homeNow a.pa (secMask (a.pa % 128) a.size) with
       | .wait => .next s
       | .miss => .next ((s.joinFill (lineOf a.pa) (.atomic f op lane)).lanePhase f op lane .queued)
       | .ready => .next (s.atomHome x o a))
    | .loc wg => .next (s.atomLocal x o a wg)
    | .view asid zr => .next (s.viewHome x o a asid zr)
    | .dev =>
      if s.devBefore x o.seq lane then .next s
      else
        let old := s.devRead (a.pa - regOff) a.size
        let (v, b) := atomLane o a old
        .next ((s.devWrite (a.pa - regOff) a.size v).lanePerformed f op b [])
    | sp =>
      if decide (sp = .host) && s.atsWait (s.fnOf x) a.pa then .next s
      else match s.failPort a.pa with
      | some p => .next (s.failRead x o a p)
      | none => .next (s.atomHome x o a)

/-- BLOCK_VIEW_ACCESS (R46): a load that a core view serves does not reach the slice. -/
def execBlockViewAccess (f op lane : Nat) (s : State) : Host.Outcome State Fault Refusal :=
  match s.lane? f op lane with
  | none => .next s
  | some (x, o, a) =>
    match a.space with
    | .view asid zr =>
      if o.kind = .store then
        .next (match x.wq.find? fun w => decide (w.op = op) && decide (w.acc.lane = lane) with | some w => s.drainOne x w | none => s)
      else if a.isTodo = false ∨ x.mayPerform o a = false then .next s
      else if o.kind = .load ∧ o.acqScope < 2 ∧ (s.viewCopy x.core asid zr a).isSome then .next s
      else .next (s.viewHome x o a asid zr)
    | _ => .next s

/-! ### Evictions and fills (R81, R82) -/

/-- EVICT (R142): a line owned by an engine stays. -/
def execEvict (far : Bool) (unit line : Nat) (s : State) : Host.Outcome State Fault Refusal :=
  if (match s.l2? line with | some x => x.owner.isSome | none => false) then .next s
  else .next (if far then s.dropFar unit line else s.dropL1 unit line)

/-- L2_EVICT (R81). -/
def execL2Evict (line : Nat) (s : State) : Host.Outcome State Fault Refusal :=
  match s.l2? line with
  | some x => if x.pinned then .next s else .next ((s.writeBack x).dropL2 line)
  | none => .next s

/-- An overlapping write that its flight made earlier has entered the transit set since a read was sent. -/
def State.ownTransit (s : State) (f : Flight) (seq : Nat) (a : Access) : Bool :=
  s.mem.transit.any fun p => decide (p.2.flight = f.id) && decide (p.2.seq < seq) && overlapping a.space a.pa a.size p.2.acc

/-- One entry of a waiting list performed (R82). A read that an own write has overtaken on its way to the transit set is sent again, so that it
returns that write (Table 07-4). -/
def State.serveFill (s : State) (r : HomeReq) : State :=
  match r with
  | .read f op lane gen => (match s.lane? f op lane with
      | some (x, o, a) =>
        if a.isQueued = false then s
        else if s.ownTransit x o.seq a then s.lanePhase f op lane .todo
        else s.readHome x o { a with phase := .todo } gen
      | none => s)
  | .atomic f op lane => (match s.lane? f op lane with | some (x, o, a) => if a.isQueued then s.atomHome x o { a with phase := .todo } else s | none => s)
  | .write _ w true => (match s.mem.transit.find? fun p => decide (p.2.id = w) with | some (_, v) => (s.applyHome v).leaveTransit v | none => s)
  | .write _ w false =>
    (match s.wr? w with
     | some v => (match s.flight? v.flight with | some x => s.drainHome x v | none => s)
     | none => s)
  | .flush _ _ _ _ => s

/-- What the memory device finds as it reads the sectors of a pending fill (R9, R10). -/
def State.readFinds (s : State) (line : Nat) (found : List EccFinding) : State :=
  match s.l2? line with
  | some x => if x.filling then s.setL2 { x with finds := found.take 4 } else s
  | none => s
/-- Sectors of a line that a fill reads from the memory device, with what the read found there. -/
def L2Line.fillFinds (x : L2Line) : List (Nat × EccFinding) :=
  ((enum x.finds).filter fun p => decide (p.1 < 4) && !x.valid.getLsbD p.1).map fun p => (4 * x.line + p.1, p.2)

/-- L2_FILL_ARRIVE (R82): what the fill found (R9, R10), and then the waiting list in arrival order. -/
def execL2FillArrive (line : Nat) (s : State) : Host.Outcome State Fault Refusal :=
  match s.l2? line with
  | some x =>
    if x.filling = false then .next s
    else
      let s := (x.fillFinds.foldl (fun (s : State) p => s.eccFound p.1 false p.2) s).fillLine line
      let s := match s.l2? line with | some y => s.setL2 { y with waiting := [] } | none => s
      .next (x.waiting.foldl State.serveFill s)
  | none => .next s

/-! ### Peer forwarding (R83, R84) -/

/-- PEER_PROBE: the predicted peer serves the read from its read-only copy, or the read goes on to its home. -/
def execPeerProbe (f op lane : Nat) (s : State) : Host.Outcome State Fault Refusal :=
  match s.lane? f op lane with
  | none => .next s
  | some (x, o, a) =>
    if a.isTodo = false ∨ x.mayPerform o a = false ∨ probed o a = false ∨ s.homeMoves a.pa then .next s
    else if (match s.l1Copy x.core (lineOf a.pa) with | some c => c.has (a.pa % 128) a.size | none => false) then .next s
    else match s.predict x.core a.pa with
    | none => .next s
    | some peer =>
      match s.l1Copy peer (lineOf a.pa) with
      | some c =>
        if c.ro && c.has (a.pa % 128) a.size then
          let s := (s.train x.core a.pa peer).train peer a.pa x.core
          let s := if o.fillsL1 then s.l1FromCopy x.core c (secMask (a.pa % 128) a.size) true o.hint else s
          .next (s.readCopy x o a c)
        else .next ((s.untrain x.core a.pa).readBeyond x o a)
      | none => .next ((s.untrain x.core a.pa).readBeyond x o a)

/-! ### Tiles (R159 to R161, R317, R318) -/

/-- Pieces of a tile operation: physical byte, bit in it, bit of the tile, bits. -/
def Op.pieces (o : Op) : List (Nat × Nat × Nat × Nat) :=
  (tilePieces (decide (o.code / 2 = 1)) (o.code % 2) (BitVec.ofNat 32 o.sym) o.accBase o.batch).filterMap fun (va, bit, pos, n) =>
    (o.acc.find? fun a => decide (a.va = va / 128 * 128)).map fun a => (a.pa + va % 128, bit, pos, n)

/-- The tile bytes that a load's pieces give over what the tile holds; pieces of poisoned sectors give nothing. -/
def State.tileRead (s : State) (x : Flight) (o : Op) : List RegWrite :=
  let ps := o.pieces.filter fun p => !s.secPoisoned (p.1 / 32)
  let bytes := dedup (ps.map fun p => p.2.2.1 / 8)
  bytes.map fun b =>
    let v := (ps.filter fun p => decide (p.2.2.1 / 8 = b)).foldl (fun v (pa, bit, pos, n) =>
      putBits v (pos % 8) n (nbits (s.homeByte pa).toNat bit n)) (x.rdTile o.num b).toNat
    ⟨.tile o.num, 1632 * o.num + b, v⟩

/-- The memory bytes that a store's pieces give, and how many of their bits are written. -/
def State.tileBytesOut (s : State) (o : Op) : List (Nat × Byte × Nat) :=
  let tile (b : Nat) : Nat := ((o.writes.find? fun w => decide (w.key = 1632 * o.num + b)).map RegWrite.val).getD 0
  let ps := o.pieces
  (dedup (ps.map Prod.fst)).map fun pa =>
    let mine := ps.filter fun p => decide (p.1 = pa)
    (pa, BitVec.ofNat 8 (mine.foldl (fun v (_, bit, pos, n) => putBits v bit n (nbits (tile (pos / 8)) (pos % 8) n)) (s.homeByte pa).toNat),
     (mine.map fun p => p.2.2.2).sum)

/-- Sectors that a tile store touches, with whether it writes every bit of them. -/
def coveredSectors (bs : List (Nat × Byte × Nat)) : List (Nat × Bool) :=
  (dedup (bs.map fun b => b.1 / 32)).map fun sec =>
    (sec, decide (((bs.filter fun b => decide (b.1 / 32 = sec)).map fun b => min 8 b.2.2).sum = 256))

def Op.allDone (o : Op) : Op := { o with acc := o.acc.map fun a => { a with phase := .done } }

/-- Whether every line of the footprint is free to be locked: no engine owns it, no commit moves it (R160); and the order of Table 07-4 holds for the
bytes that the tile touches. -/
def State.tileOpen (s : State) (x : Flight) (o : Op) : Bool :=
  (o.acc.all fun a => !s.homeMoves a.pa && (match s.l2? (lineOf a.pa) with | some l => l.owner.isNone && l.waiting.isEmpty | none => true))
  && o.tileSpots.all fun a => x.mayTouch o a && !s.ownComing x o.seq a

/-- Lines of the footprint that the slices must fill first: all, but those that a store writes whole (R80). -/
def State.tileFills (s : State) (o : Op) : List Nat :=
  let bs := if o.kind = .tileStore then s.tileBytesOut o else []
  (o.acc.map fun a => lineOf a.pa).filter fun l =>
    s.unfilled l 15 && !(decide (((bs.filter fun b => decide (lineOf b.1 = l)).map fun b => min 8 b.2.2).sum = 1024)
      && (match s.l2? l with | some x => !x.filling | none => true))

/-- Whether a tile operation can be performed now. -/
def State.tileFree (s : State) (x : Flight) (o : Op) : Bool := s.tileOpen x o && (s.tileFills o).isEmpty

/-- What a tile load observes, line by line. -/
def State.tileSeen (s : State) (x : Flight) (o : Op) : List Nat :=
  o.acc.flatMap fun a => s.seen x o (s.lineOrder (lineOf a.pa))
    (dedup ((o.pieces.filter fun p => decide (lineOf p.1 = lineOf a.pa)).map fun p => mget 0 s.mem.writer p.1))

def State.tileLoadStep (s : State) (x : Flight) (o : Op) : State :=
  let bad := sortBy id ((dedup (o.pieces.map fun p => p.1 / 32)).filter fun sec => s.secPoisoned sec)
  let obs := s.tileSeen x o
  let o' := { o.allDone with writes := s.tileRead x o }
  let o' := match bad with
    | sec :: _ => { o' with acc := (enum o'.acc).map fun (i, a) => if i = 0 then { a with pois := some (sec * 32) } else a }
    | [] => o'
  let s := s.updFlight x.id fun y => y.setOp o'
  let s := o.acc.foldl (fun s a => s.discardOwn x.core (lineOf a.pa)) s
  (s.observe x.id o.seq obs).settle x.id o.id

/-- A tile store whose footprint is clean, or covered. -/
def State.tileStoreClean (s : State) (x : Flight) (o : Op) (bs : List (Nat × Byte × Nat)) : State :=
  let (wid, s) : Nat × State := s.stepWriter x o
  let s : State := (coveredSectors bs).foldl (fun (s : State) (c : Nat × Bool) => s.coverSector c.1 (if c.2 then .whole else .among)) s
  let s : State := bs.foldl (fun (s : State) (b : Nat × Byte × Nat) => s.homePut wid b.1 b.2.1) s
  let s : State := o.acc.foldl (fun (s : State) (a : Access) => s.noteWrite (lineOf a.pa) wid (isRel o.ord)) s
  o.acc.foldl (fun (s : State) (a : Access) => s.discardOwn x.core (lineOf a.pa)) s

def State.tileStoreStep (s : State) (x : Flight) (o : Op) : State :=
  let bs := s.tileBytesOut o
  let bad := ((coveredSectors bs).filter fun c => s.secPoisoned c.1 && !c.2).map Prod.fst
  let s1 : State :=
    match sortBy id bad with
    | sec :: _ => s.updFlight x.id fun y => { y with refused := y.refused ++ lanes.map fun l => (⟨l, sec * 32, o.pc⟩ : Refused) }
    | [] => s.tileStoreClean x o bs
  (s1.updFlight x.id fun y => y.setOp o.allDone).settle x.id o.id

/-- TILE_STEP. -/
def execTileStep (f op : Nat) (s : State) : Host.Outcome State Fault Refusal :=
  match (s.flight? f).bind fun x => (x.op? op).map fun o => (x, o) with
  | none => .next s
  | some (x, o) =>
    if o.performed ∨ s.tileOpen x o = false ∨ (isRel o.ord ∧ s.releaseOk x o.seq o.scope (s.beforeOf x o.seq) = false) then .next s
    else if !(s.tileFills o).isEmpty then .next ((s.tileFills o).foldl State.startFill s)
    else match o.kind with
    | .tileLoad => .next (s.tileLoadStep x o)
    | .tileStore => .next (s.tileStoreStep x o)
    | _ => .next s

end Sys2Proof.Machine
end

