-- ==== Sys2Proof/Machine/Landing.lean ====
section
/-! DEFINITION. Reads that an instruction makes (PERFORM_READ, with the reads of MGATH, R338), and the landing of results (R189, R411): loads,
atomics, tiles, fences (R153), semaphore operations (R164), CLEAN and INVAL (R320), and accumulators (R337). -/

namespace Sys2Proof.Machine

/-! ### MGATH (R338) -/

/-- What a gather reads next for one of its rows; an access keeps the row in `reg`, 255 for the descriptor. -/
inductive GNext where
  | retry (a : Access)
  | read (va size tag : Nat)
  | done
  deriving DecidableEq, Repr

def gDesc : Nat := 255
def Op.gWord (o : Op) (k : Nat) : Nat := (((o.acc.filter fun a => decide (a.reg = gDesc)).map Access.got).getD k 0)
def Op.gRow (o : Op) (i : Nat) : List Access := o.acc.filter fun a => decide (a.reg = i)
def Op.gWidth (o : Op) : Nat := shapeBits (BitVec.ofNat 32 o.sym) / 8
/-- Whether a column index falls in the tile. -/
def Op.gIn (o : Op) (col : Nat) : Bool := decide (o.scope ≤ col) && decide (col < o.scope + shapeCols (BitVec.ofNat 32 o.sym))

/-- Through the entries of a row: `e` the entry, `last` one past the last. -/
def Op.gEntries (o : Op) (i last : Nat) : Nat → List Access → GNext
  | e, [] => if e < last then .read ((o.gWord 1 + 4 * e) % 2 ^ 64) 4 i else .done
  | e, [c] =>
    if o.gIn c.got then .read ((o.gWord 2 + o.gWidth * e) % 2 ^ 64) o.gWidth i
    else if e + 1 < last then .read ((o.gWord 1 + 4 * (e + 1)) % 2 ^ 64) 4 i else .done
  | e, c :: v :: r => if o.gIn c.got then o.gEntries i last (e + 1) r else o.gEntries i last (e + 1) (v :: r)

def Op.gNext (o : Op) (i : Nat) : GNext :=
  match o.acc.find? fun a => a.isOpen && (decide (a.reg = i) || decide (a.reg = gDesc)) with
  | some a => .retry a
  | none =>
    let d := o.gRow gDesc
    if d.length < 4 then .read ((o.accBase + 8 * d.length) % 2 ^ 64) 8 gDesc
    else
      match o.gRow i with
      | [] => .read ((o.gWord 0 + 4 * (o.batch + i)) % 2 ^ 64) 4 i
      | [_] => .read ((o.gWord 0 + 4 * (o.batch + i + 1)) % 2 ^ 64) 4 i
      | a :: b :: r => o.gEntries i b.got a.got r

/-- Values that a row has read, with their columns: (column, access). -/
def Op.gVals (o : Op) : List Access → List (Nat × Access)
  | c :: v :: r => if o.gIn c.got then (c.got, v) :: o.gVals r else o.gVals (v :: r)
  | _ => []
def Op.gRowVals (o : Op) (i : Nat) : List (Nat × Access) := o.gVals ((o.gRow i).drop 2)
def Op.gRows (o : Op) : List Nat := List.range (shapeRows (BitVec.ofNat 32 o.sym))

/-- The trap a gather has come to: word 3, the work limit, poison in what guides it. -/
def Op.gBad (o : Op) : Option TrapInfo :=
  let vals := o.gRows.flatMap fun i => (o.gRowVals i).map fun p => p.2.lane
  match o.acc.find? fun a => a.pois.isSome && !decide (a.lane ∈ vals) with
  | some a => some { code := 0x18, cause := 1, addr := a.pois.getD 0, aux := o.code }
  | none =>
    if !(o.acc.any Access.isOpen) && decide ((o.gRow gDesc).length = 4) && decide (o.gWord 3 ≠ 0) then some { code := 0x02, cause := 4 }
    else if o.gRows.any fun i => match o.gRow i with | a :: b :: _ => !b.isOpen && decide (a.got + 4096 < b.got) | _ => false then
      some { code := 0x02, cause := 4 }
    else none

/-- The tile a finished gather gives: zeros over the shape, then the elements in order. -/
def Op.gTile (o : Op) (old : Nat) : Nat :=
  let w := BitVec.ofNat 32 o.sym
  o.gRows.foldl (fun n i =>
    (o.gRowVals i).foldl (fun n (col, a) => if a.pois.isSome then n else putBits n (elemPos w i (col - o.scope)) (shapeBits w) a.got)
      (putBits n (384 * i) (rowBits w) 0)) old

def Op.gDone (o : Op) : Bool := o.gRows.all fun i => match o.gNext i with | .done => true | _ => false

/-- A gather's trap leaves the tile unchanged; from the residual queue it is that of R194. -/
def State.gTrap (s : State) (x : Flight) (o : Op) (t : TrapInfo) : State :=
  let t := { t with mask := x.exm }
  let s := s.updFlight x.id fun f => f.endOp { o with sb := if o.hint = 1 then o.sb else none }
  if o.hint = 1 then s.residualTrap x.id o.pc t else s.raiseTrap x.id t

/-- A gather that has read everything is ready, a poisoned value marking its tile. One that runs from the residual queue is charged here, where its lines
are known (R91, log 85). -/
def State.gFinish (s : State) (x : Flight) (o : Op) : State :=
  let marks := o.acc.filterMap Access.pois
  let sym := match marks with | [] => 0 | p :: r => r.foldl min p + 1
  let n := x.tileNum o.num
  let s := if o.hint = 1 then s.spend x (s.charge x false o.acc) else s
  s.updFlight x.id fun f => f.setOp { o with
    writes := tileWrites o.num n (o.gTile n), acquired := true, sym, kind := if o.hint = 1 then .result else .mgath, acc := if o.hint = 1 then [] else o.acc }

def State.gCheck (s : State) (f opn : Nat) : State :=
  match (s.flight? f).bind fun x => (x.op? opn).map fun o => (x, o) with
  | none => s
  | some (x, o) =>
    match o.gBad with
    | some t => s.gTrap x o t
    | none => if o.gDone then s.gFinish x o else s

/-- The next read of a gather's row. -/
def State.gRead (s : State) (x : Flight) (o : Op) (row : Nat) : State :=
  match o.gNext row with
  | .done => s
  | .retry a => if a.isTodo && x.mayPerform o a then s.readNow x o a else s
  | .read va size tag =>
    match resolveGlobal s x .load size size true [(0, va)] with
    | .bad (.trap t) => s.gTrap x o t
    | .bad (.hold t) => t
    | .bad .go => s
    | .ok l =>
      match l with
      | a :: _ =>
        let a := { a with lane := o.acc.length, reg := tag }
        let o := { o with acc := o.acc ++ [a] }
        let s := s.updFlight x.id fun f => f.setOp o
        if x.mayPerform o a then s.readNow x o a else s
      | [] => s

/-! ### PERFORM_READ -/

/-- PERFORM_READ (R143, R151); a gather names one of its rows. -/
def execPerformRead (f op lane : Nat) (s : State) : Host.Outcome State Fault Refusal :=
  match (s.flight? f).bind fun x => (x.op? op).map fun o => (x, o) with
  | none => .next s
  | some (x, o) =>
    match o.kind with
    | .mgath =>
      if o.acquired ∨ s.isHeld x ∨ x.isEnded then .next s
      else if o.gBad.isSome ∨ o.gDone then .next (s.gCheck f op)
      else .next ((s.gRead x o lane).gCheck f op)
    | .load | .pref =>
      (match o.lane? lane with
       | some a => if a.isTodo && x.mayPerform o a then .next (s.readNow x o a) else .next s
       | none => .next s)
    | _ => .next s

/-! ### Results -/

/-- Registers of a lane's value: `n` of them from `r`. -/
def regsOfLane (r n lane v : Nat) : List RegWrite := (List.range n).map fun k => ⟨.v (r + k), 64 * (r + k) + lane, v / 2 ^ (32 * k) % 2 ^ 32⟩
def marksOfLane (r n lane pa : Nat) : List PMark := (List.range n).map fun k => ⟨.v (r + k), lane, pa⟩

/-- A loaded value extended (Table 10-15). -/
def loadVal (ty v : Nat) : Nat := if ty = 1 then sext 8 32 v else if ty = 3 then sext 16 32 v else v

/-- What one lane of a load gives. -/
def loadLane (o : Op) (a : Access) : List RegWrite × List PMark :=
  if o.toZero then ([], [])
  else if 16 ≤ o.code then
    match a.pois with
    | some p => ([], [⟨.s a.reg, 0, p⟩])
    | none => ([⟨.s a.reg, a.reg, if o.code = 18 then sext 32 64 a.got else a.got⟩], [])
  else
    let n := tyRegs o.code
    match a.pois with
    | some p => ([], marksOfLane a.reg n a.lane p)
    | none => (regsOfLane a.reg n a.lane (loadVal o.code a.got), [])

/-- The affine value of an AZLD lane (R303): element, bound, symbol. -/
def azldAff (wide : Bool) (elem bound sym : Nat) : Aff :=
  let v := if wide then f64 elem else f32 elem
  let centre := sum64 [v]
  if !finite v || !finite (f32 bound) then unbounded centre
  else ⟨centre, 0, false, if bound = 0 then [] else [(sym, bound)]⟩

/-- An AZLD lane: its element is as wide as the view's was when it was performed. -/
def azldLane (o : Op) (a : Access) : List RegWrite × List PMark :=
  match a.pois with
  | some p => ([], marksOfLane a.reg 16 a.lane p)
  | none =>
    ((enum (affPack (azldAff (decide (a.size = 8)) a.got a.data2 o.sym))).map fun (i, w) => ⟨.v (a.reg + i), 64 * (a.reg + i) + a.lane, w⟩, [])

/-- What a lane of an operation gives its destination. -/
def laneResult (o : Op) (a : Access) : List RegWrite × List PMark :=
  match o.kind with
  | .load => loadLane o a
  | .atomic =>
    let n := atomSize o.code / 4
    (match a.pois with | some p => ([], marksOfLane a.reg n a.lane p) | none => (regsOfLane a.reg n a.lane a.got, []))
  | .zerr => (match a.pois with | some p => ([], marksOfLane a.reg 1 a.lane p) | none => (regsOfLane a.reg 1 a.lane a.got, []))
  | .azld => azldLane o a
  | _ => ([], [])

/-- A load into ZERO that met poison is only reported (R411). -/
def State.reportZero (s : State) (x : Flight) (o : Op) : State :=
  match o.acc.filterMap Access.pois with
  | [] => s
  | p :: r => if o.toZero then let pa := r.foldl min p; s.reportFlight x 18 [pa, tierOf pa, x.fidx] [] else s

def State.landLanes (s : State) (x : Flight) (o : Op) : State :=
  let rs := o.acc.map (laneResult o)
  (s.reportZero x o).landOp x.id o (rs.flatMap Prod.fst) (rs.flatMap Prod.snd)

/-- A tile load, or a gather's result: the tile, and a mark. -/
def State.landTile (s : State) (x : Flight) (o : Op) : State :=
  s.landOp x.id o o.writes ((o.acc.filterMap Access.pois).map fun p => ⟨.tile o.num, 0, p⟩)
def State.landResult (s : State) (x : Flight) (o : Op) : State :=
  s.landOp x.id o o.writes (if o.acquired && decide (o.sym ≠ 0) then [⟨.tile o.num, 0, o.sym - 1⟩] else [])

/-- A shadow's value from its leader (R417). -/
def State.landShared (s : State) (x : Flight) (o : Op) : State :=
  match x.lvq.find? fun v => decide (v.seq = o.seq) with
  | none => s
  | some v => (s.landOp x.id o v.writes v.marks).updFlight x.id fun f => { f with lvq := f.lvq.filter fun w => decide (w.seq ≠ o.seq) }

/-- FENCE (R153). -/
def State.landFence (s : State) (x : Flight) (o : Op) : State :=
  if s.releaseOk x o.seq o.scope (s.beforeOf x o.seq) then (s.acquire x.core o.scope).updFlight x.id fun f => f.endOp o else s

/-- SEMADD, SEMSET and SEMRD: one step of the unit, in program order on the register (R106, R164). -/
def State.landSem (s : State) (x : Flight) (o : Op) : State :=
  match o.acc with
  | a :: _ =>
    match a.space with
    | .loc wg =>
      if x.earlierOn o.seq wg a.pa 1 true || x.acquiresBefore o.seq then s
      else
        let before := s.beforeOf x o.seq
        if o.ord = 2 ∧ s.releaseOk x o.seq o.scope before = false then s
        else match o.kind with
        | .semRd =>
          let m := ((s.wg? wg).map fun w => w.sem a.pa).getD Sem.blank
          let v := m.val.toNat
          (s.observe x.id o.seq m.last).landOp x.id o (o.dests.filterMap fun r => match r with | .s n => some ⟨.s n, n, v⟩ | _ => none) []
        | .semAdd =>
          let add (m : Sem) : Sem :=
            { m with val := m.val + BitVec.ofNat 32 a.data
                     before := if o.ord = 2 then dedup (m.before ++ before) else m.before
                     last := if o.ord = 2 then before else [] }
          (s.semStep wg a.pa add).updFlight x.id fun f => f.endOp o
        | _ =>
          (s.semStep wg a.pa fun _ => ⟨BitVec.ofNat 32 a.data, none, if o.ord = 2 then before else [], if o.ord = 2 then before else []⟩).updFlight x.id fun f => f.endOp o
    | _ => s
  | [] => s.updFlight x.id fun f => f.endOp o

/-- The line of a CLEAN or INVAL lane as an access. -/
def Access.wholeLine (a : Access) : Access :=
  { a with pa := a.pa / 128 * 128, size := 128 }

/-- CLEAN (R320). -/
def State.landClean (s : State) (x : Flight) (o : Op) : State :=
  let ls := o.acc.map Access.wholeLine
  let mine (w : Wr) : Bool := decide (w.flight = x.id) && decide (w.seq < o.seq) && ls.any fun a => decide (w.acc.space = a.space) && decide (w.acc.lineKey = a.lineKey)
  let coming := (x.wq.filter mine).map Wr.id ++ ((s.mem.transit.map Prod.snd).filter mine).map Wr.id
  if !(ls.all fun a => x.mayTouch o a) || coming.any fun w => s.unreached w o.scope then s
  else
    let s := if o.scope = 5 then ls.foldl (fun (s : State) (a : Access) => if a.space = .tier then s.cleanLine (lineOf a.pa) else s) s else s
    s.updFlight x.id fun f => f.endOp o

/-- INVAL (R320, R152). -/
def State.landInval (s : State) (x : Flight) (o : Op) : State :=
  let ls := o.acc.map Access.wholeLine
  if !(ls.all fun a => x.mayTouch o a) then s
  else
    let drop (s : State) (a : Access) : State :=
      if o.scope ≤ 1 then s
      else
        let s := s.dropL1 x.core a.lineKey
        match a.space with
        | .view _ _ => s
        | _ =>
          let s := { s with mem := { s.mem with l1 := s.mem.l1.filter fun c => !(c.ro && decide (c.line = a.lineKey) && decide (clusterOf c.unit = clusterOf x.core)) } }
          if 4 ≤ o.scope then s.dropFar (dieOf x.core) (lineOf a.pa) else s
    (ls.foldl drop s).updFlight x.id fun f => f.endOp o

/-- RESULT_LAND (R189): the result of an operation that is done. -/
def execResultLand (f op : Nat) (s : State) : Host.Outcome State Fault Refusal :=
  match (s.flight? f).bind fun x => (x.op? op).map fun o => (x, o) with
  | none => .next s
  | some (x, o) =>
    if o.lv then .next (s.landShared x o)
    else match o.kind with
    | .load | .zerr | .azld => if o.performed then .next (s.landLanes x o) else .next s
    | .atomic => if o.performed && !o.toZero then .next (s.landLanes x o) else .next s
    | .tileLoad => if o.performed then .next (s.landTile x o) else .next s
    | .result => .next (s.landResult x o)
    | .fence => .next (s.landFence x o)
    | .semAdd | .semSet | .semRd => .next (s.landSem x o)
    | .clean => .next (s.landClean x o)
    | .inval => .next (s.landInval x o)
    | .store | .tileStore | .pref | .zflush | .zdrop | .mma | .mgath | .lnch => .next s

/-- MMA_READBACK (R337): an earlier MMA whose registers these are goes first. -/
def execMmaReadback (f op : Nat) (s : State) : Host.Outcome State Fault Refusal :=
  match (s.flight? f).bind fun x => (x.op? op).map fun o => (x, o) with
  | none => .next s
  | some (x, o) =>
    if o.kind ≠ .mma ∨ (x.ops.any fun p => decide (p.kind = .mma) && decide (p.seq < o.seq) && p.dests.any fun r => decide (r ∈ o.dests)) then .next s
    else .next (s.landOp f o o.writes [])

end Sys2Proof.Machine
end

