-- ==== Sys2Proof/Machine/Stream.lean ====
section
/-! DEFINITION. A copy command's words (R120, R121) and its stage chain (R122 to R127), as functions of the source stream. A byte of a stream
carries a taint: 0 none, 1 computed from a poisoned sector (R132), 2 computed from a byte not read yet. -/

namespace Sys2Proof.Machine

/-! ### Words of a command (Tables 06-2 to 06-5) -/

def Cmd.w (c : Cmd) (k lo n : Nat) : Nat := fld (c.words.getD k 0) lo n
def Cmd.p (c : Cmd) (k lo n : Nat) : Nat := fld (c.pblock.getD k 0) lo n
/-- A stage enable of STG. -/
def Cmd.stg (c : Cmd) (i : Nat) : Bool := (c.words.getD 0 0).getLsbD i
def Cmd.gather (c : Cmd) : Bool := c.stg 0
def Cmd.decrypt (c : Cmd) : Bool := c.stg 1
def Cmd.expand (c : Cmd) : Bool := c.stg 2
def Cmd.dequant (c : Cmd) : Bool := c.stg 3
def Cmd.transpose (c : Cmd) : Bool := c.stg 4
def Cmd.requant (c : Cmd) : Bool := c.stg 5
def Cmd.checksum (c : Cmd) : Bool := c.stg 6
def Cmd.scatter (c : Cmd) : Bool := c.stg 7
def Cmd.ssp (c : Cmd) : Nat := c.w 0 8 2
def Cmd.dsp (c : Cmd) : Nat := c.w 0 10 2
def Cmd.scope (c : Cmd) : Nat := c.w 0 12 3
def Cmd.fnc (c : Cmd) : Bool := c.w 0 15 1 = 1
def Cmd.cbm (c : Cmd) : Bool := c.w 0 16 1 = 1
def Cmd.mc (c : Cmd) : Bool := c.w 0 17 1 = 1
def Cmd.chain (c : Cmd) : Bool := c.w 0 18 1 = 1
def Cmd.cmp (c : Cmd) : Bool := c.w 0 19 1 = 1
/-- CKALG: ADD32, else CRC-32C. -/
def Cmd.sum (c : Cmd) : Bool := c.w 0 20 1 = 1
def Cmd.ckrb (c : Cmd) : Bool := c.w 0 21 1 = 1
def Cmd.fss (c : Cmd) : Nat := c.w 0 24 3
def Cmd.fsd (c : Cmd) : Nat := c.w 0 27 3
def Cmd.semId (c : Cmd) : Nat := c.w 0 32 12
def Cmd.param (c : Cmd) : Nat := 64 * c.w 0 45 13
def Cmd.srcAddr (c : Cmd) : Nat := c.w 1 0 48
def Cmd.dstAddr (c : Cmd) : Nat := c.w 2 0 48
def Cmd.mcmask (c : Cmd) : Nat := c.w 2 32 16
def Cmd.cbOff (c : Cmd) : Nat := 16 * c.w 2 48 15
def Cmd.rowLen (c : Cmd) : Nat := c.w 3 0 20
def Cmd.rows (c : Cmd) : Nat := c.w 3 20 12
def Cmd.spitch (c : Cmd) : Nat := 16 * c.w 3 32 16
def Cmd.dpitch (c : Cmd) : Nat := 16 * c.w 3 48 16

/-- Destination bytes in row order, as (address, stream offset). -/
def destBytes (starts : List Nat) (len : Nat) : List (Nat × Nat) := (enum starts).flatMap fun (r, a) => (List.range len).map fun i => (a + i, r * len + i)
/-- Source bytes as (address, stream offset). -/
def Cmd.srcBytes (c : Cmd) : List (Nat × Nat) := destBytes c.rowsAt c.rowLen
def Cmd.sectorBytes (c : Cmd) (sec : Nat) : List (Nat × Nat) := c.srcBytes.filter fun p => decide (p.1 / 32 = sec)
def Cmd.sectors (c : Cmd) : List Nat := dedup (c.srcBytes.map fun p => p.1 / 32)
/-- Whether destination bytes in a physical frame, or source sectors in an address frame, are still to be done (R65). -/
def Cmd.opensDest (c : Cmd) (fr : Nat) : Bool := c.dests.any fun d => d.todo.any fun b => decide (b.1 / 2 ^ 16 = fr)
def Cmd.opensSrc (c : Cmd) (fr : Nat) : Bool := c.sectors.any fun x => decide (x ∉ c.srcDone) && decide (x * 32 / 2 ^ 16 = fr)
/-- Whether a command has formed a physical frame and is not done with it: a shootdown over the frame waits for the command (R65, R70). -/
def Cmd.usesFrame (c : Cmd) (fr : Nat) : Bool :=
  (c.frames.any fun p => decide (p.2 = fr) && c.opensDest fr) || c.srcFrames.any fun p => decide (p.2 = fr) && c.opensSrc p.1

/-- Whether R121 reads the parameter block. -/
def usesParams (w0 : DWord) : Bool := decide (fld w0 0 6 ≠ 0) || w0.getLsbD 7 || w0.getLsbD 19

def Cmd.gidxOff (c : Cmd) : Nat := c.p 0 0 19
def Cmd.sidxOff (c : Cmd) : Nat := c.p 0 19 19
def Cmd.keySlot (c : Cmd) : Nat := c.p 1 0 4
def Cmd.ctrBase (c : Cmd) : Nat := c.p 1 32 32
def Cmd.nonce (c : Cmd) : Nat := c.p 2 0 64 + c.p 3 0 32 * 2 ^ 64
def Cmd.seed (c : Cmd) : Nat := c.p 4 32 32
def Cmd.outt (c : Cmd) : Nat := c.p 4 24 2
/-- Requantise to transform-coded blocks. -/
def Cmd.toBlocks (c : Cmd) : Bool := c.p 4 23 1 = 1
def Cmd.rm (c : Cmd) : Nat := if c.p 4 20 3 = 0 then 1 else c.p 4 20 3
def Cmd.ckexp (c : Cmd) : Nat := c.p 5 0 32
/-- A codec of EXZ or RQZ, its fields from bit `lo` of P4. -/
def Cmd.codec (c : Cmd) (lo : Nat) : ZRegion :=
  { valid := true, rd := true, wr := true, launch := false, wide := c.p 4 (lo + 2) 1 = 1, dims := c.p 4 lo 2, rate := c.p 4 (lo + 3) 7,
    err := 0, vbase := 0, cbase := 0, nx := 0, ny := 0, nz := 0 }
def Cmd.exz (c : Cmd) : ZRegion := c.codec 0
def Cmd.rqz (c : Cmd) : ZRegion := c.codec 10
/-- Whether a codec has legal fields (check 10). -/
def codecOk (z : ZRegion) : Bool := decide (z.dims ≠ 0) && rateOk z.wide z.dims z.rate

/-! ### Shapes -/

/-- Rows and bytes of each row, at a place in the chain. -/
structure Shape where
  rows : Nat
  len : Nat
  deriving DecidableEq, Repr

/-- Bytes that a row of `n` codes of slot `d` takes, with its scale bytes (R124). -/
def codeRow (d : DWord) (n : Nat) : Nat := n * elemBits (slotElem d) / 8 + (if slotBlock d = 0 then 0 else n / slotBlock d)
/-- Whether `n` codes make a row. -/
def rowOk (d : DWord) (n : Nat) : Bool :=
  (slotBlock d = 0 || n % slotBlock d = 0) && (elemBits (slotElem d) ≠ 4 || n % 2 = 0)
/-- Codes of a row of `len` bytes; none when it does not fit. -/
def codesIn (d : DWord) (len : Nat) : Option Nat :=
  let w := elemBits (slotElem d)
  let b := slotBlock d
  let n := if b = 0 then 8 * len / w else len / (b * w / 8 + 1) * b
  if rowOk d n && codeRow d n = len then some n else none

def outtBytes (o : Nat) : Nat := [4, 8, 2, 2].getD o 4
def outtFmt (o : Nat) : Fmt := [fp32, fp64, bf16, fp16].getD o fp32

/-- Bytes of the element that transpose moves. -/
def Cmd.tElem (c : Cmd) : Nat := if c.expand then c.exz.esize else if c.dequant then outtBytes c.outt else 2 ^ c.p 5 32 2
/-- Whether requantise reads FP64; none when its input is neither FP32 nor FP64 (check 3). -/
def Cmd.rqWide (c : Cmd) (fss : DWord) : Option Bool :=
  if c.expand then some c.exz.wide
  else if c.dequant then (if c.outt = 0 then some false else if c.outt = 1 then some true else none)
  else if !slotOk fss then none
  else if slotElem fss = 1 then some false else if slotElem fss = 0 then some true else none

/-- The input of requantise comes from slot FSS. -/
def Cmd.slotInput (c : Cmd) : Bool := !c.expand && !c.dequant

/-- After expand or dequantise. -/
def Cmd.shape1 (c : Cmd) (fss : DWord) : Option Shape :=
  if c.expand then
    let nb := c.exz.bytes
    if nb ≠ 0 ∧ c.rowLen % nb = 0 then some ⟨c.rows, c.rowLen / nb * c.exz.n * c.exz.esize⟩ else none
  else if c.dequant then (if slotOk fss then (codesIn fss c.rowLen).map fun n => ⟨c.rows, n * outtBytes c.outt⟩ else none)
  else some ⟨c.rows, c.rowLen⟩
/-- After transpose. -/
def Cmd.shape2 (c : Cmd) (h : Shape) : Option Shape :=
  if c.transpose then (if h.len % c.tElem = 0 then some ⟨h.len / c.tElem, h.rows * c.tElem⟩ else none) else some h
/-- After requantise: R′ rows of L′ bytes. -/
def Cmd.shape3 (c : Cmd) (fss fsd : DWord) (h : Shape) : Option Shape :=
  if c.requant then
    match c.rqWide fss with
    | none => none
    | some wide =>
      let es := if wide then 8 else 4
      let n := h.len / es
      if h.len % es ≠ 0 then none
      else if c.toBlocks then
        let z := c.rqz
        if codecOk z && (n % z.n ≠ 0 || z.wide ≠ wide) then none else some ⟨h.rows, n / z.n * z.bytes⟩
      else if slotOk fsd && rowOk fsd n then some ⟨h.rows, codeRow fsd n⟩ else none
  else some h
/-- Whether the codecs that a command uses are legal; rows of others are judged by check 10 alone. -/
def Cmd.codecsOk (c : Cmd) : Bool := (!c.expand || codecOk c.exz) && (!(c.requant && c.toBlocks) || codecOk c.rqz)
def Cmd.outShape (c : Cmd) (fss fsd : DWord) : Option Shape := ((c.shape1 fss).bind c.shape2).bind (c.shape3 fss fsd)

/-! ### The chain -/

abbrev TByte := Byte × Nat
/-- An element's code with its taint. -/
abbrev TElem := Nat × Nat

/-- Pieces of `k` items; `n` bounds them. -/
def chunks (k : Nat) : Nat → List α → List (List α)
  | 0, _ => []
  | n + 1, l => if l.isEmpty then [] else l.take k :: chunks k n (l.drop k)
def inChunks (k : Nat) (l : List α) : List (List α) := chunks k l.length l

def taintOf (l : List (α × Nat)) : Nat := l.foldl (fun m x => max m x.2) 0
def elemOf (bs : List TByte) : TElem := (ofLe (bs.map Prod.fst), taintOf bs)
def bytesOf (n : Nat) (e : TElem) : List TByte := (leBytes n e.1).map fun b => (b, e.2)
/-- Elements that count: those computed from good bytes (R127). -/
def countIf (t : Nat) (k : Counts) (c : Cat) : Counts := if t = 0 then k.add c else k

/-- Decrypt: the whole stream against the keystream. -/
def decryptRows (c : Cmd) (rows : List (List TByte)) : List (List TByte) :=
  let blocks := inChunks 16 rows.flatten
  let out := (enum blocks).flatMap fun (j, b) => (b.zip (keyBlock c.key c.nonce c.ctrBase j)).map fun (x, k) => (x.1 ^^^ BitVec.ofNat 8 k, x.2)
  inChunks c.rowLen out

/-- Expand one row. -/
def expandRow (z : ZRegion) (row : List TByte) (k : Counts) : List TByte × Counts :=
  (inChunks z.bytes row).foldl (fun (acc : List TByte × Counts) b =>
    let t := taintOf b
    let d := decodeBlock z (b.map Prod.fst)
    let cat (i x : Nat) : Cat := if classOfVal (z.fmt.decode x) = 3 then .nan else if d.sat.getD i false then .sat else .none
    (acc.1 ++ d.elems.flatMap fun x => bytesOf z.esize (x, t), (enum d.elems).foldl (fun k (i, x) => countIf t k (cat i x)) acc.2)) ([], k)

/-- Codes of a row with their scale bytes. -/
def codesOf (d : DWord) (n : Nat) (row : List TByte) : List (TElem × TElem) :=
  let w := elemBits (slotElem d)
  let b := slotBlock d
  let scales := row.drop (n * w / 8)
  (List.range n).map fun i =>
    let code : TElem := if w = 4 then let x := row.getD (i / 2) (0, 0); (nbits x.1.toNat (4 * (i % 2)) 4, x.2) else elemOf ((row.drop (w / 8 * i)).take (w / 8))
    let sc : TElem := if b = 0 then (0, 0) else let x := scales.getD (i / b) (0, 0); (x.1.toNat, x.2)
    (code, sc)

/-- Dequantise one row (R124). -/
def dequantRow (c : Cmd) (d : DWord) (row : List TByte) (k : Counts) : List TByte × Counts :=
  let n := (codesIn d row.length).getD 0
  let F := outtFmt c.outt
  (codesOf d n row).foldl (fun (acc : List TByte × Counts) (code, sc) =>
    let t := max code.2 sc.2
    let r := convF F 1 (slotFlush d false) (decide (slotSatp d = 0)) (decide (slotNanp d = 1)) 0 (slotRead d false sc.1 code.1)
    let cat := flushedCat (fmtOfElem (slotElem d)) (slotFlush d false) code.1 r.cat
    (acc.1 ++ bytesOf (outtBytes c.outt) (r.bits, t), countIf t acc.2 cat)) ([], k)

/-- Transpose. -/
def transposeRows (sz : Nat) (rows : List (List TByte)) : List (List TByte) :=
  let es := rows.map (inChunks sz)
  (List.range ((es.getD 0 []).length)).map fun j => es.flatMap fun r => r.getD j []

/-- Requantise one block of elements of format `F` to codes of slot `d`: scale byte, codes, state of the generator, counts. `flush` reads
subnormals as zeros (R199, R210). -/
def requantBlock (d : DWord) (rm : Nat) (F : Fmt) (flush : Bool) (es : List TElem) (st : Nat) (k : Counts) : TElem × List TElem × Nat × Counts :=
  let scaled := decide (slotBlock d ≠ 0)
  let t := taintOf es
  let sc := if scaled then chooseScale d rm (es.map fun e => F.read flush e.1) else 0
  let (out, st, k) := es.foldl (fun (acc : List TElem × Nat × Counts) (x, te) =>
    let (st, dr) := draw rm acc.2.1
    let r := slotWrite d false rm dr sc (F.read flush x)
    let te := if scaled then t else te
    (acc.1 ++ [(r.bits, te)], st, countIf te acc.2.2 (flushedCat (some F) flush x r.cat))) ([], st, k)
  ((sc, t), out, st, k)

/-- Codes packed to bytes. -/
def packCodes (w : Nat) (l : List TElem) : List TByte :=
  if w = 4 then (inChunks 2 l).map fun p => (BitVec.ofNat 8 ((p.getD 0 (0, 0)).1 % 16 + 16 * ((p.getD 1 (0, 0)).1 % 16)), taintOf p)
  else l.flatMap (bytesOf (w / 8))

/-- Requantise one row to the format of FSD (R125). -/
def requantRow (c : Cmd) (d : DWord) (F : Fmt) (flush : Bool) (es : List TElem) (st : Nat) (k : Counts) : List TByte × Nat × Counts :=
  let b := if slotBlock d = 0 then es.length else slotBlock d
  let (codes, scales, st, k) := (inChunks b es).foldl (fun (acc : List TElem × List TElem × Nat × Counts) blk =>
    let (sc, out, st, k) := requantBlock d c.rm F flush blk acc.2.2.1 acc.2.2.2
    (acc.1 ++ out, acc.2.1 ++ [sc], st, k)) ([], [], st, k)
  (packCodes (elemBits (slotElem d)) codes ++ (if slotBlock d = 0 then [] else scales.flatMap (bytesOf 1)), st, k)

/-- Requantise one row to transform-coded blocks. -/
def encodeRow (z : ZRegion) (es : List TElem) (k : Counts) : List TByte × Counts :=
  (inChunks z.n es).foldl (fun (acc : List TByte × Counts) blk =>
    let t := taintOf blk
    let xs := blk.map Prod.fst
    let clamped := clampedBy z xs
    let cat (i x : Nat) : Cat := if classOfVal (z.fmt.decode x) = 3 then .nan else if i ∈ clamped then .sat else .none
    (acc.1 ++ (encodeBlock z xs).map fun b => (b, t), (enum xs).foldl (fun k (i, x) => countIf t k (cat i x)) acc.2)) ([], k)

/-- The destination rows that the source rows give, with the counts of R127. -/
def Cmd.run (c : Cmd) (fss fsd : DWord) (src : List (List TByte)) : List (List TByte) × Counts :=
  let rows := if c.decrypt then decryptRows c src else src
  let each (g : List TByte → Counts → List TByte × Counts) (rows : List (List TByte)) (k : Counts) : List (List TByte) × Counts :=
    rows.foldl (fun (acc : List (List TByte) × Counts) r => let (o, k) := g r acc.2; (acc.1 ++ [o], k)) ([], k)
  let (rows, k) : List (List TByte) × Counts := if c.expand then each (expandRow c.exz) rows {} else if c.dequant then each (dequantRow c fss) rows {} else (rows, {})
  let rows := if c.transpose then transposeRows c.tElem rows else rows
  if c.requant then
    let wide := (c.rqWide fss).getD false
    let F := if wide then fp64 else fp32
    let es := rows.map fun r => (inChunks (if wide then 8 else 4) r).map elemOf
    if c.toBlocks then
      es.foldl (fun (acc : List (List TByte) × Counts) r => let (o, k) := encodeRow c.rqz r acc.2; (acc.1 ++ [o], k)) ([], k)
    else
      let (out, _, k) := es.foldl (fun (acc : List (List TByte) × Nat × Counts) r =>
        let (o, st, k) := requantRow c fsd F (c.slotInput && slotFlush fss false) r acc.2.1 acc.2.2
        (acc.1 ++ [o], st, k)) (([] : List (List TByte)), c.seed, k)
      (out, k)
  else (rows, k)

/-! ### Checksums (R126) -/

/-- Register of an empty stream. -/
def Cmd.sumInit (c : Cmd) : Nat := if c.sum then 0 else crcInit
/-- Register after a stream that continues from register `r`. -/
def Cmd.sumFrom (c : Cmd) (r : Nat) (l : List Byte) : Nat := if c.sum then (r + add32 l) % 2 ^ 32 else crcFrom r l
/-- The checksum that a register stands for. -/
def Cmd.sumOut (c : Cmd) (r : Nat) : Nat := if c.sum then r else crcOut r

end Sys2Proof.Machine
end

