-- ==== Sys2Proof/Machine/Shoot.lean ====
section
/-! DEFINITION. How a die answers a shootdown (R65 to R67, R433): what a shootdown matches, and what the die must first see done. -/

namespace Sys2Proof.Machine

/-- Whether a frame lies in the range of a shootdown. -/
def Shoot.inRange (k : Shoot) (frame : Nat) : Bool := decide (k.first ≤ frame) && decide (frame < k.first + k.count)
/-- Whether a range of bytes meets the frames of a shootdown. -/
def Shoot.meets (k : Shoot) (lo n : Nat) : Bool := rangesMeet lo n (k.first * 2 ^ 16) (k.count * 2 ^ 16)
/-- Whether the page of a size that holds an address meets them: pages are aligned to their size in both address spaces (R57). -/
def Shoot.meetsPage (k : Shoot) (a shift : Nat) : Bool := k.meets (a / 2 ^ shift * 2 ^ shift) (2 ^ shift)
def Shoot.isAts (k : Shoot) : Bool := match k.owner with | .ats _ => true | _ => false

/-- A cached leaf that matches. -/
def Shoot.leaf (k : Shoot) (e : TlbEntry) : Bool :=
  if k.isAts then false
  else match k.kind with
  | 0 => decide (e.asid = k.asid) && k.meets (e.vpn * 2 ^ e.shift) (2 ^ e.shift)
  | 1 => decide (e.asid = k.asid)
  | 2 => true
  | _ => k.meets (e.pfn * 2 ^ 16) (2 ^ e.shift)

/-- A walk-cache entry that matches (R66). -/
def Shoot.pointer (k : Shoot) (e : WalkEntry) : Bool :=
  if k.isAts then false
  else match k.kind with
  | 0 => decide (e.asid = k.asid) && decide (e.level < 4) && k.meets (e.idx * 2 ^ levelShift e.level) (2 ^ levelShift e.level)
  | 1 => decide (e.asid = k.asid)
  | 2 => true
  | _ => k.inRange (e.target / 2 ^ 16) || k.inRange (e.src / 2 ^ 16)

/-- A translated access that matches, in address space `asid` with host function `fn`. -/
def Shoot.access (k : Shoot) (asid fn : Nat) (a : Access) : Bool :=
  match a.space with
  | .loc _ => false
  | .view _ _ => false
  | sp =>
    match k.owner with
    | .ats n => decide (sp = .host) && decide (n = fn) && decide (k.first ≤ a.pa / 4096) && decide (a.pa / 4096 < k.first + k.count)
    | _ =>
      match k.kind with
      | 0 => decide (asid = k.asid) && k.meetsPage a.va a.shift
      | 1 => decide (asid = k.asid)
      | 2 => true
      | _ => k.meetsPage a.pa a.shift

/-- A delivered walk that matches is taken back. -/
def Shoot.walkRes (k : Shoot) (asid : Nat) (r : WalkResult) : Bool :=
  if k.isAts then false
  else match k.kind with
  | 0 => decide (asid = k.asid) && k.meetsPage (r.frame * 2 ^ 16) r.shift
  | 1 => decide (asid = k.asid)
  | 2 => true
  | _ => k.meetsPage (r.pfn * 2 ^ 16) r.shift

/-- Whether a frame that a copy command has formed, as (address frame, physical frame), matches. A physical operand has no entry: only the physical range
of KIND 3 names it (R69). -/
def Shoot.cmdFrame (k : Shoot) (s : State) (c : Cmd) (phys : Bool) (p : Nat × Nat) : Bool :=
  let l := (s.launch? c.launch).getD { id := 0 }
  let fn := fld (s.reg (qOff l.queue + 32)) 0 5
  let shift := if phys then 16 else mget 16 c.shifts p.1
  match k.owner with
  | .ats n => decide (n = fn) && decide (paSpace (p.2 * 2 ^ 16) = some .host) && rangesMeet (p.2 * 16) 16 k.first k.count
  | _ =>
    match k.kind with
    | 0 => !phys && decide (l.asid = k.asid) && k.meetsPage (p.1 * 2 ^ 16) shift
    | 1 => !phys && decide (l.asid = k.asid)
    | 2 => !phys
    | _ => k.meetsPage (p.2 * 2 ^ 16) shift

/-- A copy command has lines to finish in frames that match: destination bytes to write, or source sectors to read (R65). -/
def Shoot.command (k : Shoot) (s : State) (c : Cmd) : Bool :=
  (c.frames.any fun p => k.cmdFrame s c (decide (c.dsp = 2)) p && c.opensDest p.2) || c.srcFrames.any fun p => k.cmdFrame s c false p && c.opensSrc p.1

/-- Cached matches of a die go. -/
def State.dropMatches (s : State) (d : Nat) (k : Shoot) : State :=
  let s := { s with tr := { s.tr with
    tlb := s.tr.tlb.filter fun e => !(decide (dieOf e.core = d) && k.leaf e)
    wcache := s.tr.wcache.filter fun e => !(decide (e.die = d) && k.pointer e) } }
  { s with flights := s.flights.map fun f =>
      if dieOf f.core = d then { f with walkRes := f.walkRes.filter fun r => !k.walkRes (s.launchOf f).asid r } else f,
           cmds := s.cmds.map fun c =>
      if dieOf c.core = d then { c with walkRes := c.walkRes.filter fun r => !k.walkRes ((s.launch? c.launch).getD { id := 0 }).asid r } else c }

/-- Accesses of a die that were translated with a match and are not performed at their points of coherence. -/
def State.matchOpen (s : State) (d : Nat) (k : Shoot) : Bool :=
  (s.flights.any fun f => decide (dieOf f.core = d) &&
    ((f.ops.any fun o => o.acc.any fun a => a.isOpen && k.access (s.launchOf f).asid (s.fnOf f) a) || f.wq.any fun w => k.access w.asid w.fn w.acc))
  || (s.mem.transit.any fun p => decide (p.1 = d) && k.access p.2.asid p.2.fn p.2.acc)
  || s.cmds.any fun c => decide (dieOf c.core = d) && k.command s c

/-- A die's bit of DIESPEND. -/
def dieBit (d : Nat) : BitVec 8 := BitVec.ofNat 8 (2 ^ d)

/-- TLBI_DIE_ACK (R65): each shootdown that waits for the die is acknowledged when its conditions hold. -/
def execTlbiDieAck (d : Nat) (s : State) : Host.Outcome State Fault Refusal :=
  let s := (s.tr.shoots.filter fun (k : Shoot) => k.pend.getLsbD d).foldl (fun (s : State) (k : Shoot) => s.dropMatches d k) s
  let ack (k : Shoot) : Shoot := if k.pend.getLsbD d && !s.matchOpen d k then { k with pend := k.pend &&& ~~~dieBit d } else k
  .next (State.finishShoots { s with tr := { s.tr with shoots := s.tr.shoots.map ack } })

end Sys2Proof.Machine
end

