-- ==== Sys2Proof/Machine/Launch.lean ====
section
/-! DEFINITION. Launches (R362 to R372, R381 to R390): the record and its checks, queues, admission, placement, the release of a workgroup
(R119), completion with its edges (R166, R167, R386, R387), and LNCH's copy (R361). -/

namespace Sys2Proof.Machine

/-! ### What the gallery die reads -/

/-- A translation of the gallery die, by a walk (R55, R383). An address of a valid view has none: what lies beneath it is not reached (R28, log 81). -/
def State.galleryVa (s : State) (asid : Nat) (priv : Bool) (va : Nat) : Option Nat :=
  if 2 ^ 48 ≤ va ∨ (s.zrAt asid va).isSome then none else
  let w := s.walk 8 asid va
  let pa := w.res.pfn * 2 ^ 16 + va % 2 ^ 16
  if w.res.cause = 0 ∧ leafCause priv .rd pa w.res.perm = 0 then some pa else none

/-- Whether an access of the gallery die to `n` bytes from a virtual address must wait: its view is being retired (R27), its frame or a table that its walk
reads is in copy (R70), or the home of a line of it moves (R15). -/
def State.galleryHeld (s : State) (asid va n : Nat) : Bool :=
  (frameParts va n).any fun (lo, k) =>
    match s.zrAt asid lo with
    | some z => decide ((s.zr asid z).err = 15)
    | none =>
      decide (lo < 2 ^ 48) &&
      (let w := s.walk 8 asid lo
       let pa := w.res.pfn * 2 ^ 16 + lo % 2 ^ 16
       s.walkWaits lo w || (decide (w.res.cause = 0) && (List.range ((pa + k - 1) / 128 - pa / 128 + 1)).any fun i => s.homeMoves (pa / 128 * 128 + 128 * i)))

/-- Words from a physical address; none where a sector is poisoned. -/
def State.words (s : State) (pa n : Nat) : Option (List DWord) :=
  if (s.poisonIn pa (8 * n)).isSome then none
  else some ((List.range n).map fun i => match paSpace (pa + 8 * i) with | some .dev => s.devRead8 (pa + 8 * i - regOff) | _ => s.word64 (pa + 8 * i))

/-- Words from a virtual address, within one frame. -/
def State.galleryWords (s : State) (asid : Nat) (priv : Bool) (va n : Nat) : Option (List DWord) := (s.galleryVa asid priv va).bind fun pa => s.words pa n

/-! ### Room on a core (Table 00-1, R98, R104, R171, R370) -/

/-- What is free on a core: granules of 8 vector registers, tiles and flight slots by partition, flights, local memory, semaphores. -/
structure Room where
  granules : Nat
  tiles : List Nat
  slots : List Nat
  flights : Nat
  lmem : Nat
  sems : Nat
  deriving DecidableEq, Repr

def Room.idle : Room := ⟨1024, List.replicate 6 32, List.replicate 6 48, 256, 524288, 256⟩

/-- Flights that one flight of a launch counts as. -/
def recCopies (r : List DWord) : Nat := if recShadow r then 2 else 1
def recLocal (r : List DWord) : Nat := roundUp (recLmem r) 2048

/-- A flight placed in the partition with most free slots, the lowest on a tie (R389). -/
def Room.flight (r : List DWord) (m : Room) : Option (Nat × Room) :=
  let k := recCopies r
  let g := recVregs r / 8 * k; let t := recNtiles r * k
  if m.granules < g ∨ m.flights < k then none else
  let ps := (List.range 6).filter fun p => decide (t ≤ m.tiles.getD p 0) && decide (k ≤ m.slots.getD p 0)
  match sortBy (fun p => 48 - m.slots.getD p 0) ps with
  | [] => none
  | p :: _ =>
    some (p, { m with granules := m.granules - g, flights := m.flights - k, tiles := listSet m.tiles p (m.tiles.getD p 0 - t),
                      slots := listSet m.slots p (m.slots.getD p 0 - k) })

def Room.flightsIn (r : List DWord) : Nat → Room → Option (List Nat × Room)
  | 0, m => some ([], m)
  | n + 1, m =>
    match m.flight r with
    | none => none
    | some (p, m) => (m.flightsIn r n).map fun x => (p :: x.1, x.2)

/-- A workgroup placed: the partitions of its flights, and what is left. -/
def Room.workgroup (r : List DWord) (m : Room) : Option (List Nat × Room) :=
  if m.lmem < recLocal r ∨ m.sems < recNsem r then none
  else Room.flightsIn r (recNfl r) { m with lmem := m.lmem - recLocal r, sems := m.sems - recNsem r }

/-- Workgroups that fit, at most `n`. -/
def Room.fits (r : List DWord) : Nat → Room → Nat
  | 0, _ => 0
  | n + 1, m => match m.workgroup r with | some (_, m) => 1 + m.fits r n | none => 0

/-- A flight holds its registers until it has ended and its loads have landed (R355). -/
def Flight.holdsRegs (f : Flight) : Bool :=
  !f.isHandler && !f.isEvicted && (!f.isEnded || f.ops.any fun o => !o.dests.isEmpty)

/-- What is free on a core when the flights of `skip` are left out. -/
def State.roomWithout (s : State) (core : Nat) (skip : Flight → Bool) : Room :=
  let fs := s.flights.filter fun f => decide (f.core = core) && f.holdsRegs && !skip f
  let ws := s.wgs.filter fun w => decide (w.core = core)
  let inPart (p : Nat) : List Flight := fs.filter fun f => decide (f.part = p)
  { granules := 1024 - (fs.map fun f => f.nVregs / 8).sum
    tiles := (List.range 6).map fun p => 32 - ((inPart p).map Flight.nTiles).sum
    slots := (List.range 6).map fun p => 48 - (inPart p).length
    flights := 256 - fs.length
    lmem := 524288 - (ws.map Workgroup.size).sum
    sems := 256 - (ws.map Workgroup.nsem).sum }
def State.room (s : State) (core : Nat) : Room := s.roomWithout core fun _ => false

/-! ### Checks of a record (Table 15-4) -/

def inR (lo hi x : Nat) : Bool := decide (lo ≤ x) && decide (x ≤ hi)

def formBad (r : List DWord) : Bool :=
  let resv : List (Nat × Nat × Nat) :=
    [(0, 48, 16), (1, 48, 16), (2, 60, 4), (2, 37, 3), (2, 29, 3), (3, 47, 17), (4, 52, 12), (4, 35, 5), (6, 48, 16), (7, 56, 8)]
      ++ (List.range 7).map (fun i => (9 + i, 0, 64)) ++ (List.range 8).map fun i => (24 + i, 0, 64)
  resv.any (fun (w, lo, n) => decide (recField r w lo n ≠ 0))
  || !inR 0 16 (recNtiles r) || !inR 8 256 (recVregs r) || decide (recVregs r % 8 ≠ 0) || !inR 1 32 (recNfl r) || !inR 1 8 (recNstg r)
  || decide (recNwg r = 0) || !inR 1 4 (recNcl r) || !inR 1 8 (recNdie r)
  || decide (524288 < recLmem r) || decide (256 < recNsem r) || decide (recAfb r % 2 ≠ 0) || decide (recSymLimit r < 16)
  || decide (recField r 0 0 48 % 4 ≠ 0) || decide (recSdepth r % 8 ≠ 0)
  || decide (recSpill r % 128 ≠ 0) || decide (recSave r % 4096 ≠ 0) || decide (recZset r % 32 ≠ 0)

/-- R114. -/
def ringBad (r : List DWord) : Bool :=
  let n := recCrlen r; let room := recLocal r
  decide (n ≠ 0) && (!decide (n ∈ [2, 4, 8, 16, 32, 64, 128, 256]) || decide (recCring r % 32 ≠ 0) || decide (recCnotify r % 16 ≠ 0)
    || decide (room < recCring r + 32 * n) || decide (room < recCnotify r + 16))

def perIdleCore (r : List DWord) : Nat := Room.idle.fits r 256
def gridTuples (r : List DWord) : Nat := recNwg r * recNcl r * recNdie r

/-- Settings blocks that ZMASK names, as (entry, words); none where they cannot be read (R366). -/
def State.zSettings (s : State) (r : List DWord) (asid : Nat) : Option (List (Nat × List DWord)) :=
  let ns := (List.range 16).filter fun n => (recZmask r).testBit n
  ns.foldr (fun n acc => match s.galleryWords asid (recPriv r) (recZset r + 32 * n) 4, acc with | some ws, some l => some ((n, ws) :: l) | _, _ => none) (some [])

def settingBad (ws : List DWord) : Bool :=
  let w (i : Nat) : DWord := ws.getD i 0
  !(w 0).getLsbD 0 || decide (w 0 &&& ~~~zrMask0 ≠ 0) || decide (w 1 &&& 0xFFFF0000000000FF ≠ 0) || decide (w 2 &&& 0xFF000000FF000000 ≠ 0)
  || decide (w 3 &&& 0xFFFFFFFFFF000000 ≠ 0)

/-- Entries written and validated in ascending order, with LNCH. -/
def State.zApply (s : State) (asid : Nat) (l : List (Nat × List DWord)) : State :=
  l.foldl (fun s (n, ws) =>
    let o := zrOff asid n
    (((s.setReg (o + 8) (ws.getD 1 0)).setReg (o + 16) (ws.getD 2 0)).setReg (o + 24) (ws.getD 3 0)).zrSet asid n (ws.getD 0 0) true) s

/-- Row 7: the settings tried with the named entries out of the way. -/
def State.zBad (s : State) (r : List DWord) (asid : Nat) : Bool :=
  match s.zSettings r asid with
  | none => true
  | some l =>
    let bare : State := l.foldl (fun (s : State) (p : Nat × List DWord) => s.setReg (zrOff asid p.1) (setFld (s.reg (zrOff asid p.1)) 0 1 0)) s
    let t := bare.zApply asid l
    l.any fun (n, ws) => settingBad ws || ((s.zr asid n).valid && !(s.zr asid n).launch) || !(t.zr asid n).valid

/-- First failing row of Table 15-4, 0 for none. -/
def State.recordFault (s : State) (r : List DWord) (asid : Nat) (queuePriv : Bool) : Nat :=
  if formBad r then 1
  else if ringBad r then 2
  else if recPriv r && !queuePriv then 3
  else if !s.asidOk asid then 4
  else if 4 * perIdleCore r < recNstg r then 5
  else if recPersist r && decide (4 * perIdleCore r < recNwg r * recNstg r) then 6
  else if s.zBad r asid then 7 else 0

/-! ### Queues (R381 to R385) -/

def qAsid (c : DWord) : Nat := fld c 20 12
def qTenant (c : DWord) : Nat := fld c 16 4
def qWeight (c : DWord) : Nat := fld c 8 8
def qSlot (c : DWord) (i : Nat) : Nat := fld c 32 32 * 2 ^ 16 + 16 * (i % 2 ^ fld c 4 4)
def State.qHead (s : State) (q : Nat) : Nat := fld (s.reg (qOff q + 8)) 0 32
def State.qTail (s : State) (q : Nat) : Nat := fld (s.reg (qOff q + 8)) 32 32
def State.headOf (s : State) (q : Nat) : Option Head := findBy Head.queue s.sched.heads q
/-- Firmware runs and the module is awake (R437, R442). -/
def State.running (s : State) : Bool := (s.reg 0).getLsbD 0 && !s.asleep

/-- Physical address of a ring entry, remapped (R69); whether it is in copy or its home moves. -/
def State.slotPa (s : State) (c : DWord) (i : Nat) : Nat := s.remap (qSlot c i)
def State.slotHeld (s : State) (c : DWord) (i : Nat) : Bool := s.onHold (qSlot c i) || s.homeMoves (s.slotPa c i)
/-- Whether the settings that a record names must be waited for. -/
def State.zHeld (s : State) (r : List DWord) (asid : Nat) : Bool :=
  (List.range 16).any fun n => (recZmask r).testBit n && s.galleryHeld asid (recZset r + 32 * n) 32
/-- Whether what the taking of an entry reads must be waited for. -/
def State.takeHeld (s : State) (q : Nat) : Bool :=
  let c := s.reg (qOff q)
  let i := s.qHead q
  match s.sched.copies.find? fun p => decide (p.1 = (q, i)) with
  | some (_, r, _) => s.zHeld r (qAsid c)
  | none =>
    let va := fld (s.word64 (s.slotPa c i)) 0 48
    s.slotHeld c i || s.galleryHeld (qAsid c) va 512
      || (match s.galleryWords (qAsid c) (c.getLsbD 1) va 64 with | some r => s.zHeld r (qAsid c) | none => false)

/-- An entry taken: its record and address with what it waits for, or the failing check (R383). -/
def State.takeEntry (s : State) (q : Nat) : Except Nat (List DWord × Nat × Option (Nat × Word)) :=
  let c := s.reg (qOff q)
  let i := s.qHead q
  let check (r : List DWord) (va : Nat) (w : Option (Nat × Word)) : Except Nat (List DWord × Nat × Option (Nat × Word)) :=
    if recQueue r ≠ q ∨ recTenant r ≠ qTenant c then .error 8
    else let e := s.recordFault r (qAsid c) (c.getLsbD 1); if e = 0 then .ok (r, va, w) else .error e
  match s.sched.copies.find? fun p => decide (p.1 = (q, i)) with
  | some (_, r, va) => check r va none
  | none =>
    let e0 := s.word64 (s.slotPa c i); let e1 := s.word64 (s.slotPa c i + 8)
    let va := fld e0 0 48
    if fld e0 48 16 ≠ 0 ∨ va % 512 ≠ 0 ∨ fld e1 42 21 ≠ 0 then .error 9
    else match s.galleryWords (qAsid c) (c.getLsbD 1) va 64 with
      | none => .error 10
      | some r => check r va (if e1.getLsbD 63 then some (fld e1 32 10, BitVec.ofNat 32 (fld e1 0 32)) else none)

/-- QUEUE_TAKE (R383). -/
def execQueueTake (q : Nat) (s : State) : Host.Outcome State Fault Refusal :=
  if q ≥ 256 ∨ (s.reg (qOff q)).getLsbD 0 = false ∨ s.running = false ∨ (s.headOf q).isSome ∨ s.qHead q = s.qTail q ∨ s.takeHeld q then .next s
  else
    let i := s.qHead q
    let r := s.takeEntry q
    let s := s.setReg (qOff q + 8) (setFld (s.reg (qOff q + 8)) 0 32 (i + 1))
    let s : State := { s with sched := { s.sched with copies := s.sched.copies.filter fun p => decide (p.1 ≠ (q, i)) } }
    match r with
    | .error e => .next (s.queueErr q (i % 2 ^ 16) e)
    | .ok (recd, va, wait) => .next { s with sched := { s.sched with heads := s.sched.heads ++ [{ queue := q, recd, va, wait }] } }

/-- LNCH_RECORD_COPY (R361, R384): the release, the checks in their order, the copy and the status. -/
def execLnchRecordCopy (f op : Nat) (s : State) : Host.Outcome State Fault Refusal :=
  match (s.flight? f).bind fun x => (x.op? op).map fun o => (x, o) with
  | none => .next s
  | some (x, o) =>
    let l := s.launchOf x
    if o.kind ≠ .lnch ∨ s.releaseOk x o.seq 4 (s.beforeOf x o.seq) = false ∨ s.galleryHeld l.asid o.accBase 512 then .next s else
    let done (s : State) (v : Nat) : State := s.landOp f o (o.dests.filterMap fun r => match r with | .s n => some ⟨.s n, n, v⟩ | _ => none) []
    match s.galleryWords l.asid x.priv o.accBase 64 with
    | none => .next (done s 2)
    | some r =>
      let q := recQueue r
      let c := s.reg (qOff q)
      if c.getLsbD 2 = false ∨ c.getLsbD 0 = false ∨ qAsid c ≠ l.asid ∨ qTenant c ≠ l.tenant then .next (done s 3)
      else if 2 ^ fld c 4 4 ≤ (s.qTail q + 2 ^ 32 - s.qHead q) % 2 ^ 32 then .next (done s 1)
      else if s.slotHeld c (s.qTail q) ∨ s.zHeld r (qAsid c) then .next s
      else if s.recordFault r (qAsid c) (c.getLsbD 1) ≠ 0 then .next (done s 2)
      else
        let t := s.qTail q
        let s : State := { s with sched := { s.sched with copies := s.sched.copies ++ [((q, t), (r, o.accBase))] } }
        let s := s.postWrite x.core (some l) (s.slotPa c t) (leBytes 16 (o.accBase % 2 ^ 48))
        let s := s.setReg (qOff q + 8) (setFld (s.reg (qOff q + 8)) 32 32 (t + 1))
        .next (done s 0)

/-! ### Admission (R388, R390, R363, R30) -/

/-- Dies that a launch may bind (R442, R67). -/
def State.freeDies (s : State) : List Nat :=
  allDies.filter fun d => !(s.parked ||| s.parkAsked).testBit d && decide (d ∉ s.dev.dieRst)

def Launch.isRunning (l : Launch) : Bool := match l.phase with | .running => true | _ => false
def Launch.unplaced (l : Launch) : Bool := l.isRunning && decide (l.nextTuple < gridTuples l.recd)
/-- Tuples of a launch that are still to be placed on a cluster (R372). -/
def Launch.tuplesLeft (l : Launch) (cl : Nat) : Nat :=
  let r := l.recd
  ((List.range (recNdie r)).flatMap fun d => (List.range (recNcl r)).map fun c =>
    if mget 0 l.clusters (4 * d + c) = cl then recNwg r * (d * recNcl r + c + 1) - max l.nextTuple (recNwg r * (d * recNcl r + c)) else 0).sum

/-- Whether eviction may choose a workgroup: no flight of it is stopped by the port (R424). -/
def State.mayEvict (s : State) (wg : Nat) : Bool := s.flights.all fun f => decide (f.wg ≠ wg) || (match f.port with | .stopped => false | _ => true)
/-- Flights that partial eviction may free for a priority (R390, R394). -/
def State.evictable (s : State) (prio : Nat) (f : Flight) : Bool := decide (recPrio (s.recOf f) < prio) && s.mayEvict f.wg
/-- What is free on the cores of a cluster when some flights are left out. -/
def State.rooms (s : State) (cl : Nat) (skip : Flight → Bool) : List Room := (List.range 4).map fun k => s.roomWithout (4 * cl + k) skip
/-- One workgroup, and then up to `n`, taken out of such room. -/
def takeOne (r : List DWord) : List Room → Option (List Room)
  | [] => none
  | m :: l => match m.workgroup r with | some (_, m) => some (m :: l) | none => (takeOne r l).map (m :: ·)
def takeMany (r : List DWord) : Nat → List Room → List Room
  | 0, l => l
  | n + 1, l => match takeOne r l with | some l => takeMany r n l | none => l
/-- Workgroups of a record, at most `n` on a core, that the rooms take. -/
def roomsFit (r : List DWord) (n : Nat) (l : List Room) : Nat := (l.map (Room.fits r n)).sum

/-- Workgroups of a record that a cluster takes with lower-priority flights out of the way, but not their local memory (R390), and with what admitted
persistent launches have still to place there in place (R371). -/
def State.clusterRoom (s : State) (r : List DWord) (cl : Nat) : Nat :=
  let owed := s.launches.filter fun y => recPersist y.recd && y.unplaced
  roomsFit r 256 (owed.foldl (fun l y => takeMany y.recd (recNstg y.recd * y.tuplesLeft cl) l) (s.rooms cl (s.evictable (recPrio r))))

/-- Clusters of a die to which a launch may bind one of its grid clusters. -/
def State.goodClusters (s : State) (r : List DWord) (d : Nat) : List Nat :=
  ((List.range 4).map (4 * d + ·)).filter fun cl => !recPersist r || decide (recNwg r * recNstg r ≤ s.clusterRoom r cl)
def State.goodDies (s : State) (r : List DWord) : List Nat := s.freeDies.filter fun d => decide (recNcl r ≤ (s.goodClusters r d).length)

/-- A named entry held by a launch or being retired keeps a head waiting (R30). -/
def State.zBusy (s : State) (r : List DWord) (asid : Nat) : Bool :=
  (List.range 16).any fun n => (recZmask r).testBit n && (s.zr asid n).valid && ((s.zr asid n).launch || decide ((s.zr asid n).err = 15))

/-- Whether a head launch is admissible (R388). -/
def State.admissible (s : State) (h : Head) : Bool :=
  let c := s.reg (qOff h.queue)
  s.running && c.getLsbD 0
  && (match h.wait with | some (e, v) => semMet (BitVec.ofNat 32 (fld (s.reg (0x24000 + 8 * e)) 0 32)) v.toNat | none => true)
  && decide (recNdie h.recd ≤ (s.goodDies h.recd).length) && !s.zBusy h.recd (qAsid c)

/-- `n` different members of a list, chosen freely (log 2). -/
def State.pick (s : State) : Nat → List Nat → List Nat × State
  | 0, _ => ([], s)
  | n + 1, l =>
    let (k, s) := s.free
    match l[k % l.length]? with
    | some x => let (r, s) := s.pick n (l.filter (· ≠ x)); (x :: r, s)
    | none => ([], s)

/-- Grid clusters of each grid die bound to clusters of its die. -/
def State.bindClusters (s : State) (r : List DWord) : List (Nat × Nat) → NMap Nat × State
  | [] => ([], s)
  | (d, die) :: rest =>
    let (cs, s) := s.pick (recNcl r) (s.goodClusters r die)
    let (m, s) := s.bindClusters r rest
    (msets 0 m ((enum cs).map fun (c, cl) => (4 * d + c, cl)), s)

/-- The head that processor `p` takes: highest priority, then queues by turns (R388). -/
def State.nextHead (s : State) (p : Nat) : Option (Head × Nat) :=
  let hs := s.sched.heads.filter fun h => decide (h.queue / 64 = p) && s.admissible h
  let top := (hs.map fun h => recPrio h.recd).foldl max 0
  let hs := sortBy Head.queue (hs.filter fun h => decide (recPrio h.recd = top))
  let (cur, taken) := mget (0, 0) s.sched.turn (8 * p + top)
  match hs.find? fun h => decide (h.queue + 1 = cur) && decide (taken < qWeight (s.reg (qOff h.queue))) with
  | some h => some (h, taken + 1)
  | none => ((hs.find? fun h => decide (cur < h.queue + 1)).or hs.head?).map fun h => (h, 1)

/-- A head admitted. -/
def State.admitHead (s : State) (h : Head) : State :=
  let c := s.reg (qOff h.queue)
  let r := h.recd
  let (ds, s) := s.pick (recNdie r) (s.goodDies r)
  let (cl, s) := s.bindClusters r (enum ds)
  let zs := (List.range 16).filter fun n => (recZmask r).testBit n
  let s := s.zApply (qAsid c) ((s.zSettings r (qAsid c)).getD [])
  let s : State := { s with dev := { s.dev with
    zrOwner := zs.foldl (fun m n => mset 0 m (16 * qAsid c + n) s.nextId) s.dev.zrOwner, idleSince := s.clock } }
  let l : Launch := { id := s.nextId, recd := r, va := h.va, queue := h.queue, asid := qAsid c, tenant := qTenant c, priv := recPriv r,
                      dies := msets 0 [] (enum ds), clusters := cl, admitted := s.sched.order, zr := zs }
  let s : State := { s with nextId := s.nextId + 1, launches := s.launches ++ [l], sched := { s.sched with order := s.sched.order + 1 } }
  s.setPower false

/-- LAUNCH_ADMIT (R388). Settings that have come to fail reject the head as at its taking; the address-space entry is judged at the taking only (log 92). -/
def execLaunchAdmit (p : Nat) (s : State) : Host.Outcome State Fault Refusal :=
  match s.nextHead p with
  | none => .next s
  | some (h, taken) =>
    let gone : State := { s with sched := { s.sched with heads := s.sched.heads.filter fun x => decide (x.queue ≠ h.queue) } }
    if s.zHeld h.recd (qAsid (s.reg (qOff h.queue))) then .next s
    else if s.zBad h.recd (qAsid (s.reg (qOff h.queue))) then .next (gone.queueErr h.queue ((s.qHead h.queue + 2 ^ 32 - 1) % 2 ^ 16) 7)
    else .next (State.admitHead { gone with sched := { gone.sched with turn := mset (0, 0) gone.sched.turn (8 * p + recPrio h.recd) (h.queue + 1, taken) } } h)

/-! ### Placement (R364, R371, R372, R389, R397) -/

/-- Flights start: those of a persistent launch once its grid is placed (R371). -/
def Launch.started (l : Launch) : Bool := !recPersist l.recd || decide (gridTuples l.recd ≤ l.nextTuple)
/-- Coordinates (d, c, w) of a tuple. -/
def tupleAt (r : List DWord) (t : Nat) : Nat × Nat × Nat := (t / (recNwg r * recNcl r), t / recNwg r % recNcl r, t % recNwg r)
/-- Cluster to which a launch's next tuple is bound. -/
def Launch.nextCluster (l : Launch) : Nat := let (d, c, _) := tupleAt l.recd l.nextTuple; mget 0 l.clusters (4 * d + c)

/-- Whether launch `a` goes before `b` in taking resources (R389). -/
def Launch.before (a b : Launch) : Bool :=
  decide (recPrio b.recd < recPrio a.recd) || (decide (recPrio b.recd = recPrio a.recd) && decide (a.admitted < b.admitted))

/-- Whether a cluster now has room for what a launch has to place on it: its next tuple there, or the rest of a persistent grid. -/
def State.hasRoomFor (s : State) (l : Launch) (cl : Nat) : Bool :=
  let n := recNstg l.recd * (if recPersist l.recd then l.tuplesLeft cl else if l.nextCluster = cl then 1 else 0)
  decide (n ≤ roomsFit l.recd n (s.rooms cl fun _ => false))
/-- Whether what stands on a cluster falls short for a launch that goes before another (R389). -/
def State.shortFor (s : State) (x : Launch) (cl : Nat) : Bool :=
  s.launches.any fun y => decide (y.id ≠ x.id) && y.unplaced && y.before x && !s.hasRoomFor y cl

/-- Evicted flights of a cluster that wait with at least the priority (R397). -/
def State.waitingBack (s : State) (cl prio : Nat) : Bool :=
  s.flights.any fun f => f.isEvicted && decide (clusterOf (s.wgOf f).core = cl) && decide (prio ≤ recPrio (s.recOf f))

/-- One flight, or a pair, of a workgroup at its start (R365, R416). -/
def newFlights (l : Launch) (wg core fidx part id : Nat) : List Flight :=
  let r := l.recd
  let pc := recField r 0 0 48
  let f : Flight :=
    { id, launch := l.id, wg, fidx, core, part, nVregs := recVregs r, nTiles := recNtiles r, priv := l.priv, pc
      symLimit := BitVec.ofNat 12 (recSymLimit r), place := .pending none false
      region := { start := pc, exm := BitVec.allOnes 64, depth := 0, valid := true } }
  if recShadow r then [f, { f with id := id + 1, kind := .shadow id }] else [f]

/-- Owner tag of the next allocation of a core (R102). -/
def State.nextTag (s : State) (core : Nat) : Nat := let t := mget 0 s.sched.tags core; if t < 65535 then t + 1 else 1

/-- One workgroup placed on a core; none where it does not fit. -/
def State.placeOne (s : State) (l : Launch) (stage core : Nat) : Option State :=
  match (s.room core).workgroup l.recd with
  | none => none
  | some (ps, _) =>
    let (d, c, w) := tupleAt l.recd l.nextTuple
    let id := s.nextId
    let tag := s.nextTag core
    let g : Workgroup := { id, launch := l.id, d, c, w, s := stage, core, size := recLocal l.recd, tag, nsem := recNsem l.recd, placed := s.sched.order }
    let fs := (enum ps).flatMap fun (i, p) => newFlights l id core i p (id + 1 + 2 * i)
    some { s with
      nextId := id + 1 + 2 * ps.length, wgs := s.wgs ++ [g], flights := s.flights ++ fs
      sched := { s.sched with order := s.sched.order + 1, tags := mset 0 s.sched.tags core tag } }

def State.placeAll (s : State) (l : Launch) : List (Nat × Nat) → Option State
  | [] => some s
  | (i, core) :: r => (s.placeOne l i core).bind fun s => s.placeAll l r

/-- WORKGROUP_PLACE: the next tuple, its stages on the cores named, unless a launch that goes first is left without the room it needs (R389). -/
def execWorkgroupPlace (l : Nat) (cores : List Nat) (s : State) : Host.Outcome State Fault Refusal :=
  match s.launch? l with
  | none => .next s
  | some x =>
    let cl := x.nextCluster
    if x.unplaced = false ∨ cores.length ≠ recNstg x.recd ∨ cores.any (fun k => decide (clusterOf k ≠ cl)) ∨ cl / 4 ∈ s.dev.dieRst
        ∨ s.parked.testBit (cl / 4) ∨ s.waitingBack cl (recPrio x.recd) then .next s
    else match s.placeAll x (enum cores) with
    | some t => if t.shortFor x cl then .next s else .next (t.setLaunch { x with nextTuple := x.nextTuple + 1 })
    | none => .next s

/-! ### The release of a workgroup (R119) -/

def Access.inLocal (wg : Nat) (a : Access) : Bool := decide (a.space = .loc wg)

/-- Whether everything of a workgroup that its allocation must see is done. -/
def State.wgDone (s : State) (w : Workgroup) : Bool :=
  let l := (s.launch? w.launch).getD { id := 0 }
  (s.flights.all fun f => decide (f.wg ≠ w.id)
      || (f.isEnded && (f.ops.all fun o => o.acc.all fun a => !a.inLocal w.id) && (f.wq.all fun x => !x.acc.inLocal w.id)))
  && (s.cmds.all fun c => decide (c.wg ≠ w.id))
  && (!l.isRunning || decide (recCrlen l.recd = 0) || decide (w.owed.getD (w.covered l.recd) = 0))

/-- WORKGROUP_RELEASE. -/
def execWorkgroupRelease (w : Nat) (s : State) : Host.Outcome State Fault Refusal :=
  match s.wg? w with
  | none => .next s
  | some g =>
    if s.wgDone g = false then .next s
    else .next { s with
      wgs := s.wgs.filter fun x => decide (x.id ≠ w)
      barriers := s.barriers.filter fun b => !(decide (b.scope = 1) && decide (b.key = w))
      dev := { s.dev with idleSince := s.clock } }

/-! ### Completion (R166, R167, R387, R406) -/

/-- R166, and an ended launch's workgroups gone. -/
def State.launchDone (s : State) (l : Launch) : Bool :=
  (!l.isRunning || decide (gridTuples l.recd ≤ l.nextTuple))
  && (s.wgs.all fun w => decide (w.launch ≠ l.id)) && (s.cmds.all fun c => decide (c.launch ≠ l.id))
  && (s.flights.all fun f => decide (f.launch ≠ l.id) || (f.isEnded && f.ops.isEmpty && f.wq.isEmpty))
  && s.mem.transit.all fun p => !(match p.2.acc.space with | .loc _ => true | _ => false) || (match s.flight? p.2.flight with | some f => decide (f.launch ≠ l.id) | none => true)

/-- Pages of a region, each with its frame, its view, or nothing (R387). -/
def State.pagesOf (s : State) (l : Launch) (base len : Nat) : List (Nat × Option Nat × Option Nat) :=
  if len = 0 then [] else
  (List.range ((base + len - 1) / 2 ^ 16 - base / 2 ^ 16 + 1)).map fun i =>
    let page := base / 2 ^ 16 + i
    (page, (s.galleryVa l.asid l.priv (page * 2 ^ 16)).map (· / 2 ^ 16), s.zrAt l.asid (page * 2 ^ 16))

/-- Whether the translation of a page must be waited for. -/
def State.pagesHeld (s : State) (l : Launch) (base len : Nat) : Bool := (frameParts base len).any fun p => s.galleryHeld l.asid p.1 1

/-- Lines that an edge names: physical ones as a test on an address, view ones as a test on a line key. -/
def edgeLines (s : State) (l : Launch) (regions : List (Nat × Nat)) : (Nat → Bool) × (Nat → Bool) :=
  let ps := regions.flatMap fun (b, n) => (s.pagesOf l b n).map fun p => (b, n, p)
  (fun pa => ps.any fun (b, n, page, fr, v) => v.isNone && (match fr with | some f => decide (pa / 2 ^ 16 = f) | none => false)
      && rangesMeet (page * 2 ^ 16 + pa % 2 ^ 16 / 128 * 128) 128 b n,
   fun line => ps.any fun (b, n, page, _, v) => match v with
      | some z => let lo := viewLine l.asid z (page * 2 ^ 16 - (s.zr l.asid z).vbase); decide (lo ≤ line) && decide (line < lo + 512)
          && rangesMeet (page * 2 ^ 16 + (line - lo) * 128) 128 b n
      | none => false)

/-- Writes that an edge delivers: of a tier line, or of a host or peer line when HOST is set. -/
def edgeTakes (test : Nat → Bool) (host : Bool) (w : Wr) : Bool :=
  match w.acc.space with
  | .tier => test w.acc.pa
  | .host => host && test w.acc.pa
  | .peer _ => host && test w.acc.pa
  | _ => false

/-- One write of an edge's lines delivered; nothing where it must wait. -/
def State.edgeDeliver (s : State) (w : Wr) : Option State :=
  let s := (match w.acc.space with | .tier => if s.homeMoves w.acc.pa || (match s.l2? (lineOf w.acc.pa) with | some x => x.owner.isSome || x.filling | none => false) then none else some (s.fillLine (lineOf w.acc.pa)) | _ => some s)
  s.bind fun s =>
    if decide (w.acc.space = .host) && s.atsWait w.fn w.acc.pa then none
    else match if w.acc.isOuter then s.failPort w.acc.pa else none with
    | some p => some ((s.leaveTransit w).report 13 (dieOf w.core) w.core ((s.flight? w.flight).bind fun f => s.launch? f.launch) [w.acc.pa, p, 2] [])
    | none => some ((s.applyHome w).leaveTransit w)

def State.edgeDeliverAll (s : State) : List Wr → Option State
  | [] => some s
  | w :: r => (s.edgeDeliver w).bind fun s => s.edgeDeliverAll r

/-- The counter of an edge gains 1. -/
def State.evtAdd (s : State) (n : Nat) : State := s.setReg (0x24000 + 8 * n) (BitVec.ofNat 64 ((fld (s.reg (0x24000 + 8 * n)) 0 32 + 1) % 2 ^ 32))

/-- One edge acted on: delivery, discards on all dies, the counter (R167); nothing where a delivery must wait. -/
def State.edgeAct (s : State) (l : Launch) (i : Nat) (w0 : DWord) (ws : List DWord) : Option State :=
  let regions := (List.range (fld w0 10 3)).map fun r => ((ws.getD (2 + 2 * r) 0).toNat, (ws.getD (3 + 2 * r) 0).toNat)
  if regions.any fun p => s.pagesHeld l p.1 p.2 then none else
  let (phys, view) := edgeLines s l regions
  (s.edgeDeliverAll ((s.mem.transit.map Prod.snd).filter (edgeTakes phys (w0.getLsbD 13)))).map fun t =>
    let t : State := { t with mem := { t.mem with
      l1 := t.mem.l1.filter fun c => !(if c.line < 2 ^ 64 then phys (128 * c.line) else view c.line)
      far := t.mem.far.filter fun c => !phys (128 * c.line) } }
    let bad := regions.flatMap fun (b, n) => (s.pagesOf l b n).filterMap fun (page, fr, v) => if fr.isNone && v.isNone then some (page * 2 ^ 16) else none
    (bad.foldl (fun (t : State) va => t.report 10 8 255 (some l) [i, 2, va] []) t).evtAdd (fld w0 0 10)

/-- An edge of the list (R387). -/
def State.edgeStep (s : State) (l : Launch) (i : Nat) : Option State :=
  let va := recEdges l.recd + 80 * i
  if s.galleryHeld l.asid va 80 then none else
  match s.galleryWords l.asid l.priv va 1 with
  | none => some (s.report 10 8 255 (some l) [i, 3] [])
  | some w =>
    let w0 := w.headD 0
    let rest := (List.range 10).map fun k => ((s.galleryWords l.asid l.priv (va + 8 * k) 1).bind List.head?)
    let ws := rest.map fun x => x.getD 0
    let used := 2 + 2 * fld w0 10 3
    if fld w0 14 50 ≠ 0 ∨ ws.getD 1 0 ≠ 0 ∨ 4 < fld w0 10 3 ∨ (rest.take used).any Option.isNone
        ∨ (List.range (fld w0 10 3)).any (fun r => decide (fld (ws.getD (2 + 2 * r) 0) 48 16 ≠ 0)) then
      some ((s.report 10 8 255 (some l) [i, 1] []).evtAdd (fld w0 0 10))
    else s.edgeAct l i w0 ws

/-- The launch begins to retire its Z-regions (R30). -/
def State.retireZ (s : State) (l : Launch) : State :=
  l.zr.foldl (fun (s : State) n =>
    if mget 0 s.dev.zrOwner (16 * l.asid + n) = l.id ∧ (s.zr l.asid n).err ≠ 15 then s.zrRetireStart l.asid n else s) s

/-- The launch is gone: DONE advances. -/
def State.launchGone (s : State) (l : Launch) : State :=
  let o := qOff l.queue + 16
  let s := s.setReg o (setFld (s.reg o) 32 32 (fld (s.reg o) 32 32 + 1))
  { s with
    launches := s.launches.filter fun x => decide (x.id ≠ l.id)
    flights := s.flights.filter fun f => decide (f.launch ≠ l.id)
    barriers := s.barriers.filter fun b => decide (b.launch ≠ l.id) }

/-- LAUNCH_COMPLETE: the next step of a completion that may go on (R387); an ended launch takes no edges and is reported (R406). -/
def execLaunchComplete (l : Nat) (s : State) : Host.Outcome State Fault Refusal :=
  match s.launch? l with
  | none => .next s
  | some x =>
    match x.phase with
    | .running => if s.launchDone x then .next (s.setLaunch { x with phase := .edges 0 }) else .next s
    | .ending why frame =>
      if s.launchDone x then .next (((s.report 7 8 255 (some x) [why] frame).setLaunch { x with phase := .retiring }).retireZ x) else .next s
    | .edges i =>
      if i < recNedge x.recd then
        match s.edgeStep x i with
        | some t => .next (t.setLaunch { ((t.launch? l).getD x) with phase := .edges (i + 1) })
        | none => .next s
      else .next ((s.setLaunch { x with phase := .retiring }).retireZ x)
    | .retiring =>
      if x.zr.any fun n => decide (mget 0 s.dev.zrOwner (16 * x.asid + n) = x.id) then .next s else .next (s.launchGone x)

end Sys2Proof.Machine
end

