-- ==== Sys2Proof/Machine/Sched.lean ====
section
/-! DEFINITION. The scheduler (R376, R391, R392), matrix-array wakes (R393), buckets (R90 to R92), and partial eviction with the context-save
compressor (R394 to R397, R421 to R423). -/

namespace Sys2Proof.Machine

/-! ### Readiness (R391) -/

/-- Whether the wait of a flight, if it stands in one, need not go on. -/
def State.waitOver (s : State) (f : Flight) : Bool :=
  match f.wait with
  | none => true
  | some w =>
    w.woken || (match w.kind with
    | 1 => match s.wg? w.wg with | some g => semMet (g.sem w.num).val w.val | none => true
    | 2 => match s.wg? w.wg with | some g => decide (g.word w.num &&& w.val = w.val) | none => true
    | 3 => f.ops.all fun o => !(decide (o.kind = .mma) && decide (o.batch % 256 = w.num))
    | 4 => match f.pendingBar w.val w.num with | some a => a.done | none => true
    | 5 => s.entryRoom f w.val w.num
    | 6 =>
      let g := s.wgOf f
      f.clause.isSome && (s.wgFlights f.wg).all fun x => x.isEnded
        || (!x.isEvicted && (decide (x.id ∈ g.rejoin) || (match g.gather with | some a => decide (x.id ∈ a.arrived) | none => false)))
    | 8 => false
    | _ => true)

/-- A pending flight that could issue if it had a place. -/
def State.isReady (s : State) (f : Flight) : Bool :=
  (match f.place with | .pending _ _ => true | _ => false)
  && !s.isHeld f && (match f.port with | .free => true | _ => false) && !f.leaving && f.capTrap.isNone && (s.launchOf f).started
  && s.waitOver f && f.blocked.all (fun r => !f.isPending r) && !s.walking f

/-- Whether a flight waits for a register whose access an engine's ownership holds back (R157, R428). -/
def State.inRecall (s : State) (f : Flight) : Bool :=
  f.ops.any fun o => (o.dests.any fun r => decide (r ∈ f.blocked)) && o.acc.any fun a => a.isOpen && decide (a.space = .tier)
    && (match s.l2? (lineOf a.pa) with | some x => x.owner.isSome | none => false)

/-- What a flight keeps of the clocks that pass: since when it is ready, a wait in recall, and no stopped or evicted clocks in a wait. -/
def State.tick (s : State) (n : Nat) (f : Flight) : Flight :=
  let f : Flight :=
    match f.place with
    | .pending since aged =>
      if s.isReady f then { f with place := .pending (some (since.getD s.clock)) aged } else { f with place := .pending none false }
    | _ => f
  let f : Flight :=
    match f.wait with
    | none => if !f.isActive && !f.isEnded && s.inRecall f then { f with wait := some { kind := 7, since := s.clock, pc := f.pc, woken := true } } else f
    | some w => if w.kind = 7 && !s.inRecall f then { f with wait := none } else f
  if s.isHeld f || f.isEvicted then { f with wait := f.wait.map fun w => { w with since := w.since + n } } else f

/-- Clocks pass. A clock in which a workgroup is resident or a head is admissible starts the idle delay again (R441). -/
def State.passClocks (s : State) (n : Nat) : State :=
  { s with
    flights := s.flights.map (s.tick n), clock := s.clock + n
    dev := { s.dev with idleSince := if s.wgs ≠ [] ∨ s.sched.heads.any (fun h => s.admissible h) = true then s.clock + n else s.dev.idleSince } }

/-! ### The two sets (R391, R376) -/

def Flight.inPart (f : Flight) (core part : Nat) : Bool := decide (f.core = core) && decide (f.part = part) && !f.isHandler
def State.activeCount (s : State) (core part : Nat) : Nat := (s.flights.filter fun f => f.inPart core part && f.isActive).length

/-- Ready pending flights of a partition. -/
def State.readyOf (s : State) (core part : Nat) : List Flight := s.flights.filter fun f => f.inPart core part && s.isReady f
def Flight.readySince (f : Flight) (clock : Nat) : Nat := match f.place with | .pending (some t) _ => t | _ => clock
def Flight.isAged (f : Flight) (clock : Nat) : Bool := match f.place with | .pending t a => a || (match t with | some t => decide (t + 65536 ≤ clock) | none => false) | _ => false
/-- When the wait that a flight stands in began. -/
def Flight.waitSince (f : Flight) (clock : Nat) : Nat := match f.wait with | some w => min w.since clock | none => clock

/-- The order in which ready flights are taken: aged ones, then priority, then the time ready, and of those that one clock made ready the one that began
to wait first (R391, R107). -/
def State.swapKey (s : State) (f : Flight) : Nat :=
  ((if f.isAged s.clock then 0 else 1 + (7 - recPrio (s.recOf f))) * (s.clock + 1) + f.readySince s.clock) * (s.clock + 1) + f.waitSince s.clock

/-- The handler run of a partition that has waited and is ready to go on; its trap bank gives it a place of its own, which is none of the eight (R400, R403,
log 83). -/
def State.readyRun (s : State) (core part : Nat) : Option Flight :=
  s.flights.find? fun f => f.isHandler && decide (f.core = core) && decide (f.part = part) && s.isReady f

/-- FLIGHT_SWAP_IN. -/
def execFlightSwapIn (core part : Nat) (s : State) : Host.Outcome State Fault Refusal :=
  match s.readyRun core part with
  | some h => .next (s.setFlight { h with place := .active s.clock })
  | none =>
  if 8 ≤ s.activeCount core part then .next s
  else match sortBy s.swapKey (s.readyOf core part) with
  | f :: _ => .next (s.setFlight { f with place := .active s.clock })
  | [] => .next s

/-- FLIGHT_SWAP_OUT_TIMEOUT (R376). -/
def execFlightSwapOutTimeout (f : Nat) (s : State) : Host.Outcome State Fault Refusal :=
  match s.flight? f with
  | none => .next s
  | some x =>
    match x.place with
    | .active t =>
      if t + 4096 ≤ s.clock ∧ x.residual.isEmpty ∧ x.isHandler = false ∧ (s.readyOf x.core x.part).isEmpty = false then .next (s.setFlight x.leaveActive) else .next s
    | _ => .next s

/-- PENDING_AGE_EXPIRY (R391). -/
def execPendingAgeExpiry (f : Nat) (s : State) : Host.Outcome State Fault Refusal :=
  match s.flight? f with
  | none => .next s
  | some x =>
    match x.place with
    | .pending (some t) _ => if s.isReady x ∧ t + 65536 ≤ s.clock then .next (s.setFlight { x with place := .pending (some t) true }) else .next s
    | _ => .next s

/-! ### Matrix arrays (R393) -/

/-- Clocks between wakes of a die. -/
def wakeGap (w : DWord) : Nat := max (fld w 16 8) ((200 * fld w 24 8 + fld w 8 8 - 1) / fld w 8 8)

/-- MATRIX_ARRAY_WAKE: the die's oldest request, when its pacing allows. -/
def execMatrixArrayWake (d : Nat) (s : State) : Host.Outcome State Fault Refusal :=
  let cfg := s.reg (mrcfgOff d)
  let last := mget 0 s.sched.lastWake d
  let gap := if cfg.getLsbD 0 then max 1 (wakeGap cfg) else 1
  match sortBy WakeReq.since (s.sched.wakeReqs.filter fun r => decide (dieOf r.core = d)) with
  | [] => .next s
  | r :: _ =>
    if last ≠ 0 ∧ s.clock < last - 1 + gap then .next s
    else .next { s with sched := { s.sched with
      arrays := mset ⟨0, false⟩ s.sched.arrays (6 * r.core + r.part) ⟨s.clock, true⟩
      wakeReqs := s.sched.wakeReqs.filter fun x => decide (x ≠ r)
      lastWake := mset 0 s.sched.lastWake d (s.clock + 1)
      delayed := if r.since < s.clock then mset 0 s.sched.delayed d (mget 0 s.sched.delayed d + 1) else s.sched.delayed } }

/-- MATRIX_ARRAY_IDLE. -/
def execMatrixArrayIdle (core part : Nat) (s : State) : Host.Outcome State Fault Refusal :=
  let k := 6 * core + part
  let a := mget ⟨0, false⟩ s.sched.arrays k
  let idle := fld (s.reg (mrcfgOff (dieOf core))) 40 8
  if a.awake ∧ idle ≠ 0 ∧ a.busyTo + 16 * idle ≤ s.clock then
    .next { s with sched := { s.sched with arrays := mset ⟨0, false⟩ s.sched.arrays k ⟨a.busyTo, false⟩ } }
  else .next s

/-! ### Buckets (R90, R92) -/

/-- A tenant's configuration takes effect and its counts gain RATE for each of `k` refills. -/
def State.refill (s : State) (d n k : Nat) : State :=
  let o := tbcfgOff d n
  let old := s.reg o
  let s := match tbPending s d n with
    | some w => { (s.setReg o w) with dev := { (s.setReg o w).dev with tbNext := mset 0 s.dev.tbNext (16 * d + n) 0 } }
    | none => s
  let cfg := s.reg o
  let depth : Int := fld cfg 32 16
  let count (c : Nat) : Int :=
    if !cfg.getLsbD 0 then 0 else if !old.getLsbD 0 then depth else min (mget 0 s.sched.buckets (16 * c + n) + k * fld cfg 16 16) depth
  let cores := (List.range 16).map (16 * d + ·)
  let s : State := { s with sched := { s.sched with buckets := cores.foldl (fun m c => mset 0 m (16 * c + n) (count c)) s.sched.buckets } }
  /- The first parked flight of a core whose count is at least 1 returns; every one when nothing is charged any more. -/
  cores.foldl (fun (s : State) c =>
    let mine := s.sched.parked.filter fun f => match s.flight? f with
      | some x => decide (x.core = c) && decide ((s.launchOf x).tenant = n) && x.bucketParked
      | none => false
    let go := if !cfg.getLsbD 0 then mine else if 1 ≤ mget 0 s.sched.buckets (16 * c + n) then mine.take 1 else []
    let s := go.foldl (fun (s : State) f => s.updFlight f Flight.wake) s
    { s with sched := { s.sched with parked := s.sched.parked.filter fun f => decide (f ∉ go) } }) s

/-- BUCKET_REFILL: every 64 mesh cycles, which are 32 clocks; one that comes late makes good what the counts have missed. -/
def execBucketRefill (s : State) : Host.Outcome State Fault Refusal :=
  if s.clock < s.dev.lastRefill + 32 then .next s
  else
    let k := (s.clock - s.dev.lastRefill) / 32
    let s : State := { s with dev := { s.dev with lastRefill := s.dev.lastRefill + 32 * k } }
    .next (allDies.foldl (fun (s : State) d => (List.range 16).foldl (fun (s : State) n => s.refill d n k) s) s)

/-! ### The compressor (R421 to R423) -/

/-- Tag, payload fields and the dictionary after one word; `k` counts the block's literals. -/
def packWord (w : Nat) (dict : List (Option Nat)) (k : Nat) : Nat × List (Nat × Nat) × List (Option Nat) × Nat :=
  if w = 0 then (0, [], dict, k)
  else match (List.range 16).find? fun i => decide (dict.getD i none = some w) with
  | some i => (1, [(i, 4)], dict, k)
  | none =>
    match (List.range 16).find? fun i => match dict.getD i none with | some v => decide (v / 256 = w / 256) | none => false with
    | some i => (2, [(i, 4), (w % 256, 8)], dict, k)
    | none => (3, [(w, 32)], (enum dict).map (fun (i, x) => if i = k % 16 then some w else x), k + 1)

def packWords : List Nat → List (Option Nat) → Nat → List (Nat × Nat) × List (Nat × Nat)
  | [], _, _ => ([], [])
  | w :: r, dict, k =>
    let (t, p, dict, k) := packWord w dict k
    let (ts, ps) := packWords r dict k
    ((t, 2) :: ts, p ++ ps)

/-- One block of 32 words. -/
def packBlock (ws : List Nat) : List Byte :=
  let (ts, ps) := packWords ws (List.replicate 16 none) 0
  leBytes (8 + ((ps.map Prod.snd).sum + 7) / 8) (packBits (ts ++ ps))

/-- Words of a packed block from bit `pos`, and the bit after them; none for an empty entry. -/
def unpackWords (code tags : Nat) : Nat → Nat → List (Option Nat) → Nat → Nat → Option (List Nat × Nat)
  | 0, _, _, _, pos => some ([], pos)
  | n + 1, i, dict, k, pos =>
    let next (w : Nat) (dict : List (Option Nat)) (k pos : Nat) : Option (List Nat × Nat) :=
      (unpackWords code tags n (i + 1) dict k pos).map fun x => (w :: x.1, x.2)
    match nbits tags (2 * i) 2 with
    | 0 => next 0 dict k pos
    | 1 => (dict.getD (nbits code pos 4) none).bind fun w => next w dict k (pos + 4)
    | 2 => (dict.getD (nbits code pos 4) none).bind fun v => next (v / 256 * 256 + nbits code (pos + 4) 8) dict k (pos + 12)
    | _ =>
      let w := nbits code pos 32
      next w ((enum dict).map fun (j, x) => if j = k % 16 then some w else x) (k + 1) (pos + 32)

/-- A block's words and its length in bytes. -/
def unpackBlock (bytes : List Byte) : Option (List Nat × Nat) :=
  let code := ofLe (bytes.take 136)
  (unpackWords code (code % 2 ^ 64) 32 0 (List.replicate 16 none) 0 64).map fun x => (x.1, (x.2 + 7) / 8)

/-- The image of a flight; its private bytes are free values from `key` (R421). -/
def Flight.image (f : Flight) (key : Nat) : List Byte :=
  let v := (List.range f.nVregs).flatMap fun n => lanes.flatMap fun l => leBytes 4 (f.rdV n l).toNat
  let t := (List.range f.nTiles).flatMap fun n => (List.range 1632).map fun b => f.rdTile n b
  let p := (List.range 4096).map fun i => BitVec.ofNat 8 (Config.freeNat (key + i))
  let l := v ++ t ++ p
  l ++ List.replicate (roundUp l.length 128 - l.length) 0

/-- Blocks of 128 bytes packed back to back; `n` bounds them. -/
def packImage : Nat → List Byte → List Byte
  | 0, _ => []
  | n + 1, l => if l.isEmpty then [] else packBlock ((List.range 32).map fun i => ofLe ((l.drop (4 * i)).take 4)) ++ packImage n (l.drop 128)

/-- `n` blocks restored from a save slot. -/
def unpackImage : Nat → List Byte → Option (List Nat)
  | 0, _ => some []
  | n + 1, l => (unpackBlock l).bind fun (ws, k) => (unpackImage n (l.drop k)).map fun r => ws ++ r

/-- Bytes of a flight's image, in whole blocks, and of its save slot (R367). -/
def imageLen (r : List DWord) : Nat := roundUp (256 * recVregs r + 1632 * recNtiles r + 4096) 128
def fsave (r : List DWord) : Nat := roundUp (17 * imageLen r / 16) 4096
def State.saveVa (s : State) (f : Flight) : Nat :=
  let r := s.recOf f
  if recShadow r then recSave r + s.gIndex f * (2 * fsave r) + (if f.isShadow then fsave r else 0) else recSave r + s.gIndex f * fsave r

/-- Physical address of a byte of the save area; none where it cannot be reached. -/
def State.savePa (s : State) (f : Flight) (need : Need) (va : Nat) : Option Nat :=
  let l := s.launchOf f
  if 2 ^ 48 ≤ va ∨ (s.zrAt l.asid va).isSome then none else
  let w := s.walk 8 l.asid va
  let pa := w.res.pfn * 2 ^ 16 + va % 2 ^ 16
  if w.res.cause = 0 ∧ leafCause l.priv need pa w.res.perm = 0 ∧ paSpace pa ≠ some .dev then some pa else none
/-- Whether a flight's save slot must be waited for (R15, R27, R70). -/
def State.saveHeld (s : State) (f : Flight) : Bool := s.galleryHeld (s.launchOf f).asid (s.saveVa f) (17 * imageLen (s.recOf f) / 16)

/-- A flight's state goes to its save slot; none for a fault. -/
def State.saveFlight (s : State) (f : Flight) : Option State :=
  let bytes := packImage (imageLen (s.recOf f) / 128) (f.image s.freeCtr)
  let va := s.saveVa f
  let s : State := { s with freeCtr := s.freeCtr + 4096 }
  (frameParts va bytes.length).foldl (fun (acc : Option State) (lo, n) =>
    acc.bind fun s => (s.savePa f .wr lo).map fun pa => s.postWrite f.core (s.launch? f.launch) pa ((bytes.drop (lo - va)).take n)) (some s)

/-- A flight's registers and tiles as its save slot gives them. -/
def State.loadFlight (s : State) (f : Flight) : Option Flight :=
  let r := s.recOf f
  let va := s.saveVa f
  let parts := frameParts va (17 * imageLen r / 16)
  let bytes := parts.foldr (fun (lo, n) (acc : Option (List Byte)) =>
    match s.savePa f .rd lo, acc with
    | some pa, some l => if (s.poisonIn pa n).isSome then none else some ((List.range n).map (fun i => s.homeByte (pa + i)) ++ l)
    | _, _ => none) (some [])
  (bytes.bind fun l => unpackImage (imageLen r / 128) l).map fun ws =>
    let byte (i : Nat) : Byte := BitVec.ofNat 8 (ws.getD (i / 4) 0 / 2 ^ (8 * (i % 4)))
    { f with
      v := msets 0 [] ((enum (ws.take (64 * f.nVregs))).map fun (i, w) => (i, BitVec.ofNat 32 w))
      tiles := msets 0 [] ((List.range (1632 * f.nTiles)).map fun i => (i, byte (256 * f.nVregs + i))) }

/-! ### Eviction (R394 to R396) -/

/-- Whether a flight is leaving, by itself or with a leader of the list. -/
def Flight.leavesWith (f : Flight) (l : List Nat) : Bool :=
  f.leaving || decide (f.id ∈ l) || (match f.kind with | .shadow k => decide (k ∈ l) | _ => false)
/-- Workgroups of the record, at most `n`, that fit on a core once flights `l` have left. -/
def State.fitsWithout (s : State) (r : List DWord) (core n : Nat) (l : List Nat) : Nat := (s.roomWithout core fun f => f.leavesWith l).fits r n

/-- The shortest beginning of a list of groups whose leaving is enough, else all. -/
def enoughOf (ok : List Nat → Bool) : List (List Nat) → List Nat → List Nat
  | [], acc => acc
  | g :: r, acc => if ok acc then acc else enoughOf ok r (acc ++ g)

/-- The victims on a core, so that `n` workgroups of a launch fit there (R394). -/
def State.victims (s : State) (l : Launch) (core n : Nat) : List Nat :=
  let r := l.recd
  let ok (l : List Nat) : Bool := decide (n ≤ s.fitsWithout r core n l)
  let cand := s.flights.filter fun f => decide (f.core = core) && !f.isEnded && !f.isEvicted && !f.leaving && (match f.kind with | .leader => true | _ => false)
    && decide (recPrio (s.recOf f) < recPrio r) && s.mayEvict f.wg
  let low := (cand.map fun f => recPrio (s.recOf f)).foldl min 8
  let ls := dedup ((cand.filter fun f => decide (recPrio (s.recOf f) = low)).map Flight.launch)
  match sortBy (fun x => ((s.launch? x).map Launch.admitted).getD 0) ls |>.reverse with
  | [] => []
  | victim :: _ =>
    let mine := cand.filter fun f => decide (f.launch = victim)
    let wgs := (sortBy Workgroup.placed (s.wgs.filter fun w => mine.any fun f => decide (f.wg = w.id))).reverse
    let members (w : Workgroup) : List Flight := (sortBy Flight.fidx (mine.filter fun f => decide (f.wg = w.id))).reverse
    /- A regrouped workgroup goes whole, on whichever core of the cluster a flight of it stands (R352). -/
    let whole (w : Workgroup) : List Nat :=
      if (members w).any Flight.regrouped then ((s.wgFlights w.id).filter fun f => !f.isEnded && !f.isEvicted).map Flight.id else (members w).map Flight.id
    let groups := wgs.flatMap fun w => if (members w).any Flight.regrouped then [whole w] else (whole w).map fun i => [i]
    let single := enoughOf ok groups []
    let big := wgs.filter fun w => ok (whole w) && decide ((whole w).length ≤ 2 * single.length)
    if ok single = false then single
    else match sortBy (fun w => (whole w).length) big with
    | w :: _ => whole w
    | [] => single

/-- Workgroups that a core is to take for a launch's next tuple: one more than now fit there; none where the tuple fits on its cluster (R364), where flights
leaving count as gone, or where no eviction makes the core take it: its local memory or semaphores, or the flights that stay, leave no room. -/
def State.shortfall (s : State) (x : Launch) (core : Nat) : Option Nat :=
  let r := x.recd
  let n := s.fitsWithout r core 8 [] + 1
  if x.unplaced = false ∨ clusterOf core ≠ x.nextCluster ∨ recNstg r ≤ roomsFit r 8 (s.rooms x.nextCluster fun f => f.leavesWith []) then none
  else if (s.roomWithout core fun f => f.leavesWith [] || s.evictable (recPrio r) f).fits r n < n then none
  else some n

/-- EVICTION_DECISION: on a core of the cluster to which the launch's next tuple is bound. -/
def execEvictionDecision (l core : Nat) (s : State) : Host.Outcome State Fault Refusal :=
  match s.launch? l with
  | none => .next s
  | some x =>
    match s.shortfall x core with
    | none => .next s
    | some n =>
      let v := s.victims x core n
      .next { s with flights := s.flights.map fun f => if f.leavesWith v then { f with leaving := true } else f }

/-- Whether a chosen flight may leave (R395). A gather that reads for an instruction not issued yet does not hold it: the instruction is saved as not issued. -/
def State.mayLeave (s : State) (f : Flight) : Bool :=
  f.leaving && f.residual.isEmpty
  && (f.ops.all fun o => match o.kind with
    | .store | .pref | .zflush | .zdrop | .clean | .inval | .fence | .semAdd | .semSet => !o.lv
    | .mgath => decide (o.hint = 0)
    | _ => false)
  && f.fixed.all (fun x => decide (x.ready ≤ s.clock))
  && s.flights.all fun h => !(h.isHandler && decide (h.wg = f.wg) && !h.isEnded)

/-- A flight off its core: landing slots free, an arrival at a gather withdrawn, and a wait to be evaluated again (R396, R375). -/
def State.leaveCore (s : State) (f : Flight) : State :=
  let s := s.setFlight { f with place := .evicted s.sched.order, leaving := false, slots := [], fixed := [], walkRes := []
                                ops := f.ops.filter fun o => !(decide (o.kind = .mgath) && decide (o.hint = 0))
                                wait := f.wait.map fun w => { w with woken := false, before := [], mark := none } }
  let s := s.updWg f.wg fun w => { w with
    gather := w.gather.map fun g => { g with arrived := g.arrived.filter (· ≠ f.id) }
    rejoin := if f.clause.isSome then w.rejoin.filter (· ≠ f.id) else w.rejoin }
  { s with sched := { s.sched with order := s.sched.order + 1, parked := s.sched.parked.filter (· ≠ f.id) } }

/-- FLIGHT_EVICT: a flight with its shadow (R394). -/
def execFlightEvict (f : Nat) (s : State) : Host.Outcome State Fault Refusal :=
  match s.flight? f with
  | none => .next s
  | some x =>
    let pair := x :: (s.partner x).toList
    if x.isShadow ∨ x.isEnded ∨ x.isEvicted ∨ pair.any (fun g => !s.mayLeave g || s.saveHeld g) then .next s
    else match pair.foldl (fun (acc : Option State) g => acc.bind fun s => s.saveFlight g) (some s) with
    | none => .next (s.endLaunch x.launch 3 [])
    | some t => .next (pair.foldl (fun (t : State) g => t.leaveCore g) t)

/-- Evicted flights of a cluster in the order of their return (R397). -/
def State.returning (s : State) (cl : Nat) : List Flight :=
  let fs := s.flights.filter fun f => f.isEvicted && !f.isShadow && decide (clusterOf (s.wgOf f).core = cl)
  let key (f : Flight) : Nat := (7 - recPrio (s.recOf f)) * (s.sched.order + 1) + match f.place with | .evicted n => n | _ => 0
  sortBy key fs

/-- A flight back on a core; its bucket park is over, since its instruction had not issued (R92). -/
def Flight.back (f : Flight) (core part : Nat) : Flight :=
  { f with core, part, place := .pending none false, walkRes := []
           wait := f.wait.bind fun w => if w.kind = 8 then none else some w }

/-- Whether a launch of higher priority lacks nothing but what evicted flights have freed for it, and is left short of it: that room is not theirs to return
to (R389, R394, R397). -/
def State.freedFor (s t : State) (prio cl : Nat) : Bool :=
  s.launches.any fun l => l.unplaced && decide (l.nextCluster = cl) && decide (prio < recPrio l.recd)
    && decide (recNstg l.recd ≤ roomsFit l.recd 8 (s.rooms cl (s.evictable (recPrio l.recd)))) && !t.hasRoomFor l cl

/-- FLIGHT_RETURN: the first in order, where it fits, onto a core of its cluster. -/
def execFlightReturn (f core : Nat) (s : State) : Host.Outcome State Fault Refusal :=
  match s.flight? f with
  | none => .next s
  | some x =>
    let cl := clusterOf (s.wgOf x).core
    if clusterOf core ≠ cl ∨ ((s.returning cl).head?.map Flight.id) ≠ some f then .next s
    else match (s.room core).flight (s.recOf x) with
    | none => .next s
    | some (part, _) =>
      let pair := x :: (s.partner x).toList
      let back := pair.foldl (fun (t : State) g => t.setFlight (g.back core part)) s
      if s.freedFor back (recPrio (s.recOf x)) cl ∨ pair.any s.saveHeld then .next s else
      match pair.foldr (fun g (acc : Option (List Flight)) => match s.loadFlight g, acc with | some g, some l => some (g :: l) | _, _ => none) (some []) with
      | none => .next (s.endLaunch x.launch 3 [])
      | some gs => .next (gs.foldl (fun (t : State) g => t.setFlight (g.back core part)) s)

end Sys2Proof.Machine
end

