-- ==== Sys2Proof/Machine/Copy.lean ====
section
/-! DEFINITION. The copy engine (R114 to R139, R156 to R158): taking commands, the checks of Table 06-7, ownership, source reads, writes,
chunk bits and completion. -/

namespace Sys2Proof.Machine

/-! ### What a command stands on -/

def State.cmdLaunch (s : State) (c : Cmd) : Launch := (s.launch? c.launch).getD { id := 0 }
/-- A flight without a number that stands for the engine where an operation asks for one (R154). -/
def State.engine (s : State) (c : Cmd) : Flight := { id := 0, wg := c.wg, launch := c.launch, core := c.core, priv := (s.cmdLaunch c).priv }
def State.fssOf (s : State) (c : Cmd) : DWord := recSlot (s.cmdLaunch c).recd c.fss
def State.fsdOf (s : State) (c : Cmd) : DWord := recSlot (s.cmdLaunch c).recd c.fsd
/-- R′ and L′. -/
def State.cmdShape (s : State) (c : Cmd) : Shape := (c.outShape (s.fssOf c) (s.fsdOf c)).getD ⟨0, 0⟩
def State.issuer (s : State) (c : Cmd) : Workgroup := (s.wg? c.wg).getD { id := 0 }
def Cmd.global (c : Cmd) : Bool := decide (c.dsp ≠ 1)

/-- An index array of the issuer's allocation. -/
def Workgroup.index (w : Workgroup) (off n : Nat) : List Nat := (List.range n).map fun i => cellsGet w.mem (off + 4 * i) 4
/-- Row starts (R122). -/
def rowStarts (base pitch len n : Nat) (idx : Option (List Nat)) : List Nat :=
  (List.range n).map fun r => base + (match idx with | some l => l.getD r 0 | none => r) * (if pitch = 0 then len else pitch)

/-- Workgroup and base offset of a local source. -/
def State.localSrc (s : State) (c : Cmd) : Option (Workgroup × Nat) := s.local? (s.engine c) (c.srcAddr % 2 ^ 32) 0
/-- Resident targets of a multicast (R138). -/
def State.targets (s : State) (c : Cmd) : List Workgroup :=
  let g := s.issuer c
  s.wgs.filter fun x => decide (x.launch = g.launch) && decide (x.d = g.d) && decide (x.c = g.c) && decide (x.s = g.s)
    && decide (x.w / 16 = g.w / 16) && c.mcmask.testBit (x.w % 16)
/-- Workgroups and base offsets of a local destination. -/
def State.localDests (s : State) (c : Cmd) : List (Workgroup × Nat) :=
  if c.mc then (s.targets c).map fun w => (w, c.dstAddr % 2 ^ 19) else (s.local? (s.engine c) (c.dstAddr % 2 ^ 32) 0).toList

/-- Where the source rows start: virtual, physical or offset in the allocation. -/
def State.srcRows (s : State) (c : Cmd) : List Nat :=
  let base := if c.ssp = 1 then ((s.localSrc c).map Prod.snd).getD 0 else c.srcAddr
  rowStarts base c.spitch c.rowLen c.rows (if c.gather then some ((s.issuer c).index c.gidxOff c.rows) else none)
/-- Where the destination rows start, from a base. -/
def State.dstRows (s : State) (c : Cmd) (base : Nat) : List Nat :=
  let h := s.cmdShape c
  rowStarts base c.dpitch h.len h.rows (if c.scatter then some ((s.issuer c).index c.sidxOff h.rows) else none)

/-! ### Checks (Table 06-7) -/

/-- Check 1. -/
def Cmd.bad1 (c : Cmd) : Bool :=
  let z (k lo n : Nat) : Bool := decide (c.w k lo n ≠ 0)
  let q (k lo n : Nat) : Bool := decide (c.p k lo n ≠ 0)
  z 0 58 6 || z 0 44 1 || z 0 30 2 || z 0 22 2 || z 1 48 16 || (decide (c.ssp = 1) && z 1 32 16) || z 2 63 1
  || q 0 38 26 || q 1 4 28 || q 3 32 32 || q 4 26 6 || q 5 34 30 || q 6 0 64 || q 7 0 64
  || decide (c.rows = 0) || decide (c.rowLen = 0) || decide (c.scope = 0) || decide (5 < c.scope) || decide (c.ssp = 3) || decide (c.dsp = 3)
  || (decide (c.dsp = 1) && (decide (c.mcmask ≠ 0) != c.mc)) || (c.mc && c.semId.testBit 11)

/-- The parameter block breaks R100, so that it was not read (check 4). -/
def State.noParams (s : State) (c : Cmd) : Bool := usesParams (c.words.getD 0 0) && decide ((s.issuer c).size < c.param + 64)

/-- A row does not fit the layout of its stages (R124, R125, R205), as far as the fields that say so could be read and name a legal codec. -/
def State.rowMisfit (s : State) (c : Cmd) : Bool :=
  let fss := s.fssOf c
  let fsd := s.fsdOf c
  let blind := s.noParams c
  let late (h : Shape) : Bool :=
    if blind then c.requant && c.slotInput && !c.transpose && (match c.rqWide fss with | some w => decide (h.len % (if w then 8 else 4) ≠ 0) | none => false)
    else ((c.shape2 h).bind (c.shape3 fss fsd)).isNone
  (c.requant && !blind && !c.toBlocks && !slotOk fsd) || (match c.shape1 fss with | none => !c.expand || codecOk c.exz | some h => late h)

/-- Check 3. -/
def State.bad3 (s : State) (c : Cmd) : Bool :=
  let fss := s.fssOf c
  (c.expand && c.dequant) || (c.dequant && decide (slotElem fss < 2)) || (c.requant && (c.rqWide fss).isNone)
  || s.rowMisfit c
  || ((c.cmp || c.chain || c.ckrb) && !c.checksum) || (c.ckrb && c.mc) || (c.mc && c.global)

/-- Bytes of the chunk bitmap, in whole words (R137). -/
def chunkCount (h : Shape) : Nat := (h.rows * h.len + 511) / 512
def bitmapLen (h : Shape) : Nat := 4 * ((chunkCount h + 31) / 32)

/-- Check 4. -/
def State.bad4 (s : State) (c : Cmd) : Bool :=
  let g := s.issuer c
  let h := s.cmdShape c
  let ds := s.localDests c
  s.noParams c
  || (c.gather && (decide (c.gidxOff % 4 ≠ 0) || decide (g.size < c.gidxOff + 4 * c.rows)))
  || (c.scatter && (decide (c.sidxOff % 4 ≠ 0) || decide (g.size < c.sidxOff + 4 * h.rows)))
  || (decide (c.ssp = 1) && (match s.localSrc c with | none => true | some (w, _) => (s.srcRows c).any fun a => decide (w.size < a + c.rowLen)))
  || (!c.global && ((!c.mc && ds.isEmpty) || (c.mc && decide (c.dstAddr % 2 ^ 32 ≠ c.dstAddr % 2 ^ 19))
      || ds.any fun p => (s.dstRows c p.2).any fun a => decide (p.1.size < a + h.len)))
  || (c.cbm && ((if c.global then [g] else ds.map Prod.fst).any fun w => decide (w.size < c.cbOff + bitmapLen h)))

/-- Valid views of an address space. -/
def State.views (s : State) (asid : Nat) : List ZRegion := ((List.range 16).map fun n => s.zr asid n).filter ZRegion.valid
/-- Whether `n` bytes at a physical address lie in the tiers and the peer and host windows. -/
def physOk (pa n : Nat) : Bool := (frameParts pa n).all fun p => match paSpace p.1 with | some .tier => true | some .host => true | some (.peer _) => true | _ => false
/-- Whether they meet the code of a valid Z-region, frame by frame after remapping (R52, R69). -/
def State.meetsCode (s : State) (pa n : Nat) : Bool := (frameParts pa n).any fun p => s.codeMeets (s.remap p.1) p.2
/-- Whether `n` source bytes at a virtual address break a view's extents or its RD. -/
def badView (va n : Nat) (z : ZRegion) : Bool :=
  rangesMeet va n z.vbase z.viewLen && (!z.rd || decide (z.elemCount * z.esize ≤ min (va + n) (z.vbase + z.viewLen) - 1 - z.vbase))

/-- Check 5, but for what translation finds. -/
def State.bad5 (s : State) (c : Cmd) : Bool :=
  let h := s.cmdShape c
  let vs := s.views (s.cmdLaunch c).asid
  let ds := s.dstRows c c.dstAddr
  let ss := s.srcRows c
  (decide (c.dsp = 0) && ds.any fun a => vs.any fun z => rangesMeet a h.len z.vbase z.viewLen)
  || (decide (c.dsp = 2) && ds.any fun a => !physOk a h.len || s.meetsCode a h.len)
  || (decide (c.ssp = 2) && ss.any fun a => !physOk a c.rowLen)
  || (decide (c.ssp = 0) && ss.any fun a => vs.any (badView a c.rowLen))

/-- Whether source and destination overlap in local memory (R133). -/
def State.localOverlap (s : State) (c : Cmd) : Bool :=
  decide (c.ssp = 1) && !c.global &&
  (match s.localSrc c with
   | none => false
   | some (w, _) => (s.localDests c).any fun p => decide (p.1.id = w.id) &&
      (s.dstRows c p.2).any fun a => (s.srcRows c).any fun b => rangesMeet a (s.cmdShape c).len b c.rowLen)

/-- Check 8. -/
def State.bad8 (s : State) (c : Cmd) : Bool :=
  let h := s.cmdShape c
  let t := (c.shape1 (s.fssOf c)).getD ⟨0, 0⟩
  decide (2 ^ 24 < h.rows * h.len) || (c.cbm && decide (2 ^ 16 < h.rows * h.len))
  || (c.transpose && (decide (2 ^ 16 < t.rows * t.len) || decide (4095 < t.len / c.tElem)))

/-- Check 9, and what makes completion skip its semaphore (R135). -/
def State.semBad (s : State) (c : Cmd) : Bool :=
  match s.semRef (s.engine c) c.semId with
  | none => true
  | some (w, n) => decide (w.nsem ≤ n) || (c.mc && (s.targets c).any fun t => decide (t.nsem ≤ n))

/-- Checksum register that the previous command of the ring left, if a CHAIN can continue it. -/
def State.chainFrom (s : State) (c : Cmd) : Option Nat :=
  match (s.issuer c).lastSum with
  | some (i, some (alg, r)) => if i = (c.seq + 2 ^ 32 - 1) % 2 ^ 32 ∧ alg = c.sum then some r else none
  | _ => none

/-- The first check that a command fails, 0 for none. -/
def State.cmdReject (s : State) (c : Cmd) : Nat :=
  let l := s.cmdLaunch c
  if c.bad1 then 1
  else if (c.ssp = 2 ∨ c.dsp = 2) ∧ l.priv = false then 2
  else if s.bad3 c then 3
  else if s.bad4 c then 4
  else if s.bad5 c then 5
  else if s.localOverlap c && decide (c.w 0 0 6 ≠ 0 ∨ c.scatter) then 6
  else if c.decrypt && !(s.dev.keys.any fun k => decide (k.slot = c.keySlot) && decide (k.tenant = l.tenant)) then 7
  else if s.bad8 c then 8
  else if s.semBad c then 9
  else if !c.codecsOk then 10
  else if c.chain && (s.chainFrom c).isNone then 11
  else 0

/-! ### Taking (R116, R117, R121) -/

/-- Whether the engine may take from a workgroup's ring. -/
def State.ringOpen (s : State) (w : Workgroup) : Bool :=
  match s.launch? w.launch with
  | some l =>
    l.isRunning && decide (recCrlen l.recd ≠ 0) && (decide (w.pub l.recd ≠ w.taken) || decide (0 < w.owed.getD 0)) && !w.over l.recd
      && decide ((s.cmds.filter fun c => decide (c.wg = w.id)).length < 4)
  | none => false

def wordsOf (bs : List Byte) : List DWord := (inChunks 8 bs).map fun b => BitVec.ofNat 64 (ofLe b)

/-- The entry to be taken: as a release publish left it, or each byte old or new (R116). -/
def State.ringEntry (s : State) (w : Workgroup) (off : Nat) : List Byte × State :=
  match findBy Prod.fst w.ringSnap w.taken with
  | some (_, b) => (b, s)
  | none =>
    let (k, s) := s.free
    ((List.range 32).map fun j => if k.testBit j then cellGet w.oldRing (off + j) else cellGet w.mem (off + j), s)

/-- What a slot's bytes are now counts as what they held before. -/
def Workgroup.settleSlot (w : Workgroup) (off : Nat) : Workgroup :=
  { w with oldRing := cellsPut w.oldRing off ((List.range 32).map fun j => cellGet w.mem (off + j)) }

def State.takeFrom (s : State) (core : Nat) (w : Workgroup) : State :=
  let r := ((s.launch? w.launch).map Launch.recd).getD []
  let off := recCring r + 32 * (w.taken % recCrlen r)
  let (bytes, s) := s.ringEntry w off
  let words := wordsOf bytes
  let (id, s) := s.fresh
  let c : Cmd := { id, core, wg := w.id, launch := w.launch, seq := w.taken, words, pblock := [] }
  let c : Cmd :=
    if usesParams (words.getD 0 0) ∧ c.param + 64 ≤ w.size then { c with pblock := wordsOf ((List.range 64).map fun j => cellGet w.mem (c.param + j)) } else c
  let taken := (w.taken + 1) % 2 ^ 32
  let w' := { w with taken, owed := w.owed.map (· - 1), ringSnap := w.ringSnap.filter fun e => decide (e.1 ≠ w.taken) }.settleSlot off
  let s := (s.setWg w').locPut w.id (recCnotify r + 4) (leBytes 4 taken) 0 false
  let s := s.updWg w.id fun x => x.putErrs r
  { s with cmds := s.cmds ++ [c], sched := { s.sched with ringTurn := mset 0 s.sched.ringTurn core w.id } }

/-- COPY_TAKE (R117): the next ring with a published entry, in turn. -/
def execCopyTake (core : Nat) (s : State) : Host.Outcome State Fault Refusal :=
  if 8 ≤ (s.cmds.filter fun c => decide (c.core = core)).length then .next s else
  let rings := sortBy Workgroup.id (s.wgs.filter fun w => decide (w.core = core) && s.ringOpen w)
  match (rings.find? fun w => decide (mget 0 s.sched.ringTurn core < w.id)).or rings.head? with
  | some w => .next (s.takeFrom core w)
  | none => .next s

/-! ### Translation (R129) -/

/-- A translation by the engine: an address, a fault cause, or a wait for a walk. -/
inductive EngineXl where
  | ok (pa : Nat)
  | fault (cause : Nat)
  | wait
  deriving DecidableEq, Repr

/-- The engine shares the core's TLB and miss entries (R58, R61). A command that a migration's shootdown waits for goes on in the frame (R65, R70, log 82). -/
def State.engineXl (s : State) (c : Cmd) (need : Need) (va : Nat) : EngineXl × State :=
  let l := s.cmdLaunch c
  match s.xlateBy c.walkRes (s.tlbHit c.core 6 l.asid va) l.priv need va with
  | .ok pa _ => (.ok pa, s)
  | .fault e _ => (.fault e, s)
  | .miss =>
    let w := s.walk (dieOf c.core) l.asid va
    let pa := w.base + va % 2 ^ w.shift
    if w.res.cause = 0 ∧ s.onHold pa ∧ leafCause l.priv need pa w.res.perm = 0 ∧ c.usesFrame (pa / 2 ^ 16) then (.ok pa, s)
    else (.wait, { s with tr := s.tr.addMisses c.id c.core l.asid [va / 2 ^ 16] })
/-- Size of the page that the engine's translation of an address used. -/
def State.engineShift (s : State) (c : Cmd) (va : Nat) : Nat :=
  match c.walkRes.find? fun r => decide (r.frame = va / 2 ^ 16) with
  | some r => r.shift
  | none => ((s.tlbFind c.core 6 (s.cmdLaunch c).asid va).map TlbEntry.shift).getD 16

/-- Frames of the destination: each address frame with its physical frame; the first fault; or a wait. -/
inductive DestFrames where
  | ok (m : NMap Nat)
  | fault (cause va : Nat)
  | wait
  deriving DecidableEq, Repr

def State.xlDest (s : State) (c : Cmd) : List (Nat × Nat) → NMap Nat → DestFrames × State
  | [], m => (.ok m, s)
  | (va, _) :: rest, m =>
    if m.any fun p => decide (p.1 = va / 2 ^ 16) then s.xlDest c rest m
    else if c.dsp = 2 then (if s.onHold va then (.wait, s) else s.xlDest c rest (m ++ [(va / 2 ^ 16, s.remap va / 2 ^ 16)]))
    else match s.engineXl c .wr va with
      | (.ok pa, s) => s.xlDest c rest (m ++ [(va / 2 ^ 16, pa / 2 ^ 16)])
      | (.fault e, s) => (.fault e va, s)
      | (.wait, s) => (.wait, s)

/-! ### Destinations (R122, R130) -/

def frameOf (m : NMap Nat) (a : Nat) : Nat := mget 0 m (a / 2 ^ 16) * 2 ^ 16 + a % 2 ^ 16
/-- Of several writes of one byte the last remains. -/
def lastOnly (l : List (Nat × Nat)) : List (Nat × Nat) := l.foldr (fun p acc => if acc.any fun q => decide (q.1 = p.1) then acc else p :: acc) []

/-- Windows of at most 256 lines, in row order (R130). A line is written whole in the window in which the rows first come to it, so that no access
observes a part of the command's bytes of it (R131, log 78). -/
def windowsOf (bs : List (Nat × Nat)) : List (List (Nat × Nat)) :=
  (inChunks 256 (dedup (bs.map fun p => lineOf p.1))).map fun ls => bs.filter fun p => decide (lineOf p.1 ∈ ls)

/-- Tier lines of a window, ascending. -/
def CDest.tierLines (d : CDest) : List Nat := sortBy id (dedup ((d.todo.filter fun p => inTier p.1).map fun p => lineOf p.1))
/-- The active window's lines are still to be owned. -/
def Cmd.openWindow (c : Cmd) : Cmd := { c with toOwn := match c.dests with | d :: _ => if c.global then d.tierLines else [] | [] => [] }
/-- A window that is written and released makes room for the next (R130). -/
def Cmd.nextWindow (c : Cmd) : Cmd :=
  match c.dests with
  | d :: r => if c.global && d.todo.isEmpty && c.owned.isEmpty && c.toOwn.isEmpty then { c with dests := r }.openWindow else c
  | [] => c

/-- A command that only its completion is left of; its targets are still known (R138). -/
def Cmd.finish (c : Cmd) (st cause : Nat) : Cmd :=
  { c with phase := .finishing, st, cause, dests := c.dests.map fun d => { d with todo := [] }, toOwn := [] }

/-! ### Beginning (R128, R129) -/

/-- Commands of the ring taken before. -/
def State.earlierCmds (s : State) (c : Cmd) : List Cmd := s.cmds.filter fun x => decide (x.wg = c.wg) && decide (x.id < c.id)

/-- A command that passed its checks and whose destination has been translated runs. -/
def State.startCmd (s : State) (c : Cmd) (frames : NMap Nat) : State :=
  let h := s.cmdShape c
  let key := ((s.dev.keys.find? fun k => decide (k.slot = c.keySlot)).map KeySlot.key).getD 0
  let ds := s.localDests c
  let dests : List CDest :=
    if c.global then
      (windowsOf (lastOnly ((destBytes (s.dstRows c c.dstAddr) h.len).map fun p => (frameOf frames p.1, p.2)))).map fun w => ⟨.tier, 0, c.core, w⟩
    else ds.map fun p => ⟨.loc p.1.id, p.1.tag, p.1.core, lastOnly (destBytes (s.dstRows c p.2) h.len)⟩
  let base := if c.global then c.dstAddr else ((ds.head?).map Prod.snd).getD 0
  let skipped := c.mc && decide (ds.length < popcount c.mcmask 16)
  s.setCmd { c with
    phase := .running, rowsAt := s.srcRows c, destAt := s.dstRows c base, key := if c.decrypt then key else 0,
    chain0 := if c.chain then (s.chainFrom c).getD 0 else c.sumInit, frames, dests, dropt := skipped, walkRes := []
    shifts := msets 16 [] ((if c.dsp = 0 then frames else []).map fun (p : Nat × Nat) => (p.1, s.engineShift c (p.1 * 2 ^ 16))) }.openWindow

/-- COPY_BEGIN (R117, R128, R129). -/
def execCopyBegin (c : Nat) (s : State) : Host.Outcome State Fault Refusal :=
  match s.cmd? c with
  | none => .next s
  | some x =>
    let before := s.earlierCmds x
    if x.phase ≠ .taken ∨ (before.any fun y => decide (y.phase = .taken)) ∨ ((x.fnc || x.chain) = true ∧ before ≠ []) then .next s
    else
      let e := s.cmdReject x
      if e ≠ 0 then .next (s.setCmd (x.finish 1 e))
      else if !x.global then .next (s.startCmd x [])
      else
        let h := s.cmdShape x
        match s.xlDest x ((s.dstRows x x.dstAddr).flatMap fun a => frameParts a h.len) [] with
        | (.wait, s) => .next s
        | (.fault e va, s) => .next (s.setCmd { x.finish 2 e with fault := some va })
        | (.ok m, s) =>
          let parts := (s.dstRows x x.dstAddr).flatMap fun a => frameParts a h.len
          if parts.any fun p => s.meetsCode (frameOf m p.1) p.2 || decide (paSpace (frameOf m p.1) = some .dev) then .next (s.setCmd (x.finish 1 5))
          else .next (s.startCmd x m)

/-! ### Ownership (R130, R131, R156) -/

/-- A write of the die to a line homed elsewhere is still on its way (R154). -/
def State.lineTransit (s : State) (d line : Nat) : Bool := s.inTransit d { pa := 128 * line }

/-- OWN: the lines of the window in ascending order (R156). Requests that a fill of the line holds came first (R131), and so do those of a commit
of the address-range table (R15; log 57). -/
def execOwn (c line : Nat) (s : State) : Host.Outcome State Fault Refusal :=
  match s.cmd? c with
  | none => .next s
  | some x =>
    let l := (s.l2? line).getD (L2Line.empty line)
    if x.toOwn.head? ≠ some line ∨ l.owner.isSome ∨ l.filling ∨ !l.waiting.isEmpty ∨ s.homeMoves (128 * line) then .next s
    else
      let s := (s.setL2 { l with owner := some c }).discardOwn x.core line
      .next (s.setCmd { x with toOwn := x.toOwn.drop 1, owned := x.owned ++ [line] })

def State.disown (s : State) (c line : Nat) : State :=
  match s.l2? line with
  | some l => if l.owner = some c then s.setL2 { l with owner := none } else s
  | none => s

/-- RELEASE_LINE: the line is finished, or the command ended early. -/
def execReleaseLine (c line : Nat) (s : State) : Host.Outcome State Fault Refusal :=
  match s.cmd? c with
  | none => .next s
  | some x =>
    let open_ : Bool := match x.dests with | d :: _ => d.todo.any fun p => decide (lineOf p.1 = line) | [] => false
    if line ∉ x.owned ∨ open_ then .next s
    else .next ((s.disown c line).setCmd { x with owned := x.owned.filter (· ≠ line) }.nextWindow)

/-! ### The bucket (R91, R92) -/

def State.engineCfg (s : State) (c : Cmd) : DWord := s.reg (tbcfgOff (dieOf c.core) (s.cmdLaunch c).tenant)
def State.engineKey (s : State) (c : Cmd) : Nat := 16 * c.core + (s.cmdLaunch c).tenant
def State.engineCharged (s : State) (c : Cmd) (a : Access) : Bool := (s.engineCfg c).getLsbD 0 && s.charged (s.engineCfg c) c.core a
/-- Whether the engine may send an access now. -/
def State.engineRoom (s : State) (c : Cmd) (a : Access) : Bool := !s.engineCharged c a || decide (1 ≤ s.bucket (s.engineKey c))
/-- Its charge: 32-byte tokens. -/
def State.engineSpend (s : State) (c : Cmd) (a : Access) : State :=
  if s.engineCharged c a then
    { s with sched := { s.sched with buckets := mset 0 s.sched.buckets (s.engineKey c) (s.bucket (s.engineKey c) - ((a.size + 31) / 32 : Nat)) } }
  else s

/-! ### The source (R132) -/

/-- Sectors of a sector's line, and whether the line has been begun: its charge was taken with its first sector (R91). -/
def Cmd.lineSectors (c : Cmd) (sec : Nat) : List Nat := c.sectors.filter fun x => decide (x / 4 = sec / 4)
def Cmd.lineBegun (c : Cmd) (sec : Nat) : Bool := c.srcDone.any fun x => decide (x / 4 = sec / 4)
/-- A sector's line as the access that is charged. -/
def Cmd.lineAccess (c : Cmd) (sec : Nat) (a : Access) : Access := { a with size := 32 * (c.lineSectors sec).length }
/-- Whether the engine may read a sector: a line once begun is not stopped (R92). -/
def State.sectorRoom (s : State) (c : Cmd) (sec : Nat) (a : Access) : Bool := c.lineBegun sec || s.engineRoom c (c.lineAccess sec a)
def State.sectorSpend (s : State) (c : Cmd) (sec : Nat) (a : Access) : State := if c.lineBegun sec then s else s.engineSpend c (c.lineAccess sec a)

/-- Every source sector has been read. -/
def Cmd.allRead (c : Cmd) : Bool := c.sectors.all fun x => decide (x ∈ c.srcDone)

/-- The source rows as far as they have been read. -/
def Cmd.srcStream (c : Cmd) : List (List TByte) :=
  (enum c.rowsAt).map fun (r, a) => (List.range c.rowLen).map fun i =>
    let o := r * c.rowLen + i
    (mget 0 c.src o, if (a + i) / 32 ∉ c.srcDone then 2 else if o ∈ c.srcPois then 1 else 0)
/-- Destination stream with the counts. -/
def State.cmdOut (s : State) (c : Cmd) : List TByte × Counts :=
  let (rows, k) := c.run (s.fssOf c) (s.fsdOf c) c.srcStream
  (rows.flatten, k)

/-- A sector read: the values of its good bytes, and the stream offsets of its poisoned ones with the address that is recorded (R132). -/
def Cmd.mixSector (c : Cmd) (sec : Nat) (vals : List (Nat × Byte)) (bad : List Nat) (pa : Option Nat) : Cmd :=
  { c with
    src := msets 0 c.src vals, srcDone := c.srcDone ++ [sec], srcPois := c.srcPois ++ bad
    poisAt := match c.poisAt, pa with | some p, some q => some (min p q) | none, q => q | p, none => p }
def Cmd.gotSector (c : Cmd) (sec : Nat) (vals : List (Nat × Byte)) : Cmd := c.mixSector sec vals [] none
def Cmd.poisonSector (c : Cmd) (sec pa : Nat) : Cmd := c.mixSector sec [] ((c.sectorBytes sec).map Prod.snd) (some pa)

def State.updCmd (s : State) (c : Nat) (g : Cmd → Cmd) : State := match s.cmd? c with | some x => s.setCmd (g x) | none => s
/-- A write of the command to `a` whose owner tag no longer matches is dropped and reported (R102, R138). -/
def State.engineDrop (s : State) (c : Cmd) (a : Nat) : State :=
  (s.report 17 (dieOf c.core) c.core (s.launch? c.launch) [c.seq, a] []).updCmd c.id fun x => { x with dropt := true, dropAt := some (x.dropAt.getD a) }

/-- A chunk's bit in each written allocation, or in the issuer's (R137): a release at SCOPE, dropped where the owner tag has changed. -/
def State.setChunk (s : State) (c : Cmd) (i : Nat) : State :=
  let off := c.cbOff + 4 * (i / 32)
  let (id, s) := s.fresh
  let s := s.noteRelease id c.scope c.wg c.core []
  let put (s : State) (w : Workgroup) : State := s.locPut w.id off (leBytes 4 (w.word off ||| 2 ^ (i % 32))) id true
  let s :=
    if c.global then put s (s.issuer c)
    else c.dests.foldl (fun (s : State) (d : CDest) =>
      match d.space with
      | .loc g => (match s.tagged g d.core d.tag with | some w => put s w | none => s.engineDrop c off)
      | _ => s) s
  s.updCmd c.id fun x => { x with chunks := x.chunks ++ [i] }

/-- Whether every byte of a chunk has been performed. -/
def Cmd.chunkDone (c : Cmd) (i : Nat) : Bool := c.dests.all fun d => d.todo.all fun p => decide (p.2 / 512 ≠ i)

/-- A source fault ends the command; chunks complete by then have their bits (R129, R135). -/
def State.srcFault (s : State) (c : Cmd) (cause va : Nat) : State :=
  let done := if c.cbm then (List.range (chunkCount (s.cmdShape c))).filter fun i => c.chunkDone i && decide (i ∉ c.chunks) else []
  let s := done.foldl (fun s i => s.setChunk c i) s
  match s.cmd? c.id with
  | some x => s.setCmd { x.finish 2 (128 + cause) with fault := some va }
  | none => s

/-- A sector of a view: decoded elements under the block lock (Table 02-13). The elements of a poisoned block are poisoned, and the others read
(R132). -/
def State.viewSector (s : State) (c : Cmd) (sec asid n : Nat) : State :=
  let z := s.zr asid n
  let bs := (c.sectorBytes sec).map fun p => (p.1 - z.vbase, p.2)
  let blkOf (b : Nat × Nat) : Nat := (z.place (b.1 / z.esize)).1
  let blks := dedup (bs.map blkOf)
  let a : Access := { space := .view asid n, pa := (bs.headD (0, 0)).1, size := 32 }
  if z.err = 15 ∨ (blks.any fun b => s.homeMoves (s.remap (z.codeAt b))) ∨ s.sectorRoom c sec a = false then s
  else
    let absent := blks.filter fun b => (s.block? asid n b).isNone
    if !absent.isEmpty then
      absent.foldl (fun s blk => s.putBlock { asid, zr := n, blk, st := .fill, elems := [], wids := [], pois := none, stored := [], bound := 0, waiting := [], todo := [] }) s
    else if !(blks.all fun b => match s.block? asid n b with | some b => b.isDecoded | none => false) then s
    else
      let poisOf (b : Nat × Nat) : Option Nat := (s.block? asid n (blkOf b)).bind Block.pois
      let vals := (bs.filter fun b => (poisOf b).isNone).map fun b =>
        (b.2, BitVec.ofNat 8 (s.elemIn asid n (z.place (b.1 / z.esize)) / 2 ^ (8 * (b.1 % z.esize))))
      let bad := bs.filter fun b => (poisOf b).isSome
      let pa := match bad.filterMap poisOf with | p :: r => some (r.foldl min p) | [] => none
      (s.sectorSpend c sec a).setCmd (c.mixSector sec vals (bad.map Prod.snd) pa)

/-- A current far-line copy that serves a source sector: for SCOPE up to die the point of coherence is the die view (R141, R87; log 79). -/
def State.engineFar (s : State) (c : Cmd) (pa : Nat) : Option LineCopy :=
  if 4 ≤ c.scope ∨ s.homeDie pa = dieOf c.core then none
  else (s.farCopy (dieOf c.core) (lineOf pa)).bind fun k => if k.has (pa % 128) 32 then some k else none

/-- A sector read at its home, in room of `c.sectorBytes`. -/
def State.homeSector (s : State) (c : Cmd) (sec pa : Nat) : State :=
  if s.secPoisoned (pa / 32) then s.setCmd (c.poisonSector sec pa)
  else
    let s := if c.scope < 4 ∧ s.homeDie pa ≠ dieOf c.core ∧ s.flways (dieOf c.core) ≠ 0 then s.fillFar c.core (lineOf pa) (s.fgen (dieOf c.core)) false else s
    s.setCmd (c.gotSector sec ((c.sectorBytes sec).map fun p => (p.2, s.homeByte (pa + p.1 % 32))))

/-- A sector at a physical address; `sec` numbers it in the source's own space. -/
def State.physSector (s : State) (c : Cmd) (sec pa va : Nat) : State :=
  let line := lineOf pa
  let pa := pa / 32 * 32
  let sp := (paSpace pa).getD .dev
  let a : Access := { space := sp, pa, size := 32 }
  match sp with
  | .dev => s.srcFault c 2 va
  | .tier =>
    if s.homeMoves pa ∨ s.sectorRoom c sec a = false then s
    else match s.engineFar c pa with
      | some k => (s.sectorSpend c sec a).setCmd (c.gotSector sec ((c.sectorBytes sec).map fun p => (p.2, mget blankByte k.bytes (pa % 128 + p.1 % 32))))
      | none =>
        let owner := match s.l2? line with | some l => l.owner | none => none
        if (owner.isSome ∧ owner ≠ some c.id) ∨ (owner = none ∧ s.lineTransit (dieOf c.core) line) then s
        else if s.unfilled line (secMask (pa % 128) 32) then s.startFill line
        else (s.sectorSpend c sec a).homeSector c sec pa
  | sp =>
    if decide (sp = .host) && s.atsWait (fld (s.reg (qOff (s.cmdLaunch c).queue + 32)) 0 5) pa then s
    else match s.failPort pa with
    | some p => (s.report 13 (dieOf c.core) c.core (s.launch? c.launch) [pa, p, 1] []).setCmd (c.poisonSector sec pa)
    | none =>
      if s.sectorRoom c sec a = false then s
      else (s.sectorSpend c sec a).setCmd (c.gotSector sec ((c.sectorBytes sec).map fun p => (p.2, s.homeByte (pa + p.1 % 32))))

/-- COPY_SOURCE_READ: one sector, once the window's lines are owned. -/
def execCopySourceRead (c sector : Nat) (s : State) : Host.Outcome State Fault Refusal :=
  match s.cmd? c with
  | none => .next s
  | some x =>
    match x.sectorBytes sector with
    | [] => .next s
    | (va, _) :: r =>
      let va := r.foldl (fun m p => min m p.1) va
      if x.phase ≠ .running ∨ sector ∈ x.srcDone ∨ x.toOwn ≠ [] then .next s
      else match x.ssp with
      | 1 =>
        let (k, s) := s.free
        let vals := (x.sectorBytes sector).map fun p =>
          (p.2, match s.localSrc x with | some (w, _) => cellGet w.mem p.1 | none => BitVec.ofNat 8 (k / 2 ^ (8 * (p.1 % 32))))
        .next (s.setCmd (x.gotSector sector vals))
      | 2 =>
        if s.onHold va then (if x.usesFrame (va / 2 ^ 16) then .next (s.physSector x sector va va) else .next s)
        else .next (s.physSector x sector (s.remap va) va)
      | _ =>
        let asid := (s.cmdLaunch x).asid
        match s.zrAt asid va with
        | some n => .next (s.viewSector x sector asid n)
        | none =>
          match x.srcFrames.find? fun p => decide (p.1 = va / 2 ^ 16) with
          | some (_, fr) => .next (s.physSector x sector (fr * 2 ^ 16 + va % 2 ^ 16) va)
          | none =>
            match s.engineXl x .rd va with
            | (.wait, s) => .next s
            | (.fault e, s) => .next (s.srcFault x e va)
            | (.ok pa, s) =>
              .next (s.physSector { x with
                srcFrames := x.srcFrames ++ [(va / 2 ^ 16, pa / 2 ^ 16)], shifts := mset 16 x.shifts (va / 2 ^ 16) (s.engineShift x va)
                walkRes := x.walkRes.filter fun r => decide (r.frame ≠ va / 2 ^ 16) } sector pa va)

/-! ### Writes (R132 to R134, R156) -/

/-- Values of bytes still to be written, as (address, byte), without those computed from poison; none while one is not known. -/
def State.ready (s : State) (c : Cmd) (bs : List (Nat × Nat)) : Option (List (Nat × Byte)) :=
  let out := (s.cmdOut c).1
  let vs := bs.map fun p => (p.1, out.getD p.2 (0, 2))
  if (vs.any fun v => decide (v.2.2 = 2)) || (s.localOverlap c && !c.allRead) then none
  else some ((vs.filter fun v => decide (v.2.2 = 0)).map fun v => (v.1, v.2.1))

/-- Bytes of one line applied at their home, as one write under the poison rule of R8. -/
def State.engineWrite (s : State) (line : Nat) (bs : List (Nat × Byte)) : State :=
  let (id, s) := s.fresh
  let s := (dedup (bs.map fun b => b.1 / 32)).foldl (fun (s : State) sec =>
    s.coverSector sec (if (bs.filter fun b => decide (b.1 / 32 = sec)).length = 32 then .whole else .part)) s
  (bs.foldl (fun s b => s.homePut id b.1 b.2) s).noteWrite line id false

/-- The active window without a line. -/
def Cmd.wroteLine (c : Cmd) (line : Nat) : Cmd :=
  match c.dests with
  | d :: r => { c with dests := { d with todo := d.todo.filter fun p => decide (lineOf p.1 ≠ line) } :: r }.nextWindow
  | [] => c

/-- A line of a global destination. -/
def State.writeGlobal (s : State) (c : Cmd) (line : Nat) : State :=
  match c.dests with
  | [] => s
  | d :: _ =>
    let bs := d.todo.filter fun p => decide (lineOf p.1 = line)
    let pa := 128 * line
    let sp := (paSpace pa).getD .tier
    let a : Access := { space := sp, pa, size := bs.length }
    if bs.isEmpty ∨ c.toOwn ≠ [] ∨ (sp = .tier ∧ line ∉ c.owned) then s
    else match s.ready c bs with
    | none => s
    | some vs =>
      if decide (sp = .host) && s.atsWait (fld (s.reg (qOff (s.cmdLaunch c).queue + 32)) 0 5) pa then s
      else match s.failPort pa with
      | some p => (s.report 13 (dieOf c.core) c.core (s.launch? c.launch) [pa, p, 2] []).setCmd (c.wroteLine line)
      | none =>
        if (sp = .tier ∧ s.homeMoves pa) ∨ s.engineRoom c a = false then s
        else if sp = .tier ∧ vs ≠ [] ∧ vs.length < 128 ∧ s.unfilled line (vs.foldl (fun m b => m ||| secMask (b.1 % 128) 1) 0) then s.startFill line
        else ((s.engineSpend c a).engineWrite line vs).setCmd (c.wroteLine line)

/-- Runs of bytes at rising addresses. -/
def runsOf : List (Nat × Byte) → List (Nat × List Byte)
  | [] => []
  | (a, b) :: r =>
    match runsOf r with
    | (a', bs) :: rest => if a + 1 = a' then (a, b :: bs) :: rest else (a, [b]) :: (a', bs) :: rest
    | [] => [(a, [b])]

/-- A line of a local destination: `line` is 4096 times the target's place in the command, plus the line in its allocation (R102, R138). -/
def State.writeLocal (s : State) (c : Cmd) (line : Nat) : State :=
  let k := line / 4096
  match c.dests[k]? with
  | none => s
  | some d =>
    let bs := d.todo.filter fun p => decide (lineOf p.1 = line % 4096)
    match bs, d.space with
    | (first, _) :: _, .loc g =>
      (match s.ready c bs with
       | none => s
       | some vs =>
        let c' := { c with dests := (enum c.dests).map fun (i, x) =>
          if i = k then { x with todo := x.todo.filter fun p => decide (lineOf p.1 ≠ line % 4096) } else x }
        match s.tagged g d.core d.tag with
        | some w =>
          let (id, s) := s.fresh
          ((runsOf (sortBy Prod.fst vs)).foldl (fun s r => s.localWrite w r.1 r.2 id false) s).setCmd c'
        | none => (s.setCmd c').engineDrop c' first)
    | _, _ => s

/-- WRITE_LINE. -/
def execWriteLine (c line : Nat) (s : State) : Host.Outcome State Fault Refusal :=
  match s.cmd? c with
  | none => .next s
  | some x => if x.phase ≠ .running then .next s else .next (if x.global then s.writeGlobal x line else s.writeLocal x line)

/-- COPY_CHUNK_SET (R137). -/
def execCopyChunkSet (c i : Nat) (s : State) : Host.Outcome State Fault Refusal :=
  match s.cmd? c with
  | none => .next s
  | some x =>
    if x.phase ≠ .running ∨ x.cbm = false ∨ chunkCount (s.cmdShape x) ≤ i ∨ i ∈ x.chunks ∨ x.chunkDone i = false then .next s
    else .next (s.setChunk x i)

/-! ### Completion (R126, R127, R135, R136, R158) -/

/-- Destination bytes read back in row order (R126). -/
def State.readBack (s : State) (c : Cmd) (k : Nat) : List Byte :=
  let g := ((s.localDests c).head?).map Prod.fst
  (destBytes c.destAt (s.cmdShape c).len).map fun p =>
    if c.global then s.homeByte (frameOf c.frames p.1)
    else match g with | some w => cellGet w.mem p.1 | none => BitVec.ofNat 8 (k / 2 ^ (8 * (p.2 % 32)))

/-- PART and RUN as registers; the manual gives neither without a checksum of the whole stream, so that they are free there. -/
def State.sums (s : State) (c : Cmd) : (Nat × Nat) × State :=
  let (k, s) := s.free
  if c.checksum && decide (c.st = 0) then
    let bytes := if c.ckrb then s.readBack c k else (s.cmdOut c).1.map fun b => if b.2 = 0 then b.1 else 0
    ((c.sumFrom c.sumInit bytes, c.sumFrom c.chain0 bytes), s)
  else ((k % 2 ^ 32, k / 2 ^ 32 % 2 ^ 32), s)

/-- The status record (Tables 06-8 and 06-9). -/
def statusRecord (c : Cmd) (exc ckfail : Bool) (k : Counts) (part run : Nat) : List Byte :=
  let b (x : Bool) (i : Nat) : Nat := if x then 2 ^ i else 0
  let addr := (c.fault.or (c.poisAt.or c.dropAt)).getD 0
  leBytes 8 (c.st + c.cause * 2 ^ 8 + b ckfail 18 + b c.poisAt.isSome 19 + b c.dropt 20 + b exc 21 + c.seq * 2 ^ 32)
  ++ leBytes 8 (k.sat + k.ftz * 2 ^ 24 + k.nan * 2 ^ 44) ++ leBytes 8 (part + run * 2 ^ 32) ++ leBytes 8 (addr % 2 ^ 48)

/-- Semaphores that the completion adds to. -/
def State.cmdSems (s : State) (c : Cmd) : List (Workgroup × Nat) :=
  if c.mc then
    let n := c.semId % 256
    let ws := if c.st = 1 then s.targets c else c.dests.filterMap fun d => match d.space with
      | .loc g => (s.wg? g).bind fun w => if w.tag = d.tag then some w else none
      | _ => none
    (ws.filter fun w => decide (n < w.nsem)).map fun w => (w, n)
  else (s.semRef (s.engine c) c.semId).toList.filter fun p => decide (p.2 < p.1.nsem)

/-- Steps 3 to 5 of R135. -/
def State.endCmd (s : State) (c : Cmd) : State :=
  let r := (s.cmdLaunch c).recd
  let k0 : Counts := if c.st = 1 then {} else (s.cmdOut c).2
  let k : Counts := ⟨min k0.sat (2 ^ 24 - 1), min k0.ftz (2 ^ 20 - 1), min k0.nan (2 ^ 20 - 1)⟩
  let ((pr, rr), s) := s.sums c
  let exc := decide (recCthr r < k.sat + k.ftz + k.nan)
  let whole := c.checksum && decide (c.st = 0)
  let part := if whole then c.sumOut pr else pr
  let run := if whole then c.sumOut rr else rr
  let ckfail := c.cmp && decide (run ≠ c.ckexp)
  let slot := recCring r + 32 * (c.seq % max 1 (recCrlen r))
  let s := (s.locPut c.wg slot (statusRecord c exc ckfail k part run) 0 false).updWg c.wg fun w => w.settleSlot slot
  let newer := match (s.issuer c).lastSum with | some (i, _) => decide ((c.seq + 2 ^ 32 - i) % 2 ^ 32 < 2 ^ 31) | none => true
  let s := s.updWg c.wg fun w => { w with
    cmdsDone := (w.cmdsDone + 1) % 2 ^ 32
    errs := if c.st = 0 then w.errs else min 255 (w.errs + 1)
    lastSum := if newer then some (c.seq, if whole then some (c.sum, rr) else none) else w.lastSum }
  let s := s.locPut c.wg (recCnotify r + 8) (leBytes 4 (s.issuer c).cmdsDone) 0 false
  let s := s.updWg c.wg fun w => w.putErrs r
  let lines := if c.global then dedup ((destBytes c.destAt (s.cmdShape c).len).map fun p => lineOf (frameOf c.frames p.1)) else []
  let sems := s.cmdSems c
  let s := sems.foldl (fun (s : State) (p : Workgroup × Nat) => lines.foldl (fun s l => s.dropL1 p.1.core l) s) s
  let s := sems.foldl (fun (s : State) (p : Workgroup × Nat) =>
    s.semStep p.1.id p.2 fun m => { m with val := m.val + 1, mark := if exc then some c.seq else m.mark, last := [] }) s
  { s with cmds := s.cmds.filter fun x => decide (x.id ≠ c.id) }

/-- COPY_COMPLETE: every byte is performed and every line released. -/
def execCopyComplete (c : Nat) (s : State) : Host.Outcome State Fault Refusal :=
  match s.cmd? c with
  | none => .next s
  | some x =>
    if x.owned ≠ [] ∨ x.phase = .taken then .next s
    else if x.phase = .finishing then .next (s.endCmd x)
    else if x.toOwn ≠ [] ∨ x.allRead = false ∨ (x.dests.any fun d => !d.todo.isEmpty) then .next s
    else
      let bits := if x.cbm then (List.range (chunkCount (s.cmdShape x))).filter fun i => decide (i ∉ x.chunks) else []
      let s := bits.foldl (fun s i => s.setChunk x i) s
      match s.cmd? c with
      | some y => .next (s.endCmd y)
      | none => .next s

/-! ### Key slots (R439, R440) -/

/-- Whether a command has taken a key slot and has not completed: it runs, or has faulted (R439). -/
def Cmd.holdsKey (c : Cmd) (slot : Nat) : Bool :=
  c.decrypt && decide (c.keySlot = slot) && (decide (c.phase = .running) || (decide (c.phase = .finishing) && decide (c.st = 2)))
/-- KEY_SLOT_LOAD: once no command that took the slot is in progress; none is loaded in Halt (R439, R440). -/
def execKeySlotLoad (slot tenant : Nat) (key : BitVec 256) (s : State) : Host.Outcome State Fault Refusal :=
  if s.dev.dbg = 2 ∨ (s.cmds.any fun c => c.holdsKey slot) then .next s
  else .next { s with dev := { s.dev with keys := s.dev.keys.filter (fun k => decide (k.slot ≠ slot)) ++ [⟨slot, tenant, key⟩] } }

end Sys2Proof.Machine
end

