-- ==== Sys2Proof/Machine/Trap.lean ====
section
/-! DEFINITION. What follows a trap (R399 to R406, R411): a handler run, or the firmware default; refusals (R412); the watchdog (R428); and the
debug port (R424 to R426). -/

namespace Sys2Proof.Machine

/-! ### Handler runs (R399 to R403) -/

def State.qtrap (s : State) (f : Flight) : DWord := s.reg (qOff (s.launchOf f).queue + 24)
/-- Clock of a trap that waits for its run. -/
def Flight.raisedAt (f : Flight) : Option Nat := match f.trap with | some t => (match t.phase with | .raised => some t.order | _ => none) | none => none
/-- A handler run in progress. -/
def Flight.isRun (f : Flight) : Bool := f.isHandler && !f.isEnded
/-- A raised trap whose pair has the other flight's frame to be seen first (R419). -/
def State.behindLeader (s : State) (f : Flight) : Bool := f.isShadow && (match s.partner f with | some g => g.trap.isSome | none => false)

/-- Whether a flight's run may start: no run of its workgroup or in its partition's bank, and it is first of its workgroup. -/
def State.runReady (s : State) (f : Flight) : Bool :=
  match f.raisedAt with
  | none => false
  | some n =>
    !s.behindLeader f && (s.qtrap f).getLsbD 0 && !f.isEvicted
    && (s.flights.all fun h => !(h.isRun && (decide (h.wg = f.wg) || (decide (h.core = f.core) && decide (h.part = f.part)))))
    && s.flights.all fun g => decide (g.wg ≠ f.wg) || decide (g.id = f.id) || s.behindLeader g
        || (match g.raisedAt with | some m => decide (n < m) || (decide (n = m) && decide (f.fidx ≤ g.fidx)) | none => true)

/-- The order in which runs of one partition start: by the clock of their traps, then the launch's priority, then the time their flights became resident, which
their handles keep (R403, log 1). -/
def State.runKey (s : State) (f : Flight) (t : TrapRec) : Nat := (t.order * 8 + (7 - recPrio (s.recOf f))) * (s.nextId + 1) + min f.id s.nextId

/-- The flight of a handler run (R400). -/
def runFlight (f : Flight) (id entry : Nat) (frame : List DWord) (clock : Nat) : Flight :=
  { id, kind := .handler f.id, launch := f.launch, wg := f.wg, fidx := f.fidx, core := f.core, part := f.part, nVregs := 16, nTiles := 0
    priv := true, chkAll := true, s := msets 0 [] (enum frame), pc := entry, place := .active clock
    region := { start := entry, exm := BitVec.allOnes 64, depth := 0, valid := true } }

/-- HANDLER_RUN_START (R400, R403): the first run of those that may start in the partition. -/
def execHandlerRunStart (f : Nat) (s : State) : Host.Outcome State Fault Refusal :=
  match s.flight? f with
  | none => .next s
  | some x =>
    match x.trap with
    | none => .next s
    | some t =>
      if s.runReady x = false ∨ s.flights.any (fun g => decide (g.core = x.core) && decide (g.part = x.part) && s.runReady g
          && (match g.trap with | some u => decide (s.runKey g u < s.runKey x t) | none => false)) then .next s
      else
        let h := s.nextId
        let run (g : Flight) : Flight := match g.raisedAt, g.trap with | some _, some u => { g with trap := some { u with phase := .running h } } | _, _ => g
        let mine (g : Flight) : Bool := decide (g.id = x.id) || (match s.partner x with | some p => decide (g.id = p.id) | none => false)
        .next { s with
          nextId := h + 1
          flights := s.flights.map (fun g => if mine g then run g else g) ++ [runFlight x h (fld (s.qtrap x) 2 46 * 4) t.frame s.clock] }

/-! ### The default handler (Table 17-4, R411) -/

/-- Whether the default for a code ends the launch. -/
def defaultEnds (code : Nat) : Bool := !decide (code ∈ [0x08, 0x18, 0x1A, 0x21, 0x22, 0x31])

/-- The frame's trap acted on. -/
def State.defaultAct (s : State) (f : Flight) (frame : List DWord) : State :=
  let w0 := frame.getD 0 0
  let code := fld w0 0 8
  let resume (s : State) : State := match s.flight? f.id with | some x => if x.isEnded then s.setFlight { x with trap := none } else s.resumeFlight f.id 0 0 | none => s
  if defaultEnds code then
    let s := if code = 0x19 then s.reportFlight f 15 [] frame else s
    s.endLaunch f.launch 1 frame
  else if code = 0x18 then
    let m := frame.getD 5 0
    /- The report is issued even where every lane is dead already (R411). -/
    resume (if m &&& ~~~f.dead = 0 then s.reportFlight f 5 [0, f.dead.toNat, f.fidx] frame else s.killLanesOf f.id m frame)
  else if code = 0x08 then resume ((s.updFlight f.id fun x => { x with fmode := setFld x.fmode 8 1 0 }).reportFlight f 6 [3] frame)
  else if code = 0x31 then resume (s.reportFlight f 9 [fld w0 40 8, (frame.getD 7 0).toNat] frame)
  else resume (s.reportFlight f 6 [2] frame)

/-- DEFAULT_HANDLER_ACTION (R399, R405). -/
def execDefaultHandlerAction (f : Nat) (s : State) : Host.Outcome State Fault Refusal :=
  match s.flight? f with
  | none => .next s
  | some x =>
    match x.raisedAt, x.trap with
    | some _, some t => if (s.qtrap x).getLsbD 0 ∨ x.isEvicted then .next s else .next (s.defaultAct x t.frame)
    | _, _ => .next s

/-! ### Refusals and the watchdog -/

/-- POISON_REFUSAL (R412): the flight stands at an instruction boundary, and the trap is taken there. -/
def execPoisonRefusal (f : Nat) (s : State) : Host.Outcome State Fault Refusal :=
  match s.flight? f with
  | none => .next s
  | some x =>
    match refusalTrap x with
    | some t => if s.isHeld x || x.isEnded || x.isEvicted then .next s else .next ((s.setFlight x.takeRefusals).raiseTrap f t)
    | none => .next s

def wdcfgOff : Nat := 0x108
/-- WATCHDOG_EXPIRY (R428): trap 0x31; a resumed wait is counted afresh. -/
def execWatchdogExpiry (f : Nat) (s : State) : Host.Outcome State Fault Refusal :=
  match s.flight? f with
  | none => .next s
  | some x =>
    match x.wait with
    | none => .next s
    | some w =>
      let on := decide (w.kind = 7) || !s.waitOver x
      if (s.reg wdcfgOff).getLsbD 0 = false ∨ on = false ∨ s.isHeld x ∨ x.isEnded ∨ x.isEvicted ∨ s.clock < w.since + 2 ^ fld (s.reg wdcfgOff) 2 6 then .next s
      else
        let s := s.setFlight { x with wait := some { w with since := s.clock } }
        .next (s.raiseTrap f { code := 0x31, cause := w.kind, mask := allOnes, aux := s.clock - w.since })

/-! ### The debug port (R424 to R426) -/

/-- The port may act in Halt. -/
def State.halt (s : State) : Bool := decide (s.dev.dbg = 2)
def Flight.isStopped (f : Flight) : Bool := match f.port with | .stopped => true | _ => false
def Flight.isAsked (f : Flight) : Bool := match f.port with | .asked => true | _ => false

/-- DEBUG_STOP. -/
def execDebugStop (f : Nat) (s : State) : Host.Outcome State Fault Refusal :=
  match s.flight? f with
  | some x => if s.halt ∧ x.port = .free ∧ x.isEnded = false then .next (s.setFlight { x with port := .asked }) else .next s
  | none => .next s

/-- DEBUG_STOP_COMPLETE: the queue is empty, results have landed, fixed-latency results are delivered. -/
def execDebugStopComplete (f : Nat) (s : State) : Host.Outcome State Fault Refusal :=
  match s.flight? f with
  | none => .next s
  | some x =>
    if x.isAsked && x.mayStop s.clock then
      .next (s.setFlight { x.leaveActive with port := .stopped })
    else .next s

def State.answered (s : State) (st : Nat) (bytes : List Byte) : State := { s with dev := { s.dev with answer := (st, bytes) } }

/-- DEBUG_READ. -/
def execDebugRead (f : Nat) (sel : BitVec 64) (s : State) : Host.Outcome State Fault Refusal :=
  match s.flight? f with
  | some x => if s.halt && x.isStopped && selOk x sel then .next (s.answered 0 (leBytes 8 (selRead x sel).toNat)) else .next (s.answered 1 [])
  | none => .next (s.answered 1 [])

/-- DEBUG_WRITE (R181). -/
def execDebugWrite (f : Nat) (sel v : BitVec 64) (s : State) : Host.Outcome State Fault Refusal :=
  match s.flight? f with
  | some x =>
    if s.halt && x.isStopped && selOk x sel && selWritable sel && selValueOk sel v then .next ((s.selWrite x sel v).answered 0 []) else .next (s.answered 1 [])
  | none => .next (s.answered 1 [])

/-- DEBUG_RESUME: a trap that holds the flight as well goes on holding it (R425). -/
def execDebugResume (f mode : Nat) (pc : BitVec 64) (s : State) : Host.Outcome State Fault Refusal :=
  match s.flight? f with
  | none => .next s
  | some x =>
    if s.halt = false ∨ x.isStopped = false ∨ 2 < mode ∨ (mode = 1 ∧ x.region.valid = false) then .next s
    else
      let y := if mode = 0 then x else { x with trap := none }.resume mode pc.toNat
      .next (s.setFlight { y with trap := x.trap, port := .free })

/-- DEBUG_SET_STEP (R426). -/
def execDebugSetStep (f : Nat) (on : Bool) (s : State) : Host.Outcome State Fault Refusal :=
  if s.halt then .next (s.updFlight f fun x => { x with step := on }) else .next s

end Sys2Proof.Machine
end

