-- ==== Sys2Proof/Machine/Ports.lean ====
section
/-! DEFINITION. What reaches the device from outside: host accesses through the BARs (R430 to R432, R445), ATS (R433), Talfen links and inbound
peer accesses (R434, R435); dies that are reset (R67), parked (R442); idleness, wake (R441, R442) and telemetry (R443). -/

namespace Sys2Proof.Machine

/-! ### Accesses at their homes from outside -/

/-- Whether every line of a tier range can be accessed at its home now: no copy of its frame, no commit that moves it, no engine's
ownership (R70, R15, R157). -/
def State.homesOpen (s : State) (pa n : Nat) : Bool :=
  !s.asleep && (List.range ((pa + n - 1) / 128 - pa / 128 + 1)).all fun i =>
    let q := s.remap ((pa / 128 + i) * 128)
    !s.onHold ((pa / 128 + i) * 128) && !s.homeMoves q && (match s.l2? (lineOf q) with | some x => x.owner.isNone | none => true)

/-- Bytes read at their homes after remapping. -/
def State.outerRead (s : State) (pa n : Nat) : List Byte := (List.range n).map fun i => s.homeByte (s.remap (pa + i))
/-- Whether one of them is poisoned. -/
def State.outerPoison (s : State) (pa n : Nat) : Bool := (sectorsOf pa n).any fun c => s.secPoisoned (s.remap (c.1 * 32) / 32)

/-- Bytes written at their homes after remapping as write `w`, line by line; `k` is at least the number of lines. -/
def State.outerLines (w : Nat) : Nat → Nat → List Byte → State → State
  | 0, _, _, s => s
  | k + 1, pa, bytes, s =>
    let m := 128 - pa % 128
    State.outerLines w k (pa + m) (bytes.drop m) ((s.homeWrite w (s.remap pa) (bytes.take m)).noteWrite (lineOf (s.remap pa)) w false)
/-- A write from outside under a fresh number, in the order of its lines (R154). -/
def State.outerWrite (s : State) (k pa : Nat) (bytes : List Byte) : State :=
  State.outerLines s.nextId k pa bytes { s with nextId := s.nextId + 1 }

/-! ### BARs -/

def State.bootOk (s : State) : Bool := (s.reg 0).getLsbD 0
/-- Sizes that a device register is accessed with (R445). -/
def regAccessOk (off n : Nat) : Bool := (decide (n = 4) || decide (n = 8)) && decide (off % n = 0)
/-- The queue whose page an offset of a VF's BAR0 lies in (R431). -/
def State.pageQueue (s : State) (fn off : Nat) : Option Nat :=
  ((List.range 256).filter fun q => decide (fld (s.reg (qOff q + 32)) 0 5 = fn))[off / 256]?

/-- What an offset of a BAR names (Table 18-2). -/
inductive BarPlace where
  | unsupported
  /-- PF BAR0. -/
  | reg (off : Nat)
  /-- A VF's BAR0: a queue's page and the offset in it, or no page. -/
  | page (q : Option Nat) (off : Nat)
  | mem (pa : Nat)
  deriving DecidableEq, Repr

def State.barPlace (s : State) (fn barNo off n : Nat) : BarPlace :=
  if n = 0 ∨ 31 < fn then .unsupported
  else if fn = 0 ∧ barNo = 0 then
    if off + n ≤ 2 ^ 26 ∧ regAccessOk off n = true ∧ (s.bootOk = true ∨ off < 0x18) then .reg off else .unsupported
  else if s.bootOk = false then .unsupported
  else if fn = 0 ∧ barNo = 2 then if off + n ≤ 2 ^ 38 then .mem off else .unsupported
  else if fn = 0 ∧ barNo = 4 then if off + n ≤ 2 ^ 40 then .mem (0x10000000000 + off) else .unsupported
  else if 0 < fn ∧ barNo = 0 ∧ off + n ≤ 2 ^ 16 ∧ regAccessOk off n = true then .page (s.pageQueue fn off) (off % 256)
  else .unsupported

/-- A queue page read: HEAD at 8 and QSTAT at 16. -/
def State.pageRead (s : State) (q : Option Nat) (off n : Nat) : Nat :=
  match q with
  | none => 0
  | some q =>
    if off = 8 then fld (s.reg (qOff q + 8)) 0 32
    else if off / 8 = 2 then s.devRead (qOff q + off) n else 0

/-- One posted write of a function applied, if it can be now (R432). Device registers lie from PA 0xF000_0000_0000. -/
def State.hostApply (s : State) (w : HostWr) : Option State :=
  if regOff ≤ w.pa then some (s.devWrite (w.pa - regOff) w.bytes.length (ofLe w.bytes))
  else if s.homesOpen w.pa w.bytes.length then some (s.outerWrite (w.bytes.length / 128 + 2) w.pa w.bytes)
  else none

/-- Posted writes applied in each function's order (R445); what has to wait holds back what its function sent later. -/
def hostDrain (s : State) (kept : List HostWr) : List HostWr → State × List HostWr
  | [] => (s, kept)
  | w :: r =>
    if kept.any fun x => decide (x.fn = w.fn) then hostDrain s (kept ++ [w]) r
    else match s.hostApply w with
      | some t => hostDrain t kept r
      | none => hostDrain s (kept ++ [w]) r
def State.applyPosted (s : State) : State :=
  let (t, kept) := hostDrain s [] s.mem.hostPosted
  { t with mem := { t.mem with hostPosted := kept } }

/-- HOST_READ (R432): answered only once what the function posted before has been applied. -/
def execHostRead (fn barNo off n : Nat) (s : State) : Host.Outcome State Fault Refusal :=
  let s := s.applyPosted
  if s.mem.hostPosted.any fun w => decide (w.fn = fn) then .next s
  else match s.barPlace fn barNo off n with
  | .unsupported => .next (s.answered 1 [])
  | .reg o => .next (s.answered 0 (leBytes n (s.devRead o n)))
  | .page q o => .next (s.answered 0 (leBytes n (s.pageRead q o n)))
  | .mem pa =>
    let k := match tierRoom pa with | some r => min n r | none => 0
    if k = 0 then .next (s.answered 0 (List.replicate n 255))
    else if s.homesOpen pa k = false then .next s
    else if s.outerPoison pa k then .next (s.answered 2 [])
    else .next (s.answered 0 (s.outerRead pa k ++ List.replicate (n - k) 255))

/-- A write of PF BAR0 asks a sleeping module to wake: BUSY says that it does (R442). -/
def State.wakeAsk (s : State) : State := if s.asleep then s.setReg pwrOff (setFld (s.reg pwrOff) 2 1 1) else s

/-- HOST_WRITE (R432): posted, and applied as soon as it can be. -/
def execHostWrite (fn barNo off : Nat) (bytes : List (BitVec 8)) (s : State) : Host.Outcome State Fault Refusal :=
  let post (s : State) (pa : Nat) (b : List Byte) : State := { s with mem := { s.mem with hostPosted := s.mem.hostPosted ++ [⟨fn, pa, b⟩] } }
  let s := s.applyPosted
  match s.barPlace fn barNo off bytes.length with
  | .unsupported => .next (s.answered 1 [])
  | .reg o => .next (post s.wakeAsk (regOff + o) bytes).applyPosted
  | .page q o =>
    (match q with
     | some q => if o = 0 then .next (post s (regOff + qOff q + 12) (bytes.take 4)).applyPosted else .next s
     | none => .next s)
  | .mem pa =>
    match tierRoom pa with
    | some r => .next (post s pa (bytes.take r)).applyPosted
    | none => .next s

/-- MODULE_WAKE (R442). -/
def execModuleWake (s : State) : Host.Outcome State Fault Refusal :=
  if s.asleep && (s.reg pwrOff).getLsbD 2 then .next ((s.setReg pwrOff (setFld (s.reg pwrOff) 2 1 0)).setPower s.idleNow) else .next s

/-! ### ATS (R433) -/

/-- ATS_INVALIDATION: answered once every die has acknowledged, as R65 says. -/
def execAtsInvalidation (fn page count : Nat) (s : State) : Host.Outcome State Fault Refusal :=
  if fn ∈ s.tr.atsOn ∧ 0 < count then .next (s.startShoot 0 0 page count (.ats fn)) else .next s

/-- ATS_TRANSLATION_COMPLETION: cached for the function, 4,096 at most. -/
def execAtsTranslationCompletion (fn page hpa : Nat) (s : State) : Host.Outcome State Fault Refusal :=
  if inHost (page * 4096) 4096 = false then .next s else
  let l := s.tr.ats.filter fun c => !(decide (c.1 = fn) && decide (c.2.1 = page))
  let mine := l.filter fun c => decide (c.1 = fn)
  let (k, s) := s.free
  let l := if mine.length < 4096 then l else match mine[k % 4096]? with | some v => l.filter fun c => decide (c ≠ v) | none => l
  .next { s with tr := { s.tr with atsOn := if fn ∈ s.tr.atsOn then s.tr.atsOn else s.tr.atsOn ++ [fn], ats := l ++ [(fn, page, hpa)] } }

/-! ### Talfen links -/

/-- FLIT_RECEIVE (R434): a flit that passes its CRC is taken; one that fails is replayed by its sender, which changes nothing here. -/
def execFlitReceive (port vc : Nat) (crcOk : Bool) (s : State) : Host.Outcome State Fault Refusal :=
  if crcOk = false ∨ port ∈ s.dev.portDown then .next s
  else .next { s with dev := { s.dev with flits := mset 0 s.dev.flits (4 * port + vc) (mget 0 s.dev.flits (4 * port + vc) + 1) } }

/-- Whether an inbound access stays within the range of its port and within a tier (R435). -/
def State.paclOk (s : State) (port pa n : Nat) : Bool :=
  let o := 0x12000 + 16 * port
  decide (0 < n) && inTier pa && inTier (pa + n - 1)
    && decide (fld (s.reg o) 0 32 ≤ pa / 2 ^ 16) && decide ((pa + n - 1) / 2 ^ 16 ≤ fld (s.reg (o + 8)) 0 32)

/-- An inbound atomic: the operand's bytes, and what it becomes. -/
def peerNew (kind : PeerKind) (w old : Nat) (bytes : List Byte) : Nat :=
  match kind with
  | .fetchAdd => (old + ofLe bytes) % 2 ^ (8 * w)
  | .swap => ofLe bytes
  | .cas => if old = ofLe (bytes.take w) then ofLe (bytes.drop w) else old
  | _ => old

/-- PEER_ACCESS (R435). A read's bytes say only how many it asks for. -/
def execPeerAccess (port : Nat) (kind : PeerKind) (pa : Nat) (bytes : List (BitVec 8)) (s : State) : Host.Outcome State Fault Refusal :=
  let w := match kind with | .cas => bytes.length / 2 | _ => bytes.length
  let shape := match kind with
    | .read | .write => true
    | .cas => (decide (bytes.length = 8) || decide (bytes.length = 16)) && decide (pa % w = 0)
    | _ => (decide (w = 4) || decide (w = 8)) && decide (pa % w = 0)
  if port ∈ s.dev.portDown then .next s
  else if s.paclOk port pa w = false ∨ shape = false ∨ s.bootOk = false then .next (s.answered 1 [])
  else if s.homesOpen pa w = false then .next s
  else match kind with
  | .write => .next ((s.outerWrite (w / 128 + 2) pa bytes).answered 0 [])
  | .read => if s.outerPoison pa w then .next (s.answered 2 []) else .next (s.answered 0 (s.outerRead pa w))
  | _ =>
    if s.outerPoison pa w then .next (s.answered 2 [])
    else
      let old := s.outerRead pa w
      .next ((s.outerWrite 2 pa (leBytes w (peerNew kind w (ofLe old) bytes))).answered 0 old)

/-- Reads and atomics of a flight that are outstanding at a port, as (operation, lane). -/
def Flight.atPort (x : Flight) (port : Nat) : List (Nat × Nat) :=
  x.ops.flatMap fun o =>
    match o.kind with
    | .load | .atomic | .pref => (o.acc.filter fun a => a.isTodo && decide (a.space = .peer port) && x.mayPerform o a).map fun a => (o.id, a.lane)
    | _ => []

/-- LINK_DOWN (R435). -/
def execLinkDown (port : Nat) (s : State) : Host.Outcome State Fault Refusal :=
  if port ∈ s.dev.portDown then .next s else
  let out := s.flights.flatMap fun x => (x.atPort port).map fun p => (x.id, p.1, p.2)
  let s := { s with dev := { s.dev with portDown := s.dev.portDown ++ [port] } }
  let s := s.report 13 15 255 none [0, port, 3] []
  let s := out.foldl (fun (s : State) (p : Nat × Nat × Nat) =>
    match s.lane? p.1 p.2.1 p.2.2 with
    | some (x, o, a) => if o.noValue then s.lanePerformed x.id o.id { a with phase := .done } [] else s.failRead x o a port
    | none => s) s
  let lost := s.mem.transit.filter fun p => decide (p.2.acc.space = .peer port)
  .next (lost.foldl (fun (s : State) (p : Nat × Wr) =>
    (s.leaveTransit p.2).report 13 p.1 p.2.core ((s.flight? p.2.flight).bind fun f => s.launch? f.launch) [p.2.acc.pa, port, 2] []) s)

/-! ### Dies -/

/-- What a die's cores, matrix arrays and translation stores held is gone. -/
def State.dropDie (s : State) (d : Nat) : State :=
  { s with
    mem := { s.mem with l1 := s.mem.l1.filter fun c => decide (dieOf c.unit ≠ d) }
    tr := { s.tr with tlb := s.tr.tlb.filter fun e => decide (dieOf e.core ≠ d) }
    sched := { s.sched with
      arrays := s.sched.arrays.filter fun a => decide (a.1 / 96 ≠ d)
      wakeReqs := s.sched.wakeReqs.filter fun r => decide (dieOf r.core ≠ d) } }

/-- Accesses of a die that are not performed yet (R67). -/
def State.dieOpen (s : State) (d : Nat) : Nat :=
  ((s.flights.filter fun f => decide (dieOf f.core = d)).map fun f => ((f.ops.map fun o => (o.acc.filter Access.isOpen).length).sum + f.wq.length)).sum
  + (s.mem.transit.filter fun p => decide (p.1 = d)).length

/-- Flights, workgroups and copy commands of a die end with it. -/
def State.endDie (s : State) (d : Nat) : State :=
  let gone := (s.cmds.filter fun c => decide (dieOf c.core = d)).map Cmd.id
  { s with
    flights := s.flights.map fun f =>
      if dieOf f.core = d then { f with place := .ended, ops := [], residual := [], fixed := [], wq := [], trap := none, port := .free, wait := none, clause := none } else f
    wgs := s.wgs.filter fun w => decide (dieOf w.core ≠ d)
    cmds := s.cmds.filter fun c => decide (dieOf c.core ≠ d)
    mem := { s.mem with
      transit := s.mem.transit.filter fun p => decide (p.1 ≠ d)
      far := s.mem.far.filter fun c => decide (c.unit ≠ d)
      l2 := s.mem.l2.map fun x => match x.owner with | some c => if c ∈ gone then { x with owner := none } else x | none => x }
    tr := { s.tr with wcache := s.tr.wcache.filter fun e => decide (e.die ≠ d), walks := s.tr.walks.filter (fun w => decide (w.die ≠ d)),
                        misses := s.tr.misses.filter (fun m => decide (dieOf m.core ≠ d)), walkTurn := mset 0 s.tr.walkTurn d 0 } }

/-- DIE_RESET (R67): the die counts as having acknowledged every shootdown, and what it had not performed is lost and reported. -/
def execDieReset (d : Nat) (s : State) : Host.Outcome State Fault Refusal :=
  if d ∈ s.dev.dieRst then .next s else
  let lost := min (s.dieOpen d) (2 ^ 64 - 1)
  let s := (s.endDie d).dropDie d
  let shoots : List Shoot := s.tr.shoots.map fun (k : Shoot) => { k with pend := k.pend &&& ~~~dieBit d }
  let s : State := { s with dev := { s.dev with dieRst := s.dev.dieRst ++ [d] }, tr := { s.tr with shoots } }
  let s := s.finishShoots
  .next (if lost = 0 then s else s.report 14 d 255 none [d, lost] [])

/-- DIE_LEAVING_RESET (R67): its translation stores are empty. -/
def execDieLeavingReset (d : Nat) (s : State) : Host.Outcome State Fault Refusal :=
  .next { s with
    dev := { s.dev with dieRst := s.dev.dieRst.filter (· ≠ d) }
    tr := { s.tr with tlb := s.tr.tlb.filter fun e => decide (dieOf e.core ≠ d), wcache := s.tr.wcache.filter fun e => decide (e.die ≠ d) } }

/-- DIE_PARK (R441, R442): no workgroup of the die is resident, and no flight of it is stopped by the port (Table 18-9). -/
def execDiePark (d : Nat) (s : State) : Host.Outcome State Fault Refusal :=
  if s.parkAsked.testBit d = false ∨ s.parked.testBit d ∨ s.asleep ∨ (s.wgs.any fun w => decide (dieOf w.core = d))
      ∨ (s.flights.any fun f => decide (dieOf f.core = d) && f.isStopped) then .next s
  else
    let s := (s.dropDie d).setReg pwrOff (setFld (s.reg pwrOff) (24 + d) 1 1)
    .next (s.setPower s.idleNow)

/-- DIE_UNPARK (R442). -/
def execDieUnpark (d : Nat) (s : State) : Host.Outcome State Fault Refusal :=
  if s.parkAsked.testBit d ∨ s.parked.testBit d = false ∨ s.asleep then .next s
  else
    let s := s.setReg pwrOff (setFld (s.reg pwrOff) (24 + d) 1 0)
    .next (s.setPower s.idleNow)

/-- IDLE_ENTRY (R441). -/
def execIdleEntry (s : State) : Host.Outcome State Fault Refusal :=
  if s.asleep ∨ s.idleNow = false ∨ (s.sched.heads.any fun h => s.admissible h) then .next s else .next (s.setPower true)

/-! ### Telemetry (R443) -/

/-- PST of a die's sample: parked, or as the module is idle or active. -/
def State.pst (s : State) (d : Nat) : Nat := if d < 8 ∧ s.parked.testBit d then 2 else if fld (s.reg pwrOff) 4 4 = 1 then 1 else 0

/-- TELEMETRY_SAMPLE: the nine dies in order, with the mean powers that their meters give. -/
def execTelemetrySample (power : List Nat) (s : State) : Host.Outcome State Fault Refusal :=
  if (s.reg tlmCfg).getLsbD 0 = false ∨ s.asleep ∨ s.clock < s.dev.telLast + 800000 then .next s
  else
    let one (s : State) (d : Nat) : State :=
      let seq := mget 0 s.dev.telSeq d
      let (_, s) := s.ringPut tlmCfg 32 (tlmSample d (s.pst d) seq (power.getD d 0) (mget 0 s.sched.delayed d))
      { s with dev := { s.dev with telSeq := mset 0 s.dev.telSeq d ((seq + 1) % 2 ^ 32) } }
    let s := (List.range 9).foldl one s
    .next { s with dev := { s.dev with telLast := s.clock }, sched := { s.sched with delayed := [] } }

end Sys2Proof.Machine
end

