-- ==== Sys2Proof/Machine/Dispatch.lean ====
section
/-! DEFINITION. The meaning of every row of the opcode table, one arm for each constructor. -/

namespace Sys2Proof.Machine

open Sys2Proof

def exec (i : Instr) (s : State) : Host.Outcome State Fault Refusal :=
  match i with
  | .moduleReset => Sys2Proof.Machine.execModuleReset s
  | .dieReset d => Sys2Proof.Machine.execDieReset d s
  | .patrolScrubRead sector found => Sys2Proof.Machine.execPatrolScrubRead sector found s
  | .frameSuspectReport frame => Sys2Proof.Machine.execFrameSuspectReport frame s
  | .arsWrite n w v => Sys2Proof.Machine.execArsWrite n w v s
  | .arsCommit v => Sys2Proof.Machine.execArsCommit v s
  | .arsCommitSwitch => Sys2Proof.Machine.execArsCommitSwitch s
  | .retire => Sys2Proof.Machine.execRetire s
  | .migrate => Sys2Proof.Machine.execMigrate s
  | .migrateHoldClear n => Sys2Proof.Machine.execMigrateHoldClear n s
  | .clearbad => Sys2Proof.Machine.execClearbad s
  | .attest => Sys2Proof.Machine.execAttest s
  | .debugtoken => Sys2Proof.Machine.execDebugtoken s
  | .readbad => Sys2Proof.Machine.execReadbad s
  | .mgmtUnknownCommand op => Sys2Proof.Machine.execMgmtUnknownCommand op s
  | .mgmtargWrite k v => Sys2Proof.Machine.execMgmtargWrite k v s
  | .zrValidate asid n v => Sys2Proof.Machine.execZrValidate asid n v s
  | .zrRetire asid n v => Sys2Proof.Machine.execZrRetire asid n v s
  | .zrRetireDone asid n => Sys2Proof.Machine.execZrRetireDone asid n s
  | .blockViewAccess f op lane => Sys2Proof.Machine.execBlockViewAccess f op lane s
  | .blockDecodeDone asid zr blk => Sys2Proof.Machine.execBlockDecodeDone asid zr blk s
  | .blockEvictChosen asid zr blk => Sys2Proof.Machine.execBlockEvictChosen asid zr blk s
  | .encode asid zr blk => Sys2Proof.Machine.execEncode asid zr blk s
  | .performRead f op lane => Sys2Proof.Machine.execPerformRead f op lane s
  | .performWrite f op lane => Sys2Proof.Machine.execPerformWrite f op lane s
  | .drain f w => Sys2Proof.Machine.execDrain f w s
  | .deliver d w => Sys2Proof.Machine.execDeliver d w s
  | .evict far unit line => Sys2Proof.Machine.execEvict far unit line s
  | .l2Evict line => Sys2Proof.Machine.execL2Evict line s
  | .l2FillArrive line => Sys2Proof.Machine.execL2FillArrive line s
  | .atomicStep f op lane => Sys2Proof.Machine.execAtomicStep f op lane s
  | .tileStep f op => Sys2Proof.Machine.execTileStep f op s
  | .own c line => Sys2Proof.Machine.execOwn c line s
  | .writeLine c line => Sys2Proof.Machine.execWriteLine c line s
  | .releaseLine c line => Sys2Proof.Machine.execReleaseLine c line s
  | .peerProbe f op lane => Sys2Proof.Machine.execPeerProbe f op lane s
  | .walkComplete d asid frame => Sys2Proof.Machine.execWalkComplete d asid frame s
  | .tlbiVaRange v => Sys2Proof.Machine.execTlbiVaRange v s
  | .tlbiAsid v => Sys2Proof.Machine.execTlbiAsid v s
  | .tlbiAll v => Sys2Proof.Machine.execTlbiAll v s
  | .tlbiPaRange v => Sys2Proof.Machine.execTlbiPaRange v s
  | .tlbiaddrWrite v => Sys2Proof.Machine.execTlbiaddrWrite v s
  | .tlbiDieAck d => Sys2Proof.Machine.execTlbiDieAck d s
  | .frmapWrite n v => Sys2Proof.Machine.execFrmapWrite n v s
  | .flcfgWrite d v => Sys2Proof.Machine.execFlcfgWrite d v s
  | .flcfgChangeDone d => Sys2Proof.Machine.execFlcfgChangeDone d s
  | .tbcfgWrite d n v => Sys2Proof.Machine.execTbcfgWrite d n v s
  | .bucketRefill => Sys2Proof.Machine.execBucketRefill s
  | .copyTake core => Sys2Proof.Machine.execCopyTake core s
  | .copyBegin c => Sys2Proof.Machine.execCopyBegin c s
  | .copySourceRead c sector => Sys2Proof.Machine.execCopySourceRead c sector s
  | .copyChunkSet c k => Sys2Proof.Machine.execCopyChunkSet c k s
  | .copyComplete c => Sys2Proof.Machine.execCopyComplete c s
  | .workgroupRelease w => Sys2Proof.Machine.execWorkgroupRelease w s
  | .resultLand f op => Sys2Proof.Machine.execResultLand f op s
  | .residualEntryRun f k => Sys2Proof.Machine.execResidualEntryRun f k s
  | .residualCapacityTrap f => Sys2Proof.Machine.execResidualCapacityTrap f s
  | .mmaReadback f op => Sys2Proof.Machine.execMmaReadback f op s
  | .matrixArrayWake d => Sys2Proof.Machine.execMatrixArrayWake d s
  | .matrixArrayIdle core part => Sys2Proof.Machine.execMatrixArrayIdle core part s
  | .clauseHeaderIssue => Sys2Proof.Machine.execClauseHeaderIssue s
  | .qcfgWrite q v => Sys2Proof.Machine.execQcfgWrite q v s
  | .qtailWrite q tail => Sys2Proof.Machine.execQtailWrite q tail s
  | .qownWrite q v => Sys2Proof.Machine.execQownWrite q v s
  | .queueTake q => Sys2Proof.Machine.execQueueTake q s
  | .launchAdmit p => Sys2Proof.Machine.execLaunchAdmit p s
  | .workgroupPlace l cores => Sys2Proof.Machine.execWorkgroupPlace l cores s
  | .launchComplete l => Sys2Proof.Machine.execLaunchComplete l s
  | .lnchRecordCopy f op => Sys2Proof.Machine.execLnchRecordCopy f op s
  | .flightSwapIn core part => Sys2Proof.Machine.execFlightSwapIn core part s
  | .flightSwapOutTimeout f => Sys2Proof.Machine.execFlightSwapOutTimeout f s
  | .pendingAgeExpiry f => Sys2Proof.Machine.execPendingAgeExpiry f s
  | .evictionDecision l core => Sys2Proof.Machine.execEvictionDecision l core s
  | .flightEvict f => Sys2Proof.Machine.execFlightEvict f s
  | .flightReturn f core => Sys2Proof.Machine.execFlightReturn f core s
  | .handlerRunStart f => Sys2Proof.Machine.execHandlerRunStart f s
  | .defaultHandlerAction f => Sys2Proof.Machine.execDefaultHandlerAction f s
  | .poisonRefusal f => Sys2Proof.Machine.execPoisonRefusal f s
  | .watchdogExpiry f => Sys2Proof.Machine.execWatchdogExpiry f s
  | .debugStop f => Sys2Proof.Machine.execDebugStop f s
  | .debugStopComplete f => Sys2Proof.Machine.execDebugStopComplete f s
  | .debugRead f sel => Sys2Proof.Machine.execDebugRead f sel s
  | .debugWrite f sel v => Sys2Proof.Machine.execDebugWrite f sel v s
  | .debugResume f mode pc => Sys2Proof.Machine.execDebugResume f mode pc s
  | .debugSetStep f on => Sys2Proof.Machine.execDebugSetStep f on s
  | .hdropWrite q => Sys2Proof.Machine.execHdropWrite q s
  | .tbparkWrite d k n => Sys2Proof.Machine.execTbparkWrite d k n s
  | .hostRead fn barNo off n => Sys2Proof.Machine.execHostRead fn barNo off n s
  | .hostWrite fn barNo off bytes => Sys2Proof.Machine.execHostWrite fn barNo off bytes s
  | .atsInvalidation fn page count => Sys2Proof.Machine.execAtsInvalidation fn page count s
  | .flitReceive port vc crcOk => Sys2Proof.Machine.execFlitReceive port vc crcOk s
  | .peerAccess port kind pa bytes => Sys2Proof.Machine.execPeerAccess port kind pa bytes s
  | .linkDown port => Sys2Proof.Machine.execLinkDown port s
  | .keySlotLoad slot tenant key => Sys2Proof.Machine.execKeySlotLoad slot tenant key s
  | .telemetrySample power => Sys2Proof.Machine.execTelemetrySample power s
  | .reportWrite => Sys2Proof.Machine.execReportWrite s
  | .repcfgWrite v => Sys2Proof.Machine.execRepcfgWrite v s
  | .pwrctlSleep => Sys2Proof.Machine.execPwrctlSleep s
  | .pwrctlPark v => Sys2Proof.Machine.execPwrctlPark v s
  | .diePark d => Sys2Proof.Machine.execDiePark d s
  | .idleEntry => Sys2Proof.Machine.execIdleEntry s
  | .moduleWake => Sys2Proof.Machine.execModuleWake s
  | .recoveryGo => Sys2Proof.Machine.execRecoveryGo s
  | .registerWrite off half v => Sys2Proof.Machine.execRegisterWrite off half v s
  | .sadd o => Sys2Proof.Machine.execSadd o s
  | .saddLong o => Sys2Proof.Machine.execSaddLong o s
  | .ssub o => Sys2Proof.Machine.execSsub o s
  | .ssubLong o => Sys2Proof.Machine.execSsubLong o s
  | .smul o => Sys2Proof.Machine.execSmul o s
  | .smulLong o => Sys2Proof.Machine.execSmulLong o s
  | .smulh o => Sys2Proof.Machine.execSmulh o s
  | .smulhLong o => Sys2Proof.Machine.execSmulhLong o s
  | .smulhn o => Sys2Proof.Machine.execSmulhn o s
  | .smulhnLong o => Sys2Proof.Machine.execSmulhnLong o s
  | .sdiv o => Sys2Proof.Machine.execSdiv o s
  | .sdivLong o => Sys2Proof.Machine.execSdivLong o s
  | .srem o => Sys2Proof.Machine.execSrem o s
  | .sremLong o => Sys2Proof.Machine.execSremLong o s
  | .sand o => Sys2Proof.Machine.execSand o s
  | .sandLong o => Sys2Proof.Machine.execSandLong o s
  | .sor o => Sys2Proof.Machine.execSor o s
  | .sorLong o => Sys2Proof.Machine.execSorLong o s
  | .sxor o => Sys2Proof.Machine.execSxor o s
  | .sxorLong o => Sys2Proof.Machine.execSxorLong o s
  | .sshl o => Sys2Proof.Machine.execSshl o s
  | .sshlLong o => Sys2Proof.Machine.execSshlLong o s
  | .sshr o => Sys2Proof.Machine.execSshr o s
  | .sshrLong o => Sys2Proof.Machine.execSshrLong o s
  | .ssra o => Sys2Proof.Machine.execSsra o s
  | .ssraLong o => Sys2Proof.Machine.execSsraLong o s
  | .smin o => Sys2Proof.Machine.execSmin o s
  | .sminLong o => Sys2Proof.Machine.execSminLong o s
  | .smax o => Sys2Proof.Machine.execSmax o s
  | .smaxLong o => Sys2Proof.Machine.execSmaxLong o s
  | .sminn o => Sys2Proof.Machine.execSminn o s
  | .sminnLong o => Sys2Proof.Machine.execSminnLong o s
  | .smaxn o => Sys2Proof.Machine.execSmaxn o s
  | .smaxnLong o => Sys2Proof.Machine.execSmaxnLong o s
  | .scmp o => Sys2Proof.Machine.execScmp o s
  | .scmpLong o => Sys2Proof.Machine.execScmpLong o s
  | .ssel o => Sys2Proof.Machine.execSsel o s
  | .smov o => Sys2Proof.Machine.execSmov o s
  | .smovLong o => Sys2Proof.Machine.execSmovLong o s
  | .smovi o => Sys2Proof.Machine.execSmovi o s
  | .smoviLong o => Sys2Proof.Machine.execSmoviLong o s
  | .smovh o => Sys2Proof.Machine.execSmovh o s
  | .smovhLong o => Sys2Proof.Machine.execSmovhLong o s
  | .slda o => Sys2Proof.Machine.execSlda o s
  | .sldaLong o => Sys2Proof.Machine.execSldaLong o s
  | .sld o => Sys2Proof.Machine.execSld o s
  | .sst o => Sys2Proof.Machine.execSst o s
  | .srd o => Sys2Proof.Machine.execSrd o s
  | .srdLong o => Sys2Proof.Machine.execSrdLong o s
  | .swr o => Sys2Proof.Machine.execSwr o s
  | .swrLong o => Sys2Proof.Machine.execSwrLong o s
  | .spopc o => Sys2Proof.Machine.execSpopc o s
  | .spopcLong o => Sys2Proof.Machine.execSpopcLong o s
  | .sclz o => Sys2Proof.Machine.execSclz o s
  | .sclzLong o => Sys2Proof.Machine.execSclzLong o s
  | .saddx o => Sys2Proof.Machine.execSaddx o s
  | .vlane2s o => Sys2Proof.Machine.execVlane2s o s
  | .vlane2sLong o => Sys2Proof.Machine.execVlane2sLong o s
  | .vadd o => Sys2Proof.Machine.execVadd o s
  | .vaddLong o => Sys2Proof.Machine.execVaddLong o s
  | .vsub o => Sys2Proof.Machine.execVsub o s
  | .vsubLong o => Sys2Proof.Machine.execVsubLong o s
  | .vmul o => Sys2Proof.Machine.execVmul o s
  | .vmulLong o => Sys2Proof.Machine.execVmulLong o s
  | .vmulh o => Sys2Proof.Machine.execVmulh o s
  | .vmulhLong o => Sys2Proof.Machine.execVmulhLong o s
  | .vmad o => Sys2Proof.Machine.execVmad o s
  | .vand o => Sys2Proof.Machine.execVand o s
  | .vandLong o => Sys2Proof.Machine.execVandLong o s
  | .vor o => Sys2Proof.Machine.execVor o s
  | .vorLong o => Sys2Proof.Machine.execVorLong o s
  | .vxor o => Sys2Proof.Machine.execVxor o s
  | .vxorLong o => Sys2Proof.Machine.execVxorLong o s
  | .vnot o => Sys2Proof.Machine.execVnot o s
  | .vnotLong o => Sys2Proof.Machine.execVnotLong o s
  | .vshl o => Sys2Proof.Machine.execVshl o s
  | .vshlLong o => Sys2Proof.Machine.execVshlLong o s
  | .vshr o => Sys2Proof.Machine.execVshr o s
  | .vshrLong o => Sys2Proof.Machine.execVshrLong o s
  | .vsra o => Sys2Proof.Machine.execVsra o s
  | .vsraLong o => Sys2Proof.Machine.execVsraLong o s
  | .vmin o => Sys2Proof.Machine.execVmin o s
  | .vminLong o => Sys2Proof.Machine.execVminLong o s
  | .vmax o => Sys2Proof.Machine.execVmax o s
  | .vmaxLong o => Sys2Proof.Machine.execVmaxLong o s
  | .vabs o => Sys2Proof.Machine.execVabs o s
  | .vabsLong o => Sys2Proof.Machine.execVabsLong o s
  | .vcmp o => Sys2Proof.Machine.execVcmp o s
  | .vcmpLong o => Sys2Proof.Machine.execVcmpLong o s
  | .vsel o => Sys2Proof.Machine.execVsel o s
  | .vmov o => Sys2Proof.Machine.execVmov o s
  | .vmovLong o => Sys2Proof.Machine.execVmovLong o s
  | .vmovi o => Sys2Proof.Machine.execVmovi o s
  | .vmoviLong o => Sys2Proof.Machine.execVmoviLong o s
  | .vbcast o => Sys2Proof.Machine.execVbcast o s
  | .vbcastLong o => Sys2Proof.Machine.execVbcastLong o s
  | .vpopc o => Sys2Proof.Machine.execVpopc o s
  | .vpopcLong o => Sys2Proof.Machine.execVpopcLong o s
  | .vclz o => Sys2Proof.Machine.execVclz o s
  | .vclzLong o => Sys2Proof.Machine.execVclzLong o s
  | .vbfx o => Sys2Proof.Machine.execVbfx o s
  | .vbfxLong o => Sys2Proof.Machine.execVbfxLong o s
  | .vbfi o => Sys2Proof.Machine.execVbfi o s
  | .vshfl o => Sys2Proof.Machine.execVshfl o s
  | .vshflLong o => Sys2Proof.Machine.execVshflLong o s
  | .vvote o => Sys2Proof.Machine.execVvote o s
  | .vvoteLong o => Sys2Proof.Machine.execVvoteLong o s
  | .vred o => Sys2Proof.Machine.execVred o s
  | .vredLong o => Sys2Proof.Machine.execVredLong o s
  | .vscan o => Sys2Proof.Machine.execVscan o s
  | .vscanLong o => Sys2Proof.Machine.execVscanLong o s
  | .vaddc o => Sys2Proof.Machine.execVaddc o s
  | .vperm o => Sys2Proof.Machine.execVperm o s
  | .vpermLong o => Sys2Proof.Machine.execVpermLong o s
  | .plog o => Sys2Proof.Machine.execPlog o s
  | .plogLong o => Sys2Proof.Machine.execPlogLong o s
  | .exmset o => Sys2Proof.Machine.execExmset o s
  | .exmsetLong o => Sys2Proof.Machine.execExmsetLong o s
  | .exmrd o => Sys2Proof.Machine.execExmrd o s
  | .exmrdLong o => Sys2Proof.Machine.execExmrdLong o s
  | .xset o => Sys2Proof.Machine.execXset o s
  | .xsetLong o => Sys2Proof.Machine.execXsetLong o s
  | .xinc o => Sys2Proof.Machine.execXinc o s
  | .xincLong o => Sys2Proof.Machine.execXincLong o s
  | .fadd o => Sys2Proof.Machine.execFadd o s
  | .faddLong o => Sys2Proof.Machine.execFaddLong o s
  | .fsub o => Sys2Proof.Machine.execFsub o s
  | .fsubLong o => Sys2Proof.Machine.execFsubLong o s
  | .fmul o => Sys2Proof.Machine.execFmul o s
  | .fmulLong o => Sys2Proof.Machine.execFmulLong o s
  | .ffma o => Sys2Proof.Machine.execFfma o s
  | .fmin o => Sys2Proof.Machine.execFmin o s
  | .fminLong o => Sys2Proof.Machine.execFminLong o s
  | .fmax o => Sys2Proof.Machine.execFmax o s
  | .fmaxLong o => Sys2Proof.Machine.execFmaxLong o s
  | .fabs o => Sys2Proof.Machine.execFabs o s
  | .fabsLong o => Sys2Proof.Machine.execFabsLong o s
  | .fneg o => Sys2Proof.Machine.execFneg o s
  | .fnegLong o => Sys2Proof.Machine.execFnegLong o s
  | .fcmp o => Sys2Proof.Machine.execFcmp o s
  | .fcmpLong o => Sys2Proof.Machine.execFcmpLong o s
  | .fclass o => Sys2Proof.Machine.execFclass o s
  | .fclassLong o => Sys2Proof.Machine.execFclassLong o s
  | .frcp o => Sys2Proof.Machine.execFrcp o s
  | .frcpLong o => Sys2Proof.Machine.execFrcpLong o s
  | .frsq o => Sys2Proof.Machine.execFrsq o s
  | .frsqLong o => Sys2Proof.Machine.execFrsqLong o s
  | .fsqrt o => Sys2Proof.Machine.execFsqrt o s
  | .fsqrtLong o => Sys2Proof.Machine.execFsqrtLong o s
  | .fdiv o => Sys2Proof.Machine.execFdiv o s
  | .fdivLong o => Sys2Proof.Machine.execFdivLong o s
  | .fexp2 o => Sys2Proof.Machine.execFexp2 o s
  | .fexp2Long o => Sys2Proof.Machine.execFexp2Long o s
  | .flog2 o => Sys2Proof.Machine.execFlog2 o s
  | .flog2Long o => Sys2Proof.Machine.execFlog2Long o s
  | .fsinp o => Sys2Proof.Machine.execFsinp o s
  | .fsinpLong o => Sys2Proof.Machine.execFsinpLong o s
  | .fcosp o => Sys2Proof.Machine.execFcosp o s
  | .fcospLong o => Sys2Proof.Machine.execFcospLong o s
  | .frnd o => Sys2Proof.Machine.execFrnd o s
  | .frndLong o => Sys2Proof.Machine.execFrndLong o s
  | .cvtff o => Sys2Proof.Machine.execCvtff o s
  | .cvtffLong o => Sys2Proof.Machine.execCvtffLong o s
  | .cvtfi o => Sys2Proof.Machine.execCvtfi o s
  | .cvtfiLong o => Sys2Proof.Machine.execCvtfiLong o s
  | .cvtif o => Sys2Proof.Machine.execCvtif o s
  | .cvtifLong o => Sys2Proof.Machine.execCvtifLong o s
  | .cvtblk o => Sys2Proof.Machine.execCvtblk o s
  | .fscale o => Sys2Proof.Machine.execFscale o s
  | .fscaleLong o => Sys2Proof.Machine.execFscaleLong o s
  | .fma2 o => Sys2Proof.Machine.execFma2 o s
  | .fadd2 o => Sys2Proof.Machine.execFadd2 o s
  | .fadd2Long o => Sys2Proof.Machine.execFadd2Long o s
  | .fmul2 o => Sys2Proof.Machine.execFmul2 o s
  | .fmul2Long o => Sys2Proof.Machine.execFmul2Long o s
  | .fsmode o => Sys2Proof.Machine.execFsmode o s
  | .fstat o => Sys2Proof.Machine.execFstat o s
  | .ainit o => Sys2Proof.Machine.execAinit o s
  | .afromv o => Sys2Proof.Machine.execAfromv o s
  | .aadd o => Sys2Proof.Machine.execAadd o s
  | .asub o => Sys2Proof.Machine.execAsub o s
  | .ascl o => Sys2Proof.Machine.execAscl o s
  | .amul o => Sys2Proof.Machine.execAmul o s
  | .afma o => Sys2Proof.Machine.execAfma o s
  | .arcp o => Sys2Proof.Machine.execArcp o s
  | .asqrt o => Sys2Proof.Machine.execAsqrt o s
  | .acnd o => Sys2Proof.Machine.execAcnd o s
  | .acoll o => Sys2Proof.Machine.execAcoll o s
  | .actr o => Sys2Proof.Machine.execActr o s
  | .arad o => Sys2Proof.Machine.execArad o s
  | .abnd o => Sys2Proof.Machine.execAbnd o s
  | .asym o => Sys2Proof.Machine.execAsym o s
  | .azld o => Sys2Proof.Machine.execAzld o s
  | .axfer o => Sys2Proof.Machine.execAxfer o s
  | .ld o => Sys2Proof.Machine.execLd o s
  | .st o => Sys2Proof.Machine.execSt o s
  | .ldl o => Sys2Proof.Machine.execLdl o s
  | .stl o => Sys2Proof.Machine.execStl o s
  | .atom o => Sys2Proof.Machine.execAtom o s
  | .atoml o => Sys2Proof.Machine.execAtoml o s
  | .pref o => Sys2Proof.Machine.execPref o s
  | .land o => Sys2Proof.Machine.execLand o s
  | .tld o => Sys2Proof.Machine.execTld o s
  | .tst o => Sys2Proof.Machine.execTst o s
  | .zflush o => Sys2Proof.Machine.execZflush o s
  | .zdrop o => Sys2Proof.Machine.execZdrop o s
  | .zerr o => Sys2Proof.Machine.execZerr o s
  | .clean o => Sys2Proof.Machine.execClean o s
  | .inval o => Sys2Proof.Machine.execInval o s
  | .bar o => Sys2Proof.Machine.execBar o s
  | .bara o => Sys2Proof.Machine.execBara o s
  | .barw o => Sys2Proof.Machine.execBarw o s
  | .fence o => Sys2Proof.Machine.execFence o s
  | .semadd o => Sys2Proof.Machine.execSemadd o s
  | .semwait o => Sys2Proof.Machine.execSemwait o s
  | .semrd o => Sys2Proof.Machine.execSemrd o s
  | .semset o => Sys2Proof.Machine.execSemset o s
  | .mwait o => Sys2Proof.Machine.execMwait o s
  | .chkwait o => Sys2Proof.Machine.execChkwait o s
  | .yield o => Sys2Proof.Machine.execYield o s
  | .waitsb o => Sys2Proof.Machine.execWaitsb o s
  | .mma o => Sys2Proof.Machine.execMma o s
  | .mgath o => Sys2Proof.Machine.execMgath o s
  | .mclose o => Sys2Proof.Machine.execMclose o s
  | .tshp o => Sys2Proof.Machine.execTshp o s
  | .tzero o => Sys2Proof.Machine.execTzero o s
  | .tmovv o => Sys2Proof.Machine.execTmovv o s
  | .vmovt o => Sys2Proof.Machine.execVmovt o s
  | .tscl o => Sys2Proof.Machine.execTscl o s
  | .tcvt o => Sys2Proof.Machine.execTcvt o s
  | .nop o => Sys2Proof.Machine.execNop o s
  | .bra o => Sys2Proof.Machine.execBra o s
  | .brc o => Sys2Proof.Machine.execBrc o s
  | .join o => Sys2Proof.Machine.execJoin o s
  | .brgp o => Sys2Proof.Machine.execBrgp o s
  | .rgjoin o => Sys2Proof.Machine.execRgjoin o s
  | .call o => Sys2Proof.Machine.execCall o s
  | .ret o => Sys2Proof.Machine.execRet o s
  | .bri o => Sys2Proof.Machine.execBri o s
  | .exit o => Sys2Proof.Machine.execExit o s
  | .trap o => Sys2Proof.Machine.execTrap o s
  | .eret o => Sys2Proof.Machine.execEret o s
  | .brk o => Sys2Proof.Machine.execBrk o s
  | .defer o => Sys2Proof.Machine.execDefer o s
  | .tfrd o => Sys2Proof.Machine.execTfrd o s
  | .tfwr o => Sys2Proof.Machine.execTfwr o s
  | .tfres o => Sys2Proof.Machine.execTfres o s
  | .lkill o => Sys2Proof.Machine.execLkill o s
  | .lnch o => Sys2Proof.Machine.execLnch o s
  | .undefinedInstruction cls w0 w1 => Sys2Proof.Machine.execUndefinedInstruction cls w0 w1 s
  | .dieLeavingReset d => Sys2Proof.Machine.execDieLeavingReset d s
  | .powerLoss torn => Sys2Proof.Machine.execPowerLoss torn s
  | .linkUp port => Sys2Proof.Machine.execLinkUp port s
  | .securityStateAdvance => Sys2Proof.Machine.execSecurityStateAdvance s
  | .atsTranslationCompletion fn page hpa => Sys2Proof.Machine.execAtsTranslationCompletion fn page hpa s
  | .dieUnpark d => Sys2Proof.Machine.execDieUnpark d s

end Sys2Proof.Machine
end

