-- ==== Sys2Proof/Machine/Turn.lean ====
section
/-! DEFINITION. Whose turn it is (R376, R391, R392): of the ready flights of a partition the one that issued least recently takes a slot, and no clock passes
over a flight that its partition lets issue, or over a free place and a flight ready for it. -/

namespace Sys2Proof.Machine

open Sys2Proof

/-- What comes of an active flight when it comes to issue in this clock: nothing, a header or an instruction, or that it leaves the active set to wait. -/
inductive Due where
  | no
  | header
  | instr (cls : Nat)
  | leaves
  deriving DecidableEq, Repr

noncomputable def State.due (s : State) (f : Flight) : Due :=
  let s := { s with cur := f.id }
  match f.clause with
  | none => match headerGate f s with | .wait => .no | .miss _ => .leaves | .trap _ => .header | .enter _ _ => .header
  | some c =>
    let i := instrOrUndefined c.cls c.words
    match descOf s i with
    | none => if s.canIssue f c.cls then .instr c.cls else .no
    | some d =>
      match gate d f { s with ins := some i } with
      | .hold t => if t.flight? f.id = some f then .no else .leaves
      | _ => .instr c.cls

/-- Whether a due flight competes for the slot of an instruction of the class; a header's first instruction may be of any (R224). -/
def Due.rivals (d : Due) (cls : Nat) : Bool :=
  match d with
  | .instr c => isVecClass c == isVecClass cls
  | .header => true
  | _ => false

/-- Whether a flight may take the slot of its class: no ready flight of its partition issued less recently (R392). -/
noncomputable def State.hasTurn (s : State) (f : Flight) (cls : Nat) : Bool :=
  s.flights.all fun g => decide (g.partKey ≠ f.partKey) || decide (f.lastIssue ≤ g.lastIssue) || !(s.due g).rivals cls

/-- Whether FLIGHT_SWAP_IN or FLIGHT_SWAP_OUT_TIMEOUT of the flight has something to do: a free place goes at once to a ready flight (R391), and a flight of
4,096 clocks makes way for one (R376). -/
def State.mustSwap (s : State) (f : Flight) : Bool :=
  match f.place with
  | .pending _ _ => s.isReady f && (f.isHandler || decide (s.activeCount f.core f.part < 8))
  | .active t => decide (t + 4096 ≤ s.clock) && f.residual.isEmpty && !f.isHandler && !(s.readyOf f.core f.part).isEmpty
  | _ => false

/-- Whether a clock may pass. -/
noncomputable def State.mayPass (s : State) : Bool := s.flights.all fun f => !s.mustSwap f && decide (s.due f = .no)

/-- At most `n` clocks pass, as far as they may. -/
noncomputable def State.passes : Nat → State → State
  | 0, s => s
  | n + 1, s => if s.mayPass then State.passes n (s.passClocks 1) else s

end Sys2Proof.Machine
end

