-- ==== Sys2Proof/Machine/Step.lean ====
section
/-! DEFINITION. One step of the device: the agenda says who moves (R142, log 1). -/

namespace Sys2Proof.Machine

open Sys2Proof

/-- Flight `f` comes to issue: a header when it stands at one, else the instruction its clause's words give (R222, R225), when it is the flight's turn
(R392). -/
noncomputable def issueStep (f : Nat) (s : State) : Host.Outcome State Fault Refusal :=
  match s.flight? f with
  | none => .next { s with cur := f }
  | some x =>
    match x.clause with
    | none => exec .clauseHeaderIssue { s with cur := f }
    | some c =>
      if s.hasTurn x c.cls then exec (instrOrUndefined c.cls c.words) { s with cur := f, ins := some (instrOrUndefined c.cls c.words) }
      else .next { s with cur := f }

/-- With an empty agenda the current flight issues when its stall count allows, and else a clock passes. -/
noncomputable def State.idleStep (s : State) : Host.Outcome State Fault Refusal :=
  match s.flight? s.cur with
  | some f => if f.nextIssue ≤ s.clock then issueStep s.cur s else .next (State.passes 1 s)
  | none => .next (State.passes 1 s)

/-- The machine's step: the head of the agenda, or what an empty agenda leaves to do. -/
noncomputable def step (s : State) : Host.Outcome State Fault Refusal :=
  match s.agenda with
  | .issue f :: r => issueStep f { s with agenda := r }
  | .event i :: r => exec i { s with agenda := r }
  | .advance n :: r => .next (State.passes n { s with agenda := r })
  | .debugState st :: r => .next (State.askDebug { s with agenda := r } st)
  | .readFinds line found :: r => .next (State.readFinds { s with agenda := r } line found)
  | .outerFails line fails :: r => .next (State.outerFails { s with agenda := r } line fails)
  | [] => s.idleStep

/-- A device in which one flight of a new launch stands in a clause whose next words are the given ones, and issues next (log 9). -/
noncomputable def State.withFetchWord (s : State) (_nbits w : Nat) : State :=
  let n := s.nextId
  let w0 := BitVec.ofNat 32 w
  let w1 := BitVec.ofNat 32 (w / 2 ^ 32)
  { s with
    nextId := n + 3
    agenda := .issue (n + 2) :: s.agenda
    launches := s.launches ++ [{ id := n }]
    wgs := s.wgs ++ [{ id := n + 1, launch := n }]
    flights := s.flights ++ [{ id := n + 2, launch := n, wg := n + 1,
                               clause := some { cls := tableClass w0, words := [w0, w1], left := 1, chk := true, def_ := false } }] }

end Sys2Proof.Machine
end

