-- ==== Sys2Proof/Safety.lean ====
section
/-! DEFINITION. What a safe run is, and the terms in which the claims speak: an instruction that nothing holds back, and what is the
same after it. -/

namespace Sys2Proof

open Machine

/-- A state from which `n` steps all give a next state. -/
def SafeFor : Nat → State → Prop
  | 0, _ => True
  | n + 1, s => ∃ t, step s = .next t ∧ SafeFor n t

/-- A run is safe when every step of it gives a next state: a trap is a next state, and only a fault or a refusal of the model ends it. -/
def Safe (s : State) : Prop := ∀ n, SafeFor n s

/-! ### An instruction that issues -/

/-- Flight `f` is the one whose turn it is, and an instruction of class `cls` of it may issue now: the flight is active, held by no trap and no
port, its stall count has passed and its issue slot is free (R222, R391, R392, R402, R424); no bucket parks it (R92), no counts have crossed THR (R188),
and no refused lane waits to be reported (R412); STEP is off (R426); it is no half of a shadow pair (R416). -/
structure Ready (s : State) (f : Flight) (cls : Nat) : Prop where
  cur : s.flight? s.cur = some f
  active : f.isActive = true
  held : s.isHeld f = false
  port : f.port = .free
  leaving : f.leaving = false
  room : f.capTrap = none
  stall : f.nextIssue ≤ s.clock
  slot : s.slotFree f cls = true
  unparked : f.bucketParked = false
  settled : f.crossing = false
  refused : f.refused = []
  step : f.step = false
  single : s.partner f = none
  unpaired : f.isShadow = false

/-- An instruction of class `cls` with operands `os`, read in the lanes `part`, may issue now from `f` and meets nothing on its operands: every
operand is legal (R233); no register of it is pending (R189) or undelivered (R234), each index register in use resolves (R175), no register
read is released (R176), and none carries a poisoned-pending mark (R412). -/
structure Free (s : State) (f : Flight) (cls : Nat) (os : List Opnd) (part : DWord) : Prop extends Ready s f cls where
  legal : ∀ o ∈ os, o.bad f (s.afb f) = false
  landed : ∀ o ∈ os, ∀ r ∈ o.regList f (s.afb f), f.isPending r = false
  delivered : ∀ x ∈ f.fixed, s.clock < x.ready → ∀ o ∈ os, x.reg ∉ o.regList f (s.afb f)
  index : ∀ o ∈ os, ∀ c, o.failLanes f c = []
  unreleased : ∃ m, countReads f (s.afb f) os f.counts = .ok m
  unmarked : ∀ o ∈ os, o.marked f (s.afb f) part = []

/-! ### What is the same after it -/

/-- `t` is `s` but for flight `f`, which is now `g`, the model's counters of free values and of handles, and the issue slots of R392. -/
structure OnlyFlight (s t : State) (f g : Flight) : Prop where
  here : t.flight? f.id = some g
  flights : t.flights = replBy Flight.id s.flights f.id g
  rest : { t with flights := s.flights, freeCtr := s.freeCtr, nextId := s.nextId, sched := { t.sched with slots := s.sched.slots } } = s
  bytes : ∀ a, t.homeByte a = s.homeByte a

/-- A flight with all blanked that any instruction may change as it issues: its place in the program, its registers v, s, p and x and their
counts, landing slots, marks and undelivered results, and what it waited for. Two flights that are alike under it have the same EXM, DEAD,
FMODE, FSTAT, SYMNEXT, SYMLIMIT, RGNC, region, stack, tiles, shapes, tokens, outstanding operations and writes, generators, and trap. -/
def blankIssue (f : Flight) : Flight :=
  { f with
    pc := 0, clause := none, seq := 0, nextIssue := 0, lastIssue := 0, walkRes := [], wait := none, blocked := []
    counts := [], slots := [], fixed := [], marks := [], v := [], s := [], p := [], x := [] }
/-- The same with FSTAT and the generators blanked, which arithmetic writes (R188, R209). -/
def blankMath (f : Flight) : Flight := { blankIssue f with fstat := 0, stoch := [] }
/-- The same with what an instruction with an outstanding operation changes (R189, R235). -/
def blankOps (f : Flight) : Flight := { blankIssue f with ops := [], tokens := [], symNext := 0 }

/-- The place after an instruction of `k` words (R222, R235): the next word, or the header after the clause. -/
structure MovesOn (f g : Flight) (k st clock : Nat) : Prop where
  pc : ∀ c, f.clause = some c → g.pc = (f.pc + 4 * k) % 2 ^ 48
  clause : ∀ c, f.clause = some c → g.clause = if c.left ≤ 1 then none else some { c with words := c.words.drop k, left := c.left - 1 }
  seq : g.seq = f.seq + 1
  stall : g.nextIssue = clock + 1 + st

/-- Registers after an instruction: where `V`, `S`, `P` and `X` name a new value the register has it, and all others keep theirs. -/
structure RegsAre (f g : Flight) (V : Nat → Nat → Option Word) (S P : Nat → Option DWord) (X : Nat → Nat → Option Word) : Prop where
  v : ∀ n, ∀ l < 64, g.rdV n l = (V n l).getD (f.rdV n l)
  s : ∀ n, g.rdS n = (S n).getD (f.rdS n)
  p : ∀ n, g.rdP n = (P n).getD (f.rdP n)
  x : ∀ n, ∀ l < 64, g.rdX n l = (X n l).getD (f.rdX n l)

/-- Nothing is written. -/
def noV : Nat → Nat → Option Word := fun _ _ => none
def noS : Nat → Option DWord := fun _ => none

/-- A uniform value written to scalar register or predicate `spec`; ZERO discards it (R244). -/
def toS (spec : Nat) (w : DWord) (n : Nat) : Option DWord := if okind spec = .s n then some w else none
def toP (spec : Nat) (w : DWord) (n : Nat) : Option DWord := if okind spec = .p n then some w else none

/-- First register that vector destination `spec` names in lane `l` (R175, R245). -/
def destOf (f : Flight) (spec regs l : Nat) : Option Nat :=
  match okind spec with
  | .v n => some n
  | .vx _ _ => some (regAt f spec regs l)
  | _ => none
/-- A value of `regs` registers written in each lane of `m` (R173, R249). -/
def toV (f : Flight) (m : DWord) (spec regs : Nat) (val : Nat → Nat) (n l : Nat) : Option Word :=
  match destOf f spec regs l with
  | some d => if m.getLsbD l = true ∧ d ≤ n ∧ n < d + regs then some (BitVec.ofNat 32 (val l / 2 ^ (32 * (n - d)))) else none
  | none => none
/-- Index registers that an operand post-increments, in the lanes of EXM (R175). -/
def stepX (f : Flight) (os : List Opnd) (n l : Nat) : Option Word :=
  if n ∈ incremented os ∧ f.exm.getLsbD l = true then some (postInc (f.rdX n l)) else none
/-- Bits written to a predicate in the lanes of EXM (R249). -/
def toBits (f : Flight) (spec : Nat) (bit : Nat → Bool) (n : Nat) : Option DWord :=
  if okind spec = .p n then some (maskOf (lanes.filter fun l => if f.exm.getLsbD l then bit l else (f.rdP n).getLsbD l)) else none

/-! ### What an instruction computes -/

/-- The outcome of an instruction's meaning. -/
abbrev Run := State → Host.Outcome State Fault Refusal

/-- Flight `f` has moved past the instruction: it is `g` in `t`, and `s` and `t` differ in nothing else. -/
def Passes (s t : State) (f g : Flight) (st : Nat) : Prop := OnlyFlight s t f g ∧ MovesOn f g f.wordCount st s.clock

/-- An instruction of class `cls` whose only effect is to write registers, at once, runs from every state and flight that `Free` and `when` admit
and leaves the registers that `V`, `S` and `P` name at the values they give; index registers of v[xn]+ operands advance; nothing else changes. -/
def Computes (run : Run) (cls st : Nat) (os : List Opnd) (part : Flight → DWord) (when_ : State → Flight → Prop)
    (V : State → Flight → Nat → Nat → Option Word) (S P : State → Flight → Nat → Option DWord) : Prop :=
  ∀ s f, Free s f cls os (part f) → when_ s f →
    ∃ t g, run s = .next t ∧ Passes s t f g st ∧ blankIssue g = blankIssue f ∧ RegsAre f g (V s f) (S s f) (P s f) (stepX f os)

/-- The registers that an operation's result writes give, read in the flight as it stands. -/
def resultRegs (f : Flight) (o : Op) (V : Nat → Nat → Option Word) (S P : Nat → Option DWord) : Prop :=
  RegsAre f (o.writes.foldl Flight.regWrite f) V S P noV

/-- Operation `o`, outstanding in `g` since the instruction of `f` with operands `os` issued, holds results that give the registers `V`, `S` and
`P` when they are written; `kill` names the lanes that die then (R249). -/
structure Holds (s : State) (f g : Flight) (os : List Opnd) (o : Op) (V : Nat → Nat → Option Word) (S P : Nat → Option DWord) (kill : DWord := 0) :
    Prop where
  ops : g.ops = f.ops ++ [o]
  kind : o.kind = .result
  acc : o.acc = []
  place : o.seq = f.seq ∧ o.pc = f.pc
  dests : ∀ r, r ∈ o.dests ↔ ∃ d ∈ os, r ∈ d.destList f (s.afb f)
  regs : resultRegs f o V S P
  kills : o.kills = kill

/-- An instruction of variable latency: its registers are untouched as it issues, its destinations become pending, and an operation is
outstanding whose result writes give the values (R189, R235, Table 10-18); `mints` says whether it takes a symbol (R186, R300). -/
def ComputesLate (run : Run) (cls st : Nat) (os : List Opnd) (part : Flight → DWord) (mints : Bool) (when_ : State → Flight → Prop)
    (V : State → Flight → Nat → Nat → Option Word) (S P : State → Flight → Nat → Option DWord) : Prop :=
  ∀ s f, Free s f cls os (part f) → when_ s f →
    ∃ t g o, run s = .next t ∧ Passes s t f g st ∧ blankOps g = blankOps f ∧ g.tokens = f.tokens
      ∧ g.symNext = (if mints then f.symNext + 1 else f.symNext)
      ∧ RegsAre f g noV noS noS (stepX f os) ∧ Holds s f g os o (V s f) (S s f) (P s f)

/-- An instruction whose effect, beyond passing on in the program, is the change `u` of the state past it (given the state and the flight as it
found them). -/
def Acts (run : Run) (cls st : Nat) (os : List Opnd) (part : Flight → DWord) (when_ : State → Flight → Prop)
    (u : State → Flight → State → State) : Prop :=
  ∀ s f, Free s f cls os (part f) → when_ s f →
    ∃ t g, run s = .next (u s f t) ∧ Passes s t f g st ∧ blankIssue g = blankIssue f ∧ RegsAre f g noV noS noS (stepX f os)

/-- An instruction of class `cls` that instead raises the trap `t` in a flight that is no handler's (R399, R404). -/
def Traps (run : Run) (cls : Nat) (when_ : State → Flight → Prop) (t : State → Flight → TrapInfo) : Prop :=
  ∀ s f, Ready s f cls → f.isHandler = false → when_ s f → run s = .next (s.raiseTrap f.id (t s f))

/-- FSTAT and the generators after an instruction whose lanes of EXM raise flags `fl` and count categories `ct`, and whose generators are left at `gen`
(R188, R209). -/
structure Accounts (f g : Flight) (fl : Nat → Nat) (ct : Nat → Cat) (gen : Nat → Nat) : Prop where
  fstat : g.fstat = fstatAdd f.fstat ((lanesOf f.exm).foldl (fun a l => a ||| fl l) 0) ((lanesOf f.exm).foldl (fun c l => c.add (ct l)) {})
  rng : ∀ l < 64, g.rng l = if f.exm.getLsbD l then BitVec.ofNat 32 (gen l) else f.rng l

/-- The counters stay at or below THR, or were above it, so that no trap 0x1A follows (R188). -/
def NoCross (f : Flight) (fl : Nat → Nat) (ct : Nat → Cat) : Prop :=
  fstatCross f.fstat (fstatAdd f.fstat ((lanesOf f.exm).foldl (fun a l => a ||| fl l) 0) ((lanesOf f.exm).foldl (fun c l => c.add (ct l)) {})) = false

/-- A lane-wise arithmetic instruction: `R` gives each lane's bits, flags, category and generator; `regs` registers of `d` are written, at once or, when
`late`, by the operation that is outstanding. -/
def ComputesMath (run : Run) (late : Bool) (st : Nat) (os : List Opnd) (d regs : Nat) (when_ : State → Flight → Prop)
    (R : State → Flight → Nat → LaneRes) : Prop :=
  ∀ s f, Free s f 2 os f.exm → when_ s f → NoCross f (fun l => (R s f l).flags) (fun l => (R s f l).cat) →
    ∃ t g, run s = .next t ∧ Passes s t f g st
      ∧ Accounts f g (fun l => (R s f l).flags) (fun l => (R s f l).cat) (fun l => (R s f l).st)
      ∧ (if late then
          { blankMath g with ops := [] } = { blankMath f with ops := [] } ∧ RegsAre f g noV noS noS (stepX f os)
            ∧ ∃ o, Holds s f g os o (toV f f.exm d regs fun l => (R s f l).bits) noS noS
        else blankMath g = blankMath f ∧ RegsAre f g (toV f f.exm d regs fun l => (R s f l).bits) noS noS (stepX f os))

/-- As `Computes`, with a change `u` of the state after the results (given the state and the flight as the instruction found them). -/
def ComputesThen (run : Run) (cls st : Nat) (os : List Opnd) (part : Flight → DWord) (when_ : State → Flight → Prop)
    (V : State → Flight → Nat → Nat → Option Word) (u : State → Flight → State → State) : Prop :=
  ∀ s f, Free s f cls os (part f) → when_ s f →
    ∃ t g, run s = .next (u s f t) ∧ Passes s t f g st ∧ blankIssue g = blankIssue f ∧ RegsAre f g (V s f) noS noS (stepX f os)

/-- As `ComputesLate`, with an operation that kills the lanes `K` once it has written its results (R249). -/
def ComputesLateKilling (run : Run) (cls st : Nat) (os : List Opnd) (part : Flight → DWord) (when_ : State → Flight → Prop)
    (V : State → Flight → Nat → Nat → Option Word) (K : Flight → DWord) : Prop :=
  ∀ s f, Free s f cls os (part f) → when_ s f →
    ∃ t g o, run s = .next t ∧ Passes s t f g st ∧ blankOps g = blankOps f ∧ g.tokens = f.tokens ∧ g.symNext = f.symNext
      ∧ RegsAre f g noV noS noS (stepX f os) ∧ Holds s f g os o (V s f) noS noS (K f)

/-- An instruction whose result goes to an index register: `val` gives lane `l` of index register D in the lanes of EXM (R279). -/
def Indexes (run : Run) (x : Fields) (os : List Opnd) (val : Flight → Nat → Nat → Word) : Prop :=
  ∀ s f n, Free s f 1 os f.exm → okind x.d = .vx n false →
    ∃ t g, run s = .next t ∧ Passes s t f g x.st ∧ blankIssue g = blankIssue f
      ∧ RegsAre f g noV noS noS fun m l => if m = n ∧ f.exm.getLsbD l = true then some (val f n l) else stepX f os m l

/-! ### Operations on memory -/

/-- The instruction ends its clause and the header that follows opens a region (R307). -/
def EndsRegion (s : State) (f : Flight) : Prop :=
  f.isLast = true ∧ ∃ w ws, s.fetchWord f 256 ((f.pc + 4 * f.wordCount) % 2 ^ 48) = .ok (w :: ws) ∧ hdrOk w = true ∧ hdrRgn w = true

/-- What is asked of every memory instruction beyond `Free`: its token is not full (R235), no FENCE is outstanding (R322), nothing it must wait for stands
in the residual queue (R192), and its bucket has room for the charge (R92). -/
structure Clear (s : State) (f : Flight) (sb : Option Nat) (charge : Nat) : Prop where
  token : ∀ k, sb = some k → f.token k < 63
  fence : f.fenced = false
  queue : f.deferring = false ∨ f.residual = []
  bucket : charge = 0 ∨ 1 ≤ s.bucket (bucketKey s f)

/-- An instruction that starts an operation on memory, for the accesses `acc` that its lanes make: as it issues, no register result and no byte of memory
changes; token `sb` rises; the operation joins the outstanding ones with its accesses and what `is_` says of it; the bucket is charged. With
no access it is done at once (R305). `pre` is what else changes in the flight. -/
def Starts (run : Run) (cls st : Nat) (os : List Opnd) (part : Flight → DWord) (sb : Option Nat) (charge : State → Flight → List Access → Nat)
    (when_ : State → Flight → List Access → Prop) (pre : Flight → Flight) (is_ : State → Flight → List Access → Op → Prop) : Prop :=
  ∀ s f acc, Free s f cls os (part f) → when_ s f acc → Clear s f sb (charge s f acc) →
    ∃ t g, run s = .next (t.spend f (charge s f acc)) ∧ Passes s t f g st ∧ blankOps g = blankOps (pre f)
      ∧ RegsAre f g noV noS noS (stepX f os)
      ∧ if acc = [] then g.ops = f.ops ∧ ∀ k, g.token k = f.token k
        else (∀ k, g.token k = f.token k + if sb = some k then 1 else 0)
          ∧ ∃ o, g.ops = f.ops ++ [o] ∧ o.seq = f.seq ∧ o.pc = f.pc ∧ o.sb = sb ∧ is_ s f acc o

/-- Lanes of EXM with their addresses. -/
def laneAddrs (f : Flight) (a : Nat → Nat) : List (Nat × Nat) := (lanesOf f.exm).map fun l => (l, a l)

/-! ### Operands and legal words -/

/-- Operand `pos` (0 D, 1 A, 2 B, 3 C) of `regs` registers, written or read. -/
def dst (pos spec : Nat) (kinds : List KTag) (regs : Nat := 1) : Opnd := { pos, spec, use := .dst, kinds, regs, align := regs }
def src (pos spec : Nat) (kinds : List KTag) (regs : Nat := 1) : Opnd := { pos, spec, use := .src, kinds, regs, align := regs }
/-- Operand B, when it is a register (R247). -/
def srcB (b : BSrc) (kinds : List KTag) (regs : Nat := 1) : List Opnd := match b with | .spec n => [src 2 n kinds regs] | .imm _ => []

/-- What a scalar operand may be, and a scalar result (R244). -/
def sK : List KTag := [.s, .z, .p, .e]
def sD : List KTag := [.s, .z, .p]
/-- What a vector operand may be, and a vector result (R245, R282). -/
def vK : List KTag := [.v, .vx, .vxp, .s, .z, .l]
def fK : List KTag := [.v, .vx, .vxp, .s, .z]
def vD : List KTag := [.v, .vx, .z]

/-- No reserved bit, RM or FS in the word, and MOD below `mods` (R232, R248). -/
def Tidy (x : Fields) (mods : Nat) : Prop := x.resv = 0 ∧ x.rm = 0 ∧ x.fs = 0 ∧ x.mod < mods
/-- The same for an instruction that takes a rounding mode. -/
def TidyFp (x : Fields) (mods : Nat) : Prop := x.resv = 0 ∧ x.fs = 0 ∧ x.mod < mods
/-- C is not used. -/
def NoC (x : Fields) : Prop := unused x.c = true
/-- B is not used. -/
def NoB (x : Fields) : Prop := x.b.unused = true
/-- A is not used. -/
def NoA (x : Fields) : Prop := unused x.a = true
/-- The word has layout LI, or layout LR or a short form (R230, R247). -/
def IsLI (x : Fields) : Prop := x.li = true
def IsLR (x : Fields) : Prop := x.short = true ∨ x.li = false

/-- Registers of a value of type TYP, and an operand as a number under it (R246). -/
def regsOf (typ : Nat) : Nat := if typ % 2 = 1 then 2 else 1
def numOf (typ w a : Nat) : Int := if typ < 2 then (BitVec.ofNat w a).toInt else a

/-- Conditions .eq, .ne, .lt, .le, .gt and .ge (R253, R269). -/
def condHolds (k : Nat) (a b : Int) : Bool :=
  [decide (a = b), decide (a ≠ b), decide (a < b), decide (a ≤ b), decide (a > b), decide (a ≥ b)].getD k false

/-- A vote over the lanes of EXM, kinds .all, .any, .ballot and .eq (R274). -/
def vote (g : Flight) (kind : Nat) (a : Nat → Nat) : DWord :=
  let q := lanesOf g.exm
  if kind = 2 then maskOf (q.filter fun l => decide (a l ≠ 0))
  else if kind = 0 ∧ (∀ l ∈ q, a l ≠ 0) ∨ kind = 1 ∧ (∃ l ∈ q, a l ≠ 0) ∨ kind = 3 ∧ (∀ l ∈ q, ∀ k ∈ q, a l = a k) then BitVec.allOnes 64 else 0

/-- The lane that VSHFL reads for lane `l`, its own when the source lies outside (R272). -/
def shuffleFrom (mode k l : Nat) : Nat :=
  if mode = 0 then k % 64
  else if mode = 1 then (if k ≤ l then l - k else l)
  else if mode = 2 then (if l + k ≤ 63 then l + k else l)
  else l ^^^ k % 64

/-- Operations .add, .min, .max, .and, .or and .xor on numbers of `w` bits under TYP, and their identities (R275). -/
def combine (op typ w v a : Nat) : Nat :=
  if op = 0 then (v + a) % 2 ^ w
  else if op = 1 then (if numOf typ w a < numOf typ w v then a else v)
  else if op = 2 then (if numOf typ w v < numOf typ w a then a else v)
  else if op = 3 then v &&& a
  else if op = 4 then v ||| a
  else v ^^^ a
def neutral (op typ w : Nat) : Nat :=
  if op = 1 then (if typ < 2 then 2 ^ (w - 1) - 1 else 2 ^ w - 1)
  else if op = 2 then (if typ < 2 then 2 ^ (w - 1) else 0)
  else if op = 3 then 2 ^ w - 1
  else 0

/-- The class of a code, as the bit that FCLASS sets (R290). -/
def classBit (F : Fmt) (code : Nat) : Nat :=
  match F.decode code with
  | .nan signalling => if signalling then 8 else 9
  | .inf neg => if neg then 0 else 7
  | .num neg m _ =>
    if m = 0 then (if neg then 3 else 4)
    else if code % 2 ^ (F.w - 1) < 2 ^ (F.p - 1) then (if neg then 2 else 5)
    else if neg then 1 else 6

/-- An affine operand (R298), and an affine value written to affine register `spec` in the lanes of EXM: all 16 slots. -/
def affO (pos spec : Nat) (use : Use) : Opnd := { pos, spec, use, kinds := [.a] }
def toA (s : State) (f : Flight) (spec : Nat) (val : Nat → Aff) (n l : Nat) : Option Word :=
  match okind spec with
  | .a k =>
    let b := affBase (s.afb f) k
    if f.exm.getLsbD l = true ∧ b ≤ n ∧ n < b + 16 then some (BitVec.ofNat 32 ((affPack (val l)).getD (n - b) 0)) else none
  | _ => none
/-- The affine register named by `spec` is canonical in the lanes of EXM (R185, R299). -/
def canonIn (s : State) (f : Flight) (spec : Nat) : Prop :=
  ∀ l < 64, f.exm.getLsbD l = true → canonical (slotsOf f (affBase (s.afb f) (aNum spec)) l) = true
/-- A symbol is left to mint (R186). -/
def canMint (f : Flight) : Prop := f.symNext.toNat ≤ f.symLimit.toNat ∧ f.symNext.toNat ≤ 4095
/-- Specifier of B; ZERO for an immediate. -/
def specB (b : BSrc) : Nat := match b with | .spec n => n | .imm _ => 328

/-! ### Tiles -/

/-- What is asked of every MAT instruction beyond `Free`: its token is not full (R235), the flight is no handler run (R345), and where tiles are named
the flight is not regrouped (R352), the tiles have a shape (R332), and those written are not being read (R332). -/
structure MatReady (f : Flight) (sb : Nat) (os : List Opnd) : Prop where
  token : f.token sb < 63
  user : f.isHandler = false
  home : (∃ o ∈ os, ∃ n, okind o.spec = .t n) → f.regrouped = false
  shaped : ∀ o ∈ os, ∀ n, okind o.spec = .t n → shapeV (f.shape n) = true
  unread : ∀ o ∈ os, o.use ≠ .src → ∀ n, okind o.spec = .t n → (∀ p ∈ f.ops, Reg.tile n ∉ p.reads) ∧ ∀ e ∈ f.residual, Reg.tile n ∉ e.tiles

/-- Bit `b` of tile `t`, from bit 0 of byte 0 (R182). -/
def tileBit (f : Flight) (t b : Nat) : Bool := (f.rdTile t (b / 8)).getLsbD (b % 8)
/-- A tile and a vector operand of class MAT. -/
def tileO (pos spec : Nat) (use : Use) : Opnd := { pos, spec, use, kinds := [.t] }
def multiO (pos spec : Nat) (use : Use) (kinds : List KTag) (regs align : Nat) : Opnd := { pos, spec, use, kinds, regs, align, multi := true }
/-- The element (row, column in bits), or the side-band byte (row, number), in which bit `b` of a tile lies. -/
def inRows (w : Word) (b : Nat) : Prop := b / 384 < shapeRows w ∧ b / 384 < 32 ∧ b % 384 < shapeCols w * shapeBits w
def inSide (w : Word) (b : Nat) : Prop := 12288 ≤ b ∧ (b - 12288) / 24 < shapeRows w ∧ (b - 12288) % 24 / 8 < scaleGroups w

/-- A MAT instruction with results that land later: registers `V` and `S`, bits `B` of tile `t`; `account` says what becomes of FSTAT and the generators,
and `u` what else changes as it issues. -/
def ComputesMat (run : Run) (st sb : Nat) (os : List Opnd) (part : Flight → DWord) (when_ : State → Flight → Prop)
    (V : Flight → Nat → Nat → Option Word) (S : Flight → Nat → Option DWord) (t : Nat) (B : State → Flight → Nat → Option Bool)
    (account : State → Flight → Flight → Prop) (u : Flight → State → State) : Prop :=
  ∀ s f, Free s f 4 os (part f) → MatReady f sb os → when_ s f →
    ∃ r g o, run s = .next (u f r) ∧ Passes s r f g st
      ∧ { blankOps g with fstat := 0, stoch := [] } = { blankOps f with fstat := 0, stoch := [] } ∧ account s f g
      ∧ (∀ k, g.token k = f.token k + if sb = k then 1 else 0) ∧ g.symNext = f.symNext
      ∧ RegsAre f g noV noS noS noV ∧ Holds s f g os o (V f) (S f) noS ∧ o.sb = some sb
      ∧ ∀ k < 16, ∀ b < 13056,
          tileBit (o.writes.foldl Flight.regWrite f) k b = if k = t then (B s f b).getD (tileBit f t b) else tileBit f k b
def noB : State → Flight → Nat → Option Bool := fun _ _ _ => none
/-- Nothing is counted or drawn. -/
def noAccount : State → Flight → Flight → Prop := fun _ f g => g.fstat = f.fstat ∧ ∀ l < 64, g.rng l = f.rng l

/-- A state passed through `n` draws, each given its number and the state before it. -/
def drawn (g : Nat → Nat → Nat) (st : Nat) : Nat → Nat
  | 0 => st
  | n + 1 => g n (drawn g st n)

/-- Operands that a MAT word does not use (R248). -/
def NoMat (x : TFields) (a b c : Bool) : Prop := (a = true → unused x.a = true) ∧ (b = true → unused x.b = true) ∧ (c = true → unused x.c = true)

/-! ### The forms of an instruction -/

/-- `P` holds of the short form and of the long form of an instruction. -/
def Both (sh : ShortOps → Instr) (lg : LongOps → Instr) (P : Fields → Run → Prop) : Prop :=
  (∀ o, P (ofShort o) fun s => exec (sh o) s) ∧ ∀ o, P (ofLong o) fun s => exec (lg o) s
/-- `P` holds of the long form. -/
def Long (lg : LongOps → Instr) (P : Fields → Run → Prop) : Prop := ∀ o, P (ofLong o) fun s => exec (lg o) s
/-- `P` holds of the I form, whose immediate is signed or not (Table 10-12), and of the long form. -/
def Imm (signed : Bool) (im : ImmOps → Instr) (lg : LongOps → Instr) (P : Fields → Run → Prop) : Prop :=
  (∀ o, P (ofImm signed o) fun s => exec (im o) s) ∧ ∀ o, P (ofLong o) fun s => exec (lg o) s

/-- A uniform result of fixed latency, written to scalar register or predicate D; EXM does not matter (R172, R244). -/
def Uniform (run : Run) (cls : Nat) (x : Fields) (os : List Opnd) (val : State → Flight → DWord) : Prop :=
  Computes run cls x.st os (fun _ => BitVec.allOnes 64) (fun _ _ => True) (fun _ _ => noV) (fun s f => toS x.d (val s f)) (fun s f => toP x.d (val s f))
/-- A lane result of fixed latency of `regs` registers, written to vector register D in the lanes of EXM (R245). -/
def Lanes (run : Run) (x : Fields) (os : List Opnd) (regs : Nat) (val : Flight → Nat → Nat) : Prop :=
  Computes run 1 x.st os Flight.exm (fun _ _ => True) (fun _ f => toV f f.exm x.d regs (val f)) (fun _ _ => noS) (fun _ _ => noS)

end Sys2Proof
end

