-- ==== Sys2Proof/Certificates/Slice0/Obligations.lean ====
section
/-! DEFINITION. What is claimed of the model. Each statement names the rules of the specification that it formalises, or the choice of the
model that it rests on. -/

open Sys2Proof Sys2Proof.Machine

/-! ### Words, steps and the machine as a whole -/

/-- R228 to R232 and Tables 10-6, 10-9, 11-1 and 12-2: words written out from the layouts decode to the instructions they stand for, one or more of each class. -/
def Obligations.WordsDecodeToTheirInstructions : Prop :=
  decode 0 [0x0C587180#32] = .ok (.sadd { cc := 0, st := 0, b := 98, a := 97, d := 99 }) [] ∧
  decode 0 [0x0FA032A8#32] = .ok (.smovi { cc := 0, st := 0, imm := 125, a := 0, d := 101 }) [] ∧
  decode 1 [0x0004A59F#32, 0x08000005#32] = .ok (.vcmpLong { cc := 0, st := 0, a := 4, d := 331, w1 := .lr 0 8 0 0 0 5 }) [] ∧
  decode 2 [0x60060201#32, 0x01040008#32] = .ok (.faddLong { cc := 3, st := 0, a := 6, d := 4, w1 := .lr 0 1 0 1 0 8 }) [] ∧
  decode 3 [0x69020201#32, 0x02030C09#32] =
    .ok (.ld { cc := 3, ty := 4, a := 258, d := 4, imm := 16, hint := 0, ord := 1, scope := 4, sb := 1, scl := 2, b := 9 }) [] ∧
  decode 4 [0x01632001#32, 0x09048164#32] =
    .ok (.mma { cc := 0, st := 0, a := 355, d := 64, resv := 0, sb := 1, fsb := 1, fsa := 0, rm := 1, c := 64, b := 356 }) [] ∧
  decode 5 [0x0154AA85#32, 0x00000156#32] = .ok (.aadd { cc := 0, st := 0, a := 340, d := 341, w1 := .lr 0 0 0 0 0 342 }) [] ∧
  decode 6 [0x0000000B#32, 0x00200106#32] =
    .ok (.semwait { cc := 0, st := 0, a := 0, d := 0, resv1 := 0, id := 4, ord := 0, scope := 0, sb := 0, resv2 := 0, b := 262 }) [] ∧
  decode 7 [0x814B0005#32, 0x00000007#32] = .ok (.brc { cc := 0, st := 0, a := 331, d := 0, mod := 0, off := 7 }) [] ∧
  decode 7 [0x00000013#32, 0x00000000#32] = .ok (.exit { cc := 0, st := 0, a := 0, d := 0, resv := 0, mod := 0, c := 0, b := 0 }) []

/-- R228 to R236: decoding the encoded words of a well-formed instruction, in a clause of its class and whatever words follow, gives the instruction with
every operand as it was, and leaves the words that follow. -/
def Obligations.EncodedInstructionsDecodeToThemselves : Prop :=
  ∀ (i : Instr) (cls : Nat) (rest : List Word), i.WellFormed → classOf i = some cls → decode cls (encode i ++ rest) = .ok i rest

/-- R228 to R236: words that decode are the encoded words of what they decode to, in that instruction's class, followed by the words that are left: no bit of
a word is dropped, and no two words are one instruction. -/
def Obligations.DecodedWordsAreTheEncoding : Prop :=
  ∀ (i : Instr) (cls : Nat) (ws rest : List Word), cls < 8 → decode cls ws = .ok i rest → classOf i = some cls ∧ encode i ++ rest = ws

/-- R222, R225, R236, R376, R392 and the agenda (logs 1, 93): when the flight that the agenda names stands in a clause whose next words decode to an instruction, and
no ready flight of its partition that may take the same slot issued less recently, the step is exec of that instruction, with the flight named and the
instruction kept; words that decode to none are the undefined instruction; a flight at a header takes it. An event of the agenda is exec of it; clocks pass as
the agenda says, one after another, for as long as no flight is due; the debug port may ask for a state, the memory device may tell what a pending fill's read found, and host or peer memory may start or cease to answer with errors. With an empty agenda the current flight issues once
its stall count has passed, and else a clock passes. -/
def Obligations.AStepRunsTheDecodedInstruction : Prop :=
  (∀ (s : State) (f : Flight) (n : Nat) (r : List Choice) (c : Clause), s.agenda = .issue n :: r → s.flight? n = some f → f.clause = some c →
    (State.hasTurn { s with agenda := r } f c.cls = true →
      (∀ (i : Instr) rest, decode c.cls c.words = .ok i rest → step s = exec i { s with agenda := r, cur := n, ins := some i }) ∧
      ∀ e, decode c.cls c.words = .bad e →
        let i : Instr := .undefinedInstruction (BitVec.ofNat 3 c.cls) (c.words.headD 0) (c.words.tail.headD 0)
        step s = exec i { s with agenda := r, cur := n, ins := some i }) ∧
    (State.hasTurn { s with agenda := r } f c.cls = false → step s = .next { s with agenda := r, cur := n })) ∧
  (∀ (s : State) (f : Flight) (cls : Nat),
    s.hasTurn f cls = true ↔ ∀ g ∈ s.flights, g.partKey = f.partKey → g.lastIssue < f.lastIssue → (s.due g).rivals cls = false) ∧
  (∀ (s : State) (f : Flight) (n : Nat) (r : List Choice), s.agenda = .issue n :: r → s.flight? n = some f → f.clause = none →
    step s = exec .clauseHeaderIssue { s with agenda := r, cur := n }) ∧
  (∀ (s : State) (n : Nat) (r : List Choice), s.agenda = .issue n :: r → s.flight? n = none → step s = .next { s with agenda := r, cur := n }) ∧
  (∀ (s : State) (i : Instr) (r : List Choice), s.agenda = .event i :: r → step s = exec i { s with agenda := r }) ∧
  (∀ (s : State) (n : Nat) (r : List Choice), s.agenda = .advance n :: r → step s = .next (State.passes n { s with agenda := r })) ∧
  (∀ s : State, State.passes 0 s = s) ∧
  (∀ (s : State) (n : Nat), State.passes (n + 1) s =
    if ∀ f ∈ s.flights, s.mustSwap f = false ∧ s.due f = .no then State.passes n (s.passClocks 1) else s) ∧
  (∀ (s : State) (st : Nat) (r : List Choice), s.agenda = .debugState st :: r → step s = .next (State.askDebug { s with agenda := r } st)) ∧
  (∀ (s : State) (line : Nat) (found : List EccFinding) (r : List Choice), s.agenda = .readFinds line found :: r →
    step s = .next (State.readFinds { s with agenda := r } line found)) ∧
  (∀ (s : State) (line : Nat) (fails : Bool) (r : List Choice), s.agenda = .outerFails line fails :: r →
    step s = .next (State.outerFails { s with agenda := r } line fails)) ∧
  (∀ s : State, s.agenda = [] → (∀ f, s.flight? s.cur = some f → s.clock < f.nextIssue) → step s = .next (State.passes 1 s)) ∧
  ∀ (s : State) (f : Flight), s.agenda = [] → s.flight? s.cur = some f → f.nextIssue ≤ s.clock → step s = step { s with agenda := [.issue s.cur] }

/-- R170, R436, R437, R440 and the reset columns of Tables 17-7, 18-5, 18-6, 18-11 and 18-12: after reset nothing is resident, no translation or line is cached,
the device registers hold their reset values, a byte of memory reads 0 (the model's choice, log 3), and the two invariants below hold. -/
def Obligations.ResetLeavesTheRegistersAtTheirResetValues : Prop :=
  let s := State.reset
  (s.flights = [] ∧ s.wgs = [] ∧ s.launches = [] ∧ s.cmds = [] ∧ s.barriers = []) ∧
  (s.mem.l2 = [] ∧ s.mem.l1 = [] ∧ s.mem.far = [] ∧ s.mem.blocks = [] ∧ s.mem.transit = [] ∧ s.mem.poison = [] ∧ s.tr.tlb = [] ∧ s.tr.wcache = []) ∧
  (s.reg 0x0 = 0 ∧ s.reg 0x100 = 0x40000 ∧ s.reg 0x108 = 0x79 ∧ s.reg 0x110 = 0x1010 ∧ s.reg 0x200 = 0x8 ∧ s.reg 0x300 = 0xC) ∧
  (∀ q < 256, ∀ k < 6, s.reg (0x20000 + 64 * q + 8 * k) = 0) ∧
  (∀ d < 8, s.reg (0x100000 + 0x10000 * d) = 0 ∧ s.reg (0x100008 + 0x10000 * d) = 0x100008101401) ∧
  (∀ a, s.homeByte a = 0) ∧
  (Memory.wf s.mem.bytes ∧ (∀ w ∈ s.wgs, Memory.wf w.mem) ∧ s.dev.badList.length ≤ 4096 ∧ s.dev.dbg < 3) ∧
  (s.flights.map Flight.id).Nodup ∧ (s.wgs.map Workgroup.id).Nodup ∧ (s.launches.map Launch.id).Nodup

/-- Memory stays in its canonical form, in the memory devices and in every allocation, through every step from any state that has it; the bad-frame list never
grows past the 4096 entries of R22, and the debug state stays one of the three of Table 18-9. -/
def Obligations.EveryStepKeepsMemoryCanonical : Prop :=
  let Inv (s : State) : Prop :=
    Memory.wf s.mem.bytes ∧ (∀ w ∈ s.wgs, Memory.wf w.mem) ∧ s.dev.badList.length ≤ 4096 ∧ s.dev.dbg < 3
  ∀ s t : State, Inv s → step s = .next t → Inv t

/-- The handles of flights, workgroups and launches stay distinct and below the next fresh one (log 1), through every step from any state in which they are; so a
flight named by an instruction, a trap or an operation is one flight. -/
def Obligations.EveryStepKeepsHandlesDistinct : Prop :=
  let apart (l : List Nat) (n : Nat) : Prop := l.Nodup ∧ ∀ k ∈ l, k < n
  let Inv (s : State) : Prop :=
    apart (s.flights.map Flight.id) s.nextId ∧ apart (s.wgs.map Workgroup.id) s.nextId ∧ apart (s.launches.map Launch.id) s.nextId
  ∀ s t : State, Inv s → step s = .next t → Inv t

/-- No instruction and no event is refused, and none stops the machine: exec answers a next state, but that an instruction, which only a flight executes (R222),
faults where the flight named does not exist; and a step whose agenda does not name an instruction directly always answers a next state. -/
def Obligations.EveryInstructionAnswersANextState : Prop :=
  let ofFlight (i : Instr) : Prop := (classOf i).isSome = true ∨ ∃ c w0 w1, i = .undefinedInstruction c w0 w1
  (∀ (i : Instr) (s : State), ¬ ofFlight i → ∃ t : State, exec i s = .next t) ∧
  (∀ (i : Instr) (s : State) (f : Flight), s.flight? s.cur = some f → ∃ t : State, exec i s = .next t) ∧
  (∀ (i : Instr) (s : State), ofFlight i → s.flight? s.cur = none → exec i s = .fault (.noSuchFlight s.cur)) ∧
  ∀ s : State, (∀ i r, s.agenda = .event i :: r → ¬ ofFlight i) → ∃ t : State, step s = .next t

/-- R196, R398, R401, R402, R404, R405, R409, R359, R360, R414: a trap stops the flight with the frame of Tables 17-2 and 17-3, all its registers as they were,
and it leaves the active set unless its residual queue holds it there; in a handler it ends the launch; resumption goes on at the place, at a header, or at the region's start with its counts, EXM and stack depth; a kill takes lanes from
DEADLANES, EXM and the stack, is reported, and ends a flight with no lane left. -/
def Obligations.TrapsSaveTheirFrameAndResumptionReturns : Prop :=
  (∀ (s : State) (f : Flight) (t : TrapInfo), s.flight? f.id = some f → f.isHandler = false → t.code < 256 → t.code ≠ 0x19 →
    (t.code = 0x21 ∨ t.code = 0x22 → s.dev.dbg ≠ 2) →
      ∃ (u : State) (g : Flight) (r0 : DWord), s.raiseTrap f.id t = u ∧ u.flight? f.id = some g ∧ (f.residual = [] → g.isActive = false) ∧ (f.residual ≠ [] → g.place = f.place) ∧
        g.trap = some { phase := .raised, order := s.clock, frame :=
          [r0, BitVec.ofNat 64 (t.pc.getD f.pc % 2 ^ 48),
           BitVec.ofNat 64 ((if t.restart = true ∧ t.code ≠ 0x1A then t.pc.getD f.pc else f.pc) % 2 ^ 48),
           BitVec.ofNat 64 (f.region.start % 2 ^ 48), BitVec.ofNat 32 t.xtra ++ f.rgnc, t.mask, BitVec.ofNat 64 t.addr, BitVec.ofNat 64 t.aux] } ∧
        r0 = BitVec.ofNat 8 0 ++ BitVec.ofNat 8 t.info ++ BitVec.ofNat 8 t.cause ++ BitVec.ofNat 10 0 ++ BitVec.ofBool t.held ++ BitVec.ofBool f.region.valid
          ++ BitVec.ofBool t.restart ++ BitVec.ofBool f.isShadow ++ BitVec.ofNat 5 f.fidx ++ BitVec.ofNat 13 0 ++ BitVec.ofNat 8 t.code ∧
        { g with trap := f.trap, place := f.place, slots := f.slots, fixed := f.fixed, wait := f.wait, walkRes := f.walkRes, heldInstr := f.heldInstr } = f ∧
        (∀ k, k ≠ f.id → u.flight? k = s.flight? k) ∧
        { u with flights := s.flights } = s) ∧
  (∀ (s : State) (f : Flight) (l : Launch) (t : TrapInfo), s.flight? f.id = some f → f.isHandler = true → s.launch? f.launch = some l → l.phase = .running →
    ∃ fr, (s.raiseTrap f.id t).launch? f.launch = some { l with phase := .ending 2 fr } ∧
      ∀ g ∈ (s.raiseTrap f.id t).flights, g.launch = f.launch → g.place = .ended ∧ g.trap = none ∧ g.residual = [] ∧
        ∀ o ∈ g.ops, o.dests = [] ∨ o.kind = .atomic) ∧
  (∀ (f : Flight) (n : Nat), f.region.depth ≤ f.depth →
    let rs (g : Flight) : Prop :=
      g.trap = none ∧ g.pc = f.region.start ∧ g.clause = none ∧ g.exm = f.region.exm &&& f.live ∧ g.depth = f.region.depth ∧ g.counts = f.snap ∧ g.slots = []
        ∧ g.residual = [] ∧ g.v = f.v ∧ g.s = f.s ∧ g.p = f.p ∧ g.x = f.x ∧ g.tiles = f.tiles ∧ g.symNext = f.symNext ∧ g.fstat = f.fstat ∧ g.stoch = f.stoch
        ∧ g.marks = f.marks ∧ g.rgnc = f.rgnc
    rs (f.resume 1 n) ∧
    (∀ t, f.trap = some t → (t.frame.getD 0 0).getLsbD 27 = true → rs (f.resume 0 n)) ∧
    (∀ t, f.trap = some t → (t.frame.getD 0 0).getLsbD 27 = false → { f.resume 0 n with trap := f.trap, ops := f.ops } = f ∧ (f.resume 0 n).trap = none) ∧
    (f.resume 2 n).trap = none ∧ (f.resume 2 n).pc = n % 2 ^ 64 ∧ (f.resume 2 n).clause = none ∧ (f.resume 2 n).exm = f.exm ∧ (f.resume 2 n).stack = f.stack) ∧
  ∀ (s : State) (f : Flight) (m : DWord) (fr : List DWord), s.flight? f.id = some f → s.partner f = none →
    (m &&& ~~~f.dead = 0 → s.killLanesOf f.id m fr = s) ∧
    (m &&& ~~~f.dead ≠ 0 →
      let g : Flight := { (f.stackLess (m &&& ~~~f.dead)) with dead := f.dead ||| m, exm := f.exm &&& ~~~(m &&& ~~~f.dead) }
      let t := (s.setFlight g).reportFlight f 5 [(m &&& ~~~f.dead).toNat, (f.dead ||| m).toNat, f.fidx] fr
      s.killLanesOf f.id m fr = if g.live = 0 ∧ f.regrouped = false ∧ f.isHandler = false then t.endFlight f.id else t)

/-- R175 to R178, R189, R225, R233, R234, R236, R237: whatever the instruction (`d` is its description), one that may issue traps 0x03, 0x01 or 0x02 on its
encoding, in this order; waits while a register of it is pending, with nothing changed but its place; traps 0x06 on an index out of bounds, 0x05 on a released
register, and with checking on 0x04 on a result not yet delivered. A write sets a directly named register's count to CC and a read lowers a count of 1 or 2. Words that are no
instruction trap 0x01, or 0x03 with CAUSE 2 for a short word in a class that has long words only and CAUSE 3 for a control transfer that is not its clause's
last. -/
def Obligations.InstructionsMeetEncodingTrapsWaitsAndCounts : Prop :=
  let plain (d : Desc) (f : Flight) : Prop := f.fenced = false ∨ d.ordered = false
  let mask (d : Desc) (f : Flight) : DWord := if d.perLane then f.exm else BitVec.allOnes 64
  let legal (d : Desc) (s : State) (f : Flight) : Prop :=
    plain d f ∧ (d.transfer = true → f.isLast = true) ∧ d.encBad = false ∧ (∀ o ∈ d.opnds, o.bad f (s.afb f) = false) ∧ d.scopeBad = false ∧ d.codeBad = false
      ∧ d.tileClash f = false
  let free (d : Desc) (s : State) (f : Flight) : Prop :=
    legal d s f ∧ (d.dkind = .normal ∨ d.dkind = .stop) ∧ ∀ r ∈ d.regs f (s.afb f), f.isPending r = false
  let early (d : Desc) (s : State) (f : Flight) : List Fixed := f.fixed.filter fun x => decide (s.clock < x.ready) && decide (x.reg ∈ d.regs f (s.afb f))
  (∀ d : Desc,
    Traps (issue d) d.cls (fun _ f => plain d f ∧ d.transfer = true ∧ f.isLast = false) (fun _ _ => { code := 0x03, cause := 3, mask := BitVec.allOnes 64 }) ∧
    Traps (issue d) d.cls (fun _ f => plain d f ∧ (d.transfer = true → f.isLast = true) ∧ d.encBad = true)
      (fun _ f => { code := 0x01, mask := mask d f, aux := f.bothWords }) ∧
    (∀ pre o post, d.opnds = pre ++ o :: post →
      Traps (issue d) d.cls (fun s f => plain d f ∧ (d.transfer = true → f.isLast = true) ∧ d.encBad = false ∧ (∀ p ∈ pre, p.bad f (s.afb f) = false) ∧ o.bad f (s.afb f) = true)
        fun _ f => { code := 0x02, cause := o.pos, mask := mask d f, aux := o.spec }) ∧
    (∀ (s : State) (f : Flight), Ready s f d.cls → legal d s f → (d.dkind = .normal ∧ f.deferring = false ∨ d.dkind = .stop) → d.chained = (fun _ => []) →
      (∃ r ∈ d.regs f (s.afb f), f.isPending r = true) →
        ∃ (t : State) (g : Flight), issue d s = .next t ∧ t.flight? f.id = some g ∧ { t with flights := s.flights } = s
          ∧ { g with place := f.place, slots := f.slots, fixed := f.fixed, blocked := f.blocked } = f ∧ ∀ k, k ≠ f.id → t.flight? k = s.flight? k) ∧
    (∀ (s : State) (f : Flight) (n : Nat) (post : Bool) pre o suf, Ready s f d.cls → f.isHandler = false → free d s f → (early d s f = [] ∨ s.checking f = true) →
      d.opnds = pre ++ o :: suf → (∀ p ∈ pre, p.failLanes f 6 = []) → o.failLanes f 6 ≠ [] → okind o.spec = .vx n post →
        ∃ m : DWord, issue d s = .next (s.raiseTrap f.id { code := 0x06, info := n, mask := m })
          ∧ ∀ l < 64, m.getLsbD l = true ↔ ∃ p ∈ d.opnds, l ∈ p.failLanes f 6) ∧
    (∀ n, Traps (issue d) d.cls (fun s f => free d s f ∧ (early d s f = [] ∨ s.checking f = true) ∧ (∀ o ∈ d.opnds, ∀ c, o.failLanes f c = []) ∧
        (∀ c s, d.chk02 c s = none) ∧ countReads f (s.afb f) d.opnds f.counts = .error n) fun _ f => { code := 0x05, mask := mask d f, aux := n }) ∧
    ∀ x, Traps (issue d) d.cls (fun s f => free d s f ∧ (early d s f).head? = some x ∧ s.checking f = true ∧ (∀ o ∈ d.opnds, ∀ c, o.failLanes f c = []) ∧
        (∀ c s, d.chk02 c s = none) ∧ ∃ m, countReads f (s.afb f) d.opnds f.counts = .ok m)
      fun s f => { code := 0x04, info := x.ready - s.clock, mask := mask d f, aux := x.pc }) ∧
  (∀ o : LongOps, ∀ (s : State) (f : Flight) (n m : Nat), let x := ofLong o
    Tidy x 2 → x.mod = 0 → NoC x → IsLR x → NoB x → x.d = n → n < 256 → x.a = m → m < 256 → n ≠ m →
      (f.count m = 0 → Ready s f 1 → f.isHandler = false → (∀ p ∈ [dst 0 x.d vD, src 1 m vK], p.bad f (s.afb f) = false) → f.pendingRegs = [] → f.fixed = [] →
        exec (.vmovLong o) s = .next (s.raiseTrap f.id { code := 0x05, mask := f.exm, aux := m })) ∧
      (Free s f 1 [dst 0 x.d vD, src 1 m vK] f.exm →
        ∃ (t : State) (g : Flight), exec (.vmovLong o) s = .next t ∧ t.flight? f.id = some g ∧ g.count n = BitVec.ofNat 2 x.cc
          ∧ g.count m = (if f.count m = 3 then 3 else f.count m - 1) ∧ ∀ k, k ≠ n → k ≠ m → g.count k = f.count k)) ∧
  ∀ (cls : BitVec 3) (w0 w1 : Word),
    if 3 ≤ cls.toNat ∧ w0.getLsbD 0 = false then
      Traps (fun s => exec (.undefinedInstruction cls w0 w1) s) cls.toNat (fun _ _ => True) fun _ _ => { code := 0x03, cause := 2, mask := BitVec.allOnes 64 }
    else
      let transfer : Prop := cls = 7 ∧ 1 ≤ (w0.extractLsb' 1 6).toNat ∧ (w0.extractLsb' 1 6).toNat ≤ 12
      Traps (fun s => exec (.undefinedInstruction cls w0 w1) s) cls.toNat (fun _ f => transfer ∧ f.isLast = false)
        (fun _ _ => { code := 0x03, cause := 3, mask := BitVec.allOnes 64 }) ∧
      Traps (fun s => exec (.undefinedInstruction cls w0 w1) s) cls.toNat
        (fun _ f => (transfer → f.isLast = true) ∧ (f.fenced = false ∨ cls ≠ 3 ∧ cls ≠ 6)
          ∧ ∃ c r, f.clause = some c ∧ (c.words = w0 :: w1 :: r ∨ w0.getLsbD 0 = false ∧ c.words = w0 :: r))
        fun _ f => { code := 0x01, mask := if cls = 1 ∨ cls = 2 ∨ cls = 3 ∨ cls = 5 then f.exm else BitVec.allOnes 64,
                     aux := w0.toNat + if w0.getLsbD 0 then w1.toNat * 2 ^ 32 else 0 }

/-! ### Class SCALAR -/

/-- R251: SADD, SSUB, SMUL, SMULH, SMULHN, SAND, SOR, SXOR, SSHL, SSHR, SSRA, SMIN, SMAX, SMINN and SMAXN, in the forms S, LR and LI, write
D := f(A, B) as Table 11-2 gives it, with a shift count read as an unsigned 64-bit value. D may be a scalar register, a predicate, or
ZERO, which discards the result. Nothing else changes but the flight's place in the program and the counts of R178. -/
def Obligations.ScalarArithmeticWritesTable11_2 : Prop :=
  let P (f : DWord → DWord → DWord) (x : Fields) (run : Run) : Prop :=
    Tidy x 1 → NoC x →
      Uniform run 0 x (dst 0 x.d sD :: src 1 x.a sK :: srcB x.b sK) fun _ g => f (rdUni g x.a) (x.b.uni g)
  Both .sadd .saddLong (P fun a b => a + b) ∧
  Both .ssub .ssubLong (P fun a b => a - b) ∧
  Both .smul .smulLong (P fun a b => a * b) ∧
  Both .smulh .smulhLong (P fun a b => (a.signExtend 128 * b.signExtend 128).extractLsb' 64 64) ∧
  Both .smulhn .smulhnLong (P fun a b => (a.zeroExtend 128 * b.zeroExtend 128).extractLsb' 64 64) ∧
  Both .sand .sandLong (P fun a b => a &&& b) ∧
  Both .sor .sorLong (P fun a b => a ||| b) ∧
  Both .sxor .sxorLong (P fun a b => a ^^^ b) ∧
  Both .sshl .sshlLong (P fun a b => a <<< b.toNat) ∧
  Both .sshr .sshrLong (P fun a b => a >>> b.toNat) ∧
  Both .ssra .ssraLong (P fun a b => a.sshiftRight b.toNat) ∧
  Both .smin .sminLong (P fun a b => if a.toInt ≤ b.toInt then a else b) ∧
  Both .smax .smaxLong (P fun a b => if a.toInt ≤ b.toInt then b else a) ∧
  Both .sminn .sminnLong (P fun a b => if a.toNat ≤ b.toNat then a else b) ∧
  Both .smaxn .smaxnLong (P fun a b => if a.toNat ≤ b.toNat then b else a)

/-- R253 to R257: SCMP, SSEL, SMOV, SMOVI, SMOVH, SPOPC, SCLZ and SADDX write what their entries give to D, and nothing else. -/
def Obligations.ScalarCompareMoveCountWriteD : Prop :=
  Both .scmp .scmpLong (fun x run => Tidy x 12 → NoC x →
    Uniform run 0 x (dst 0 x.d sD :: src 1 x.a sK :: srcB x.b sK) fun _ g =>
      let a := rdUni g x.a; let b := x.b.uni g
      if (if x.mod % 2 = 1 then condHolds (x.mod / 2) a.toNat b.toNat else condHolds (x.mod / 2) a.toInt b.toInt) then BitVec.allOnes 64 else 0) ∧
  Long .ssel (fun x run => Tidy x 1 →
    Uniform run 0 x (dst 0 x.d sD :: src 1 x.a sK :: (srcB x.b sK ++ [src 3 x.c sK])) fun _ g =>
      if rdUni g x.c = 0 then x.b.uni g else rdUni g x.a) ∧
  Both .smov .smovLong (fun x run => Tidy x 1 → IsLR x → NoC x → NoB x →
    Uniform run 0 x [dst 0 x.d sD, src 1 x.a sK] fun _ g => rdUni g x.a) ∧
  Imm true .smovi .smoviLong (fun x run => Tidy x 1 → IsLI x → NoA x → Uniform run 0 x [dst 0 x.d sD] fun _ g => x.b.uni g) ∧
  Imm false .smovh .smovhLong (fun x run => Tidy x 1 → IsLI x →
    Uniform run 0 x [dst 0 x.d sD, src 1 x.a [.s, .z]] fun _ g => (x.b.uni g).setWidth 32 ++ (rdUni g x.a).setWidth 32) ∧
  Both .spopc .spopcLong (fun x run => Tidy x 1 → IsLR x → NoC x → NoB x →
    Uniform run 0 x [dst 0 x.d [.s, .z], src 1 x.a sK] fun _ g =>
      BitVec.ofNat 64 (lanes.countP fun i => (rdUni g x.a).getLsbD i)) ∧
  Both .sclz .sclzLong (fun x run => Tidy x 1 → IsLR x → NoC x → NoB x →
    Uniform run 0 x [dst 0 x.d [.s, .z], src 1 x.a sK] fun _ g =>
      BitVec.ofNat 64 (lanes.takeWhile fun i => !(rdUni g x.a).getLsbD (63 - i)).length) ∧
  Long .saddx (fun x run => Tidy x 4 →
    Uniform run 0 x (dst 0 x.d [.s, .z] :: src 1 x.a sK :: (srcB x.b sK ++ [src 3 x.c sK])) fun _ g =>
      let a := rdUni g x.a; let b := x.b.uni g; let k : DWord := if (rdUni g x.c).getLsbD 0 then 1 else 0
      if x.mod = 0 then a + b + k
      else if x.mod = 1 then (if 2 ^ 64 ≤ a.toNat + b.toNat + k.toNat then 1 else 0)
      else if x.mod = 2 then a - b - k
      else if a.toNat < b.toNat + k.toNat then 1 else 0)

/-- R252: SDIV and SREM issue and leave an operation outstanding, with D pending, whose result is the quotient or the remainder, truncated toward
zero, signed for MOD 0 and unsigned for MOD 1; a divisor of 0 gives all ones and the dividend. No case traps. -/
def Obligations.ScalarDivisionLandsLater : Prop :=
  let quot (n : Bool) (a b : DWord) : DWord := if b = 0 then BitVec.allOnes 64 else if n then a / b else a.sdiv b
  let rem (n : Bool) (a b : DWord) : DWord := if n then a % b else a.srem b
  let P (f : Bool → DWord → DWord → DWord) (x : Fields) (run : Run) : Prop :=
    Tidy x 2 → NoC x →
      ComputesLate run 0 x.st (dst 0 x.d [.s, .z] :: src 1 x.a sK :: srcB x.b sK) (fun _ => BitVec.allOnes 64) false (fun _ _ => True)
        (fun _ _ => noV) (fun _ g => toS x.d (f (decide (x.mod = 1)) (rdUni g x.a) (x.b.uni g))) (fun _ _ => noS)
  Both .sdiv .sdivLong (P quot) ∧ Both .srem .sremLong (P rem)

/-- R258, R261 to R263: SLDA leaves the word of the launch record outstanding; SRD writes the special register of Table 11-4 that a few states of
the flight hold to D; SWR with code 17 or 18 in a privileged flight writes RGNC or SYMNEXT of the flight it acts on (in a handler run, the
flight being handled), SYMNEXT with 13 bits and never below 16, and in a flight that is not privileged raises trap 0x11; with another listed code it raises trap 0x02 and with an
unlisted one trap 0x01, in every flight; VLANE2S writes the value of a lane, 0 for a dead one. -/
def Obligations.ScalarRecordSpecialAndLaneRegisters : Prop :=
  ( Imm false .slda .sldaLong (fun x run => Tidy x 1 → IsLI x →
      ComputesLate run 0 x.st [dst 0 x.d [.s, .z], src 1 x.a [.s, .z]] (fun _ => BitVec.allOnes 64) false
        (fun _ g => (rdUni g x.a).toNat + x.b.immU < 64) (fun _ _ => noV)
        (fun s g => toS x.d ((s.launchOf g).word ((rdUni g x.a).toNat + x.b.immU))) (fun _ _ => noS)) ∧
    Imm false .srd .srdLong (fun x run => Tidy x 1 → IsLI x → NoA x → x.b.immU ≤ 12 ∨ 16 ≤ x.b.immU ∧ x.b.immU ≤ 19 →
      let val (s : State) (g : Flight) : DWord :=
        match x.b.immU with
        | 1 => BitVec.ofNat 64 (g.homeOf 0 / 64)
        | 2 => BitVec.ofNat 64 (recNfl (s.recOf g))
        | 3 => BitVec.ofNat 64 (s.wgOf g).w
        | 4 => BitVec.ofNat 64 (recNwg (s.recOf g))
        | 5 => BitVec.ofNat 64 (s.wgOf g).c
        | 6 => BitVec.ofNat 64 (recNcl (s.recOf g))
        | 7 => BitVec.ofNat 64 (s.wgOf g).d
        | 8 => BitVec.ofNat 64 (recNdie (s.recOf g))
        | 9 => BitVec.ofNat 64 (s.wgOf g).s
        | 10 => BitVec.ofNat 64 g.core
        | 11 => BitVec.ofNat 64 g.part
        | 12 => BitVec.ofNat 64 (s.launchOf g).va
        | 16 => g.dead
        | 17 => g.rgnc.setWidth 64
        | 18 => g.symNext.setWidth 64
        | _ => g.symLimit.setWidth 64
      let laneVal (s : State) (g : Flight) (l : Nat) : Nat :=
        if x.b.immU = 0 then g.homeOf l % 64 else if x.b.immU = 1 then g.homeOf l / 64 else (val s g).toNat % 2 ^ 32
      (x.b.immU ≠ 0 → ∀ n, okind x.d = .s n →
        Computes run 0 x.st [dst 0 x.d [.s, .z, .v, .vx]] (fun _ => BitVec.allOnes 64) (fun _ _ => True) (fun _ _ => noV)
          (fun s g => toS x.d (val s g)) (fun _ _ => noS)) ∧
      ((∃ n, okind x.d = .v n) ∨ (∃ n p, okind x.d = .vx n p) →
        Computes run 0 x.st [dst 0 x.d [.s, .z, .v, .vx]] Flight.exm (fun _ _ => True)
          (fun s g => toV g g.exm x.d 1 (laneVal s g)) (fun _ _ => noS) (fun _ _ => noS))) ∧
    Both .vlane2s .vlane2sLong (fun x run => Tidy x 3 → NoC x →
      let regs := if x.mod = 2 then 2 else 1
      Uniform run 0 x (dst 0 x.d [.s, .z] :: src 1 x.a [.v] regs :: srcB x.b [.s, .z]) fun _ g =>
        let j := ((x.b.uni g).setWidth 6).toNat
        if g.dead.getLsbD j then 0
        else if x.mod = 1 then (BitVec.ofNat 32 (rdLane g x.a 1 j)).signExtend 64
        else BitVec.ofNat 64 (rdLane g x.a regs j))) ∧
  ( Imm false .swr .swrLong fun x run => Tidy x 1 → IsLI x → unused x.d = true →
      let listed : Prop := x.b.immU ≤ 12 ∨ 16 ≤ x.b.immU ∧ x.b.immU ≤ 19
      (¬ listed → Traps run 0 (fun _ _ => True) fun _ f => { code := 0x01, mask := BitVec.allOnes 64, aux := f.bothWords }) ∧
      (listed → x.b.immU ≠ 17 → x.b.immU ≠ 18 → Traps run 0 (fun s f => (src 1 x.a [.s, .z]).bad f (s.afb f) = false) fun _ _ =>
        { code := 0x02, cause := 2, mask := BitVec.allOnes 64 })) ∧
  ( Imm false .swr .swrLong fun x run => Tidy x 1 → IsLI x → unused x.d = true → x.b.immU = 17 ∨ x.b.immU = 18 →
      (Acts run 0 x.st [src 1 x.a [.s, .z]] (fun _ => BitVec.allOnes 64) (fun _ f => f.priv = true) fun _ f t =>
        t.updFlight (handled f) fun h =>
          if x.b.immU = 17 then { h with rgnc := (rdUni f x.a).setWidth 32 }
          else { h with symNext := if (rdUni f x.a).toNat % 2 ^ 13 < 16 then 16 else (rdUni f x.a).setWidth 13 }) ∧
      Traps run 0 (fun s f => Free s f 0 [src 1 x.a [.s, .z]] (BitVec.allOnes 64) ∧ f.priv = false) fun _ _ =>
        { code := 0x11, cause := 9, mask := BitVec.allOnes 64, info := 0xFF })

/-! ### Class VINT -/

/-- R264: the lane instructions of Table 11-5 write D := f(a, b) in each lane of EXM, with the width TYP gives; lanes outside EXM keep their values,
and nothing else changes but the flight's place, the counts of R178 and index registers that an operand advances. -/
def Obligations.LaneArithmeticWritesTable11_5 : Prop :=
  let P2 (typs : Nat) (f : Nat → (w : Nat) → Nat → Nat → Nat) (x : Fields) (run : Run) : Prop :=
    Tidy x typs → NoC x →
      let r := regsOf x.mod
      Lanes run x (dst 0 x.d vD r :: src 1 x.a vK r :: srcB x.b vK r) r fun g l => f x.mod (32 * r) (rdLane g x.a r l) (x.b.lane g r l)
  let P1 (f : (w : Nat) → Nat → Nat) (x : Fields) (run : Run) : Prop :=
    Tidy x 2 → NoC x → NoB x →
      let r := regsOf x.mod
      Lanes run x [dst 0 x.d vD r, src 1 x.a vK r] r fun g l => f (32 * r) (rdLane g x.a r l)
  let bv (op : (w : Nat) → BitVec w → BitVec w → BitVec w) (_ w a b : Nat) : Nat := (op w (BitVec.ofNat w a) (BitVec.ofNat w b)).toNat
  Both .vadd .vaddLong (P2 2 (bv fun _ a b => a + b)) ∧
  Both .vsub .vsubLong (P2 2 (bv fun _ a b => a - b)) ∧
  Both .vmul .vmulLong (P2 2 (bv fun _ a b => a * b)) ∧
  Both .vmulh .vmulhLong (P2 4 fun t w a b => (BitVec.ofInt (2 * w) (numOf t w a * numOf t w b)).toNat / 2 ^ w) ∧
  Both .vand .vandLong (P2 2 (bv fun _ a b => a &&& b)) ∧
  Both .vor .vorLong (P2 2 (bv fun _ a b => a ||| b)) ∧
  Both .vxor .vxorLong (P2 2 (bv fun _ a b => a ^^^ b)) ∧
  Both .vnot .vnotLong (P1 fun w a => (~~~BitVec.ofNat w a).toNat) ∧
  Both .vshl .vshlLong (P2 2 (bv fun _ a b => a <<< b.toNat)) ∧
  Both .vshr .vshrLong (P2 2 (bv fun _ a b => a >>> b.toNat)) ∧
  Both .vsra .vsraLong (P2 2 (bv fun _ a b => a.sshiftRight b.toNat)) ∧
  Both .vmin .vminLong (P2 4 fun t w a b => if numOf t w a ≤ numOf t w b then a else b) ∧
  Both .vmax .vmaxLong (P2 4 fun t w a b => if numOf t w a ≤ numOf t w b then b else a) ∧
  Both .vabs .vabsLong (P1 fun w a => if (BitVec.ofNat w a).msb then (-BitVec.ofNat w a).toNat else a) ∧
  Both .vpopc .vpopcLong (P1 fun w a => (List.range w).countP fun i => a.testBit i) ∧
  Both .vclz .vclzLong (P1 fun w a => ((List.range w).takeWhile fun i => !a.testBit (w - 1 - i)).length)

/-- R265 to R268: VMAD, VADDC, VMOV, VMOVI, VBFX and VBFI write what their entries give in each lane of EXM; VADDC also writes the carry or borrow
to its predicate in those lanes. -/
def Obligations.LaneMultiplyAddCarryMoveAndFieldWriteD : Prop :=
  let pos (b : Nat) : Nat := b % 32
  let len (b : Nat) : Nat := min (min (b / 2 ^ 8 % 64) 32) (32 - pos b)
  Long .vmad (fun x run => Tidy x 4 →
    let ab := if x.mod = 1 then 2 else 1
    let cd := if x.mod = 0 then 1 else 2
    Lanes run x (dst 0 x.d vD cd :: src 1 x.a vK ab :: (srcB x.b vK ab ++ [src 3 x.c vK cd])) cd fun g l =>
      let a := rdLane g x.a ab l; let b := x.b.lane g ab l; let c := rdLane g x.c cd l
      if x.mod = 2 then ((BitVec.ofNat 32 a).signExtend 64 * (BitVec.ofNat 32 b).signExtend 64 + BitVec.ofNat 64 c).toNat
      else (a * b + c) % 2 ^ (32 * cd)) ∧
  Long .vaddc (fun x run => Tidy x 2 →
    let t (g : Flight) (l : Nat) : Int :=
      if x.mod = 0 then (rdLane g x.a 1 l : Int) + x.b.lane g 1 l + rdLane g x.c 1 l else (rdLane g x.a 1 l : Int) - x.b.lane g 1 l - rdLane g x.c 1 l
    Computes run 1 x.st (dst 0 x.d vD :: src 1 x.a vK :: (srcB x.b vK ++ [{ pos := 3, spec := x.c, use := .both, kinds := [.p] }])) Flight.exm
      (fun _ _ => True) (fun _ g => toV g g.exm x.d 1 fun l => (BitVec.ofInt 32 (t g l)).toNat) (fun _ _ => noS)
      (fun _ g => toBits g x.c fun l => if x.mod = 0 then decide (t g l ≥ 2 ^ 32) else decide (t g l < 0))) ∧
  Both .vmov .vmovLong (fun x run => Tidy x 2 → NoC x → NoB x →
    let r := regsOf x.mod
    Lanes run x [dst 0 x.d vD r, src 1 x.a vK r] r fun g l => rdLane g x.a r l) ∧
  Imm true .vmovi .vmoviLong (fun x run => Tidy x 1 → IsLI x → NoA x → Lanes run x [dst 0 x.d vD] 1 fun g l => x.b.lane g 1 l) ∧
  Both .vbfx .vbfxLong (fun x run => Tidy x 2 → NoC x →
    Lanes run x (dst 0 x.d vD :: src 1 x.a vK :: srcB x.b vK) 1 fun g l =>
      let b := x.b.lane g 1 l; let m := len b
      let v := rdLane g x.a 1 l / 2 ^ pos b % 2 ^ m
      if x.mod = 1 ∧ m ≠ 0 ∧ v.testBit (m - 1) then v + 2 ^ 32 - 2 ^ m else v) ∧
  Long .vbfi (fun x run => Tidy x 1 →
    Lanes run x (dst 0 x.d vD :: src 1 x.a vK :: (srcB x.b vK ++ [src 3 x.c vK])) 1 fun g l =>
      let a := rdLane g x.a 1 l; let b := x.b.lane g 1 l; let p := pos b; let m := len b
      a % 2 ^ p + rdLane g x.c 1 l % 2 ^ m * 2 ^ p + a / 2 ^ (p + m) * 2 ^ (p + m))

/-- R269, R270, R274, R276 and R278: VCMP writes predicate bits in the lanes of EXM; VSEL picks by a predicate; VVOTE and EXMRD write a uniform value
whole; PLOG writes any function of two masks, in the lanes of EXM or in all 64. -/
def Obligations.LaneCompareSelectVoteAndPredicatesWriteD : Prop :=
  Both .vcmp .vcmpLong (fun x run => Tidy x 24 → NoC x →
    let t := x.mod % 4; let r := regsOf t
    Computes run 1 x.st (dst 0 x.d [.p] :: src 1 x.a vK r :: srcB x.b vK r) Flight.exm (fun _ _ => True) (fun _ _ => noV) (fun _ _ => noS)
      (fun _ g => toBits g x.d fun l => condHolds (x.mod / 4) (numOf t (32 * r) (rdLane g x.a r l)) (numOf t (32 * r) (x.b.lane g r l)))) ∧
  Long .vsel (fun x run => Tidy x 2 →
    let r := regsOf x.mod
    Lanes run x (dst 0 x.d vD r :: src 1 x.a vK r :: (srcB x.b vK r ++ [src 3 x.c [.p]])) r fun g l =>
      match okind x.c with
      | .p n => if (g.rdP n).getLsbD l then rdLane g x.a r l else x.b.lane g r l
      | _ => 0) ∧
  Both .vvote .vvoteLong (fun x run => Tidy x 8 → IsLR x → NoC x → NoB x →
    let r := if x.mod < 4 then 1 else 2
    Computes run 1 x.st [dst 0 x.d sD, src 1 x.a [.v, .vx, .s, .l, .p] r] Flight.exm (fun _ _ => True) (fun _ _ => noV)
      (fun _ g => toS x.d (vote g (x.mod % 4) fun l => rdLane g x.a r l)) (fun _ g => toP x.d (vote g (x.mod % 4) fun l => rdLane g x.a r l))) ∧
  Both .plog .plogLong (fun x run => Tidy x 32 → IsLR x → NoC x →
    let bit (g : Flight) (l : Nat) : Bool := x.mod.testBit (2 * ((rdUni g x.a).getLsbD l).toNat + ((x.b.uni g).getLsbD l).toNat)
    Computes run 1 x.st (dst 0 x.d [.p] :: src 1 x.a [.p, .e, .s, .z] :: srcB x.b [.p, .e, .s, .z]) Flight.exm (fun _ _ => True)
      (fun _ _ => noV) (fun _ _ => noS)
      (fun _ g => if x.mod < 16 then toBits g x.d (bit g) else toP x.d (maskOf (lanes.filter (bit g))))) ∧
  Both .exmrd .exmrdLong (fun x run => Tidy x 1 → IsLR x → NoC x → NoB x → NoA x → Uniform run 1 x [dst 0 x.d sD] fun _ g => g.exm)

/-- R271 to R273 and R275: VBCAST and VSHFL read other lanes' registers, active or not, VPERM scatters in ascending lane order, and VRED and VSCAN
combine the lanes of EXM in ascending order. VBCAST and VSHFL are stated here for lanes that are not dead. -/
def Obligations.CrossLaneInstructionsMoveAndCombine : Prop :=
  Both .vbcast .vbcastLong (fun x run => Tidy x 2 → NoC x →
    let r := regsOf x.mod
    let j (g : Flight) : Nat := ((x.b.uni g).setWidth 6).toNat
    Computes run 1 x.st (dst 0 x.d vD r :: src 1 x.a [.v] r :: srcB x.b [.s, .z]) Flight.exm (fun _ g => g.dead.getLsbD (j g) = false)
      (fun _ g => toV g g.exm x.d r fun _ => rdLane g x.a r (j g)) (fun _ _ => noS) (fun _ _ => noS)) ∧
  Both .vshfl .vshflLong (fun x run => Tidy x 8 → NoC x →
    let r := if x.mod < 4 then 1 else 2
    ComputesLate run 1 x.st (dst 0 x.d vD r :: src 1 x.a [.v] r :: srcB x.b vK) Flight.exm false
      (fun _ g => ∀ l < 64, g.exm.getLsbD l = true → g.dead.getLsbD (shuffleFrom (x.mod % 4) (x.b.lane g 1 l) l) = false)
      (fun _ g => toV g g.exm x.d r fun l => rdLane g x.a r (shuffleFrom (x.mod % 4) (x.b.lane g 1 l) l)) (fun _ _ => noS) (fun _ _ => noS)) ∧
  Both .vperm .vpermLong (fun x run => Tidy x 2 → NoC x →
    let r := regsOf x.mod
    /- The last lane of EXM, in ascending order, that aims at lane `t`. -/
    let giver (g : Flight) (t : Nat) : Option Nat := (lanesOf g.exm).reverse.find? fun l => decide (x.b.lane g 1 l % 64 = t)
    ComputesLate run 1 x.st (dst 0 x.d vD r :: src 1 x.a vK r :: srcB x.b vK) Flight.exm false (fun _ _ => True)
      (fun _ g => toV g (maskOf (lanes.filter fun t => g.exm.getLsbD t && (giver g t).isSome)) x.d r fun t =>
        match giver g t with | some l => rdLane g x.a r l | none => 0)
      (fun _ _ => noS) (fun _ _ => noS)) ∧
  Both .vred .vredLong (fun x run => Tidy x 48 → x.mod / 4 % 2 = 0 → IsLR x → NoC x → NoB x →
    let t := x.mod % 4; let r := regsOf t; let w := 32 * r
    ComputesLate run 1 x.st [dst 0 x.d [.s, .z], src 1 x.a vK r] Flight.exm false (fun _ _ => True) (fun _ _ => noV)
      (fun _ g => toS x.d
        (let v := (lanesOf g.exm).foldl (fun v l => combine (x.mod / 8) t w v (rdLane g x.a r l)) (neutral (x.mod / 8) t w)
         if t < 2 then (BitVec.ofNat w v).signExtend 64 else BitVec.ofNat 64 v))
      (fun _ _ => noS)) ∧
  Both .vscan .vscanLong (fun x run => Tidy x 48 → IsLR x → NoC x → NoB x →
    let t := x.mod % 4; let r := regsOf t; let w := 32 * r
    ComputesLate run 1 x.st [dst 0 x.d [.v] r, src 1 x.a vK r] Flight.exm false (fun _ _ => True)
      (fun _ g => toV g g.exm x.d r fun l =>
        ((lanesOf g.exm).filter fun k => if x.mod / 4 % 2 = 1 then decide (k < l) else decide (k ≤ l)).foldl
          (fun v k => combine (x.mod / 8) t w v (rdLane g x.a r k)) (neutral (x.mod / 8) t w))
      (fun _ _ => noS) (fun _ _ => noS))

/-- R249, R271, R272: a VBCAST from a dead lane, and a VSHFL in which some lanes of EXM read a dead lane, give those lanes 0, and kill them as LKILL
does (R360): VBCAST at once, VSHFL with the operation that holds its results. -/
def Obligations.ReadsOfDeadLanesGiveZeroAndKill : Prop :=
  Both .vbcast .vbcastLong (fun x run => Tidy x 2 → NoC x →
    let r := regsOf x.mod
    ComputesThen run 1 x.st (dst 0 x.d vD r :: src 1 x.a [.v] r :: srcB x.b [.s, .z]) Flight.exm
      (fun _ g => g.dead.getLsbD ((x.b.uni g).setWidth 6).toNat = true) (fun _ g => toV g g.exm x.d r fun _ => 0)
      fun _ g t => t.killLanesOf g.id g.exm []) ∧
  Both .vshfl .vshflLong (fun x run => Tidy x 8 → NoC x →
    let r := if x.mod < 4 then 1 else 2
    let from_ (g : Flight) (l : Nat) : Nat := shuffleFrom (x.mod % 4) (x.b.lane g 1 l) l
    ComputesLateKilling run 1 x.st (dst 0 x.d vD r :: src 1 x.a [.v] r :: srcB x.b vK) Flight.exm (fun _ _ => True)
      (fun _ g => toV g g.exm x.d r fun l => if g.dead.getLsbD (from_ g l) then 0 else rdLane g x.a r (from_ g l))
      fun g => maskOf (lanes.filter fun l => g.exm.getLsbD l && g.dead.getLsbD (from_ g l)))

/-- R277, R279, R280: EXMSET writes EXM from a mask, without the lanes that are dead or have exited; XSET and XINC write an index register in the lanes of
EXM, 25 bits of it. -/
def Obligations.ExmsetXsetXincWriteTheirRegisters : Prop :=
  Both .exmset .exmsetLong (fun x run => Tidy x 3 → IsLR x → NoC x → NoB x → unused x.d = true →
    Acts run 1 x.st [src 1 x.a [.p, .s, .e, .z]] (fun _ => BitVec.allOnes 64) (fun _ _ => True) fun _ f t =>
      t.updFlight f.id fun g =>
        let a := rdUni f x.a
        { g with exm := (if x.mod = 0 then a else if x.mod = 1 then f.exm &&& a else f.exm &&& ~~~a) &&& ~~~f.dead &&& ~~~f.exited }) ∧
  Both .xset .xsetLong (fun x run => Tidy x 1 → NoC x →
    Indexes run x ({ pos := 0, spec := x.d, use := .dst, kinds := [.vx], self := true } :: src 1 x.a vK :: srcB x.b vK) fun g _ l =>
      BitVec.ofNat 32 ((rdLane g x.a 1 l + x.b.lane g 1 l) % 2 ^ 25)) ∧
  Imm true .xinc .xincLong (fun x run => Tidy x 1 → IsLI x → NoA x →
    Indexes run x [{ pos := 0, spec := x.d, use := .both, kinds := [.vx], self := true }] fun g n l =>
      let w := g.rdX n l
      let i : Int := (w.extractLsb' 0 8).toNat + (BitVec.ofNat 32 x.b.immU).toInt
      let bound := (w.extractLsb' 16 8).toNat
      (w &&& 0x1FFFF00#32) ||| BitVec.ofInt 32 (if w.getLsbD 24 = true ∧ bound ≠ 0 then i % bound else i % 256))

/-! ### Class VFP -/

/-- R285 to R288 and R291: FADD, FSUB, FMUL, FDIV, FSCALE and FFMA write Round(f(A, B, C)) in each lane of EXM, with RM or FMODE.RND, DAZ on the
inputs and FTZ on the result, and add their flags to FSTAT; FMIN and FMAX return an operand; FADD2, FMUL2 and FMA2 do the same to each half
of a register, element 0 first. FABS, FNEG and FRND give each lane their result at fixed latency; FDIV, FSQRT, FRCP and the functions FRSQ,
FEXP2, FLOG2, FSINP and FCOSP leave it outstanding. An FP64 function result that is not exact is one of the two neighbours, which one the
specification leaves open (log 20). -/
def Obligations.FloatArithmeticRoundsInEachLane : Prop :=
  ( let out (f : Flight) (rm : Nat) (l : Nat) (F : Fmt) (raw : Raw) : LaneRes := RRes.lane (finish F (f.rm rm) f.ftz (f.rng l).toNat raw)
    let P2 (late : Bool) (op : Fmt → Nat → FVal → FVal → Raw) (x : Fields) (run : Run) : Prop :=
      TidyFp x 2 → NoC x →
        let r := regsOf x.mod; let F := if x.mod = 1 then fp64 else fp32
        ComputesMath run late x.st (dst 0 x.d vD r :: src 1 x.a fK r :: srcB x.b fK r) x.d r (fun _ _ => True) fun _ f l =>
          out f x.rm l F (op F (f.rm x.rm) (F.read f.daz (rdLane f x.a r l)) (F.read f.daz (x.b.lane f r l)))
    let PM (max : Bool) (x : Fields) (run : Run) : Prop :=
      Tidy x 8 → NoC x →
        let t := x.mod % 4; let r := regsOf (if t = 1 then 1 else 0)
        let F := if t = 0 then fp32 else if t = 1 then fp64 else if t = 2 then fp16 else bf16
        let one (f : Flight) (a b : Nat) : RRes :=
          let a := F.read f.daz a; let b := F.read f.daz b; let num := decide (x.mod < 4)
          let q := (finish F 1 f.ftz 0 (fMinMax F max num a b)).1
          { q with flags := q.flags ||| if num && (a.isSnan || b.isSnan) then fINV else 0 }
        ComputesMath run false x.st (dst 0 x.d vD r :: src 1 x.a fK r :: srcB x.b fK r) x.d r (fun _ _ => True) fun _ f l =>
          let a := rdLane f x.a r l; let b := x.b.lane f r l; let g := (f.rng l).toNat
          if t < 2 then RRes.lane (one f a b, g) else halves (fun h g => (one f (a / 2 ^ (16 * h) % 2 ^ 16) (b / 2 ^ (16 * h) % 2 ^ 16), g)) g
    let pack (x : Fields) (f : Flight) (l a b c : Nat) (op : Fmt → Nat → FVal → FVal → FVal → Raw) : LaneRes :=
      let F := if x.mod = 0 then fp16 else bf16
      let h (v i : Nat) : FVal := F.read f.daz (v / 2 ^ (16 * i) % 2 ^ 16)
      halves (fun i g => finish F (f.rm x.rm) f.ftz g (op F (f.rm x.rm) (h a i) (h b i) (h c i))) (f.rng l).toNat
    Both .fadd .faddLong (P2 false fAdd) ∧
    Both .fsub .fsubLong (P2 false fun F rm a b => fAdd F rm a b.neg') ∧
    Both .fmul .fmulLong (P2 false fMul) ∧
    Both .fdiv .fdivLong (P2 true fDiv) ∧
    Both .fmin .fminLong (PM false) ∧
    Both .fmax .fmaxLong (PM true) ∧
    Both .fscale .fscaleLong (fun x run => TidyFp x 2 → NoC x →
      let r := regsOf x.mod; let F := if x.mod = 1 then fp64 else fp32
      ComputesMath run false x.st (dst 0 x.d vD r :: src 1 x.a fK r :: srcB x.b fK) x.d r (fun _ _ => True) fun _ f l =>
        out f x.rm l F (fScale F (F.read f.daz (rdLane f x.a r l)) (BitVec.ofNat 32 (x.b.lane f 1 l)).toInt)) ∧
    Long .ffma (fun x run => TidyFp x 2 → IsLR x →
      let r := regsOf x.mod; let F := if x.mod = 1 then fp64 else fp32
      ComputesMath run false x.st (dst 0 x.d vD r :: src 1 x.a fK r :: (srcB x.b fK r ++ [src 3 x.c fK r])) x.d r (fun _ _ => True) fun _ f l =>
        out f x.rm l F (fFma F (f.rm x.rm) (F.read f.daz (rdLane f x.a r l)) (F.read f.daz (x.b.lane f r l)) (F.read f.daz (rdLane f x.c r l)))) ∧
    Both .fadd2 .fadd2Long (fun x run => TidyFp x 2 → NoC x →
      ComputesMath run false x.st (dst 0 x.d vD :: src 1 x.a fK :: srcB x.b fK) x.d 1 (fun _ _ => True) fun _ f l =>
        pack x f l (rdLane f x.a 1 l) (x.b.lane f 1 l) 0 fun F rm a b _ => fAdd F rm a b) ∧
    Both .fmul2 .fmul2Long (fun x run => TidyFp x 2 → NoC x →
      ComputesMath run false x.st (dst 0 x.d vD :: src 1 x.a fK :: srcB x.b fK) x.d 1 (fun _ _ => True) fun _ f l =>
        pack x f l (rdLane f x.a 1 l) (x.b.lane f 1 l) 0 fun F rm a b _ => fMul F rm a b) ∧
    Long .fma2 (fun x run => TidyFp x 2 → IsLR x →
      ComputesMath run false x.st (dst 0 x.d vD :: src 1 x.a fK :: (srcB x.b fK ++ [src 3 x.c fK])) x.d 1 (fun _ _ => True) fun _ f l =>
        pack x f l (rdLane f x.a 1 l) (x.b.lane f 1 l) (rdLane f x.c 1 l) fFma)) ∧
  ( let P (late : Bool) (tidy : Fields → Prop) (types : Nat) (g : Fields → Flight → Fmt → Nat → Nat → RRes × Nat) (x : Fields) (run : Run) : Prop :=
      tidy x → x.mod < types → IsLR x → NoC x → NoB x →
        let r := regsOf (if x.mod = 1 then 1 else 0)
        let F := if x.mod = 0 then fp32 else if x.mod = 1 then fp64 else if x.mod = 2 then fp16 else bf16
        ComputesMath run late x.st [dst 0 x.d vD r, src 1 x.a fK r] x.d r (fun _ _ => True) fun _ f l =>
          let a := rdLane f x.a r l; let s := (f.rng l).toNat
          if x.mod < 2 then RRes.lane (g x f F a s) else halves (fun h s => g x f F (a / 2 ^ (16 * h) % 2 ^ 16) s) s
    let signed (neg : Bool → Bool) (_ : Fields) (f : Flight) (F : Fmt) (a s : Nat) : RRes × Nat :=
      (match F.read f.daz a with
        | .nan q => ⟨F.nan, if q then fINV else 0, .none⟩
        | .inf n => ⟨F.sign (neg n) + F.inf.getD F.maxCode, 0, .none⟩
        | .num n m e => if m = 0 then ⟨F.sign (neg n), 0, .none⟩ else roundF F 1 f.ftz false 0 ⟨neg n, m, e, false⟩, s)
    let raw (op : Fmt → FVal → Raw) (x : Fields) (f : Flight) (F : Fmt) (a s : Nat) : RRes × Nat :=
      finish F (f.rm x.rm) f.ftz s (op F (F.read f.daz a))
    let fn (op : Nat) (_ : Fields) (f : Flight) (F : Fmt) (a s : Nat) : RRes × Nat := (fFun F op a f.ftz (F.read f.daz a), s)
    Both .fabs .fabsLong (P false (Tidy · 4) 4 (signed fun _ => false)) ∧
    Both .fneg .fnegLong (P false (Tidy · 4) 4 (signed fun n => !n)) ∧
    Both .frnd .frndLong (P false (TidyFp · 2) 2 fun x f F a s => fRnd F (f.rm x.rm) s (F.read f.daz a)) ∧
    Both .fsqrt .fsqrtLong (P true (TidyFp · 2) 2 (raw fun F a => fSqrt F a)) ∧
    Both .frcp .frcpLong (P true (TidyFp · 2) 2 (raw fun F a => fDiv F 1 (.num false 1 0) a)) ∧
    Both .frsq .frsqLong (P true (Tidy · 2) 2 (fn 11)) ∧
    Both .fexp2 .fexp2Long (P true (Tidy · 2) 2 (fn 14)) ∧
    Both .flog2 .flog2Long (P true (Tidy · 2) 2 (fn 15)) ∧
    Both .fsinp .fsinpLong (P true (Tidy · 2) 2 (fn 16)) ∧
    Both .fcosp .fcospLong (P true (Tidy · 2) 2 (fn 17)))

/-- R187, R289, R290, R296 and R297: FCMP writes predicate bits in the lanes of EXM by the conditions of Table 12-6 and ORs INV into FSTAT; FCLASS
writes one class bit per lane and raises no flag; with the residual queue empty and no result outstanding or undelivered, FSMODE and FSTAT write the old
value of their register to D and replace the bits that B selects; an FSMODE that covers a bit of SEED reseeds every lane's generator; an
FSTAT write raises no trap 0x1A. -/
def Obligations.FloatCompareClassifyAndModes : Prop :=
  ( let cond (k : Nat) (a b : FVal) : Bool :=
      let un := a.isNan || b.isNan
      [!un && (fOrd a b).2, un || !(fOrd a b).2, !un && (fOrd a b).1, !un && ((fOrd a b).1 || (fOrd a b).2),
       !un && !((fOrd a b).1 || (fOrd a b).2), !un && !(fOrd a b).1, un, !un].getD k false
    let inv (k : Nat) (a b : FVal) : Nat :=
      if (if 2 ≤ k ∧ k ≤ 5 then a.isNan || b.isNan else a.isSnan || b.isSnan) then fINV else 0
    Both .fcmp .fcmpLong (fun x run => Tidy x 32 → x.mod % 4 < 2 → NoC x →
      let r := regsOf x.mod; let F := if x.mod % 4 = 1 then fp64 else fp32
      let os := dst 0 x.d [.p] :: src 1 x.a fK r :: srcB x.b fK r
      ∀ s f, Free s f 2 os f.exm →
        let a (l : Nat) : FVal := F.read f.daz (rdLane f x.a r l)
        let b (l : Nat) : FVal := F.read f.daz (x.b.lane f r l)
        ∃ t g, run s = .next t ∧ Passes s t f g x.st ∧ blankMath g = blankMath f
          ∧ Accounts f g (fun l => inv (x.mod / 4) (a l) (b l)) (fun _ => .none) (fun l => (f.rng l).toNat)
          ∧ RegsAre f g noV noS (toBits f x.d fun l => cond (x.mod / 4) (a l) (b l)) (stepX f os)) ∧
    Both .fclass .fclassLong (fun x run => Tidy x 2 → IsLR x → NoC x → NoB x →
      let r := regsOf x.mod; let F := if x.mod = 1 then fp64 else fp32
      Computes run 2 x.st [dst 0 x.d vD, src 1 x.a fK r] Flight.exm (fun _ _ => True)
        (fun _ f => toV f f.exm x.d 1 fun l => 2 ^ classBit F (rdLane f x.a r l)) (fun _ _ => noS) (fun _ _ => noS))) ∧
  ( let ready (s : State) (f : Flight) : Prop :=
      f.residual = [] ∧ (∀ o ∈ f.ops, o.kind ≠ .result ∧ o.kind ≠ .mma) ∧ ∀ r ∈ f.fixed, r.ready ≤ s.clock
    Long .fsmode (fun x run => Tidy x 1 → NoC x → ∀ s f, Free s f 2 (dst 0 x.d [.s, .z] :: src 1 x.a [.s, .z] :: srcB x.b [.s, .z]) (BitVec.allOnes 64) →
      let b := x.b.uni f
      let new := (f.fmode &&& ~~~b) ||| (rdUni f x.a &&& b)
      ready s f → new.extractLsb' 0 3 ≠ 0 → new.extractLsb' 3 2 = 0 → new.extractLsb' 9 23 = 0 →
        ∃ t g, run s = .next t ∧ Passes s t f g x.st ∧ blankIssue { g with fmode := f.fmode, stoch := f.stoch } = blankIssue f
          ∧ RegsAre f g noV (toS x.d f.fmode) noS noV ∧ g.fmode = new
          ∧ ∀ l < 64, g.rng l = if b.extractLsb' 32 32 = 0 then f.rng l else new.extractLsb' 32 32 ^^^ BitVec.ofNat 32 l) ∧
    Long .fstat (fun x run => Tidy x 1 → NoC x → ∀ s f, Free s f 2 (dst 0 x.d [.s, .z] :: src 1 x.a [.s, .z] :: srcB x.b [.s, .z]) (BitVec.allOnes 64) →
      let b := x.b.uni f
      let new := (f.fstat &&& ~~~b) ||| (rdUni f x.a &&& b)
      ready s f → new.extractLsb' 5 11 = 0 →
        ∃ t g, run s = .next t ∧ Passes s t f g x.st ∧ blankIssue { g with fstat := f.fstat } = blankIssue f
          ∧ RegsAre f g noV (toS x.d f.fstat) noS noV ∧ g.fstat = new))

/-- R292 to R295: CVTFF, CVTFI, CVTIF and CVTBLK convert each lane of EXM with one rounding under the slot's policies or FMODE's, raise their flags, and
count each output once in FSTAT's counters. `d` is the descriptor of slot FS, which must be legal for the conversion. An element that a scale makes NaN takes
no draw (R209). -/
def Obligations.ConversionsRoundOnceAndCount : Prop :=
  let fl (k : Nat) : Fmt := [fp32, fp64, fp16, bf16, e4m3, e5m2].getD k e5m2
  let int (k : Nat) : Nat × Bool := [(32, true), (64, true), (32, false), (64, false), (8, true), (16, true), (8, false), (16, false)].getD k (16, false)
  Both .cvtff .cvtffLong (fun x run => x.resv = 0 → x.mod < 64 → x.mod % 8 < 7 → x.mod / 8 < 7 → IsLR x → NoC x → NoB x →
    let sc := x.mod % 8; let dc := x.mod / 8
    (sc ≠ 6 → dc ≠ 6 → x.fs = 0) → ∀ d : DWord,
      let regs (k : Nat) : Nat := if k = 1 ∨ k = 6 ∧ slotElem d = 0 then 2 else 1
      ComputesMath run false x.st [dst 0 x.d vD (regs dc), src 1 x.a fK (regs sc)] x.d (regs dc)
        (fun s f => recSlot (s.recOf f) x.fs = d ∧ (sc = 6 ∨ dc = 6 → slotOk d = true ∧ slotElem d < 6 ∧ slotSkind d = 0)) fun _ f l =>
          let a := rdLane f x.a (regs sc) l
          let v := if sc = 6 then slotRead d f.daz 0 a else (fl sc).read f.daz a
          withDraw (f.rm x.rm) (f.rng l).toNat v fun dr =>
            if dc = 6 then slotWrite d f.ftz (f.rm x.rm) dr 0 v else convF (fl dc) (f.rm x.rm) f.ftz false false dr v) ∧
  Both .cvtfi .cvtfiLong (fun x run => TidyFp x 32 → IsLR x → NoC x → NoB x →
    let F := fl (x.mod % 4); let w := (int (x.mod / 4)).1; let sg := (int (x.mod / 4)).2
    let rs := if x.mod % 4 = 1 then 2 else 1; let rd := if w = 64 then 2 else 1
    ComputesMath run false x.st [dst 0 x.d vD rd, src 1 x.a fK rs] x.d rd (fun _ _ => True) fun _ f l =>
      let v := F.read f.daz (rdLane f x.a rs l)
      withDraw (f.rm x.rm) (f.rng l).toNat v fun dr =>
        let q := convI w sg (f.rm x.rm) dr v
        { q with bits := if w < 32 ∧ sg then ((BitVec.ofNat w q.bits).signExtend 32).toNat else q.bits }) ∧
  Both .cvtif .cvtifLong (fun x run => TidyFp x 32 → IsLR x → NoC x → NoB x →
    let F := fl (x.mod % 4); let w := (int (x.mod / 4)).1; let sg := (int (x.mod / 4)).2
    let rd := if x.mod % 4 = 1 then 2 else 1; let rs := if w = 64 then 2 else 1
    ComputesMath run false x.st [dst 0 x.d vD rd, src 1 x.a fK rs] x.d rd (fun _ _ => True) fun _ f l =>
      let a := BitVec.ofNat w (rdLane f x.a rs l)
      let i : Int := if sg then a.toInt else a.toNat
      let v := FVal.num (decide (i < 0)) i.natAbs 0
      withDraw (f.rm x.rm) (f.rng l).toNat v fun dr => convF F (f.rm x.rm) f.ftz false false dr v) ∧
  Long .cvtblk (fun x run => x.resv = 0 → x.mod < 4 → IsLR x → NoB x → (x.mod % 2 = 0 → NoC x) → ∀ d : DWord,
    let sc := decide (x.mod % 2 = 1); let r := if x.mod < 2 then 1 else 2; let F := if x.mod < 2 then fp32 else fp64
    ComputesMath run false x.st (dst 0 x.d vD :: src 1 x.a fK r :: if sc then [src 3 x.c fK] else []) x.d 1
      (fun s f => recSlot (s.recOf f) x.fs = d ∧ slotOk d = true ∧ slotSkind d ≠ 0) fun _ f l =>
        let val (k : Nat) : FVal := F.read f.daz (rdLane f x.a r k)
        let k := if sc then rdLane f x.c 1 l % 2 ^ 8
          else chooseScale d (f.rm x.rm) (((lanesOf f.exm).filter fun k => decide (k / slotBlock d = l / slotBlock d)).map val)
        let p := withDraw (f.rm x.rm) (f.rng l).toNat (if slotSkind d = 1 ∧ k = 255 then .nan false else val l) fun dr => slotWrite d f.ftz (f.rm x.rm) dr k (val l)
        { p with bits := k * 2 ^ 8 + p.bits })

/-- R198 and R285: the special cases of addition, multiplication and division give the default NaN with INV, an infinity with DZ, and the signs of
IEEE 754; a NaN operand gives the default NaN, with INV when it signals. -/
def Obligations.FloatSpecialCases : Prop :=
  ∀ F ∈ [fp64, fp32, fp16, bf16], ∀ rm : Nat, ∀ n k : Bool, ∀ m : Nat, ∀ e e' : Int, ∀ q : Bool, ∀ v : FVal,
    let nan (fl : Nat) : Raw := .done ⟨F.nan, fl, .none⟩
    let inf (neg : Bool) (fl : Nat) : Raw := .done ⟨F.sign neg + F.inf.getD 0, fl, .none⟩
    fMul F rm (.inf n) (.num k 0 e) = nan fINV ∧ fMul F rm (.num k 0 e) (.inf n) = nan fINV ∧
    fAdd F rm (.inf n) (.inf (!n)) = nan fINV ∧ fAdd F rm (.inf n) (.inf n) = inf n 0 ∧ fAdd F rm (.inf n) (.num k m e) = inf n 0 ∧
    fDiv F rm (.num n 0 e) (.num k 0 e') = nan fINV ∧ fDiv F rm (.inf n) (.inf k) = nan fINV ∧
    (m ≠ 0 → fDiv F rm (.num n m e) (.num k 0 e') = inf (n != k) fDZ) ∧
    (m ≠ 0 → fMul F rm (.inf n) (.num k m e) = inf (n != k) 0) ∧
    fFma F rm (.inf n) (.num k 0 e) v = nan fINV ∧ fFma F rm (.num k 0 e) (.inf n) v = nan fINV ∧
    fAdd F rm (.nan q) v = nan (if q || v.isSnan then fINV else 0) ∧ fMul F rm v (.nan q) = nan (if q || v.isSnan then fINV else 0) ∧
    fSqrt F (.num true 0 e) = .round ⟨true, 0, 0, false⟩ ∧ (m ≠ 0 → fSqrt F (.num true m e) = nan fINV)

/-- R206, R208 and Table 09-6: Round gives a value of the format unchanged and raises no flag, for every format, mode and finite code that is not
flushed; and where it does not overflow, it gives a value of the format less than one spacing away, within half a spacing for the two
nearest modes, on the side that modes 2, 3 and 4 name, and with INX exactly when the value changed. -/
def Obligations.RoundingTakesANeighbourAndKeepsExactValues : Prop :=
  ( ∀ F ∈ [fp64, fp32, fp16, bf16, e4m3, e5m2], ∀ (rm draw code m : Nat) (flush sat neg : Bool) (e : Int),
      F.decode code = .num neg m e → (flush = true → F.isSub code = false) →
        roundF F rm flush sat draw ⟨neg, m, e, false⟩ = ⟨code % 2 ^ F.w, 0, .none⟩) ∧
  ( ∀ F ∈ [fp64, fp32, fp16, bf16, e4m3, e5m2], ∀ (rm draw m : Nat) (neg : Bool) (e : Int), 1 ≤ rm → rm ≤ 7 →
      let r := roundF F rm false false draw ⟨neg, m, e, false⟩
      r.flags &&& fOVF = 0 →
        let spacing : ℚ := 2 ^ max (e + m.log2 - (F.p - 1)) F.qmin
        let x : ℚ := m * 2 ^ e
        ∃ m' e', F.decode r.bits = .num neg m' e' ∧
          let y : ℚ := m' * 2 ^ e'
          |y - x| < spacing ∧ (rm = 1 ∨ rm = 5 → 2 * |y - x| ≤ spacing) ∧ (rm = 2 → y ≤ x) ∧
          (rm = 3 → if neg then y ≤ x else x ≤ y) ∧ (rm = 4 → if neg then x ≤ y else y ≤ x) ∧ (r.flags &&& fINX = 0 ↔ y = x))

/-! ### Class AFF -/

/-- R184, R216, R217, R220, R298 and R301: AINIT, AFROMV, AADD, ASUB, ASCL, ACND and ACOLL write all 16 slots of affine register D in the lanes of EXM with
the value their rule gives; every affine operand must be canonical there. -/
def Obligations.AffineLinearInstructionsWriteD : Prop :=
  let one : FVal := .num false 1 0
  let P2 (minus : Bool) (x : Fields) (run : Run) : Prop :=
    Tidy x 1 → IsLR x → NoC x →
      Computes run 5 x.st [affO 0 x.d .dst, affO 1 x.a .src, affO 2 (specB x.b) .src] Flight.exm
        (fun s f => canonIn s f x.a ∧ canonIn s f (specB x.b))
        (fun s f => toA s f x.d fun l =>
          linearAff [(one, rdAff s f x.a l), (if minus then one.neg' else one, rdAff s f (specB x.b) l)] (.num false 0 0))
        (fun _ _ => noS) (fun _ _ => noS)
  Long .ainit (fun x run => Tidy x 1 → NoC x →
    Computes run 5 x.st (affO 0 x.d .dst :: src 1 x.a [.s, .z] :: srcB x.b [.s, .z]) Flight.exm (fun _ _ => True)
      (fun s f => toA s f x.d fun _ =>
        initAff (fp64.decode (rdUni f x.a).toNat) (match x.b with | .imm i => fp32.decode i | .spec b => fp64.decode (rdUni f b).toNat))
      (fun _ _ => noS) (fun _ _ => noS)) ∧
  Long .afromv (fun x run => Tidy x 2 → IsLR x → NoC x →
    let r := regsOf x.mod
    Computes run 5 x.st (affO 0 x.d .dst :: src 1 x.a fK r :: srcB x.b [.v, .s, .z]) Flight.exm (fun _ _ => True)
      (fun s f => toA s f x.d fun l =>
        initAff (if x.mod = 1 then fp64.decode (rdLane f x.a r l) else fp32.decode (rdLane f x.a r l)) (fp32.decode (x.b.lane f 1 l)))
      (fun _ _ => noS) (fun _ _ => noS)) ∧
  Long .aadd (P2 false) ∧ Long .asub (P2 true) ∧
  Long .ascl (fun x run => Tidy x 1 → IsLR x →
    Computes run 5 x.st (affO 0 x.d .dst :: affO 1 x.a .src :: (srcB x.b [.s, .v, .z] 2 ++ [src 3 x.c [.s, .v, .z] 2])) Flight.exm
      (fun s f => canonIn s f x.a)
      (fun s f => toA s f x.d fun l =>
        linearAff [(fp64.decode (x.b.lane f 2 l), rdAff s f x.a l)] (fp64.decode (rdLane f x.c 2 l)))
      (fun _ _ => noS) (fun _ _ => noS)) ∧
  Long .acnd (fun x run => Tidy x 9 → IsLR x → NoC x → NoB x →
    Computes run 5 x.st [affO 0 x.d .dst, affO 1 x.a .src] Flight.exm (fun s f => canonIn s f x.a)
      (fun s f => toA s f x.d fun l => condenseAff x.mod (rdAff s f x.a l)) (fun _ _ => noS) (fun _ _ => noS)) ∧
  Long .acoll (fun x run => Tidy x 1 → IsLR x → NoC x → NoB x → NoA x →
    Computes run 5 x.st [affO 0 x.d .both] Flight.exm (fun s f => canonIn s f x.d)
      (fun s f => toA s f x.d fun l => collapseAff (aNum x.d) (rdAff s f x.d l)) (fun _ _ => noS) (fun _ _ => noS))

/-- R186, R218, R219, R300 and R301: AMUL, AFMA, ARCP and ASQRT mint one symbol, whatever EXM holds, and leave the affine result outstanding; past SYMLIMIT they
raise trap 0x09 and mint nothing. How far outward ARCP and ASQRT place the ends of their interval is left open (log 21). -/
def Obligations.AffineNonlinearInstructionsMintASymbol : Prop :=
  let P (os : Fields → List Opnd) (reads : Fields → List Nat) (ok : Fields → Prop) (val : State → Flight → Fields → Nat → Nat → Aff)
      (x : Fields) (run : Run) : Prop :=
    Tidy x 1 → IsLR x → ok x →
      ComputesLate run 5 x.st (os x) Flight.exm true (fun s f => (∀ r ∈ reads x, canonIn s f r) ∧ canMint f)
        (fun s f => toA s f x.d fun l => val s f x f.symNext.toNat l) (fun _ _ => noS) (fun _ _ => noS) ∧
      Traps run 5 (fun s f => Free s f 5 (os x) f.exm ∧ (∀ r ∈ reads x, canonIn s f r) ∧ ¬ canMint f) fun _ f =>
        { code := 0x09, mask := f.exm, xtra := f.symNext.toNat }
  let two (x : Fields) : List Opnd := [affO 0 x.d .dst, affO 1 x.a .src, affO 2 (specB x.b) .src]
  let one (x : Fields) : List Opnd := [affO 0 x.d .dst, affO 1 x.a .src]
  Long .amul (P two (fun x => [x.a, specB x.b]) NoC fun s f x sym l => productAff (rdAff s f x.a l) (rdAff s f (specB x.b) l) none sym) ∧
  Long .afma (P (fun x => two x ++ [affO 3 x.c .src]) (fun x => [x.a, specB x.b, x.c]) (fun _ => True) fun s f x sym l =>
    productAff (rdAff s f x.a l) (rdAff s f (specB x.b) l) (some (rdAff s f x.c l)) sym) ∧
  Long .arcp (P one (fun x => [x.a]) (fun x => NoC x ∧ NoB x) fun s f x sym l => nonlinearAff 7 (rdAff s f x.a l) sym) ∧
  Long .asqrt (P one (fun x => [x.a]) (fun x => NoC x ∧ NoB x) fun s f x sym l => nonlinearAff 8 (rdAff s f x.a l) sym)

/-- R220, R298, R301 and R302: ACTR, ARAD, ABND and ASYM write the centre, the radius, the bounds and a coefficient to vector registers; AXFER leaves the
collapsed value of another lane outstanding, zero for a dead lane, whose reader dies once the results are written. -/
def Obligations.AffineQueriesAndTransfer : Prop :=
  let Q (regs : Nat) (useB : Bool) (val : Fields → Flight → Nat → Aff → Nat) (x : Fields) (run : Run) : Prop :=
    Tidy x 1 → IsLR x → NoC x → (useB = false → NoB x) →
      Computes run 5 x.st (dst 0 x.d [.v] regs :: affO 1 x.a .src :: if useB then srcB x.b [.v, .s, .z] else []) Flight.exm
        (fun s f => canonIn s f x.a) (fun s f => toV f f.exm x.d regs fun l => val x f l (rdAff s f x.a l)) (fun _ _ => noS) (fun _ _ => noS)
  Long .actr (Q 2 false fun _ _ _ a => a.centre) ∧
  Long .arad (Q 1 false fun _ _ _ a => radOf a) ∧
  Long .abnd (Q 4 false fun _ _ _ a => (boundsOf a).1 + (boundsOf a).2 * 2 ^ 64) ∧
  Long .asym (Q 1 true fun x f l a => coefOf a (x.b.lane f 1 l % 2 ^ 12)) ∧
  Long .axfer (fun x run => Tidy x 1 → IsLR x → NoC x →
    let from_ (f : Flight) (l : Nat) : Nat := x.b.lane f 1 l % 64
    let held (s : State) (f : Flight) (l : Nat) : List Nat := slotsOf f (affBase (s.afb f) (aNum x.a)) (from_ f l)
    ComputesLateKilling run 5 x.st (affO 0 x.d .dst :: affO 1 x.a .src :: srcB x.b [.v, .s, .z]) Flight.exm
      (fun s f => ∀ l < 64, f.exm.getLsbD l = true → f.dead.getLsbD (from_ f l) = false → canonical (held s f l) = true)
      (fun s f => toA s f x.d fun l => if f.dead.getLsbD (from_ f l) then ⟨0, 0, false, []⟩ else transferAff (affOf (held s f l)))
      fun f => maskOf (lanes.filter fun l => f.exm.getLsbD l && f.dead.getLsbD (from_ f l)))

/-- R215, R216, R218 and R221: an affine result encloses the exact result. If `x` and `y` enclose two reals for one choice of the symbols' values in [−1, 1],
then λx + μy + κ encloses the exact combination for the same choice, and xy encloses the exact product for that choice with some value in
[−1, 1] for the minted symbol. -/
def Obligations.AffineResultsEncloseExactResults : Prop :=
  let num (v : FVal) : ℚ := match v with | .num n m e => (if n then -1 else 1) * m * 2 ^ e | _ => 0
  let encloses (a : Aff) (ε : Nat → ℚ) (v : ℚ) : Prop :=
    a.unb = true ∨ |v - (num (fp64.decode a.centre) + (a.terms.map fun t => num (fp32.decode t.2) * ε t.1).sum)| ≤ num (fp32.decode a.slack)
  ∀ (x y : Aff) (ε : Nat → ℚ) (v w : ℚ), (∀ s, |ε s| ≤ 1) → encloses x ε v → encloses y ε w →
    (∀ lam mu kappa : FVal, encloses (linearAff [(lam, x), (mu, y)] kappa) ε (num lam * v + num mu * w + num kappa)) ∧
    ∀ sym, sym ∉ x.terms.map Prod.fst → sym ∉ y.terms.map Prod.fst →
      ∃ e, |e| ≤ 1 ∧ encloses (productAff x y none sym) (fun s => if s = sym then e else ε s) (v * w)

/-! ### Class MEM -/

/-- R304, R305, R306, R310, R311 and R315: LD, ST, LDL, STL and the loading form of LAND start one access per lane of EXM at
A + B × 2^SCL + IMM11; a load's destinations are pending until it lands, a store carries each lane's data; a release ends the region. -/
def Obligations.LoadsAndStoresStartOneAccessPerLane : Prop :=
  let addr (loc : Bool) (x : MFields) (f : Flight) (l : Nat) : Nat :=
    if loc then (rdLane f x.a 1 l + offB f x.b l * 2 ^ x.scl + ((BitVec.ofNat 11 x.imm).signExtend 32).toNat) % 2 ^ 32
    else (rdLane f x.a 2 l + offB f x.b l * 2 ^ x.scl + ((BitVec.ofNat 11 x.imm).signExtend 64).toNat) % 2 ^ 64
  let size (x : MFields) : Nat := [1, 1, 2, 2, 4, 8, 16, 32].getD x.ty 0
  let regs (x : MFields) : Nat := [1, 1, 1, 1, 1, 2, 4, 8].getD x.ty 0
  let spots (loc : Bool) (k : AccKind) (x : MFields) (s : State) (f : Flight) : Spots :=
    if loc then resolveLocal s f (size x) false (laneAddrs f (addr loc x f))
    else resolveGlobal s f k (size x) (size x) false (laneAddrs f (addr loc x f))
  let ordOk (x : MFields) (other : Nat) : Prop := x.ty ≤ 7 ∧ x.scope ≤ 5 ∧ (x.ord = 0 ∨ x.ord = other ∧ x.scope ≠ 0)
  let load (loc land : Bool) (op : MemOps → Instr) : Prop := ∀ o,
    let x := ofMem o
    let d := dst 0 x.d ([.v, .z] ++ if x.ty ≤ 4 then [.vx] else []) (regs x)
    ordOk x (if land then 0 else 1) → (loc ∨ land → x.hint = 0) →
      Starts (fun s => exec (op o) s) 3 0 [d, memA x loc, memB x] Flight.exm (some x.sb) (fun s f acc => s.charge f false acc)
        (fun s f acc => ∃ a, spots loc .load x s f = .ok a ∧ acc = a.map fun a => { a with reg := regAt f x.d (regs x) a.lane })
        id fun _ f acc o => o.kind = .load ∧ o.acc = acc ∧ o.dests = d.destList f 0 ∧ o.code = x.ty ∧ o.ord = x.ord ∧ o.scope = x.scope
          ∧ o.hint = x.hint ∧ o.land = land ∧ (o.toZero = true ↔ okind x.d = .zero)
  let store (loc : Bool) (op : MemOps → Instr) : Prop := ∀ o,
    let x := ofMem o
    let d := src 0 x.d ([.v, .z] ++ (if x.ty ≤ 4 then [.vx] else []) ++ if x.ty ≤ 5 then [.s] else []) (regs x)
    ordOk x 2 → (loc → x.hint = 0) →
      Starts (fun s => exec (op o) s) 3 0 [d, memA x loc, memB x] Flight.exm (some x.sb) (fun s f acc => s.charge f false acc)
        (fun s f acc => (x.ord = 2 → f.residual = [] ∧ EndsRegion s f) ∧
          ∃ a, spots loc .store x s f = .ok a ∧ acc = a.map fun a => { a with data := rdLane f x.d (regs x) a.lane % 2 ^ (8 * size x) })
        (fun f => if x.ord = 2 then { f with region := { f.region with valid := false } } else f)
        fun _ _ acc o => o.kind = .store ∧ o.acc = acc ∧ o.dests = [] ∧ o.ord = x.ord ∧ o.scope = x.scope ∧ o.hint = x.hint
  load false false .ld ∧ load true false .ldl ∧ store false .st ∧ store true .stl ∧
  ∀ o, (ofMem o).ty ≠ 15 → load false true (fun _ => .land o)

/-- R304, R307, R312 and R313: ATOM and ATOML start one atomic step per lane of EXM at A + IMM11 with the data of B; with a return the destinations are
pending and the instruction ends its region; the operation code is TY : SCL. -/
def Obligations.AtomicsStartOneStepPerLane : Prop :=
  let atomic (loc : Bool) (op : MemOps → Instr) : Prop := ∀ o,
    let x := ofMem o
    let code := 4 * x.ty + x.scl
    let size := atomSize code
    let n := size / 4
    let addr (f : Flight) (l : Nat) : Nat :=
      if loc then (rdLane f x.a 1 l + ((BitVec.ofNat 11 x.imm).signExtend 32).toNat) % 2 ^ 32
      else (rdLane f x.a 2 l + ((BitVec.ofNat 11 x.imm).signExtend 64).toNat) % 2 ^ 64
    let spots (s : State) (f : Flight) : Spots :=
      if loc then resolveLocal s f size false (laneAddrs f (addr f)) else resolveGlobal s f (.atomic code) size size false (laneAddrs f (addr f))
    let b := if code = 34 ∨ code = 35 then src 2 x.b [.v] (2 * n) else src 2 x.b ([.v, .s, .z] ++ if n = 1 then [.vx] else []) n
    let d := dst 0 x.d [.v, .z] n
    let ret := okind x.d ≠ .zero
    let data (f : Flight) (l : Nat) : Nat := rdLane f x.b (if code = 34 ∨ code = 35 then 2 * n else n) l
    atomCodeOk code = true → x.hint = 0 → x.scope ≤ 5 → (x.ord ≠ 0 → x.scope ≠ 0) →
      Starts (fun s => exec (op o) s) 3 0 [d, memA x loc, b] Flight.exm (some x.sb) (fun s f acc => s.charge f true acc)
        (fun s f acc => (ret ∨ x.ord = 2 ∨ x.ord = 3 → f.residual = []) ∧ (ret → EndsRegion s f) ∧
          ∃ a, spots s f = .ok a ∧ acc = a.map fun a =>
            { a with data := data f a.lane % 2 ^ (8 * size), data2 := data f a.lane / 2 ^ (8 * size), reg := regAt f x.d n a.lane })
        (fun f => if okind x.d ≠ .zero then { f with region := { f.region with valid := false } } else f)
        fun _ f acc o => o.kind = .atomic ∧ o.acc = acc ∧ o.code = code ∧ o.dests = d.destList f 0 ∧ o.ord = x.ord ∧ o.scope = x.scope
  atomic false .atom ∧ atomic true .atoml

/-- R314, R315, R317 and R318: PREF starts its lines' fills and drops the lanes that may not be prefetched, counted in HDROP; the register form of
LAND gives its registers landing slots, in ascending order while one of the 64 is free, and its token falls at once. TLD and TST, with all
lanes that are not dead in EXM, start one operation over the lines of their footprint; TLD's tile is pending, TST's is being read; a release
TST ends the region. -/
def Obligations.PrefetchesAndTileTransfersStart : Prop :=
  ( (∀ o, let x := ofMem o
      x.ty ≤ 1 → x.ord = 0 → x.scope ≤ 5 → unused x.d = true →
        ∀ s f acc n, Free s f 3 [memA x false, memB x] f.exm →
          prefSpots s f (laneAddrs f fun l => (rdLane f x.a 2 l + offB f x.b l * 2 ^ x.scl + ((BitVec.ofNat 11 x.imm).signExtend 64).toNat) % 2 ^ 64) = .ok (acc, n) →
          Clear s f (some x.sb) (s.charge f false acc) →
            ∃ t g, exec (.pref o) s = .next ((t.dropHint f n).spend f (s.charge f false acc)) ∧ Passes s t f g 0 ∧ blankOps g = blankOps f
              ∧ RegsAre f g noV noS noS (stepX f [memA x false, memB x])
              ∧ if acc = [] then g.ops = f.ops ∧ ∀ k, g.token k = f.token k
                else (∀ k, g.token k = f.token k + if x.sb = k then 1 else 0)
                  ∧ ∃ o, g.ops = f.ops ++ [o] ∧ o.seq = f.seq ∧ o.pc = f.pc ∧ o.sb = some x.sb ∧ o.kind = .pref ∧ o.acc = acc ∧ o.dests = []) ∧
    ∀ o, let x := ofMem o
      x.ty = 15 → x.ord = 0 → x.scope ≤ 5 → unused x.a = true → unused x.b = true → x.scl = 0 → x.hint = 0 → 1 ≤ x.imm → x.imm ≤ 64 →
        let d : Opnd := { pos := 0, spec := x.d, use := .src, kinds := [.v], regs := x.imm, multi := true }
        ∀ s f n, Free s f 3 [d] (BitVec.allOnes 64) → okind x.d = .v n → Clear s f (some x.sb) 0 →
          ∃ t g, exec (.land o) s = .next t ∧ Passes s t f g 0 ∧ blankOps g = blankOps f ∧ RegsAre f g noV noS noS noV
            ∧ g.ops = f.ops ∧ (∀ k, g.token k = f.token k) ∧ (∀ k, g.count k = f.count k)
            ∧ ∀ k, n ≤ k → k < n + x.imm → k ∈ g.slots ∨ g.slots.length = 64) ∧
  ( let tile (store : Bool) (op : MemOps → Instr) : Prop := ∀ o t,
      let x := ofMem o
      let side := decide (x.ty = 1)
      let base (f : Flight) : Nat := (rdLane f x.a 2 0 + ((BitVec.ofNat 11 x.imm).signExtend 64).toNat) % 2 ^ 64
      let pitch (f : Flight) : Nat := (rdUni f x.b).toNat
      let pieces (f : Flight) := tilePieces side (x.scl % 2) (f.shape t) (base f) (pitch f)
      okind x.d = .t t → x.ty ≤ 1 → x.scl ≤ 1 → (x.scl = 1 → x.ty = 0) → x.hint = 0 → x.scope ≤ 5 →
        x.ord = 0 ∨ x.ord = (if store then 2 else 1) ∧ x.scope ≠ 0 →
          Starts (fun s => exec (op o) s) 3 0
            [{ pos := 0, spec := x.d, use := if store then .src else .dst, kinds := [.t] }, src 1 x.a [.s, .z], src 2 x.b [.s, .z]]
            Flight.live (some x.sb)
            (fun s f acc => s.charge f false (acc.flatMap fun a =>
              ((pieces f).filter fun p => decide (p.1 / 128 * 128 = a.va)).map fun p => { a with pa := a.pa + p.1 % 128, size := 1 }))
            (fun s f acc => f.exm = ~~~f.dead ∧ f.regrouped = false ∧ shapeV (f.shape t) = true ∧ (side = true → shapeSbnd (f.shape t) ≠ 0) ∧
              (x.scl = 1 → shapeEw (f.shape t) = 0) ∧ acc ≠ [] ∧
              (side = false → shapeEw (f.shape t) ≠ 0 →
                base f % (shapeBits (f.shape t) / 8) = 0 ∧ pitch f % (shapeBits (f.shape t) / 8) = 0) ∧
              (store = false → (∀ p ∈ f.ops, Reg.tile t ∉ p.reads) ∧ ∀ e ∈ f.residual, Reg.tile t ∉ e.tiles) ∧
              (store = true → x.ord = 2 → f.residual = [] ∧ EndsRegion s f) ∧
              resolveTile s f store (base f) (sortBy id (dedup ((pieces f).map fun p => p.1 / 128 * 128))) = .ok acc)
            (fun f => if store = true ∧ x.ord = 2 then { f with region := { f.region with valid := false } } else f)
            fun _ _ acc o => o.kind = (if store then .tileStore else .tileLoad) ∧ o.acc = acc ∧ o.num = t
              ∧ o.dests = (if store then [] else [.tile t]) ∧ o.reads = (if store then [.tile t] else []) ∧ o.ord = x.ord ∧ o.scope = x.scope
    tile false .tld ∧ tile true .tst)

/-- R259, R260, R303, R319 and R320: ZFLUSH, ZDROP and ZERR start one operation per lane of EXM on the block of a view element, and CLEAN and INVAL
on a line; ZERR's destination is pending until it lands. SLD and SST start one access, whatever EXM holds, at A + B × scale + C or A + IMM32;
AZLD mints a symbol and starts one access per lane of EXM at A + B, with the 16 registers of its affine destination pending. -/
def Obligations.BlockLineScalarAndAffineAccessesStart : Prop :=
  ( let addr (x : MFields) (f : Flight) (l : Nat) : Nat :=
      (rdLane f x.a 2 l + offB f x.b l * 2 ^ x.scl + ((BitVec.ofNat 11 x.imm).signExtend 64).toNat) % 2 ^ 64
    let plain (op : MemOps → Instr) (k : AccKind) (size : Nat) (kind : OpKind) (withScope : Bool) : Prop := ∀ o,
      let x := ofMem o
      x.ty = 0 → x.hint = 0 → x.ord = 0 → x.scope ≤ 5 → (withScope = true → x.scope ≠ 0) → unused x.d = true →
        Starts (fun s => exec (op o) s) 3 0 [memA x false, memB x] Flight.exm (some x.sb) (fun _ _ _ => 0)
          (fun s f acc => resolveGlobal s f k size 1 false (laneAddrs f (addr x f)) = .ok acc) id
          fun _ _ acc o => o.kind = kind ∧ o.acc = acc ∧ o.dests = [] ∧ (withScope = true → o.scope = x.scope)
    plain .zflush (.block false) 4 .zflush false ∧ plain .zdrop (.block false) 4 .zdrop false ∧
    plain .clean .line 1 .clean true ∧ plain .inval .line 1 .inval true ∧
    ∀ o, let x := ofMem o
      let d := dst 0 x.d [.v]
      x.ty = 0 → x.hint = 0 → x.ord = 0 → x.scope ≤ 5 →
        Starts (fun s => exec (.zerr o) s) 3 0 [d, memA x false, memB x] Flight.exm (some x.sb) (fun s f acc => s.charge f false acc)
          (fun s f acc => ∃ a, resolveGlobal s f (.block true) 4 1 false (laneAddrs f (addr x f)) = .ok a ∧ acc = a.map fun a => { a with reg := regAt f x.d 1 a.lane })
          id fun _ f acc o => o.kind = .zerr ∧ o.acc = acc ∧ o.dests = d.destList f 0) ∧
  ( let size (x : Fields) : Nat := if x.li then 8 else if x.mod % 4 = 0 then 8 else 4
    let addr (x : Fields) (f : Flight) : Nat :=
      if x.li then ((rdUni f x.a).toNat + (x.b.uni f).toNat) % 2 ^ 64
      else ((rdUni f x.a).toNat + (x.b.uni f).toNat * 2 ^ (x.mod / 4 % 4) + (rdUni f x.c).toNat) % 2 ^ 64
    let os (x : Fields) : List Opnd := src 1 x.a [.s, .z] :: (srcB x.b [.s, .z] ++ if x.li then [] else [src 3 x.c [.s, .z]])
    Long .sld (fun x run => Tidy x 16 → x.mod % 4 < 3 →
      Starts run 0 x.st (dst 0 x.d [.s, .z] :: os x) (fun _ => BitVec.allOnes 64) none (fun s f acc => s.charge f false acc)
        (fun s f acc => acc ≠ [] ∧ ∃ a, resolveGlobal s f .load (size x) (size x) true [(0, addr x f)] = .ok a ∧
          acc = a.map fun a => { a with reg := match okind x.d with | .s n => n | _ => 0 })
        id fun _ f acc o => o.kind = .load ∧ o.acc = acc ∧ o.dests = (dst 0 x.d [.s, .z]).destList f 0 ∧ o.ord = 0
          ∧ o.code = if x.li then 16 else 16 + x.mod % 4) ∧
    Long .sst (fun x run => Tidy x 16 → x.mod % 4 < 2 →
      Starts run 0 x.st (src 0 x.d sK :: os x) (fun _ => BitVec.allOnes 64) none (fun s f acc => s.charge f false acc)
        (fun s f acc => acc ≠ [] ∧ ∃ a, resolveGlobal s f .store (size x) (size x) true [(0, addr x f)] = .ok a ∧
          acc = a.map fun a => { a with data := (rdUni f x.d).toNat % 2 ^ (8 * size x) })
        id fun _ _ acc o => o.kind = .store ∧ o.acc = acc ∧ o.dests = [] ∧ o.ord = 0) ∧
    Long .azld (fun x run => Tidy x 1 → IsLR x → NoC x → ∀ k, okind x.d = .a k →
      ∀ s f a, Free s f 5 (affO 0 x.d .dst :: src 1 x.a [.s] :: srcB x.b [.v]) f.exm → canMint f →
        resolveGlobal s f (.block true) 4 1 false (laneAddrs f fun l => ((rdUni f x.a).toNat + x.b.lane f 1 l) % 2 ^ 64) = .ok a →
        Clear s f none (s.charge f false a) →
          ∃ t g, run s = .next (t.spend f (s.charge f false a)) ∧ Passes s t f g x.st ∧ blankOps g = blankOps f ∧ g.symNext = f.symNext + 1
            ∧ (∀ j, g.token j = f.token j) ∧ RegsAre f g noV noS noS noV
            ∧ if a = [] then g.ops = f.ops
              else ∃ o, g.ops = f.ops ++ [o] ∧ o.kind = .azld ∧ o.seq = f.seq ∧ o.pc = f.pc ∧ o.sym = f.symNext.toNat
                ∧ o.acc = a.map (fun a => { a with reg := affBase (s.afb f) k })
                ∧ o.dests = (List.range 16).map fun i => .v (affBase (s.afb f) k + i)))

/-- R57, R64, R100, R308 and R310: a lane of LD or ST that is not a view lane and is misaligned raises trap 0x12 with every such lane in MASK and the
lowest lane's address in ADDR, before any translation; a lane of LDL or STL outside its allocation raises trap 0x11 with CAUSE 8; nothing is
performed. What the accesses of a global instruction are when no lane lies in a Z-region: one per lane, at the address its translation
gives, with the size of that translation's leaf, when every lane is aligned, translates with the permission needed, and stays out of device registers and code ranges; and of a local
one: one per lane, in the allocation that its address names. -/
def Obligations.LanesTranslateOrTrap : Prop :=
  ( let size (x : MFields) : Nat := [1, 1, 2, 2, 4, 8, 16, 32].getD x.ty 0
    let regs (x : MFields) : Nat := [1, 1, 1, 1, 1, 2, 4, 8].getD x.ty 0
    let ops (store loc : Bool) (x : MFields) : List Opnd :=
      [if store then src 0 x.d ([.v, .z] ++ (if x.ty ≤ 4 then [.vx] else []) ++ if x.ty ≤ 5 then [.s] else []) (regs x)
       else dst 0 x.d ([.v, .z] ++ if x.ty ≤ 4 then [.vx] else []) (regs x), memA x loc, memB x]
    let word (loc : Bool) (x : MFields) : Prop := x.ty ≤ 7 ∧ x.scope ≤ 5 ∧ x.ord = 0 ∧ (loc = true → x.hint = 0)
    let traps (store loc : Bool) (op : MemOps → Instr) (code cause info : Nat) (fails : MemOps → State → Flight → Nat → Prop) (addr : MemOps → Flight → Nat → Nat) : Prop :=
      ∀ o l, word loc (ofMem o) →
        Traps (fun s => exec (op o) s) 3
          (fun s f => Free s f 3 (ops store loc (ofMem o)) f.exm ∧ f.fenced = false ∧ (f.deferring = false ∨ f.residual = []) ∧
            l < 64 ∧ f.exm.getLsbD l = true ∧ fails o s f l ∧ ∀ k < l, f.exm.getLsbD k = true → ¬ fails o s f k)
          fun s f => { code, cause, info, addr := addr o f l,
                       mask := maskOf (lanes.filter fun k => f.exm.getLsbD k && @decide (fails o s f k) (Classical.propDecidable _)) }
    let ga (o : MemOps) (f : Flight) (l : Nat) : Nat := gaddr (ofMem o) f l
    let mis (o : MemOps) (s : State) (f : Flight) (l : Nat) : Prop :=
      s.zrAt (s.launchOf f).asid (ga o f l) = none ∧ ga o f l % size (ofMem o) ≠ 0
    let la (o : MemOps) (f : Flight) (l : Nat) : Nat := laddr (ofMem o) f l
    let outside (o : MemOps) (s : State) (f : Flight) (l : Nat) : Prop := s.local? f (la o f l) (size (ofMem o)) = none
    traps false false .ld 0x12 0 0 mis ga ∧ traps true false .st 0x12 0 0 mis ga ∧
    traps false true .ldl 0x11 8 0xFF outside la ∧ traps true true .stl 0x11 8 0xFF outside la) ∧
  ( (∀ s f k size uni (addrs : List (Nat × Nat)) (pa perm : Nat → Nat), k = .load ∨ k = .store → 0 < size →
      (∀ x ∈ addrs, s.zrAt (s.launchOf f).asid x.2 = none ∧ x.2 % size = 0 ∧
        s.xlate f (s.launchOf f).asid k.need x.2 = .ok (pa x.2) (perm x.2) ∧ paSpace (pa x.2) = some .tier ∧
        ∀ i < size, s.inCode (pa x.2 + i) = false) →
      (addrs.Pairwise fun x y => x.1 < y.1) →
        resolveGlobal s f k size size uni addrs =
          .ok (addrs.map fun x => { lane := x.1, va := x.2, space := .tier, pa := pa x.2, size, ro := !permWr (perm x.2), shift := (s.xlLeaf f (s.launchOf f).asid x.2).2 })) ∧
    ∀ s f size uni (addrs : List (Nat × Nat)) (w : Nat → Workgroup) (off : Nat → Nat),
      (∀ x ∈ addrs, s.local? f x.2 size = some (w x.2, off x.2) ∧ x.2 % size = 0) →
        resolveLocal s f size uni addrs =
          .ok (addrs.map fun x =>
            { lane := x.1, va := x.2, space := .loc (w x.2).id, pa := off x.2, size, tag := if (w x.2).id = f.wg then 0 else (w x.2).tag }))

/-! ### Class MAT -/

/-- R333 to R336, R213, R214: MMA puts acc + Σ aₖ·bₖ, rounded by groups of 16, into each element of D whose row and column both tiles have, and C's
element (or +0) into the others, in every live lane, when its readback lands; it joins the open batch and holds the array for 4 or 32 clocks. -/
def Obligations.MmaAccumulatesDotProducts : Prop :=
  ∀ o s f, let x := ofMat o
    let da := s.slotAt x.fsa; let db := s.slotAt x.fsb
    let ta := tNum x.a; let tb := tNum x.b
    let wa := f.shape ta; let wb := f.shape tb
    let ea := slotElem da; let eb := slotElem db; let k := shapeCols wa
    let wide : Bool := decide (ea = 0); let n := if ea = 0 then 32 else 16
    let fits (d : DWord) (w : Word) : Prop := slotOk d = true ∧ shapeBits w = elemBits (slotElem d) ∧
      (slotBsize d = 1 → shapeSbnd w = 2) ∧ (slotBsize d = 2 → shapeSbnd w = 1)
    let pair : Prop := fits da wa ∧ fits db wb ∧ shapeCols wb = k ∧ slotSkind da = slotSkind db ∧ shapeSbnd wa = shapeSbnd wb ∧
      (ea = 6 ∧ eb = 6 ∧ (k = 32 ∨ k = 64 ∨ k = 96) ∨
       (ea = 4 ∨ ea = 5) ∧ (eb = 4 ∨ eb = 5) ∧ k ≤ 48 ∧ (if slotSkind da = 1 then k % slotBlock da = 0 else shapeSbnd wa = 0) ∨
       (ea = 2 ∨ ea = 3) ∧ (eb = 2 ∨ eb = 3) ∧ k ≤ 24 ∧ shapeSbnd wa = 0 ∨
       ea = 0 ∧ eb = 0 ∧ k ≤ 6 ∧ shapeSbnd wa = 0)
    let os := [multiO 0 x.d .dst [.v] n n, tileO 1 x.a .src, tileO 2 x.b .src, multiO 3 x.c .src [.v, .z] n n]
    let chain (r : Reg) : Prop := ∃ m i, f.lastMma = some m ∧ m.code = n ∧ i < n ∧ r = .v (m.accBase + i) ∧ (okind x.d = .v m.accBase ∨ okind x.c = .v m.accBase)
    let C (h l : Nat) : Nat := match okind x.c with
      | .v c => accIn f (match f.lastMma with | some m => if m.accBase = c then some m else none | none => none) wide c h l
      | _ => 0
    let row (d : DWord) (t i : Nat) : List FVal := (List.range k).map fun j => tileVal d f.daz (f.tileNum t) (f.shape t) i j
    let rm := f.rm x.rm
    let elem (l h st : Nat) : Nat × Nat × Nat :=
      if 2 * h + l / 32 < shapeRows wa ∧ l % 32 < shapeRows wb then
        dotProduct (if wide then fp64 else fp32) rm f.ftz (C h l) st ((row da ta (2 * h + l / 32)).zip (row db tb (l % 32)))
      else (C h l, 0, st)
    let gen (l : Nat) : Nat → Nat := drawn (fun h st => (elem l h st).2.2) (f.rng l).toNat
    ∀ d, okind x.d = .v d → x.resv = 0 → pair → (∀ c, okind x.c = .v c → d = c ∨ d + n ≤ c ∨ c + n ≤ d) →
      Ready s f 4 → (∀ o ∈ os, o.bad f (s.afb f) = false) → (∀ o ∈ os, ∀ r ∈ o.regList f (s.afb f), f.isPending r = true → chain r) →
      (∀ y ∈ f.fixed, s.clock < y.ready → ∀ o ∈ os, y.reg ∉ o.regList f (s.afb f)) → (∃ m, countReads f (s.afb f) os f.counts = .ok m) →
      (∀ o ∈ os, o.marked f (s.afb f) f.live = []) → MatReady f x.sb os →
      f.exm = ~~~f.dead → f.residual = [] → (s.array f).awake = true → (s.array f).busyTo ≤ s.clock →
        ∃ r g p, exec (.mma o) s = .next { r with sched := { r.sched with
              arrays := mset ⟨0, false⟩ r.sched.arrays f.partKey ⟨s.clock + (if wide then 32 else 4), true⟩ } }
          ∧ Passes s r f g x.st ∧ { blankOps g with fstat := 0, stoch := [] } = { blankOps f with fstat := 0, stoch := [] }
          ∧ (∀ k, g.token k = f.token k + if x.sb = k then 1 else 0) ∧ RegsAre f g noV noS noS noV
          ∧ g.fstat = fstatAdd f.fstat ((lanes.flatMap fun l => (List.range 16).map fun h => (elem l h (gen l h)).2.1).foldl (· ||| ·) 0) {}
          ∧ (∀ l < 64, g.rng l = BitVec.ofNat 32 (gen l 16))
          ∧ g.ops = f.ops ++ [p] ∧ p.kind = .mma ∧ p.batch = f.batch ∧ p.sb = some x.sb ∧ p.dests = (List.range n).map (fun i => Reg.v (d + i))
          ∧ ∀ q l, l < 64 → (p.writes.foldl Flight.regWrite f).rdS q = f.rdS q ∧
              if d ≤ q ∧ q < d + n then
                f.dead.getLsbD l = false →
                  let h := if wide then (q - d) / 2 else q - d
                  (p.writes.foldl Flight.regWrite f).rdV q l =
                    BitVec.ofNat 32 ((elem l h (gen l h)).1 / if wide ∧ (q - d) % 2 = 1 then 2 ^ 32 else 1)
              else (p.writes.foldl Flight.regWrite f).rdV q l = f.rdV q l

/-- R338, R339, R340: MGATH begins its reads and stays at the instruction until they are done, then it passes, charged for its lines, with its tile pending; MCLOSE waits for batch
O − 127, gives the number of the open batch and opens the next; TSHP writes the shape register at once. -/
def Obligations.GatherBatchAndShape : Prop :=
  (∀ o s f, let x := ofMat o
    let os := [tileO 0 x.d .dst, src 1 x.a [.s], src 2 x.b [.s], src 3 x.c [.s]]
    x.resv = 0 → x.fsa = 0 → x.fsb = 0 → x.rm = 0 → Free s f 4 os f.live → MatReady f x.sb os → Clear s f none 0 → f.exm = ~~~f.dead →
      1 ≤ shapeEw (f.shape (tNum x.d)) → (rdUni f x.a).toNat % 32 = 0 →
        ((∀ p ∈ f.ops, p.kind = .mgath → p.seq ≠ f.seq) →
          exec (.mgath o) s = .next (s.addOp f.id fun id =>
            { id, seq := f.seq, pc := f.pc, kind := .mgath, num := tNum x.d, sym := (f.shape (tNum x.d)).toNat
              accBase := (rdUni f x.a).toNat, batch := (rdUni f x.b).toNat, scope := (rdUni f x.c).toNat, code := x.a })) ∧
        ∀ p, (f.ops.find? fun p => decide (p.kind = .mgath) && decide (p.seq = f.seq)) = some p →
          (p.acquired = false → exec (.mgath o) s = .next s) ∧
          (p.acquired = true → s.charge f false p.acc = 0 ∨ 1 ≤ s.bucket (bucketKey s f) → ∃ r g, exec (.mgath o) s = .next (r.spend f (s.charge f false p.acc)) ∧ Passes s r f g x.st
            ∧ blankOps g = blankOps f ∧ (∀ k, g.token k = f.token k + if x.sb = k then 1 else 0) ∧ RegsAre f g noV noS noS noV
            ∧ g.ops = (f.ops.filter fun q => decide (q.id ≠ p.id)) ++
                [{ p with kind := .result, acc := [], dests := [.tile (tNum x.d)], sb := some x.sb }])) ∧
  (∀ o, let x := ofMat o
    x.resv = 0 → NoMat x true true true → x.fsa = 0 → x.fsb = 0 → x.rm = 0 →
      ComputesMat (fun s => exec (.mclose o) s) x.st x.sb [dst 0 x.d [.s, .z]] (fun _ => BitVec.allOnes 64)
        (fun _ f => ∀ p ∈ f.ops, p.kind = .mma → p.batch ≠ (f.batch + 129) % 256)
        (fun _ => noV) (fun f => toS x.d (BitVec.ofNat 64 f.batch)) 16 noB noAccount
        fun f r => r.updFlight f.id fun g => { g with batch := (f.batch + 1) % 256 }) ∧
  ∀ o s f, let x := ofMat o
    let os := [tileO 0 x.d .dst, src 1 x.a [.s, .z]]
    let w : Word := BitVec.ofNat 32 (rdUni f x.a).toNat
    x.resv = 0 → NoMat x false true true → x.fsa = 0 → x.fsb = 0 → x.rm = 0 → ∀ t, okind x.d = .t t → Free s f 4 os (BitVec.allOnes 64) →
      f.token x.sb < 63 → f.isHandler = false → f.regrouped = false →
      (∀ p ∈ f.ops, Reg.tile t ∉ p.reads) → (∀ e ∈ f.residual, Reg.tile t ∉ e.tiles) →
        if shapeResv w = true ∨ (shapeV w = true ∧ shapeOk w = false) then
          exec (.tshp o) s = .next (s.raiseTrap f.id { code := 0x02, cause := 1, mask := BitVec.allOnes 64, aux := x.a })
        else ∃ r g, exec (.tshp o) s = .next r ∧ Passes s r f g x.st
          ∧ { blankIssue g with tokens := [], shapes := [] } = { blankIssue f with tokens := [], shapes := [] }
          ∧ (∀ k, g.token k = f.token k) ∧ RegsAre f g noV noS noS noV ∧ ∀ k, g.shape k = if k = t then w else f.shape k

/-- R341 and R343: TZERO clears the element bits and side-band bytes in use; TMOVV writes those bits of the lanes of EXM from A and B by Table 14-3; VMOVT
reads them into D and C, zero outside the shape (where C is among D's six registers, of which R343 does not speak, C's value stands: the model's
choice, log 24). Every other bit and register keeps its value. -/
def Obligations.TileMovesFollowTable14_3 : Prop :=
  (∀ o, let x := ofMat o
    x.resv = 0 → NoMat x true true true → x.fsa = 0 → x.fsb = 0 → x.rm = 0 → ∀ t, okind x.d = .t t →
      ComputesMat (fun s => exec (.tzero o) s) x.st x.sb [tileO 0 x.d .dst] (fun _ => BitVec.allOnes 64)
        (fun _ f => shapeOk (f.shape t) = true) (fun _ => noV) (fun _ => noS) t
        (fun _ f b => open Classical in if inRows (f.shape t) b ∨ inSide (f.shape t) b then some false else none) noAccount fun _ r => r) ∧
  (∀ o, let x := ofMat o
    x.resv = 0 → NoMat x false false true → x.fsa = 0 → x.fsb = 0 → x.rm = 0 → ∀ t, okind x.d = .t t →
      ComputesMat (fun s => exec (.tmovv o) s) x.st x.sb [tileO 0 x.d .dst, multiO 1 x.a .src [.v, .z] 6 1, src 2 x.b [.v, .z]] Flight.exm
        (fun _ f => shapeOk (f.shape t) = true) (fun _ => noV) (fun _ => noS) t
        (fun _ f b => open Classical in
          let w := b % 384 / 32; let l := b / 384 + 32 * (w / 6); let i := (b - 12288) / 24
          if inRows (f.shape t) b ∧ f.exm.getLsbD l = true then
            match okind x.a with | .v r => some ((f.rdV (r + w % 6) l).getLsbD (b % 32)) | _ => none
          else if inSide (f.shape t) b ∧ f.exm.getLsbD i = true then
            match okind x.b with | .v r => some ((f.rdV r i).getLsbD ((b - 12288) % 24)) | _ => none
          else none) noAccount fun _ r => r) ∧
  ∀ o, let x := ofMat o
    x.resv = 0 → NoMat x false true false → x.fsa = 0 → x.fsb = 0 → x.rm = 0 → ∀ t, okind x.a = .t t →
      ComputesMat (fun s => exec (.vmovt o) s) x.st x.sb
        [multiO 0 x.d .dst [.v, .z] 6 1, tileO 1 x.a .src, multiO 3 x.c .dst [.v, .z] 1 1] Flight.exm
        (fun _ f => shapeOk (f.shape t) = true)
        (fun f n l => open Classical in
          let word (b0 : Nat) (inUse : Nat → Prop) : Word :=
            BitVec.ofNat 32 ((List.range 32).map fun k => if inUse (b0 + k) ∧ tileBit f t (b0 + k) = true then 2 ^ k else 0).sum
          let data : Option Word := match okind x.d with
            | .v d => if d ≤ n ∧ n < d + 6 then some (word (384 * (l % 32) + 32 * (n - d + 6 * (l / 32))) (inRows (f.shape t))) else none
            | _ => none
          let side : Option Word := match okind x.c with
            | .v c => if n = c then some (if l < 32 then BitVec.ofNat 32 ((List.range 24).map fun k =>
                if inSide (f.shape t) (12288 + 24 * l + k) ∧ tileBit f t (12288 + 24 * l + k) = true then 2 ^ k else 0).sum else 0) else none
            | _ => none
          if f.exm.getLsbD l = true then side <|> data else none) (fun _ => noS) 16 noB noAccount fun _ r => r

/-- R342 and R344: TSCL adds n to the exponent of every side-band byte in use, clamped, with OVF or UNF and INX for each clamp; TCVT re-encodes every element of A
into D with one rounding, each block of D taking its scale, counted in FSTAT, with one draw an element from lane 0 in row-major order. -/
def Obligations.TileScalingAndConversion : Prop :=
  (∀ o, let x := ofMat o
    let add (kind : Nat) (n : Int) (u : Nat) : Nat × Nat :=
      if kind = 1 ∧ u = 255 then (255, 0)
      else
        let e : Int := if kind = 1 then u else (u % 64 : Nat)
        let top : Int := if kind = 1 then 254 else 63
        ((if kind = 1 then 0 else u / 64 * 64) + (max 0 (min top (e + n))).toNat, if e + n < 0 then 0x18 else if top < e + n then 0x14 else 0)
    x.resv = 0 → NoMat x true false true → x.fsb = 0 → x.rm = 0 → ∀ t, okind x.d = .t t →
      ComputesMat (fun s => exec (.tscl o) s) x.st x.sb [tileO 0 x.d .both, src 2 x.b [.s, .z]] (fun _ => BitVec.allOnes 64)
        (fun s f => let d := s.slotAt x.fsa
          shapeOk (f.shape t) = true ∧ slotOk d = true ∧ slotSkind d ≠ 0 ∧ shapeSbnd (f.shape t) = if slotBsize d = 1 then 2 else 1)
        (fun _ => noV) (fun _ => noS) t
        (fun s f b => open Classical in
          if inSide (f.shape t) b then
            some ((add (slotSkind (s.slotAt x.fsa)) ((rdUni f x.b).setWidth 32).toInt (f.rdTile t (b / 8)).toNat).1.testBit (b % 8))
          else none)
        (fun s f g => (∀ l < 64, g.rng l = f.rng l) ∧
          g.fstat = fstatAdd f.fstat (((List.range (shapeRows (f.shape t))).flatMap fun i => (List.range (scaleGroups (f.shape t))).map fun k =>
            (add (slotSkind (s.slotAt x.fsa)) ((rdUni f x.b).setWidth 32).toInt (f.rdTile t (1536 + 3 * i + k)).toNat).2).foldl (· ||| ·) 0) {})
        fun _ r => r) ∧
  ∀ o, let x := ofMat o
    x.resv = 0 → NoMat x false true true → ∀ t a, okind x.d = .t t → okind x.a = .t a →
      let da (s : State) := s.slotAt x.fsa; let db (s : State) := s.slotAt x.fsb
      let fits (d : DWord) (w : Word) : Prop := slotOk d = true ∧ shapeBits w = elemBits (slotElem d) ∧
        (slotBsize d = 1 → shapeSbnd w = 2) ∧ (slotBsize d = 2 → shapeSbnd w = 1)
      let val (s : State) (f : Flight) (i j : Nat) : FVal := tileVal (da s) f.daz (f.tileNum a) (f.shape a) i j
      let scale (s : State) (f : Flight) (i q : Nat) : Nat :=
        chooseScale (db s) (f.rm x.rm) ((((List.range (shapeCols (f.shape a))).map (val s f i)).drop (q * slotBlock (db s))).take (slotBlock (db s)))
      let elem (s : State) (f : Flight) (k st : Nat) : LaneRes :=
        let i := k / shapeCols (f.shape a); let j := k % shapeCols (f.shape a)
        let (st', dr) := draw (f.rm x.rm) st
        let r := slotWrite (db s) f.ftz (f.rm x.rm) dr (if slotBlock (db s) = 0 then 0 else scale s f i (j / slotBlock (db s))) (val s f i j)
        { bits := r.bits, flags := r.flags, cat := r.cat, st := st' }
      let gen (s : State) (f : Flight) : Nat → Nat := drawn (fun k st => (elem s f k st).st) (f.rng 0).toNat
      let all (s : State) (f : Flight) : List LaneRes :=
        (List.range (shapeRows (f.shape a) * shapeCols (f.shape a))).map fun k => elem s f k (gen s f k)
      ComputesMat (fun s => exec (.tcvt o) s) x.st x.sb [tileO 0 x.d .dst, tileO 1 x.a .src] (fun _ => BitVec.allOnes 64)
        (fun s f => shapeOk (f.shape t) = true ∧ shapeOk (f.shape a) = true ∧ fits (da s) (f.shape a) ∧ fits (db s) (f.shape t) ∧
          shapeRows (f.shape t) = shapeRows (f.shape a) ∧ shapeCols (f.shape t) = shapeCols (f.shape a) ∧
          fstatCross f.fstat (fstatAdd f.fstat ((all s f).foldl (fun m r => m ||| r.flags) 0) ((all s f).foldl (fun c r => c.add r.cat) {})) = false)
        (fun _ => noV) (fun _ => noS) t
        (fun s f b => open Classical in
          let w := shapeBits (f.shape t); let i := b / 384; let j := b % 384 / w
          if inRows (f.shape t) b then
            some ((elem s f (i * shapeCols (f.shape a) + j) (gen s f (i * shapeCols (f.shape a) + j))).bits.testBit (b % 384 % w))
          else if slotBlock (db s) ≠ 0 ∧ inSide (f.shape t) b then some ((scale s f ((b - 12288) / 24) ((b - 12288) % 24 / 8)).testBit (b % 8))
          else none)
        (fun s f g => g.fstat = fstatAdd f.fstat ((all s f).foldl (fun m r => m ||| r.flags) 0) ((all s f).foldl (fun c r => c.add r.cat) {}) ∧
          (∀ l < 64, l ≠ 0 → g.rng l = f.rng l) ∧ g.rng 0 = BitVec.ofNat 32 (gen s f (shapeRows (f.shape a) * shapeCols (f.shape a))))
        fun _ r => r

/-! ### Class SYNC -/

/-- R323, R324 and R165: an arrival joins the open instance (its sets of writes with it) once its release is done, with the count that B or the participants
give; BARA goes on; BAR stands at the instruction until its instance is complete, BARW until the pending one is, at once if there is none; leaving acquires
the Before sets of all arrivals. An instance with count n stays open just while it has fewer than n arrivals. -/
def Obligations.BarriersCollectArrivalsAndHold : Prop :=
  let word (x : SFields) : Prop := x.resv = 0 ∧ x.sb = 0 ∧ x.ord = 0 ∧ 1 ≤ x.scope ∧ x.scope ≤ 4 ∧ x.id < 1024 ∧ unused x.a = true ∧ unused x.d = true
  let count (x : SFields) (f : Flight) : Option Nat := if okind x.b = .zero then none else some (rdUni f x.b).toNat
  let may (x : SFields) (s : State) (f : Flight) : Prop :=
    f.isHandler = false ∧ f.fenced = false ∧ f.residual = [] ∧ (3 ≤ x.scope → recPersist (s.recOf f) = true)
  let arrives (x : SFields) (s : State) (f : Flight) : Prop := may x s f ∧ f.waiting 4 = none ∧
    (let n := (count x f).getD (barParts s f x.scope)
     0 < n ∧ n ≤ barParts s f x.scope ∧ ∀ b, s.joins f x.scope x.id = some b → b.count.getD (barParts s f x.scope) = n) ∧
    (x.scope = 2 → s.clPlaced f = true) ∧ s.releaseOk f f.seq x.scope (s.beforeOf f f.seq) = true ∧
    ((s.joins f x.scope x.id).isSome = true ∨ (s.barriers.filter fun b => decide (b.core = s.barCore f x.scope)).length < 1024)
  let leave (x : SFields) (s : State) (f : Flight) (a : ArrivedAt) : State :=
    ((s.updFlight f.id fun f => { f with arrivals := f.arrivals.filter fun b => decide (b.inst ≠ a.inst) }).observe f.id f.seq a.before).acquire f.core x.scope
  let os (x : SFields) : List Opnd := [src 2 x.b [.s, .z]]
  (∀ o, let x := ofSync o
    word x → Acts (fun s => exec (.bara o) s) 6 x.st (os x) (fun _ => BitVec.allOnes 64) (arrives x) fun _ f t => t.arrive f x.scope x.id (count x f)) ∧
  (∀ o, let x := ofSync o
    word x → unused x.b = true → ∀ a, (∀ b, a = some b → b.done = true) →
      Acts (fun s => exec (.barw o) s) 6 x.st [] (fun _ => BitVec.allOnes 64) (fun s f => may x s f ∧ f.pendingBar x.scope x.id = a)
        fun _ f t => match a with | some a => leave x t f a | none => t) ∧
  (∀ o, let x := ofSync o
    word x → (∀ s f, Free s f 6 (os x) (BitVec.allOnes 64) → arrives x s f →
      let t := s.arrive f x.scope x.id (count x f)
      ∃ g a, t.flight? f.id = some g ∧ g.pendingBar x.scope x.id = some a ∧ exec (.bar o) s = .next (
        if a.done then t.setFlight { g with wait := some { kind := 4, since := t.clock, pc := g.pc, num := x.id, val := x.scope } }
        else t.setFlight (g.park { kind := 4, num := x.id, val := x.scope } t.clock))) ∧
    ∀ a, a.done = true → Acts (fun s => exec (.bar o) s) 6 x.st (os x) (fun _ => BitVec.allOnes 64)
      (fun s f => may x s f ∧ (f.waiting 4).isSome = true ∧ f.pendingBar x.scope x.id = some a) fun _ f t => leave x (t.updFlight f.id Flight.endRegion) f a) ∧
  ∀ (s : State) b n, b ∈ s.barriers → b.count = some n → (b ∈ s.completeBars.barriers ↔ b.arrived.length < n)

/-- R325, R326, R164: SEMADD, SEMSET and SEMRD start one step of the unit on the semaphore named, SEMADD ending its region; SEMRD's
destination is pending; FENCE becomes outstanding at its scope; SEMWAIT passes when value − T, signed, is at least 0, acquiring the semaphore's
Before set and raising trap 0x1A at a mark, and parks when it is not. -/
def Obligations.SemaphoresAndFence : Prop :=
  let word (x : SFields) : Prop := x.resv = 0 ∧ x.scope ≤ 5 ∧ (x.ord = 0 ∨ x.ord = 2 ∧ x.scope ≠ 0)
  let acc (x : SFields) (s : State) (f : Flight) (data : Nat) (a : List Access) : Prop :=
    ∃ w n, s.semRef f x.id = some (w, n) ∧ n < w.nsem ∧ a = [{ space := .loc w.id, pa := n, size := 1, data }]
  let write (op : SyncOps → Instr) (kind : OpKind) (always : Bool) : Prop := ∀ o,
    let x := ofSync o
    word x → unused x.a = true → unused x.d = true →
      Starts (fun s => exec (op o) s) 6 x.st [src 2 x.b [.s, .z]] (fun _ => BitVec.allOnes 64) (some x.sb) (fun _ _ _ => 0)
        (fun s f a => f.isHandler = false ∧ (always = true ∨ x.ord = 2 → f.residual = []) ∧ (always = true → EndsRegion s f) ∧ acc x s f ((rdUni f x.b).toNat % 2 ^ 32) a)
        (fun f => if always = true then { f with region := { f.region with valid := false } } else f)
        fun _ _ a o => o.kind = kind ∧ o.acc = a ∧ o.dests = [] ∧ o.ord = x.ord ∧ o.scope = x.scope
  write .semadd .semAdd true ∧ write .semset .semSet false ∧
  (∀ o, let x := ofSync o
    x.resv = 0 → x.scope = 0 → x.ord = 0 → unused x.a = true → unused x.b = true →
      Starts (fun s => exec (.semrd o) s) 6 x.st [dst 0 x.d [.s, .z]] (fun _ => BitVec.allOnes 64) (some x.sb) (fun _ _ _ => 0)
        (fun s f a => acc x s f 0 a) id fun _ f a o => o.kind = .semRd ∧ o.acc = a ∧ o.dests = (dst 0 x.d [.s, .z]).destList f 0) ∧
  (∀ o s f, let x := ofSync o
    x.resv = 0 → 1 ≤ x.scope → x.scope ≤ 5 → x.ord = 0 → x.id = 0 → unused x.a = true → unused x.b = true → unused x.d = true →
      Free s f 6 [] (BitVec.allOnes 64) → Clear s f (some x.sb) 0 →
        ∃ t g p, exec (.fence o) s = .next t ∧ Passes s t f g x.st ∧ blankOps g = blankOps f ∧ RegsAre f g noV noS noS noV
          ∧ (∀ k, g.token k = f.token k + if x.sb = k then 1 else 0) ∧ g.ops = f.ops ++ [p] ∧ p.kind = .fence ∧ p.scope = x.scope
          ∧ p.seq = f.seq ∧ p.sb = some x.sb ∧ p.acc = [] ∧ p.dests = []) ∧
  ∀ o, let x := ofSync o
    x.resv = 0 → x.scope = 0 → x.ord = 0 → x.sb = 0 → unused x.a = true → unused x.d = true → ∀ w n, n < w.nsem →
      let may (s : State) (f : Flight) : Prop :=
        f.isHandler = false ∧ f.fenced = false ∧ s.semRef f x.id = some (w, n) ∧ f.earlierOn f.seq w.id n 1 true = false ∧ f.acquiresBefore f.seq = false
          ∧ f.waiting 1 = none
      let reached (f : Flight) : Prop := 0 ≤ ((w.sem n).val - (rdUni f x.b).setWidth 32).toInt
      Acts (fun s => exec (.semwait o) s) 6 x.st [src 2 x.b [.s, .z]] (fun _ => BitVec.allOnes 64) (fun s f => may s f ∧ reached f)
        (fun _ f t =>
          match (w.sem n).mark with
          | some seq => (t.observe f.id f.seq (w.sem n).before).raiseTrap f.id { code := 0x1A, cause := 2, aux := x.id, xtra := seq, pc := some f.pc }
          | none => t.observe f.id f.seq (w.sem n).before) ∧
      ∀ s f, Free s f 6 [src 2 x.b [.s, .z]] (BitVec.allOnes 64) → may s f → ¬ reached f →
        exec (.semwait o) s = .next (s.updFlight f.id fun f =>
          f.park { kind := 1, wg := w.id, num := n, val := (rdUni f x.b).toNat % 2 ^ 32 } s.clock)

/-- R327 to R330: MWAIT passes when its batch is complete and parks while an MMA of it is outstanding; CHKWAIT passes when the word holds all bits of the mask,
acquiring what gave it its bits, and parks when it does not; YIELD makes the flight the youngest that waits; WAITSB passes when the tokens of its mask are zero and changes nothing before. -/
def Obligations.WaitsPassWhenSatisfied : Prop :=
  let word (x : SFields) : Prop := x.resv = 0 ∧ x.scope = 0 ∧ x.ord = 0 ∧ x.sb = 0 ∧ unused x.d = true
  let all : Flight → DWord := fun _ => BitVec.allOnes 64
  (∀ o, let x := ofSync o
    word x → unused x.a = true → unused x.b = true → x.id < 256 →
      let late (f : Flight) : Prop := (f.batch + 256 - x.id) % 256 ≤ 128 ∧ ∃ p ∈ f.ops, p.kind = .mma ∧ p.batch % 256 = x.id
      Acts (fun s => exec (.mwait o) s) 6 x.st [] all (fun _ f => f.fenced = false ∧ (f.batch + 256 - x.id) % 256 ≠ 0 ∧ ¬ late f) (fun _ _ t => t) ∧
      ∀ s f, Free s f 6 [] (all f) → f.fenced = false → (f.batch + 256 - x.id) % 256 ≠ 0 → late f →
        exec (.mwait o) s = .next (s.updFlight f.id fun f => f.park { kind := 3, num := x.id } s.clock)) ∧
  (∀ o, let x := ofSync o
    word x → x.id = 0 →
      let os := [src 1 x.a [.s, .z], src 2 x.b [.s]]
      let may (s : State) (f : Flight) (g : Workgroup) (off : Nat) : Prop := f.fenced = false ∧ f.waiting 2 = none ∧
        s.local? f ((rdUni f x.a).toNat % 2 ^ 32) 4 = some (g, off) ∧ s.wg? g.id = some g ∧ (rdUni f x.a).toNat % 4 = 0 ∧
          ((rdUni f x.b).toNat % 2 ^ 32 ≠ 0 → f.earlierOn f.seq g.id off 4 false = false ∧ f.acquiresBefore f.seq = false)
      let has (f : Flight) (g : Workgroup) (off : Nat) : Prop :=
        cellsGet g.mem off 4 &&& (rdUni f x.b).toNat % 2 ^ 32 = (rdUni f x.b).toNat % 2 ^ 32
      (∀ g off, Acts (fun s => exec (.chkwait o) s) 6 x.st os all (fun s f => may s f g off ∧ has f g off) fun _ f t =>
        t.observe f.id f.seq (if (rdUni f x.b).toNat % 2 ^ 32 = 0 then [] else t.chunkSeen f g off)) ∧
      ∀ s f g off, Free s f 6 os (all f) → may s f g off → ¬ has f g off →
        exec (.chkwait o) s = .next (s.updFlight f.id fun f =>
          f.park { kind := 2, wg := g.id, num := off, val := (rdUni f x.b).toNat % 2 ^ 32 } s.clock)) ∧
  (∀ o, let x := ofSync o
    word x → unused x.a = true → unused x.b = true → x.id = 0 →
      Acts (fun s => exec (.yield o) s) 6 x.st [] all (fun _ f => f.fenced = false) fun _ f t =>
        match t.flight? f.id with
        | some g => { t with flights := t.flights.filter (fun h => decide (h.id ≠ f.id)) ++ [g.leaveActive] }
        | none => t) ∧
  ∀ o, let x := ofSync o
    word x → unused x.a = true → unused x.b = true → x.id < 256 →
      Acts (fun s => exec (.waitsb o) s) 6 x.st [] all (fun _ f => f.fenced = false ∧ ∀ k < 8, x.id.testBit k = true → f.token k = 0) (fun _ _ t => t) ∧
      ∀ s f k, Free s f 6 [] (all f) → f.fenced = false → k < 8 → x.id.testBit k = true → f.token k ≠ 0 → exec (.waitsb o) s = .next s

/-! ### Class CTRL -/

/-- R345, R347, R348, R354: NOP passes; BRA jumps to PC + 4·OFF; BRC jumps, falls through or diverges by its condition, pushing RECONV of EXM and PENDING of
the lanes not taken, and running the taken ones; CALL also writes PC + 8; RET jumps to S[A], all 64 bits of it. -/
def Obligations.BranchesCallsAndReturns : Prop :=
  let all : Flight → DWord := fun _ => BitVec.allOnes 64
  let goal (o : BrOps) (f : Flight) : Nat := (((f.pc : Int) + 4 * o.off.toInt) % 2 ^ 48).toNat
  let jump (pc : Nat) (f : Flight) (t : State) : State := t.updFlight f.id fun g => { g with pc := pc % 2 ^ 64, clause := none }
  let plain (x : CFields) : Prop := x.resv = 0 ∧ x.mod = 0 ∧ unused x.d = true ∧ unused x.b = true ∧ unused x.c = true
  let last : State → Flight → Prop := fun _ f => f.isLast = true
  (∀ o, let x := ofCtl o
    plain x → unused x.a = true → Acts (fun s => exec (.nop o) s) 7 x.st [] all (fun _ _ => True) fun _ _ t => t) ∧
  (∀ o, let x := ofBr o
    x.mod = 0 → unused x.d = true → unused x.a = true → Acts (fun s => exec (.bra o) s) 7 x.st [] all last fun _ f t => jump (goal o f) f t) ∧
  (∀ o, let x := ofBr o
    let acts (when_ : State → Flight → Prop) (u : State → Flight → State → State) : Prop :=
      Acts (fun s => exec (.brc o) s) 7 x.st [src 1 x.a [.p, .s]] all (fun s f => f.isLast = true ∧ when_ s f) u
    unused x.d = true →
      (∀ n, okind x.a = .s n → x.mod < 2 →
        acts (fun _ f => f.rdS n ≠ 0 ↔ x.mod = 0) (fun _ f t => jump (goal o f) f t) ∧ acts (fun _ f => ¬ (f.rdS n ≠ 0 ↔ x.mod = 0)) fun _ _ t => t) ∧
      ∀ n, okind x.a = .p n → x.mod < 6 →
        let T (f : Flight) : DWord := f.exm &&& if x.mod % 2 = 1 then ~~~f.rdP n else f.rdP n
        let jumps (f : Flight) : Prop := if x.mod / 2 = 1 then T f ≠ 0 else T f = f.exm
        let splits (f : Flight) : Prop := x.mod / 2 = 0 ∧ T f ≠ f.exm ∧ T f ≠ 0
        let es (f : Flight) : List StackEntry := [.reconv f.exm, .pending (f.exm &&& ~~~T f) f.nextHeader]
        acts (fun _ f => jumps f) (fun _ f t => jump (goal o f) f t) ∧ acts (fun _ f => ¬ jumps f ∧ ¬ splits f) (fun _ _ t => t) ∧
        acts (fun s f => splits f ∧ ∃ s', pushAll f (es f) s = .ok s') fun _ f t =>
          jump (goal o f) f ((t.orSame (pushAll f (es f) t)).updFlight f.id fun g => { g with exm := T f &&& g.live })) ∧
  (∀ o s f, let x := ofBr o
    x.mod = 0 → unused x.a = true → Free s f 7 [dst 0 x.d [.s]] (all f) → f.isLast = true →
      ∃ t g, exec (.call o) s = .next (jump (goal o f) f t) ∧ Passes s t f g x.st ∧ blankIssue g = blankIssue f
        ∧ RegsAre f g noV (toS x.d (BitVec.ofNat 64 ((f.pc + 8) % 2 ^ 48))) noS noV) ∧
  ∀ o, let x := ofCtl o
    plain x → Acts (fun s => exec (.ret o) s) 7 x.st [src 1 x.a [.s]] all last fun _ f t => jump (rdUni f x.a).toNat f t

/-- R346, R349, R350, R355, R373: a push on chip puts entries on top and JOIN pops one, PENDING giving mask and PC, RECONV the mask, less dead and exited lanes;
BRI jumps, or pushes its other groups so that they run in ascending order of lowest lane; EXIT ends the flight, or removes its lanes everywhere and joins. -/
def Obligations.StackGroupsJoinAndExit : Prop :=
  let all : Flight → DWord := fun _ => BitVec.allOnes 64
  let plain (x : CFields) : Prop := x.resv = 0 ∧ x.mod = 0 ∧ unused x.d = true ∧ unused x.b = true ∧ unused x.c = true
  let jump (pc : Nat) (f : Flight) (t : State) : State := t.updFlight f.id fun g => { g with pc := pc % 2 ^ 64, clause := none }
  (∀ s f es, s.flight? f.id = some f → es ≠ [] → f.spilled = [] → f.stack.length + es.length ≤ 32 →
    pushAll f es s = .ok (s.setFlight { f with stack := es.reverse ++ f.stack })) ∧
  (∀ s f, s.flight? f.id = some f → f.spilled = [] →
    joinPop f s = .ok (match f.stack with
      | .pending m pc :: r => s.setFlight { f with stack := r, exm := m &&& f.live, pc := pc % 2 ^ 64, clause := none }
      | .reconv m :: r => s.setFlight { f with stack := r, exm := m &&& f.live }
      | .regroup :: r => s.setFlight { f with stack := r }
      | [] => s.setFlight f)) ∧
  (∀ o, let x := ofCtl o
    plain x → ∀ n, okind x.a = .s n →
      Acts (fun s => exec (.bri o) s) 7 x.st [src 1 x.a [.s, .v] 2] all (fun _ f => f.isLast = true) fun _ f t => jump (f.rdS n).toNat f t) ∧
  (∀ o, let x := ofCtl o
    plain x → ∀ n, okind x.a = .v n →
      let aim (f : Flight) (l : Nat) : Nat := rdLane f x.a 2 l
      let group (f : Flight) (t : Nat) : DWord := maskOf ((lanesOf f.exm).filter fun l => decide (aim f l = t))
      let es (f : Flight) (r : List Nat) : List StackEntry := .reconv f.exm :: r.reverse.map fun t => .pending (group f t) t
      ∀ ts : List Nat, Acts (fun s => exec (.bri o) s) 7 x.st [src 1 x.a [.s, .v] 2] Flight.exm
        (fun s f => f.isLast = true ∧ ts = dedup ((lanesOf f.exm).map (aim f)) ∧ (2 ≤ ts.length → ∃ s', pushAll f (es f ts.tail) s = .ok s'))
        fun _ f t => match ts with
          | [] => t
          | [a] => jump a f t
          | a :: r => jump a f ((t.orSame (pushAll f (es f r) t)).updFlight f.id fun g => { g with exm := group f a &&& g.live })) ∧
  (∀ o, let x := ofCtl o
    plain x → unused x.a = true → Acts (fun s => exec (.join o) s) 7 x.st [] all
      (fun s f => f.isLast = true ∧ f.residual = [] ∧ f.top ≠ some .regroup ∧ ∃ s', joinPop f s = .ok s')
      fun _ f t => (t.orSame (joinPop f t)).updFlight f.id Flight.endRegion) ∧
  ∀ o, let x := ofCtl o
    let may (_ : State) (f : Flight) : Prop := f.isLast = true ∧ f.residual = [] ∧ f.regrouped = false ∧ f.isHandler = false
    let ends (f : Flight) : Prop := f.depth = 0 ∨ f.live &&& ~~~f.exm = 0
    plain x → unused x.a = true →
      Acts (fun s => exec (.exit o) s) 7 x.st [] all
        (fun s f => may s f ∧ ends f ∧ ∀ p ∈ f.ops, ¬ (p.kind = .atomic ∧ p.toZero = true) ∧ p.kind ≠ .tileStore) (fun _ f t => t.endFlight f.id) ∧
      Acts (fun s => exec (.exit o) s) 7 x.st [] all (fun s f => may s f ∧ ¬ ends f ∧ ∃ s', joinPop f s = .ok s') fun _ f t =>
        let t := t.updFlight f.id fun g => { g.stackLess g.exm with exited := g.exited ||| g.exm, exm := 0 }
        (t.orSame (joinPop f t)).updFlight f.id Flight.endRegion

/-- R351, R352, R353: when the last flight of a workgroup comes to BRGP, the lanes of EXM are packed by condition, full flights first, and each new flight has
the registers of its lanes and the s registers of its lane 0; RGJOIN pops an entry above REGROUP, and a flight whose pop leaves REGROUP on top waits there;
when the last comes to RGJOIN with REGROUP on top, every lane's registers return home, and each flight goes on after the RGJOIN at which it waited (log 84). -/
def Obligations.RegroupingMovesWholeLanes : Prop :=
  let empty : Pack := ⟨[], 0⟩
  (∀ n (tk nt : List (Nat × Nat)), tk.length + nt.length ≤ 64 * n →
    let a := tk.length / 64; let b := nt.length / 64; let rt := tk.drop (64 * a); let rn := nt.drop (64 * b); let p := packs n tk nt
    p.length = n ∧ (∀ i < a, p[i]? = some ⟨(tk.drop (64 * i)).take 64, 64⟩) ∧ (∀ i < b, p[a + i]? = some ⟨(nt.drop (64 * i)).take 64, 0⟩) ∧
      if rt = [] ∧ rn = [] then ∀ i < n, a + b ≤ i → p[i]? = some empty
      else if rt ≠ [] ∧ rn ≠ [] ∧ a + b + 2 ≤ n then
        p[a + b]? = some ⟨rt, rt.length⟩ ∧ p[a + b + 1]? = some ⟨rn, 0⟩ ∧ ∀ i < n, a + b + 2 ≤ i → p[i]? = some empty
      else p[a + b]? = some ⟨rt ++ rn, rt.length⟩ ∧ ∀ i < n, a + b + 1 ≤ i → p[i]? = some empty) ∧
  (∀ o (s : State) (f : Flight) (w : Workgroup) (fs : List Flight), let x := ofBr o
    let tk := (enum fs).flatMap fun y => (lanesOf (y.2.exm &&& if x.mod = 1 then ~~~rdUni y.2 x.a else rdUni y.2 x.a)).map fun l => (y.1, l)
    let nt := (enum fs).flatMap fun y => (lanesOf (y.2.exm &&& ~~~(if x.mod = 1 then ~~~rdUni y.2 x.a else rdUni y.2 x.a))).map fun l => (y.1, l)
    x.mod < 2 → unused x.d = true → Free s f 7 [src 1 x.a [.p]] f.live → f.isLast = true → f.residual = [] → f.exm = ~~~f.dead → f.regrouped = false →
      f.isHandler = false → f.depth = 0 → f.unlanded = false → s.wg? f.wg = some w → (s.flights.map Flight.id).Nodup →
      fs = (s.wgFlights f.wg).filter (fun g => !g.isEnded) → f ∈ fs → (∀ g ∈ fs, s.partner g = none ∧ g.isEvicted = false ∧ g.leaving = false) →
      (∀ g ∈ fs, g.id ≠ f.id → g.pc = f.pc ∧ ∃ ga, w.gather = some ga ∧ ga.pc = f.pc ∧ g.id ∈ ga.arrived) →
      (∀ ga, w.gather = some ga → ga.pc ≠ f.pc → ∀ i ∈ ga.arrived, i ≠ f.id → ∀ h, s.flight? i = some h → h.pc = ga.pc → h.isEnded = true) →
        ∃ t, exec (.brgp o) s = .next t ∧ ∀ (i : Nat) (h : Flight) (p : Pack), fs[i]? = some h → (packs fs.length tk nt)[i]? = some p →
          ∃ g, t.flight? h.id = some g ∧ g.regrouped = true ∧ g.tiles = h.tiles ∧ g.counts = [] ∧ g.slots = []
            ∧ g.pc = (if 0 < p.taken then (((f.pc : Int) + 4 * o.off.toInt) % 2 ^ 48).toNat else f.nextHeader % 2 ^ 64)
            ∧ (g.depth = if 0 < p.taken ∧ p.taken < p.lanes.length then 3 else 1)
            ∧ (∀ j < 64, g.exm.getLsbD j = decide (j < p.lanes.length ∧ (0 < p.taken → p.taken < p.lanes.length → j < p.taken)))
            ∧ (∀ (h0 : Flight) y, p.lanes.head? = some y → fs[y.1]? = some h0 → g.s = h0.s ∧ g.fmode = h0.fmode)
            ∧ ∀ j y (k : Flight), p.lanes[j]? = some y → fs[y.1]? = some k →
                (∀ n, g.rdV n j = k.rdV n y.2 ∧ g.rdX n j = k.rdX n y.2) ∧ (∀ n < 8, (g.rdP n).getLsbD j = (k.rdP n).getLsbD y.2) ∧ g.rng j = k.rng y.2) ∧
  ∀ o (s : State) (f : Flight) (w : Workgroup) (fs : List Flight), let x := ofCtl o
    let top (g : Flight) : Prop := g.regrouped = true ∧ g.top = some .regroup
    x.resv = 0 → x.mod = 0 → unused x.a = true → unused x.b = true → unused x.c = true → unused x.d = true → Free s f 7 [] (BitVec.allOnes 64) →
      f.isLast = true → f.residual = [] → f.isHandler = false →
      (f.regrouped = false → ∃ t g, exec (.rgjoin o) s = .next (t.updFlight f.id Flight.endRegion) ∧ Passes s t f g x.st ∧ blankIssue g = blankIssue f ∧ RegsAre f g noV noS noS noV) ∧
      (f.regrouped = true → f.top ≠ some .regroup →
          (∃ s', joinPop f s = .ok s' ∧ ∀ g, s'.flight? f.id = some g → g.top = some .regroup → g.clause = none) →
        ∃ t g, exec (.rgjoin o) s = .next ((t.orSame (joinPop f t)).updFlight f.id Flight.endRegion) ∧ Passes s t f g x.st ∧ blankIssue g = blankIssue f ∧ RegsAre f g noV noS noS noV) ∧
      (∀ s' g, f.regrouped = true → f.top ≠ some .regroup → joinPop f s = .ok s' → s'.flight? f.id = some g → g.top = some .regroup → g.clause.isSome = true →
          f.unlanded = false → s.wg? f.wg = some w → (∃ h ∈ s.flights, h.wg = f.wg ∧ h.isHandler = false ∧ h.isShadow = false ∧ h.isEnded = false ∧ h.id ≠ f.id ∧ h.id ∉ w.rejoin) →
            exec (.rgjoin o) s = .next ((s'.updWg f.wg fun w => { w with rejoin := w.rejoin.filter (· ≠ f.id) ++ [f.id] }).updFlight f.id fun h =>
              h.park { kind := 6 } s.clock)) ∧
      (top f → f.clause.isSome = true → f.unlanded = false → s.wg? f.wg = some w → (s.flights.map Flight.id).Nodup → fs = (s.wgFlights f.wg).filter (fun g => !g.isEnded) → f ∈ fs →
        (∀ g ∈ fs, s.partner g = none ∧ g.isEvicted = false ∧ (g.id ≠ f.id → g.id ∈ w.rejoin)) →
          ∃ t, exec (.rgjoin o) s = .next t ∧ ∀ i ∈ fs, ∀ h, i.home = some h →
            ∃ g, t.flight? i.id = some g ∧ g.regrouped = false ∧ g.home = none ∧ g.s = h.s ∧ g.fmode = h.fmode ∧ g.counts = h.counts ∧ g.stack = []
              ∧ g.pc = (if i.clause.isSome then i.nextHeader else f.nextHeader) % 2 ^ 64
              ∧ ∀ k ∈ fs, ∀ l < 64, ∀ b < 64, k.homeAt l = some (i.fidx % 32, b) →
                (∀ k' ∈ fs, ∀ l' < 64, k'.homeAt l' = some (i.fidx % 32, b) → k' = k ∧ l' = l) →
                  (∀ n, g.rdV n b = k.rdV n l ∧ g.rdX n b = k.rdX n l) ∧ ∀ n < 8, (g.rdP n).getLsbD b = (k.rdP n).getLsbD l)

/-- R356, R357, R401, R402: TRAP and BRK raise traps 0x20 and 0x21 with MOD in INFO and the next clause header to resume at; ERET ends the handler's run,
and a flight it did not resume stays stopped; DEFER sets FMODE.DEFER for the next instruction. Outside a handler ERET raises trap 0x11. -/
def Obligations.TrapsByInstructionAndReturn : Prop :=
  let all : Flight → DWord := fun _ => BitVec.allOnes 64
  let none_ (x : CFields) : Prop := x.resv = 0 ∧ unused x.d = true ∧ unused x.a = true ∧ unused x.b = true ∧ unused x.c = true
  let raises (op : CtlOps → Instr) (code : Nat) : Prop := ∀ o, let x := ofCtl o
    none_ x → Acts (fun s => exec (op o) s) 7 x.st [] all (fun _ f => f.isLast = true) fun _ f t =>
      t.raiseTrap f.id { code, info := x.mod, pc := some f.pc }
  raises .trap 0x20 ∧ raises .brk 0x21 ∧
  (∀ o, let x := ofCtl o
    none_ x → x.mod = 0 →
      Acts (fun s => exec (.eret o) s) 7 x.st [] all (fun _ f => f.isLast = true ∧ f.isHandler = true)
        (fun _ f t => match t.flight? f.id with | some h => t.endRun h | none => t) ∧
      ∀ s f, Free s f 7 [] (all f) → f.isLast = true → f.isHandler = false →
        exec (.eret o) s = .next (s.raiseTrap f.id { code := 0x11, cause := 9, info := 0xFF, mask := BitVec.allOnes 64 })) ∧
  (∀ (s : State) h, (s.flights.map Flight.id).Nodup → s.flight? h.id = some h →
    (∃ g, (s.endRun h).flight? h.id = some g ∧ g.place = .ended) ∧
    ∀ f t, s.flight? f.id = some f → f.id ≠ h.id → f.trap = some t →
      (s.endRun h).flight? f.id = some (if t.phase = .running h.id then { f with trap := some { t with phase := .held } } else f)) ∧
  ∀ o, let x := ofCtl o
    none_ x → x.mod < 2 →
      Acts (fun s => exec (.defer o) s) 7 x.st [] all (fun s f => x.mod = 1 → f.isHandler = false ∧ recDeferOk (s.recOf f) = true)
        fun _ f t => t.updFlight f.id fun g => { g with fmode := setFld g.fmode 8 1 x.mod }

/-- R358 to R361: in a handler TFRD reads and TFWR writes (25 bits of an index register) the state that the selector names of a stopped flight of its workgroup, and TFRES resumes it; LKILL
kills lanes, its own with A = ZERO; LNCH ends its region and begins its three steps with S[D] pending. -/
def Obligations.HandlerAccessKillAndLaunch : Prop :=
  let all : Flight → DWord := fun _ => BitVec.allOnes 64
  let names (s : State) (f : Flight) (a : Nat) (g : Flight) : Prop :=
    f.isHandler = true ∧ s.byIndex f.wg (rdUni f a).toNat = some g ∧ s.isHeld g = true ∧ g.id ≠ f.id
  let sel (g : Flight) (w : DWord) : Option DWord :=
    let i := (w.extractLsb' 0 12).toNat; let l := (w.extractLsb' 16 6).toNat
    if w.extractLsb' 22 42 ≠ 0 then none
    else match (w.extractLsb' 12 4).toNat with
      | 0 => if i < g.nVregs then some ((g.rdV i l).setWidth 64) else none
      | 1 => if i < 64 then some (g.rdS i) else none
      | 2 => if i < 8 then some (g.rdP i) else none
      | 3 => if i < 4 then some ((g.rdX i l).setWidth 64) else none
      | 4 => if i < 16 then some ((g.shape i).setWidth 64) else none
      | 5 => [BitVec.ofNat 64 g.pc, g.exm, g.fmode, g.fstat, g.dead, g.rgnc.setWidth 64, BitVec.ofNat 64 g.region.start, BitVec.ofNat 64 g.symNext.toNat,
              BitVec.ofNat 64 g.symLimit.toNat][i]?
      | 6 => if i < g.nVregs then some ((g.count i).setWidth 64) else none
      | 7 => if i < 408 ∧ l < 16 then
          some (BitVec.ofNat 64 ((g.rdTile l (4 * i)).toNat + 2 ^ 8 * (g.rdTile l (4 * i + 1)).toNat + 2 ^ 16 * (g.rdTile l (4 * i + 2)).toNat
            + 2 ^ 24 * (g.rdTile l (4 * i + 3)).toNat)) else none
      | _ => none
  (∀ o, let x := ofCtl o
    x.resv = 0 → x.mod = 0 → unused x.c = true → ∀ v,
      ComputesLate (fun s => exec (.tfrd o) s) 7 x.st [dst 0 x.d [.s], src 1 x.a [.s], src 2 x.b [.s]] all false
        (fun s f => ∃ g, names s f x.a g ∧ sel g (rdUni f x.b) = some v) (fun _ _ => noV) (fun _ _ => toS x.d v) (fun _ _ => noS)) ∧
  (∀ o, let x := ofCtl o
    x.resv = 0 → x.mod = 0 → unused x.d = true → ∀ g,
      Acts (fun s => exec (.tfwr o) s) 7 x.st [src 1 x.a [.s], src 2 x.b [.s], src 3 x.c [.s]] all
        (fun s f => names s f x.a g ∧ (sel g (rdUni f x.b)).isSome = true ∧ selWritable (rdUni f x.b) = true ∧
          selValueOk (rdUni f x.b) (rdUni f x.c) = true)
        fun _ f t => t.selWrite g (rdUni f x.b) (rdUni f x.c)) ∧
  (∀ g w v, (sel g w).isSome = true → (w.extractLsb' 12 4).toNat ≠ 5 →
    sel (selWrite g w v) w = some (BitVec.ofNat 64 (v.toNat % 2 ^ [32, 64, 64, 25, 32, 0, 2, 32].getD (w.extractLsb' 12 4).toNat 0))) ∧
  (∀ o, let x := ofCtl o
    x.resv = 0 → x.mod < 3 → unused x.d = true → unused x.c = true → ∀ g,
      Acts (fun s => exec (.tfres o) s) 7 x.st [src 1 x.a [.s], src 2 x.b [.s, .z]] all
        (fun s f => names s f x.a g ∧ (x.mod = 1 → g.region.valid = true))
        fun _ f t => (t.resumeFlight g.id x.mod (rdUni f x.b).toNat).updFlight f.id fun h => { h with resumed := h.resumed ++ [g.id] }) ∧
  (∀ o, let x := ofCtl o
    x.resv = 0 → x.mod = 0 → unused x.d = true → unused x.c = true → ∀ g : Flight,
      Acts (fun s => exec (.lkill o) s) 7 x.st [src 1 x.a [.s, .z], src 2 x.b [.p, .s]] all
        (fun s f => if okind x.a = .zero then g.id = f.id else names s f x.a g)
        fun _ f t => t.killLanesOf g.id (rdUni f x.b) (t.handledFrame f)) ∧
  ∀ o s f, let x := ofCtl o
    x.resv = 0 → x.mod = 0 → unused x.b = true → unused x.c = true → Free s f 7 [dst 0 x.d [.s], src 1 x.a [.s]] (all f) → f.residual = [] →
      f.isHandler = false → EndsRegion s f → (rdUni f x.a).toNat % 512 = 0 →
        ∃ t g p, exec (.lnch o) s = .next t ∧ Passes s t f g x.st
          ∧ blankOps g = blankOps { f with region := { f.region with valid := false } } ∧ (∀ k, g.token k = f.token k) ∧ RegsAre f g noV noS noS noV
          ∧ g.ops = f.ops ++ [p] ∧ p.kind = .lnch ∧ p.seq = f.seq ∧ p.accBase = (rdUni f x.a).toNat ∧ p.dests = (dst 0 x.d [.s]).destList f 0


/-- R114 to R137, R155 to R158: a core's engine takes the published entries of a ring in order, up to eight commands; a command is rejected by the first failing check of Table 06-7 or runs; the lines of a window
are owned in ascending order; source sectors are read (logs 57, 79), lines written, released, chunk bits set; the completion writes the status record and counts. -/
def Obligations.CopyCommandsRunFromTheirRingToTheirStatus : Prop :=
  ∀ s : State,
    (∀ core, 8 ≤ (s.cmds.filter fun c => decide (c.core = core)).length → exec (.copyTake core) s = .next s) ∧
    (∀ core, (∀ w ∈ s.wgs, w.core = core → s.ringOpen w = false) → exec (.copyTake core) s = .next s) ∧
    (∀ core w i b, (s.cmds.filter fun c => decide (c.core = core)).length < 8 → s.wg? w.id = some w → w.core = core → s.ringOpen w = true →
      (∀ g ∈ s.wgs, g.core = core → s.ringOpen g = true → g = w) → findBy Prod.fst w.ringSnap w.taken = some (i, b) →
      let r := ((s.launch? w.launch).map Launch.recd).getD []
      ∃ t c g, exec (.copyTake core) s = .next t ∧ t.cmds = s.cmds ++ [c] ∧ c.core = core ∧ c.wg = w.id ∧ c.seq = w.taken ∧ c.phase = .taken ∧ c.words = wordsOf b
        ∧ t.wg? w.id = some g ∧ g.taken = (w.taken + 1) % 2 ^ 32 ∧ cellsGet g.mem (recCnotify r + 4) 4 = (w.taken + 1) % 2 ^ 32 ∧ t.mem = s.mem) ∧
    (∀ c x, s.cmd? c = some x →
      (x.phase = .taken → (∀ y ∈ s.earlierCmds x, y.phase ≠ .taken) → (x.fnc = false ∧ x.chain = false ∨ s.earlierCmds x = []) →
        (s.cmdReject x ≠ 0 → exec (.copyBegin c) s =
          .next (s.setCmd { x with phase := .finishing, st := 1, cause := s.cmdReject x, dests := x.dests.map fun d => { d with todo := [] }, toOwn := [] })) ∧
        (s.cmdReject x = 0 → x.global = false → ∃ y, exec (.copyBegin c) s = .next (s.setCmd y) ∧ y.id = x.id ∧ y.phase = .running ∧ y.words = x.words ∧ y.rowsAt = s.srcRows x
          ∧ y.toOwn = [] ∧ y.owned = x.owned ∧ y.dests.map (fun d => (d.space, d.tag)) = (s.localDests x).map (fun p => (Space.loc p.1.id, p.1.tag))) ∧
        (∀ m u, s.cmdReject x = 0 → x.global = true → s.xlDest x ((s.dstRows x x.dstAddr).flatMap fun a => frameParts a (s.cmdShape x).len) [] = (.ok m, u) →
          (((s.dstRows x x.dstAddr).flatMap fun a => frameParts a (s.cmdShape x).len).any fun p => u.meetsCode (frameOf m p.1) p.2 || decide (paSpace (frameOf m p.1) = some .dev)) = false →
          ∃ y, exec (.copyBegin c) s = .next (u.setCmd y) ∧ y.id = x.id ∧ y.phase = .running ∧ y.frames = m ∧ ∀ d, y.dests.head? = some d → y.toOwn = d.tierLines)) ∧
      (x.phase = .taken → (∃ y ∈ s.earlierCmds x, y.phase = .taken) → exec (.copyBegin c) s = .next s) ∧
      (∀ line, let l := (s.l2? line).getD (L2Line.empty line)
        x.toOwn.head? = some line → l.owner = none → l.filling = false → l.waiting = [] → s.homeMoves (128 * line) = false →
        ∃ t l', exec (.own c line) s = .next t ∧ t.cmd? c = some { x with toOwn := x.toOwn.drop 1, owned := x.owned ++ [line] } ∧ t.l2? line = some l' ∧ l' = { l with owner := some c }
          ∧ (∀ k, k ∈ t.mem.l1 ↔ k ∈ s.mem.l1 ∧ ¬ (k.unit = x.core ∧ k.line = line)) ∧ (∀ k, k ∈ t.mem.far ↔ k ∈ s.mem.far ∧ ¬ (k.unit = dieOf x.core ∧ k.line = line))
          ∧ ∀ a, t.homeByte a = s.homeByte a) ∧
      (∀ line, x.toOwn.head? ≠ some line → exec (.own c line) s = .next s) ∧
      (∀ sec w base, x.sectorBytes sec ≠ [] → x.phase = .running → sec ∉ x.srcDone → x.toOwn = [] → x.ssp = 1 → s.localSrc x = some (w, base) →
        ∃ t, exec (.copySourceRead c sec) s = .next t ∧ { t with freeCtr := s.freeCtr } =
          s.setCmd { x with src := msets 0 x.src ((x.sectorBytes sec).map fun p => (p.2, cellGet w.mem p.1)), srcDone := x.srcDone ++ [sec] }) ∧
      (∀ sec, x.sectorBytes sec ≠ [] → x.phase = .running → sec ∉ x.srcDone → x.toOwn = [] → x.ssp = 2 → let pa := s.remap (32 * sec)
        inTier pa = true → s.homeMoves pa = false → s.onHold (32 * sec) = false → (4 ≤ x.scope ∨ s.homeDie pa = dieOf x.core) → (∀ l, s.l2? (pa / 128) = some l → l.owner = none) → s.lineTransit (dieOf x.core) (pa / 128) = false →
        (s.engineCfg x).getLsbD 0 = false → s.unfilled (pa / 128) (secMask (pa % 128) 32) = false → s.secPoisoned (pa / 32) = false →
        exec (.copySourceRead c sec) s =
          .next (s.setCmd { x with src := msets 0 x.src ((x.sectorBytes sec).map fun p => (p.2, s.homeByte (pa / 32 * 32 + p.1 % 32))), srcDone := x.srcDone ++ [sec] })) ∧
      (∀ sec k, x.sectorBytes sec ≠ [] → x.phase = .running → sec ∉ x.srcDone → x.toOwn = [] → x.ssp = 2 → let pa := s.remap (32 * sec)
        inTier pa = true → s.homeMoves pa = false → s.onHold (32 * sec) = false → x.scope < 4 → s.homeDie pa ≠ dieOf x.core →
        s.farCopy (dieOf x.core) (pa / 128) = some k → k.has (pa % 128) 32 = true → (s.engineCfg x).getLsbD 0 = false →
        exec (.copySourceRead c sec) s =
          .next (s.setCmd { x with src := msets 0 x.src ((x.sectorBytes sec).map fun p => (p.2, mget blankByte k.bytes (pa % 128 + p.1 % 32))), srcDone := x.srcDone ++ [sec] })) ∧
      (∀ line d rest vs, x.phase = .running → x.global = true → x.dests = d :: rest → x.toOwn = [] → line ∈ x.owned → inTier (128 * line) = true → s.homeMoves (128 * line) = false → (s.engineCfg x).getLsbD 0 = false →
        (d.todo.filter fun p => decide (lineOf p.1 = line)) ≠ [] → s.ready x (d.todo.filter fun p => decide (lineOf p.1 = line)) = some vs → (vs.map Prod.fst).Nodup →
        (vs = [] ∨ 128 ≤ vs.length ∨ s.unfilled line (vs.foldl (fun m b => m ||| secMask (b.1 % 128) 1) 0) = false) →
        ∃ t y, exec (.writeLine c line) s = .next t ∧ (∀ p ∈ vs, t.homeByte p.1 = p.2) ∧ (∀ a, a ∉ vs.map Prod.fst → t.homeByte a = s.homeByte a) ∧ t.cmd? c = some y
          ∧ y.owned = x.owned ∧ ∀ e, y.dests.head? = some e → ∀ p, p ∈ e.todo → p ∈ d.todo ∧ lineOf p.1 ≠ line) ∧
      (∀ k line d g w vs, x.phase = .running → x.global = false → line < 4096 → x.dests[k]? = some d → d.space = .loc g → s.wg? g = some w → w.tag = d.tag →
        (d.todo.filter fun p => decide (lineOf p.1 = line)) ≠ [] → s.ready x (d.todo.filter fun p => decide (lineOf p.1 = line)) = some vs → (vs.map Prod.fst).Nodup → (∀ p ∈ vs, p.1 < w.size) →
        (let r := ((s.launch? w.launch).map Launch.recd).getD []
         recCrlen r = 0 ∨ ∀ p ∈ vs, p.1 < recCnotify r ∨ recCnotify r + 4 ≤ p.1) →
        ∃ t w', exec (.writeLine c (4096 * k + line)) s = .next t ∧ t.wg? g = some w' ∧ (∀ p ∈ vs, cellGet w'.mem p.1 = p.2) ∧ (∀ a, a ∉ vs.map Prod.fst → cellGet w'.mem a = cellGet w.mem a)
          ∧ t.mem = s.mem) ∧
      (∀ line l, line ∈ x.owned → (∀ d, x.dests.head? = some d → ∀ p ∈ d.todo, lineOf p.1 ≠ line) → s.l2? line = some l → l.owner = some c →
        ∃ t y l', exec (.releaseLine c line) s = .next t ∧ t.cmd? c = some y ∧ y.owned = x.owned.filter (fun n => n ≠ line) ∧ t.l2? line = some l' ∧ l' = { l with owner := none }
          ∧ ∀ a, t.homeByte a = s.homeByte a) ∧
      (∀ line, line ∉ x.owned → exec (.releaseLine c line) s = .next s) ∧
      (∀ i w, x.phase = .running → x.cbm = true → i < chunkCount (s.cmdShape x) → i ∉ x.chunks → x.chunkDone i = true → x.global = true → s.wg? x.wg = some w →
        ∃ t w', exec (.copyChunkSet c i) s = .next t ∧ t.cmd? c = some { x with chunks := x.chunks ++ [i] } ∧ t.wg? x.wg = some w'
          ∧ ∀ j, (w'.word (x.cbOff + 4 * (i / 32))).testBit j = ((w.word (x.cbOff + 4 * (i / 32))).testBit j || decide (j = i % 32))) ∧
      (∀ i, i ∈ x.chunks ∨ x.chunkDone i = false → exec (.copyChunkSet c i) s = .next s) ∧
      (∀ w, x.owned = [] → x.phase = .finishing → s.wg? x.wg = some w → w.launch = x.launch → x.st < 256 → x.cause < 256 → let r := (s.cmdLaunch x).recd
        recCnotify r + 16 ≤ recCring r ∨ recCring r + 32 * recCrlen r ≤ recCnotify r → 0 < recCrlen r →
        ∃ t w', exec (.copyComplete c) s = .next t ∧ t.cmds = s.cmds.filter (fun y => y.id ≠ x.id) ∧ t.wg? x.wg = some w' ∧ w'.cmdsDone = (w.cmdsDone + 1) % 2 ^ 32
          ∧ w'.errs = (if x.st = 0 then w.errs else min 255 (w.errs + 1)) ∧ cellsGet w'.mem (recCnotify r + 8) 4 = (w.cmdsDone + 1) % 2 ^ 32
          ∧ (let slot := recCring r + 32 * (x.seq % recCrlen r)
             cellsGet w'.mem slot 1 = x.st ∧ cellsGet w'.mem (slot + 1) 1 = x.cause ∧ cellsGet w'.mem (slot + 4) 4 = x.seq % 2 ^ 32
               ∧ cellsGet w'.mem (slot + 24) 8 = (x.fault.or (x.poisAt.or x.dropAt)).getD 0 % 2 ^ 48)) ∧
      (x.owned ≠ [] → exec (.copyComplete c) s = .next s))

/-- R46, R79 to R88, R93 to R97, R108 to R113, R141 to R144, R155, R159 to R163: the steps of Table 07-3 on one lane of an access, a write on its way, a line and a block: what a read returns and where it comes from,
where a write goes, what an atomic and a tile step make of memory, and that evictions, fills and encodes keep the bytes that reads see. -/
def Obligations.StepsOfMemoryReadWriteAndKeepBytes : Prop :=
  ∀ s : State,
    let same (t : State) : Prop := ∀ a, t.homeByte a = s.homeByte a
    let puts (t : State) (pa : Nat) (b : List Byte) : Prop := (∀ i < b.length, t.homeByte (pa + i) = b.getD i 0) ∧ ∀ a, a < pa ∨ pa + b.length ≤ a → t.homeByte a = s.homeByte a
    (∀ f op lane x o a, s.lane? f op lane = some (x, o, a) → x.op? op = some o → a.phase = .todo → x.mayPerform o a = true →
      let own (at_ : Nat → Byte) : Nat := ofLe ((List.range a.size).map fun i => (x.wq.reverse.findSome? fun w => w.byteAt a.space (a.pa + i)).getD (at_ i))
      let got (i : Instr) (v : Nat) : Prop := ∃ t y p, exec i s = .next t ∧ t.lane? f op lane = some (y, p, { a with phase := .done, got := v }) ∧ same t ∧ y.ops.length = x.ops.length
      let done (i : Instr) (v : Nat) (pois : Option Nat) (P : State → Prop) : Prop :=
        ∃ t y p, exec i s = .next t ∧ t.lane? f op lane = some (y, p, { a with phase := .done, got := v, pois := pois }) ∧ P t
      let line := a.pa / 128; let m := secMask (a.pa % 128) a.size; let d := dieOf x.core
      (o.kind = .load → o.ord = 0 → a.space = .tier → s.homeMoves a.pa = false → a.pois = none →
        (∀ c, s.l1Copy x.core line = some c → c.has (a.pa % 128) a.size = true → got (.performRead f op lane) (own fun i => mget blankByte c.bytes (a.pa % 128 + i))) ∧
        (s.l1Copy x.core line = none → a.ro = false → s.homeDie a.pa = d → s.homeNow a.pa m = .ready →
          (s.poisonIn a.pa a.size = none → got (.performRead f op lane) (own fun i => s.homeByte (a.pa + i))) ∧
          (∀ p, x.ownValue a = none → s.poisonIn a.pa a.size = some p → done (.performRead f op lane) a.got (some p) same)) ∧
        (s.l1Copy x.core line = none → a.ro = false → s.homeDie a.pa = d → s.homeNow a.pa m = .miss → x.ownValue a = none →
          ∃ t y p l, exec (.performRead f op lane) s = .next t ∧ t.lane? f op lane = some (y, p, { a with phase := .queued }) ∧ t.l2? line = some l ∧ l.filling = true
            ∧ l.waiting.getLast? = some (.read x.id o.id lane (s.fgen d)) ∧ same t)) ∧
      (∀ g w, o.kind = .load → o.ord = 0 → a.space = .loc g → s.wg? g = some w → a.pois = none →
        got (.performRead f op lane) (own fun i => BitVec.ofNat 8 (cellsGet w.mem (a.pa + i) 1))) ∧
      (o.kind = .load → o.ord = 0 → a.space = .dev → s.devBefore x o.seq a.lane = false → a.pois = none → got (.performRead f op lane) (s.devRead (a.pa - regOff) a.size)) ∧
      (o.kind = .load → o.ord = 0 → a.space = .host → a.pois = none → o.toZero = false → x.ownValue a = none → s.atsWait (s.fnOf x) a.pa = false →
        (s.failPort a.pa = none → got (.performRead f op lane) (own fun i => s.homeByte (a.pa + i))) ∧
        (∀ port, s.failPort a.pa = some port → done (.performRead f op lane) 0 (some (a.pa / 32 * 32)) fun t => same t ∧
          ∃ r, t.dev.repQueue = s.dev.repQueue ++ [r] ∧ r.kind = 13 ∧ r.p = [BitVec.ofNat 64 a.pa, BitVec.ofNat 64 port, 1])) ∧
      (∀ v, o.kind = .load → a.space ≠ .dev → x.ownValue a = some v → (o.ord = 0 → got (.performRead f op lane) v) ∧ v = own fun _ => 0) ∧
      (∀ c peer, o.kind = .load → o.code < 16 → o.ord = 0 → a.ro = true → a.space = .tier → a.pois = none → s.homeMoves a.pa = false → s.l1Copy x.core line = none → s.predict x.core a.pa = some peer →
        s.l1Copy peer line = some c → c.ro = true → c.has (a.pa % 128) a.size = true → got (.peerProbe f op lane) (own fun i => mget blankByte c.bytes (a.pa % 128 + i))) ∧
      (s.predict x.core a.pa = none → exec (.peerProbe f op lane) s = .next s) ∧
      (o.kind = .store → o.ord ≠ 2 → o.ord ≠ 3 → a.space ≠ .dev → ∃ t y w, exec (.performWrite f op lane) s = .next t ∧ t.flight? f = some y ∧ y.wq = x.wq ++ [w] ∧ w.acc = a ∧ w.flight = f
        ∧ w.op = op ∧ w.seq = o.seq ∧ w.core = x.core ∧ w.rel = 0 ∧ (∃ p, t.lane? f op lane = some (y, p, { a with phase := .done })) ∧ same t) ∧
      (o.kind = .atomic → o.ord = 0 → o.toZero = false → atomTwoWide o.code = false → a.pois = none → s.ownComing x o.seq a = false →
        (a.space = .tier → s.homeNow a.pa m = .ready → s.poisonIn a.pa a.size = none → 0 < a.size → let old := s.homeBytes a.pa a.size
          let new := if o.code = 0 ∧ a.size = 4 then (old + a.data) % 2 ^ 32 else if o.code = 32 then a.data else if o.code = 34 ∧ a.size = 4 then (if old = a.data then a.data2 else old)
            else atomNew o.code old a.data a.data2
          done (.atomicStep f op lane) old none fun t => puts t a.pa (leBytes a.size new) ∧ (∀ c ∈ t.mem.l1, ¬ (c.unit = x.core ∧ c.line = line))) ∧
        (∀ g w, a.space = .loc g → s.wg? g = some w → a.tag = 0 → a.pa + a.size ≤ w.size →
          (let r := ((s.launch? w.launch).map Launch.recd).getD []
           recCrlen r = 0 ∨ a.pa + a.size ≤ recCnotify r ∨ recCnotify r + 4 ≤ a.pa) → done (.atomicStep f op lane) (cellsGet w.mem a.pa a.size) none fun t => ∃ w', t.wg? g = some w'
          ∧ (∀ i < a.size, cellGet w'.mem (a.pa + i) = (leBytes a.size (atomNew o.code (cellsGet w.mem a.pa a.size) a.data a.data2)).getD i 0)
          ∧ ∀ b, b < a.pa ∨ a.pa + a.size ≤ b → cellGet w'.mem b = cellGet w.mem b)) ∧
      (∀ asid zr blk b, o.kind = .load → o.ord = 0 → a.space = .view asid zr → a.pois = none → s.viewMoves asid zr a = false → s.viewCopy x.core asid zr a = none → (s.zr asid zr).valid = true →
        s.viewBlocks asid zr a = [blk] →
        (s.block? asid zr blk = some b → (b.st = .clean ∨ b.st = .dirty) → b.pois = none →
          ∃ t y p c, exec (.blockViewAccess f op lane) s = .next t ∧ t.lane? f op lane = some (y, p, c) ∧ c.phase = .done ∧ c.pois = none
            ∧ c.got = own (fun i => BitVec.ofNat 8 (s.viewBytes (s.zr asid zr) asid zr a.pa a.size / 2 ^ (8 * i))) ∧ same t) ∧
        (s.block? asid zr blk = none → ∃ t y p b', exec (.blockViewAccess f op lane) s = .next t ∧ t.lane? f op lane = some (y, p, { a with phase := .queued })
          ∧ t.block? asid zr blk = some b' ∧ b'.st = .fill ∧ b'.waiting = [.read x.id o.id lane (s.fgen d)] ∧ same t))) ∧
    (∀ f x w, s.flight? f = some x → findBy Wr.id x.wq w.id = some w → w.flight = f → w.rel = 0 → w.queued = false → x.heldBy w = false → 0 < w.acc.size →
      (w.acc.space = .tier → s.homeDie w.acc.pa = dieOf w.core → s.inTransit (dieOf w.core) w.acc = false →
        (s.homeNow w.acc.pa (secMask (w.acc.pa % 128) w.acc.size) = .ready ∨ s.homeNow w.acc.pa (secMask (w.acc.pa % 128) w.acc.size) = .miss ∧ s.noFill w = true) →
        ∃ t y, exec (.drain f w.id) s = .next t ∧ puts t w.acc.pa w.bytes ∧ t.flight? f = some y ∧ y.wq = x.wq.filter (fun v => v.id ≠ w.id) ∧ t.mem.transit = s.mem.transit) ∧
      (w.acc.space = .tier → s.homeDie w.acc.pa = dieOf w.core → s.inTransit (dieOf w.core) w.acc = false →
        s.homeNow w.acc.pa (secMask (w.acc.pa % 128) w.acc.size) = .miss → s.noFill w = false →
        ∃ t l, exec (.drain f w.id) s = .next t ∧ same t ∧ t.l2? (w.acc.pa / 128) = some l ∧ l.filling = true ∧ l.waiting.getLast? = some (.write (dieOf w.core) w.id false)) ∧
      (w.acc.space = .tier → (s.homeDie w.acc.pa ≠ dieOf w.core ∨ s.inTransit (dieOf w.core) w.acc = true) → s.homeMoves w.acc.pa = false →
        ∃ t y, exec (.drain f w.id) s = .next t ∧ same t ∧ t.flight? f = some y ∧ y.wq = x.wq.filter (fun v => v.id ≠ w.id) ∧ t.mem.transit = s.mem.transit ++ [(dieOf w.core, w)]) ∧
      (w.acc.space = .host → ∃ t y, exec (.drain f w.id) s = .next t ∧ same t ∧ t.flight? f = some y ∧ y.wq = x.wq.filter (fun v => v.id ≠ w.id)
        ∧ t.mem.transit = s.mem.transit ++ [(dieOf w.core, w)])) ∧
    (∀ d w, s.mem.transit.find? (fun p => decide (p.1 = d) && decide (p.2.id = w.id)) = some (d, w) → w.queued = false → w.rel = 0 → 0 < w.acc.size →
      (∀ p ∈ s.mem.transit.takeWhile (fun p => decide (p.2.id ≠ w.id)), ¬ (p.1 = d ∧ p.2.acc.space = w.acc.space ∧ p.2.acc.pa / 128 = w.acc.pa / 128)) →
      (w.acc.space = .tier ∧ s.homeNow w.acc.pa (secMask (w.acc.pa % 128) w.acc.size) = .ready
        ∨ w.acc.space = .tier ∧ s.homeNow w.acc.pa (secMask (w.acc.pa % 128) w.acc.size) = .miss ∧ s.noFill w = true ∨ w.acc.space = .host ∧ s.atsWait w.fn w.acc.pa = false ∧ s.failPort w.acc.pa = none) →
      ∃ t, exec (.deliver d w.id) s = .next t ∧ puts t w.acc.pa w.bytes ∧ t.mem.transit = s.mem.transit.filter (fun p => p.2.id ≠ w.id)) ∧
    (∀ d w port, s.mem.transit.find? (fun p => decide (p.1 = d) && decide (p.2.id = w.id)) = some (d, w) → w.queued = false →
      (∀ p ∈ s.mem.transit.takeWhile (fun p => decide (p.2.id ≠ w.id)), ¬ (p.1 = d ∧ p.2.acc.space = w.acc.space ∧ p.2.acc.pa / 128 = w.acc.pa / 128)) →
      w.acc.space = .host → s.atsWait w.fn w.acc.pa = false → s.failPort w.acc.pa = some port →
      ∃ t y, exec (.deliver d w.id) s = .next t ∧ same t ∧ t.mem.transit = s.mem.transit.filter (fun p => p.2.id ≠ w.id)
        ∧ t.dev.repQueue = s.dev.repQueue ++ [y] ∧ y.kind = 13 ∧ y.p = [BitVec.ofNat 64 w.acc.pa, BitVec.ofNat 64 port, 2]) ∧
    (∀ unit line, (∀ x, s.l2? line = some x → x.owner = none) →
      (∃ t, exec (.evict false unit line) s = .next t ∧ t.mem.l1 = s.mem.l1.filter (fun c => !(decide (c.unit = unit) && decide (c.line = line))) ∧ same t) ∧
      (∃ t, exec (.evict true unit line) s = .next t ∧ t.mem.far = s.mem.far.filter (fun c => !(decide (c.unit = unit) && decide (c.line = line))) ∧ same t)) ∧
    (∀ line x, s.l2? line = some x →
      (x.pinned = true → exec (.l2Evict line) s = .next s) ∧
      (x.pinned = false → x.dirty &&& ~~~x.valid = 0 →
        (∀ b < 128, x.valid.getLsbD (b / 32) = true → x.dirty.getLsbD (b / 32) = false → mget blankByte x.bytes b = cellGet s.mem.bytes (128 * line + b)) →
        ∃ t, exec (.l2Evict line) s = .next t ∧ t.l2? line = none ∧ same t) ∧
      (x.filling = true → x.waiting = [] → ∃ t y, exec (.l2FillArrive line) s = .next t ∧ t.l2? line = some y ∧ y.valid = 15 ∧ y.filling = false ∧ y.waiting = [] ∧ same t
        ∧ ∀ i < 4, x.finds[i]? = some .uncorrectable → x.valid.getLsbD i = false → t.secPoisoned (4 * line + i) = true) ∧
      (x.filling = false → exec (.l2FillArrive line) s = .next s) ∧
      (∀ found, x.filling = true → (s.readFinds line found).l2? line = some { x with finds := found.take 4 } ∧ same (s.readFinds line found)) ∧
      (∀ found, x.filling = false → s.readFinds line found = s)) ∧
    (∀ f op x o, s.flight? f = some x → x.op? op = some o → o.performed = false → s.tileFree x o = true → o.ord = 0 →
      (o.kind = .tileLoad → (∀ p ∈ o.pieces, s.secPoisoned (p.1 / 32) = false) →
        ∃ t y p, exec (.tileStep f op) s = .next t ∧ t.flight? f = some y ∧ y.op? op = some p ∧ p.writes = s.tileRead x o ∧ p.performed = true ∧ same t) ∧
      (o.kind = .tileStore → (∀ c ∈ coveredSectors (s.tileBytesOut o), s.secPoisoned c.1 = false) →
        ∃ t y, exec (.tileStep f op) s = .next t ∧ t.flight? f = some y ∧ y.op? op = none ∧ (∀ b ∈ s.tileBytesOut o, t.homeByte b.1 = b.2.1)
          ∧ ∀ a, (∀ b ∈ s.tileBytesOut o, b.1 ≠ a) → t.homeByte a = s.homeByte a)) ∧
    (∀ asid zr blk b, s.block? asid zr blk = some b → let z := s.zr asid zr
      (b.st = .fill → b.waiting = [] → s.codeHeld z blk = false → s.codeFills z blk = [] → let c := decodeBlock z (s.codeBytes z blk)
        ∃ t b', exec (.blockDecodeDone asid zr blk) s = .next t ∧ t.block? asid zr blk = some b' ∧ b'.st = .clean ∧ b'.elems = c.elems ∧ b'.bound = BitVec.ofNat 32 c.bound
          ∧ b'.pois = s.codePoison z blk ∧ same t) ∧
      (b.st ≠ .fill → exec (.blockDecodeDone asid zr blk) s = .next s) ∧
      (b.st = .clean → ∃ t, exec (.blockEvictChosen asid zr blk) s = .next t ∧ t.block? asid zr blk = none ∧ same t) ∧
      (b.st = .dirty → ∃ t b', exec (.blockEvictChosen asid zr blk) s = .next t ∧ t.block? asid zr blk = some b' ∧ b'.st = .enc false ∧ b'.todo.map Prod.snd = encodeBlock z (b.toEncode z)
        ∧ b'.elems = b.elems ∧ same t) ∧
      (b.st = .fill ∨ (∃ k, b.st = .enc k) → exec (.blockEvictChosen asid zr blk) s = .next s) ∧
      (∀ a l, b.st = .enc false → s.codeHeld z blk = false → b.waiting = [] → b.pois = none → b.todo = (enum l).map (fun p => (a + p.1, p.2)) → l ≠ [] → a % 128 + l.length ≤ 128 →
        ∃ t, exec (.encode asid zr blk) s = .next t ∧ t.block? asid zr blk = none ∧ puts t (s.remap a) l))

/-- R106, R153, R164, R189, R234, R235, R320, R333 to R337, R411: an operation that is done lands: its results are written, a poisoned lane's register is marked instead, lanes that read a dead lane die, its registers are no longer pending and its
token falls; a fence ends once its release is done, a semaphore operation acts once in order, and an MMA's accumulators are read back in order. -/
def Obligations.OperationsLandInRegistersTokensAndMarks : Prop :=
  ∀ s : State, ∀ f op x o, s.flight? f = some x → x.op? op = some o → o.lv = false → o.crossed = 0 → s.partner x = none → x.isShadow = false →
    let lands (i : Instr) (P : State → Flight → Prop) : Prop := ∃ t g, exec i s = .next t ∧ t.flight? f = some g ∧ g.ops = x.ops.filter (fun p => p.id ≠ op)
      ∧ (∀ k, g.token k = x.token k - if o.sb = some k then 1 else 0) ∧ g.fstat = x.fstat ∧ ((∀ w ∈ o.writes, w.reg ≠ .exm) → g.exm = x.exm) ∧ g.pc = x.pc ∧ P t g
    let same (t : State) : Prop := ∀ a, t.homeByte a = s.homeByte a
    let vec (n : Nat) (val : Access → Nat) (r l : Nat) : Option Word := match o.acc.find? fun a => decide (a.lane = l) with
      | some a => if a.pois = none ∧ a.reg ≤ r ∧ r < a.reg + n then some (BitVec.ofNat 32 (val a / 2 ^ (32 * (r - a.reg)))) else none
      | none => none
    let one : Prop := (o.acc.map Access.lane).Nodup ∧ (∀ a ∈ o.acc, a.lane < 64) ∧ o.performed = true ∧ o.lost = [] ∧ o.kills = 0
    (o.kind = .load → o.code < 8 → o.toZero = false → one → lands (.resultLand f op) fun t g => same t ∧
      RegsAre x g (vec (tyRegs o.code) fun a => if o.code = 1 then sext 8 32 a.got else if o.code = 3 then sext 16 32 a.got else a.got) noS noS noV ∧
      ∀ a ∈ o.acc, ∀ p, a.pois = some p → ∀ k < tyRegs o.code, ∃ m ∈ g.marks, m.reg = .v (a.reg + k) ∧ m.lane = a.lane ∧ m.pa ≤ p) ∧
    (o.kind = .atomic → o.toZero = false → one → lands (.resultLand f op) fun t g => same t ∧ RegsAre x g (vec (atomSize o.code / 4) Access.got) noS noS noV) ∧
    (o.kind = .zerr → one → lands (.resultLand f op) fun t g => same t ∧ RegsAre x g (vec 1 Access.got) noS noS noV) ∧
    (o.kind = .load ∨ o.kind = .atomic ∨ o.kind = .zerr ∨ o.kind = .azld ∨ o.kind = .tileLoad → o.performed = false → exec (.resultLand f op) s = .next s) ∧
    (o.kind = .result → o.lost = [] → o.kills = 0 → o.acquired = false → lands (.resultLand f op) fun t g => same t ∧
      (∀ n, ∀ l < 64, g.rdV n l = (o.writes.foldl Flight.regWrite x).rdV n l) ∧ (∀ n, g.rdS n = (o.writes.foldl Flight.regWrite x).rdS n) ∧
      (∀ n, g.rdP n = (o.writes.foldl Flight.regWrite x).rdP n) ∧ g.tiles = (o.writes.foldl Flight.regWrite x).tiles) ∧
    (o.kind = .result → o.lost = [] → o.kills &&& ~~~x.dead ≠ 0 → x.live &&& ~~~o.kills ≠ 0 → ∃ t g, exec (.resultLand f op) s = .next t ∧ t.flight? f = some g ∧ same t ∧ g.dead = x.dead ||| o.kills
      ∧ g.ops = x.ops.filter (fun p => p.id ≠ op) ∧ (∀ n, ∀ l < 64, g.rdV n l = (o.writes.foldl Flight.regWrite x).rdV n l)) ∧
    (o.kind = .tileLoad → o.performed = true → o.kills = 0 → o.lost = [] → (∀ a ∈ o.acc, a.pois = none) →
      lands (.resultLand f op) fun t g => same t ∧ g.tiles = (o.writes.foldl Flight.regWrite x).tiles) ∧
    (o.kind = .fence → s.releaseOk x o.seq o.scope (s.beforeOf x o.seq) = true → lands (.resultLand f op) fun t g => same t ∧ RegsAre x g noV noS noS noV ∧
      (2 ≤ o.scope → ∀ c ∈ t.mem.l1, c.unit ≠ x.core) ∧ (4 ≤ o.scope → s.fgen (dieOf x.core) + 1 < 2 ^ 16 → t.fgen (dieOf x.core) = s.fgen (dieOf x.core) + 1)) ∧
    (o.kind = .fence → s.releaseOk x o.seq o.scope (s.beforeOf x o.seq) = false → exec (.resultLand f op) s = .next s) ∧
    (∀ g a r w, o.acc = a :: r → a.space = .loc g → s.wg? g = some w → x.earlierOn o.seq g a.pa 1 true = false → x.acquiresBefore o.seq = false → o.ord = 0 →
      (o.kind = .semAdd → lands (.resultLand f op) fun t _ => same t ∧ ∃ w', t.wg? g = some w' ∧ (w'.sem a.pa).val = (w.sem a.pa).val + BitVec.ofNat 32 a.data ∧ (w'.sem a.pa).mark = (w.sem a.pa).mark
        ∧ ∀ n, n ≠ a.pa → w'.sem n = w.sem n) ∧
      (o.kind = .semSet → lands (.resultLand f op) fun t _ => same t ∧ ∃ w', t.wg? g = some w' ∧ w'.sem a.pa = ⟨BitVec.ofNat 32 a.data, none, [], []⟩ ∧ ∀ n, n ≠ a.pa → w'.sem n = w.sem n) ∧
      (o.kind = .semRd → o.lost = [] → o.kills = 0 → ∀ n, o.dests = [.s n] → lands (.resultLand f op) fun t h => same t ∧ t.wgs = s.wgs
        ∧ RegsAre x h noV (fun m => if m = n then some ((w.sem a.pa).val.zeroExtend 64) else none) noS noV)) ∧
    (∀ g a r, o.acc = a :: r → a.space = .loc g → (o.kind = .semAdd ∨ o.kind = .semSet ∨ o.kind = .semRd) → (x.earlierOn o.seq g a.pa 1 true = true ∨ x.acquiresBefore o.seq = true) → exec (.resultLand f op) s = .next s) ∧
    (o.kind = .clean → (∀ a ∈ o.acc, x.mayTouch o a.wholeLine = true) → x.wq = [] → s.mem.transit = [] → o.scope ≠ 5 → lands (.resultLand f op) fun t g => same t ∧ RegsAre x g noV noS noS noV) ∧
    (o.kind = .inval → (∀ a ∈ o.acc, x.mayTouch o a.wholeLine = true) → 2 ≤ o.scope → lands (.resultLand f op) fun t g => same t ∧ RegsAre x g noV noS noS noV ∧
      (∀ a ∈ o.acc, ∀ c ∈ t.mem.l1, ¬ (c.unit = x.core ∧ c.line = a.wholeLine.lineKey))) ∧
    (o.kind = .mma → o.lost = [] → o.kills = 0 → (∀ p ∈ x.ops, p.kind = .mma → p.seq < o.seq → ∀ r ∈ p.dests, r ∉ o.dests) → lands (.mmaReadback f op) fun t g => same t ∧
      ∀ n, ∀ l < 64, g.rdV n l = (o.writes.foldl Flight.regWrite x).rdV n l) ∧
    (o.kind = .mma → (∃ p ∈ x.ops, p.kind = .mma ∧ p.seq < o.seq ∧ ∃ r ∈ p.dests, r ∈ o.dests) → exec (.mmaReadback f op) s = .next s)

/-- R20, R22, R67, R436, R437, R440, R446: a module reset leaves nothing resident, keeps the non-volatile store and (log 12) what memory holds, and boots if every image verifies; a power loss
empties the tiers too; a die reset ends what the die ran and counts as its acknowledgement of shootdowns; leaving reset its translation stores are empty. -/
def Obligations.ResetsBootAndSecurityStates : Prop :=
  ∀ s : State, let bare (t : State) : Prop := t.flights = [] ∧ t.wgs = [] ∧ t.launches = [] ∧ t.cmds = [] ∧ t.barriers = [] ∧ t.tr = State.reset.tr ∧ t.sched = State.reset.sched
      ∧ t.mem.l2 = [] ∧ t.mem.l1 = [] ∧ t.mem.far = [] ∧ t.mem.transit = [] ∧ t.mem.blocks = [] ∧ t.dev.keys = [] ∧ t.dev.dbg = 0 ∧ t.dev.dieRst = [] ∧ t.dev.ars = []
      ∧ t.dev.sec = s.dev.sec ∧ t.dev.rollback = s.dev.rollback ∧ t.dev.images = s.dev.images ∧ t.dev.tokSerial = s.dev.tokSerial
    (∃ t, exec .moduleReset s = .next t ∧ bare t ∧ t.mem.bytes = s.mem.bytes ∧ t.mem.poison = s.mem.poison ∧ t.dev.badList = s.dev.badList ∧
      match bootCheck s.dev.sec s.dev.rollback 0 s.dev.images with
      | none => t.dev.regs = [(0, 1)] ∧ t.dev.running = s.dev.images.map (fun p => sha3Word p.1) ∧ t.dev.withheld = (s.dev.badList.filter chkGood).map badFrame
      | some (i, e) => (t.reg 0).getLsbD 0 = false ∧ fld (t.reg 0) 1 3 = e ∧ fld (t.reg 0) 8 8 = i % 256 ∧ t.dev.running = []
          ∧ ∃ r, t.dev.repQueue = [r] ∧ r.kind = 16 ∧ r.p = [1, t.reg 0]) ∧
    (∀ torn, ∃ t, exec (.powerLoss torn) s = .next t ∧ bare t ∧ t.dev.regs = [] ∧ t.mem.poison = [] ∧ (∀ a, inTier a = true → t.homeByte a = blankByte)
      ∧ ∃ l, t.dev.badList = s.dev.badList ++ l ∧ (torn = false → l = []) ∧ (s.dev.mgmt = none → l = []) ∧ l.length ≤ 1) ∧
    ((s.reg 0).getLsbD 0 = true → exec .recoveryGo s = .next s) ∧
    ((s.reg 0).getLsbD 0 = false → let pa := fld (s.reg 8) 12 36 * 2 ^ 12
      match if inHost pa 1 then Config.recoveryImage (s.mem.bytes.filter fun c => decide (0x100000000000 ≤ c.1) && decide (c.1 < 0x800000000000)) pa else none with
      | none => ∃ t, exec .recoveryGo s = .next t ∧ (t.reg 0).toNat = 8 ∧ t.dev.running = s.dev.running
      | some (img, key, sig, ver) =>
        let e := imageFail s.dev.sec s.dev.rollback img key sig ver
        ∃ t, exec .recoveryGo s = .next t ∧ if e = 0 then (t.reg 0).toNat = 1 ∧ t.dev.running = [sha3Word img] else (t.reg 0).toNat = 2 * e ∧ t.dev.running = s.dev.running) ∧
    (∀ d < 8, d ∉ s.dev.dieRst → ∃ t, exec (.dieReset d) s = .next t ∧ t.dev.dieRst = s.dev.dieRst ++ [d]
      ∧ (∀ f ∈ t.flights, dieOf f.core = d → f.place = .ended ∧ f.ops = [] ∧ f.wq = [] ∧ f.residual = [] ∧ f.trap = none)
      ∧ t.wgs = s.wgs.filter (fun w => dieOf w.core ≠ d) ∧ t.cmds = s.cmds.filter (fun c => dieOf c.core ≠ d)
      ∧ t.mem.transit = s.mem.transit.filter (fun p => p.1 ≠ d) ∧ t.mem.l1 = s.mem.l1.filter (fun c => dieOf c.unit ≠ d) ∧ t.mem.far = s.mem.far.filter (fun c => c.unit ≠ d)
      ∧ t.tr.tlb = s.tr.tlb.filter (fun e => dieOf e.core ≠ d) ∧ (∀ k ∈ t.tr.shoots, k.pend.getLsbD d = false) ∧ (∀ a, t.homeByte a = s.homeByte a)
      ∧ (s.dieOpen d = 0 → t.dev.repQueue = s.dev.repQueue)
      ∧ (0 < s.dieOpen d → s.dieOpen d < 2 ^ 64 → ∃ r, t.dev.repQueue = s.dev.repQueue ++ [r] ∧ r.kind = 14 ∧ r.p = [BitVec.ofNat 64 d, BitVec.ofNat 64 (s.dieOpen d)])) ∧
    (∀ d, ∃ t, exec (.dieLeavingReset d) s = .next t ∧ d ∉ t.dev.dieRst ∧ (∀ e ∈ t.tr.tlb, dieOf e.core ≠ d) ∧ (∀ e ∈ t.tr.wcache, e.die ≠ d)
      ∧ { t with dev := { t.dev with dieRst := s.dev.dieRst }, tr := { t.tr with tlb := s.tr.tlb, wcache := s.tr.wcache } } = s) ∧
    (s.dev.sec < 2 → ∃ t, exec .securityStateAdvance s = .next t ∧ t.dev.sec = s.dev.sec + 1 ∧ t.dev.dbg = 0 ∧ t.mem = s.mem) ∧
    (2 ≤ s.dev.sec → exec .securityStateAdvance s = .next s) ∧
    (∀ n v key, n < 8 → s.dev.dbg ≠ 2 → (∀ c ∈ s.cmds, c.holdsKey n = false) → exec (.keySlotLoad n v key) s =
      .next { s with dev := { s.dev with keys := s.dev.keys.filter (fun k => k.slot ≠ n) ++ [⟨n, v, key⟩] } }) ∧
    (∀ n v key, s.dev.dbg = 2 ∨ (∃ c ∈ s.cmds, c.holdsKey n = true) → exec (.keySlotLoad n v key) s = .next s)

/-- R430 to R435 and R445: host accesses through a BAR, accesses of a peer and Talfen flits reach registers and homes, and are turned away where Table 18-2, PACL, the boot state or a link that is
down says so; ATS completions are cached until an invalidation; a link that goes down loses what is on its way. -/
def Obligations.HostPeersAndLinks : Prop :=
  ∀ s : State, let ans (st : Nat) (b : List Byte) : State := { s with dev := { s.dev with answer := (st, b) } }
    let ready (pa n : Nat) : Prop := s.homesOpen pa n = true ∧ s.outerPoison pa n = false
    (∀ fn barNo off n, s.mem.hostPosted = [] → s.barPlace fn barNo off n = .unsupported → exec (.hostRead fn barNo off n) s = .next (ans 1 [])) ∧
    (∀ off n, s.mem.hostPosted = [] → (n = 4 ∨ n = 8) → off % n = 0 → off + n ≤ 2 ^ 26 → (s.reg 0).getLsbD 0 = true →
      exec (.hostRead 0 0 off n) s = .next (ans 0 (leBytes n ((s.devRead8 (off / 8 * 8)).toNat / 2 ^ (8 * (off % 8)))))) ∧
    (∀ off n, s.mem.hostPosted = [] → (s.reg 0).getLsbD 0 = true → 0 < n → off + n ≤ 0x3000000000 → ready off n →
      exec (.hostRead 0 2 off n) s = .next (ans 0 ((List.range n).map fun i => s.homeByte (s.remap (off + i))))) ∧
    (∀ off n, s.mem.hostPosted = [] → (s.reg 0).getLsbD 0 = true → 0 < n → off + n ≤ 2 ^ 40 → s.homesOpen (0x10000000000 + off) n = true →
      s.outerPoison (0x10000000000 + off) n = true → exec (.hostRead 0 4 off n) s = .next (ans 2 [])) ∧
    (∀ fn barNo off b, s.mem.hostPosted = [] → s.barPlace fn barNo off b.length = .unsupported → exec (.hostWrite fn barNo off b) s = .next (ans 1 [])) ∧
    (∀ n v, s.mem.hostPosted = [] → s.asleep = false → n < 1024 → (s.reg 0).getLsbD 0 = true → let o := 0x24000 + 8 * n
      exec (.hostWrite 0 0 o (leBytes 8 v)) s = .next (s.setReg o (s.reg o &&& 0xFFFFFFFF00000000 ||| BitVec.ofNat 64 (v % 2 ^ 32))) ∧
      exec (.hostWrite 0 0 o (leBytes 4 v)) s = .next (s.setReg o (s.reg o &&& 0xFFFFFFFF00000000 ||| BitVec.ofNat 64 (v % 2 ^ 32))) ∧
      exec (.hostWrite 0 0 (o + 4) (leBytes 4 v)) s = .next (s.setReg o (s.reg o))) ∧
    (∀ fn off (b : List Byte) q, s.mem.hostPosted = [] → (s.reg 0).getLsbD 0 = true → 0 < fn → b.length = 4 → off % 256 = 0 → off + 4 ≤ 2 ^ 16 → s.pageQueue fn off = some q → q < 256 →
      exec (.hostWrite fn 0 off b) s = .next (s.tailPut q (ofLe b))) ∧
    (∀ off b, s.mem.hostPosted = [] → (s.reg 0).getLsbD 0 = true → 0 < b.length → off + b.length ≤ 0x3000000000 → off % 128 + b.length ≤ 128 → s.homesOpen off b.length = true →
      ∃ t, exec (.hostWrite 0 2 off b) s = .next t ∧ t.mem.hostPosted = [] ∧ (∀ i < b.length, t.homeByte (s.remap off + i) = b.getD i 0)
        ∧ ∀ a, a < s.remap off ∨ s.remap off + b.length ≤ a → t.homeByte a = s.homeByte a) ∧
    (∀ port kind pa (b : List Byte), port ∈ s.dev.portDown → exec (.peerAccess port kind pa b) s = .next s) ∧
    (∀ port kind pa (b : List Byte), port ∉ s.dev.portDown → s.paclOk port pa (if kind = .cas then b.length / 2 else b.length) = false →
      exec (.peerAccess port kind pa b) s = .next (ans 1 [])) ∧
    (∀ port pa (b : List Byte), port ∉ s.dev.portDown → (s.reg 0).getLsbD 0 = true → s.paclOk port pa b.length = true →
      (ready pa b.length → exec (.peerAccess port .read pa b) s = .next (ans 0 ((List.range b.length).map fun i => s.homeByte (s.remap (pa + i))))) ∧
      (s.homesOpen pa b.length = true → pa % 128 + b.length ≤ 128 → ∃ t, exec (.peerAccess port .write pa b) s = .next t
        ∧ (∀ i < b.length, t.homeByte (s.remap pa + i) = b.getD i 0) ∧ ∀ a, a < s.remap pa ∨ s.remap pa + b.length ≤ a → t.homeByte a = s.homeByte a)) ∧
    (∀ port pa (b : List Byte) (kind : PeerKind) w, port ∉ s.dev.portDown → (s.reg 0).getLsbD 0 = true → (w = 4 ∨ w = 8) → pa % w = 0 → s.paclOk port pa w = true → ready pa w →
      (kind = .fetchAdd ∨ kind = .swap) ∧ b.length = w ∨ kind = .cas ∧ b.length = 2 * w →
      let old := s.homeBytes (s.remap pa) w
      let new := match kind with
        | .fetchAdd => (old + ofLe b) % 2 ^ (8 * w)
        | .swap => ofLe b
        | _ => if old = ofLe (b.take w) then ofLe (b.drop w) else old
      ∃ t, exec (.peerAccess port kind pa b) s = .next t ∧ t.dev.answer = (0, leBytes w old) ∧ t.homeBytes (s.remap pa) w = new
        ∧ ∀ a, a < s.remap pa ∨ s.remap pa + w ≤ a → t.homeByte a = s.homeByte a) ∧
    (∀ port vc, port ∉ s.dev.portDown → exec (.flitReceive port vc true) s =
      .next { s with dev := { s.dev with flits := mset 0 s.dev.flits (4 * port + vc) (mget 0 s.dev.flits (4 * port + vc) + 1) } }) ∧
    (∀ port vc, exec (.flitReceive port vc false) s = .next s) ∧
    (∀ port, exec (.linkUp port) s = .next { s with dev := { s.dev with portDown := s.dev.portDown.filter (fun p => p ≠ port) } }) ∧
    (∀ port, port ∉ s.dev.portDown → s.flights = [] → ∃ t, exec (.linkDown port) s = .next t ∧ t.dev.portDown = s.dev.portDown ++ [port]
      ∧ (∀ p ∈ t.mem.transit, p ∈ s.mem.transit ∧ p.2.acc.space ≠ .peer port)
      ∧ ∃ r rs, t.dev.repQueue = s.dev.repQueue ++ r :: rs ∧ r.kind = 13 ∧ r.p = [0, BitVec.ofNat 64 port, 3]
        ∧ rs.length = (s.mem.transit.filter (fun p => p.2.acc.space = .peer port)).length ∧ ∀ x ∈ rs, x.kind = 13) ∧
    (∀ fn page hpa, inHost (page * 4096) 4096 = true → ∃ t, exec (.atsTranslationCompletion fn page hpa) s = .next t ∧ fn ∈ t.tr.atsOn ∧ (fn, page, hpa) ∈ t.tr.ats
      ∧ (∀ h, (fn, page, h) ∈ t.tr.ats → h = hpa) ∧ ∀ c ∈ t.tr.ats, c = (fn, page, hpa) ∨ c ∈ s.tr.ats) ∧
    (∀ fn page n, fn ∈ s.tr.atsOn → 0 < n → (∃ d < 8, d ∉ s.dev.dieRst) → (∀ k ∈ s.tr.shoots, k.pend ≠ 0) →
      ∃ t k, exec (.atsInvalidation fn page n) s = .next t ∧ t.tr = { s.tr with shoots := s.tr.shoots ++ [k] } ∧ k.owner = .ats fn ∧ k.first = page ∧ k.count = n) ∧
    (∀ fn page n, fn ∉ s.tr.atsOn → exec (.atsInvalidation fn page n) s = .next s)

/-- R7, R10, R441 to R443, R447 and R448: scrub reads count and report what they find; a frame at its threshold is reported once; reports and telemetry samples go to their rings in host
memory, are held while the ring is off, or counted as lost when it is full; dies park and wake, and the module sleeps and wakes. -/
def Obligations.ReportsTelemetryAndPower : Prop :=
  ∀ s : State, let said (t : State) (k : Nat) (p : List Nat) : Prop := ∃ r, t.dev.repQueue = s.dev.repQueue ++ [r] ∧ r.kind = k ∧ r.p = p.map (BitVec.ofNat 64)
    let pw := s.reg 0x100
    let power (t : State) (m w : DWord) : Prop := { t with dev := { t.dev with regs := s.dev.regs } } = s ∧ t.reg 0x100 = (pw &&& ~~~m ||| w &&& m)
      ∧ ∀ o, o ≠ 0x100 → t.reg o = s.reg o
    (∀ sec, inTier (sec * 32) = true → let pa := sec * 32
      exec (.patrolScrubRead sec .clean) s = .next s ∧
      (∃ t, exec (.patrolScrubRead sec .corrected) s = .next t ∧ said t 1 [pa, tierOf pa, 1]
        ∧ mget 0 t.mem.ce (pa / 65536) = mget 0 s.mem.ce (pa / 65536) + 1 ∧ t.mem.poison = s.mem.poison) ∧
      (∃ t, exec (.patrolScrubRead sec .uncorrectable) s = .next t ∧ said t 3 [pa, tierOf pa] ∧ sec ∈ t.mem.poison ∧ ∀ x, x ∈ t.mem.poison → x = sec ∨ x ∈ s.mem.poison)) ∧
    (∀ n, let tier := tierOf (n * 65536); let thr := fld (s.reg 0x110) (8 * tier) 8
      if mget 0 s.mem.ce n < thr then exec (.frameSuspectReport n) s = .next s
      else ∃ t, exec (.frameSuspectReport n) s = .next t ∧ said t 2 [n, tier, thr] ∧ mget 0 t.mem.ce n = 0) ∧
    (s.dev.repQueue = [] → exec .reportWrite s = .next s) ∧
    (∀ r rest, s.dev.repQueue = r :: rest → let cfg := s.reg 0x300
      let base := fld cfg 28 36 * 4096; let len := 2 ^ fld cfg 1 4
      let wr := fld (s.reg 0x308) 0 32; let rd := fld (s.reg 0x310) 0 32
      ∃ t, exec .reportWrite s = .next t ∧ t.dev.repQueue = rest ∧ t.dev.repSeq = (s.dev.repSeq + 1) % 2 ^ 32 ∧
        (cfg.getLsbD 0 = false → s.dev.repHeld.length < 64 → t.dev.repHeld = s.dev.repHeld ++ [(s.dev.repSeq, r)] ∧ t.mem = s.mem) ∧
        (cfg.getLsbD 0 = false → 64 ≤ s.dev.repHeld.length → t.dev.repHeld = s.dev.repHeld ∧ fld (t.reg 0x308) 32 32 = min (fld (s.reg 0x308) 32 32 + 1) 0xFFFFFFFF) ∧
        (cfg.getLsbD 0 = true → inHost base (128 * len) = true → s.failsIn (base + 128 * (wr % len)) 128 = false → (wr + 2 ^ 32 - rd) % 2 ^ 32 < len →
          (∀ i < 128, t.homeByte (base + 128 * (wr % len) + i) = (r.bytes s.dev.repSeq).getD i 0) ∧ fld (t.reg 0x308) 0 32 = (wr + 1) % 2 ^ 32 ∧
          t.dev.msix = if wr = rd then s.dev.msix ++ [fld cfg 10 6] else s.dev.msix) ∧
        (cfg.getLsbD 0 = true → len ≤ (wr + 2 ^ 32 - rd) % 2 ^ 32 ∨ inHost base (128 * len) = false ∨ s.failsIn (base + 128 * (wr % len)) 128 = true → t.mem = s.mem ∧ fld (t.reg 0x308) 0 32 = wr ∧
          fld (t.reg 0x308) 32 32 = min (fld (s.reg 0x308) 32 32 + 1) 0xFFFFFFFF)) ∧
    (∀ p, (s.reg 0x200).getLsbD 0 = false ∨ s.asleep = true ∨ s.clock < s.dev.telLast + 800000 → exec (.telemetrySample p) s = .next s) ∧
    (∀ p, let cfg := s.reg 0x200; let base := fld cfg 28 36 * 4096; let len := 2 ^ fld cfg 1 4
      let wr := fld (s.reg 0x208) 0 32; let rd := fld (s.reg 0x210) 0 32
      cfg.getLsbD 0 = true → s.asleep = false → s.dev.telLast + 800000 ≤ s.clock → inHost base (32 * len) = true → s.failsIn base (32 * len) = false → (wr + 2 ^ 32 - rd) % 2 ^ 32 + 9 ≤ len →
      ∃ t, exec (.telemetrySample p) s = .next t ∧ t.dev.telLast = s.clock ∧ fld (t.reg 0x208) 0 32 = (wr + 9) % 2 ^ 32 ∧
        (∀ d < 9, mget 0 t.dev.telSeq d = (mget 0 s.dev.telSeq d + 1) % 2 ^ 32 ∧ ∀ i < 32, t.homeByte (base + 32 * ((wr + d) % len) + i) =
          (tlmSample d (s.pst d) (mget 0 s.dev.telSeq d) (p.getD d 0) (mget 0 s.sched.delayed d)).getD i 0)) ∧
    (∀ d < 8, s.parkAsked.testBit d = true → s.parked.testBit d = false → s.asleep = false → (∀ w ∈ s.wgs, dieOf w.core ≠ d) → (∀ f ∈ s.flights, dieOf f.core = d → f.port ≠ .stopped) →
      ∃ t, exec (.diePark d) s = .next t ∧ fld (t.reg 0x100) 4 4 = 2 ∧ fld (t.reg 0x100) 24 8 = fld pw 24 8 + 2 ^ d
        ∧ (∀ c ∈ t.mem.l1, dieOf c.unit ≠ d) ∧ (∀ e ∈ t.tr.tlb, dieOf e.core ≠ d) ∧ ∀ a, t.homeByte a = s.homeByte a) ∧
    (∀ d < 8, s.parkAsked.testBit d = false → s.parked.testBit d = true → s.asleep = false →
      ∃ t, exec (.dieUnpark d) s = .next t ∧ fld (t.reg 0x100) 24 8 = fld pw 24 8 - 2 ^ d
        ∧ fld (t.reg 0x100) 4 4 = if fld pw 24 8 ≠ 2 ^ d then 2 else if s.idleNow then 1 else 0) ∧
    (s.asleep = false → s.idleNow = true → (∀ h ∈ s.sched.heads, s.admissible h = false) →
      ∃ t, exec .idleEntry s = .next t ∧ power t 0xF0 (if fld pw 24 8 ≠ 0 then 0x20 else 0x10)) ∧
    (s.idleNow = false → exec .idleEntry s = .next s) ∧
    (s.launches ≠ [] → ∃ t, exec .pwrctlSleep s = .next t ∧ power t 8 8) ∧
    (s.launches = [] → (∀ f ∈ s.flights, f.port ≠ .stopped) → s.mem.blocks = [] → (∀ x ∈ s.mem.l2, x.dirty &&& ~~~x.valid = 0) →
      (∀ q < 256, (s.reg (0x20000 + 64 * q)).getLsbD 0 = true → fld (s.reg (0x20008 + 64 * q)) 0 32 = fld (s.reg (0x20008 + 64 * q)) 32 32) →
      ∃ t, exec .pwrctlSleep s = .next t ∧ t.asleep = true ∧ t.dev.keys = [] ∧ said t 16 [3] ∧ (∀ x ∈ t.mem.l2, x.dirty = 0) ∧ ∀ a, t.homeByte a = s.homeByte a) ∧
    (s.asleep = true → pw.getLsbD 2 = true → ∃ t, exec .moduleWake s = .next t
      ∧ power t 0xF4 (if fld pw 24 8 ≠ 0 then 0x20 else if s.idleNow then 0x10 else 0)) ∧
    (s.asleep = false → exec .moduleWake s = .next s)

/-- R445 and Table 18-10 with R14, R64, R71, R86, R90, R381, R384, R427, R431, R442, R444, R446, R447 and R449: what a register write does in its plain case: the
writable bits take the value, all others stay; a value out of range is brought to the nearer bound or refused; a write that finds its register locked or
busy is dropped and noted; a read-only register and an offset without a register ignore it; a change of FLCFG moves ways
(which lines stand there: log 45). -/
def Obligations.RegisterWritesTakeTheWritableBits : Prop :=
  ∀ s : State, let put (o : Nat) (m w : DWord) : State := s.setReg o (s.reg o &&& ~~~m ||| w &&& m)
    let low : DWord := 0xFFFFFFFF
    (∀ n < 64, ∀ w < 2, ∀ v, let o := 0x10000 + 16 * n + 8 * w
      exec (.arsWrite n w v) s = .next (if (s.reg (0x10000 + 16 * n)).getLsbD 1 then s
        else if s.dev.arsBusy then s.setReg 0x600 (s.reg 0x600 ||| 8)
        else put o (if w = 0 then 0xFFFFFFF3 else BitVec.allOnes 64) v)) ∧
    (∀ n < 8, ∀ v, exec (.frmapWrite n v) s = .next (
      let o := 0x11008 + 16 * n
      if v.getLsbD 0 = false ∧ (s.reg o).getLsbD 1 = false then put o 1 0 else s)) ∧
    (∀ v, exec (.tlbiaddrWrite v) s = .next (if (s.reg 0x708).getLsbD 3 then put 0x708 0x20 0x20 else put 0x700 0x0000FFFFFFFF0000 v)) ∧
    (∀ d < 8, ∀ v, let o := 0x100000 + 0x10000 * d
      exec (.flcfgWrite d v) s = .next (if (s.reg o).getLsbD 7 ∨ 16 < fld v 0 5 then put o 0x40 0x40
        else
          let drop : DWord := if v.getLsbD 6 then 0x40 else 0
          if fld v 0 5 = fld (s.reg o) 0 5 then put o drop 0
          else { put o (0x9F ||| drop) (0x80 ||| v &&& 0x1F) with
            dev := { (put o (0x9F ||| drop) (0x80 ||| v &&& 0x1F)).dev with flWas := mset 0 s.dev.flWas d (fld (s.reg o) 0 5) } })) ∧
    (∀ d < 8, let o := 0x100000 + 0x10000 * d
      let ways := fld (s.reg o) 0 5; let was := mget 0 s.dev.flWas d
      ((s.reg o).getLsbD 7 = false → exec (.flcfgChangeDone d) s = .next s) ∧
      ((s.reg o).getLsbD 7 = true → ∃ t, exec (.flcfgChangeDone d) s = .next t ∧ (∀ p, t.reg p = (put o 0x80 0).reg p) ∧ t.mem.l1 = s.mem.l1 ∧
        (ways < was → t.mem.l2 = s.mem.l2 ∧ t.mem.bytes = s.mem.bytes ∧ (∀ c ∈ t.mem.far, c ∈ s.mem.far) ∧ (∀ c ∈ s.mem.far, c.unit ≠ d → c ∈ t.mem.far)
          ∧ (ways = 0 → ∀ c ∈ t.mem.far, c.unit ≠ d)) ∧
        (was ≤ ways → (s.mem.l2.map L2Line.line).Nodup → t.mem.far = s.mem.far ∧ (∀ x ∈ t.mem.l2, x ∈ s.mem.l2)
          ∧ (∀ x ∈ s.mem.l2, s.homeDie (128 * x.line) ≠ d ∨ x.pinned = true → x ∈ t.mem.l2)
          ∧ ((∀ x ∈ s.mem.l2, x.dirty &&& ~~~x.valid = 0 ∧ ∀ b < 128, x.valid.getLsbD (b / 32) = true → x.dirty.getLsbD (b / 32) = false →
                mget blankByte x.bytes b = cellGet s.mem.bytes (128 * x.line + b)) → ∀ a, t.homeByte a = s.homeByte a)))) ∧
    (∀ d < 8, ∀ n < 16, ∀ v, ∃ w, exec (.tbcfgWrite d n v) s = .next { s with dev := { s.dev with tbNext := mset 0 s.dev.tbNext (16 * d + n) w } }
      ∧ w.getLsbD 63 = true ∧ fld w 0 48 = fld v 0 4 + fld v 16 32 * 2 ^ 16 + fld (s.devRead8 (0x100100 + 0x10000 * d + 8 * n)) 4 12 * 16) ∧
    (∀ q < 256, ∀ v, let o := 0x20000 + 64 * q
      let m : DWord := 0xFFFFFFFFFFFFFFF7
      exec (.qcfgWrite q v) s = .next (if (s.reg o).getLsbD 0 then (if v.getLsbD 0 then s else put o 1 0)
        else if v.getLsbD 0 ∧ ¬ (2 ≤ fld v 4 4 ∧ fld v 4 4 ≤ 12 ∧ fld v 8 8 ≠ 0) then put o m (v &&& ~~~1)
        else put o m v)) ∧
    (∀ q < 256, ∀ t : BitVec 32, let c := s.reg (0x20000 + 64 * q)
      let o := 0x20008 + 64 * q
      exec (.qtailWrite q t) s = .next (if c.getLsbD 2 then s
        else if 2 ^ fld c 4 4 < (t.toNat + 2 ^ 32 - fld (s.reg o) 0 32) % 2 ^ 32 then s.queueErr q (t.toNat % 2 ^ 16) 11
        else put o (~~~low) (BitVec.ofNat 64 (t.toNat * 2 ^ 32)))) ∧
    (∀ q < 256, ∀ v, exec (.qownWrite q v) s = .next (if (s.reg (0x20000 + 64 * q)).getLsbD 0 then s else put (0x20020 + 64 * q) 0x1F v)) ∧
    (∀ q < 256, exec (.hdropWrite q) s = .next (s.setReg (0x20028 + 64 * q) 0)) ∧
    (∀ d < 8, ∀ k < 16, ∀ n < 16, exec (.tbparkWrite d k n) s = .next (s.setReg (0x101000 + 0x10000 * d + 0x80 * k + 8 * n) 0)) ∧
    (∀ k < 4, ∀ v, exec (.mgmtargWrite k v) s = .next (if (s.reg 0x408).getLsbD 0 then put 0x408 4 4 else s.setReg (0x410 + 8 * k) v)) ∧
    (∀ v, s.dev.repHeld = [] → exec (.repcfgWrite v) s = .next (put 0x300 0xFFFFFFFFF000FC1F (setFld v 1 4 (max 4 (fld v 1 4))))) ∧
    (∀ v, exec (.pwrctlPark v) s = .next (if fld v 32 8 = 255 then s.setReg 0x100 (s.reg 0x100) else put 0x100 0xFF00000000 v)) ∧
    (∀ half < 3, ∀ v, let h : DWord := if half = 1 then low else if half = 2 then ~~~low else BitVec.allOnes 64
      (∀ n < 1024, exec (.registerWrite (0x24000 + 8 * n) half v) s = .next (put (0x24000 + 8 * n) (low &&& h) v)) ∧
      (∀ o ∈ [0, 0x208, 0x308, 0x430], exec (.registerWrite o half v) s = .next s) ∧
      (∀ q < 256, exec (.registerWrite (0x20010 + 64 * q) half v) s = .next s) ∧
      (∀ q < 256, exec (.registerWrite (0x20018 + 64 * q) half v) s = .next (put (0x20018 + 64 * q) (0x0000FFFFFFFFFFFD &&& h) v)) ∧
      (∀ o, devReg? o = none → exec (.registerWrite o half v) s = .next s) ∧
      (half ≠ 2 → exec (.registerWrite 0x108 half v) s = .next (put 0x108 0xFD (setFld v 2 6 (max 20 (min 40 (fld v 2 6)))))) ∧
      (half ≠ 2 → exec (.registerWrite 0x110 half v) s =
        .next (put 0x110 0xFFFF (setFld (setFld v 0 8 (max 1 (fld v 0 8))) 8 8 (max 1 (fld v 8 8))))))

/-- R64 to R67: a GO starts one shootdown with its kind, range and address space, which waits for each die not in reset; a GO while BUSY is dropped, and a range
kind with COUNT 0 is invalid. A die acknowledges once its matching cached translations are gone and its matching accesses are performed; the last acknowledgement
ends BUSY and sets DONE. A finished walk answers everyone who asked and its entries are cached. -/
def Obligations.ShootdownsWaitForEveryDie : Prop :=
  ∀ s : State, let cur := s.reg 0x708
    (∀ kind i v, (kind, i) ∈ [(0, Instr.tlbiVaRange v), (1, .tlbiAsid v), (2, .tlbiAll v), (3, .tlbiPaRange v)] →
      (cur.getLsbD 3 = true → exec i s = .next (s.setReg 0x708 (cur ||| 0x20))) ∧
      (cur.getLsbD 3 = false → (kind = 0 ∨ kind = 3) → fld v 32 32 = 0 → ∃ t, exec i s = .next t ∧
        { t with dev := { t.dev with regs := s.dev.regs } } = s ∧ (t.reg 0x708).getLsbD 6 = true ∧ (t.reg 0x708).getLsbD 4 = true
          ∧ (t.reg 0x708).getLsbD 3 = false) ∧
      (cur.getLsbD 3 = false → ((kind = 0 ∨ kind = 3) → fld v 32 32 ≠ 0) → (∃ d < 8, d ∉ s.dev.dieRst) →
        (∀ k ∈ s.tr.shoots, k.owner ≠ .software ∧ k.pend ≠ 0) →
        ∃ t k, exec i s = .next t ∧ t.tr = { s.tr with shoots := s.tr.shoots ++ [k] }
          ∧ { t with tr := s.tr, dev := { t.dev with regs := s.dev.regs } } = s
          ∧ k.kind = kind ∧ k.asid = fld v 16 12 ∧ k.first = fld (s.reg 0x700) 16 32 ∧ k.count = fld v 32 32 ∧ k.owner = .software
          ∧ (∀ d < 8, k.pend.getLsbD d = true ↔ d ∉ s.dev.dieRst)
          ∧ (t.reg 0x708).getLsbD 3 = true ∧ fld (t.reg 0x708) 8 8 = k.pend.toNat)) ∧
    (∀ d < 8, ∀ k, s.tr.shoots = [k] → k.owner = .software → k.pend.getLsbD d = true → cur.getLsbD 3 = true →
      ∃ t, exec (.tlbiDieAck d) s = .next t ∧
        (∀ e, e ∈ t.tr.tlb ↔ e ∈ s.tr.tlb ∧ ¬ (dieOf e.core = d ∧ k.leaf e = true)) ∧
        (∀ e, e ∈ t.tr.wcache ↔ e ∈ s.tr.wcache ∧ ¬ (e.die = d ∧ k.pointer e = true)) ∧
        t.mem = s.mem ∧
        (if (s.dropMatches d k).matchOpen d k then t.tr.shoots = [k] ∧ (t.reg 0x708).getLsbD 3 = true
         else if k.pend = dieBit d then t.tr.shoots = [] ∧ (t.reg 0x708).getLsbD 3 = false ∧ (t.reg 0x708).getLsbD 4 = true ∧ fld (t.reg 0x708) 8 8 = 0
         else t.tr.shoots = [{ k with pend := k.pend &&& ~~~dieBit d }] ∧ (t.reg 0x708).getLsbD 3 = true)) ∧
    (∀ d a frame, let w := s.walk d a (frame * 2 ^ 16)
      let oldest : Prop := ∃ q ∈ (s.tr.walksOf d).take 32, q.asid = a ∧ q.frame = frame
      let asked (i core : Nat) : Prop := ∃ m ∈ s.tr.misses, m.core = core ∧ dieOf m.core = d ∧ m.asid = a ∧ m.frame = frame ∧ i ∈ m.who
      (¬ oldest ∨ s.walkWaits (frame * 2 ^ 16) w = true → exec (.walkComplete d a frame) s = .next s) ∧
      (oldest → s.walkWaits (frame * 2 ^ 16) w = false → ∃ t, exec (.walkComplete d a frame) s = .next t ∧ t.mem = s.mem ∧ t.dev = s.dev
        ∧ (∀ q ∈ t.tr.walks, ¬ (q.die = d ∧ q.asid = a ∧ q.frame = frame)) ∧ (∀ q ∈ s.tr.walks, ¬ (q.die = d ∧ q.asid = a ∧ q.frame = frame) → q ∈ t.tr.walks)
        ∧ (∀ i f, s.flight? i = some f → ∃ g, t.flight? i = some g ∧ { g with walkRes := f.walkRes } = f
          ∧ (asked i f.core → w.res ∈ g.walkRes) ∧ (¬ asked i f.core → g = f))
        ∧ ∀ i x, s.flight? i = none → s.cmd? i = some x → asked i x.core → ∃ y, t.cmd? i = some y ∧ w.res ∈ y.walkRes))

/-- R14 to R17, R25 to R27 and R90: an address-range commit checks the valid entries in order, reports the first failure, or becomes BUSY until no line and block
whose home moves is left, when the new table governs (a line that a command owns stays its own, log 77); a Z-region entry is checked as its V is set, and a cleared V retires it; a bucket refill puts
written configurations in force and adds RATE up to DEPTH. -/
def Obligations.TablesOfRangesRegionsAndBuckets : Prop :=
  ∀ s : State, let put (o : Nat) (m w : DWord) : State := s.setReg o (s.reg o &&& ~~~m ||| w &&& m)
    let only (t : State) : Prop := { t with dev := { t.dev with regs := s.dev.regs } } = s
    let fails (n e : Nat) : Prop := (s.reg (0x10000 + 16 * n)).getLsbD 0 = true ∧ arsFault (s.reg (0x10000 + 16 * n)) (s.reg (0x10008 + 16 * n)) = e ∧ e ≠ 0
    let ctl := s.reg 0x600
    let moving (x : L2Line) : Bool := s.moves (128 * x.line)
    let busy (b : Block) : Bool := match b.st with | .dirty => true | .enc _ => true | .fill => !b.waiting.isEmpty | .clean => false
    (∀ v, ctl.getLsbD 1 = true → exec (.arsCommit v) s = .next (put 0x600 (v &&& 0xC) 0)) ∧
    (∀ v n e, ctl.getLsbD 1 = false → n < 64 → fails n e → (∀ m < n, ∀ k, ¬ fails m k) →
      ∃ t, exec (.arsCommit v) s = .next t ∧ only t ∧ fld (t.reg 0x600) 8 6 = n ∧ fld (t.reg 0x600) 4 4 = e ∧ (t.reg 0x600).getLsbD 2 = true
        ∧ (t.reg 0x600).getLsbD 1 = false) ∧
    (∀ v, ctl.getLsbD 1 = false → (∀ n < 64, ∀ e, ¬ fails n e) → ∃ t, exec (.arsCommit v) s = .next t ∧ t.dev.arsBusy = true ∧ t.dev.ars = s.dev.ars
        ∧ (t.reg 0x600).getLsbD 1 = true ∧ fld (t.reg 0x600) 4 4 = 0 ∧ fld (t.reg 0x600) 8 6 = 0 ∧ (∀ a, t.homeByte a = s.homeByte a)
        ∧ ∀ b ∈ t.mem.blocks, s.moves (s.blockPa b) = true → b.st ≠ .dirty) ∧
    (s.dev.arsBusy = true → (∀ x ∈ s.mem.l2, moving x = true → x.filling = false ∧ x.waiting = []) → (∀ b ∈ s.mem.blocks, s.moves (s.blockPa b) = true → busy b = false) →
      ∃ t, exec .arsCommitSwitch s = .next t ∧ t.dev.ars = s.arsNew ∧ t.dev.arsBusy = false ∧ (t.reg 0x600).getLsbD 1 = false ∧ (t.reg 0x600).getLsbD 2 = true
        ∧ (∀ x ∈ s.mem.l2, moving x = false → x ∈ t.mem.l2)
        ∧ (∀ x ∈ t.mem.l2, x ∈ s.mem.l2 ∧ moving x = false ∨ ∃ y ∈ s.mem.l2, moving y = true ∧ y.owner.isSome = true ∧ x = { L2Line.empty y.line with owner := y.owner })
        ∧ t.mem.far = s.mem.far.filter (fun c => !s.moves (128 * c.line))
        ∧ (∀ b, b ∈ t.mem.blocks → b ∈ s.mem.blocks ∧ s.moves (s.blockPa b) = false)
        ∧ ∀ a, s.moves (128 * (a / 128)) = false → t.homeByte a = s.homeByte a) ∧
    (s.dev.arsBusy = true → (∃ x ∈ s.mem.l2, moving x = true ∧ (x.filling = true ∨ x.waiting ≠ [])) → exec .arsCommitSwitch s = .next s) ∧
    (∀ a < 4096, ∀ n < 16, ∀ v, let o := zrOff a n
      let z := zrOf (v &&& 0xFFFFFFFF00FFC00C) (s.reg (o + 8)) (s.reg (o + 16)) (s.reg (o + 24))
      let e := s.zrCheck a n z
      ((s.reg o).getLsbD 0 = true → exec (.zrValidate a n v) s = .next s) ∧
      ((s.reg o).getLsbD 0 = false → ∃ t, exec (.zrValidate a n v) s = .next t ∧ only t ∧
        t.reg o = (v &&& 0xFFFFFFFF00FFC00C) ||| BitVec.ofNat 64 (e * 2 ^ 28) ||| (if e = 0 then 1 else 0)) ∧
      ((s.reg o).getLsbD 0 = true → fld (s.reg o) 28 4 ≠ 15 → ∃ t, exec (.zrRetire a n v) s = .next t ∧ fld (t.reg o) 28 4 = 15 ∧ (t.reg o).getLsbD 0 = true
        ∧ (∀ p, t.homeByte p = s.homeByte p) ∧ ∀ b ∈ t.mem.blocks, b.asid = a → b.zr = n → b.st ≠ .dirty) ∧
      ((s.zr a n).err = 15 → s.viewComing a n = false → (∀ b ∈ s.mem.blocks, b.asid = a → b.zr = n → busy b = false) →
        ∃ t, exec (.zrRetireDone a n) s = .next t ∧ (t.reg o).getLsbD 0 = false ∧ fld (t.reg o) 28 4 = 0
          ∧ t.mem.blocks = s.mem.blocks.filter (fun b => !(decide (b.asid = a) && decide (b.zr = n)))
          ∧ t.mem.l1 = s.mem.l1.filter (fun c => !(decide (viewLine a n 0 ≤ c.line) && decide (c.line < viewLine a n 0 + 2 ^ 48)))
          ∧ ∀ p, t.homeByte p = s.homeByte p) ∧
      ((s.zr a n).err = 15 → s.viewComing a n = true → exec (.zrRetireDone a n) s = .next s)) ∧
    (s.dev.lastRefill + 32 ≤ s.clock → let k := (s.clock - s.dev.lastRefill) / 32
      ∃ t, exec .bucketRefill s = .next t ∧ t.dev.lastRefill = s.dev.lastRefill + 32 * k ∧
      ∀ d < 8, ∀ n < 16, let o := 0x100100 + 0x10000 * d + 8 * n
        let new := s.devRead8 o
        t.reg o = new ∧ tbPending t d n = none ∧ ∀ c < 16, mget 0 t.sched.buckets (16 * (16 * d + c) + n) =
          if new.getLsbD 0 = false then 0 else if (s.reg o).getLsbD 0 = false then (fld new 32 16 : Int)
          else min (mget 0 s.sched.buckets (16 * (16 * d + c) + n) + k * fld new 16 16) (fld new 32 16)) ∧
    (s.clock < s.dev.lastRefill + 32 → exec .bucketRefill s = .next s)

/-- R21, R23, R70 to R72, R438, R449 to R452 and Table 18-13: the management commands. Each ends with its status and result, BUSY 0 and DONE 1; one given while another is
in progress is lost and noted. RETIRE lists a frame after a shootdown of it; MIGRATE copies a frame while accesses to it wait; the others act at once. -/
def Obligations.ManagementCommandsEndWithStatusAndResult : Prop :=
  ∀ s : State, s.dev.badList.length ≤ 4096 → s.dev.dbg < 3 →
    let idle : Prop := (s.reg 0x408).getLsbD 0 = false ∧ s.dev.mgmt = none
    let arg (k lo n : Nat) : Nat := fld (s.reg (0x410 + 8 * k)) lo n
    let ends (i : Instr) (status res : Nat) (P : State → Prop) : Prop := ∃ t, exec i s = .next t ∧ fld (t.reg 0x408) 8 8 = status ∧ (t.reg 0x408).getLsbD 0 = false
      ∧ (t.reg 0x408).getLsbD 1 = true ∧ (t.reg 0x430).toNat = res ∧ t.dev.mgmt = none ∧ t.dev.msix = s.dev.msix ++ [fld (s.reg 0x300) 10 6] ∧ P t
    let len := 7315 + 64 * s.dev.running.length
    let token : List Byte := leBytes (arg 1 0 16) (s.homeBytes (arg 0 0 64) (arg 1 0 16))
    let shot (t : State) (frame : Nat) : Prop := ∃ k, t.tr.shoots = s.tr.shoots ++ [k] ∧ k.kind = 3 ∧ k.first = frame ∧ k.count = 1 ∧ k.owner = .mgmt
    let live : Prop := (∃ d < 8, d ∉ s.dev.dieRst) ∧ ∀ k ∈ s.tr.shoots, k.pend ≠ 0
    ((s.reg 0x408).getLsbD 0 = true → s.dev.mgmt = none → ∀ i ∈ [Instr.retire, .migrate, .clearbad, .attest, .debugtoken, .readbad],
      exec i s = .next (s.setReg 0x408 (s.reg 0x408 ||| 4))) ∧
    (∀ op : BitVec 8, idle → op.toNat = 0 ∨ 6 < op.toNat → ends (.mgmtUnknownCommand op) 14 0 fun t => t.dev.badList = s.dev.badList) ∧
    (idle → s.dev.sec = 0 → ends .clearbad 0 s.dev.badList.length fun t => t.dev.badList = []) ∧
    (idle → s.dev.sec ≠ 0 → ends .clearbad 6 0 fun t => t.dev.badList = s.dev.badList) ∧
    (idle → arg 1 32 32 = 0 → arg 0 0 3 = 0 → s.bufOk (arg 0 0 64) (arg 1 0 32) = true → 8 * s.dev.badList.length ≤ arg 1 0 32 →
      ends .readbad 0 s.dev.badList.length fun t => ∀ i w, s.dev.badList[i]? = some w → t.homeBytes (arg 0 0 64 + 8 * i) 8 = w.toNat) ∧
    (idle → arg 2 32 32 = 0 → arg 0 0 3 = 0 → arg 1 0 3 = 0 → s.bufOk (arg 0 0 64) 64 = true → s.bufOk (arg 1 0 64) (arg 2 0 32) = true → len ≤ arg 2 0 32 →
      ends .attest 0 len fun t => ∀ i < len, t.homeByte (arg 1 0 64 + i) = (s.attestation (leBytes 64 (s.homeBytes (arg 0 0 64) 64))).getD i 0) ∧
    (idle → arg 1 16 48 = 0 → arg 0 0 3 = 0 → s.bufOk (arg 0 0 64) (arg 1 0 16) = true →
      let st := ofLe ((token.drop 4).take 1); let serial := ofLe ((token.drop 8).take 8)
      if arg 1 0 16 = 4707 ∧ s.tokenOk token = true then ends .debugtoken 0 st fun t => t.dev.dbg = st ∧ t.dev.tokSerial.toNat = serial
      else ends .debugtoken 9 s.dev.dbg fun t => t.dev.dbg = s.dev.dbg ∧ t.dev.tokSerial = s.dev.tokSerial ∧
        ∃ r, t.dev.repQueue = s.dev.repQueue ++ [r] ∧ r.kind = 16 ∧ r.p = [2, BitVec.ofNat 64 serial]) ∧
    (idle → arg 1 32 32 = 0 → arg 0 0 3 = 0 → s.bufOk (arg 0 0 64) (arg 1 0 32) = false → ends .readbad 8 0 fun t => t.mem = s.mem) ∧
    (idle → arg 2 32 32 = 0 → arg 0 0 3 = 0 → arg 1 0 3 = 0 → (s.bufOk (arg 0 0 64) 64 = false ∨ s.bufOk (arg 1 0 64) (arg 2 0 32) = false) →
      ends .attest 8 0 fun t => t.mem = s.mem) ∧
    (idle → arg 1 16 48 = 0 → arg 0 0 3 = 0 → s.bufOk (arg 0 0 64) (arg 1 0 16) = false → ends .debugtoken 8 s.dev.dbg fun t => t.mem = s.mem ∧ t.dev.dbg = s.dev.dbg) ∧
    (∀ frame, idle → live → arg 0 32 32 = 0 → arg 0 0 32 = frame → arg 1 2 62 = 0 → arg 1 0 2 ≤ 2 → (frameTier frame).isSome = true → s.frmapOf frame = none →
      ∃ t m, exec .retire s = .next t ∧ shot t frame ∧ (t.reg 0x408).getLsbD 0 = true ∧ t.dev.mgmt = some m ∧ m.op = 1 ∧ m.phase = 1
        ∧ m.arg 0 0 32 = frame ∧ m.arg 1 0 2 = arg 1 0 2) ∧
    (∀ m, s.dev.mgmt = some m → m.op = 1 → m.phase = 1 → s.mgmtShooting = false → let frame := m.arg 0 0 32; let n := s.dev.badList.length
      if s.isBad frame then ends .retire 1 n fun t => t.dev.badList = s.dev.badList
      else if 4096 ≤ n then ends .retire 2 n fun t => t.dev.badList = s.dev.badList
      else ends .retire 0 (n + 1) fun t => ∃ w, t.dev.badList = s.dev.badList ++ [w] ∧ badFrame w = frame ∧ chkGood w = true
        ∧ fld w 33 1 = (frameTier frame).getD 0 ∧ fld w 34 2 = m.arg 1 0 2 ∧ fld w 36 12 = s.dev.badSeq % 4096) ∧
    (∀ f g, idle → live → arg 0 0 64 = f → arg 1 0 64 = g → f < 2 ^ 32 → g < 2 ^ 32 → (frameTier f).isSome = true → (frameTier g).isSome = true →
      if s.migrateBad f g ≠ 0 then ends .migrate (s.migrateBad f g) 0 fun t => ∀ n < 8, t.reg (frmapOff n + 8) = s.reg (frmapOff n + 8)
      else ∃ t m, exec .migrate s = .next t ∧ shot t f ∧ (t.reg 0x408).getLsbD 0 = true ∧ t.dev.mgmt = some m ∧ m.op = 2 ∧ m.phase = 1 ∧ m.slot < 8
        ∧ (s.reg (frmapOff m.slot + 8)).getLsbD 0 = false ∧ (t.reg (frmapOff m.slot)).toNat = f + g * 2 ^ 32 ∧ t.reg (frmapOff m.slot + 8) = 3) ∧
    (∀ m, s.dev.mgmt = some m → m.op = 2 → m.phase = 2 → let f := m.arg 0 0 32; let g := m.arg 1 0 32
      f ≠ g → ∃ t, exec .migrate s = .next t ∧ t.dev.mgmt = some { m with phase := 3 }
        ∧ (∀ i < 65536, t.homeByte (g * 2 ^ 16 + i) = s.homeByte (f * 2 ^ 16 + i)) ∧ ∀ a, a / 2 ^ 16 ≠ g → t.homeByte a = s.homeByte a) ∧
    (∀ m n, s.dev.mgmt = some m → m.op = 2 → m.phase = 3 → m.slot = n → n < 8 →
      ends (.migrateHoldClear n) 0 n fun t => t.reg (frmapOff n + 8) = s.reg (frmapOff n + 8) &&& ~~~2)

/-- R361, R363 to R367, R371, R381 to R390, R119, R166, R167, R406: a queue's entry is checked and becomes its head or an error in QSTAT; the highest-priority admissible head becomes a launch bound
to good dies and clusters; its tuples are placed in order with fresh flights; a workgroup goes when its work is done; edges, Z-regions and DONE follow in that order. -/
def Obligations.LaunchesAreTakenAdmittedPlacedAndCompleted : Prop :=
  ∀ s : State,
    (∀ q < 256, let o := 0x20000 + 64 * q
      let i := fld (s.reg (o + 8)) 0 32
      let stat := s.reg (o + 16)
      ((s.reg o).getLsbD 0 = true → s.running = true → s.headOf q = none → i ≠ fld (s.reg (o + 8)) 32 32 → s.takeHeld q = false →
        ∃ t, exec (.queueTake q) s = .next t ∧ fld (t.reg (o + 8)) 0 32 = (i + 1) % 2 ^ 32 ∧ fld (t.reg (o + 8)) 32 32 = fld (s.reg (o + 8)) 32 32
          ∧ t.sched.copies = s.sched.copies.filter (fun p => p.1 ≠ (q, i)) ∧ t.mem = s.mem ∧
          match s.takeEntry q with
          | .error e => t.sched.heads = s.sched.heads ∧ fld (t.reg (o + 16)) 0 8 = e ∧ fld (t.reg (o + 16)) 16 16 = i % 65536
              ∧ fld (t.reg (o + 16)) 8 8 = min (fld stat 8 8 + 1) 255 ∧ fld (t.reg (o + 16)) 32 32 = fld stat 32 32
          | .ok (r, va, w) => t.sched.heads = s.sched.heads ++ [{ queue := q, recd := r, va, wait := w }] ∧ t.reg (o + 16) = stat) ∧
      ((s.reg o).getLsbD 0 = false ∨ s.running = false ∨ s.headOf q ≠ none ∨ i = fld (s.reg (o + 8)) 32 32 ∨ s.takeHeld q = true → exec (.queueTake q) s = .next s)) ∧
    (∀ p, s.nextHead p = none → exec (.launchAdmit p) s = .next s) ∧
    (∀ p h k, s.nextHead p = some (h, k) → let r := h.recd; let c := s.reg (0x20000 + 64 * h.queue)
      h ∈ s.sched.heads ∧ h.queue / 64 = p ∧ s.admissible h = true ∧ (∀ g ∈ s.sched.heads, g.queue / 64 = p → s.admissible g = true → recPrio g.recd ≤ recPrio r) ∧
      (s.zHeld r (fld c 20 12) = true → exec (.launchAdmit p) s = .next s) ∧
      (s.zHeld r (fld c 20 12) = false → ∃ t, exec (.launchAdmit p) s = .next t ∧ t.sched.heads = s.sched.heads.filter (fun g => g.queue ≠ h.queue) ∧ t.flights = s.flights ∧ t.mem = s.mem ∧
        if s.zBad r (fld c 20 12) then t.launches = s.launches ∧ fld (t.reg (0x20010 + 64 * h.queue)) 0 8 = 7
        else ∃ l, t.launches = s.launches ++ [l] ∧ l.id = s.nextId ∧ l.recd = r ∧ l.va = h.va ∧ l.queue = h.queue ∧ l.asid = fld c 20 12 ∧ l.tenant = fld c 16 4
          ∧ l.priv = recPriv r ∧ l.nextTuple = 0 ∧ l.phase = .running ∧ l.zr = (List.range 16).filter (fun n => (recZmask r).testBit n)
          ∧ (∀ i < recNdie r, mget 0 l.dies i ∈ s.goodDies r ∧ ∀ j < i, mget 0 l.dies i ≠ mget 0 l.dies j)
          ∧ (∀ i < recNdie r, ∀ k < recNcl r, mget 0 l.clusters (4 * i + k) ∈ s.goodClusters r (mget 0 l.dies i)
              ∧ ∀ j < k, mget 0 l.clusters (4 * i + k) ≠ mget 0 l.clusters (4 * i + j))
          ∧ ∀ n ∈ l.zr, mget 0 t.dev.zrOwner (16 * l.asid + n) = l.id)) ∧
    (∀ l x, s.launch? l = some x → ∀ cores, let r := x.recd; let cl := x.nextCluster
      (x.phase = .running → x.nextTuple < recNwg r * recNcl r * recNdie r → cores.length = recNstg r → (∀ k ∈ cores, clusterOf k = cl) → cl / 4 ∉ s.dev.dieRst →
        s.parked.testBit (cl / 4) = false → s.waitingBack cl (recPrio r) = false →
        ∀ u, s.placeAll x (enum cores) = some u → (u.shortFor x cl = true → exec (.workgroupPlace l cores) s = .next s) ∧ (u.shortFor x cl = false →
        ∃ (t : State) (gs : List Workgroup) (fs : List Flight), exec (.workgroupPlace l cores) s = .next t ∧ t.wgs = s.wgs ++ gs ∧ t.flights = s.flights ++ fs ∧ t.mem = s.mem
          ∧ (∃ y, t.launch? l = some y ∧ y = { x with nextTuple := x.nextTuple + 1 }) ∧ gs.length = cores.length
          ∧ fs.length = cores.length * recNfl r * (if recShadow r then 2 else 1)
          ∧ (∀ (i : Nat) (g : Workgroup), gs[i]? = some g → g.launch = x.id ∧ (g.d, g.c, g.w) = tupleAt r x.nextTuple ∧ g.s = i ∧ some g.core = cores[i]? ∧ g.mem = [] ∧ g.sems = []
              ∧ g.size = (recLmem r + 2047) / 2048 * 2048 ∧ g.nsem = recNsem r)
          ∧ ∀ f ∈ fs, f.launch = x.id ∧ f.pc = recField r 0 0 48 ∧ f.exm = BitVec.allOnes 64 ∧ f.dead = 0 ∧ f.fmode = 1 ∧ f.fstat = 0 ∧ f.symNext = 16 ∧ f.v = [] ∧ f.s = []
              ∧ f.p = [] ∧ f.x = [] ∧ f.tiles = [] ∧ f.stack = [] ∧ f.clause = none ∧ f.place = .pending none false ∧ f.nVregs = recVregs r ∧ f.nTiles = recNtiles r
              ∧ f.priv = x.priv ∧ f.fidx < recNfl r ∧ (∃ g ∈ gs, f.wg = g.id ∧ f.core = g.core))) ∧
      (x.phase = .running → s.launchDone x = true → exec (.launchComplete l) s = .next (s.setLaunch { x with phase := .edges 0 })) ∧
      (x.phase = .running → s.launchDone x = false → exec (.launchComplete l) s = .next s) ∧
      (∀ i t, x.phase = .edges i → i < recNedge r → s.edgeStep x i = some t →
        exec (.launchComplete l) s = .next (t.setLaunch { ((t.launch? l).getD x) with phase := .edges (i + 1) })) ∧
      (∀ i, x.phase = .edges i → recNedge r ≤ i → x.zr = [] → exec (.launchComplete l) s = .next (s.setLaunch { x with phase := .retiring })) ∧
      (∀ why fr, x.phase = .ending why fr → s.launchDone x = true → x.zr = [] → ∃ (t : State) (y : Report), exec (.launchComplete l) s = .next (t.setLaunch { x with phase := .retiring })
        ∧ t = { s with dev := { s.dev with repQueue := s.dev.repQueue ++ [y] } } ∧ y.kind = 7 ∧ y.p = [BitVec.ofNat 64 why] ∧ y.frame = fr) ∧
      (x.phase = .retiring → (∀ n ∈ x.zr, mget 0 s.dev.zrOwner (16 * x.asid + n) ≠ x.id) → x.queue < 256 → let o := 0x20010 + 64 * x.queue
        ∃ t, exec (.launchComplete l) s = .next t ∧ t.launches = s.launches.filter (fun y => y.id ≠ x.id) ∧ t.flights = s.flights.filter (fun f => f.launch ≠ x.id)
          ∧ fld (t.reg o) 32 32 = (fld (s.reg o) 32 32 + 1) % 2 ^ 32 ∧ fld (t.reg o) 0 32 = fld (s.reg o) 0 32 ∧ t.mem = s.mem)) ∧
    (∀ w g, s.wg? w = some g → if s.wgDone g then ∃ t, exec (.workgroupRelease w) s = .next t ∧ t.wgs = s.wgs.filter (fun x => x.id ≠ w) ∧ t.dev.idleSince = s.clock
        ∧ t.barriers = s.barriers.filter (fun b => !(decide (b.scope = 1) && decide (b.key = w))) ∧ t.mem = s.mem ∧ t.flights = s.flights
      else exec (.workgroupRelease w) s = .next s) ∧
    (∀ f op x o r, s.flight? f = some x → x.op? op = some o → o.kind = .lnch → s.releaseOk x o.seq 4 (s.beforeOf x o.seq) = true →
      s.galleryHeld (s.launchOf x).asid o.accBase 512 = false → s.galleryWords (s.launchOf x).asid x.priv o.accBase 64 = some r → let q := recQueue r; let c := s.reg (0x20000 + 64 * q)
      let result (v : Nat) : List RegWrite := o.dests.filterMap fun d => match d with | .s n => some ⟨.s n, n, v⟩ | _ => none
      let own : Prop := c.getLsbD 2 = true ∧ c.getLsbD 0 = true ∧ fld c 20 12 = (s.launchOf x).asid ∧ fld c 16 4 = (s.launchOf x).tenant
      let held : Prop := s.slotHeld c (s.qTail q) = true ∨ s.zHeld r (fld c 20 12) = true
      let room : Prop := (s.qTail q + 2 ^ 32 - s.qHead q) % 2 ^ 32 < 2 ^ fld c 4 4
      (¬ own → exec (.lnchRecordCopy f op) s = .next (s.landOp f o (result 3) [])) ∧
      (own → ¬ room → exec (.lnchRecordCopy f op) s = .next (s.landOp f o (result 1) [])) ∧
      (own → room → held → exec (.lnchRecordCopy f op) s = .next s) ∧
      (own → room → ¬ held → s.recordFault r (fld c 20 12) (c.getLsbD 1) ≠ 0 → exec (.lnchRecordCopy f op) s = .next (s.landOp f o (result 2) [])) ∧
      (own → room → ¬ held → s.recordFault r (fld c 20 12) (c.getLsbD 1) = 0 → ∃ t : State, exec (.lnchRecordCopy f op) s = .next (t.landOp f o (result 0) []) ∧ t.flights = s.flights
        ∧ t.sched.copies = s.sched.copies ++ [((q, s.qTail q), (r, o.accBase))] ∧ t.qTail q = (s.qTail q + 1) % 2 ^ 32 ∧ t.qHead q = s.qHead q
        ∧ (s.failPort (s.slotPa c (s.qTail q)) = none →
          t.homeBytes (s.slotPa c (s.qTail q)) 8 = o.accBase % 2 ^ 48 ∧ t.homeBytes (s.slotPa c (s.qTail q) + 8) 8 = 0)))

/-- R224, R376, R391 to R397: ready flights enter the active set in order, a handler run to its own place (log 83), leave it after 4,096 clocks when others are ready, and age after 65,536; arrays wake by their die's pacing and idle; flights of lower
priority are chosen, saved and come back; a sound header waits as it says and opens its clause, a malformed one traps 0x03. -/
def Obligations.SchedulingEvictionArraysAndHeaders : Prop :=
  ∀ s : State,
    (∀ c p h, s.readyRun c p = some h → exec (.flightSwapIn c p) s = .next (s.setFlight { h with place := .active s.clock })) ∧
    (∀ c p, s.readyRun c p = none → 8 ≤ s.activeCount c p → exec (.flightSwapIn c p) s = .next s) ∧
    (∀ c p, s.readyRun c p = none → s.activeCount c p < 8 → s.readyOf c p ≠ [] → ∃ f ∈ s.readyOf c p, (∀ g ∈ s.readyOf c p, s.swapKey f ≤ s.swapKey g)
      ∧ exec (.flightSwapIn c p) s = .next (s.setFlight { f with place := .active s.clock })) ∧
    (∀ f x, s.flight? f = some x →
      (∀ u, x.place = .active u → exec (.flightSwapOutTimeout f) s = .next (
        if u + 4096 ≤ s.clock ∧ x.residual = [] ∧ x.isHandler = false ∧ s.readyOf x.core x.part ≠ [] then
          s.setFlight { x with place := .pending none false, slots := [], fixed := [] } else s)) ∧
      (∀ u a, x.place = .pending (some u) a → exec (.pendingAgeExpiry f) s = .next (
        if s.isReady x = true ∧ u + 65536 ≤ s.clock then s.setFlight { x with place := .pending (some u) true } else s)) ∧
      (x.isShadow = false → x.isEnded = false → x.isEvicted = false → s.partner x = none → s.mayLeave x = true → s.saveHeld x = false →
        match s.saveFlight x with
        | none => exec (.flightEvict f) s = .next (s.endLaunch x.launch 3 [])
        | some u => ∃ t g, exec (.flightEvict f) s = .next t ∧ t.mem = u.mem ∧ t.flight? f = some g ∧ g.place = .evicted s.sched.order ∧ g.leaving = false ∧ g.slots = []
            ∧ g.walkRes = [] ∧ g.ops = x.ops.filter (fun o => !(decide (o.kind = .mgath) && decide (o.hint = 0)))
            ∧ { g with place := x.place, leaving := x.leaving, slots := x.slots, fixed := x.fixed, wait := x.wait, walkRes := x.walkRes, ops := x.ops } = x ∧ t.sched.order = s.sched.order + 1) ∧
      (s.mayLeave x = false ∨ s.saveHeld x = true → exec (.flightEvict f) s = .next s) ∧
      (∀ core p m, clusterOf core = clusterOf (s.wgOf x).core → (s.returning (clusterOf core)).head? = some x →
        (s.room core).flight (s.recOf x) = some (p, m) → s.partner x = none → s.saveHeld x = false →
        s.freedFor (s.setFlight (x.back core p)) (recPrio (s.recOf x)) (clusterOf core) = false →
        match s.loadFlight x with
        | none => exec (.flightReturn f core) s = .next (s.endLaunch x.launch 3 [])
        | some y => ∃ g, exec (.flightReturn f core) s = .next (s.setFlight g) ∧ g.core = core ∧ g.part = p ∧ g.place = .pending none false ∧ g.walkRes = [] ∧ g.v = y.v ∧ g.tiles = y.tiles
            ∧ { g with core := x.core, part := x.part, place := x.place, walkRes := x.walkRes, wait := x.wait, v := x.v, tiles := x.tiles } = x)) ∧
    (∀ l x core, s.launch? l = some x → (x.unplaced = false ∨ clusterOf core ≠ x.nextCluster ∨ recNstg x.recd ≤ roomsFit x.recd 8 (s.rooms x.nextCluster fun f => f.leavesWith [])) →
      exec (.evictionDecision l core) s = .next s) ∧
    (∀ l x core n, s.launch? l = some x → s.shortfall x core = some n → let v := s.victims x core n
      (∀ i ∈ v, ∃ f ∈ s.flights, f.id = i ∧ f.isEnded = false ∧ f.isEvicted = false
        ∧ ∃ g ∈ s.flights, g.wg = f.wg ∧ g.core = core ∧ g.isEnded = false ∧ recPrio (s.recOf g) < recPrio x.recd ∧ (g.id = i ∨ (∃ h ∈ s.flights, h.wg = f.wg ∧ h.core = core ∧ h.regrouped = true))) ∧
      exec (.evictionDecision l core) s = .next { s with flights := s.flights.map (fun f => if f.leavesWith v then { f with leaving := true } else f) }) ∧
    (∀ d r, r ∈ s.sched.wakeReqs → dieOf r.core = d → (∀ q ∈ s.sched.wakeReqs, dieOf q.core = d → q ≠ r → r.since < q.since) →
      let cfg := s.reg (0x100008 + 0x10000 * d)
      let gap := if cfg.getLsbD 0 then max 1 (max (fld cfg 16 8) ((200 * fld cfg 24 8 + fld cfg 8 8 - 1) / fld cfg 8 8)) else 1
      let last := mget 0 s.sched.lastWake d
      (last = 0 ∨ last - 1 + gap ≤ s.clock → ∃ t, exec (.matrixArrayWake d) s = .next t ∧ mget ⟨0, false⟩ t.sched.arrays (6 * r.core + r.part) = ⟨s.clock, true⟩
        ∧ t.sched.wakeReqs = s.sched.wakeReqs.filter (fun q => q ≠ r) ∧ mget 0 t.sched.lastWake d = s.clock + 1 ∧ t.flights = s.flights ∧ t.mem = s.mem
        ∧ mget 0 t.sched.delayed d = mget 0 s.sched.delayed d + if r.since < s.clock then 1 else 0) ∧
      (last ≠ 0 → s.clock < last - 1 + gap → exec (.matrixArrayWake d) s = .next s)) ∧
    (∀ core part, let k := 6 * core + part
      let a := mget ⟨0, false⟩ s.sched.arrays k
      let idle := fld (s.reg (0x100008 + 0x10000 * dieOf core)) 40 8
      exec (.matrixArrayIdle core part) s = .next (if a.awake = true ∧ idle ≠ 0 ∧ a.busyTo + 16 * idle ≤ s.clock then
        { s with sched := { s.sched with arrays := mset ⟨0, false⟩ s.sched.arrays k ⟨a.busyTo, false⟩ } } else s)) ∧
    (∀ f, s.flight? s.cur = some f → f.clause = none → s.canHeader f = true →
      (∀ fr, s.fetchWord f 0 f.pc = .miss fr → exec .clauseHeaderIssue s = .next (s.askWalks f.id (s.launchOf f).asid [fr])) ∧
      (s.fetchWord f 0 f.pc = .wait → exec .clauseHeaderIssue s = .next s) ∧
      (∀ u, s.fetchWord f 0 f.pc = .trap u → exec .clauseHeaderIssue s = .next (s.raiseTrap f.id u)) ∧
      (∀ w, s.fetchWord f 0 f.pc = .ok [w] →
        (fld w 28 4 ≠ 13 ∨ fld w 19 9 ≠ 0 ∨ fld w 0 4 = 0 → exec .clauseHeaderIssue s = .next (s.raiseTrap f.id { code := 0x03, cause := 1, mask := BitVec.allOnes 64 })) ∧
        (∀ ws, fld w 28 4 = 13 → fld w 19 9 = 0 → fld w 0 4 ≠ 0 → s.fetchInstrs f (fld w 0 4) 1 ((f.pc + 4) % 2 ^ 48) = .ok ws →
          let waits : Prop := (∃ k < 8, w.getLsbD (7 + k) = true ∧ f.token k ≠ 0) ∨ w.getLsbD 15 = true ∧ f.landing = true ∨ w.getLsbD 17 = true ∧ f.residual ≠ []
          (waits → exec .clauseHeaderIssue s = .next s) ∧
          (¬ waits → ∃ t g, exec .clauseHeaderIssue s = .next t ∧ t.flight? f.id = some g ∧ t.mem = s.mem ∧ g.pc = (f.pc + 4) % 2 ^ 48
            ∧ g.clause = some { cls := fld w 4 3, words := ws, left := fld w 0 4, chk := w.getLsbD 18, def_ := w.getLsbD 16 }
            ∧ g.rgnc = (if w.getLsbD 17 then f.rgnc + 1 else f.rgnc) ∧ g.region = (if w.getLsbD 17 then ⟨f.pc, f.exm, f.depth, true⟩ else f.region)
            ∧ g.snap = (if w.getLsbD 17 then f.counts else f.snap)
            ∧ { g with pc := f.pc, clause := f.clause, rgnc := f.rgnc, region := f.region, snap := f.snap, walkRes := f.walkRes, blocked := f.blocked } = f))))

/-- R191, R195, R399 to R403, R405, R411, R412, R428: the earliest trap of a partition starts its handler run; with EN 0 firmware's default acts on the frame; a refused lane's trap, the watchdog's and that of a
full residual queue are raised at an instruction boundary; a queued entry whose operands have landed runs and its result is outstanding. -/
def Obligations.HandlersDefaultsRefusalsAndTheWatchdog : Prop :=
  ∀ s : State, ∀ f x, s.flight? f = some x →
    let en := (s.reg (0x20018 + 64 * (s.launchOf x).queue)).getLsbD 0
    let entry := fld (s.reg (0x20018 + 64 * (s.launchOf x).queue)) 2 46 * 4
    let said (t : State) (k : Nat) (p : List Nat) (fr : List DWord) : Prop :=
      ∃ r, t.dev.repQueue = s.dev.repQueue ++ [r] ∧ r.kind = k ∧ r.p = p.map (BitVec.ofNat 64) ∧ r.frame = fr
    (∀ u, x.trap = some u → s.runReady x = true → s.partner x = none →
      (∀ g ∈ s.flights, g.core = x.core → g.part = x.part → s.runReady g = true → ∀ v, g.trap = some v → s.runKey x u ≤ s.runKey g v) →
      ∃ t h, exec (.handlerRunStart f) s = .next t ∧ t.flight? f = some { x with trap := some { u with phase := .running s.nextId } } ∧ h ∈ t.flights ∧ h.id = s.nextId ∧ h.kind = .handler f
        ∧ (∀ i < u.frame.length, h.rdS i = u.frame.getD i 0) ∧ h.pc = entry ∧ h.exm = BitVec.allOnes 64 ∧ h.priv = true ∧ h.nVregs = 16 ∧ h.nTiles = 0 ∧ h.fmode = 1 ∧ h.core = x.core
        ∧ h.part = x.part ∧ h.clause = none ∧ h.place = .active s.clock ∧ t.mem = s.mem ∧ t.nextId = s.nextId + 1) ∧
    (s.runReady x = false → exec (.handlerRunStart f) s = .next s) ∧
    (∀ u, x.trap = some u → u.phase = .raised → en = false → x.isEvicted = false → x.isEnded = false → s.partner x = none →
      let code := fld (u.frame.getD 0 0) 0 8
      (code ∉ [0x08, 0x18, 0x19, 0x1A, 0x21, 0x22, 0x31] → exec (.defaultHandlerAction f) s = .next (s.endLaunch x.launch 1 u.frame)) ∧
      (code ∈ [0x1A, 0x21, 0x22] → ∃ t, exec (.defaultHandlerAction f) s = .next t ∧ said t 6 [2] u.frame ∧ t.flight? f = some (x.resume 0 0)) ∧
      (code = 0x08 → ∃ t, exec (.defaultHandlerAction f) s = .next t ∧ said t 6 [3] u.frame
        ∧ t.flight? f = some ({ x with fmode := x.fmode &&& ~~~0x100 }.resume 0 0)) ∧
      (code = 0x31 → ∃ t, exec (.defaultHandlerAction f) s = .next t ∧ said t 9 [fld (u.frame.getD 0 0) 40 8, (u.frame.getD 7 0).toNat] u.frame ∧ t.flight? f = some (x.resume 0 0)) ∧
      (code = 0x18 → let m := u.frame.getD 5 0 &&& ~~~x.dead
        (m = 0 → ∃ t, exec (.defaultHandlerAction f) s = .next t ∧ t.flight? f = some (x.resume 0 0) ∧ said t 5 [0, x.dead.toNat, x.fidx] u.frame) ∧
        (m ≠ 0 → (~~~(x.dead ||| m) &&& ~~~x.exited) ≠ 0 → ∃ t g, exec (.defaultHandlerAction f) s = .next t ∧ t.flight? f = some g ∧ g.dead = x.dead ||| m ∧ g.trap = none
          ∧ said t 5 [m.toNat, (x.dead ||| m).toNat, x.fidx] u.frame))) ∧
    (en = true → exec (.defaultHandlerAction f) s = .next s) ∧
    (x.refused = [] → exec (.poisonRefusal f) s = .next s) ∧
    (∀ r rs, x.refused = r :: rs → s.isHeld x = false → x.isEnded = false → x.isEvicted = false → ∃ u, u.code = 0x18 ∧ u.cause = 2
      ∧ (∀ l < 64, u.mask.getLsbD l = true ↔ ∃ q ∈ x.refused, q.pc = r.pc ∧ q.lane = l) ∧ (∃ q ∈ x.refused, q.pc = r.pc ∧ q.pa = u.addr) ∧ (∀ q ∈ x.refused, q.pc = r.pc → u.addr ≤ q.pa)
      ∧ exec (.poisonRefusal f) s = .next ((s.setFlight { x with refused := x.refused.filter (fun q => q.pc ≠ r.pc) }).raiseTrap f u)) ∧
    (∀ w, x.wait = some w → s.isHeld x = false → x.isEnded = false → x.isEvicted = false → (w.kind = 7 ∨ s.waitOver x = false) →
      exec (.watchdogExpiry f) s = .next (
        if (s.reg 0x108).getLsbD 0 = true ∧ w.since + 2 ^ fld (s.reg 0x108) 2 6 ≤ s.clock then
          (s.setFlight { x with wait := some { w with since := s.clock } }).raiseTrap f { code := 0x31, cause := w.kind, mask := BitVec.allOnes 64, aux := s.clock - w.since }
        else s)) ∧
    (x.wait = none → exec (.watchdogExpiry f) s = .next s) ∧
    (∀ cause head n k, x.capTrap = some (cause, head, n, k) → s.isHeld x = false → x.isEnded = false →
      (x.residual ≠ [] → exec (.residualCapacityTrap f) s = .next s) ∧
      (x.residual = [] → ∃ u, exec (.residualCapacityTrap f) s = .next ((s.setFlight { x with capTrap := none }).raiseTrap f u) ∧ u.code = 0x08 ∧ u.cause = cause
        ∧ u.mask = BitVec.allOnes 64 ∧ (x.dstrict = true → u.info = n ∧ u.xtra = k) ∧ (x.dstrict = false → u.info = 0 ∧ u.aux = 0 ∧ u.xtra = 0))) ∧
    (∀ e i o d a b, x.residual.find? (fun e => decide (e.id = i) && x.entryReady e) = some e → s.isHeld x = false → x.isEnded = false → x.kind = .leader → s.partner x = none →
      e.ins = some (.vadd o) → (ofShort o).d = d → (ofShort o).a = a → (ofShort o).b = .spec b → okind d = .v d → okind a = .v a → okind b = .v b → e.marks = [] →
      ∃ t g p, exec (.residualEntryRun f i) s = .next t ∧ t.flight? f = some g ∧ g.residual = x.residual.filter (fun y => y.id ≠ e.id) ∧ g.ops = x.ops ++ [p] ∧ p.kind = .result
        ∧ p.seq = e.seq ∧ p.pc = e.pc ∧ p.dests = e.dests ∧ RegsAre x g noV noS noS noV ∧ t.mem = s.mem
        ∧ ∀ n, ∀ l < 64, (p.writes.foldl Flight.regWrite x).rdV n l =
            if n = d ∧ (e.exm &&& x.live).getLsbD l = true then mget 0 e.v (64 * a + l) + mget 0 e.v (64 * b + l) else x.rdV n l)

/-- R424 to R426 and Table 18-9: in Halt the port asks a flight to stop, which it does once nothing of it is on its way; a stopped flight's state is read and written by selector, answered with an error where it
may not be; it resumes at its place, its region or an address; STEP is set and cleared. Outside Halt the port does nothing. -/
def Obligations.TheDebugPortStopsReadsWritesAndResumes : Prop :=
  ∀ s : State, ∀ f x, s.flight? f = some x → let halt : Prop := s.dev.dbg = 2
    let ans (s : State) (st : Nat) (b : List Byte) : State := { s with dev := { s.dev with answer := (st, b) } }
    (exec (.debugStop f) s = .next (open Classical in if halt ∧ x.port = .free ∧ x.isEnded = false then s.setFlight { x with port := .asked } else s)) ∧
    (x.port = .asked → x.residual = [] → (∀ o ∈ x.ops, o.stopWaits = false) → (∀ r ∈ x.fixed, r.ready ≤ s.clock) →
      ∃ g, exec (.debugStopComplete f) s = .next (s.setFlight g) ∧ g.port = .stopped ∧ g.isActive = false ∧ { g with port := x.port, place := x.place, slots := x.slots, fixed := x.fixed } = x) ∧
    (x.port ≠ .asked ∨ x.residual ≠ [] ∨ (∃ o ∈ x.ops, o.stopWaits = true) → exec (.debugStopComplete f) s = .next s) ∧
    (∀ sel, halt → x.port = .stopped → selOk x sel = true → exec (.debugRead f sel) s = .next (ans s 0 (leBytes 8 (selRead x sel).toNat))) ∧
    (∀ sel, ¬ halt ∨ x.port ≠ .stopped ∨ selOk x sel = false → exec (.debugRead f sel) s = .next (ans s 1 [])) ∧
    (∀ sel v, halt → x.port = .stopped → selOk x sel = true → selWritable sel = true → selValueOk sel v = true → exec (.debugWrite f sel v) s = .next (ans (s.selWrite x sel v) 0 [])) ∧
    (∀ sel v, ¬ halt ∨ x.port ≠ .stopped ∨ selOk x sel = false ∨ selWritable sel = false → exec (.debugWrite f sel v) s = .next (ans s 1 [])) ∧
    (∀ pc, halt → x.port = .stopped → exec (.debugResume f 0 pc) s = .next (s.setFlight { x with port := .free })) ∧
    (∀ pc, halt → x.port = .stopped → x.region.valid = true → x.trap = none → ∃ g, exec (.debugResume f 1 pc) s = .next (s.setFlight g) ∧ g.port = .free ∧ g.pc = x.region.start
      ∧ g.exm = x.region.exm &&& ~~~x.dead &&& ~~~x.exited ∧ g.clause = none ∧ g.counts = x.snap ∧ g.residual = []) ∧
    (∀ pc : BitVec 64, halt → x.port = .stopped → ∃ g, exec (.debugResume f 2 pc) s = .next (s.setFlight g) ∧ g.port = .free ∧ g.pc = pc.toNat ∧ g.clause = none ∧ g.trap = x.trap) ∧
    (∀ mode pc, ¬ halt ∨ x.port ≠ .stopped ∨ 2 < mode ∨ (mode = 1 ∧ x.region.valid = false) → exec (.debugResume f mode pc) s = .next s) ∧
    (∀ on, halt → exec (.debugSetStep f on) s = .next (s.setFlight { x with step := on })) ∧
    (∀ on, ¬ halt → exec (.debugSetStep f on) s = .next s)
end

