-- ==== Sys2Proof/Laws/Maps.lean ====
section
/-! SUPPORT. Laws of sparse maps, of keyed lists and of memory cells: reading after writing, and the canonical form, which every
write keeps. -/

namespace Sys2Proof.Machine

/-! ### Reading after writing -/

theorem mget_mput (d : α) (m : NMap α) (k j : Nat) (a : α) :
    mget d (mput m k a) j = if j = k then a else mget d m j := by
  induction m with
  | nil => simp only [mput, mget, eq_comm]
  | cons p r ih =>
    obtain ⟨k', b⟩ := p
    simp only [mput]
    by_cases h : j = k
    · subst h
      split
      · simp [mget]
      · split
        · simp [mget]
        · rename_i h1 h2; simp [mget, ih, Ne.symm h2]
    · rw [if_neg h]
      split
      · simp [mget, Ne.symm h]
      · split
        · rename_i h1 h2; subst h2; simp [mget, Ne.symm h]
        · simp [mget, ih, h]

theorem mget_filter_ne (d : α) (m : NMap α) (k j : Nat) :
    mget d (m.filter fun p => decide (p.1 ≠ k)) j = if j = k then d else mget d m j := by
  induction m with
  | nil => simp [mget]
  | cons p r ih =>
    obtain ⟨k', b⟩ := p
    by_cases h : k' = k
    · subst h
      simp only [List.filter_cons, mget, ne_eq, not_true, decide_false, Bool.false_eq_true, if_false, ih]
      by_cases h : j = k' <;> simp [h]
      simp [show ¬ k' = j from fun e => h e.symm]
    · simp only [List.filter_cons, mget, ne_eq, h, not_false_eq_true, decide_true, if_true, ih]
      by_cases h' : k' = j
      · subst h'; simp [h]
      · simp [h']

/-- A read after a write, at the same key or another. -/
theorem mget_mset [DecidableEq α] (d : α) (m : NMap α) (k j : Nat) (a : α) :
    mget d (mset d m k a) j = if j = k then a else mget d m j := by
  unfold mset
  split
  · rename_i h; subst h; exact mget_filter_ne a m k j
  · exact mget_mput d m k j a

theorem mget_mset_same [DecidableEq α] (d : α) (m : NMap α) (k : Nat) (a : α) : mget d (mset d m k a) k = a := by
  simp [mget_mset]
theorem mget_mset_other [DecidableEq α] (d : α) (m : NMap α) {k j : Nat} (a : α) (h : j ≠ k) :
    mget d (mset d m k a) j = mget d m j := by
  simp [mget_mset, h]

/-- A write leaves other keys alone, whatever the defaults are. -/
theorem mget_mset_ne [DecidableEq α] (e d : α) (m : NMap α) {k j : Nat} (a : α) (h : j ≠ k) : mget e (mset d m k a) j = mget e m j := by
  unfold mset
  split
  · have := mget_filter_ne e m k j; rw [if_neg h] at this; exact this
  · rw [mget_mput, if_neg h]

/-! ### The canonical form -/

/-- All keys of a map lie above `k`. -/
def Above (k : Nat) (m : NMap α) : Prop := ∀ p ∈ m, k < p.1

theorem mwf_cons [DecidableEq α] (d : α) (k : Nat) (a : α) (r : NMap α) :
    mwf d ((k, a) :: r) = true ↔ a ≠ d ∧ Above k r ∧ mwf d r = true := by
  induction r generalizing k a with
  | nil => simp [mwf, Above]
  | cons p r ih =>
    obtain ⟨k', b⟩ := p
    simp only [mwf, Bool.and_eq_true, decide_eq_true_eq, Above, List.mem_cons, forall_eq_or_imp]
    rw [ih]
    constructor
    · rintro ⟨⟨h1, h2⟩, h3, h4, h5⟩
      exact ⟨h1, ⟨h2, fun p hp => Nat.lt_trans h2 (h4 p hp)⟩, h3, h4, h5⟩
    · rintro ⟨h1, ⟨h2, -⟩, h3⟩
      exact ⟨⟨h1, h2⟩, h3⟩

theorem mwf_nil [DecidableEq α] (d : α) : mwf d ([] : NMap α) = true := rfl

theorem mwf_filter [DecidableEq α] (d : α) (q : Nat × α → Bool) (m : NMap α) (h : mwf d m = true) :
    mwf d (m.filter q) = true := by
  induction m with
  | nil => rfl
  | cons p r ih =>
    obtain ⟨k, a⟩ := p
    obtain ⟨h1, h2, h3⟩ := (mwf_cons d k a r).1 h
    rw [List.filter_cons]
    split
    · exact (mwf_cons d k a _).2 ⟨h1, fun p hp => h2 p (List.mem_filter.1 hp).1, ih h3⟩
    · exact ih h3

theorem above_mput (k j : Nat) (m : NMap α) (a : α) (hj : j < k) (h : Above j m) : Above j (mput m k a) := by
  induction m with
  | nil => simpa [mput, Above] using hj
  | cons p r ih =>
    obtain ⟨k', b⟩ := p
    have hr : Above j r := fun q hq => h q (List.mem_cons_of_mem _ hq)
    have hk : j < k' := h (k', b) (List.mem_cons_self ..)
    simp only [mput]
    split
    · intro q hq
      simp only [List.mem_cons] at hq
      rcases hq with rfl | rfl | hq
      · exact hj
      · exact hk
      · exact hr q hq
    · split
      · intro q hq
        simp only [List.mem_cons] at hq
        rcases hq with rfl | hq
        · exact hj
        · exact hr q hq
      · intro q hq
        simp only [List.mem_cons] at hq
        rcases hq with rfl | hq
        · exact hk
        · exact ih hr q hq

theorem mwf_mput [DecidableEq α] (d : α) (m : NMap α) (k : Nat) (a : α) (ha : a ≠ d) (h : mwf d m = true) :
    mwf d (mput m k a) = true := by
  induction m with
  | nil => exact (mwf_cons d k a []).2 ⟨ha, by simp [Above], rfl⟩
  | cons p r ih =>
    obtain ⟨k', b⟩ := p
    obtain ⟨h1, h2, h3⟩ := (mwf_cons d k' b r).1 h
    simp only [mput]
    split
    · rename_i hk
      refine (mwf_cons ..).2 ⟨ha, ?_, h⟩
      intro q hq
      rcases List.mem_cons.1 hq with rfl | hq
      · exact hk
      · exact Nat.lt_trans hk (h2 q hq)
    · split
      · rename_i hk; subst hk; exact (mwf_cons ..).2 ⟨ha, h2, h3⟩
      · rename_i hk hk'
        exact (mwf_cons ..).2 ⟨h1, above_mput k k' r a (by omega) h2, ih h3⟩

/-- A write keeps the canonical form. -/
theorem mwf_mset [DecidableEq α] (d : α) (m : NMap α) (k : Nat) (a : α) (h : mwf d m = true) : mwf d (mset d m k a) = true := by
  unfold mset
  split
  · exact mwf_filter d _ m h
  · rename_i ha; exact mwf_mput d m k a ha h

theorem mwf_msets [DecidableEq α] (d : α) (l : List (Nat × α)) (m : NMap α) (h : mwf d m = true) : mwf d (msets d m l) = true := by
  unfold msets
  induction l generalizing m with
  | nil => exact h
  | cons p r ih => exact ih _ (mwf_mset d m _ _ h)

/-- Equal canonical maps are those that read alike. -/
theorem mget_above (d : α) (k : Nat) (m : NMap α) (h : Above k m) : mget d m k = d := by
  induction m with
  | nil => rfl
  | cons p r ih =>
    obtain ⟨k', b⟩ := p
    have hk : k < k' := h (k', b) (List.mem_cons_self ..)
    simp only [mget, show ¬ k' = k by omega, if_false]
    exact ih fun q hq => h q (List.mem_cons_of_mem _ hq)

theorem mget_below (d : α) (k j : Nat) (m : NMap α) (h : Above k m) (hj : j ≤ k) : mget d m j = d :=
  mget_above d j m fun q hq => Nat.lt_of_le_of_lt hj (h q hq)

theorem mwf_ext [DecidableEq α] (d : α) (m n : NMap α) (hm : mwf d m = true) (hn : mwf d n = true)
    (h : ∀ k, mget d m k = mget d n k) : m = n := by
  induction m generalizing n with
  | nil =>
    cases n with
    | nil => rfl
    | cons p r =>
      obtain ⟨k, a⟩ := p
      have := (mwf_cons d k a r).1 hn
      have e := h k
      simp [mget] at e
      exact absurd e.symm this.1
  | cons p r ih =>
    obtain ⟨k, a⟩ := p
    obtain ⟨h1, h2, h3⟩ := (mwf_cons d k a r).1 hm
    cases n with
    | nil =>
      have e := h k
      simp [mget] at e
      exact absurd e h1
    | cons q t =>
      obtain ⟨j, b⟩ := q
      obtain ⟨g1, g2, g3⟩ := (mwf_cons d j b t).1 hn
      have hkj : k = j := by
        rcases Nat.lt_trichotomy k j with hlt | heq | hgt
        · have e := h k
          simp only [mget, if_true, show ¬ j = k by omega, if_false] at e
          rw [mget_below d j k t g2 (by omega)] at e
          exact absurd e h1
        · exact heq
        · have e := h j
          simp only [mget, if_true, show ¬ k = j by omega, if_false] at e
          rw [mget_below d k j r h2 (by omega)] at e
          exact absurd e.symm g1
      subst hkj
      have hab : a = b := by have e := h k; simpa [mget] using e
      subst hab
      refine congrArg _ (ih t h3 g3 fun i => ?_)
      by_cases hi : k = i
      · subst hi; rw [mget_above d k r h2, mget_above d k t g2]
      · have e := h i; simpa [mget, hi] using e

/-! ### Memory cells -/

theorem cellGet_cellSet (m : List Host.Cell) (a b : Nat) (x : Byte) :
    cellGet (cellSet m a x) b = if b = a then x else cellGet m b := mget_mset blankByte m a b x

theorem cellSet_wf (m : List Host.Cell) (a : Nat) (x : Byte) (h : Memory.wf m) : Memory.wf (cellSet m a x) :=
  mwf_mset blankByte m a x h

theorem cellsPut_wf (bs : List Byte) (m : List Host.Cell) (a : Nat) (h : Memory.wf m) : Memory.wf (cellsPut m a bs) := by
  induction bs generalizing m a with
  | nil => exact h
  | cons b r ih => exact ih _ _ (cellSet_wf m a b h)

/-- Bytes outside those written read as before. -/
theorem cellGet_cellsPut_other (bs : List Byte) (m : List Host.Cell) (a b : Nat) (h : b < a ∨ a + bs.length ≤ b) :
    cellGet (cellsPut m a bs) b = cellGet m b := by
  induction bs generalizing m a with
  | nil => rfl
  | cons x r ih =>
    simp only [List.length_cons] at h
    rw [cellsPut, ih _ _ (by omega), cellGet_cellSet, if_neg (by omega)]

/-! ### Lists kept by a key -/

theorem findBy_replBy (key : α → Nat) (l : List α) (k : Nat) (a : α) (ha : key a = k) :
    findBy key (replBy key l k a) k = (findBy key l k).map fun _ => a := by
  induction l with
  | nil => rfl
  | cons b r ih =>
    unfold findBy replBy at *
    by_cases h : key b = k
    · simp [h, ha]
    · simp [h, ih]

theorem findBy_replBy_ne (key : α → Nat) (l : List α) (k j : Nat) (a : α) (ha : key a = k) (hj : j ≠ k) :
    findBy key (replBy key l k a) j = findBy key l j := by
  induction l with
  | nil => rfl
  | cons b r ih =>
    unfold findBy replBy at *
    by_cases h : key b = k
    · have h1 : ¬ key a = j := by omega
      have h2 : ¬ key b = j := by omega
      simp [h, h1, ih, show ¬ k = j from fun e => hj e.symm]
    · simp only [List.map_cons, h, if_false, List.find?_cons]
      split
      · rfl
      · exact ih

theorem findBy_key (key : α → Nat) (l : List α) (k : Nat) (a : α) (h : findBy key l k = some a) : key a = k := by
  unfold findBy at h
  simpa using List.find?_some h

theorem replBy_replBy (key : α → Nat) (l : List α) (k : Nat) (a b : α) (ha : key a = k) :
    replBy key (replBy key l k a) k b = replBy key l k b := by
  unfold replBy
  rw [List.map_map]
  refine List.map_congr_left fun x _ => ?_
  by_cases h : key x = k <;> simp [h, ha]

theorem findBy_isSome_replBy (key : α → Nat) (l : List α) (k : Nat) (a : α) (ha : key a = k) (b : α) (h : findBy key l k = some b) :
    findBy key (replBy key l k a) k = some a := by
  rw [findBy_replBy key l k a ha, h]; rfl

end Sys2Proof.Machine
end

