-- ==== Sys2Proof/Laws/State.lean ====
section
/-! SUPPORT. What each update of the state leaves as it was, field by field, and what it gives the fields it writes. -/

namespace Sys2Proof.Machine

/-! ### Updates of the state -/

@[simp] theorem State.setFlight_same (s : State) (g : Flight) :
    (s.setFlight g).agenda = s.agenda ∧ (s.setFlight g).cur = s.cur ∧ (s.setFlight g).ins = s.ins ∧ (s.setFlight g).clock = s.clock ∧
    (s.setFlight g).freeCtr = s.freeCtr ∧ (s.setFlight g).nextId = s.nextId ∧ (s.setFlight g).wgs = s.wgs ∧ (s.setFlight g).launches = s.launches ∧
    (s.setFlight g).cmds = s.cmds ∧ (s.setFlight g).barriers = s.barriers ∧ (s.setFlight g).mem = s.mem ∧ (s.setFlight g).tr = s.tr ∧
    (s.setFlight g).dev = s.dev ∧ (s.setFlight g).sched = s.sched := by
  refine ⟨?_, ?_, ?_, ?_, ?_, ?_, ?_, ?_, ?_, ?_, ?_, ?_, ?_, ?_⟩ <;> rfl

@[simp] theorem State.setFlight_flights (s : State) (g : Flight) : (s.setFlight g).flights = replBy Flight.id s.flights g.id g := rfl

@[simp] theorem State.updFlight_same (s : State) (n : Nat) (u : Flight → Flight) :
    (s.updFlight n u).agenda = s.agenda ∧ (s.updFlight n u).cur = s.cur ∧ (s.updFlight n u).ins = s.ins ∧ (s.updFlight n u).clock = s.clock ∧
    (s.updFlight n u).freeCtr = s.freeCtr ∧ (s.updFlight n u).nextId = s.nextId ∧ (s.updFlight n u).wgs = s.wgs ∧ (s.updFlight n u).launches = s.launches ∧
    (s.updFlight n u).cmds = s.cmds ∧ (s.updFlight n u).barriers = s.barriers ∧ (s.updFlight n u).mem = s.mem ∧ (s.updFlight n u).tr = s.tr ∧
    (s.updFlight n u).dev = s.dev ∧ (s.updFlight n u).sched = s.sched := by
  unfold State.updFlight; split <;> simp

@[simp] theorem State.setWg_same (s : State) (w : Workgroup) :
    (s.setWg w).agenda = s.agenda ∧ (s.setWg w).cur = s.cur ∧ (s.setWg w).ins = s.ins ∧ (s.setWg w).clock = s.clock ∧
    (s.setWg w).freeCtr = s.freeCtr ∧ (s.setWg w).nextId = s.nextId ∧ (s.setWg w).flights = s.flights ∧ (s.setWg w).launches = s.launches ∧
    (s.setWg w).cmds = s.cmds ∧ (s.setWg w).barriers = s.barriers ∧ (s.setWg w).mem = s.mem ∧ (s.setWg w).tr = s.tr ∧
    (s.setWg w).dev = s.dev ∧ (s.setWg w).sched = s.sched := by
  refine ⟨?_, ?_, ?_, ?_, ?_, ?_, ?_, ?_, ?_, ?_, ?_, ?_, ?_, ?_⟩ <;> rfl

@[simp] theorem State.setWg_wgs (s : State) (w : Workgroup) : (s.setWg w).wgs = replBy Workgroup.id s.wgs w.id w := rfl

@[simp] theorem State.updWg_same (s : State) (n : Nat) (u : Workgroup → Workgroup) :
    (s.updWg n u).agenda = s.agenda ∧ (s.updWg n u).cur = s.cur ∧ (s.updWg n u).ins = s.ins ∧ (s.updWg n u).clock = s.clock ∧
    (s.updWg n u).freeCtr = s.freeCtr ∧ (s.updWg n u).nextId = s.nextId ∧ (s.updWg n u).flights = s.flights ∧ (s.updWg n u).launches = s.launches ∧
    (s.updWg n u).cmds = s.cmds ∧ (s.updWg n u).barriers = s.barriers ∧ (s.updWg n u).mem = s.mem ∧ (s.updWg n u).tr = s.tr ∧
    (s.updWg n u).dev = s.dev ∧ (s.updWg n u).sched = s.sched := by
  unfold State.updWg; split <;> simp

@[simp] theorem State.setLaunch_same (s : State) (l : Launch) :
    (s.setLaunch l).agenda = s.agenda ∧ (s.setLaunch l).cur = s.cur ∧ (s.setLaunch l).ins = s.ins ∧ (s.setLaunch l).clock = s.clock ∧
    (s.setLaunch l).freeCtr = s.freeCtr ∧ (s.setLaunch l).nextId = s.nextId ∧ (s.setLaunch l).flights = s.flights ∧ (s.setLaunch l).wgs = s.wgs ∧
    (s.setLaunch l).cmds = s.cmds ∧ (s.setLaunch l).barriers = s.barriers ∧ (s.setLaunch l).mem = s.mem ∧ (s.setLaunch l).tr = s.tr ∧
    (s.setLaunch l).dev = s.dev ∧ (s.setLaunch l).sched = s.sched := by
  refine ⟨?_, ?_, ?_, ?_, ?_, ?_, ?_, ?_, ?_, ?_, ?_, ?_, ?_, ?_⟩ <;> rfl

@[simp] theorem State.setLaunch_launches (s : State) (l : Launch) : (s.setLaunch l).launches = replBy Launch.id s.launches l.id l := rfl

@[simp] theorem State.setCmd_same (s : State) (c : Cmd) :
    (s.setCmd c).agenda = s.agenda ∧ (s.setCmd c).cur = s.cur ∧ (s.setCmd c).ins = s.ins ∧ (s.setCmd c).clock = s.clock ∧
    (s.setCmd c).freeCtr = s.freeCtr ∧ (s.setCmd c).nextId = s.nextId ∧ (s.setCmd c).flights = s.flights ∧ (s.setCmd c).wgs = s.wgs ∧
    (s.setCmd c).launches = s.launches ∧ (s.setCmd c).barriers = s.barriers ∧ (s.setCmd c).mem = s.mem ∧ (s.setCmd c).tr = s.tr ∧
    (s.setCmd c).dev = s.dev ∧ (s.setCmd c).sched = s.sched := by
  refine ⟨?_, ?_, ?_, ?_, ?_, ?_, ?_, ?_, ?_, ?_, ?_, ?_, ?_, ?_⟩ <;> rfl

@[simp] theorem State.setCmd_cmds (s : State) (c : Cmd) : (s.setCmd c).cmds = replBy Cmd.id s.cmds c.id c := rfl

@[simp] theorem State.setReg_same (s : State) (o : Nat) (v : DWord) :
    (s.setReg o v).agenda = s.agenda ∧ (s.setReg o v).cur = s.cur ∧ (s.setReg o v).ins = s.ins ∧ (s.setReg o v).clock = s.clock ∧
    (s.setReg o v).freeCtr = s.freeCtr ∧ (s.setReg o v).nextId = s.nextId ∧ (s.setReg o v).flights = s.flights ∧ (s.setReg o v).wgs = s.wgs ∧
    (s.setReg o v).launches = s.launches ∧ (s.setReg o v).cmds = s.cmds ∧ (s.setReg o v).barriers = s.barriers ∧ (s.setReg o v).mem = s.mem ∧
    (s.setReg o v).tr = s.tr ∧ (s.setReg o v).sched = s.sched := by
  refine ⟨?_, ?_, ?_, ?_, ?_, ?_, ?_, ?_, ?_, ?_, ?_, ?_, ?_, ?_⟩ <;> rfl

@[simp] theorem State.report_same (s : State) (k d c : Nat) (l : Option Launch) (p : List Nat) (fr : List DWord) :
    (s.report k d c l p fr).agenda = s.agenda ∧ (s.report k d c l p fr).cur = s.cur ∧ (s.report k d c l p fr).ins = s.ins ∧ (s.report k d c l p fr).clock = s.clock ∧
    (s.report k d c l p fr).freeCtr = s.freeCtr ∧ (s.report k d c l p fr).nextId = s.nextId ∧ (s.report k d c l p fr).flights = s.flights ∧ (s.report k d c l p fr).wgs = s.wgs ∧
    (s.report k d c l p fr).launches = s.launches ∧ (s.report k d c l p fr).cmds = s.cmds ∧ (s.report k d c l p fr).barriers = s.barriers ∧ (s.report k d c l p fr).mem = s.mem ∧
    (s.report k d c l p fr).tr = s.tr ∧ (s.report k d c l p fr).sched = s.sched := by
  refine ⟨?_, ?_, ?_, ?_, ?_, ?_, ?_, ?_, ?_, ?_, ?_, ?_, ?_, ?_⟩ <;> rfl

@[simp] theorem State.reportFlight_same (s : State) (f : Flight) (k : Nat) (p : List Nat) (fr : List DWord) :
    (s.reportFlight f k p fr).agenda = s.agenda ∧ (s.reportFlight f k p fr).cur = s.cur ∧ (s.reportFlight f k p fr).ins = s.ins ∧ (s.reportFlight f k p fr).clock = s.clock ∧
    (s.reportFlight f k p fr).freeCtr = s.freeCtr ∧ (s.reportFlight f k p fr).nextId = s.nextId ∧ (s.reportFlight f k p fr).flights = s.flights ∧ (s.reportFlight f k p fr).wgs = s.wgs ∧
    (s.reportFlight f k p fr).launches = s.launches ∧ (s.reportFlight f k p fr).cmds = s.cmds ∧ (s.reportFlight f k p fr).barriers = s.barriers ∧ (s.reportFlight f k p fr).mem = s.mem ∧
    (s.reportFlight f k p fr).tr = s.tr ∧ (s.reportFlight f k p fr).sched = s.sched := by
  refine ⟨?_, ?_, ?_, ?_, ?_, ?_, ?_, ?_, ?_, ?_, ?_, ?_, ?_, ?_⟩ <;> rfl

@[simp] theorem State.addOp_same (s : State) (n : Nat) (mk : Nat → Op) :
    (s.addOp n mk).agenda = s.agenda ∧ (s.addOp n mk).cur = s.cur ∧ (s.addOp n mk).ins = s.ins ∧ (s.addOp n mk).clock = s.clock ∧
    (s.addOp n mk).freeCtr = s.freeCtr ∧ (s.addOp n mk).wgs = s.wgs ∧ (s.addOp n mk).launches = s.launches ∧ (s.addOp n mk).cmds = s.cmds ∧
    (s.addOp n mk).barriers = s.barriers ∧ (s.addOp n mk).mem = s.mem ∧ (s.addOp n mk).tr = s.tr ∧ (s.addOp n mk).dev = s.dev ∧
    (s.addOp n mk).sched = s.sched := by
  unfold State.addOp; simp

/-! ### Updates of a flight -/

@[simp] theorem Flight.wrV_same (f : Flight) (n l : Nat) (w : Word) :
    (f.wrV n l w).id = f.id ∧ (f.wrV n l w).kind = f.kind ∧ (f.wrV n l w).launch = f.launch ∧ (f.wrV n l w).wg = f.wg ∧
    (f.wrV n l w).fidx = f.fidx ∧ (f.wrV n l w).core = f.core ∧ (f.wrV n l w).part = f.part ∧ (f.wrV n l w).nVregs = f.nVregs ∧
    (f.wrV n l w).nTiles = f.nTiles ∧ (f.wrV n l w).priv = f.priv ∧ (f.wrV n l w).chkAll = f.chkAll ∧ (f.wrV n l w).s = f.s ∧
    (f.wrV n l w).p = f.p ∧ (f.wrV n l w).x = f.x ∧ (f.wrV n l w).tiles = f.tiles ∧ (f.wrV n l w).shapes = f.shapes ∧
    (f.wrV n l w).exm = f.exm ∧ (f.wrV n l w).dead = f.dead ∧ (f.wrV n l w).exited = f.exited ∧ (f.wrV n l w).fmode = f.fmode ∧
    (f.wrV n l w).fstat = f.fstat ∧ (f.wrV n l w).symNext = f.symNext ∧ (f.wrV n l w).symLimit = f.symLimit ∧ (f.wrV n l w).rgnc = f.rgnc ∧
    (f.wrV n l w).counts = f.counts ∧ (f.wrV n l w).snap = f.snap ∧ (f.wrV n l w).slots = f.slots ∧ (f.wrV n l w).region = f.region ∧
    (f.wrV n l w).pc = f.pc ∧ (f.wrV n l w).clause = f.clause ∧ (f.wrV n l w).stack = f.stack ∧ (f.wrV n l w).spilled = f.spilled ∧
    (f.wrV n l w).tokens = f.tokens ∧ (f.wrV n l w).batch = f.batch ∧ (f.wrV n l w).stoch = f.stoch ∧ (f.wrV n l w).residual = f.residual ∧
    (f.wrV n l w).capTrap = f.capTrap ∧ (f.wrV n l w).ops = f.ops ∧ (f.wrV n l w).fixed = f.fixed ∧ (f.wrV n l w).wq = f.wq ∧
    (f.wrV n l w).obs = f.obs ∧ (f.wrV n l w).refused = f.refused ∧ (f.wrV n l w).step = f.step ∧ (f.wrV n l w).trap = f.trap ∧
    (f.wrV n l w).port = f.port ∧ (f.wrV n l w).place = f.place ∧ (f.wrV n l w).leaving = f.leaving ∧ (f.wrV n l w).wait = f.wait ∧
    (f.wrV n l w).blocked = f.blocked ∧ (f.wrV n l w).nextIssue = f.nextIssue ∧ (f.wrV n l w).seq = f.seq ∧ (f.wrV n l w).arrivals = f.arrivals ∧
    (f.wrV n l w).walkRes = f.walkRes ∧ (f.wrV n l w).lvq = f.lvq ∧ (f.wrV n l w).home = f.home ∧ (f.wrV n l w).homeLane = f.homeLane ∧
    (f.wrV n l w).regrouped = f.regrouped ∧ (f.wrV n l w).resumed = f.resumed ∧ (f.wrV n l w).heldInstr = f.heldInstr := by
  refine ⟨?_, ?_, ?_, ?_, ?_, ?_, ?_, ?_, ?_, ?_, ?_, ?_, ?_, ?_, ?_, ?_, ?_, ?_, ?_, ?_, ?_, ?_, ?_, ?_, ?_, ?_, ?_, ?_, ?_, ?_, ?_, ?_, ?_, ?_, ?_, ?_, ?_, ?_, ?_, ?_, ?_, ?_, ?_, ?_, ?_, ?_, ?_, ?_, ?_, ?_, ?_, ?_, ?_, ?_, ?_, ?_, ?_, ?_, ?_⟩ <;> rfl

@[simp] theorem Flight.wrS_same (f : Flight) (n : Nat) (w : DWord) :
    (f.wrS n w).id = f.id ∧ (f.wrS n w).kind = f.kind ∧ (f.wrS n w).launch = f.launch ∧ (f.wrS n w).wg = f.wg ∧
    (f.wrS n w).fidx = f.fidx ∧ (f.wrS n w).core = f.core ∧ (f.wrS n w).part = f.part ∧ (f.wrS n w).nVregs = f.nVregs ∧
    (f.wrS n w).nTiles = f.nTiles ∧ (f.wrS n w).priv = f.priv ∧ (f.wrS n w).chkAll = f.chkAll ∧ (f.wrS n w).v = f.v ∧
    (f.wrS n w).p = f.p ∧ (f.wrS n w).x = f.x ∧ (f.wrS n w).tiles = f.tiles ∧ (f.wrS n w).shapes = f.shapes ∧
    (f.wrS n w).exm = f.exm ∧ (f.wrS n w).dead = f.dead ∧ (f.wrS n w).exited = f.exited ∧ (f.wrS n w).fmode = f.fmode ∧
    (f.wrS n w).fstat = f.fstat ∧ (f.wrS n w).symNext = f.symNext ∧ (f.wrS n w).symLimit = f.symLimit ∧ (f.wrS n w).rgnc = f.rgnc ∧
    (f.wrS n w).counts = f.counts ∧ (f.wrS n w).snap = f.snap ∧ (f.wrS n w).slots = f.slots ∧ (f.wrS n w).region = f.region ∧
    (f.wrS n w).pc = f.pc ∧ (f.wrS n w).clause = f.clause ∧ (f.wrS n w).stack = f.stack ∧ (f.wrS n w).spilled = f.spilled ∧
    (f.wrS n w).tokens = f.tokens ∧ (f.wrS n w).batch = f.batch ∧ (f.wrS n w).stoch = f.stoch ∧ (f.wrS n w).residual = f.residual ∧
    (f.wrS n w).capTrap = f.capTrap ∧ (f.wrS n w).ops = f.ops ∧ (f.wrS n w).fixed = f.fixed ∧ (f.wrS n w).wq = f.wq ∧
    (f.wrS n w).obs = f.obs ∧ (f.wrS n w).refused = f.refused ∧ (f.wrS n w).step = f.step ∧ (f.wrS n w).trap = f.trap ∧
    (f.wrS n w).port = f.port ∧ (f.wrS n w).place = f.place ∧ (f.wrS n w).leaving = f.leaving ∧ (f.wrS n w).wait = f.wait ∧
    (f.wrS n w).blocked = f.blocked ∧ (f.wrS n w).nextIssue = f.nextIssue ∧ (f.wrS n w).seq = f.seq ∧ (f.wrS n w).arrivals = f.arrivals ∧
    (f.wrS n w).walkRes = f.walkRes ∧ (f.wrS n w).lvq = f.lvq ∧ (f.wrS n w).home = f.home ∧ (f.wrS n w).homeLane = f.homeLane ∧
    (f.wrS n w).regrouped = f.regrouped ∧ (f.wrS n w).resumed = f.resumed ∧ (f.wrS n w).heldInstr = f.heldInstr := by
  refine ⟨?_, ?_, ?_, ?_, ?_, ?_, ?_, ?_, ?_, ?_, ?_, ?_, ?_, ?_, ?_, ?_, ?_, ?_, ?_, ?_, ?_, ?_, ?_, ?_, ?_, ?_, ?_, ?_, ?_, ?_, ?_, ?_, ?_, ?_, ?_, ?_, ?_, ?_, ?_, ?_, ?_, ?_, ?_, ?_, ?_, ?_, ?_, ?_, ?_, ?_, ?_, ?_, ?_, ?_, ?_, ?_, ?_, ?_, ?_⟩ <;> rfl

@[simp] theorem Flight.wrP_same (f : Flight) (n : Nat) (w : DWord) :
    (f.wrP n w).id = f.id ∧ (f.wrP n w).kind = f.kind ∧ (f.wrP n w).launch = f.launch ∧ (f.wrP n w).wg = f.wg ∧
    (f.wrP n w).fidx = f.fidx ∧ (f.wrP n w).core = f.core ∧ (f.wrP n w).part = f.part ∧ (f.wrP n w).nVregs = f.nVregs ∧
    (f.wrP n w).nTiles = f.nTiles ∧ (f.wrP n w).priv = f.priv ∧ (f.wrP n w).chkAll = f.chkAll ∧ (f.wrP n w).v = f.v ∧
    (f.wrP n w).s = f.s ∧ (f.wrP n w).x = f.x ∧ (f.wrP n w).tiles = f.tiles ∧ (f.wrP n w).shapes = f.shapes ∧
    (f.wrP n w).exm = f.exm ∧ (f.wrP n w).dead = f.dead ∧ (f.wrP n w).exited = f.exited ∧ (f.wrP n w).fmode = f.fmode ∧
    (f.wrP n w).fstat = f.fstat ∧ (f.wrP n w).symNext = f.symNext ∧ (f.wrP n w).symLimit = f.symLimit ∧ (f.wrP n w).rgnc = f.rgnc ∧
    (f.wrP n w).counts = f.counts ∧ (f.wrP n w).snap = f.snap ∧ (f.wrP n w).slots = f.slots ∧ (f.wrP n w).region = f.region ∧
    (f.wrP n w).pc = f.pc ∧ (f.wrP n w).clause = f.clause ∧ (f.wrP n w).stack = f.stack ∧ (f.wrP n w).spilled = f.spilled ∧
    (f.wrP n w).tokens = f.tokens ∧ (f.wrP n w).batch = f.batch ∧ (f.wrP n w).stoch = f.stoch ∧ (f.wrP n w).residual = f.residual ∧
    (f.wrP n w).capTrap = f.capTrap ∧ (f.wrP n w).ops = f.ops ∧ (f.wrP n w).fixed = f.fixed ∧ (f.wrP n w).wq = f.wq ∧
    (f.wrP n w).obs = f.obs ∧ (f.wrP n w).marks = f.marks ∧ (f.wrP n w).refused = f.refused ∧ (f.wrP n w).step = f.step ∧
    (f.wrP n w).trap = f.trap ∧ (f.wrP n w).port = f.port ∧ (f.wrP n w).place = f.place ∧ (f.wrP n w).leaving = f.leaving ∧
    (f.wrP n w).wait = f.wait ∧ (f.wrP n w).blocked = f.blocked ∧ (f.wrP n w).nextIssue = f.nextIssue ∧ (f.wrP n w).seq = f.seq ∧
    (f.wrP n w).arrivals = f.arrivals ∧ (f.wrP n w).walkRes = f.walkRes ∧ (f.wrP n w).lvq = f.lvq ∧ (f.wrP n w).home = f.home ∧
    (f.wrP n w).homeLane = f.homeLane ∧ (f.wrP n w).regrouped = f.regrouped ∧ (f.wrP n w).resumed = f.resumed ∧ (f.wrP n w).heldInstr = f.heldInstr := by
  refine ⟨?_, ?_, ?_, ?_, ?_, ?_, ?_, ?_, ?_, ?_, ?_, ?_, ?_, ?_, ?_, ?_, ?_, ?_, ?_, ?_, ?_, ?_, ?_, ?_, ?_, ?_, ?_, ?_, ?_, ?_, ?_, ?_, ?_, ?_, ?_, ?_, ?_, ?_, ?_, ?_, ?_, ?_, ?_, ?_, ?_, ?_, ?_, ?_, ?_, ?_, ?_, ?_, ?_, ?_, ?_, ?_, ?_, ?_, ?_, ?_⟩ <;> rfl

@[simp] theorem Flight.wrX_same (f : Flight) (n l : Nat) (w : Word) :
    (f.wrX n l w).id = f.id ∧ (f.wrX n l w).kind = f.kind ∧ (f.wrX n l w).launch = f.launch ∧ (f.wrX n l w).wg = f.wg ∧
    (f.wrX n l w).fidx = f.fidx ∧ (f.wrX n l w).core = f.core ∧ (f.wrX n l w).part = f.part ∧ (f.wrX n l w).nVregs = f.nVregs ∧
    (f.wrX n l w).nTiles = f.nTiles ∧ (f.wrX n l w).priv = f.priv ∧ (f.wrX n l w).chkAll = f.chkAll ∧ (f.wrX n l w).v = f.v ∧
    (f.wrX n l w).s = f.s ∧ (f.wrX n l w).p = f.p ∧ (f.wrX n l w).tiles = f.tiles ∧ (f.wrX n l w).shapes = f.shapes ∧
    (f.wrX n l w).exm = f.exm ∧ (f.wrX n l w).dead = f.dead ∧ (f.wrX n l w).exited = f.exited ∧ (f.wrX n l w).fmode = f.fmode ∧
    (f.wrX n l w).fstat = f.fstat ∧ (f.wrX n l w).symNext = f.symNext ∧ (f.wrX n l w).symLimit = f.symLimit ∧ (f.wrX n l w).rgnc = f.rgnc ∧
    (f.wrX n l w).counts = f.counts ∧ (f.wrX n l w).snap = f.snap ∧ (f.wrX n l w).slots = f.slots ∧ (f.wrX n l w).region = f.region ∧
    (f.wrX n l w).pc = f.pc ∧ (f.wrX n l w).clause = f.clause ∧ (f.wrX n l w).stack = f.stack ∧ (f.wrX n l w).spilled = f.spilled ∧
    (f.wrX n l w).tokens = f.tokens ∧ (f.wrX n l w).batch = f.batch ∧ (f.wrX n l w).stoch = f.stoch ∧ (f.wrX n l w).residual = f.residual ∧
    (f.wrX n l w).capTrap = f.capTrap ∧ (f.wrX n l w).ops = f.ops ∧ (f.wrX n l w).fixed = f.fixed ∧ (f.wrX n l w).wq = f.wq ∧
    (f.wrX n l w).obs = f.obs ∧ (f.wrX n l w).marks = f.marks ∧ (f.wrX n l w).refused = f.refused ∧ (f.wrX n l w).step = f.step ∧
    (f.wrX n l w).trap = f.trap ∧ (f.wrX n l w).port = f.port ∧ (f.wrX n l w).place = f.place ∧ (f.wrX n l w).leaving = f.leaving ∧
    (f.wrX n l w).wait = f.wait ∧ (f.wrX n l w).blocked = f.blocked ∧ (f.wrX n l w).nextIssue = f.nextIssue ∧ (f.wrX n l w).seq = f.seq ∧
    (f.wrX n l w).arrivals = f.arrivals ∧ (f.wrX n l w).walkRes = f.walkRes ∧ (f.wrX n l w).lvq = f.lvq ∧ (f.wrX n l w).home = f.home ∧
    (f.wrX n l w).homeLane = f.homeLane ∧ (f.wrX n l w).regrouped = f.regrouped ∧ (f.wrX n l w).resumed = f.resumed ∧ (f.wrX n l w).heldInstr = f.heldInstr := by
  refine ⟨?_, ?_, ?_, ?_, ?_, ?_, ?_, ?_, ?_, ?_, ?_, ?_, ?_, ?_, ?_, ?_, ?_, ?_, ?_, ?_, ?_, ?_, ?_, ?_, ?_, ?_, ?_, ?_, ?_, ?_, ?_, ?_, ?_, ?_, ?_, ?_, ?_, ?_, ?_, ?_, ?_, ?_, ?_, ?_, ?_, ?_, ?_, ?_, ?_, ?_, ?_, ?_, ?_, ?_, ?_, ?_, ?_, ?_, ?_, ?_⟩ <;> rfl

@[simp] theorem Flight.wrTile_same (f : Flight) (t b : Nat) (w : Byte) :
    (f.wrTile t b w).id = f.id ∧ (f.wrTile t b w).kind = f.kind ∧ (f.wrTile t b w).launch = f.launch ∧ (f.wrTile t b w).wg = f.wg ∧
    (f.wrTile t b w).fidx = f.fidx ∧ (f.wrTile t b w).core = f.core ∧ (f.wrTile t b w).part = f.part ∧ (f.wrTile t b w).nVregs = f.nVregs ∧
    (f.wrTile t b w).nTiles = f.nTiles ∧ (f.wrTile t b w).priv = f.priv ∧ (f.wrTile t b w).chkAll = f.chkAll ∧ (f.wrTile t b w).v = f.v ∧
    (f.wrTile t b w).s = f.s ∧ (f.wrTile t b w).p = f.p ∧ (f.wrTile t b w).x = f.x ∧ (f.wrTile t b w).shapes = f.shapes ∧
    (f.wrTile t b w).exm = f.exm ∧ (f.wrTile t b w).dead = f.dead ∧ (f.wrTile t b w).exited = f.exited ∧ (f.wrTile t b w).fmode = f.fmode ∧
    (f.wrTile t b w).fstat = f.fstat ∧ (f.wrTile t b w).symNext = f.symNext ∧ (f.wrTile t b w).symLimit = f.symLimit ∧ (f.wrTile t b w).rgnc = f.rgnc ∧
    (f.wrTile t b w).counts = f.counts ∧ (f.wrTile t b w).snap = f.snap ∧ (f.wrTile t b w).slots = f.slots ∧ (f.wrTile t b w).region = f.region ∧
    (f.wrTile t b w).pc = f.pc ∧ (f.wrTile t b w).clause = f.clause ∧ (f.wrTile t b w).stack = f.stack ∧ (f.wrTile t b w).spilled = f.spilled ∧
    (f.wrTile t b w).tokens = f.tokens ∧ (f.wrTile t b w).batch = f.batch ∧ (f.wrTile t b w).stoch = f.stoch ∧ (f.wrTile t b w).residual = f.residual ∧
    (f.wrTile t b w).capTrap = f.capTrap ∧ (f.wrTile t b w).ops = f.ops ∧ (f.wrTile t b w).fixed = f.fixed ∧ (f.wrTile t b w).wq = f.wq ∧
    (f.wrTile t b w).obs = f.obs ∧ (f.wrTile t b w).refused = f.refused ∧ (f.wrTile t b w).step = f.step ∧ (f.wrTile t b w).trap = f.trap ∧
    (f.wrTile t b w).port = f.port ∧ (f.wrTile t b w).place = f.place ∧ (f.wrTile t b w).leaving = f.leaving ∧ (f.wrTile t b w).wait = f.wait ∧
    (f.wrTile t b w).blocked = f.blocked ∧ (f.wrTile t b w).nextIssue = f.nextIssue ∧ (f.wrTile t b w).seq = f.seq ∧ (f.wrTile t b w).arrivals = f.arrivals ∧
    (f.wrTile t b w).walkRes = f.walkRes ∧ (f.wrTile t b w).lvq = f.lvq ∧ (f.wrTile t b w).home = f.home ∧ (f.wrTile t b w).homeLane = f.homeLane ∧
    (f.wrTile t b w).regrouped = f.regrouped ∧ (f.wrTile t b w).resumed = f.resumed ∧ (f.wrTile t b w).heldInstr = f.heldInstr := by
  refine ⟨?_, ?_, ?_, ?_, ?_, ?_, ?_, ?_, ?_, ?_, ?_, ?_, ?_, ?_, ?_, ?_, ?_, ?_, ?_, ?_, ?_, ?_, ?_, ?_, ?_, ?_, ?_, ?_, ?_, ?_, ?_, ?_, ?_, ?_, ?_, ?_, ?_, ?_, ?_, ?_, ?_, ?_, ?_, ?_, ?_, ?_, ?_, ?_, ?_, ?_, ?_, ?_, ?_, ?_, ?_, ?_, ?_, ?_, ?_⟩ <;> rfl

@[simp] theorem Flight.setShape_same (f : Flight) (t : Nat) (w : Word) :
    (f.setShape t w).id = f.id ∧ (f.setShape t w).kind = f.kind ∧ (f.setShape t w).launch = f.launch ∧ (f.setShape t w).wg = f.wg ∧
    (f.setShape t w).fidx = f.fidx ∧ (f.setShape t w).core = f.core ∧ (f.setShape t w).part = f.part ∧ (f.setShape t w).nVregs = f.nVregs ∧
    (f.setShape t w).nTiles = f.nTiles ∧ (f.setShape t w).priv = f.priv ∧ (f.setShape t w).chkAll = f.chkAll ∧ (f.setShape t w).v = f.v ∧
    (f.setShape t w).s = f.s ∧ (f.setShape t w).p = f.p ∧ (f.setShape t w).x = f.x ∧ (f.setShape t w).tiles = f.tiles ∧
    (f.setShape t w).exm = f.exm ∧ (f.setShape t w).dead = f.dead ∧ (f.setShape t w).exited = f.exited ∧ (f.setShape t w).fmode = f.fmode ∧
    (f.setShape t w).fstat = f.fstat ∧ (f.setShape t w).symNext = f.symNext ∧ (f.setShape t w).symLimit = f.symLimit ∧ (f.setShape t w).rgnc = f.rgnc ∧
    (f.setShape t w).counts = f.counts ∧ (f.setShape t w).snap = f.snap ∧ (f.setShape t w).slots = f.slots ∧ (f.setShape t w).region = f.region ∧
    (f.setShape t w).pc = f.pc ∧ (f.setShape t w).clause = f.clause ∧ (f.setShape t w).stack = f.stack ∧ (f.setShape t w).spilled = f.spilled ∧
    (f.setShape t w).tokens = f.tokens ∧ (f.setShape t w).batch = f.batch ∧ (f.setShape t w).stoch = f.stoch ∧ (f.setShape t w).residual = f.residual ∧
    (f.setShape t w).capTrap = f.capTrap ∧ (f.setShape t w).ops = f.ops ∧ (f.setShape t w).fixed = f.fixed ∧ (f.setShape t w).wq = f.wq ∧
    (f.setShape t w).obs = f.obs ∧ (f.setShape t w).marks = f.marks ∧ (f.setShape t w).refused = f.refused ∧ (f.setShape t w).step = f.step ∧
    (f.setShape t w).trap = f.trap ∧ (f.setShape t w).port = f.port ∧ (f.setShape t w).place = f.place ∧ (f.setShape t w).leaving = f.leaving ∧
    (f.setShape t w).wait = f.wait ∧ (f.setShape t w).blocked = f.blocked ∧ (f.setShape t w).nextIssue = f.nextIssue ∧ (f.setShape t w).seq = f.seq ∧
    (f.setShape t w).arrivals = f.arrivals ∧ (f.setShape t w).walkRes = f.walkRes ∧ (f.setShape t w).lvq = f.lvq ∧ (f.setShape t w).home = f.home ∧
    (f.setShape t w).homeLane = f.homeLane ∧ (f.setShape t w).regrouped = f.regrouped ∧ (f.setShape t w).resumed = f.resumed ∧ (f.setShape t w).heldInstr = f.heldInstr := by
  refine ⟨?_, ?_, ?_, ?_, ?_, ?_, ?_, ?_, ?_, ?_, ?_, ?_, ?_, ?_, ?_, ?_, ?_, ?_, ?_, ?_, ?_, ?_, ?_, ?_, ?_, ?_, ?_, ?_, ?_, ?_, ?_, ?_, ?_, ?_, ?_, ?_, ?_, ?_, ?_, ?_, ?_, ?_, ?_, ?_, ?_, ?_, ?_, ?_, ?_, ?_, ?_, ?_, ?_, ?_, ?_, ?_, ?_, ?_, ?_, ?_⟩ <;> rfl

@[simp] theorem Flight.setRng_same (f : Flight) (l : Nat) (w : Word) :
    (f.setRng l w).id = f.id ∧ (f.setRng l w).kind = f.kind ∧ (f.setRng l w).launch = f.launch ∧ (f.setRng l w).wg = f.wg ∧
    (f.setRng l w).fidx = f.fidx ∧ (f.setRng l w).core = f.core ∧ (f.setRng l w).part = f.part ∧ (f.setRng l w).nVregs = f.nVregs ∧
    (f.setRng l w).nTiles = f.nTiles ∧ (f.setRng l w).priv = f.priv ∧ (f.setRng l w).chkAll = f.chkAll ∧ (f.setRng l w).v = f.v ∧
    (f.setRng l w).s = f.s ∧ (f.setRng l w).p = f.p ∧ (f.setRng l w).x = f.x ∧ (f.setRng l w).tiles = f.tiles ∧
    (f.setRng l w).shapes = f.shapes ∧ (f.setRng l w).exm = f.exm ∧ (f.setRng l w).dead = f.dead ∧ (f.setRng l w).exited = f.exited ∧
    (f.setRng l w).fmode = f.fmode ∧ (f.setRng l w).fstat = f.fstat ∧ (f.setRng l w).symNext = f.symNext ∧ (f.setRng l w).symLimit = f.symLimit ∧
    (f.setRng l w).rgnc = f.rgnc ∧ (f.setRng l w).counts = f.counts ∧ (f.setRng l w).snap = f.snap ∧ (f.setRng l w).slots = f.slots ∧
    (f.setRng l w).region = f.region ∧ (f.setRng l w).pc = f.pc ∧ (f.setRng l w).clause = f.clause ∧ (f.setRng l w).stack = f.stack ∧
    (f.setRng l w).spilled = f.spilled ∧ (f.setRng l w).tokens = f.tokens ∧ (f.setRng l w).batch = f.batch ∧ (f.setRng l w).residual = f.residual ∧
    (f.setRng l w).capTrap = f.capTrap ∧ (f.setRng l w).ops = f.ops ∧ (f.setRng l w).fixed = f.fixed ∧ (f.setRng l w).wq = f.wq ∧
    (f.setRng l w).obs = f.obs ∧ (f.setRng l w).marks = f.marks ∧ (f.setRng l w).refused = f.refused ∧ (f.setRng l w).step = f.step ∧
    (f.setRng l w).trap = f.trap ∧ (f.setRng l w).port = f.port ∧ (f.setRng l w).place = f.place ∧ (f.setRng l w).leaving = f.leaving ∧
    (f.setRng l w).wait = f.wait ∧ (f.setRng l w).blocked = f.blocked ∧ (f.setRng l w).nextIssue = f.nextIssue ∧ (f.setRng l w).seq = f.seq ∧
    (f.setRng l w).arrivals = f.arrivals ∧ (f.setRng l w).walkRes = f.walkRes ∧ (f.setRng l w).lvq = f.lvq ∧ (f.setRng l w).home = f.home ∧
    (f.setRng l w).homeLane = f.homeLane ∧ (f.setRng l w).regrouped = f.regrouped ∧ (f.setRng l w).resumed = f.resumed ∧ (f.setRng l w).heldInstr = f.heldInstr := by
  refine ⟨?_, ?_, ?_, ?_, ?_, ?_, ?_, ?_, ?_, ?_, ?_, ?_, ?_, ?_, ?_, ?_, ?_, ?_, ?_, ?_, ?_, ?_, ?_, ?_, ?_, ?_, ?_, ?_, ?_, ?_, ?_, ?_, ?_, ?_, ?_, ?_, ?_, ?_, ?_, ?_, ?_, ?_, ?_, ?_, ?_, ?_, ?_, ?_, ?_, ?_, ?_, ?_, ?_, ?_, ?_, ?_, ?_, ?_, ?_, ?_⟩ <;> rfl

@[simp] theorem Flight.unmark_same (f : Flight) (r : Reg) (l : Nat) :
    (f.unmark r l).id = f.id ∧ (f.unmark r l).kind = f.kind ∧ (f.unmark r l).launch = f.launch ∧ (f.unmark r l).wg = f.wg ∧
    (f.unmark r l).fidx = f.fidx ∧ (f.unmark r l).core = f.core ∧ (f.unmark r l).part = f.part ∧ (f.unmark r l).nVregs = f.nVregs ∧
    (f.unmark r l).nTiles = f.nTiles ∧ (f.unmark r l).priv = f.priv ∧ (f.unmark r l).chkAll = f.chkAll ∧ (f.unmark r l).v = f.v ∧
    (f.unmark r l).s = f.s ∧ (f.unmark r l).p = f.p ∧ (f.unmark r l).x = f.x ∧ (f.unmark r l).tiles = f.tiles ∧
    (f.unmark r l).shapes = f.shapes ∧ (f.unmark r l).exm = f.exm ∧ (f.unmark r l).dead = f.dead ∧ (f.unmark r l).exited = f.exited ∧
    (f.unmark r l).fmode = f.fmode ∧ (f.unmark r l).fstat = f.fstat ∧ (f.unmark r l).symNext = f.symNext ∧ (f.unmark r l).symLimit = f.symLimit ∧
    (f.unmark r l).rgnc = f.rgnc ∧ (f.unmark r l).counts = f.counts ∧ (f.unmark r l).snap = f.snap ∧ (f.unmark r l).slots = f.slots ∧
    (f.unmark r l).region = f.region ∧ (f.unmark r l).pc = f.pc ∧ (f.unmark r l).clause = f.clause ∧ (f.unmark r l).stack = f.stack ∧
    (f.unmark r l).spilled = f.spilled ∧ (f.unmark r l).tokens = f.tokens ∧ (f.unmark r l).batch = f.batch ∧ (f.unmark r l).stoch = f.stoch ∧
    (f.unmark r l).residual = f.residual ∧ (f.unmark r l).capTrap = f.capTrap ∧ (f.unmark r l).ops = f.ops ∧ (f.unmark r l).fixed = f.fixed ∧
    (f.unmark r l).wq = f.wq ∧ (f.unmark r l).obs = f.obs ∧ (f.unmark r l).refused = f.refused ∧ (f.unmark r l).step = f.step ∧
    (f.unmark r l).trap = f.trap ∧ (f.unmark r l).port = f.port ∧ (f.unmark r l).place = f.place ∧ (f.unmark r l).leaving = f.leaving ∧
    (f.unmark r l).wait = f.wait ∧ (f.unmark r l).blocked = f.blocked ∧ (f.unmark r l).nextIssue = f.nextIssue ∧ (f.unmark r l).seq = f.seq ∧
    (f.unmark r l).arrivals = f.arrivals ∧ (f.unmark r l).walkRes = f.walkRes ∧ (f.unmark r l).lvq = f.lvq ∧ (f.unmark r l).home = f.home ∧
    (f.unmark r l).homeLane = f.homeLane ∧ (f.unmark r l).regrouped = f.regrouped ∧ (f.unmark r l).resumed = f.resumed ∧ (f.unmark r l).heldInstr = f.heldInstr := by
  refine ⟨?_, ?_, ?_, ?_, ?_, ?_, ?_, ?_, ?_, ?_, ?_, ?_, ?_, ?_, ?_, ?_, ?_, ?_, ?_, ?_, ?_, ?_, ?_, ?_, ?_, ?_, ?_, ?_, ?_, ?_, ?_, ?_, ?_, ?_, ?_, ?_, ?_, ?_, ?_, ?_, ?_, ?_, ?_, ?_, ?_, ?_, ?_, ?_, ?_, ?_, ?_, ?_, ?_, ?_, ?_, ?_, ?_, ?_, ?_, ?_⟩ <;> rfl

@[simp] theorem Flight.unmarkAll_same (f : Flight) (r : Reg) :
    (f.unmarkAll r).id = f.id ∧ (f.unmarkAll r).kind = f.kind ∧ (f.unmarkAll r).launch = f.launch ∧ (f.unmarkAll r).wg = f.wg ∧
    (f.unmarkAll r).fidx = f.fidx ∧ (f.unmarkAll r).core = f.core ∧ (f.unmarkAll r).part = f.part ∧ (f.unmarkAll r).nVregs = f.nVregs ∧
    (f.unmarkAll r).nTiles = f.nTiles ∧ (f.unmarkAll r).priv = f.priv ∧ (f.unmarkAll r).chkAll = f.chkAll ∧ (f.unmarkAll r).v = f.v ∧
    (f.unmarkAll r).s = f.s ∧ (f.unmarkAll r).p = f.p ∧ (f.unmarkAll r).x = f.x ∧ (f.unmarkAll r).tiles = f.tiles ∧
    (f.unmarkAll r).shapes = f.shapes ∧ (f.unmarkAll r).exm = f.exm ∧ (f.unmarkAll r).dead = f.dead ∧ (f.unmarkAll r).exited = f.exited ∧
    (f.unmarkAll r).fmode = f.fmode ∧ (f.unmarkAll r).fstat = f.fstat ∧ (f.unmarkAll r).symNext = f.symNext ∧ (f.unmarkAll r).symLimit = f.symLimit ∧
    (f.unmarkAll r).rgnc = f.rgnc ∧ (f.unmarkAll r).counts = f.counts ∧ (f.unmarkAll r).snap = f.snap ∧ (f.unmarkAll r).slots = f.slots ∧
    (f.unmarkAll r).region = f.region ∧ (f.unmarkAll r).pc = f.pc ∧ (f.unmarkAll r).clause = f.clause ∧ (f.unmarkAll r).stack = f.stack ∧
    (f.unmarkAll r).spilled = f.spilled ∧ (f.unmarkAll r).tokens = f.tokens ∧ (f.unmarkAll r).batch = f.batch ∧ (f.unmarkAll r).stoch = f.stoch ∧
    (f.unmarkAll r).residual = f.residual ∧ (f.unmarkAll r).capTrap = f.capTrap ∧ (f.unmarkAll r).ops = f.ops ∧ (f.unmarkAll r).fixed = f.fixed ∧
    (f.unmarkAll r).wq = f.wq ∧ (f.unmarkAll r).obs = f.obs ∧ (f.unmarkAll r).refused = f.refused ∧ (f.unmarkAll r).step = f.step ∧
    (f.unmarkAll r).trap = f.trap ∧ (f.unmarkAll r).port = f.port ∧ (f.unmarkAll r).place = f.place ∧ (f.unmarkAll r).leaving = f.leaving ∧
    (f.unmarkAll r).wait = f.wait ∧ (f.unmarkAll r).blocked = f.blocked ∧ (f.unmarkAll r).nextIssue = f.nextIssue ∧ (f.unmarkAll r).seq = f.seq ∧
    (f.unmarkAll r).arrivals = f.arrivals ∧ (f.unmarkAll r).walkRes = f.walkRes ∧ (f.unmarkAll r).lvq = f.lvq ∧ (f.unmarkAll r).home = f.home ∧
    (f.unmarkAll r).homeLane = f.homeLane ∧ (f.unmarkAll r).regrouped = f.regrouped ∧ (f.unmarkAll r).resumed = f.resumed ∧ (f.unmarkAll r).heldInstr = f.heldInstr := by
  refine ⟨?_, ?_, ?_, ?_, ?_, ?_, ?_, ?_, ?_, ?_, ?_, ?_, ?_, ?_, ?_, ?_, ?_, ?_, ?_, ?_, ?_, ?_, ?_, ?_, ?_, ?_, ?_, ?_, ?_, ?_, ?_, ?_, ?_, ?_, ?_, ?_, ?_, ?_, ?_, ?_, ?_, ?_, ?_, ?_, ?_, ?_, ?_, ?_, ?_, ?_, ?_, ?_, ?_, ?_, ?_, ?_, ?_, ?_, ?_, ?_⟩ <;> rfl

@[simp] theorem Flight.mark_same (f : Flight) (r : Reg) (l pa : Nat) :
    (f.mark r l pa).id = f.id ∧ (f.mark r l pa).kind = f.kind ∧ (f.mark r l pa).launch = f.launch ∧ (f.mark r l pa).wg = f.wg ∧
    (f.mark r l pa).fidx = f.fidx ∧ (f.mark r l pa).core = f.core ∧ (f.mark r l pa).part = f.part ∧ (f.mark r l pa).nVregs = f.nVregs ∧
    (f.mark r l pa).nTiles = f.nTiles ∧ (f.mark r l pa).priv = f.priv ∧ (f.mark r l pa).chkAll = f.chkAll ∧ (f.mark r l pa).v = f.v ∧
    (f.mark r l pa).s = f.s ∧ (f.mark r l pa).p = f.p ∧ (f.mark r l pa).x = f.x ∧ (f.mark r l pa).tiles = f.tiles ∧
    (f.mark r l pa).shapes = f.shapes ∧ (f.mark r l pa).exm = f.exm ∧ (f.mark r l pa).dead = f.dead ∧ (f.mark r l pa).exited = f.exited ∧
    (f.mark r l pa).fmode = f.fmode ∧ (f.mark r l pa).fstat = f.fstat ∧ (f.mark r l pa).symNext = f.symNext ∧ (f.mark r l pa).symLimit = f.symLimit ∧
    (f.mark r l pa).rgnc = f.rgnc ∧ (f.mark r l pa).counts = f.counts ∧ (f.mark r l pa).snap = f.snap ∧ (f.mark r l pa).slots = f.slots ∧
    (f.mark r l pa).region = f.region ∧ (f.mark r l pa).pc = f.pc ∧ (f.mark r l pa).clause = f.clause ∧ (f.mark r l pa).stack = f.stack ∧
    (f.mark r l pa).spilled = f.spilled ∧ (f.mark r l pa).tokens = f.tokens ∧ (f.mark r l pa).batch = f.batch ∧ (f.mark r l pa).stoch = f.stoch ∧
    (f.mark r l pa).residual = f.residual ∧ (f.mark r l pa).capTrap = f.capTrap ∧ (f.mark r l pa).ops = f.ops ∧ (f.mark r l pa).fixed = f.fixed ∧
    (f.mark r l pa).wq = f.wq ∧ (f.mark r l pa).obs = f.obs ∧ (f.mark r l pa).refused = f.refused ∧ (f.mark r l pa).step = f.step ∧
    (f.mark r l pa).trap = f.trap ∧ (f.mark r l pa).port = f.port ∧ (f.mark r l pa).place = f.place ∧ (f.mark r l pa).leaving = f.leaving ∧
    (f.mark r l pa).wait = f.wait ∧ (f.mark r l pa).blocked = f.blocked ∧ (f.mark r l pa).nextIssue = f.nextIssue ∧ (f.mark r l pa).seq = f.seq ∧
    (f.mark r l pa).arrivals = f.arrivals ∧ (f.mark r l pa).walkRes = f.walkRes ∧ (f.mark r l pa).lvq = f.lvq ∧ (f.mark r l pa).home = f.home ∧
    (f.mark r l pa).homeLane = f.homeLane ∧ (f.mark r l pa).regrouped = f.regrouped ∧ (f.mark r l pa).resumed = f.resumed ∧ (f.mark r l pa).heldInstr = f.heldInstr := by
  unfold Flight.mark; split
  · split <;> simp
  · simp

@[simp] theorem Flight.setCount_same (f : Flight) (n : Nat) (c : BitVec 2) :
    (f.setCount n c).id = f.id ∧ (f.setCount n c).kind = f.kind ∧ (f.setCount n c).launch = f.launch ∧ (f.setCount n c).wg = f.wg ∧
    (f.setCount n c).fidx = f.fidx ∧ (f.setCount n c).core = f.core ∧ (f.setCount n c).part = f.part ∧ (f.setCount n c).nVregs = f.nVregs ∧
    (f.setCount n c).nTiles = f.nTiles ∧ (f.setCount n c).priv = f.priv ∧ (f.setCount n c).chkAll = f.chkAll ∧ (f.setCount n c).v = f.v ∧
    (f.setCount n c).s = f.s ∧ (f.setCount n c).p = f.p ∧ (f.setCount n c).x = f.x ∧ (f.setCount n c).tiles = f.tiles ∧
    (f.setCount n c).shapes = f.shapes ∧ (f.setCount n c).exm = f.exm ∧ (f.setCount n c).dead = f.dead ∧ (f.setCount n c).exited = f.exited ∧
    (f.setCount n c).fmode = f.fmode ∧ (f.setCount n c).fstat = f.fstat ∧ (f.setCount n c).symNext = f.symNext ∧ (f.setCount n c).symLimit = f.symLimit ∧
    (f.setCount n c).rgnc = f.rgnc ∧ (f.setCount n c).snap = f.snap ∧ (f.setCount n c).region = f.region ∧ (f.setCount n c).pc = f.pc ∧
    (f.setCount n c).clause = f.clause ∧ (f.setCount n c).stack = f.stack ∧ (f.setCount n c).spilled = f.spilled ∧ (f.setCount n c).tokens = f.tokens ∧
    (f.setCount n c).batch = f.batch ∧ (f.setCount n c).stoch = f.stoch ∧ (f.setCount n c).residual = f.residual ∧ (f.setCount n c).capTrap = f.capTrap ∧
    (f.setCount n c).ops = f.ops ∧ (f.setCount n c).fixed = f.fixed ∧ (f.setCount n c).wq = f.wq ∧ (f.setCount n c).obs = f.obs ∧
    (f.setCount n c).marks = f.marks ∧ (f.setCount n c).refused = f.refused ∧ (f.setCount n c).step = f.step ∧ (f.setCount n c).trap = f.trap ∧
    (f.setCount n c).port = f.port ∧ (f.setCount n c).place = f.place ∧ (f.setCount n c).leaving = f.leaving ∧ (f.setCount n c).wait = f.wait ∧
    (f.setCount n c).blocked = f.blocked ∧ (f.setCount n c).nextIssue = f.nextIssue ∧ (f.setCount n c).seq = f.seq ∧ (f.setCount n c).arrivals = f.arrivals ∧
    (f.setCount n c).walkRes = f.walkRes ∧ (f.setCount n c).lvq = f.lvq ∧ (f.setCount n c).home = f.home ∧ (f.setCount n c).homeLane = f.homeLane ∧
    (f.setCount n c).regrouped = f.regrouped ∧ (f.setCount n c).resumed = f.resumed ∧ (f.setCount n c).heldInstr = f.heldInstr := by
  refine ⟨?_, ?_, ?_, ?_, ?_, ?_, ?_, ?_, ?_, ?_, ?_, ?_, ?_, ?_, ?_, ?_, ?_, ?_, ?_, ?_, ?_, ?_, ?_, ?_, ?_, ?_, ?_, ?_, ?_, ?_, ?_, ?_, ?_, ?_, ?_, ?_, ?_, ?_, ?_, ?_, ?_, ?_, ?_, ?_, ?_, ?_, ?_, ?_, ?_, ?_, ?_, ?_, ?_, ?_, ?_, ?_, ?_, ?_, ?_⟩ <;> rfl

@[simp] theorem Flight.giveSlot_same (f : Flight) (n : Nat) :
    (f.giveSlot n).id = f.id ∧ (f.giveSlot n).kind = f.kind ∧ (f.giveSlot n).launch = f.launch ∧ (f.giveSlot n).wg = f.wg ∧
    (f.giveSlot n).fidx = f.fidx ∧ (f.giveSlot n).core = f.core ∧ (f.giveSlot n).part = f.part ∧ (f.giveSlot n).nVregs = f.nVregs ∧
    (f.giveSlot n).nTiles = f.nTiles ∧ (f.giveSlot n).priv = f.priv ∧ (f.giveSlot n).chkAll = f.chkAll ∧ (f.giveSlot n).v = f.v ∧
    (f.giveSlot n).s = f.s ∧ (f.giveSlot n).p = f.p ∧ (f.giveSlot n).x = f.x ∧ (f.giveSlot n).tiles = f.tiles ∧
    (f.giveSlot n).shapes = f.shapes ∧ (f.giveSlot n).exm = f.exm ∧ (f.giveSlot n).dead = f.dead ∧ (f.giveSlot n).exited = f.exited ∧
    (f.giveSlot n).fmode = f.fmode ∧ (f.giveSlot n).fstat = f.fstat ∧ (f.giveSlot n).symNext = f.symNext ∧ (f.giveSlot n).symLimit = f.symLimit ∧
    (f.giveSlot n).rgnc = f.rgnc ∧ (f.giveSlot n).counts = f.counts ∧ (f.giveSlot n).snap = f.snap ∧ (f.giveSlot n).region = f.region ∧
    (f.giveSlot n).pc = f.pc ∧ (f.giveSlot n).clause = f.clause ∧ (f.giveSlot n).stack = f.stack ∧ (f.giveSlot n).spilled = f.spilled ∧
    (f.giveSlot n).tokens = f.tokens ∧ (f.giveSlot n).batch = f.batch ∧ (f.giveSlot n).stoch = f.stoch ∧ (f.giveSlot n).residual = f.residual ∧
    (f.giveSlot n).capTrap = f.capTrap ∧ (f.giveSlot n).ops = f.ops ∧ (f.giveSlot n).fixed = f.fixed ∧ (f.giveSlot n).wq = f.wq ∧
    (f.giveSlot n).obs = f.obs ∧ (f.giveSlot n).marks = f.marks ∧ (f.giveSlot n).refused = f.refused ∧ (f.giveSlot n).step = f.step ∧
    (f.giveSlot n).trap = f.trap ∧ (f.giveSlot n).port = f.port ∧ (f.giveSlot n).place = f.place ∧ (f.giveSlot n).leaving = f.leaving ∧
    (f.giveSlot n).wait = f.wait ∧ (f.giveSlot n).blocked = f.blocked ∧ (f.giveSlot n).nextIssue = f.nextIssue ∧ (f.giveSlot n).seq = f.seq ∧
    (f.giveSlot n).arrivals = f.arrivals ∧ (f.giveSlot n).walkRes = f.walkRes ∧ (f.giveSlot n).lvq = f.lvq ∧ (f.giveSlot n).home = f.home ∧
    (f.giveSlot n).homeLane = f.homeLane ∧ (f.giveSlot n).regrouped = f.regrouped ∧ (f.giveSlot n).resumed = f.resumed ∧ (f.giveSlot n).heldInstr = f.heldInstr := by
  unfold Flight.giveSlot; split
  · simp
  · split <;> simp

@[simp] theorem Flight.addToken_same (f : Flight) (k : Nat) :
    (f.addToken k).id = f.id ∧ (f.addToken k).kind = f.kind ∧ (f.addToken k).launch = f.launch ∧ (f.addToken k).wg = f.wg ∧
    (f.addToken k).fidx = f.fidx ∧ (f.addToken k).core = f.core ∧ (f.addToken k).part = f.part ∧ (f.addToken k).nVregs = f.nVregs ∧
    (f.addToken k).nTiles = f.nTiles ∧ (f.addToken k).priv = f.priv ∧ (f.addToken k).chkAll = f.chkAll ∧ (f.addToken k).v = f.v ∧
    (f.addToken k).s = f.s ∧ (f.addToken k).p = f.p ∧ (f.addToken k).x = f.x ∧ (f.addToken k).tiles = f.tiles ∧
    (f.addToken k).shapes = f.shapes ∧ (f.addToken k).exm = f.exm ∧ (f.addToken k).dead = f.dead ∧ (f.addToken k).exited = f.exited ∧
    (f.addToken k).fmode = f.fmode ∧ (f.addToken k).fstat = f.fstat ∧ (f.addToken k).symNext = f.symNext ∧ (f.addToken k).symLimit = f.symLimit ∧
    (f.addToken k).rgnc = f.rgnc ∧ (f.addToken k).counts = f.counts ∧ (f.addToken k).snap = f.snap ∧ (f.addToken k).slots = f.slots ∧
    (f.addToken k).region = f.region ∧ (f.addToken k).pc = f.pc ∧ (f.addToken k).clause = f.clause ∧ (f.addToken k).stack = f.stack ∧
    (f.addToken k).spilled = f.spilled ∧ (f.addToken k).batch = f.batch ∧ (f.addToken k).stoch = f.stoch ∧ (f.addToken k).residual = f.residual ∧
    (f.addToken k).capTrap = f.capTrap ∧ (f.addToken k).ops = f.ops ∧ (f.addToken k).fixed = f.fixed ∧ (f.addToken k).wq = f.wq ∧
    (f.addToken k).obs = f.obs ∧ (f.addToken k).marks = f.marks ∧ (f.addToken k).refused = f.refused ∧ (f.addToken k).step = f.step ∧
    (f.addToken k).trap = f.trap ∧ (f.addToken k).port = f.port ∧ (f.addToken k).place = f.place ∧ (f.addToken k).leaving = f.leaving ∧
    (f.addToken k).wait = f.wait ∧ (f.addToken k).blocked = f.blocked ∧ (f.addToken k).nextIssue = f.nextIssue ∧ (f.addToken k).seq = f.seq ∧
    (f.addToken k).arrivals = f.arrivals ∧ (f.addToken k).walkRes = f.walkRes ∧ (f.addToken k).lvq = f.lvq ∧ (f.addToken k).home = f.home ∧
    (f.addToken k).homeLane = f.homeLane ∧ (f.addToken k).regrouped = f.regrouped ∧ (f.addToken k).resumed = f.resumed ∧ (f.addToken k).heldInstr = f.heldInstr := by
  refine ⟨?_, ?_, ?_, ?_, ?_, ?_, ?_, ?_, ?_, ?_, ?_, ?_, ?_, ?_, ?_, ?_, ?_, ?_, ?_, ?_, ?_, ?_, ?_, ?_, ?_, ?_, ?_, ?_, ?_, ?_, ?_, ?_, ?_, ?_, ?_, ?_, ?_, ?_, ?_, ?_, ?_, ?_, ?_, ?_, ?_, ?_, ?_, ?_, ?_, ?_, ?_, ?_, ?_, ?_, ?_, ?_, ?_, ?_, ?_, ?_⟩ <;> rfl

@[simp] theorem Flight.subToken_same (f : Flight) (k : Nat) :
    (f.subToken k).id = f.id ∧ (f.subToken k).kind = f.kind ∧ (f.subToken k).launch = f.launch ∧ (f.subToken k).wg = f.wg ∧
    (f.subToken k).fidx = f.fidx ∧ (f.subToken k).core = f.core ∧ (f.subToken k).part = f.part ∧ (f.subToken k).nVregs = f.nVregs ∧
    (f.subToken k).nTiles = f.nTiles ∧ (f.subToken k).priv = f.priv ∧ (f.subToken k).chkAll = f.chkAll ∧ (f.subToken k).v = f.v ∧
    (f.subToken k).s = f.s ∧ (f.subToken k).p = f.p ∧ (f.subToken k).x = f.x ∧ (f.subToken k).tiles = f.tiles ∧
    (f.subToken k).shapes = f.shapes ∧ (f.subToken k).exm = f.exm ∧ (f.subToken k).dead = f.dead ∧ (f.subToken k).exited = f.exited ∧
    (f.subToken k).fmode = f.fmode ∧ (f.subToken k).fstat = f.fstat ∧ (f.subToken k).symNext = f.symNext ∧ (f.subToken k).symLimit = f.symLimit ∧
    (f.subToken k).rgnc = f.rgnc ∧ (f.subToken k).counts = f.counts ∧ (f.subToken k).snap = f.snap ∧ (f.subToken k).slots = f.slots ∧
    (f.subToken k).region = f.region ∧ (f.subToken k).pc = f.pc ∧ (f.subToken k).clause = f.clause ∧ (f.subToken k).stack = f.stack ∧
    (f.subToken k).spilled = f.spilled ∧ (f.subToken k).batch = f.batch ∧ (f.subToken k).stoch = f.stoch ∧ (f.subToken k).residual = f.residual ∧
    (f.subToken k).capTrap = f.capTrap ∧ (f.subToken k).ops = f.ops ∧ (f.subToken k).fixed = f.fixed ∧ (f.subToken k).wq = f.wq ∧
    (f.subToken k).obs = f.obs ∧ (f.subToken k).marks = f.marks ∧ (f.subToken k).refused = f.refused ∧ (f.subToken k).step = f.step ∧
    (f.subToken k).trap = f.trap ∧ (f.subToken k).port = f.port ∧ (f.subToken k).place = f.place ∧ (f.subToken k).leaving = f.leaving ∧
    (f.subToken k).wait = f.wait ∧ (f.subToken k).blocked = f.blocked ∧ (f.subToken k).nextIssue = f.nextIssue ∧ (f.subToken k).seq = f.seq ∧
    (f.subToken k).arrivals = f.arrivals ∧ (f.subToken k).walkRes = f.walkRes ∧ (f.subToken k).lvq = f.lvq ∧ (f.subToken k).home = f.home ∧
    (f.subToken k).homeLane = f.homeLane ∧ (f.subToken k).regrouped = f.regrouped ∧ (f.subToken k).resumed = f.resumed ∧ (f.subToken k).heldInstr = f.heldInstr := by
  refine ⟨?_, ?_, ?_, ?_, ?_, ?_, ?_, ?_, ?_, ?_, ?_, ?_, ?_, ?_, ?_, ?_, ?_, ?_, ?_, ?_, ?_, ?_, ?_, ?_, ?_, ?_, ?_, ?_, ?_, ?_, ?_, ?_, ?_, ?_, ?_, ?_, ?_, ?_, ?_, ?_, ?_, ?_, ?_, ?_, ?_, ?_, ?_, ?_, ?_, ?_, ?_, ?_, ?_, ?_, ?_, ?_, ?_, ?_, ?_, ?_⟩ <;> rfl

@[simp] theorem Flight.subTokenOpt_same (f : Flight) (k : Option Nat) :
    (f.subTokenOpt k).id = f.id ∧ (f.subTokenOpt k).kind = f.kind ∧ (f.subTokenOpt k).launch = f.launch ∧ (f.subTokenOpt k).wg = f.wg ∧
    (f.subTokenOpt k).fidx = f.fidx ∧ (f.subTokenOpt k).core = f.core ∧ (f.subTokenOpt k).part = f.part ∧ (f.subTokenOpt k).nVregs = f.nVregs ∧
    (f.subTokenOpt k).nTiles = f.nTiles ∧ (f.subTokenOpt k).priv = f.priv ∧ (f.subTokenOpt k).chkAll = f.chkAll ∧ (f.subTokenOpt k).v = f.v ∧
    (f.subTokenOpt k).s = f.s ∧ (f.subTokenOpt k).p = f.p ∧ (f.subTokenOpt k).x = f.x ∧ (f.subTokenOpt k).tiles = f.tiles ∧
    (f.subTokenOpt k).shapes = f.shapes ∧ (f.subTokenOpt k).exm = f.exm ∧ (f.subTokenOpt k).dead = f.dead ∧ (f.subTokenOpt k).exited = f.exited ∧
    (f.subTokenOpt k).fmode = f.fmode ∧ (f.subTokenOpt k).fstat = f.fstat ∧ (f.subTokenOpt k).symNext = f.symNext ∧ (f.subTokenOpt k).symLimit = f.symLimit ∧
    (f.subTokenOpt k).rgnc = f.rgnc ∧ (f.subTokenOpt k).counts = f.counts ∧ (f.subTokenOpt k).snap = f.snap ∧ (f.subTokenOpt k).slots = f.slots ∧
    (f.subTokenOpt k).region = f.region ∧ (f.subTokenOpt k).pc = f.pc ∧ (f.subTokenOpt k).clause = f.clause ∧ (f.subTokenOpt k).stack = f.stack ∧
    (f.subTokenOpt k).spilled = f.spilled ∧ (f.subTokenOpt k).batch = f.batch ∧ (f.subTokenOpt k).stoch = f.stoch ∧ (f.subTokenOpt k).residual = f.residual ∧
    (f.subTokenOpt k).capTrap = f.capTrap ∧ (f.subTokenOpt k).ops = f.ops ∧ (f.subTokenOpt k).fixed = f.fixed ∧ (f.subTokenOpt k).wq = f.wq ∧
    (f.subTokenOpt k).obs = f.obs ∧ (f.subTokenOpt k).marks = f.marks ∧ (f.subTokenOpt k).refused = f.refused ∧ (f.subTokenOpt k).step = f.step ∧
    (f.subTokenOpt k).trap = f.trap ∧ (f.subTokenOpt k).port = f.port ∧ (f.subTokenOpt k).place = f.place ∧ (f.subTokenOpt k).leaving = f.leaving ∧
    (f.subTokenOpt k).wait = f.wait ∧ (f.subTokenOpt k).blocked = f.blocked ∧ (f.subTokenOpt k).nextIssue = f.nextIssue ∧ (f.subTokenOpt k).seq = f.seq ∧
    (f.subTokenOpt k).arrivals = f.arrivals ∧ (f.subTokenOpt k).walkRes = f.walkRes ∧ (f.subTokenOpt k).lvq = f.lvq ∧ (f.subTokenOpt k).home = f.home ∧
    (f.subTokenOpt k).homeLane = f.homeLane ∧ (f.subTokenOpt k).regrouped = f.regrouped ∧ (f.subTokenOpt k).resumed = f.resumed ∧ (f.subTokenOpt k).heldInstr = f.heldInstr := by
  cases k <;> simp [Flight.subTokenOpt]

@[simp] theorem Flight.setOp_same (f : Flight) (p : Op) :
    (f.setOp p).id = f.id ∧ (f.setOp p).kind = f.kind ∧ (f.setOp p).launch = f.launch ∧ (f.setOp p).wg = f.wg ∧
    (f.setOp p).fidx = f.fidx ∧ (f.setOp p).core = f.core ∧ (f.setOp p).part = f.part ∧ (f.setOp p).nVregs = f.nVregs ∧
    (f.setOp p).nTiles = f.nTiles ∧ (f.setOp p).priv = f.priv ∧ (f.setOp p).chkAll = f.chkAll ∧ (f.setOp p).v = f.v ∧
    (f.setOp p).s = f.s ∧ (f.setOp p).p = f.p ∧ (f.setOp p).x = f.x ∧ (f.setOp p).tiles = f.tiles ∧
    (f.setOp p).shapes = f.shapes ∧ (f.setOp p).exm = f.exm ∧ (f.setOp p).dead = f.dead ∧ (f.setOp p).exited = f.exited ∧
    (f.setOp p).fmode = f.fmode ∧ (f.setOp p).fstat = f.fstat ∧ (f.setOp p).symNext = f.symNext ∧ (f.setOp p).symLimit = f.symLimit ∧
    (f.setOp p).rgnc = f.rgnc ∧ (f.setOp p).counts = f.counts ∧ (f.setOp p).snap = f.snap ∧ (f.setOp p).slots = f.slots ∧
    (f.setOp p).region = f.region ∧ (f.setOp p).pc = f.pc ∧ (f.setOp p).clause = f.clause ∧ (f.setOp p).stack = f.stack ∧
    (f.setOp p).spilled = f.spilled ∧ (f.setOp p).tokens = f.tokens ∧ (f.setOp p).batch = f.batch ∧ (f.setOp p).stoch = f.stoch ∧
    (f.setOp p).residual = f.residual ∧ (f.setOp p).capTrap = f.capTrap ∧ (f.setOp p).fixed = f.fixed ∧ (f.setOp p).wq = f.wq ∧
    (f.setOp p).obs = f.obs ∧ (f.setOp p).marks = f.marks ∧ (f.setOp p).refused = f.refused ∧ (f.setOp p).step = f.step ∧
    (f.setOp p).trap = f.trap ∧ (f.setOp p).port = f.port ∧ (f.setOp p).place = f.place ∧ (f.setOp p).leaving = f.leaving ∧
    (f.setOp p).wait = f.wait ∧ (f.setOp p).blocked = f.blocked ∧ (f.setOp p).nextIssue = f.nextIssue ∧ (f.setOp p).seq = f.seq ∧
    (f.setOp p).arrivals = f.arrivals ∧ (f.setOp p).walkRes = f.walkRes ∧ (f.setOp p).lvq = f.lvq ∧ (f.setOp p).home = f.home ∧
    (f.setOp p).homeLane = f.homeLane ∧ (f.setOp p).regrouped = f.regrouped ∧ (f.setOp p).resumed = f.resumed ∧ (f.setOp p).heldInstr = f.heldInstr := by
  refine ⟨?_, ?_, ?_, ?_, ?_, ?_, ?_, ?_, ?_, ?_, ?_, ?_, ?_, ?_, ?_, ?_, ?_, ?_, ?_, ?_, ?_, ?_, ?_, ?_, ?_, ?_, ?_, ?_, ?_, ?_, ?_, ?_, ?_, ?_, ?_, ?_, ?_, ?_, ?_, ?_, ?_, ?_, ?_, ?_, ?_, ?_, ?_, ?_, ?_, ?_, ?_, ?_, ?_, ?_, ?_, ?_, ?_, ?_, ?_, ?_⟩ <;> rfl

@[simp] theorem Flight.endOp_same (f : Flight) (p : Op) :
    (f.endOp p).id = f.id ∧ (f.endOp p).kind = f.kind ∧ (f.endOp p).launch = f.launch ∧ (f.endOp p).wg = f.wg ∧
    (f.endOp p).fidx = f.fidx ∧ (f.endOp p).core = f.core ∧ (f.endOp p).part = f.part ∧ (f.endOp p).nVregs = f.nVregs ∧
    (f.endOp p).nTiles = f.nTiles ∧ (f.endOp p).priv = f.priv ∧ (f.endOp p).chkAll = f.chkAll ∧ (f.endOp p).v = f.v ∧
    (f.endOp p).s = f.s ∧ (f.endOp p).p = f.p ∧ (f.endOp p).x = f.x ∧ (f.endOp p).tiles = f.tiles ∧
    (f.endOp p).shapes = f.shapes ∧ (f.endOp p).exm = f.exm ∧ (f.endOp p).dead = f.dead ∧ (f.endOp p).exited = f.exited ∧
    (f.endOp p).fmode = f.fmode ∧ (f.endOp p).fstat = f.fstat ∧ (f.endOp p).symNext = f.symNext ∧ (f.endOp p).symLimit = f.symLimit ∧
    (f.endOp p).rgnc = f.rgnc ∧ (f.endOp p).counts = f.counts ∧ (f.endOp p).snap = f.snap ∧ (f.endOp p).slots = f.slots ∧
    (f.endOp p).region = f.region ∧ (f.endOp p).pc = f.pc ∧ (f.endOp p).clause = f.clause ∧ (f.endOp p).stack = f.stack ∧
    (f.endOp p).spilled = f.spilled ∧ (f.endOp p).batch = f.batch ∧ (f.endOp p).stoch = f.stoch ∧ (f.endOp p).residual = f.residual ∧
    (f.endOp p).capTrap = f.capTrap ∧ (f.endOp p).fixed = f.fixed ∧ (f.endOp p).wq = f.wq ∧ (f.endOp p).obs = f.obs ∧
    (f.endOp p).marks = f.marks ∧ (f.endOp p).refused = f.refused ∧ (f.endOp p).step = f.step ∧ (f.endOp p).trap = f.trap ∧
    (f.endOp p).port = f.port ∧ (f.endOp p).place = f.place ∧ (f.endOp p).leaving = f.leaving ∧ (f.endOp p).wait = f.wait ∧
    (f.endOp p).blocked = f.blocked ∧ (f.endOp p).nextIssue = f.nextIssue ∧ (f.endOp p).seq = f.seq ∧ (f.endOp p).arrivals = f.arrivals ∧
    (f.endOp p).walkRes = f.walkRes ∧ (f.endOp p).lvq = f.lvq ∧ (f.endOp p).home = f.home ∧ (f.endOp p).homeLane = f.homeLane ∧
    (f.endOp p).regrouped = f.regrouped ∧ (f.endOp p).resumed = f.resumed ∧ (f.endOp p).heldInstr = f.heldInstr := by
  unfold Flight.endOp; simp

@[simp] theorem Flight.advance_same (f : Flight) (k : Nat) :
    (f.advance k).id = f.id ∧ (f.advance k).kind = f.kind ∧ (f.advance k).launch = f.launch ∧ (f.advance k).wg = f.wg ∧
    (f.advance k).fidx = f.fidx ∧ (f.advance k).core = f.core ∧ (f.advance k).part = f.part ∧ (f.advance k).nVregs = f.nVregs ∧
    (f.advance k).nTiles = f.nTiles ∧ (f.advance k).priv = f.priv ∧ (f.advance k).chkAll = f.chkAll ∧ (f.advance k).v = f.v ∧
    (f.advance k).s = f.s ∧ (f.advance k).p = f.p ∧ (f.advance k).x = f.x ∧ (f.advance k).tiles = f.tiles ∧
    (f.advance k).shapes = f.shapes ∧ (f.advance k).exm = f.exm ∧ (f.advance k).dead = f.dead ∧ (f.advance k).exited = f.exited ∧
    (f.advance k).fmode = f.fmode ∧ (f.advance k).fstat = f.fstat ∧ (f.advance k).symNext = f.symNext ∧ (f.advance k).symLimit = f.symLimit ∧
    (f.advance k).rgnc = f.rgnc ∧ (f.advance k).counts = f.counts ∧ (f.advance k).snap = f.snap ∧ (f.advance k).slots = f.slots ∧
    (f.advance k).region = f.region ∧ (f.advance k).stack = f.stack ∧ (f.advance k).spilled = f.spilled ∧ (f.advance k).tokens = f.tokens ∧
    (f.advance k).batch = f.batch ∧ (f.advance k).stoch = f.stoch ∧ (f.advance k).residual = f.residual ∧ (f.advance k).capTrap = f.capTrap ∧
    (f.advance k).ops = f.ops ∧ (f.advance k).fixed = f.fixed ∧ (f.advance k).wq = f.wq ∧ (f.advance k).obs = f.obs ∧
    (f.advance k).marks = f.marks ∧ (f.advance k).refused = f.refused ∧ (f.advance k).step = f.step ∧ (f.advance k).trap = f.trap ∧
    (f.advance k).port = f.port ∧ (f.advance k).place = f.place ∧ (f.advance k).leaving = f.leaving ∧ (f.advance k).wait = f.wait ∧
    (f.advance k).blocked = f.blocked ∧ (f.advance k).nextIssue = f.nextIssue ∧ (f.advance k).arrivals = f.arrivals ∧ (f.advance k).walkRes = f.walkRes ∧
    (f.advance k).lvq = f.lvq ∧ (f.advance k).home = f.home ∧ (f.advance k).homeLane = f.homeLane ∧ (f.advance k).regrouped = f.regrouped ∧
    (f.advance k).resumed = f.resumed ∧ (f.advance k).heldInstr = f.heldInstr := by
  unfold Flight.advance; split <;> simp

@[simp] theorem Flight.jump_same (f : Flight) (k : Nat) :
    (f.jump k).id = f.id ∧ (f.jump k).kind = f.kind ∧ (f.jump k).launch = f.launch ∧ (f.jump k).wg = f.wg ∧
    (f.jump k).fidx = f.fidx ∧ (f.jump k).core = f.core ∧ (f.jump k).part = f.part ∧ (f.jump k).nVregs = f.nVregs ∧
    (f.jump k).nTiles = f.nTiles ∧ (f.jump k).priv = f.priv ∧ (f.jump k).chkAll = f.chkAll ∧ (f.jump k).v = f.v ∧
    (f.jump k).s = f.s ∧ (f.jump k).p = f.p ∧ (f.jump k).x = f.x ∧ (f.jump k).tiles = f.tiles ∧
    (f.jump k).shapes = f.shapes ∧ (f.jump k).exm = f.exm ∧ (f.jump k).dead = f.dead ∧ (f.jump k).exited = f.exited ∧
    (f.jump k).fmode = f.fmode ∧ (f.jump k).fstat = f.fstat ∧ (f.jump k).symNext = f.symNext ∧ (f.jump k).symLimit = f.symLimit ∧
    (f.jump k).rgnc = f.rgnc ∧ (f.jump k).counts = f.counts ∧ (f.jump k).snap = f.snap ∧ (f.jump k).slots = f.slots ∧
    (f.jump k).region = f.region ∧ (f.jump k).stack = f.stack ∧ (f.jump k).spilled = f.spilled ∧ (f.jump k).tokens = f.tokens ∧
    (f.jump k).batch = f.batch ∧ (f.jump k).stoch = f.stoch ∧ (f.jump k).residual = f.residual ∧ (f.jump k).capTrap = f.capTrap ∧
    (f.jump k).ops = f.ops ∧ (f.jump k).fixed = f.fixed ∧ (f.jump k).wq = f.wq ∧ (f.jump k).obs = f.obs ∧
    (f.jump k).marks = f.marks ∧ (f.jump k).refused = f.refused ∧ (f.jump k).step = f.step ∧ (f.jump k).trap = f.trap ∧
    (f.jump k).port = f.port ∧ (f.jump k).place = f.place ∧ (f.jump k).leaving = f.leaving ∧ (f.jump k).wait = f.wait ∧
    (f.jump k).blocked = f.blocked ∧ (f.jump k).nextIssue = f.nextIssue ∧ (f.jump k).seq = f.seq ∧ (f.jump k).arrivals = f.arrivals ∧
    (f.jump k).walkRes = f.walkRes ∧ (f.jump k).lvq = f.lvq ∧ (f.jump k).home = f.home ∧ (f.jump k).homeLane = f.homeLane ∧
    (f.jump k).regrouped = f.regrouped ∧ (f.jump k).resumed = f.resumed ∧ (f.jump k).heldInstr = f.heldInstr := by
  refine ⟨?_, ?_, ?_, ?_, ?_, ?_, ?_, ?_, ?_, ?_, ?_, ?_, ?_, ?_, ?_, ?_, ?_, ?_, ?_, ?_, ?_, ?_, ?_, ?_, ?_, ?_, ?_, ?_, ?_, ?_, ?_, ?_, ?_, ?_, ?_, ?_, ?_, ?_, ?_, ?_, ?_, ?_, ?_, ?_, ?_, ?_, ?_, ?_, ?_, ?_, ?_, ?_, ?_, ?_, ?_, ?_, ?_, ?_, ?_⟩ <;> rfl

@[simp] theorem Flight.leaveActive_same (f : Flight)  :
    (f.leaveActive).id = f.id ∧ (f.leaveActive).kind = f.kind ∧ (f.leaveActive).launch = f.launch ∧ (f.leaveActive).wg = f.wg ∧
    (f.leaveActive).fidx = f.fidx ∧ (f.leaveActive).core = f.core ∧ (f.leaveActive).part = f.part ∧ (f.leaveActive).nVregs = f.nVregs ∧
    (f.leaveActive).nTiles = f.nTiles ∧ (f.leaveActive).priv = f.priv ∧ (f.leaveActive).chkAll = f.chkAll ∧ (f.leaveActive).v = f.v ∧
    (f.leaveActive).s = f.s ∧ (f.leaveActive).p = f.p ∧ (f.leaveActive).x = f.x ∧ (f.leaveActive).tiles = f.tiles ∧
    (f.leaveActive).shapes = f.shapes ∧ (f.leaveActive).exm = f.exm ∧ (f.leaveActive).dead = f.dead ∧ (f.leaveActive).exited = f.exited ∧
    (f.leaveActive).fmode = f.fmode ∧ (f.leaveActive).fstat = f.fstat ∧ (f.leaveActive).symNext = f.symNext ∧ (f.leaveActive).symLimit = f.symLimit ∧
    (f.leaveActive).rgnc = f.rgnc ∧ (f.leaveActive).counts = f.counts ∧ (f.leaveActive).snap = f.snap ∧ (f.leaveActive).region = f.region ∧
    (f.leaveActive).pc = f.pc ∧ (f.leaveActive).clause = f.clause ∧ (f.leaveActive).stack = f.stack ∧ (f.leaveActive).spilled = f.spilled ∧
    (f.leaveActive).tokens = f.tokens ∧ (f.leaveActive).batch = f.batch ∧ (f.leaveActive).stoch = f.stoch ∧ (f.leaveActive).residual = f.residual ∧
    (f.leaveActive).capTrap = f.capTrap ∧ (f.leaveActive).ops = f.ops ∧ (f.leaveActive).wq = f.wq ∧ (f.leaveActive).obs = f.obs ∧
    (f.leaveActive).marks = f.marks ∧ (f.leaveActive).refused = f.refused ∧ (f.leaveActive).step = f.step ∧ (f.leaveActive).trap = f.trap ∧
    (f.leaveActive).port = f.port ∧ (f.leaveActive).leaving = f.leaving ∧ (f.leaveActive).wait = f.wait ∧ (f.leaveActive).blocked = f.blocked ∧
    (f.leaveActive).nextIssue = f.nextIssue ∧ (f.leaveActive).seq = f.seq ∧ (f.leaveActive).arrivals = f.arrivals ∧ (f.leaveActive).walkRes = f.walkRes ∧
    (f.leaveActive).lvq = f.lvq ∧ (f.leaveActive).home = f.home ∧ (f.leaveActive).homeLane = f.homeLane ∧ (f.leaveActive).regrouped = f.regrouped ∧
    (f.leaveActive).resumed = f.resumed ∧ (f.leaveActive).heldInstr = f.heldInstr := by
  unfold Flight.leaveActive; split <;> simp

@[simp] theorem Flight.wake_same (f : Flight)  :
    (f.wake).id = f.id ∧ (f.wake).kind = f.kind ∧ (f.wake).launch = f.launch ∧ (f.wake).wg = f.wg ∧
    (f.wake).fidx = f.fidx ∧ (f.wake).core = f.core ∧ (f.wake).part = f.part ∧ (f.wake).nVregs = f.nVregs ∧
    (f.wake).nTiles = f.nTiles ∧ (f.wake).priv = f.priv ∧ (f.wake).chkAll = f.chkAll ∧ (f.wake).v = f.v ∧
    (f.wake).s = f.s ∧ (f.wake).p = f.p ∧ (f.wake).x = f.x ∧ (f.wake).tiles = f.tiles ∧
    (f.wake).shapes = f.shapes ∧ (f.wake).exm = f.exm ∧ (f.wake).dead = f.dead ∧ (f.wake).exited = f.exited ∧
    (f.wake).fmode = f.fmode ∧ (f.wake).fstat = f.fstat ∧ (f.wake).symNext = f.symNext ∧ (f.wake).symLimit = f.symLimit ∧
    (f.wake).rgnc = f.rgnc ∧ (f.wake).counts = f.counts ∧ (f.wake).snap = f.snap ∧ (f.wake).slots = f.slots ∧
    (f.wake).region = f.region ∧ (f.wake).pc = f.pc ∧ (f.wake).clause = f.clause ∧ (f.wake).stack = f.stack ∧
    (f.wake).spilled = f.spilled ∧ (f.wake).tokens = f.tokens ∧ (f.wake).batch = f.batch ∧ (f.wake).stoch = f.stoch ∧
    (f.wake).residual = f.residual ∧ (f.wake).capTrap = f.capTrap ∧ (f.wake).ops = f.ops ∧ (f.wake).fixed = f.fixed ∧
    (f.wake).wq = f.wq ∧ (f.wake).obs = f.obs ∧ (f.wake).marks = f.marks ∧ (f.wake).refused = f.refused ∧
    (f.wake).step = f.step ∧ (f.wake).trap = f.trap ∧ (f.wake).port = f.port ∧ (f.wake).place = f.place ∧
    (f.wake).leaving = f.leaving ∧ (f.wake).blocked = f.blocked ∧ (f.wake).nextIssue = f.nextIssue ∧ (f.wake).seq = f.seq ∧
    (f.wake).arrivals = f.arrivals ∧ (f.wake).walkRes = f.walkRes ∧ (f.wake).lvq = f.lvq ∧ (f.wake).home = f.home ∧
    (f.wake).homeLane = f.homeLane ∧ (f.wake).regrouped = f.regrouped ∧ (f.wake).resumed = f.resumed ∧ (f.wake).heldInstr = f.heldInstr := by
  refine ⟨?_, ?_, ?_, ?_, ?_, ?_, ?_, ?_, ?_, ?_, ?_, ?_, ?_, ?_, ?_, ?_, ?_, ?_, ?_, ?_, ?_, ?_, ?_, ?_, ?_, ?_, ?_, ?_, ?_, ?_, ?_, ?_, ?_, ?_, ?_, ?_, ?_, ?_, ?_, ?_, ?_, ?_, ?_, ?_, ?_, ?_, ?_, ?_, ?_, ?_, ?_, ?_, ?_, ?_, ?_, ?_, ?_, ?_, ?_, ?_⟩ <;> rfl

@[simp] theorem Flight.stackLess_same (f : Flight) (m : DWord) :
    (f.stackLess m).id = f.id ∧ (f.stackLess m).kind = f.kind ∧ (f.stackLess m).launch = f.launch ∧ (f.stackLess m).wg = f.wg ∧
    (f.stackLess m).fidx = f.fidx ∧ (f.stackLess m).core = f.core ∧ (f.stackLess m).part = f.part ∧ (f.stackLess m).nVregs = f.nVregs ∧
    (f.stackLess m).nTiles = f.nTiles ∧ (f.stackLess m).priv = f.priv ∧ (f.stackLess m).chkAll = f.chkAll ∧ (f.stackLess m).v = f.v ∧
    (f.stackLess m).s = f.s ∧ (f.stackLess m).p = f.p ∧ (f.stackLess m).x = f.x ∧ (f.stackLess m).tiles = f.tiles ∧
    (f.stackLess m).shapes = f.shapes ∧ (f.stackLess m).exm = f.exm ∧ (f.stackLess m).dead = f.dead ∧ (f.stackLess m).exited = f.exited ∧
    (f.stackLess m).fmode = f.fmode ∧ (f.stackLess m).fstat = f.fstat ∧ (f.stackLess m).symNext = f.symNext ∧ (f.stackLess m).symLimit = f.symLimit ∧
    (f.stackLess m).rgnc = f.rgnc ∧ (f.stackLess m).counts = f.counts ∧ (f.stackLess m).snap = f.snap ∧ (f.stackLess m).slots = f.slots ∧
    (f.stackLess m).region = f.region ∧ (f.stackLess m).pc = f.pc ∧ (f.stackLess m).clause = f.clause ∧ (f.stackLess m).tokens = f.tokens ∧
    (f.stackLess m).batch = f.batch ∧ (f.stackLess m).stoch = f.stoch ∧ (f.stackLess m).residual = f.residual ∧ (f.stackLess m).capTrap = f.capTrap ∧
    (f.stackLess m).ops = f.ops ∧ (f.stackLess m).fixed = f.fixed ∧ (f.stackLess m).wq = f.wq ∧ (f.stackLess m).obs = f.obs ∧
    (f.stackLess m).marks = f.marks ∧ (f.stackLess m).refused = f.refused ∧ (f.stackLess m).step = f.step ∧ (f.stackLess m).trap = f.trap ∧
    (f.stackLess m).port = f.port ∧ (f.stackLess m).place = f.place ∧ (f.stackLess m).leaving = f.leaving ∧ (f.stackLess m).wait = f.wait ∧
    (f.stackLess m).blocked = f.blocked ∧ (f.stackLess m).nextIssue = f.nextIssue ∧ (f.stackLess m).seq = f.seq ∧ (f.stackLess m).arrivals = f.arrivals ∧
    (f.stackLess m).walkRes = f.walkRes ∧ (f.stackLess m).lvq = f.lvq ∧ (f.stackLess m).home = f.home ∧ (f.stackLess m).homeLane = f.homeLane ∧
    (f.stackLess m).regrouped = f.regrouped ∧ (f.stackLess m).resumed = f.resumed ∧ (f.stackLess m).heldInstr = f.heldInstr := by
  refine ⟨?_, ?_, ?_, ?_, ?_, ?_, ?_, ?_, ?_, ?_, ?_, ?_, ?_, ?_, ?_, ?_, ?_, ?_, ?_, ?_, ?_, ?_, ?_, ?_, ?_, ?_, ?_, ?_, ?_, ?_, ?_, ?_, ?_, ?_, ?_, ?_, ?_, ?_, ?_, ?_, ?_, ?_, ?_, ?_, ?_, ?_, ?_, ?_, ?_, ?_, ?_, ?_, ?_, ?_, ?_, ?_, ?_, ?_, ?_⟩ <;> rfl

@[simp] theorem Flight.killLanes_same (f : Flight) (m : DWord) :
    (f.killLanes m).id = f.id ∧ (f.killLanes m).kind = f.kind ∧ (f.killLanes m).launch = f.launch ∧ (f.killLanes m).wg = f.wg ∧
    (f.killLanes m).fidx = f.fidx ∧ (f.killLanes m).core = f.core ∧ (f.killLanes m).part = f.part ∧ (f.killLanes m).nVregs = f.nVregs ∧
    (f.killLanes m).nTiles = f.nTiles ∧ (f.killLanes m).priv = f.priv ∧ (f.killLanes m).chkAll = f.chkAll ∧ (f.killLanes m).v = f.v ∧
    (f.killLanes m).s = f.s ∧ (f.killLanes m).p = f.p ∧ (f.killLanes m).x = f.x ∧ (f.killLanes m).tiles = f.tiles ∧
    (f.killLanes m).shapes = f.shapes ∧ (f.killLanes m).exited = f.exited ∧ (f.killLanes m).fmode = f.fmode ∧ (f.killLanes m).fstat = f.fstat ∧
    (f.killLanes m).symNext = f.symNext ∧ (f.killLanes m).symLimit = f.symLimit ∧ (f.killLanes m).rgnc = f.rgnc ∧ (f.killLanes m).counts = f.counts ∧
    (f.killLanes m).snap = f.snap ∧ (f.killLanes m).slots = f.slots ∧ (f.killLanes m).region = f.region ∧ (f.killLanes m).pc = f.pc ∧
    (f.killLanes m).clause = f.clause ∧ (f.killLanes m).tokens = f.tokens ∧ (f.killLanes m).batch = f.batch ∧ (f.killLanes m).stoch = f.stoch ∧
    (f.killLanes m).residual = f.residual ∧ (f.killLanes m).capTrap = f.capTrap ∧ (f.killLanes m).ops = f.ops ∧ (f.killLanes m).fixed = f.fixed ∧
    (f.killLanes m).wq = f.wq ∧ (f.killLanes m).obs = f.obs ∧ (f.killLanes m).marks = f.marks ∧ (f.killLanes m).refused = f.refused ∧
    (f.killLanes m).step = f.step ∧ (f.killLanes m).trap = f.trap ∧ (f.killLanes m).port = f.port ∧ (f.killLanes m).place = f.place ∧
    (f.killLanes m).leaving = f.leaving ∧ (f.killLanes m).wait = f.wait ∧ (f.killLanes m).blocked = f.blocked ∧ (f.killLanes m).nextIssue = f.nextIssue ∧
    (f.killLanes m).seq = f.seq ∧ (f.killLanes m).arrivals = f.arrivals ∧ (f.killLanes m).walkRes = f.walkRes ∧ (f.killLanes m).lvq = f.lvq ∧
    (f.killLanes m).home = f.home ∧ (f.killLanes m).homeLane = f.homeLane ∧ (f.killLanes m).regrouped = f.regrouped ∧ (f.killLanes m).resumed = f.resumed ∧
    (f.killLanes m).heldInstr = f.heldInstr := by
  refine ⟨?_, ?_, ?_, ?_, ?_, ?_, ?_, ?_, ?_, ?_, ?_, ?_, ?_, ?_, ?_, ?_, ?_, ?_, ?_, ?_, ?_, ?_, ?_, ?_, ?_, ?_, ?_, ?_, ?_, ?_, ?_, ?_, ?_, ?_, ?_, ?_, ?_, ?_, ?_, ?_, ?_, ?_, ?_, ?_, ?_, ?_, ?_, ?_, ?_, ?_, ?_, ?_, ?_, ?_, ?_, ?_, ?_⟩ <;> rfl

@[simp] theorem Flight.endRegion_same (f : Flight)  :
    (f.endRegion).id = f.id ∧ (f.endRegion).kind = f.kind ∧ (f.endRegion).launch = f.launch ∧ (f.endRegion).wg = f.wg ∧
    (f.endRegion).fidx = f.fidx ∧ (f.endRegion).core = f.core ∧ (f.endRegion).part = f.part ∧ (f.endRegion).nVregs = f.nVregs ∧
    (f.endRegion).nTiles = f.nTiles ∧ (f.endRegion).priv = f.priv ∧ (f.endRegion).chkAll = f.chkAll ∧ (f.endRegion).v = f.v ∧
    (f.endRegion).s = f.s ∧ (f.endRegion).p = f.p ∧ (f.endRegion).x = f.x ∧ (f.endRegion).tiles = f.tiles ∧
    (f.endRegion).shapes = f.shapes ∧ (f.endRegion).exm = f.exm ∧ (f.endRegion).dead = f.dead ∧ (f.endRegion).exited = f.exited ∧
    (f.endRegion).fmode = f.fmode ∧ (f.endRegion).fstat = f.fstat ∧ (f.endRegion).symNext = f.symNext ∧ (f.endRegion).symLimit = f.symLimit ∧
    (f.endRegion).rgnc = f.rgnc ∧ (f.endRegion).counts = f.counts ∧ (f.endRegion).snap = f.snap ∧ (f.endRegion).slots = f.slots ∧
    (f.endRegion).pc = f.pc ∧ (f.endRegion).clause = f.clause ∧ (f.endRegion).stack = f.stack ∧ (f.endRegion).spilled = f.spilled ∧
    (f.endRegion).tokens = f.tokens ∧ (f.endRegion).batch = f.batch ∧ (f.endRegion).stoch = f.stoch ∧ (f.endRegion).residual = f.residual ∧
    (f.endRegion).capTrap = f.capTrap ∧ (f.endRegion).ops = f.ops ∧ (f.endRegion).fixed = f.fixed ∧ (f.endRegion).wq = f.wq ∧
    (f.endRegion).obs = f.obs ∧ (f.endRegion).marks = f.marks ∧ (f.endRegion).refused = f.refused ∧ (f.endRegion).step = f.step ∧
    (f.endRegion).trap = f.trap ∧ (f.endRegion).port = f.port ∧ (f.endRegion).place = f.place ∧ (f.endRegion).leaving = f.leaving ∧
    (f.endRegion).wait = f.wait ∧ (f.endRegion).blocked = f.blocked ∧ (f.endRegion).nextIssue = f.nextIssue ∧ (f.endRegion).seq = f.seq ∧
    (f.endRegion).arrivals = f.arrivals ∧ (f.endRegion).walkRes = f.walkRes ∧ (f.endRegion).lvq = f.lvq ∧ (f.endRegion).home = f.home ∧
    (f.endRegion).homeLane = f.homeLane ∧ (f.endRegion).regrouped = f.regrouped ∧ (f.endRegion).resumed = f.resumed ∧ (f.endRegion).heldInstr = f.heldInstr := by
  refine ⟨?_, ?_, ?_, ?_, ?_, ?_, ?_, ?_, ?_, ?_, ?_, ?_, ?_, ?_, ?_, ?_, ?_, ?_, ?_, ?_, ?_, ?_, ?_, ?_, ?_, ?_, ?_, ?_, ?_, ?_, ?_, ?_, ?_, ?_, ?_, ?_, ?_, ?_, ?_, ?_, ?_, ?_, ?_, ?_, ?_, ?_, ?_, ?_, ?_, ?_, ?_, ?_, ?_, ?_, ?_, ?_, ?_, ?_, ?_, ?_⟩ <;> rfl

@[simp] theorem Flight.enterRegion_same (f : Flight)  :
    (f.enterRegion).id = f.id ∧ (f.enterRegion).kind = f.kind ∧ (f.enterRegion).launch = f.launch ∧ (f.enterRegion).wg = f.wg ∧
    (f.enterRegion).fidx = f.fidx ∧ (f.enterRegion).core = f.core ∧ (f.enterRegion).part = f.part ∧ (f.enterRegion).nVregs = f.nVregs ∧
    (f.enterRegion).nTiles = f.nTiles ∧ (f.enterRegion).priv = f.priv ∧ (f.enterRegion).chkAll = f.chkAll ∧ (f.enterRegion).v = f.v ∧
    (f.enterRegion).s = f.s ∧ (f.enterRegion).p = f.p ∧ (f.enterRegion).x = f.x ∧ (f.enterRegion).tiles = f.tiles ∧
    (f.enterRegion).shapes = f.shapes ∧ (f.enterRegion).exm = f.exm ∧ (f.enterRegion).dead = f.dead ∧ (f.enterRegion).exited = f.exited ∧
    (f.enterRegion).fmode = f.fmode ∧ (f.enterRegion).fstat = f.fstat ∧ (f.enterRegion).symNext = f.symNext ∧ (f.enterRegion).symLimit = f.symLimit ∧
    (f.enterRegion).counts = f.counts ∧ (f.enterRegion).slots = f.slots ∧ (f.enterRegion).pc = f.pc ∧ (f.enterRegion).clause = f.clause ∧
    (f.enterRegion).stack = f.stack ∧ (f.enterRegion).spilled = f.spilled ∧ (f.enterRegion).tokens = f.tokens ∧ (f.enterRegion).batch = f.batch ∧
    (f.enterRegion).stoch = f.stoch ∧ (f.enterRegion).residual = f.residual ∧ (f.enterRegion).capTrap = f.capTrap ∧ (f.enterRegion).ops = f.ops ∧
    (f.enterRegion).fixed = f.fixed ∧ (f.enterRegion).wq = f.wq ∧ (f.enterRegion).obs = f.obs ∧ (f.enterRegion).marks = f.marks ∧
    (f.enterRegion).refused = f.refused ∧ (f.enterRegion).step = f.step ∧ (f.enterRegion).trap = f.trap ∧ (f.enterRegion).port = f.port ∧
    (f.enterRegion).place = f.place ∧ (f.enterRegion).leaving = f.leaving ∧ (f.enterRegion).wait = f.wait ∧ (f.enterRegion).blocked = f.blocked ∧
    (f.enterRegion).nextIssue = f.nextIssue ∧ (f.enterRegion).seq = f.seq ∧ (f.enterRegion).arrivals = f.arrivals ∧ (f.enterRegion).walkRes = f.walkRes ∧
    (f.enterRegion).lvq = f.lvq ∧ (f.enterRegion).home = f.home ∧ (f.enterRegion).homeLane = f.homeLane ∧ (f.enterRegion).regrouped = f.regrouped ∧
    (f.enterRegion).resumed = f.resumed ∧ (f.enterRegion).heldInstr = f.heldInstr := by
  refine ⟨?_, ?_, ?_, ?_, ?_, ?_, ?_, ?_, ?_, ?_, ?_, ?_, ?_, ?_, ?_, ?_, ?_, ?_, ?_, ?_, ?_, ?_, ?_, ?_, ?_, ?_, ?_, ?_, ?_, ?_, ?_, ?_, ?_, ?_, ?_, ?_, ?_, ?_, ?_, ?_, ?_, ?_, ?_, ?_, ?_, ?_, ?_, ?_, ?_, ?_, ?_, ?_, ?_, ?_, ?_, ?_, ?_, ?_⟩ <;> rfl

@[simp] theorem Flight.setCounts_same (f : Flight) (m : NMap (BitVec 2)) :
    (f.setCounts m).id = f.id ∧ (f.setCounts m).kind = f.kind ∧ (f.setCounts m).launch = f.launch ∧ (f.setCounts m).wg = f.wg ∧
    (f.setCounts m).fidx = f.fidx ∧ (f.setCounts m).core = f.core ∧ (f.setCounts m).part = f.part ∧ (f.setCounts m).nVregs = f.nVregs ∧
    (f.setCounts m).nTiles = f.nTiles ∧ (f.setCounts m).priv = f.priv ∧ (f.setCounts m).chkAll = f.chkAll ∧ (f.setCounts m).v = f.v ∧
    (f.setCounts m).s = f.s ∧ (f.setCounts m).p = f.p ∧ (f.setCounts m).x = f.x ∧ (f.setCounts m).tiles = f.tiles ∧
    (f.setCounts m).shapes = f.shapes ∧ (f.setCounts m).exm = f.exm ∧ (f.setCounts m).dead = f.dead ∧ (f.setCounts m).exited = f.exited ∧
    (f.setCounts m).fmode = f.fmode ∧ (f.setCounts m).fstat = f.fstat ∧ (f.setCounts m).symNext = f.symNext ∧ (f.setCounts m).symLimit = f.symLimit ∧
    (f.setCounts m).rgnc = f.rgnc ∧ (f.setCounts m).snap = f.snap ∧ (f.setCounts m).region = f.region ∧ (f.setCounts m).pc = f.pc ∧
    (f.setCounts m).clause = f.clause ∧ (f.setCounts m).stack = f.stack ∧ (f.setCounts m).spilled = f.spilled ∧ (f.setCounts m).tokens = f.tokens ∧
    (f.setCounts m).batch = f.batch ∧ (f.setCounts m).stoch = f.stoch ∧ (f.setCounts m).residual = f.residual ∧ (f.setCounts m).capTrap = f.capTrap ∧
    (f.setCounts m).ops = f.ops ∧ (f.setCounts m).fixed = f.fixed ∧ (f.setCounts m).wq = f.wq ∧ (f.setCounts m).obs = f.obs ∧
    (f.setCounts m).marks = f.marks ∧ (f.setCounts m).refused = f.refused ∧ (f.setCounts m).step = f.step ∧ (f.setCounts m).trap = f.trap ∧
    (f.setCounts m).port = f.port ∧ (f.setCounts m).place = f.place ∧ (f.setCounts m).leaving = f.leaving ∧ (f.setCounts m).wait = f.wait ∧
    (f.setCounts m).blocked = f.blocked ∧ (f.setCounts m).nextIssue = f.nextIssue ∧ (f.setCounts m).seq = f.seq ∧ (f.setCounts m).arrivals = f.arrivals ∧
    (f.setCounts m).walkRes = f.walkRes ∧ (f.setCounts m).lvq = f.lvq ∧ (f.setCounts m).home = f.home ∧ (f.setCounts m).homeLane = f.homeLane ∧
    (f.setCounts m).regrouped = f.regrouped ∧ (f.setCounts m).resumed = f.resumed ∧ (f.setCounts m).heldInstr = f.heldInstr := by
  refine ⟨?_, ?_, ?_, ?_, ?_, ?_, ?_, ?_, ?_, ?_, ?_, ?_, ?_, ?_, ?_, ?_, ?_, ?_, ?_, ?_, ?_, ?_, ?_, ?_, ?_, ?_, ?_, ?_, ?_, ?_, ?_, ?_, ?_, ?_, ?_, ?_, ?_, ?_, ?_, ?_, ?_, ?_, ?_, ?_, ?_, ?_, ?_, ?_, ?_, ?_, ?_, ?_, ?_, ?_, ?_, ?_, ?_, ?_, ?_⟩ <;> rfl

/-! ### Reading a flight back -/

@[simp] theorem State.flight?_setFlight (s : State) (g : Flight) (n : Nat) :
    (s.setFlight g).flight? n = if n = g.id then (s.flight? n).map fun _ => g else s.flight? n := by
  unfold State.flight?
  split
  · rename_i h; subst h; exact findBy_replBy Flight.id s.flights g.id g rfl
  · rename_i h; exact findBy_replBy_ne Flight.id s.flights g.id n g rfl h

theorem State.flight?_id (s : State) (n : Nat) (f : Flight) (h : s.flight? n = some f) : f.id = n := findBy_key Flight.id s.flights n f h

/-- An update of a flight that is there. -/
theorem State.updFlight_eq (s : State) (n : Nat) (u : Flight → Flight) (f : Flight) (h : s.flight? n = some f) :
    s.updFlight n u = s.setFlight (u f) := by
  simp [State.updFlight, h]

/-- The later of two writes of one flight stands. -/
theorem State.setFlight_setFlight (s : State) (g h : Flight) (e : h.id = g.id) : (s.setFlight g).setFlight h = s.setFlight h := by
  simp [State.setFlight, e, replBy_replBy Flight.id s.flights g.id g h rfl]

/-! ### Registers -/

theorem Flight.rdV_wrV (f : Flight) (n l m k : Nat) (w : Word) (hl : l < 64) (hk : k < 64) :
    (f.wrV n l w).rdV m k = if m = n ∧ k = l then w else f.rdV m k := by
  simp only [Flight.rdV, Flight.wrV, mget_mset]
  by_cases h : m = n ∧ k = l
  · obtain ⟨rfl, rfl⟩ := h; simp
  · rw [if_neg h, if_neg (by omega)]
theorem Flight.rdX_wrX (f : Flight) (n l m k : Nat) (w : Word) (hl : l < 64) (hk : k < 64) :
    (f.wrX n l w).rdX m k = if m = n ∧ k = l then w else f.rdX m k := by
  simp only [Flight.rdX, Flight.wrX, mget_mset]
  by_cases h : m = n ∧ k = l
  · obtain ⟨rfl, rfl⟩ := h; simp
  · rw [if_neg h, if_neg (by omega)]
theorem Flight.rdS_wrS (f : Flight) (n m : Nat) (w : DWord) : (f.wrS n w).rdS m = if m = n then w else f.rdS m := by
  simp only [Flight.rdS, Flight.wrS, mget_mset]
theorem Flight.rdP_wrP (f : Flight) (n m : Nat) (w : DWord) : (f.wrP n w).rdP m = if m = n then w else f.rdP m := by
  simp only [Flight.rdP, Flight.wrP, mget_mset]

end Sys2Proof.Machine
end

