-- ==== Sys2Proof/Laws/Issue.lean ====
section
/-! SUPPORT. What an instruction does that nothing holds back: the gate opens, and the instruction's effect is taken. -/

namespace Sys2Proof.Machine

open Sys2Proof


/-! ### Lists without repeats -/

theorem mem_dedup_aux [DecidableEq α] (l acc : List α) (a : α) :
    a ∈ l.foldl (fun acc a => if a ∈ acc then acc else a :: acc) acc ↔ a ∈ l ∨ a ∈ acc := by
  induction l generalizing acc with
  | nil => simp
  | cons b r ih =>
    simp only [List.foldl_cons]
    split
    · rename_i h
      rw [ih, List.mem_cons]
      constructor
      · rintro (h' | h')
        · exact .inl (.inr h')
        · exact .inr h'
      · rintro ((rfl | h') | h')
        · exact .inr h
        · exact .inl h'
        · exact .inr h'
    · rw [ih, List.mem_cons, List.mem_cons]
      constructor
      · rintro (h' | rfl | h')
        · exact .inl (.inr h')
        · exact .inl (.inl rfl)
        · exact .inr h'
      · rintro ((rfl | h') | h')
        · exact .inr (.inl rfl)
        · exact .inl h'
        · exact .inr (.inr h')

theorem mem_dedup [DecidableEq α] (l : List α) (a : α) : a ∈ dedup l ↔ a ∈ l := by
  simp [dedup, mem_dedup_aux]

theorem dedup_nil [DecidableEq α] : dedup ([] : List α) = [] := rfl

/-! ### The gate -/

/-- Lanes whose marks count for an instruction (R412). -/
def Desc.part (d : Desc) (f : Flight) : DWord := if d.collective then f.live else if d.perLane then f.exm else allOnes

/-- What an instruction sees when it issues in its turn. -/
def ctxOf (f : Flight) : Ctx := { f, pc := f.pc, seq := f.seq, sym := f.symNext.toNat }

/-- What is asked of the instruction itself, beyond `Free`. -/
structure Fits (d : Desc) (s : State) (f : Flight) : Prop where
  last : d.transfer = true → f.isLast = true
  enc : d.encBad = false
  scope : d.scopeBad = false
  code : d.codeBad = false
  fence : d.ordered = true → f.fenced = false
  tile : d.tileClash f = false
  queue : (match d.dkind with | .empty => f.residual = [] | .mem _ => f.deferring = false ∨ f.residual = [] | _ => True)
  chk02 : d.chk02 (ctxOf f) s = none
  region : regionTrap d (ctxOf f) s = .go
  whole : d.collective = true → f.exm = ~~~f.dead
  chk07 : ((d.tiled && f.regrouped) || d.chk07 (ctxOf f) s) = false
  priv : d.chkPriv (ctxOf f) s = none
  mint : mintTrap d f = none
  pre : d.pre (ctxOf f) s = .go
  token : ∀ k, d.sb = some k → f.token k < 63
  room : d.room (ctxOf f) s = .go

section
variable {s : State} {f : Flight} {d : Desc}

theorem mem_regs {r : Reg} {afb : Nat} : r ∈ d.regs f afb ↔ ∃ o ∈ d.opnds, r ∈ o.regList f afb := by
  rw [Desc.regs, mem_dedup, List.mem_flatMap]

theorem hazards_nil (h : Free s f d.cls d.opnds (d.part f)) : hazards f s.clock (d.regs f (s.afb f)) = [] := by
  unfold hazards
  rw [List.filter_eq_nil_iff]
  intro x hx
  simp only [Bool.and_eq_true, decide_eq_true_eq, not_and]
  intro hc hr
  obtain ⟨o, ho, hr⟩ := mem_regs.1 hr
  exact h.delivered x hx hc o ho hr

theorem pend_nil (h : Free s f d.cls d.opnds (d.part f)) : d.pend f (s.afb f) = [] := by
  unfold Desc.pend
  rw [List.filter_eq_nil_iff]
  intro r hr
  obtain ⟨o, ho, hr⟩ := mem_regs.1 hr
  simp [h.landed o ho r hr]

theorem meet_go (h : Free s f d.cls d.opnds (d.part f)) (i : Fits d s f) (g : Option (List Nat)) : meet d f (s.afb f) g = .go := by
  have hq := i.queue
  unfold meet
  rw [pend_nil h]
  split
  · simp
  · rename_i e; simp [e] at hq; simp [hq]
  · simp
  · rename_i k e
    simp only [e] at hq
    rcases hq with hq | hq
    · simp [hq]
    · split
      · simp
      · cases k <;> simp [loadBehind, Flight.lastOrdered, hq]

theorem firstFail_none (h : Free s f d.cls d.opnds (d.part f)) (c : Nat) : firstFail f c d.opnds = none := by
  unfold firstFail
  have : (d.opnds.find? fun o => !(o.failLanes f c).isEmpty) = none := by
    rw [List.find?_eq_none]
    intro o ho
    simp [h.index o ho c]
  rw [this]

theorem lanesOf_and (p q : DWord) (l : Nat) (h : l ∈ lanesOf (p &&& q)) : l ∈ lanesOf p := by
  simp only [lanesOf, List.mem_filter, BitVec.getLsbD_and, Bool.and_eq_true] at h ⊢
  exact ⟨h.1, h.2.1⟩

/-- Fewer lanes meet no more marks. -/
theorem marked_and (f : Flight) (afb : Nat) (p q : DWord) (o : Opnd) (h : o.marked f afb p = []) : o.marked f afb (p &&& q) = [] := by
  unfold Opnd.marked at h ⊢
  split
  · rfl
  · rename_i hr
    rw [if_neg hr] at h
    rw [List.flatMap_eq_nil_iff] at h ⊢
    intro m hm
    have := h m hm
    revert this
    have hl : lanesOf p = [] → lanesOf (p &&& q) = [] := fun e => List.eq_nil_iff_forall_not_mem.2 fun l hl => by
      have := lanesOf_and p q l hl; simp [e] at this
    cases m.reg <;> cases okind o.spec <;> simp only [BitVec.getLsbD_and, Bool.and_eq_true] <;> intro this <;> try rfl
    all_goals (repeat' split) <;> simp_all
    all_goals grind

theorem poisonTrap_none (h : Free s f d.cls d.opnds (d.part f)) : poisonTrap d f (s.afb f) = none := by
  unfold poisonTrap
  have e : (if d.collective = true then f.live else if d.perLane = true then f.exm else allOnes) = d.part f := rfl
  simp only [e]
  rw [List.find?_eq_none.2]
  intro p hp
  obtain ⟨o, ho, rfl⟩ := List.mem_map.1 hp
  have hu := h.unmarked o ho
  have hn := marked_and f (s.afb f) (d.part f) (d.takes f) o hu
  simp only
  split
  · simp [hu]
  · simp [hu]
  · simp [hn]

theorem encTrap_none (h : Free s f d.cls d.opnds (d.part f)) (i : Fits d s f) : encTrap d f (s.afb f) = none := by
  unfold encTrap
  have hl : (d.transfer && !f.isLast) = false := by
    by_cases ht : d.transfer = true
    · simp [i.last ht]
    · simp [ht]
  have hf : (d.opnds.find? fun o => o.bad f (s.afb f)) = none := by
    rw [List.find?_eq_none]
    intro o ho
    simp [h.legal o ho]
  simp [hl, i.enc, hf, i.scope, i.code]

theorem canIssue_of (h : Free s f d.cls d.opnds (d.part f)) : s.canIssue f d.cls = true := by
  simp [State.canIssue, h.active, h.held, h.port, h.leaving, h.room, h.stall, h.slot, h.unparked, h.settled]

theorem lateChecks_go (h : Free s f d.cls d.opnds (d.part f)) (i : Fits d s f) : lateChecks d (ctxOf f) s (s.afb f) = .go := by
  have hc : (d.collective && decide ((ctxOf f).f.exm ≠ ~~~(ctxOf f).f.dead)) = false := by
    by_cases hw : d.collective = true
    · simp [ctxOf, i.whole hw]
    · simp [hw]
  have ht : ((d.tiled && (ctxOf f).f.regrouped) || d.chk07 (ctxOf f) s) = false := i.chk07
  have hm : mintTrap d (ctxOf f).f = none := i.mint
  have hs : ((ctxOf f).f.isShadow && d.fromLeader) = false := by simp [ctxOf, h.unpaired]
  have hp : poisonTrap d (ctxOf f).f (s.afb f) = none := poisonTrap_none h
  unfold lateChecks
  simp only [hc]
  simp [ht, hm, hs, hp, i.region, i.priv, i.pre, Verdict.andThen, Verdict.ofTrap]

/-- The gate opens. -/
theorem gate_go (h : Free s f d.cls d.opnds (d.part f)) (i : Fits d s f) : gate d f s = .go (ctxOf f) := by
  have hh := hazards_nil h
  have hr : refusalTrap f = none := by simp [refusalTrap, h.refused]
  have hf : (f.fenced && d.ordered) = false := by
    by_cases ho : d.ordered = true
    · simp [i.fence ho]
    · simp [ho]
  have ho : (f.openFence && d.ordered) = false := by
    have : f.fenced = false → f.openFence = false := by simp +contextual [Flight.fenced]
    by_cases ho : d.ordered = true
    · simp [this (i.fence ho)]
    · simp [ho]
  have hview : (if s.checking f then f else earlyView s.freeCtr f []) = f := by
    split
    · rfl
    · rfl
  have hst (ch : Bool) : stateTrap d (ctxOf f) s (s.afb f) [] ch true = none := by
    obtain ⟨m, hm⟩ := h.unreleased
    unfold stateTrap
    have h6 : firstFail (ctxOf f).f 0x06 d.opnds = none := firstFail_none h _
    have h2 : firstFail (ctxOf f).f 0x02 d.opnds = none := firstFail_none h _
    have hm' : countReads (ctxOf f).f (s.afb f) d.opnds (ctxOf f).f.counts = .ok m := hm
    simp [h6, h2, i.chk02, hm']
  have hpair : pairCheck d (ctxOf f) s = .go := by
    unfold pairCheck
    have : s.partner (ctxOf f).f = none := h.single
    rw [this]
  unfold gate
  simp only [canIssue_of h, Bool.not_true, Bool.false_eq_true, if_false, hr, ho, encTrap_none h i, i.tile, hh, hview]
  have hmeet := meet_go h i
  have hc : ({ f := f, pc := f.pc, seq := f.seq, sym := f.symNext.toNat } : Ctx) = ctxOf f := rfl
  simp only [hc, hmeet, hst, lateChecks_go h i, hpair, Verdict.andThen, i.room]
  have hs : (f.isShadow && d.fromLeader) = false := by simp [h.unpaired]
  have hx : (f.isShadow && d.ext.isSome) = false := by simp [h.unpaired]
  simp only [hf, hx, Bool.false_eq_true, if_false]
  cases e : d.sb with
  | none => simp [hs]
  | some k => have := i.token k e; simp [hs, show ¬ 63 ≤ f.token k by omega]

/-- An instruction that nothing holds back issues. -/
theorem issue_commit (h : Free s f d.cls d.opnds (d.part f)) (i : Fits d s f) : issue d s = .next (commit d (ctxOf f) s) := by
  unfold issue
  rw [h.cur]
  simp only [gate_go h i]

/-! ### What issuing leaves -/

/-- The flight past the instruction, before its results. -/
def passed (d : Desc) (f : Flight) (s : State) : Flight := f.issued d f (s.afb f) s.clock
/-- The state in which the results are taken. -/
def midState (d : Desc) (f : Flight) (s : State) : State :=
  (({ s with freeCtr := s.freeCtr + freeStride }).takeSlot f d.cls).setFlight (passed d f s)

theorem here_of {cls : Nat} {os : List Opnd} {part : DWord} (h : Free s f cls os part) : s.flight? f.id = some f := by
  rw [s.flight?_id _ f h.cur]; exact h.cur

end

/-! ### What issuing leaves alone -/

/-- A flight without its counts, landing slots and index registers. -/
def blankCounts (f : Flight) : Flight := { f with counts := [], slots := [], x := [] }

theorem blankCounts_writeCount (f : Flight) (n : Nat) (c : BitVec 2) : blankCounts (f.writeCount n c) = blankCounts f := by
  unfold Flight.writeCount
  split
  · unfold Flight.giveSlot
    split
    · rfl
    · split <;> rfl
  · rfl

/-- A fold whose every step leaves something alone leaves it alone. -/
theorem foldl_same {α β γ : Type _} (q : β → γ) (u : β → α → β) (h : ∀ b a, q (u b a) = q b) (l : List α) (b : β) : q (l.foldl u b) = q b := by
  induction l generalizing b with
  | nil => rfl
  | cons a r ih => rw [List.foldl_cons, ih, h]

theorem blankCounts_countWrites (f v : Flight) (afb cc : Nat) (os : List Opnd) : blankCounts (countWrites f afb cc v os) = blankCounts f := by
  induction os generalizing f with
  | nil => rfl
  | cons o r ih =>
    unfold countWrites
    rw [ih]
    split
    · exact foldl_same blankCounts _ (fun b n => blankCounts_writeCount b n _) _ _
    · rfl
theorem blankCounts_postIncs (f : Flight) (os : List Opnd) : blankCounts (f.postIncs os) = blankCounts f := by
  unfold Flight.postIncs
  refine foldl_same blankCounts _ (fun b n => ?_) _ _
  exact foldl_same blankCounts (fun f l => f.wrX n l (postInc (f.rdX n l))) (fun b l => rfl) _ _

theorem blankCounts_counted (d : Desc) (f v : Flight) (afb : Nat) : blankCounts (f.counted d v afb) = blankCounts f := by
  unfold Flight.counted
  dsimp only
  rw [blankCounts_postIncs, blankCounts_countWrites]
  split <;> rfl

/-- Counts, landing slots and index registers are all that the counting changes. -/
theorem counted_eq (d : Desc) (f v : Flight) (afb : Nat) :
    f.counted d v afb =
      { f with counts := (f.counted d v afb).counts, slots := (f.counted d v afb).slots, x := (f.counted d v afb).x } := by
  have h := blankCounts_counted d f v afb
  generalize f.counted d v afb = g at h
  have e : g = { blankCounts g with counts := g.counts, slots := g.slots, x := g.x } := rfl
  rw [e, h]
  rfl

/-- The flight past an instruction, field by field. -/
theorem passed_eq (d : Desc) (f : Flight) (s : State) :
    passed d f s = ({ f with
      counts := (f.counted d f (s.afb f)).counts, slots := (f.counted d f (s.afb f)).slots, x := (f.counted d f (s.afb f)).x
      tokens := f.tokensFor d.sb, symNext := if d.mints then f.symNext + 1 else f.symNext
      nextIssue := s.clock + 1 + d.st, lastIssue := s.clock + 1, fixed := f.fixed.filter fun x => decide (s.clock < x.ready)
      walkRes := [], wait := none, blocked := [] } : Flight).advance f.wordCount := by
  have h := counted_eq d f f (s.afb f)
  unfold passed Flight.issued
  dsimp only
  generalize f.counted d f (s.afb f) = g at h ⊢
  rw [h]

end Sys2Proof.Machine
end

