-- ==== Sys2Proof/Laws/Writes.lean ====
section
/-! SUPPORT. What registers hold after the result writes of an instruction. -/

namespace Sys2Proof.Machine

open Sys2Proof

/-! ### One bit of a word -/

theorem setFld_one (w : BitVec 64) (i x j : Nat) (hi : i < 64) :
    (setFld w i 1 x).getLsbD j = if j = i then decide (x % 2 = 1) else w.getLsbD j := by
  have hw := w.isLt
  set a := w.toNat with ha
  have hq : a = 2 ^ i * (a / 2 ^ i) + a % 2 ^ i := (Nat.div_add_mod a (2 ^ i)).symm
  have hr : a % 2 ^ i < 2 ^ i := Nat.mod_lt _ (by positivity)
  have hn : nbits a i 1 = a / 2 ^ i % 2 := by simp [nbits, Nat.shiftRight_eq_div_pow]
  have hv : a - nbits a i 1 * 2 ^ i + x % 2 ^ 1 * 2 ^ i = 2 ^ i * (2 * (a / 2 ^ i / 2) + x % 2) + a % 2 ^ i := by
    rw [hn]
    have h2 := Nat.div_add_mod (a / 2 ^ i) 2
    set q := a / 2 ^ i
    set r := a % 2 ^ i
    set p := 2 ^ i
    have e1 : q % 2 * p = p * (q % 2) := Nat.mul_comm _ _
    have e2 : p * q = p * (2 * (q / 2)) + p * (q % 2) := by rw [← Nat.mul_add, h2]
    have e3 : p * (2 * (q / 2) + x % 2) = p * (2 * (q / 2)) + p * (x % 2) := Nat.mul_add ..
    have e4 : x % 2 ^ 1 * p = p * (x % 2) := by simp [Nat.mul_comm]
    omega
  have hlt : 2 ^ i * (2 * (a / 2 ^ i / 2) + x % 2) + a % 2 ^ i < 2 ^ 64 := by
    have h64 : (2 : Nat) ^ 64 = 2 ^ i * 2 ^ (64 - i) := by rw [← Nat.pow_add]; congr 1; omega
    have hd : a / 2 ^ i < 2 ^ (64 - i) := by
      rw [Nat.div_lt_iff_lt_mul (by positivity), Nat.mul_comm, ← h64]; exact hw
    have he : 2 ∣ 2 ^ (64 - i) := dvd_pow_self 2 (by omega)
    have : 2 * (a / 2 ^ i / 2) + x % 2 + 1 ≤ 2 ^ (64 - i) := by omega
    calc _ < 2 ^ i * (2 * (a / 2 ^ i / 2) + x % 2) + 2 ^ i := by omega
      _ = 2 ^ i * (2 * (a / 2 ^ i / 2) + x % 2 + 1) := by ring
      _ ≤ 2 ^ i * 2 ^ (64 - i) := Nat.mul_le_mul_left _ this
      _ = 2 ^ 64 := h64.symm
  have key : (setFld w i 1 x).toNat = 2 ^ i * (2 * (a / 2 ^ i / 2) + x % 2) + a % 2 ^ i := by
    unfold setFld
    rw [BitVec.toNat_ofNat, ← ha, hv, Nat.mod_eq_of_lt hlt]
  rw [← BitVec.testBit_toNat, key, ← BitVec.testBit_toNat, ← ha, Nat.testBit_two_pow_mul_add _ hr]
  conv => rhs; rhs; rw [hq, Nat.testBit_two_pow_mul_add _ hr]
  split
  · rw [if_neg (by omega)]
  · split
    · rename_i h1 h2
      subst h2
      simp only [Nat.sub_self, Nat.testBit_zero]
      congr 1
      apply propext
      omega
    · rename_i h1 h2
      obtain ⟨k, hk⟩ : ∃ k, j - i = k + 1 := ⟨j - i - 1, by omega⟩
      rw [hk, Nat.testBit_succ, Nat.testBit_succ]
      congr 1
      omega

/-! ### Reading after one write -/

theorem rdV_regWrite (f : Flight) (w : RegWrite) (m k : Nat) (hk : k < 64) :
    (f.regWrite w).rdV m k = if w.reg = .v m ∧ w.key % 64 = k then BitVec.ofNat 32 w.val else f.rdV m k := by
  unfold Flight.regWrite
  cases hr : w.reg with
  | v n =>
    simp only
    rw [Flight.rdV_wrV _ _ _ _ _ _ (Nat.mod_lt _ (by omega)) hk]
    simp only [Reg.v.injEq, eq_comm]
  | p n => simp only; split <;> simp [Flight.rdV, Flight.wrP]
  | _ => simp [Flight.rdV, Flight.wrS, Flight.wrX, Flight.wrTile, Flight.unmark]

theorem rdX_regWrite (f : Flight) (w : RegWrite) (m k : Nat) (hk : k < 64) :
    (f.regWrite w).rdX m k = if w.reg = .x m ∧ w.key % 64 = k then BitVec.ofNat 32 w.val else f.rdX m k := by
  unfold Flight.regWrite
  cases hr : w.reg with
  | x n =>
    simp only
    rw [Flight.rdX_wrX _ _ _ _ _ _ (Nat.mod_lt _ (by omega)) hk]
    simp only [Reg.x.injEq, eq_comm]
  | p n => simp only; split <;> simp [Flight.rdX, Flight.wrP]
  | _ => simp [Flight.rdX, Flight.wrS, Flight.wrV, Flight.wrTile, Flight.unmark]

theorem rdS_regWrite (f : Flight) (w : RegWrite) (m : Nat) :
    (f.regWrite w).rdS m = if w.reg = .s m then BitVec.ofNat 64 w.val else f.rdS m := by
  unfold Flight.regWrite
  cases hr : w.reg with
  | s n => simp only; rw [Flight.rdS_wrS]; simp only [Reg.s.injEq, eq_comm]
  | p n => simp only; split <;> simp [Flight.rdS, Flight.wrP]
  | _ => simp [Flight.rdS, Flight.wrX, Flight.wrV, Flight.wrTile, Flight.unmark]

theorem rdP_regWrite (f : Flight) (w : RegWrite) (m : Nat) :
    (f.regWrite w).rdP m =
      if w.reg = .p m then (if w.key % 128 < 64 then setFld (f.rdP m) (w.key % 128) 1 w.val else BitVec.ofNat 64 w.val) else f.rdP m := by
  unfold Flight.regWrite
  cases hr : w.reg with
  | p n =>
    simp only
    by_cases h : n = m
    · subst h; split <;> simp [Flight.rdP_wrP]
    · split <;> simp [Flight.rdP_wrP, h, Ne.symm h]
  | _ => simp [Flight.rdP, Flight.wrX, Flight.wrV, Flight.wrS, Flight.wrTile, Flight.unmark]

/-! ### Reading after all writes -/

/-- Where no write names the place it keeps its value; where all that do give one value, it has that. -/
theorem foldl_read {α β γ : Type _} (q : β → γ) (u : β → α → β) (hit : α → Prop) [DecidablePred hit] (val : α → γ)
    (h : ∀ b a, q (u b a) = if hit a then val a else q b) (l : List α) (b : β) :
    (∀ a ∈ l, ¬ hit a) → q (l.foldl u b) = q b := by
  induction l generalizing b with
  | nil => intro _; rfl
  | cons a r ih =>
    intro hn
    rw [List.foldl_cons, ih _ fun a ha => hn a (List.mem_cons_of_mem _ ha), h, if_neg (hn a (List.mem_cons_self ..))]

theorem foldl_read_hit {α β γ : Type _} (q : β → γ) (u : β → α → β) (hit : α → Prop) [DecidablePred hit] (val : α → γ)
    (h : ∀ b a, q (u b a) = if hit a then val a else q b) (l : List α) (b : β) (x : γ)
    (hex : ∃ a ∈ l, hit a) (hall : ∀ a ∈ l, hit a → val a = x) : q (l.foldl u b) = x := by
  induction l generalizing b with
  | nil => obtain ⟨a, ha, _⟩ := hex; cases ha
  | cons a r ih =>
    rw [List.foldl_cons]
    by_cases hr : ∃ a ∈ r, hit a
    · exact ih _ hr fun a ha => hall a (List.mem_cons_of_mem _ ha)
    · rw [foldl_read q u hit val h r _ fun a ha hh => hr ⟨a, ha, hh⟩, h]
      obtain ⟨a', ha', hh⟩ := hex
      rcases List.mem_cons.1 ha' with rfl | ha'
      · rw [if_pos hh]; exact hall _ (List.mem_cons_self ..) hh
      · exact absurd ⟨a', ha', hh⟩ hr

section
variable (f : Flight) (ws : List RegWrite)

theorem rdV_writes_none (m k : Nat) (hk : k < 64) (h : ∀ w ∈ ws, ¬ (w.reg = .v m ∧ w.key % 64 = k)) :
    (ws.foldl Flight.regWrite f).rdV m k = f.rdV m k :=
  foldl_read (fun g : Flight => g.rdV m k) _ (fun w => w.reg = .v m ∧ w.key % 64 = k) _ (fun g w => rdV_regWrite g w m k hk) ws f h
theorem rdV_writes (m k : Nat) (hk : k < 64) (x : Word) (he : ∃ w ∈ ws, w.reg = .v m ∧ w.key % 64 = k)
    (ha : ∀ w ∈ ws, w.reg = .v m ∧ w.key % 64 = k → BitVec.ofNat 32 w.val = x) : (ws.foldl Flight.regWrite f).rdV m k = x :=
  foldl_read_hit (fun g : Flight => g.rdV m k) _ (fun w => w.reg = .v m ∧ w.key % 64 = k) _ (fun g w => rdV_regWrite g w m k hk) ws f x he ha
theorem rdX_writes_none (m k : Nat) (hk : k < 64) (h : ∀ w ∈ ws, ¬ (w.reg = .x m ∧ w.key % 64 = k)) :
    (ws.foldl Flight.regWrite f).rdX m k = f.rdX m k :=
  foldl_read (fun g : Flight => g.rdX m k) _ (fun w => w.reg = .x m ∧ w.key % 64 = k) _ (fun g w => rdX_regWrite g w m k hk) ws f h
theorem rdX_writes (m k : Nat) (hk : k < 64) (x : Word) (he : ∃ w ∈ ws, w.reg = .x m ∧ w.key % 64 = k)
    (ha : ∀ w ∈ ws, w.reg = .x m ∧ w.key % 64 = k → BitVec.ofNat 32 w.val = x) : (ws.foldl Flight.regWrite f).rdX m k = x :=
  foldl_read_hit (fun g : Flight => g.rdX m k) _ (fun w => w.reg = .x m ∧ w.key % 64 = k) _ (fun g w => rdX_regWrite g w m k hk) ws f x he ha
theorem rdS_writes_none (m : Nat) (h : ∀ w ∈ ws, ¬ w.reg = .s m) : (ws.foldl Flight.regWrite f).rdS m = f.rdS m :=
  foldl_read (fun g : Flight => g.rdS m) _ (fun w => w.reg = .s m) _ (fun g w => rdS_regWrite g w m) ws f h
theorem rdS_writes (m : Nat) (x : DWord) (he : ∃ w ∈ ws, w.reg = .s m) (ha : ∀ w ∈ ws, w.reg = .s m → BitVec.ofNat 64 w.val = x) :
    (ws.foldl Flight.regWrite f).rdS m = x :=
  foldl_read_hit (fun g : Flight => g.rdS m) _ (fun w => w.reg = .s m) _ (fun g w => rdS_regWrite g w m) ws f x he ha
theorem rdP_writes_none (m : Nat) (h : ∀ w ∈ ws, ¬ w.reg = .p m) : (ws.foldl Flight.regWrite f).rdP m = f.rdP m := by
  induction ws generalizing f with
  | nil => rfl
  | cons w r ih =>
    rw [List.foldl_cons, ih _ fun a ha => h a (List.mem_cons_of_mem _ ha), rdP_regWrite, if_neg (h w (List.mem_cons_self ..))]

/-- A predicate written lane by lane, each bit at most to one value. -/
theorem rdP_bits (m k : Nat) (hp : ∀ w ∈ ws, w.reg = .p m → w.key % 128 < 64) (x : Bool)
    (ha : ∀ w ∈ ws, w.reg = .p m ∧ w.key % 128 = k → decide (w.val % 2 = 1) = x) :
    ((ws.foldl Flight.regWrite f).rdP m).getLsbD k =
      if ∃ w ∈ ws, w.reg = .p m ∧ w.key % 128 = k then x else (f.rdP m).getLsbD k := by
  induction ws generalizing f with
  | nil => simp
  | cons w r ih =>
    have hp' := fun a ha => hp a (List.mem_cons_of_mem _ ha)
    rw [List.foldl_cons, ih _ hp' fun a h => ha a (List.mem_cons_of_mem _ h)]
    by_cases hr : ∃ w ∈ r, w.reg = .p m ∧ w.key % 128 = k
    · rw [if_pos hr, if_pos]
      obtain ⟨w', h1, h2⟩ := hr
      exact ⟨w', List.mem_cons_of_mem _ h1, h2⟩
    · rw [if_neg hr, rdP_regWrite]
      by_cases hw : w.reg = .p m
      · have hlt := hp w (List.mem_cons_self ..) hw
        rw [if_pos hw, if_pos hlt, setFld_one _ _ _ _ hlt]
        by_cases hk : w.key % 128 = k
        · rw [if_pos hk.symm, if_pos ⟨w, List.mem_cons_self .., hw, hk⟩]
          exact ha w (List.mem_cons_self ..) ⟨hw, hk⟩
        · rw [if_neg fun e => hk e.symm, if_neg]
          rintro ⟨w', h1, h2, h3⟩
          rcases List.mem_cons.1 h1 with rfl | h1
          · exact hk h3
          · exact hr ⟨w', h1, h2, h3⟩
      · rw [if_neg hw, if_neg]
        rintro ⟨w', h1, h2, h3⟩
        rcases List.mem_cons.1 h1 with rfl | h1
        · exact hw h2
        · exact hr ⟨w', h1, h2, h3⟩

/-- Writes of the numbered registers change nothing else. -/
def Plain (ws : List RegWrite) : Prop := ∀ w ∈ ws, (match w.reg with | .exm => False | .tile _ => False | _ => True)

theorem blank_regWrites (h : Plain ws) : blankIssue (ws.foldl Flight.regWrite f) = blankIssue f := by
  induction ws generalizing f with
  | nil => rfl
  | cons w r ih =>
    rw [List.foldl_cons, ih _ fun a ha => h a (List.mem_cons_of_mem _ ha)]
    have hw := h w (List.mem_cons_self ..)
    unfold Flight.regWrite
    cases hr : w.reg with
    | v n => rfl
    | s n => rfl
    | p n => simp only; split <;> rfl
    | x n => rfl
    | exm => simp [hr] at hw
    | tile n => simp [hr] at hw

end

end Sys2Proof.Machine
end

