-- ==== Sys2Proof/Laws/Commit.lean ====
section
/-! SUPPORT. What an instruction that issues leaves: its flight past it with its results, and all else as it was. -/

namespace Sys2Proof.Machine

open Sys2Proof

section
variable {s : State} {f : Flight} {d : Desc}

/-! ### The pair -/

theorem find_shadow_replBy (l : List Flight) (g f : Flight) (n : Nat) (hk : g.kind = f.kind)
    (h : (l.find? fun x => match x.kind with | .shadow m => decide (m = n) | _ => false) = none)
    (hu : (match f.kind with | .shadow m => decide (m = n) | _ => false) = false) :
    ((replBy Flight.id l f.id g).find? fun x => match x.kind with | .shadow m => decide (m = n) | _ => false) = none := by
  rw [List.find?_eq_none] at h ⊢
  intro x hx
  unfold replBy at hx
  obtain ⟨y, hy, rfl⟩ := List.mem_map.1 hx
  by_cases e : y.id = f.id
  · rw [if_pos e, hk]; simpa using hu
  · rw [if_neg e]; exact h y hy

theorem partner_setFlight (g : Flight) (hid : g.id = f.id) (hk : g.kind = f.kind)
    (h : s.partner f = none) (hu : f.isShadow = false) : (s.setFlight g).partner f = none := by
  unfold State.partner at h ⊢
  cases e : f.kind with
  | shadow l => simp [Flight.isShadow, e] at hu
  | handler n => rfl
  | leader =>
    simp only [e] at h ⊢
    simp only [State.setFlight, hid]
    exact find_shadow_replBy s.flights g f f.id hk h (by simp [e])

/-! ### The parts of an issue -/

theorem killLanesOf_none (s : State) (id : Nat) (fr : List DWord) : s.killLanesOf id 0 fr = s := by
  unfold State.killLanesOf
  split
  · rfl
  · simp

theorem giveShadow_alone (s : State) (f : Flight) (n : Nat) (ws : List RegWrite) (ms : List PMark) (h : s.partner f = none) :
    s.giveShadow f n ws ms = s := by
  unfold State.giveShadow
  cases f.kind <;> simp [h]

theorem loseEarly_nil (s : State) (id seq : Nat) : s.loseEarly id seq [] = s := rfl

theorem giveNothing_alone (s : State) (f : Flight) (n : Nat) (h : s.partner f = none) : s.giveNothing f n = s := by
  unfold State.giveNothing
  cases s.flight? f.id with
  | none => rfl
  | some g => simp only [giveShadow_alone s f n [] [] h]; split <;> rfl

/-- An instruction that stands for no value, wait or effect outside the flight moves no shadow; a flight that is none of a pair has none to move. -/
theorem passShadow_none {s : State} {f : Flight} {d : Desc} {clock : Nat} (h : d.fromLeader = false ∨ (s.partner f = none ∧ f.isShadow = false)) :
    passShadow d f clock s = s := by
  unfold passShadow
  rcases h with h | ⟨h, h'⟩
  · simp only [Desc.fromLeader, Bool.or_eq_false_iff] at h
    simp [h.1.1, h.1.2, Option.isSome_eq_false_iff.1 h.2]
  · split
    · split
      · simp [h', giveShadow_alone s f _ [] [] h]
      · rfl
    · rw [h]

/-- An effect on the flight alone. -/
theorem setFlight_self_upd (s : State) (g : Flight) (h : s.flight? g.id = some f) (u : Flight → Flight) (hu : (u g).id = g.id) :
    (s.setFlight g).updFlight g.id u = s.setFlight (u g) := by
  rw [State.updFlight_eq _ _ _ g (by simp [h]), State.setFlight_setFlight _ _ _ hu]

theorem advance_id (f : Flight) (k : Nat) : (f.advance k).id = f.id := by unfold Flight.advance; split <;> rfl

theorem passed_fields (d : Desc) (f : Flight) (s : State) :
    (passed d f s).id = f.id ∧ (passed d f s).kind = f.kind ∧ (passed d f s).trap = f.trap ∧ (passed d f s).place = f.place ∧
    (passed d f s).step = f.step ∧ (passed d f s).fstat = f.fstat ∧ (passed d f s).v = f.v ∧ (passed d f s).s = f.s ∧
    (passed d f s).p = f.p ∧ (passed d f s).marks = f.marks ∧ (passed d f s).exm = f.exm ∧ (passed d f s).stoch = f.stoch ∧
    (passed d f s).ops = f.ops := by
  rw [passed_eq]
  simp

/-- No trap follows the results. -/
theorem afterResults_none (s : State) (g : Flight) (n pc : Nat) (old : Option DWord) (h : s.flight? n = some g)
    (hs : g.step = false) (hc : fstatCross (old.getD g.fstat) g.fstat = false) : s.afterResults n pc old = s := by
  unfold State.afterResults
  rw [h]
  simp only [hs, hc, Bool.false_eq_true, if_false]
  split <;> rfl

theorem cross_self (w : DWord) : fstatCross w w = false := by
  unfold fstatCross
  by_cases h : fstatSum w ≤ fstatThr w
  · simp [h, Nat.not_lt.2 h]
  · simp [h]

theorem takeSlot_flights (s : State) (f : Flight) (c : Nat) : (s.takeSlot f c).flights = s.flights := rfl

theorem mid_here (h : s.flight? f.id = some f) : (midState d f s).flight? f.id = some (passed d f s) := by
  unfold midState
  rw [State.flight?_setFlight, (passed_fields d f s).1, if_pos rfl]
  show (s.flight? f.id).map _ = _
  rw [h]; rfl

theorem mid_setFlight (g : Flight) (hg : g.id = f.id) : (midState d f s).setFlight g =
    (({ s with freeCtr := s.freeCtr + freeStride }).takeSlot f d.cls).setFlight g := by
  unfold midState
  rw [State.setFlight_setFlight _ _ _ (by rw [hg, (passed_fields d f s).1])]

theorem mid_partner (h : Free s f d.cls d.opnds (d.part f)) (g : Flight) (hg : g.id = f.id) (hk : g.kind = f.kind) :
    ((midState d f s).setFlight g).partner f = none := by
  rw [mid_setFlight g hg]
  exact partner_setFlight (s := ({ s with freeCtr := s.freeCtr + freeStride }).takeSlot f d.cls) g hg hk h.single h.unpaired

/-- The lists that an early result might lose. -/
theorem earlyLost_nil (ctr : Nat) (ds : List Reg) : earlyLost ctr [] ds = [] := rfl

theorem filter_notin_nil (ws : List RegWrite) : (ws.filter fun w => decide (w.reg ∉ ([] : List Reg))) = ws := by
  simp

/-- What `commit` does when nothing was early: the results are taken in the state past the instruction. -/
theorem commit_mid (h : Free s f d.cls d.opnds (d.part f)) :
    commit d (ctxOf f) s =
      (passShadow d f s.clock (runBody d (ctxOf f) (d.dests f (s.afb f)) [] (midState d f s))).afterResults f.id f.pc
        (if d.quiet then none else some f.fstat) := by
  unfold commit
  have hf : s.flight? (ctxOf f).f.id = some f := (here_of h)
  rw [hf]
  have hh : (if s.checking f = true then [] else hazards f s.clock (d.regs f (s.afb f))) = [] := by
    rw [hazards_nil h]; split <;> rfl
  simp only [hh, earlyLost_nil]
  rfl

/-- Results of fixed latency. -/
def withFixed (g : Flight) (o : Out) (n clock pc : Nat) : Flight := (g.account o).deliver o.writes n clock pc

theorem account_same (g : Flight) (o : Out) : blankMath (g.account o) = blankMath g ∧ (g.account o).id = g.id ∧ (g.account o).kind = g.kind ∧ (g.account o).step = g.step := by
  have key : ∀ (l : List (Nat × Word)) (g : Flight), blankMath (l.foldl (fun f p => f.setRng p.1 p.2) g) = blankMath g := fun l g =>
    foldl_same blankMath (fun f p => f.setRng p.1 p.2) (fun b a => by simp only [blankMath, blankIssue, Flight.setRng]) l g
  have h : blankMath (g.account o) = blankMath g := by
    unfold Flight.account
    dsimp only
    rw [key]
    split
    · rfl
    · simp only [blankMath, blankIssue]
  have e1 := congrArg Flight.id h
  have e2 := congrArg Flight.kind h
  have e3 := congrArg Flight.step h
  exact ⟨h, e1, e2, e3⟩

theorem deliver_same (g : Flight) (ws : List RegWrite) (n clock pc : Nat) (hp : Plain ws) :
    blankIssue (g.deliver ws n clock pc) = blankIssue g ∧ (g.deliver ws n clock pc).id = g.id ∧ (g.deliver ws n clock pc).kind = g.kind
      ∧ (g.deliver ws n clock pc).step = g.step ∧ (g.deliver ws n clock pc).fstat = g.fstat := by
  have h : blankIssue (g.deliver ws n clock pc) = blankIssue g := by
    have e := blank_regWrites g ws hp
    unfold Flight.deliver
    exact e
  have e1 := congrArg Flight.id h
  have e2 := congrArg Flight.kind h
  have e3 := congrArg Flight.step h
  have e4 := congrArg Flight.fstat h
  exact ⟨h, e1, e2, e3, e4⟩

/-- An instruction with results of fixed latency, and an effect `u` on its flight. -/
theorem commit_fixed (h : Free s f d.cls d.opnds (d.part f)) (n : Nat) (hl : d.lat = .fixed n) (o : Out)
    (ho : d.res (ctxOf f) (midState d f s) = o) (hd : o.dead = 0) (hp : Plain o.writes) (u : Flight → Flight)
    (he : ∀ g : Flight, g.id = f.id → d.eff (ctxOf f) ((midState d f s).setFlight g) = (midState d f s).setFlight (u g))
    (hu : ∀ g, (u g).id = g.id ∧ (u g).kind = g.kind ∧ (u g).step = g.step)
    (hc : fstatCross ((if d.quiet then none else some f.fstat).getD (u (withFixed (passed d f s) o n s.clock f.pc)).fstat)
      (u (withFixed (passed d f s) o n s.clock f.pc)).fstat = false) :
    commit d (ctxOf f) s = (({ s with freeCtr := s.freeCtr + freeStride }).takeSlot f d.cls).setFlight
      (u (withFixed (passed d f s) o n s.clock f.pc)) := by
  obtain ⟨pid, pkind, -, -, pstep, -⟩ := passed_fields d f s
  have hm := mid_here (d := d) (here_of h)
  set m := midState d f s with hmd
  set p := passed d f s with hpd
  obtain ⟨-, aid, akind, astep⟩ := account_same p o
  obtain ⟨-, did, dkind, dstep, -⟩ := deliver_same (p.account o) o.writes n s.clock f.pc hp
  set g := withFixed p o n s.clock f.pc with hg
  have gid : g.id = f.id := by rw [hg, withFixed, did, aid, pid]
  have gkind : g.kind = f.kind := by rw [hg, withFixed, dkind, akind, pkind]
  have gstep : g.step = false := by rw [hg, withFixed, dstep, astep, pstep, h.step]
  have ugid : (u g).id = f.id := (hu g).1.trans gid
  have hsh : ((ctxOf f).f.isShadow && d.shadowed) = false := by
    have : (ctxOf f).f.isShadow = false := h.unpaired
    simp [this]
  have hbody : runBody d (ctxOf f) (d.dests f (s.afb f)) [] m = m.setFlight (u g) := by
    unfold runBody
    rw [hsh, ho]
    have e1 : m.updFlight (ctxOf f).f.id (fun x => x.account o) = m.setFlight (p.account o) := State.updFlight_eq _ _ _ _ hm
    have e2 : (m.setFlight (p.account o)).updFlight (ctxOf f).f.id (fun x => x.deliver o.writes n (m.setFlight (p.account o)).clock (ctxOf f).pc) = m.setFlight g := by
      rw [State.updFlight_eq _ _ _ (p.account o)]
      · rw [State.setFlight_setFlight]
        · rfl
        · exact did
      · have : (ctxOf f).f.id = f.id := rfl
        rw [State.flight?_setFlight, aid, pid, this, if_pos rfl, hm]; rfl
    have e3 : ({ o with writes := o.writes.filter fun w => decide (w.reg ∉ ([] : List Reg)) } : Out) = o := by rw [filter_notin_nil]
    simp only [Bool.false_eq_true, if_false, filter_notin_nil]
    have e3' : ({ writes := o.writes, flags := o.flags, cnt := o.cnt, rng := o.rng, dead := o.dead } : Out) = o := rfl
    rw [e3', e1, hl]
    have hq : (ctxOf f).queued = false := rfl
    simp only [hq]
    rw [e2]
    have e4 : (if d.shadowed = true then (m.setFlight g).giveShadow (ctxOf f).f (ctxOf f).seq o.writes [] else m.setFlight g) = m.setFlight g := by
      split
      · exact giveShadow_alone _ _ _ _ _ (mid_partner h g gid gkind)
      · rfl
    rw [e4, hd, killLanesOf_none, he g gid, loseEarly_nil]
    simp
  have hpart := mid_partner h (u g) ugid ((hu g).2.1.trans gkind)
  have hpass : passShadow d f s.clock (m.setFlight (u g)) = m.setFlight (u g) := passShadow_none (.inr ⟨hpart, h.unpaired⟩)
  rw [commit_mid h, hbody, hpass, afterResults_none _ (u g), mid_setFlight (u g) ugid]
  · rw [State.flight?_setFlight, ugid, if_pos rfl, hm]; rfl
  · rw [(hu g).2.2, gstep]
  · exact hc

/-- The effect of an instruction without register results: where it stands for a value and left no operation, its shadow is told so. -/
def effOf (d : Desc) (f : Flight) (s : State) : State :=
  if d.shadowed then (d.eff (ctxOf f) (midState d f s)).giveNothing f f.seq else d.eff (ctxOf f) (midState d f s)

/-- An instruction without register results: its effect is taken in the state past it. -/
theorem commit_eff (h : Free s f d.cls d.opnds (d.part f)) (hl : d.lat = .none) (hr : d.res (ctxOf f) (midState d f s) = {}) :
    commit d (ctxOf f) s =
      (passShadow d f s.clock (effOf d f s)).afterResults f.id f.pc (if d.quiet then none else some f.fstat) := by
  rw [commit_mid h]
  have hm := mid_here (d := d) (here_of h)
  set m := midState d f s with hmd
  have hsh : ((ctxOf f).f.isShadow && d.shadowed) = false := by
    have : (ctxOf f).f.isShadow = false := h.unpaired
    simp [this]
  have hself : m.setFlight (passed d f s) = m := by
    rw [hmd]; unfold midState; rw [State.setFlight_setFlight _ _ _ rfl]
  have e : runBody d (ctxOf f) (d.dests f (s.afb f)) [] m = effOf d f s := by
    unfold runBody
    rw [hsh, hr, hl]
    have e1 (u : Flight → Flight) (hu : u (passed d f s) = passed d f s) : m.updFlight (ctxOf f).f.id u = m := by
      have : m.flight? (ctxOf f).f.id = some (passed d f s) := hm
      rw [State.updFlight_eq _ _ _ _ this, hu, hself]
    simp only [Bool.false_eq_true, if_false, List.filter_nil, List.foldl_nil]
    rw [e1 _ rfl, e1 (fun f => f) rfl, loseEarly_nil]
    simp [effOf, hmd, show (ctxOf f).f = f from rfl, show (ctxOf f).seq = f.seq from rfl]
  rw [e]

/-- A flight with one more operation outstanding. -/
def withOp (g : Flight) (o : Op) : Flight := { g with ops := g.ops ++ [o] }

theorem addOp_eq (s : State) (n : Nat) (mk : Nat → Op) (g : Flight) (h : s.flight? n = some g) :
    s.addOp n mk = ({ s with nextId := s.nextId + 1 }).setFlight (withOp g (mk s.nextId)) := by
  unfold State.addOp
  exact State.updFlight_eq _ _ _ g h

theorem setFlight_nextId (s : State) (k : Nat) (p g : Flight) (h : g.id = p.id) :
    ({ s.setFlight p with nextId := k } : State).setFlight g = ({ s with nextId := k } : State).setFlight g := by
  simp only [State.setFlight, h, replBy_replBy Flight.id s.flights p.id p g rfl]

/-- An instruction whose results land later: the operation that holds them is outstanding. -/
def lateOp (d : Desc) (f : Flight) (s : State) (o : Out) : Op :=
  { id := s.nextId, seq := f.seq, pc := f.pc, kind := .result, dests := d.dests f (s.afb f), writes := o.writes, sb := d.sb, lost := [],
    crossed := if !d.quiet && fstatCross f.fstat ((passed d f s).account o).fstat then 1 else 0, kills := o.dead }

theorem commit_late (h : Free s f d.cls d.opnds (d.part f)) (hl : d.lat = .late) (o : Out)
    (ho : d.res (ctxOf f) (midState d f s) = o)
    (u : Flight → Flight)
    (he : ∀ g : Flight, g.id = f.id → d.eff (ctxOf f) ((({ s with freeCtr := s.freeCtr + freeStride, nextId := s.nextId + 1 }).takeSlot f d.cls).setFlight g) =
      (({ s with freeCtr := s.freeCtr + freeStride, nextId := s.nextId + 1 }).takeSlot f d.cls).setFlight (u g))
    (hu : ∀ g, (u g).id = g.id ∧ (u g).kind = g.kind ∧ (u g).step = g.step)
    (hc : fstatCross ((if d.quiet then none else some f.fstat).getD
        (u (withOp ((passed d f s).account o) (lateOp d f s o))).fstat)
      (u (withOp ((passed d f s).account o) (lateOp d f s o))).fstat = false) :
    commit d (ctxOf f) s = (({ s with freeCtr := s.freeCtr + freeStride, nextId := s.nextId + 1 }).takeSlot f d.cls).setFlight
      (u (withOp ((passed d f s).account o) (lateOp d f s o))) := by
  obtain ⟨pid, pkind, -, -, pstep, pfstat, -⟩ := passed_fields d f s
  have hm := mid_here (d := d) (here_of h)
  obtain ⟨-, aid, akind, astep⟩ := account_same (passed d f s) o
  set g : Flight := withOp ((passed d f s).account o) (lateOp d f s o) with hg
  have gid : g.id = f.id := aid.trans pid
  have gkind : g.kind = f.kind := akind.trans pkind
  have gstep : g.step = false := astep.trans (pstep.trans h.step)
  have ugid : (u g).id = f.id := (hu g).1.trans gid
  set m' := ({ s with freeCtr := s.freeCtr + freeStride, nextId := s.nextId + 1 }).takeSlot f d.cls with hm'
  have hf' : m'.flight? f.id = some f := by have := here_of h; exact this
  have hbody : runBody d (ctxOf f) (d.dests f (s.afb f)) [] (midState d f s) = m'.setFlight (u g) := by
    have hsh : ((ctxOf f).f.isShadow && d.shadowed) = false := by
      have : (ctxOf f).f.isShadow = false := h.unpaired
      simp [this]
    unfold runBody
    rw [hsh, ho]
    simp only [Bool.false_eq_true, if_false, filter_notin_nil]
    have e3' : ({ writes := o.writes, flags := o.flags, cnt := o.cnt, rng := o.rng, dead := o.dead } : Out) = o := rfl
    have e1 : (midState d f s).updFlight (ctxOf f).f.id (fun x => x.account o) = (midState d f s).setFlight ((passed d f s).account o) :=
      State.updFlight_eq _ _ _ _ hm
    rw [e3', e1, hl]
    have hp : ((midState d f s).setFlight ((passed d f s).account o)).flight? f.id = some ((passed d f s).account o) := by
      rw [State.flight?_setFlight, aid, pid, if_pos rfl, hm]; rfl
    have e2 : ((midState d f s).setFlight ((passed d f s).account o)).later (ctxOf f) (d.dests f (s.afb f)) o [] d.sb
        (lateOp d f s o).crossed = m'.setFlight g := by
      unfold State.later
      have : (ctxOf f).f.id = f.id := rfl
      rw [this, addOp_eq _ _ _ _ hp, mid_setFlight _ (aid.trans pid)]
      exact setFlight_nextId (({ s with freeCtr := s.freeCtr + freeStride }).takeSlot f d.cls) (s.nextId + 1) ((passed d f s).account o) g rfl
    have b1 : (((midState d f s).flight? (ctxOf f).f.id).map Flight.fstat).getD 0 = f.fstat := by
      show (((midState d f s).flight? f.id).map Flight.fstat).getD 0 = _
      rw [hm]; exact pfstat
    have b2 : ((((midState d f s).setFlight ((passed d f s).account o)).flight? (ctxOf f).f.id).map Flight.fstat).getD 0 = ((passed d f s).account o).fstat := by
      show ((((midState d f s).setFlight _).flight? f.id).map Flight.fstat).getD 0 = _
      rw [hp]; rfl
    have hq : (ctxOf f).queued = false := rfl
    simp only [b1, b2, hq, if_true, Bool.false_eq_true, if_false]
    change ((if d.shadowed && true then ((d.eff (ctxOf f) (((midState d f s).setFlight ((passed d f s).account o)).later (ctxOf f) (d.dests f (s.afb f)) o [] d.sb
        (lateOp d f s o).crossed)).loseEarly f.id f.seq []).giveNothing f f.seq
      else (d.eff (ctxOf f) (((midState d f s).setFlight ((passed d f s).account o)).later (ctxOf f) (d.dests f (s.afb f)) o [] d.sb
        (lateOp d f s o).crossed)).loseEarly f.id f.seq []) : State) = _
    rw [e2, loseEarly_nil, hm', he g gid]
    split
    · exact giveNothing_alone _ _ _ (partner_setFlight (s := m') (u g) ugid ((hu g).2.1.trans gkind) h.single h.unpaired)
    · rfl
  have hpart : (m'.setFlight (u g)).partner f = none :=
    partner_setFlight (s := m') (u g) ugid ((hu g).2.1.trans gkind) h.single h.unpaired
  have hpass : passShadow d f s.clock (m'.setFlight (u g)) = m'.setFlight (u g) := passShadow_none (.inr ⟨hpart, h.unpaired⟩)
  rw [commit_mid h, hbody, hpass, afterResults_none _ (u g)]
  · rw [State.flight?_setFlight, ugid, if_pos rfl, hf']; rfl
  · rw [(hu g).2.2, gstep]
  · exact hc

end

end Sys2Proof.Machine
end

