-- ==== Sys2Proof/Laws/Computes.lean ====
section
/-! SUPPORT. From the description of an instruction that only writes registers to what it computes. -/

namespace Sys2Proof.Machine

open Sys2Proof

/-! ### Index registers that advance (R175) -/

theorem nodup_dedup_aux [DecidableEq α] (l acc : List α) (h : acc.Nodup) :
    (l.foldl (fun acc a => if a ∈ acc then acc else a :: acc) acc).Nodup := by
  induction l generalizing acc with
  | nil => exact h
  | cons a r ih =>
    rw [List.foldl_cons]
    split
    · exact ih _ h
    · rename_i hn; exact ih _ (List.nodup_cons.2 ⟨hn, h⟩)
theorem nodup_dedup [DecidableEq α] (l : List α) : (dedup l).Nodup := by
  unfold dedup; exact List.nodup_reverse.2 (nodup_dedup_aux l [] List.nodup_nil)

theorem mem_lanesOf (m : DWord) (l : Nat) : l ∈ lanesOf m ↔ l < 64 ∧ m.getLsbD l = true := by
  simp [lanesOf, lanes, List.mem_filter]
theorem lanesOf_lt {m : DWord} {l : Nat} (h : l ∈ lanesOf m) : l < 64 := ((mem_lanesOf m l).1 h).1
theorem nodup_lanesOf (m : DWord) : (lanesOf m).Nodup := by
  unfold lanesOf lanes; exact List.Nodup.filter _ List.nodup_range

/-- One index register advanced in a list of lanes. -/
theorem rdX_incLanes (n : Nat) (ls : List Nat) (f : Flight) (hl : ∀ l ∈ ls, l < 64) (hd : ls.Nodup) (m k : Nat) (hk : k < 64) :
    (ls.foldl (fun f l => f.wrX n l (postInc (f.rdX n l))) f).rdX m k = if m = n ∧ k ∈ ls then postInc (f.rdX m k) else f.rdX m k := by
  induction ls generalizing f with
  | nil => simp
  | cons a r ih =>
    obtain ⟨ha, hr⟩ := List.nodup_cons.1 hd
    have hal : a < 64 := hl a (List.mem_cons_self ..)
    rw [List.foldl_cons, ih _ (fun l h => hl l (List.mem_cons_of_mem _ h)) hr, Flight.rdX_wrX _ _ _ _ _ _ hal hk]
    by_cases hm : m = n
    · subst hm
      by_cases hka : k = a
      · subst hka; simp [ha]
      · simp [hka]
    · simp [hm]

theorem foldl_exm (u : Flight → Nat → Flight) (h : ∀ f a, (u f a).exm = f.exm) (l : List Nat) (f : Flight) : (l.foldl u f).exm = f.exm :=
  foldl_same Flight.exm u h l f

theorem rdX_postIncs (f : Flight) (os : List Opnd) (m k : Nat) (hk : k < 64) :
    (f.postIncs os).rdX m k = (stepX f os m k).getD (f.rdX m k) := by
  have key : ∀ (ns : List Nat) (g : Flight), ns.Nodup → g.exm = f.exm →
      (ns.foldl (fun f n => (lanesOf f.exm).foldl (fun f l => f.wrX n l (postInc (f.rdX n l))) f) g).rdX m k =
        if m ∈ ns ∧ f.exm.getLsbD k = true then postInc (g.rdX m k) else g.rdX m k := by
    intro ns
    induction ns with
    | nil => intro g _ _; simp
    | cons n r ih =>
      intro g hd he
      obtain ⟨hn, hr⟩ := List.nodup_cons.1 hd
      rw [List.foldl_cons, ih _ hr]
      · rw [rdX_incLanes n _ g (fun l h => lanesOf_lt h) (nodup_lanesOf _) m k hk]
        simp only [mem_lanesOf, he]
        by_cases hm : m = n
        · subst hm; simp [hn, hk]
        · simp [hm]
      · rw [foldl_same Flight.exm (fun f l => f.wrX n l (postInc (f.rdX n l))) (fun _ _ => rfl), he]
  unfold Flight.postIncs
  rw [key _ f (show (incremented os).Nodup from nodup_dedup _) rfl]
  unfold stepX
  split <;> rfl

theorem postIncs_congr (f g : Flight) (os : List Opnd) (hx : f.x = g.x) (he : f.exm = g.exm) : (f.postIncs os).x = (g.postIncs os).x := by
  have inner : ∀ (n : Nat) (ls : List Nat) (f g : Flight), f.x = g.x → f.exm = g.exm →
      (ls.foldl (fun f l => f.wrX n l (postInc (f.rdX n l))) f).x = (ls.foldl (fun f l => f.wrX n l (postInc (f.rdX n l))) g).x ∧
      (ls.foldl (fun f l => f.wrX n l (postInc (f.rdX n l))) f).exm = (ls.foldl (fun f l => f.wrX n l (postInc (f.rdX n l))) g).exm := by
    intro n ls
    induction ls with
    | nil => intro f g h1 h2; exact ⟨h1, h2⟩
    | cons a r ih =>
      intro f g h1 h2
      simp only [List.foldl_cons]
      refine ih _ _ ?_ ?_
      · simp only [Flight.wrX, Flight.rdX, h1]
      · exact h2
  unfold Flight.postIncs
  generalize incremented os = ns
  induction ns generalizing f g with
  | nil => exact hx
  | cons n r ih =>
    simp only [List.foldl_cons]
    rw [he]
    obtain ⟨h1, h2⟩ := inner n (lanesOf g.exm) f g hx he
    exact ih _ _ h1 h2

theorem counted_x (d : Desc) (f v : Flight) (afb : Nat) : (f.counted d v afb).x = (f.postIncs d.opnds).x := by
  unfold Flight.counted
  dsimp only
  have h : ∀ (os : List Opnd) (g : Flight), (countWrites g afb d.cc v os).x = g.x ∧ (countWrites g afb d.cc v os).exm = g.exm := by
    intro os
    induction os with
    | nil => intro g; exact ⟨rfl, rfl⟩
    | cons o r ih =>
      intro g
      unfold countWrites
      have hw : ∀ (f : Flight) (n : Nat) (c : BitVec 2), (f.writeCount n c).x = f.x ∧ (f.writeCount n c).exm = f.exm := by
        intro f n c; unfold Flight.writeCount; split <;> simp
      obtain ⟨h1, h2⟩ := ih (if o.writes then (o.vregs v afb).foldl (fun f n => f.writeCount n (o.newCount d.cc)) g else g)
      rw [h1, h2]
      split
      · exact ⟨foldl_same Flight.x _ (fun f n => (hw f n _).1) _ _, foldl_same Flight.exm _ (fun f n => (hw f n _).2) _ _⟩
      · exact ⟨rfl, rfl⟩
  obtain ⟨h1, h2⟩ := h d.opnds (match countReads v afb d.opnds f.counts with | .ok m => f.setCounts m | .error _ => f)
  refine postIncs_congr _ _ _ (h1.trans ?_) (h2.trans ?_) <;> split <;> rfl

/-! ### Reading registers of alike flights -/

theorem rdV_writes_congr (ws : List RegWrite) (f g : Flight) (n l : Nat) (hl : l < 64) (h : f.rdV n l = g.rdV n l) :
    (ws.foldl Flight.regWrite f).rdV n l = (ws.foldl Flight.regWrite g).rdV n l := by
  induction ws generalizing f g with
  | nil => exact h
  | cons w r ih => exact ih _ _ (by rw [rdV_regWrite _ _ _ _ hl, rdV_regWrite _ _ _ _ hl, h])
theorem rdX_writes_congr (ws : List RegWrite) (f g : Flight) (n l : Nat) (hl : l < 64) (h : f.rdX n l = g.rdX n l) :
    (ws.foldl Flight.regWrite f).rdX n l = (ws.foldl Flight.regWrite g).rdX n l := by
  induction ws generalizing f g with
  | nil => exact h
  | cons w r ih => exact ih _ _ (by rw [rdX_regWrite _ _ _ _ hl, rdX_regWrite _ _ _ _ hl, h])
theorem rdS_writes_congr (ws : List RegWrite) (f g : Flight) (n : Nat) (h : f.rdS n = g.rdS n) :
    (ws.foldl Flight.regWrite f).rdS n = (ws.foldl Flight.regWrite g).rdS n := by
  induction ws generalizing f g with
  | nil => exact h
  | cons w r ih => exact ih _ _ (by rw [rdS_regWrite, rdS_regWrite, h])
theorem rdP_writes_congr (ws : List RegWrite) (f g : Flight) (n : Nat) (h : f.rdP n = g.rdP n) :
    (ws.foldl Flight.regWrite f).rdP n = (ws.foldl Flight.regWrite g).rdP n := by
  induction ws generalizing f g with
  | nil => exact h
  | cons w r ih => exact ih _ _ (by rw [rdP_regWrite, rdP_regWrite, h])

/-- No index register is written. -/
def NoX (ws : List RegWrite) : Prop := ∀ w ∈ ws, ∀ n, w.reg ≠ .x n

/-- Registers after the results of an instruction, given what its writes do to the flight it read. -/
theorem regs_after (f g : Flight) (ws : List RegWrite) (V : Nat → Nat → Option Word) (S P : Nat → Option DWord) (os : List Opnd)
    (hv : g.v = f.v) (hs : g.s = f.s) (hp : g.p = f.p) (hx : g.x = (f.postIncs os).x) (hn : NoX ws)
    (h : RegsAre f (ws.foldl Flight.regWrite f) V S P noV) : RegsAre f (ws.foldl Flight.regWrite g) V S P (stepX f os) := by
  refine ⟨fun n l hl => ?_, fun n => ?_, fun n => ?_, fun n l hl => ?_⟩
  · rw [← h.v n l hl]; exact rdV_writes_congr ws g f n l hl (by simp [Flight.rdV, hv])
  · rw [← h.s n]; exact rdS_writes_congr ws g f n (by simp [Flight.rdS, hs])
  · rw [← h.p n]; exact rdP_writes_congr ws g f n (by simp [Flight.rdP, hp])
  · rw [rdX_writes_none _ _ _ _ hl fun w hw hh => hn w hw n hh.1, ← rdX_postIncs f os n l hl]
    simp [Flight.rdX, hx]

/-! ### What it computes -/

theorem issued_moves (d : Desc) (f : Flight) (s : State) : MovesOn f (passed d f s) f.wordCount d.st s.clock := by
  rw [passed_eq]
  refine ⟨?_, ?_, ?_, ?_⟩
  · intro c hc; simp [Flight.advance, hc]
  · intro c hc; simp [Flight.advance, hc]
  · unfold Flight.advance; split <;> rfl
  · unfold Flight.advance; split <;> rfl

theorem moves_congr {f g h : Flight} {k st clock : Nat} (m : MovesOn f g k st clock) (e1 : h.pc = g.pc) (e2 : h.clause = g.clause)
    (e3 : h.seq = g.seq) (e4 : h.nextIssue = g.nextIssue) : MovesOn f h k st clock :=
  ⟨fun c hc => e1.trans (m.pc c hc), fun c hc => e2.trans (m.clause c hc), e3.trans m.seq, e4.trans m.stall⟩

/-- The state after an issue that changes only its flight. -/
theorem only_flight (s : State) (f g : Flight) (cls k : Nat) (n : Nat) (hf : s.flight? f.id = some f) (hg : g.id = f.id) :
    OnlyFlight s ((({ s with freeCtr := k, nextId := n } : State).takeSlot f cls).setFlight g) f g := by
  refine ⟨?_, ?_, ?_, ?_⟩
  · rw [State.flight?_setFlight, hg, if_pos rfl]
    show (s.flight? f.id).map _ = _
    rw [hf]; rfl
  · show replBy Flight.id s.flights g.id g = _; rw [hg]
  · rfl
  · intro a; rfl

/-- Index, place and registers of what result writes leave. -/
theorem deliver_regs (g : Flight) (ws : List RegWrite) (n clock pc : Nat) :
    (g.deliver ws n clock pc).v = (ws.foldl Flight.regWrite g).v ∧ (g.deliver ws n clock pc).s = (ws.foldl Flight.regWrite g).s ∧
    (g.deliver ws n clock pc).p = (ws.foldl Flight.regWrite g).p ∧ (g.deliver ws n clock pc).x = (ws.foldl Flight.regWrite g).x :=
  ⟨rfl, rfl, rfl, rfl⟩

/-- Result writes do not move the flight. -/
theorem writes_place (ws : List RegWrite) (g : Flight) :
    (ws.foldl Flight.regWrite g).pc = g.pc ∧ (ws.foldl Flight.regWrite g).clause = g.clause ∧ (ws.foldl Flight.regWrite g).seq = g.seq ∧
    (ws.foldl Flight.regWrite g).nextIssue = g.nextIssue := by
  have h (g : Flight) (w : RegWrite) : (g.regWrite w).pc = g.pc ∧ (g.regWrite w).clause = g.clause ∧ (g.regWrite w).seq = g.seq ∧
      (g.regWrite w).nextIssue = g.nextIssue := by
    unfold Flight.regWrite
    split
    · simp
    · simp
    · split <;> simp
    · simp
    · simp
    · simp
  exact ⟨foldl_same Flight.pc _ (fun g w => (h g w).1) ws g, foldl_same Flight.clause _ (fun g w => (h g w).2.1) ws g,
    foldl_same Flight.seq _ (fun g w => (h g w).2.2.1) ws g, foldl_same Flight.nextIssue _ (fun g w => (h g w).2.2.2) ws g⟩

/-- Result of register writes only. -/
structure PureOut (o : Out) : Prop where
  flags : o.flags = 0
  cnt : o.cnt = {}
  rng : o.rng = []
  dead : o.dead = 0
  plain : Plain o.writes
  noX : NoX o.writes

theorem account_pure (g : Flight) (o : Out) (h : PureOut o) : g.account o = g := by
  unfold Flight.account
  rw [h.flags, h.cnt, h.rng]
  rfl

theorem blank_passed (d : Desc) (f : Flight) (s : State) (hsb : d.sb = none) (hm : d.mints = false) :
    blankIssue (passed d f s) = blankIssue f := by
  rw [passed_eq, hsb, hm]
  unfold Flight.advance
  split <;> rfl

theorem computes_of {run : Run} {cls st : Nat} {os : List Opnd} {part : Flight → DWord} {when_ : State → Flight → Prop}
    {V : State → Flight → Nat → Nat → Option Word} {S P : State → Flight → Nat → Option DWord}
    (D : State → Desc) (hrun : ∀ s, run s = issue (D s) s) (hcls : ∀ s, (D s).cls = cls) (hst : ∀ s, (D s).st = st)
    (hos : ∀ s, (D s).opnds = os) (hpart : ∀ s f, (D s).part f = part f) (hlat : ∀ s, ∃ n, (D s).lat = .fixed n)
    (heff : ∀ s c t, (D s).eff c t = t) (hsb : ∀ s, (D s).sb = none) (hm : ∀ s, (D s).mints = false)
    (hfit : ∀ s f, Free s f cls os (part f) → when_ s f → Fits (D s) s f)
    (hres : ∀ s f, Free s f cls os (part f) → when_ s f → PureOut ((D s).res (ctxOf f) (midState (D s) f s)) ∧
      RegsAre f (((D s).res (ctxOf f) (midState (D s) f s)).writes.foldl Flight.regWrite f) (V s f) (S s f) (P s f) noV) :
    Computes run cls st os part when_ V S P := by
  intro s f h hw
  have h' : Free s f (D s).cls (D s).opnds ((D s).part f) := by rw [hcls, hos, hpart]; exact h
  obtain ⟨n, hl⟩ := hlat s
  obtain ⟨hp, hr⟩ := hres s f h hw
  set o := (D s).res (ctxOf f) (midState (D s) f s) with ho
  set p := passed (D s) f s with hpd
  obtain ⟨pid, pkind, -, -, pstep, pfstat, pv, ps, pp, -⟩ := passed_fields (D s) f s
  have hacc : p.account o = p := account_pure p o hp
  have hg : withFixed p o n s.clock f.pc = p.deliver o.writes n s.clock f.pc := by rw [withFixed, hacc]
  obtain ⟨dblank, did, -, -, dfstat⟩ := deliver_same p o.writes n s.clock f.pc hp.plain
  have hc := commit_fixed h' n hl o rfl hp.dead hp.plain (fun g => g) (fun g _ => heff s _ _) (fun g => ⟨rfl, rfl, rfl⟩) (by
    rw [hg, dfstat, pfstat]
    split <;> exact cross_self _)
  refine ⟨(({ s with freeCtr := s.freeCtr + freeStride } : State).takeSlot f cls).setFlight (p.deliver o.writes n s.clock f.pc),
    p.deliver o.writes n s.clock f.pc, ?_, ⟨?_, ?_⟩, ?_, ?_⟩
  · rw [hrun, issue_commit h' (hfit s f h hw), hc, hg, hcls]
  · exact only_flight s f _ cls _ s.nextId (here_of h) (did.trans pid)
  · have := issued_moves (D s) f s
    rw [hst] at this
    obtain ⟨w1, w2, w3, w4⟩ := writes_place o.writes p
    exact moves_congr this w1 w2 w3 w4
  · rw [dblank, hpd, blank_passed _ _ _ (hsb s) (hm s)]
  · have hx : p.x = (f.postIncs os).x := by rw [hpd, passed_eq, ← hos s, ← counted_x (D s) f f (s.afb f)]; simp
    have := regs_after f p o.writes (V s f) (S s f) (P s f) os pv ps pp hx hp.noX hr
    exact ⟨this.v, this.s, this.p, this.x⟩

end Sys2Proof.Machine
end

