-- ==== Sys2Proof/Laws/Lanes.lean ====
section
/-! SUPPORT. Results written in lanes, and what arithmetic instructions and instructions of variable latency leave. -/

namespace Sys2Proof.Machine

open Sys2Proof

/-! ### Values written in lanes -/

theorem mem_vWrites (f : Flight) (d regs l v : Nat) (w : RegWrite) :
    w ∈ vWrites f d regs l v ↔ ∃ b, destOf f d regs l = some b ∧ ∃ i < regs, w = ⟨.v (b + i), 64 * (b + i) + l, nbits v (32 * i) 32⟩ := by
  unfold vWrites destOf
  cases okind d <;> simp [List.mem_map, eq_comm]

theorem laneWrites_regs (f : Flight) (m : DWord) (d regs : Nat) (val : Nat → Nat) :
    RegsAre f (((lanesOf m).flatMap fun l => vWrites f d regs l (val l)).foldl Flight.regWrite f) (toV f m d regs val) noS noS noV := by
  have hmem (w : RegWrite) (hw : w ∈ (lanesOf m).flatMap fun l => vWrites f d regs l (val l)) :
      ∃ l, l < 64 ∧ m.getLsbD l = true ∧ ∃ b, destOf f d regs l = some b ∧ ∃ i < regs, w = ⟨.v (b + i), 64 * (b + i) + l, nbits (val l) (32 * i) 32⟩ := by
    obtain ⟨l, hl, hw⟩ := List.mem_flatMap.1 hw
    obtain ⟨h1, h2⟩ := (mem_lanesOf m l).1 hl
    exact ⟨l, h1, h2, (mem_vWrites ..).1 hw⟩
  refine ⟨fun n l hl => ?_, fun n => ?_, fun n => ?_, fun n l hl => ?_⟩
  · unfold toV
    cases hd : destOf f d regs l with
    | none =>
      rw [rdV_writes_none _ _ _ _ hl]
      · rfl
      · intro w hw hh
        obtain ⟨k, hk, -, b, hb, i, -, rfl⟩ := hmem w hw
        have : k = l := by have := hh.2; simp only at this; omega
        subst this; rw [hd] at hb; cases hb
    | some b =>
      simp only
      by_cases hc : m.getLsbD l = true ∧ b ≤ n ∧ n < b + regs
      · obtain ⟨h1, h2, h3⟩ := hc
        rw [if_pos ⟨h1, h2, h3⟩]
        refine rdV_writes _ _ _ _ hl _ ⟨⟨.v (b + (n - b)), 64 * (b + (n - b)) + l, nbits (val l) (32 * (n - b)) 32⟩, ?_, ?_, ?_⟩ ?_
        · exact List.mem_flatMap.2 ⟨l, (mem_lanesOf m l).2 ⟨hl, h1⟩, (mem_vWrites ..).2 ⟨b, hd, n - b, by omega, rfl⟩⟩
        · simp; omega
        · simp only; omega
        · intro w hw hh
          obtain ⟨k, hk, -, b', hb, i, -, rfl⟩ := hmem w hw
          have hkl : k = l := by have := hh.2; simp only at this; omega
          subst hkl
          rw [hd] at hb; cases hb
          have hi : i = n - b := by have := hh.1; simp only [Reg.v.injEq] at this; omega
          subst hi
          simp only [nbits, Nat.shiftRight_eq_div_pow, Option.getD_some]
          apply BitVec.eq_of_toNat_eq
          simp
      · rw [if_neg hc, rdV_writes_none _ _ _ _ hl]
        · rfl
        · intro w hw hh
          obtain ⟨k, hk, hm, b', hb, i, hi, rfl⟩ := hmem w hw
          have hkl : k = l := by have := hh.2; simp only at this; omega
          subst hkl
          rw [hd] at hb; cases hb
          have := hh.1; simp only [Reg.v.injEq] at this
          exact hc ⟨hm, by omega, by omega⟩
  · rw [rdS_writes_none _ _ _ fun w hw hh => ?_]
    · rfl
    · obtain ⟨_, _, _, _, _, _, _, rfl⟩ := hmem w hw; simp at hh
  · rw [rdP_writes_none _ _ _ fun w hw hh => ?_]
    · rfl
    · obtain ⟨_, _, _, _, _, _, _, rfl⟩ := hmem w hw; simp at hh
  · rw [rdX_writes_none _ _ _ _ hl fun w hw hh => ?_]
    · rfl
    · obtain ⟨_, _, _, _, _, _, _, rfl⟩ := hmem w hw; simp at hh

theorem plain_laneWrites (f : Flight) (m : DWord) (d regs : Nat) (val : Nat → Nat) :
    Plain ((lanesOf m).flatMap fun l => vWrites f d regs l (val l)) ∧ NoX ((lanesOf m).flatMap fun l => vWrites f d regs l (val l)) := by
  constructor
  · intro w hw
    obtain ⟨l, -, hw⟩ := List.mem_flatMap.1 hw
    obtain ⟨b, -, i, -, rfl⟩ := (mem_vWrites ..).1 hw
    trivial
  · intro w hw n
    obtain ⟨l, -, hw⟩ := List.mem_flatMap.1 hw
    obtain ⟨b, -, i, -, rfl⟩ := (mem_vWrites ..).1 hw
    simp

/-- A uniform value written. -/
theorem uWrites_regs (f : Flight) (d : Nat) (v : DWord) :
    RegsAre f ((uWrites d v).foldl Flight.regWrite f) noV (toS d v) (toP d v) noV ∧ Plain (uWrites d v) ∧ NoX (uWrites d v) := by
  unfold uWrites toS toP
  cases h : okind d with
  | s n =>
    refine ⟨⟨fun m l hl => ?_, fun m => ?_, fun m => ?_, fun m l hl => ?_⟩, ?_, ?_⟩
    · simp [rdV_regWrite _ _ _ _ hl, noV]
    · simp only [List.foldl_cons, List.foldl_nil, rdS_regWrite, Reg.s.injEq, OKind.s.injEq]
      split <;> simp
    · simp [rdP_regWrite]
    · simp [rdX_regWrite _ _ _ _ hl, noV]
    · simp [Plain]
    · simp [NoX]
  | p n =>
    refine ⟨⟨fun m l hl => ?_, fun m => ?_, fun m => ?_, fun m l hl => ?_⟩, ?_, ?_⟩
    · simp [rdV_regWrite _ _ _ _ hl, noV]
    · simp [rdS_regWrite]
    · simp only [List.foldl_cons, List.foldl_nil, rdP_regWrite, Reg.p.injEq, OKind.p.injEq]
      have : ¬ (128 * n + 64) % 128 < 64 := by omega
      rw [if_neg this]
      split <;> simp
    · simp [rdX_regWrite _ _ _ _ hl, noV]
    · simp [Plain]
    · simp [NoX]
  | _ => exact ⟨⟨fun _ _ _ => rfl, fun _ => by simp, fun _ => by simp, fun _ _ _ => rfl⟩, by simp [Plain], by simp [NoX]⟩

theorem mem_maskOf (ls : List Nat) (h : ∀ l ∈ ls, l < 64) (k : Nat) : (maskOf ls).getLsbD k = decide (k ∈ ls) := by
  have key : ∀ (ls : List Nat) (a : Nat), (ls.foldl (fun a i => a ||| 2 ^ i) a).testBit k = (a.testBit k || decide (k ∈ ls)) := by
    intro ls
    induction ls with
    | nil => intro a; simp
    | cons b r ih =>
      intro a
      rw [List.foldl_cons, ih, Nat.testBit_or, Nat.testBit_two_pow]
      simp only [List.mem_cons]
      by_cases hk : k = b
      · subst hk; simp
      · simp [hk, Ne.symm hk]
  unfold maskOf
  by_cases hk : k < 64
  · rw [BitVec.getLsbD_ofNat, key]; simp [hk]
  · rw [BitVec.getLsbD_of_ge _ _ (by omega)]
    symm
    simp only [decide_eq_false_iff_not]
    intro hm
    exact hk (h k hm)

/-- Bits written to a predicate in the lanes of EXM. -/
theorem predWrites_regs (f : Flight) (c : Ctx) (hc : c.f = f) (d : Nat) (bit : Nat → Bool) :
    RegsAre f ((predWrites c d bit).foldl Flight.regWrite f) noV noS (toBits f d bit) noV ∧ Plain (predWrites c d bit) ∧ NoX (predWrites c d bit) := by
  subst hc
  unfold predWrites toBits
  cases h : okind d with
  | p n =>
    have hmem (w : RegWrite) (hw : w ∈ (lanesOf c.f.exm).map fun l => (⟨.p n, 128 * n + l, if bit l then 1 else 0⟩ : RegWrite)) :
        ∃ l, l < 64 ∧ c.f.exm.getLsbD l = true ∧ w = ⟨.p n, 128 * n + l, if bit l then 1 else 0⟩ := by
      obtain ⟨l, hl, rfl⟩ := List.mem_map.1 hw
      obtain ⟨h1, h2⟩ := (mem_lanesOf _ _).1 hl
      exact ⟨l, h1, h2, rfl⟩
    refine ⟨⟨fun m l hl => ?_, fun m => ?_, fun m => ?_, fun m l hl => ?_⟩, ?_, ?_⟩
    · rw [rdV_writes_none _ _ _ _ hl fun w hw hh => ?_]
      · rfl
      · obtain ⟨_, _, _, rfl⟩ := hmem w hw; simp at hh
    · rw [rdS_writes_none _ _ _ fun w hw hh => ?_]
      · rfl
      · obtain ⟨_, _, _, rfl⟩ := hmem w hw; simp at hh
    · by_cases hm : n = m
      · subst hm
        simp only [if_true, Option.getD_some]
        apply BitVec.eq_of_getLsbD_eq
        intro k hk
        rw [rdP_bits _ _ n k _ (bit k)]
        · rw [mem_maskOf _ (fun l hl => by simp [lanes] at hl; exact hl.1)]
          by_cases he : c.f.exm.getLsbD k = true
          · have e1 : ∃ w ∈ (lanesOf c.f.exm).map fun l => (⟨.p n, 128 * n + l, if bit l then 1 else 0⟩ : RegWrite), w.reg = .p n ∧ w.key % 128 = k := by
              refine ⟨⟨.p n, 128 * n + k, if bit k then 1 else 0⟩, List.mem_map.2 ⟨k, (mem_lanesOf _ _).2 ⟨hk, he⟩, rfl⟩, rfl, ?_⟩
              simp only; omega
            rw [if_pos e1]
            simp [lanes, hk, he]
          · have e1 : ¬ ∃ w ∈ (lanesOf c.f.exm).map fun l => (⟨.p n, 128 * n + l, if bit l then 1 else 0⟩ : RegWrite), w.reg = .p n ∧ w.key % 128 = k := by
              rintro ⟨w, hw, -, h3⟩
              obtain ⟨l, hl, hl2, rfl⟩ := hmem w hw
              have : l = k := by simp only at h3; omega
              subst this
              exact he hl2
            rw [if_neg e1]
            simp [lanes, hk]
            intro hx
            exact absurd (by rw [BitVec.getLsbD_eq_getElem hk]; exact hx) he
        · intro w hw hh
          obtain ⟨l, hl, _, rfl⟩ := hmem w hw
          have : l = k := by have := hh.2; simp only at this; omega
          subst this
          cases bit l <;> simp
        · intro w hw _
          obtain ⟨l, hl, _, rfl⟩ := hmem w hw
          simp only; omega
      · rw [rdP_writes_none _ _ _ fun w hw hh => ?_]
        · simp [hm]
        · obtain ⟨_, _, _, rfl⟩ := hmem w hw; simp only [Reg.p.injEq] at hh; exact hm hh
    · rw [rdX_writes_none _ _ _ _ hl fun w hw hh => ?_]
      · rfl
      · obtain ⟨_, _, _, rfl⟩ := hmem w hw; simp at hh
    · intro w hw; obtain ⟨_, _, _, rfl⟩ := hmem w hw; trivial
    · intro w hw m; obtain ⟨_, _, _, rfl⟩ := hmem w hw; simp
  | _ => exact ⟨⟨fun _ _ _ => rfl, fun _ => rfl, fun _ => by simp, fun _ _ _ => rfl⟩, by simp [Plain], by simp [NoX]⟩

/-! ### Instructions of variable latency -/

theorem lateOp_dests (d : Desc) (f : Flight) (s : State) (o : Out) (r : Reg) :
    r ∈ (lateOp d f s o).dests ↔ ∃ x ∈ d.opnds, r ∈ x.destList f (s.afb f) := by
  show r ∈ dedup _ ↔ _
  rw [mem_dedup, List.mem_flatMap]

/-- Registers of a flight that only moved past an instruction. -/
theorem passed_regs (d : Desc) (f : Flight) (s : State) : RegsAre f (passed d f s) noV noS noS (stepX f d.opnds) := by
  obtain ⟨-, -, -, -, -, -, pv, ps, pp, -⟩ := passed_fields d f s
  have hx : (passed d f s).x = (f.postIncs d.opnds).x := by rw [passed_eq, ← counted_x d f f (s.afb f)]; simp
  refine ⟨fun n l _ => ?_, fun n => ?_, fun n => ?_, fun n l hl => ?_⟩
  · simp [Flight.rdV, pv, noV]
  · simp [Flight.rdS, ps, noS]
  · simp [Flight.rdP, pp, noS]
  · rw [← rdX_postIncs f d.opnds n l hl]; simp [Flight.rdX, hx]

theorem computesLate_of {run : Run} {cls st : Nat} {os : List Opnd} {part : Flight → DWord} {mints : Bool} {when_ : State → Flight → Prop}
    {V : State → Flight → Nat → Nat → Option Word} {S P : State → Flight → Nat → Option DWord}
    (D : State → Desc) (hrun : ∀ s, run s = issue (D s) s) (hcls : ∀ s, (D s).cls = cls) (hst : ∀ s, (D s).st = st)
    (hos : ∀ s, (D s).opnds = os) (hpart : ∀ s f, (D s).part f = part f) (hlat : ∀ s, (D s).lat = .late)
    (heff : ∀ s c t, (D s).eff c t = t) (hsb : ∀ s, (D s).sb = none) (hm : ∀ s, (D s).mints = mints)
    (hfit : ∀ s f, Free s f cls os (part f) → when_ s f → Fits (D s) s f)
    (hres : ∀ s f, Free s f cls os (part f) → when_ s f → PureOut ((D s).res (ctxOf f) (midState (D s) f s)) ∧
      RegsAre f (((D s).res (ctxOf f) (midState (D s) f s)).writes.foldl Flight.regWrite f) (V s f) (S s f) (P s f) noV) :
    ComputesLate run cls st os part mints when_ V S P := by
  intro s f h hw
  have h' : Free s f (D s).cls (D s).opnds ((D s).part f) := by rw [hcls, hos, hpart]; exact h
  obtain ⟨hp, hr⟩ := hres s f h hw
  set o := (D s).res (ctxOf f) (midState (D s) f s) with ho
  set p := passed (D s) f s with hpd
  obtain ⟨pid, pkind, -, -, pstep, pfstat, pv, ps, pp, -, -, -, pops⟩ := passed_fields (D s) f s
  have hacc : p.account o = p := account_pure p o hp
  have hc := commit_late h' (hlat s) o rfl (fun g => g) (fun g _ => heff s _ _) (fun g => ⟨rfl, rfl, rfl⟩) (by
    rw [hacc]
    show fstatCross (Option.getD _ p.fstat) p.fstat = false
    rw [pfstat]
    split <;> exact cross_self _)
  rw [hacc] at hc
  have hpe := passed_eq (D s) f s
  refine ⟨(({ s with freeCtr := s.freeCtr + freeStride, nextId := s.nextId + 1 } : State).takeSlot f cls).setFlight (withOp p (lateOp (D s) f s o)),
    withOp p (lateOp (D s) f s o), lateOp (D s) f s o, ?_, ⟨?_, ?_⟩, ?_, ?_, ?_, ?_, ⟨?_, rfl, rfl, ⟨rfl, rfl⟩, ?_, hr, hp.dead⟩⟩
  · rw [hrun, issue_commit h' (hfit s f h hw), hc, hcls]
  · exact only_flight s f _ cls _ _ (here_of h) pid
  · have := issued_moves (D s) f s
    rw [hst] at this
    exact moves_congr this rfl rfl rfl rfl
  · show blankOps p = blankOps f
    rw [hpd, hpe]
    unfold Flight.advance
    split <;> rfl
  · show p.tokens = f.tokens
    rw [hpd, hpe, hsb]
    simp [Flight.tokensFor]
  · show p.symNext = _
    rw [hpd, hpe, hm]
    simp
  · have := passed_regs (D s) f s
    rw [hos] at this
    exact ⟨this.v, this.s, this.p, this.x⟩
  · show p.ops ++ _ = _
    rw [pops]
  · intro r
    rw [lateOp_dests, hos]

/-! ### Arithmetic -/

/-- A field written with what it holds. -/
theorem setFld_self (w : BitVec k) (lo n : Nat) : setFld w lo n (fld w lo n) = w := by
  unfold setFld fld
  have h1 : nbits w.toNat lo n < 2 ^ n := Nat.mod_lt _ (by positivity)
  have h2 : nbits w.toNat lo n * 2 ^ lo ≤ w.toNat := by
    unfold nbits
    calc (w.toNat >>> lo) % 2 ^ n * 2 ^ lo ≤ (w.toNat >>> lo) * 2 ^ lo := Nat.mul_le_mul_right _ (Nat.mod_le _ _)
      _ ≤ w.toNat := by rw [Nat.shiftRight_eq_div_pow]; exact Nat.div_mul_le_self _ _
  rw [Nat.mod_eq_of_lt h1, Nat.sub_add_cancel h2]
  simp

theorem fstatAdd_none (w : DWord) : fstatAdd w 0 {} = w := by
  have h (x : BitVec 64) (lo : Nat) : satAdd (fld x lo 12) 0 = fld x lo 12 := by
    unfold satAdd fld nbits
    have : (x.toNat >>> lo) % 2 ^ 12 < 2 ^ 12 := Nat.mod_lt _ (by positivity)
    omega
  have hs : w ||| BitVec.ofNat 64 (0 % 32) = w := by simp
  unfold fstatAdd fstatSat fstatFtz fstatNan
  simp only [hs, h, setFld_self]

/-- What a lane-wise arithmetic instruction computes. -/
theorem vfpOut_eq (c : Ctx) (d regs : Nat) (g : Nat → Nat → LaneRes) :
    (vfpOut c d regs g).writes = (lanesOf c.f.exm).flatMap (fun l => vWrites c.f d regs l (g l (c.f.rng l).toNat).bits) ∧
    (vfpOut c d regs g).flags = (lanesOf c.f.exm).foldl (fun a l => a ||| (g l (c.f.rng l).toNat).flags) 0 ∧
    (vfpOut c d regs g).cnt = (lanesOf c.f.exm).foldl (fun a l => a.add (g l (c.f.rng l).toNat).cat) {} ∧
    (vfpOut c d regs g).rng = (lanesOf c.f.exm).filterMap (fun l =>
      if (g l (c.f.rng l).toNat).st = (c.f.rng l).toNat then none else some (l, BitVec.ofNat 32 (g l (c.f.rng l).toNat).st)) ∧
    (vfpOut c d regs g).dead = 0 := by
  have key : ∀ (ls : List Nat) (o : Out),
      let r := ls.foldl (fun o l =>
        let st := (c.f.rng l).toNat
        let r := g l st
        { o with
          writes := o.writes ++ vWrites c.f d regs l r.bits
          flags := o.flags ||| r.flags
          cnt := o.cnt.add r.cat
          rng := if r.st = st then o.rng else o.rng ++ [(l, BitVec.ofNat 32 r.st)] }) o
      r.writes = o.writes ++ ls.flatMap (fun l => vWrites c.f d regs l (g l (c.f.rng l).toNat).bits) ∧
      r.flags = ls.foldl (fun a l => a ||| (g l (c.f.rng l).toNat).flags) o.flags ∧
      r.cnt = ls.foldl (fun a l => a.add (g l (c.f.rng l).toNat).cat) o.cnt ∧
      r.rng = o.rng ++ ls.filterMap (fun l =>
        if (g l (c.f.rng l).toNat).st = (c.f.rng l).toNat then none else some (l, BitVec.ofNat 32 (g l (c.f.rng l).toNat).st)) ∧
      r.dead = o.dead := by
    intro ls
    induction ls with
    | nil => intro o; simp
    | cons a r ih =>
      intro o
      simp only [List.foldl_cons]
      obtain ⟨h1, h2, h3, h4, h5⟩ := ih { o with
          writes := o.writes ++ vWrites c.f d regs a (g a (c.f.rng a).toNat).bits
          flags := o.flags ||| (g a (c.f.rng a).toNat).flags
          cnt := o.cnt.add (g a (c.f.rng a).toNat).cat
          rng := if (g a (c.f.rng a).toNat).st = (c.f.rng a).toNat then o.rng else o.rng ++ [(a, BitVec.ofNat 32 (g a (c.f.rng a).toNat).st)] }
      refine ⟨?_, h2, h3, ?_, h5⟩
      · rw [h1]; simp
      · rw [h4]
        by_cases hs : (g a (c.f.rng a).toNat).st = (c.f.rng a).toNat <;> simp [hs]
  have := key (lanesOf c.f.exm) {}
  simpa [vfpOut] using this

theorem rng_setRngs (l : List (Nat × Word)) (f : Flight) (k : Nat) (x : Word) (hx : ∀ p ∈ l, p.1 = k → p.2 = x) :
    (l.foldl (fun f p => f.setRng p.1 p.2) f).rng k = if ∃ p ∈ l, p.1 = k then x else f.rng k := by
  have h1 (f : Flight) (a : Nat) (w : Word) : (f.setRng a w).rng k = if k = a then w else f.rng k := by
    simp only [Flight.rng, Flight.setRng]
    by_cases h : k = a
    · subst h; rw [mget_mset_same, if_pos rfl]
    · rw [if_neg h, mget_mset_ne _ _ _ _ h]
  induction l generalizing f with
  | nil => simp
  | cons a r ih =>
    rw [List.foldl_cons, ih _ fun p hp => hx p (List.mem_cons_of_mem _ hp)]
    by_cases hr : ∃ p ∈ r, p.1 = k
    · obtain ⟨p, hp, hk⟩ := hr
      rw [if_pos ⟨p, hp, hk⟩, if_pos ⟨p, List.mem_cons_of_mem _ hp, hk⟩]
    · rw [if_neg hr, h1]
      by_cases ha : k = a.1
      · rw [if_pos ha, if_pos ⟨a, List.mem_cons_self .., ha.symm⟩]
        exact hx a (List.mem_cons_self ..) ha.symm
      · rw [if_neg ha, if_neg]
        rintro ⟨p, hp, hk⟩
        rcases List.mem_cons.1 hp with rfl | hp
        · exact ha hk.symm
        · exact hr ⟨p, hp, hk⟩

/-- FSTAT and generators of a flight that takes an arithmetic result. -/
theorem account_vfpOut (f p : Flight) (d regs : Nat) (g : Nat → Nat → LaneRes) (o : Out) (ho : o = vfpOut (ctxOf f) d regs g)
    (hs : p.fstat = f.fstat) (hr : p.stoch = f.stoch) :
    Accounts f (p.account o) (fun l => (g l (f.rng l).toNat).flags) (fun l => (g l (f.rng l).toNat).cat) (fun l => (g l (f.rng l).toNat).st) := by
  obtain ⟨-, h2, h3, h4, -⟩ := vfpOut_eq (ctxOf f) d regs g
  rw [← ho] at h2 h3 h4
  have hc : (ctxOf f).f = f := rfl
  rw [hc] at h2 h3 h4
  have hfst : ∀ (l : List (Nat × Word)) (g : Flight), (l.foldl (fun f p => f.setRng p.1 p.2) g).fstat = g.fstat := fun l g =>
    foldl_same Flight.fstat (fun f p => f.setRng p.1 p.2) (fun b a => rfl) l g
  constructor
  · unfold Flight.account
    dsimp only
    rw [hfst, ← h2, ← h3, ← hs]
    by_cases hz : o.flags = 0 ∧ o.cnt = {}
    · rw [if_pos hz, hz.1, hz.2, fstatAdd_none]
    · rw [if_neg hz]
  · intro l hl
    unfold Flight.account
    dsimp only
    have e : (if o.flags = 0 ∧ o.cnt = {} then p else { p with fstat := fstatAdd p.fstat o.flags o.cnt }).rng l = f.rng l := by
      split <;> simp [Flight.rng, hr]
    rw [rng_setRngs _ _ l (BitVec.ofNat 32 (g l (f.rng l).toNat).st), e, h4]
    · by_cases he : f.exm.getLsbD l = true
      · rw [if_pos he]
        split
        · rfl
        · rename_i hn
          have : (g l (f.rng l).toNat).st = (f.rng l).toNat := by
            by_contra hne
            refine hn ⟨(l, BitVec.ofNat 32 (g l (f.rng l).toNat).st), List.mem_filterMap.2 ⟨l, (mem_lanesOf _ _).2 ⟨hl, he⟩, ?_⟩, rfl⟩
            rw [if_neg hne]
          rw [this]; simp
      · rw [if_neg he, if_neg]
        rintro ⟨q, hq, rfl⟩
        obtain ⟨k, hk, hq⟩ := List.mem_filterMap.1 hq
        split at hq
        · cases hq
        · cases hq
          exact he ((mem_lanesOf _ _).1 hk).2
    · intro q hq hk
      rw [h4] at hq
      obtain ⟨j, -, hq⟩ := List.mem_filterMap.1 hq
      split at hq
      · cases hq
      · cases hq
        simp only at hk
        subst hk
        rfl

theorem accounts_congr {f g h : Flight} {fl : Nat → Nat} {ct : Nat → Cat} {gen : Nat → Nat} (a : Accounts f g fl ct gen)
    (e1 : h.fstat = g.fstat) (e2 : h.stoch = g.stoch) : Accounts f h fl ct gen :=
  ⟨e1.trans a.fstat, fun l hl => by rw [← a.rng l hl]; simp [Flight.rng, e2]⟩

theorem account_fields (g : Flight) (o : Out) : (g.account o).v = g.v ∧ (g.account o).s = g.s ∧ (g.account o).p = g.p ∧ (g.account o).x = g.x ∧
    (g.account o).pc = g.pc ∧ (g.account o).clause = g.clause ∧ (g.account o).seq = g.seq ∧ (g.account o).nextIssue = g.nextIssue ∧
    (g.account o).ops = g.ops := by
  unfold Flight.account
  dsimp only
  have h {γ : Type} (q : Flight → γ) (hq : ∀ (f : Flight) (a : Nat) (w : Word), q (f.setRng a w) = q f) (x : Flight) :
      q (o.rng.foldl (fun f p => f.setRng p.1 p.2) x) = q x := foldl_same q (fun f p => f.setRng p.1 p.2) (fun b a => hq b a.1 a.2) o.rng x
  refine ⟨?_, ?_, ?_, ?_, ?_, ?_, ?_, ?_, ?_⟩
  · rw [h Flight.v fun _ _ _ => rfl]; split <;> rfl
  · rw [h Flight.s fun _ _ _ => rfl]; split <;> rfl
  · rw [h Flight.p fun _ _ _ => rfl]; split <;> rfl
  · rw [h Flight.x fun _ _ _ => rfl]; split <;> rfl
  · rw [h Flight.pc fun _ _ _ => rfl]; split <;> rfl
  · rw [h Flight.clause fun _ _ _ => rfl]; split <;> rfl
  · rw [h Flight.seq fun _ _ _ => rfl]; split <;> rfl
  · rw [h Flight.nextIssue fun _ _ _ => rfl]; split <;> rfl
  · rw [h Flight.ops fun _ _ _ => rfl]; split <;> rfl

theorem blankMath_passed (d : Desc) (f : Flight) (s : State) (hsb : d.sb = none) (hm : d.mints = false) :
    blankMath (passed d f s) = blankMath f := congrArg (fun g : Flight => { g with fstat := 0, stoch := [] }) (blank_passed d f s hsb hm)

theorem blankMath_congr {f g : Flight} (h : blankIssue g = blankIssue f) : blankMath g = blankMath f :=
  congrArg (fun g : Flight => { g with fstat := 0, stoch := [] }) h

theorem computesMath_of {run : Run} {late : Bool} {st : Nat} {os : List Opnd} {dd regs : Nat} {when_ : State → Flight → Prop}
    {R : State → Flight → Nat → LaneRes}
    (D : State → Desc) (hrun : ∀ s, run s = issue (D s) s) (hcls : ∀ s, (D s).cls = 2) (hst : ∀ s, (D s).st = st)
    (hos : ∀ s, (D s).opnds = os) (hpart : ∀ s f, (D s).part f = f.exm) (hlat : ∀ s, if late then (D s).lat = .late else ∃ n, (D s).lat = .fixed n)
    (heff : ∀ s c t, (D s).eff c t = t) (hsb : ∀ s, (D s).sb = none) (hm : ∀ s, (D s).mints = false) (hq : ∀ s, (D s).quiet = false)
    (hfit : ∀ s f, Free s f 2 os f.exm → when_ s f → Fits (D s) s f)
    (hres : ∀ s f, Free s f 2 os f.exm → when_ s f → ∃ g, (D s).res (ctxOf f) (midState (D s) f s) = vfpOut (ctxOf f) dd regs g ∧
      ∀ l, g l (f.rng l).toNat = R s f l) :
    ComputesMath run late st os dd regs when_ R := by
  intro s f h hw hcross
  have h' : Free s f (D s).cls (D s).opnds ((D s).part f) := by rw [hcls, hos, hpart]; exact h
  obtain ⟨g, hg, hR⟩ := hres s f h hw
  obtain ⟨ow, -, -, -, od⟩ := vfpOut_eq (ctxOf f) dd regs g
  set o := (D s).res (ctxOf f) (midState (D s) f s) with ho
  rw [← hg] at ow od
  set p := passed (D s) f s with hpd
  obtain ⟨pid, pkind, -, -, pstep, pfstat, pv, ps, pp, -, -, pst, pops⟩ := passed_fields (D s) f s
  have hacc := account_vfpOut f p dd regs g o hg pfstat pst
  have e1 : (fun l => (g l (f.rng l).toNat).flags) = fun l => (R s f l).flags := by funext l; rw [hR]
  have e2 : (fun l => (g l (f.rng l).toNat).cat) = fun l => (R s f l).cat := by funext l; rw [hR]
  have e3 : (fun l => (g l (f.rng l).toNat).st) = fun l => (R s f l).st := by funext l; rw [hR]
  have e4 : o.writes = (lanesOf f.exm).flatMap fun l => vWrites f dd regs l (R s f l).bits := by
    rw [ow]
    have hc : (ctxOf f).f = f := rfl
    rw [hc]
    refine congrArg (fun (u : Nat → List RegWrite) => (lanesOf f.exm).flatMap u) (funext fun l => ?_)
    rw [hR]
  rw [e1, e2, e3] at hacc
  obtain ⟨hplain, hnoX⟩ := plain_laneWrites f f.exm dd regs fun l => (R s f l).bits
  have hregs := laneWrites_regs f f.exm dd regs fun l => (R s f l).bits
  rw [← e4] at hplain hnoX hregs
  obtain ⟨ablank, aid, -⟩ := account_same p o
  obtain ⟨av, as, ap, ax, apc, acl, aseq, anext, aops⟩ := account_fields p o
  have hx : p.x = (f.postIncs os).x := by rw [hpd, passed_eq, ← hos s, ← counted_x (D s) f f (s.afb f)]; simp
  have hmove := issued_moves (D s) f s
  rw [hst] at hmove
  have hfs : fstatCross f.fstat (p.account o).fstat = false := by rw [hacc.fstat]; exact hcross
  have pblank : blankMath p = blankMath f := blankMath_passed (D s) f s (hsb s) (hm s)
  cases late with
  | false =>
    obtain ⟨n, hl⟩ : ∃ n, (D s).lat = .fixed n := by simpa using hlat s
    obtain ⟨dblank, did, -, -, dfstat⟩ := deliver_same (p.account o) o.writes n s.clock f.pc hplain
    have hc := commit_fixed h' n hl o rfl od hplain (fun g => g) (fun g _ => heff s _ _) (fun g => ⟨rfl, rfl, rfl⟩) (by
      rw [hq]
      show fstatCross f.fstat ((p.account o).deliver o.writes n s.clock f.pc).fstat = false
      rw [dfstat]; exact hfs)
    refine ⟨(({ s with freeCtr := s.freeCtr + freeStride } : State).takeSlot f 2).setFlight ((p.account o).deliver o.writes n s.clock f.pc),
      (p.account o).deliver o.writes n s.clock f.pc, ?_, ⟨?_, ?_⟩, ?_, ?_⟩
    · rw [hrun, issue_commit h' (hfit s f h hw), hc, hcls]; rfl
    · exact only_flight s f _ 2 _ s.nextId (here_of h) (did.trans (aid.trans pid))
    · obtain ⟨w1, w2, w3, w4⟩ := writes_place o.writes (p.account o)
      exact moves_congr hmove (w1.trans apc) (w2.trans acl) (w3.trans aseq) (w4.trans anext)
    · have := congrArg Flight.stoch dblank
      exact accounts_congr hacc dfstat this
    · rw [if_neg (by simp)]
      refine ⟨(blankMath_congr dblank).trans (ablank.trans pblank), ?_⟩
      have := regs_after f (p.account o) o.writes _ _ _ os (av.trans pv) (as.trans ps) (ap.trans pp) (ax.trans hx) hnoX hregs
      exact ⟨this.v, this.s, this.p, this.x⟩
  | true =>
    have hl : (D s).lat = .late := by simpa using hlat s
    have hc := commit_late h' hl o rfl (fun g => g) (fun g _ => heff s _ _) (fun g => ⟨rfl, rfl, rfl⟩) (by
      rw [hq]; exact hfs)
    refine ⟨(({ s with freeCtr := s.freeCtr + freeStride, nextId := s.nextId + 1 } : State).takeSlot f 2).setFlight (withOp (p.account o) (lateOp (D s) f s o)),
      withOp (p.account o) (lateOp (D s) f s o), ?_, ⟨?_, ?_⟩, ?_, ?_⟩
    · rw [hrun, issue_commit h' (hfit s f h hw), hc, hcls]
    · exact only_flight s f _ 2 _ _ (here_of h) (aid.trans pid)
    · exact moves_congr hmove apc acl aseq anext
    · exact accounts_congr hacc rfl rfl
    · rw [if_pos rfl]
      refine ⟨?_, ?_, lateOp (D s) f s o, ?_, rfl, rfl, ⟨rfl, rfl⟩, ?_, hregs, od⟩
      · have : blankMath (p.account o) = blankMath f := ablank.trans pblank
        exact congrArg (fun g : Flight => { g with ops := [] }) this
      · have r := passed_regs (D s) f s
        rw [hos] at r
        refine ⟨fun n l hl => ?_, fun n => ?_, fun n => ?_, fun n l hl => ?_⟩
        · rw [← r.v n l hl]; exact congrArg (fun m => mget 0 m (64 * n + l)) av
        · rw [← r.s n]; exact congrArg (fun m => mget 0 m n) as
        · rw [← r.p n]; exact congrArg (fun m => mget 0 m n) ap
        · rw [← r.x n l hl]; exact congrArg (fun m => mget 0 m (64 * n + l)) ax
      · show (p.account o).ops ++ _ = _
        rw [aops, pops]
      · intro r
        rw [lateOp_dests, hos]

end Sys2Proof.Machine
end

