-- ==== Sys2Proof/Laws/Fits.lean ====
section
/-! SUPPORT. Instructions that ask nothing beyond `Free` but a legal word. -/

namespace Sys2Proof.Machine

open Sys2Proof

/-- A legal operand of a position without tiles names no tile. -/
theorem not_tile {f : Flight} {afb : Nat} {o : Opnd} (h : o.bad f afb = false) (hk : KTag.t ∉ o.kinds) (n : Nat) : okind o.spec ≠ .t n := by
  intro e
  simp [Opnd.bad, e, OKind.tag, hk] at h

/-- No tile is written, so none is waited for (R332). -/
theorem tileClash_none {s : State} {f : Flight} {d : Desc} (h : Free s f d.cls d.opnds (d.part f)) (hk : ∀ o ∈ d.opnds, KTag.t ∉ o.kinds) :
    d.tileClash f = false := by
  unfold Desc.tileClash
  rw [List.any_eq_false]
  intro o ho
  have := not_tile (h.legal o ho) (hk o ho)
  cases e : okind o.spec <;> simp_all

/-- Kinds of the positions of classes SCALAR, VINT, VFP and AFF. -/
def NoTile (os : List Opnd) : Prop := ∀ o ∈ os, KTag.t ∉ o.kinds

/-- A description whose checks are those of its word and its operands. -/
structure Simple (d : Desc) : Prop where
  last : d.transfer = false
  scope : d.scopeBad = false
  code : d.codeBad = false
  ordered : d.ordered = false
  queue : d.dkind ≠ .empty
  mem : ∀ k, d.dkind ≠ .mem k
  region : d.region = false
  whole : d.collective = false
  tiled : d.tiled = false
  token : d.sb = none
  pre : ∀ c s, d.pre c s = .go
  room : ∀ c s, d.room c s = .go

theorem fits_simple {d : Desc} {s : State} {f : Flight} (i : Simple d) (h : Free s f d.cls d.opnds (d.part f)) (henc : d.encBad = false)
    (ht : NoTile d.opnds) (h02 : d.chk02 (ctxOf f) s = none) (h07 : d.chk07 (ctxOf f) s = false) (hp : d.chkPriv (ctxOf f) s = none)
    (hm : mintTrap d f = none) : Fits d s f where
  last := by simp [i.last]
  enc := henc
  scope := i.scope
  code := i.code
  fence := by simp [i.ordered]
  tile := tileClash_none h ht
  queue := by
    have h1 := i.queue
    have h2 := i.mem
    cases e : d.dkind <;> simp_all
  chk02 := h02
  region := by simp [regionTrap, i.region]
  whole := by simp [i.whole]
  chk07 := by simp [i.tiled, h07]
  priv := hp
  mint := hm
  pre := i.pre _ _
  token := by simp [i.token]
  room := i.room _ _

/-! ### Operand lists without tiles -/

theorem noTile_nil : NoTile [] := by intro o ho; cases ho
theorem noTile_cons {o : Opnd} {b : List Opnd} (h : KTag.t ∉ o.kinds) (h' : NoTile b) : NoTile (o :: b) := by
  intro p hp
  rcases List.mem_cons.1 hp with rfl | h1
  · exact h
  · exact h' p h1
theorem noTile_append {a b : List Opnd} (h : NoTile a) (h' : NoTile b) : NoTile (a ++ b) := by
  intro o ho
  rcases List.mem_append.1 ho with h1 | h1
  · exact h o h1
  · exact h' o h1
theorem noTile_srcB {k : List KTag} (b : BSrc) (r : Nat) (h : KTag.t ∉ k) : NoTile (srcB b k r) := by
  intro o ho
  unfold srcB at ho
  cases b
  · simp only [src, List.mem_singleton] at ho
    subst ho
    exact h
  · cases ho

theorem opB_eq (x : Fields) (k : List KTag) (r : Nat) : opB x k r = srcB x.b k r := by
  unfold opB srcB; cases x.b <;> rfl

/-! ### Uniform results and lane results -/

theorem uniform_of {run : Run} {x : Fields} {os os' : List Opnd} {val : State → Flight → DWord} {bad : Bool} {n cls : Nat} {v : Ctx → DWord}
    (hrun : ∀ s, run s = issue { scalarDesc x bad os' (.fixed n) v with cls := cls } s) (hos : os' = os) (hb : bad = false)
    (hc : cls ≠ 3 ∧ cls ≠ 6) (ht : NoTile os) (hv : ∀ s f, v (ctxOf f) = val s f) : Uniform run cls x os val := by
  subst hos
  refine computes_of (fun _ => { scalarDesc x bad os' (.fixed n) v with cls := cls }) hrun (fun _ => rfl) (fun _ => rfl) (fun _ => rfl)
    (fun _ _ => rfl) (fun _ => ⟨n, rfl⟩) (fun _ _ _ => rfl) (fun _ => rfl) (fun _ => rfl) ?_ ?_
  · intro s f h _
    exact fits_simple ⟨rfl, rfl, rfl, by simp [Desc.ordered, hc, scalarDesc], by simp [scalarDesc], by simp [scalarDesc], rfl, rfl, rfl, rfl,
      fun _ _ => rfl, fun _ _ => rfl⟩ h hb ht rfl rfl rfl rfl
  · intro s f h _
    obtain ⟨h1, h2, h3⟩ := uWrites_regs f x.d (val s f)
    show PureOut { writes := uWrites x.d (v (ctxOf f)) } ∧ RegsAre f ((uWrites x.d (v (ctxOf f))).foldl Flight.regWrite f) _ _ _ _
    rw [hv s f]
    exact ⟨⟨rfl, rfl, rfl, rfl, h2, h3⟩, h1⟩

theorem lanes_of {run : Run} {x : Fields} {os os' : List Opnd} {val : Flight → Nat → Nat} {bad : Bool} {regs : Nat} {v : Ctx → Nat → Nat}
    (hrun : ∀ s, run s = issue (vintDesc x bad os' regs v) s) (hos : os' = os) (hb : bad = false) (ht : NoTile os)
    (hv : ∀ f l, v (ctxOf f) l = val f l) : Lanes run x os regs val := by
  subst hos
  refine computes_of (fun _ => vintDesc x bad os' regs v) hrun (fun _ => rfl) (fun _ => rfl) (fun _ => rfl) (fun _ _ => rfl)
    (fun _ => ⟨4, rfl⟩) (fun _ _ _ => rfl) (fun _ => rfl) (fun _ => rfl) ?_ ?_
  · intro s f h _
    exact fits_simple ⟨rfl, rfl, rfl, rfl, by simp [vintDesc], by simp [vintDesc], rfl, rfl, rfl, rfl, fun _ _ => rfl, fun _ _ => rfl⟩ h hb ht rfl rfl rfl rfl
  · intro s f h _
    have e : v (ctxOf f) = val f := funext fun l => hv f l
    show PureOut { writes := laneWrites (ctxOf f) x.d regs (v (ctxOf f)) } ∧
      RegsAre f ((laneWrites (ctxOf f) x.d regs (v (ctxOf f))).foldl Flight.regWrite f) _ _ _ _
    rw [e]
    obtain ⟨h2, h3⟩ := plain_laneWrites f f.exm x.d regs (val f)
    exact ⟨⟨rfl, rfl, rfl, rfl, h2, h3⟩, laneWrites_regs f f.exm x.d regs (val f)⟩

/-! ### An effect on the state past the instruction -/

theorem afterResults_quiet {s : State} {n pc : Nat} {old : Option DWord}
    (h : ∀ g, s.flight? n = some g → g.trap.isSome ∨ g.isEnded ∨ (g.step = false ∧ fstatCross (old.getD g.fstat) g.fstat = false)) :
    s.afterResults n pc old = s := by
  unfold State.afterResults
  cases e : s.flight? n with
  | none => rfl
  | some g =>
    rcases h g e with h1 | h1 | ⟨h1, h2⟩
    · simp [h1]
    · simp [h1]
    · simp only [h1, h2, Bool.false_eq_true, if_false]
      split <;> rfl

theorem acts_of {run : Run} {cls st : Nat} {os : List Opnd} {part : Flight → DWord} {when_ : State → Flight → Prop}
    {u : State → Flight → State → State}
    (D : State → Desc) (hrun : ∀ s, run s = issue (D s) s) (hcls : ∀ s, (D s).cls = cls) (hst : ∀ s, (D s).st = st)
    (hos : ∀ s, (D s).opnds = os) (hpart : ∀ s f, (D s).part f = part f) (hlat : ∀ s, (D s).lat = .none)
    (hres : ∀ s c t, (D s).res c t = {}) (hsb : ∀ s, (D s).sb = none) (hm : ∀ s, (D s).mints = false)
    (hfit : ∀ s f, Free s f cls os (part f) → when_ s f → Fits (D s) s f)
    (heff : ∀ s f, Free s f cls os (part f) → when_ s f → (D s).eff (ctxOf f) (midState (D s) f s) = u s f (midState (D s) f s))
    (hext : ∀ s f, Free s f cls os (part f) → when_ s f → (D s).fromLeader = false ∨ (u s f (midState (D s) f s)).partner f = none)
    (hafter : ∀ s f, Free s f cls os (part f) → when_ s f → ∀ g, (u s f (midState (D s) f s)).flight? f.id = some g →
      g.trap.isSome ∨ g.isEnded ∨ (g.step = false ∧ fstatCross ((if (D s).quiet then none else some f.fstat).getD g.fstat) g.fstat = false)) :
    Acts run cls st os part when_ u := by
  intro s f h hw
  have h' : Free s f (D s).cls (D s).opnds ((D s).part f) := by rw [hcls, hos, hpart]; exact h
  obtain ⟨pid, -⟩ := passed_fields (D s) f s
  have he : effOf (D s) f s = u s f (midState (D s) f s) := by
    unfold effOf
    rw [heff s f h hw]
    split
    · rename_i hs
      refine giveNothing_alone _ _ _ ((hext s f h hw).resolve_left ?_)
      simp [Desc.fromLeader, hs]
    · rfl
  refine ⟨midState (D s) f s, passed (D s) f s, ?_, ⟨?_, ?_⟩, ?_, ?_⟩
  · rw [hrun, issue_commit h' (hfit s f h hw), commit_eff h' (hlat s) (hres s _ _), he,
      passShadow_none ((hext s f h hw).imp id fun e => ⟨e, h.unpaired⟩), afterResults_quiet (hafter s f h hw)]
  · exact only_flight s f _ (D s).cls _ s.nextId (here_of h) pid
  · have := issued_moves (D s) f s
    rw [hst] at this
    exact this
  · exact blank_passed _ _ _ (hsb s) (hm s)
  · have := passed_regs (D s) f s
    rw [hos] at this
    exact this

/-- An effect that changes only a flight in ways no trap watches. -/
theorem acts_flight {run : Run} {cls st : Nat} {os : List Opnd} {part : Flight → DWord} {when_ : State → Flight → Prop}
    {u : State → Flight → Flight → Flight}
    (D : State → Desc) (hrun : ∀ s, run s = issue (D s) s) (hcls : ∀ s, (D s).cls = cls) (hst : ∀ s, (D s).st = st)
    (hos : ∀ s, (D s).opnds = os) (hpart : ∀ s f, (D s).part f = part f) (hlat : ∀ s, (D s).lat = .none)
    (hres : ∀ s c t, (D s).res c t = {}) (hsb : ∀ s, (D s).sb = none) (hm : ∀ s, (D s).mints = false) (hext : ∀ s, (D s).fromLeader = false)
    (hfit : ∀ s f, Free s f cls os (part f) → when_ s f → Fits (D s) s f)
    (heff : ∀ s f, Free s f cls os (part f) → when_ s f →
      (D s).eff (ctxOf f) (midState (D s) f s) = (midState (D s) f s).updFlight f.id (u s f))
    (hu : ∀ s f g, Free s f cls os (part f) → when_ s f → blankIssue g = blankIssue f → (u s f g).id = g.id ∧ (u s f g).step = g.step ∧
      fstatCross ((if (D s).quiet then none else some f.fstat).getD (u s f g).fstat) (u s f g).fstat = false) :
    Acts run cls st os part when_ fun s f t => t.updFlight f.id (u s f) := by
  refine acts_of D hrun hcls hst hos hpart hlat hres hsb hm hfit heff (fun s _ _ _ => .inl (hext s)) ?_
  intro s f h hw g hg
  obtain ⟨pid, -, -, -, pstep, -⟩ := passed_fields (D s) f s
  have hb := blank_passed (D s) f s (hsb s) (hm s)
  obtain ⟨h1, h2, h3⟩ := hu s f (passed (D s) f s) h hw hb
  have hm' := mid_here (d := D s) (here_of h)
  rw [State.updFlight_eq _ _ _ _ hm', State.flight?_setFlight, h1, pid, if_pos rfl, hm'] at hg
  simp only [Option.map_some, Option.some.injEq] at hg
  subst hg
  exact .inr (.inr ⟨h2.trans (pstep.trans h.step), h3⟩)

end Sys2Proof.Machine
end

