-- ==== Sys2Proof/Laws/PerInstr.lean ====
section
/-! SUPPORT. Encoding and decoding: the fields of an encoded word read back, and for every instruction that decoding its encoded words gives
it back with the words after it. -/

namespace Sys2Proof

/-! ### Fields of a concatenation -/

theorem extract_append_high {m n k : Nat} (x : BitVec m) (y : BitVec n) (j : Nat) (h : n ≤ j) :
    (x ++ y).extractLsb' j k = x.extractLsb' (j - n) k := by
  apply BitVec.eq_of_getLsbD_eq
  intro i hi
  simp [BitVec.getLsbD_append, show ¬ (j + i < n) by omega, hi, show j + i - n = j - n + i by omega]

theorem extract_append_low {m n k : Nat} (x : BitVec m) (y : BitVec n) (j : Nat) (h : j + k ≤ n) :
    (x ++ y).extractLsb' j k = y.extractLsb' j k := by
  apply BitVec.eq_of_getLsbD_eq
  intro i hi
  simp [BitVec.getLsbD_append, show j + i < n by omega, hi]

theorem extract_whole {n : Nat} (x : BitVec n) : x.extractLsb' 0 n = x := by
  apply BitVec.eq_of_getLsbD_eq
  intro i hi
  simp [hi]

/-! ### Layouts read back -/

theorem decode_encShort (cls : Nat) (op : BitVec 6) (o : ShortOps) (rest : List Word) :
    ∃ w, encShort op o = [w] ∧ opOf w = op.toNat ∧ shortOps w = o ∧ decode cls (encShort op o ++ rest) = decodeShort cls w rest := by
  refine ⟨_, rfl, ?_, ?_, ?_⟩
  · unfold opOf
    simp (disch := omega) only [extract_append_high, extract_append_low, extract_whole, -Nat.reduceAdd, Nat.sub_self]
  · unfold shortOps
    simp (disch := omega) only [extract_append_high, extract_append_low, extract_whole, -Nat.reduceAdd, Nat.sub_self]
  · have h : (o.cc ++ o.st ++ o.b ++ o.a ++ o.d ++ op ++ 0#1).extractLsb' 0 1 = 0#1 := by
      simp (disch := omega) only [extract_append_low, extract_whole, -Nat.reduceAdd]
    simp only [encShort, List.cons_append, List.nil_append, decode]
    rw [if_neg (by rw [h]; decide)]

theorem decode_encImm (cls : Nat) (op : BitVec 6) (o : ImmOps) (rest : List Word) :
    ∃ w, encImm op o = [w] ∧ opOf w = op.toNat ∧ immOps w = o ∧ decode cls (encImm op o ++ rest) = decodeShort cls w rest := by
  refine ⟨_, rfl, ?_, ?_, ?_⟩
  · unfold opOf
    simp (disch := omega) only [extract_append_high, extract_append_low, extract_whole, -Nat.reduceAdd, Nat.sub_self]
  · unfold immOps
    simp (disch := omega) only [extract_append_high, extract_append_low, extract_whole, -Nat.reduceAdd, Nat.sub_self]
  · have h : (o.cc ++ o.st ++ o.imm ++ o.a ++ o.d ++ op ++ 0#1).extractLsb' 0 1 = 0#1 := by
      simp (disch := omega) only [extract_append_low, extract_whole, -Nat.reduceAdd]
    simp only [encImm, List.cons_append, List.nil_append, decode]
    rw [if_neg (by rw [h]; decide)]

/-- Word 0 of a long instruction. -/
theorem encWord0_fields (x : BitVec 1) (cc : BitVec 2) (st : BitVec 4) (a d : BitVec 9) (op : BitVec 6) :
    (encWord0 x cc st a d op).extractLsb' 0 1 = 1#1 ∧ opOf (encWord0 x cc st a d op) = op.toNat
      ∧ (encWord0 x cc st a d op).extractLsb' 31 1 = x ∧ (encWord0 x cc st a d op).extractLsb' 29 2 = cc
      ∧ (encWord0 x cc st a d op).extractLsb' 25 4 = st ∧ (encWord0 x cc st a d op).extractLsb' 16 9 = a
      ∧ (encWord0 x cc st a d op).extractLsb' 7 9 = d := by
  unfold encWord0 opOf
  refine ⟨?_, ?_, ?_, ?_, ?_, ?_, ?_⟩ <;>
    simp (disch := omega) only [extract_append_high, extract_append_low, extract_whole, -Nat.reduceAdd, Nat.sub_self]

theorem decode_two (cls : Nat) (w0 w1 : Word) (rest : List Word) (h : w0.extractLsb' 0 1 = 1#1) :
    decode cls ([w0, w1] ++ rest) = decodeLong cls w0 w1 rest := by
  simp only [List.cons_append, List.nil_append, decode]
  rw [if_pos h]

theorem decode_encLong (cls : Nat) (op : BitVec 6) (o : LongOps) (rest : List Word) :
    ∃ w0 w1, encLong op o = [w0, w1] ∧ opOf w0 = op.toNat ∧ longOps w0 w1 = o
      ∧ decode cls (encLong op o ++ rest) = decodeLong cls w0 w1 rest := by
  obtain ⟨cc, st, a, d, w1⟩ := o
  cases w1 with
  | lr resv mod fs rm c b =>
    obtain ⟨h0, hop, hx, hcc, hst, ha, hd⟩ := encWord0_fields 0#1 cc st a d op
    refine ⟨_, _, rfl, hop, ?_, decode_two _ _ _ _ h0⟩
    unfold longOps
    rw [hcc, hst, ha, hd, hx, if_neg (by decide)]
    simp (disch := omega) only [extract_append_high, extract_append_low, extract_whole, -Nat.reduceAdd, Nat.sub_self]
  | li imm =>
    obtain ⟨h0, hop, hx, hcc, hst, ha, hd⟩ := encWord0_fields 1#1 cc st a d op
    refine ⟨_, _, rfl, hop, ?_, decode_two _ _ _ _ h0⟩
    unfold longOps
    rw [hcc, hst, ha, hd, hx, if_pos rfl]

theorem decode_encMem (cls : Nat) (op : BitVec 6) (o : MemOps) (rest : List Word) :
    ∃ w0 w1, encMem op o = [w0, w1] ∧ opOf w0 = op.toNat ∧ memOps w0 w1 = o ∧ w0.extractLsb' 31 1 = 0#1
      ∧ decode cls (encMem op o ++ rest) = decodeLong cls w0 w1 rest := by
  obtain ⟨h0, hop, hx, hcc, hst, ha, hd⟩ := encWord0_fields 0#1 o.cc o.ty o.a o.d op
  refine ⟨_, _, rfl, hop, ?_, hx, decode_two _ _ _ _ h0⟩
  unfold memOps
  rw [hcc, hst, ha, hd]
  simp (disch := omega) only [extract_append_high, extract_append_low, extract_whole, -Nat.reduceAdd, Nat.sub_self]

theorem decode_encMat (cls : Nat) (op : BitVec 6) (o : MatOps) (rest : List Word) :
    ∃ w0 w1, encMat op o = [w0, w1] ∧ opOf w0 = op.toNat ∧ matOps w0 w1 = o ∧ w0.extractLsb' 31 1 = 0#1
      ∧ decode cls (encMat op o ++ rest) = decodeLong cls w0 w1 rest := by
  obtain ⟨h0, hop, hx, hcc, hst, ha, hd⟩ := encWord0_fields 0#1 o.cc o.st o.a o.d op
  refine ⟨_, _, rfl, hop, ?_, hx, decode_two _ _ _ _ h0⟩
  unfold matOps
  rw [hcc, hst, ha, hd]
  simp (disch := omega) only [extract_append_high, extract_append_low, extract_whole, -Nat.reduceAdd, Nat.sub_self]

theorem decode_encSync (cls : Nat) (op : BitVec 6) (o : SyncOps) (rest : List Word) :
    ∃ w0 w1, encSync op o = [w0, w1] ∧ opOf w0 = op.toNat ∧ syncOps w0 w1 = o ∧ w0.extractLsb' 31 1 = 0#1
      ∧ decode cls (encSync op o ++ rest) = decodeLong cls w0 w1 rest := by
  obtain ⟨h0, hop, hx, hcc, hst, ha, hd⟩ := encWord0_fields 0#1 o.cc o.st o.a o.d op
  refine ⟨_, _, rfl, hop, ?_, hx, decode_two _ _ _ _ h0⟩
  unfold syncOps
  rw [hcc, hst, ha, hd]
  simp (disch := omega) only [extract_append_high, extract_append_low, extract_whole, -Nat.reduceAdd, Nat.sub_self]

theorem decode_encCtl (cls : Nat) (op : BitVec 6) (o : CtlOps) (rest : List Word) :
    ∃ w0 w1, encCtl op o = [w0, w1] ∧ opOf w0 = op.toNat ∧ ctlOps w0 w1 = o ∧ w0.extractLsb' 31 1 = 0#1
      ∧ decode cls (encCtl op o ++ rest) = decodeLong cls w0 w1 rest := by
  obtain ⟨h0, hop, hx, hcc, hst, ha, hd⟩ := encWord0_fields 0#1 o.cc o.st o.a o.d op
  refine ⟨_, _, rfl, hop, ?_, hx, decode_two _ _ _ _ h0⟩
  unfold ctlOps
  rw [hcc, hst, ha, hd]
  simp (disch := omega) only [extract_append_high, extract_append_low, extract_whole, -Nat.reduceAdd, Nat.sub_self]

theorem decode_encBr (cls : Nat) (op : BitVec 6) (o : BrOps) (rest : List Word) :
    ∃ w0 w1, encBr op o = [w0, w1] ∧ opOf w0 = op.toNat ∧ brOps w0 w1 = o ∧ w0.extractLsb' 31 1 = 1#1
      ∧ decode cls (encBr op o ++ rest) = decodeLong cls w0 w1 rest := by
  obtain ⟨h0, hop, hx, hcc, hst, ha, hd⟩ := encWord0_fields 1#1 o.cc o.st o.a o.d op
  refine ⟨_, _, rfl, hop, ?_, hx, decode_two _ _ _ _ h0⟩
  unfold brOps
  rw [hcc, hst, ha, hd]
  simp (disch := omega) only [extract_append_high, extract_append_low, extract_whole, -Nat.reduceAdd, Nat.sub_self]

namespace Laws.Enc

/-- Decoding the encoded words of an instruction in a clause of its class gives it back, and leaves the words that follow. -/
def Statement (i : Instr) : Prop :=
  ∀ c, classOf i = some c → ∀ rest, decode c (encode i ++ rest) = .ok i rest

theorem moduleReset : Statement (.moduleReset) := fun _ h => nomatch h
theorem dieReset (d : Nat) : Statement (.dieReset d) := fun _ h => nomatch h
theorem patrolScrubRead (sector : Nat) (found : EccFinding) : Statement (.patrolScrubRead sector found) := fun _ h => nomatch h
theorem frameSuspectReport (frame : Nat) : Statement (.frameSuspectReport frame) := fun _ h => nomatch h
theorem arsWrite (n w : Nat) (v : BitVec 64) : Statement (.arsWrite n w v) := fun _ h => nomatch h
theorem arsCommit (v : BitVec 64) : Statement (.arsCommit v) := fun _ h => nomatch h
theorem arsCommitSwitch : Statement (.arsCommitSwitch) := fun _ h => nomatch h
theorem retire : Statement (.retire) := fun _ h => nomatch h
theorem migrate : Statement (.migrate) := fun _ h => nomatch h
theorem migrateHoldClear (n : Nat) : Statement (.migrateHoldClear n) := fun _ h => nomatch h
theorem clearbad : Statement (.clearbad) := fun _ h => nomatch h
theorem attest : Statement (.attest) := fun _ h => nomatch h
theorem debugtoken : Statement (.debugtoken) := fun _ h => nomatch h
theorem readbad : Statement (.readbad) := fun _ h => nomatch h
theorem mgmtUnknownCommand (op : BitVec 8) : Statement (.mgmtUnknownCommand op) := fun _ h => nomatch h
theorem mgmtargWrite (k : Nat) (v : BitVec 64) : Statement (.mgmtargWrite k v) := fun _ h => nomatch h
theorem zrValidate (asid n : Nat) (v : BitVec 64) : Statement (.zrValidate asid n v) := fun _ h => nomatch h
theorem zrRetire (asid n : Nat) (v : BitVec 64) : Statement (.zrRetire asid n v) := fun _ h => nomatch h
theorem zrRetireDone (asid n : Nat) : Statement (.zrRetireDone asid n) := fun _ h => nomatch h
theorem blockViewAccess (f op lane : Nat) : Statement (.blockViewAccess f op lane) := fun _ h => nomatch h
theorem blockDecodeDone (asid zr blk : Nat) : Statement (.blockDecodeDone asid zr blk) := fun _ h => nomatch h
theorem blockEvictChosen (asid zr blk : Nat) : Statement (.blockEvictChosen asid zr blk) := fun _ h => nomatch h
theorem encode (asid zr blk : Nat) : Statement (.encode asid zr blk) := fun _ h => nomatch h
theorem performRead (f op lane : Nat) : Statement (.performRead f op lane) := fun _ h => nomatch h
theorem performWrite (f op lane : Nat) : Statement (.performWrite f op lane) := fun _ h => nomatch h
theorem drain (f w : Nat) : Statement (.drain f w) := fun _ h => nomatch h
theorem deliver (d w : Nat) : Statement (.deliver d w) := fun _ h => nomatch h
theorem evict (far : Bool) (unit line : Nat) : Statement (.evict far unit line) := fun _ h => nomatch h
theorem l2Evict (line : Nat) : Statement (.l2Evict line) := fun _ h => nomatch h
theorem l2FillArrive (line : Nat) : Statement (.l2FillArrive line) := fun _ h => nomatch h
theorem atomicStep (f op lane : Nat) : Statement (.atomicStep f op lane) := fun _ h => nomatch h
theorem tileStep (f op : Nat) : Statement (.tileStep f op) := fun _ h => nomatch h
theorem own (c line : Nat) : Statement (.own c line) := fun _ h => nomatch h
theorem writeLine (c line : Nat) : Statement (.writeLine c line) := fun _ h => nomatch h
theorem releaseLine (c line : Nat) : Statement (.releaseLine c line) := fun _ h => nomatch h
theorem peerProbe (f op lane : Nat) : Statement (.peerProbe f op lane) := fun _ h => nomatch h
theorem walkComplete (d asid frame : Nat) : Statement (.walkComplete d asid frame) := fun _ h => nomatch h
theorem tlbiVaRange (v : BitVec 64) : Statement (.tlbiVaRange v) := fun _ h => nomatch h
theorem tlbiAsid (v : BitVec 64) : Statement (.tlbiAsid v) := fun _ h => nomatch h
theorem tlbiAll (v : BitVec 64) : Statement (.tlbiAll v) := fun _ h => nomatch h
theorem tlbiPaRange (v : BitVec 64) : Statement (.tlbiPaRange v) := fun _ h => nomatch h
theorem tlbiaddrWrite (v : BitVec 64) : Statement (.tlbiaddrWrite v) := fun _ h => nomatch h
theorem tlbiDieAck (d : Nat) : Statement (.tlbiDieAck d) := fun _ h => nomatch h
theorem frmapWrite (n : Nat) (v : BitVec 64) : Statement (.frmapWrite n v) := fun _ h => nomatch h
theorem flcfgWrite (d : Nat) (v : BitVec 64) : Statement (.flcfgWrite d v) := fun _ h => nomatch h
theorem flcfgChangeDone (d : Nat) : Statement (.flcfgChangeDone d) := fun _ h => nomatch h
theorem tbcfgWrite (d n : Nat) (v : BitVec 64) : Statement (.tbcfgWrite d n v) := fun _ h => nomatch h
theorem bucketRefill : Statement (.bucketRefill) := fun _ h => nomatch h
theorem copyTake (core : Nat) : Statement (.copyTake core) := fun _ h => nomatch h
theorem copyBegin (c : Nat) : Statement (.copyBegin c) := fun _ h => nomatch h
theorem copySourceRead (c sector : Nat) : Statement (.copySourceRead c sector) := fun _ h => nomatch h
theorem copyChunkSet (c i : Nat) : Statement (.copyChunkSet c i) := fun _ h => nomatch h
theorem copyComplete (c : Nat) : Statement (.copyComplete c) := fun _ h => nomatch h
theorem workgroupRelease (w : Nat) : Statement (.workgroupRelease w) := fun _ h => nomatch h
theorem resultLand (f op : Nat) : Statement (.resultLand f op) := fun _ h => nomatch h
theorem residualEntryRun (f i : Nat) : Statement (.residualEntryRun f i) := fun _ h => nomatch h
theorem residualCapacityTrap (f : Nat) : Statement (.residualCapacityTrap f) := fun _ h => nomatch h
theorem mmaReadback (f op : Nat) : Statement (.mmaReadback f op) := fun _ h => nomatch h
theorem matrixArrayWake (d : Nat) : Statement (.matrixArrayWake d) := fun _ h => nomatch h
theorem matrixArrayIdle (core part : Nat) : Statement (.matrixArrayIdle core part) := fun _ h => nomatch h
theorem clauseHeaderIssue : Statement (.clauseHeaderIssue) := fun _ h => nomatch h
theorem qcfgWrite (q : Nat) (v : BitVec 64) : Statement (.qcfgWrite q v) := fun _ h => nomatch h
theorem qtailWrite (q : Nat) (tail : BitVec 32) : Statement (.qtailWrite q tail) := fun _ h => nomatch h
theorem qownWrite (q : Nat) (v : BitVec 64) : Statement (.qownWrite q v) := fun _ h => nomatch h
theorem queueTake (q : Nat) : Statement (.queueTake q) := fun _ h => nomatch h
theorem launchAdmit (p : Nat) : Statement (.launchAdmit p) := fun _ h => nomatch h
theorem workgroupPlace (l : Nat) (cores : List Nat) : Statement (.workgroupPlace l cores) := fun _ h => nomatch h
theorem launchComplete (l : Nat) : Statement (.launchComplete l) := fun _ h => nomatch h
theorem lnchRecordCopy (f op : Nat) : Statement (.lnchRecordCopy f op) := fun _ h => nomatch h
theorem flightSwapIn (core part : Nat) : Statement (.flightSwapIn core part) := fun _ h => nomatch h
theorem flightSwapOutTimeout (f : Nat) : Statement (.flightSwapOutTimeout f) := fun _ h => nomatch h
theorem pendingAgeExpiry (f : Nat) : Statement (.pendingAgeExpiry f) := fun _ h => nomatch h
theorem evictionDecision (l core : Nat) : Statement (.evictionDecision l core) := fun _ h => nomatch h
theorem flightEvict (f : Nat) : Statement (.flightEvict f) := fun _ h => nomatch h
theorem flightReturn (f core : Nat) : Statement (.flightReturn f core) := fun _ h => nomatch h
theorem handlerRunStart (f : Nat) : Statement (.handlerRunStart f) := fun _ h => nomatch h
theorem defaultHandlerAction (f : Nat) : Statement (.defaultHandlerAction f) := fun _ h => nomatch h
theorem poisonRefusal (f : Nat) : Statement (.poisonRefusal f) := fun _ h => nomatch h
theorem watchdogExpiry (f : Nat) : Statement (.watchdogExpiry f) := fun _ h => nomatch h
theorem debugStop (f : Nat) : Statement (.debugStop f) := fun _ h => nomatch h
theorem debugStopComplete (f : Nat) : Statement (.debugStopComplete f) := fun _ h => nomatch h
theorem debugRead (f : Nat) (sel : BitVec 64) : Statement (.debugRead f sel) := fun _ h => nomatch h
theorem debugWrite (f : Nat) (sel v : BitVec 64) : Statement (.debugWrite f sel v) := fun _ h => nomatch h
theorem debugResume (f mode : Nat) (pc : BitVec 64) : Statement (.debugResume f mode pc) := fun _ h => nomatch h
theorem debugSetStep (f : Nat) (on : Bool) : Statement (.debugSetStep f on) := fun _ h => nomatch h
theorem hdropWrite (q : Nat) : Statement (.hdropWrite q) := fun _ h => nomatch h
theorem tbparkWrite (d k n : Nat) : Statement (.tbparkWrite d k n) := fun _ h => nomatch h
theorem hostRead (fn barNo off n : Nat) : Statement (.hostRead fn barNo off n) := fun _ h => nomatch h
theorem hostWrite (fn barNo off : Nat) (bytes : List (BitVec 8)) : Statement (.hostWrite fn barNo off bytes) := fun _ h => nomatch h
theorem atsInvalidation (fn page count : Nat) : Statement (.atsInvalidation fn page count) := fun _ h => nomatch h
theorem flitReceive (port vc : Nat) (crcOk : Bool) : Statement (.flitReceive port vc crcOk) := fun _ h => nomatch h
theorem peerAccess (port : Nat) (kind : PeerKind) (pa : Nat) (bytes : List (BitVec 8)) : Statement (.peerAccess port kind pa bytes) := fun _ h => nomatch h
theorem linkDown (port : Nat) : Statement (.linkDown port) := fun _ h => nomatch h
theorem keySlotLoad (slot tenant : Nat) (key : BitVec 256) : Statement (.keySlotLoad slot tenant key) := fun _ h => nomatch h
theorem telemetrySample (power : List Nat) : Statement (.telemetrySample power) := fun _ h => nomatch h
theorem reportWrite : Statement (.reportWrite) := fun _ h => nomatch h
theorem repcfgWrite (v : BitVec 64) : Statement (.repcfgWrite v) := fun _ h => nomatch h
theorem pwrctlSleep : Statement (.pwrctlSleep) := fun _ h => nomatch h
theorem pwrctlPark (v : BitVec 64) : Statement (.pwrctlPark v) := fun _ h => nomatch h
theorem diePark (d : Nat) : Statement (.diePark d) := fun _ h => nomatch h
theorem idleEntry : Statement (.idleEntry) := fun _ h => nomatch h
theorem moduleWake : Statement (.moduleWake) := fun _ h => nomatch h
theorem recoveryGo : Statement (.recoveryGo) := fun _ h => nomatch h
theorem registerWrite (off half : Nat) (v : BitVec 64) : Statement (.registerWrite off half v) := fun _ h => nomatch h
theorem sadd (o : ShortOps) : Statement (.sadd o) := by
  rintro _ ⟨⟩ rest
  obtain ⟨w, _, hop, ho, hd⟩ := decode_encShort 0 _ o rest
  exact hd.trans (by simp only [decodeShort, decodeShortScalar, hop, ho]; rfl)
theorem saddLong (o : LongOps) : Statement (.saddLong o) := by
  rintro _ ⟨⟩ rest
  obtain ⟨w0, w1, _, hop, ho, hd⟩ := decode_encLong 0 _ o rest
  exact hd.trans (by simp only [decodeLong, decodeLongScalar, hop, ho]; rfl)
theorem ssub (o : ShortOps) : Statement (.ssub o) := by
  rintro _ ⟨⟩ rest
  obtain ⟨w, _, hop, ho, hd⟩ := decode_encShort 0 _ o rest
  exact hd.trans (by simp only [decodeShort, decodeShortScalar, hop, ho]; rfl)
theorem ssubLong (o : LongOps) : Statement (.ssubLong o) := by
  rintro _ ⟨⟩ rest
  obtain ⟨w0, w1, _, hop, ho, hd⟩ := decode_encLong 0 _ o rest
  exact hd.trans (by simp only [decodeLong, decodeLongScalar, hop, ho]; rfl)
theorem smul (o : ShortOps) : Statement (.smul o) := by
  rintro _ ⟨⟩ rest
  obtain ⟨w, _, hop, ho, hd⟩ := decode_encShort 0 _ o rest
  exact hd.trans (by simp only [decodeShort, decodeShortScalar, hop, ho]; rfl)
theorem smulLong (o : LongOps) : Statement (.smulLong o) := by
  rintro _ ⟨⟩ rest
  obtain ⟨w0, w1, _, hop, ho, hd⟩ := decode_encLong 0 _ o rest
  exact hd.trans (by simp only [decodeLong, decodeLongScalar, hop, ho]; rfl)
theorem smulh (o : ShortOps) : Statement (.smulh o) := by
  rintro _ ⟨⟩ rest
  obtain ⟨w, _, hop, ho, hd⟩ := decode_encShort 0 _ o rest
  exact hd.trans (by simp only [decodeShort, decodeShortScalar, hop, ho]; rfl)
theorem smulhLong (o : LongOps) : Statement (.smulhLong o) := by
  rintro _ ⟨⟩ rest
  obtain ⟨w0, w1, _, hop, ho, hd⟩ := decode_encLong 0 _ o rest
  exact hd.trans (by simp only [decodeLong, decodeLongScalar, hop, ho]; rfl)
theorem smulhn (o : ShortOps) : Statement (.smulhn o) := by
  rintro _ ⟨⟩ rest
  obtain ⟨w, _, hop, ho, hd⟩ := decode_encShort 0 _ o rest
  exact hd.trans (by simp only [decodeShort, decodeShortScalar, hop, ho]; rfl)
theorem smulhnLong (o : LongOps) : Statement (.smulhnLong o) := by
  rintro _ ⟨⟩ rest
  obtain ⟨w0, w1, _, hop, ho, hd⟩ := decode_encLong 0 _ o rest
  exact hd.trans (by simp only [decodeLong, decodeLongScalar, hop, ho]; rfl)
theorem sdiv (o : ShortOps) : Statement (.sdiv o) := by
  rintro _ ⟨⟩ rest
  obtain ⟨w, _, hop, ho, hd⟩ := decode_encShort 0 _ o rest
  exact hd.trans (by simp only [decodeShort, decodeShortScalar, hop, ho]; rfl)
theorem sdivLong (o : LongOps) : Statement (.sdivLong o) := by
  rintro _ ⟨⟩ rest
  obtain ⟨w0, w1, _, hop, ho, hd⟩ := decode_encLong 0 _ o rest
  exact hd.trans (by simp only [decodeLong, decodeLongScalar, hop, ho]; rfl)
theorem srem (o : ShortOps) : Statement (.srem o) := by
  rintro _ ⟨⟩ rest
  obtain ⟨w, _, hop, ho, hd⟩ := decode_encShort 0 _ o rest
  exact hd.trans (by simp only [decodeShort, decodeShortScalar, hop, ho]; rfl)
theorem sremLong (o : LongOps) : Statement (.sremLong o) := by
  rintro _ ⟨⟩ rest
  obtain ⟨w0, w1, _, hop, ho, hd⟩ := decode_encLong 0 _ o rest
  exact hd.trans (by simp only [decodeLong, decodeLongScalar, hop, ho]; rfl)
theorem sand (o : ShortOps) : Statement (.sand o) := by
  rintro _ ⟨⟩ rest
  obtain ⟨w, _, hop, ho, hd⟩ := decode_encShort 0 _ o rest
  exact hd.trans (by simp only [decodeShort, decodeShortScalar, hop, ho]; rfl)
theorem sandLong (o : LongOps) : Statement (.sandLong o) := by
  rintro _ ⟨⟩ rest
  obtain ⟨w0, w1, _, hop, ho, hd⟩ := decode_encLong 0 _ o rest
  exact hd.trans (by simp only [decodeLong, decodeLongScalar, hop, ho]; rfl)
theorem sor (o : ShortOps) : Statement (.sor o) := by
  rintro _ ⟨⟩ rest
  obtain ⟨w, _, hop, ho, hd⟩ := decode_encShort 0 _ o rest
  exact hd.trans (by simp only [decodeShort, decodeShortScalar, hop, ho]; rfl)
theorem sorLong (o : LongOps) : Statement (.sorLong o) := by
  rintro _ ⟨⟩ rest
  obtain ⟨w0, w1, _, hop, ho, hd⟩ := decode_encLong 0 _ o rest
  exact hd.trans (by simp only [decodeLong, decodeLongScalar, hop, ho]; rfl)
theorem sxor (o : ShortOps) : Statement (.sxor o) := by
  rintro _ ⟨⟩ rest
  obtain ⟨w, _, hop, ho, hd⟩ := decode_encShort 0 _ o rest
  exact hd.trans (by simp only [decodeShort, decodeShortScalar, hop, ho]; rfl)
theorem sxorLong (o : LongOps) : Statement (.sxorLong o) := by
  rintro _ ⟨⟩ rest
  obtain ⟨w0, w1, _, hop, ho, hd⟩ := decode_encLong 0 _ o rest
  exact hd.trans (by simp only [decodeLong, decodeLongScalar, hop, ho]; rfl)
theorem sshl (o : ShortOps) : Statement (.sshl o) := by
  rintro _ ⟨⟩ rest
  obtain ⟨w, _, hop, ho, hd⟩ := decode_encShort 0 _ o rest
  exact hd.trans (by simp only [decodeShort, decodeShortScalar, hop, ho]; rfl)
theorem sshlLong (o : LongOps) : Statement (.sshlLong o) := by
  rintro _ ⟨⟩ rest
  obtain ⟨w0, w1, _, hop, ho, hd⟩ := decode_encLong 0 _ o rest
  exact hd.trans (by simp only [decodeLong, decodeLongScalar, hop, ho]; rfl)
theorem sshr (o : ShortOps) : Statement (.sshr o) := by
  rintro _ ⟨⟩ rest
  obtain ⟨w, _, hop, ho, hd⟩ := decode_encShort 0 _ o rest
  exact hd.trans (by simp only [decodeShort, decodeShortScalar, hop, ho]; rfl)
theorem sshrLong (o : LongOps) : Statement (.sshrLong o) := by
  rintro _ ⟨⟩ rest
  obtain ⟨w0, w1, _, hop, ho, hd⟩ := decode_encLong 0 _ o rest
  exact hd.trans (by simp only [decodeLong, decodeLongScalar, hop, ho]; rfl)
theorem ssra (o : ShortOps) : Statement (.ssra o) := by
  rintro _ ⟨⟩ rest
  obtain ⟨w, _, hop, ho, hd⟩ := decode_encShort 0 _ o rest
  exact hd.trans (by simp only [decodeShort, decodeShortScalar, hop, ho]; rfl)
theorem ssraLong (o : LongOps) : Statement (.ssraLong o) := by
  rintro _ ⟨⟩ rest
  obtain ⟨w0, w1, _, hop, ho, hd⟩ := decode_encLong 0 _ o rest
  exact hd.trans (by simp only [decodeLong, decodeLongScalar, hop, ho]; rfl)
theorem smin (o : ShortOps) : Statement (.smin o) := by
  rintro _ ⟨⟩ rest
  obtain ⟨w, _, hop, ho, hd⟩ := decode_encShort 0 _ o rest
  exact hd.trans (by simp only [decodeShort, decodeShortScalar, hop, ho]; rfl)
theorem sminLong (o : LongOps) : Statement (.sminLong o) := by
  rintro _ ⟨⟩ rest
  obtain ⟨w0, w1, _, hop, ho, hd⟩ := decode_encLong 0 _ o rest
  exact hd.trans (by simp only [decodeLong, decodeLongScalar, hop, ho]; rfl)
theorem smax (o : ShortOps) : Statement (.smax o) := by
  rintro _ ⟨⟩ rest
  obtain ⟨w, _, hop, ho, hd⟩ := decode_encShort 0 _ o rest
  exact hd.trans (by simp only [decodeShort, decodeShortScalar, hop, ho]; rfl)
theorem smaxLong (o : LongOps) : Statement (.smaxLong o) := by
  rintro _ ⟨⟩ rest
  obtain ⟨w0, w1, _, hop, ho, hd⟩ := decode_encLong 0 _ o rest
  exact hd.trans (by simp only [decodeLong, decodeLongScalar, hop, ho]; rfl)
theorem sminn (o : ShortOps) : Statement (.sminn o) := by
  rintro _ ⟨⟩ rest
  obtain ⟨w, _, hop, ho, hd⟩ := decode_encShort 0 _ o rest
  exact hd.trans (by simp only [decodeShort, decodeShortScalar, hop, ho]; rfl)
theorem sminnLong (o : LongOps) : Statement (.sminnLong o) := by
  rintro _ ⟨⟩ rest
  obtain ⟨w0, w1, _, hop, ho, hd⟩ := decode_encLong 0 _ o rest
  exact hd.trans (by simp only [decodeLong, decodeLongScalar, hop, ho]; rfl)
theorem smaxn (o : ShortOps) : Statement (.smaxn o) := by
  rintro _ ⟨⟩ rest
  obtain ⟨w, _, hop, ho, hd⟩ := decode_encShort 0 _ o rest
  exact hd.trans (by simp only [decodeShort, decodeShortScalar, hop, ho]; rfl)
theorem smaxnLong (o : LongOps) : Statement (.smaxnLong o) := by
  rintro _ ⟨⟩ rest
  obtain ⟨w0, w1, _, hop, ho, hd⟩ := decode_encLong 0 _ o rest
  exact hd.trans (by simp only [decodeLong, decodeLongScalar, hop, ho]; rfl)
theorem scmp (o : ShortOps) : Statement (.scmp o) := by
  rintro _ ⟨⟩ rest
  obtain ⟨w, _, hop, ho, hd⟩ := decode_encShort 0 _ o rest
  exact hd.trans (by simp only [decodeShort, decodeShortScalar, hop, ho]; rfl)
theorem scmpLong (o : LongOps) : Statement (.scmpLong o) := by
  rintro _ ⟨⟩ rest
  obtain ⟨w0, w1, _, hop, ho, hd⟩ := decode_encLong 0 _ o rest
  exact hd.trans (by simp only [decodeLong, decodeLongScalar, hop, ho]; rfl)
theorem ssel (o : LongOps) : Statement (.ssel o) := by
  rintro _ ⟨⟩ rest
  obtain ⟨w0, w1, _, hop, ho, hd⟩ := decode_encLong 0 _ o rest
  exact hd.trans (by simp only [decodeLong, decodeLongScalar, hop, ho]; rfl)
theorem smov (o : ShortOps) : Statement (.smov o) := by
  rintro _ ⟨⟩ rest
  obtain ⟨w, _, hop, ho, hd⟩ := decode_encShort 0 _ o rest
  exact hd.trans (by simp only [decodeShort, decodeShortScalar, hop, ho]; rfl)
theorem smovLong (o : LongOps) : Statement (.smovLong o) := by
  rintro _ ⟨⟩ rest
  obtain ⟨w0, w1, _, hop, ho, hd⟩ := decode_encLong 0 _ o rest
  exact hd.trans (by simp only [decodeLong, decodeLongScalar, hop, ho]; rfl)
theorem smovi (o : ImmOps) : Statement (.smovi o) := by
  rintro _ ⟨⟩ rest
  obtain ⟨w, _, hop, ho, hd⟩ := decode_encImm 0 _ o rest
  exact hd.trans (by simp only [decodeShort, decodeShortScalar, hop, ho]; rfl)
theorem smoviLong (o : LongOps) : Statement (.smoviLong o) := by
  rintro _ ⟨⟩ rest
  obtain ⟨w0, w1, _, hop, ho, hd⟩ := decode_encLong 0 _ o rest
  exact hd.trans (by simp only [decodeLong, decodeLongScalar, hop, ho]; rfl)
theorem smovh (o : ImmOps) : Statement (.smovh o) := by
  rintro _ ⟨⟩ rest
  obtain ⟨w, _, hop, ho, hd⟩ := decode_encImm 0 _ o rest
  exact hd.trans (by simp only [decodeShort, decodeShortScalar, hop, ho]; rfl)
theorem smovhLong (o : LongOps) : Statement (.smovhLong o) := by
  rintro _ ⟨⟩ rest
  obtain ⟨w0, w1, _, hop, ho, hd⟩ := decode_encLong 0 _ o rest
  exact hd.trans (by simp only [decodeLong, decodeLongScalar, hop, ho]; rfl)
theorem slda (o : ImmOps) : Statement (.slda o) := by
  rintro _ ⟨⟩ rest
  obtain ⟨w, _, hop, ho, hd⟩ := decode_encImm 0 _ o rest
  exact hd.trans (by simp only [decodeShort, decodeShortScalar, hop, ho]; rfl)
theorem sldaLong (o : LongOps) : Statement (.sldaLong o) := by
  rintro _ ⟨⟩ rest
  obtain ⟨w0, w1, _, hop, ho, hd⟩ := decode_encLong 0 _ o rest
  exact hd.trans (by simp only [decodeLong, decodeLongScalar, hop, ho]; rfl)
theorem sld (o : LongOps) : Statement (.sld o) := by
  rintro _ ⟨⟩ rest
  obtain ⟨w0, w1, _, hop, ho, hd⟩ := decode_encLong 0 _ o rest
  exact hd.trans (by simp only [decodeLong, decodeLongScalar, hop, ho]; rfl)
theorem sst (o : LongOps) : Statement (.sst o) := by
  rintro _ ⟨⟩ rest
  obtain ⟨w0, w1, _, hop, ho, hd⟩ := decode_encLong 0 _ o rest
  exact hd.trans (by simp only [decodeLong, decodeLongScalar, hop, ho]; rfl)
theorem srd (o : ImmOps) : Statement (.srd o) := by
  rintro _ ⟨⟩ rest
  obtain ⟨w, _, hop, ho, hd⟩ := decode_encImm 0 _ o rest
  exact hd.trans (by simp only [decodeShort, decodeShortScalar, hop, ho]; rfl)
theorem srdLong (o : LongOps) : Statement (.srdLong o) := by
  rintro _ ⟨⟩ rest
  obtain ⟨w0, w1, _, hop, ho, hd⟩ := decode_encLong 0 _ o rest
  exact hd.trans (by simp only [decodeLong, decodeLongScalar, hop, ho]; rfl)
theorem swr (o : ImmOps) : Statement (.swr o) := by
  rintro _ ⟨⟩ rest
  obtain ⟨w, _, hop, ho, hd⟩ := decode_encImm 0 _ o rest
  exact hd.trans (by simp only [decodeShort, decodeShortScalar, hop, ho]; rfl)
theorem swrLong (o : LongOps) : Statement (.swrLong o) := by
  rintro _ ⟨⟩ rest
  obtain ⟨w0, w1, _, hop, ho, hd⟩ := decode_encLong 0 _ o rest
  exact hd.trans (by simp only [decodeLong, decodeLongScalar, hop, ho]; rfl)
theorem spopc (o : ShortOps) : Statement (.spopc o) := by
  rintro _ ⟨⟩ rest
  obtain ⟨w, _, hop, ho, hd⟩ := decode_encShort 0 _ o rest
  exact hd.trans (by simp only [decodeShort, decodeShortScalar, hop, ho]; rfl)
theorem spopcLong (o : LongOps) : Statement (.spopcLong o) := by
  rintro _ ⟨⟩ rest
  obtain ⟨w0, w1, _, hop, ho, hd⟩ := decode_encLong 0 _ o rest
  exact hd.trans (by simp only [decodeLong, decodeLongScalar, hop, ho]; rfl)
theorem sclz (o : ShortOps) : Statement (.sclz o) := by
  rintro _ ⟨⟩ rest
  obtain ⟨w, _, hop, ho, hd⟩ := decode_encShort 0 _ o rest
  exact hd.trans (by simp only [decodeShort, decodeShortScalar, hop, ho]; rfl)
theorem sclzLong (o : LongOps) : Statement (.sclzLong o) := by
  rintro _ ⟨⟩ rest
  obtain ⟨w0, w1, _, hop, ho, hd⟩ := decode_encLong 0 _ o rest
  exact hd.trans (by simp only [decodeLong, decodeLongScalar, hop, ho]; rfl)
theorem saddx (o : LongOps) : Statement (.saddx o) := by
  rintro _ ⟨⟩ rest
  obtain ⟨w0, w1, _, hop, ho, hd⟩ := decode_encLong 0 _ o rest
  exact hd.trans (by simp only [decodeLong, decodeLongScalar, hop, ho]; rfl)
theorem vlane2s (o : ShortOps) : Statement (.vlane2s o) := by
  rintro _ ⟨⟩ rest
  obtain ⟨w, _, hop, ho, hd⟩ := decode_encShort 0 _ o rest
  exact hd.trans (by simp only [decodeShort, decodeShortScalar, hop, ho]; rfl)
theorem vlane2sLong (o : LongOps) : Statement (.vlane2sLong o) := by
  rintro _ ⟨⟩ rest
  obtain ⟨w0, w1, _, hop, ho, hd⟩ := decode_encLong 0 _ o rest
  exact hd.trans (by simp only [decodeLong, decodeLongScalar, hop, ho]; rfl)
theorem vadd (o : ShortOps) : Statement (.vadd o) := by
  rintro _ ⟨⟩ rest
  obtain ⟨w, _, hop, ho, hd⟩ := decode_encShort 1 _ o rest
  exact hd.trans (by simp only [decodeShort, decodeShortVint, hop, ho]; rfl)
theorem vaddLong (o : LongOps) : Statement (.vaddLong o) := by
  rintro _ ⟨⟩ rest
  obtain ⟨w0, w1, _, hop, ho, hd⟩ := decode_encLong 1 _ o rest
  exact hd.trans (by simp only [decodeLong, decodeLongVint, hop, ho]; rfl)
theorem vsub (o : ShortOps) : Statement (.vsub o) := by
  rintro _ ⟨⟩ rest
  obtain ⟨w, _, hop, ho, hd⟩ := decode_encShort 1 _ o rest
  exact hd.trans (by simp only [decodeShort, decodeShortVint, hop, ho]; rfl)
theorem vsubLong (o : LongOps) : Statement (.vsubLong o) := by
  rintro _ ⟨⟩ rest
  obtain ⟨w0, w1, _, hop, ho, hd⟩ := decode_encLong 1 _ o rest
  exact hd.trans (by simp only [decodeLong, decodeLongVint, hop, ho]; rfl)
theorem vmul (o : ShortOps) : Statement (.vmul o) := by
  rintro _ ⟨⟩ rest
  obtain ⟨w, _, hop, ho, hd⟩ := decode_encShort 1 _ o rest
  exact hd.trans (by simp only [decodeShort, decodeShortVint, hop, ho]; rfl)
theorem vmulLong (o : LongOps) : Statement (.vmulLong o) := by
  rintro _ ⟨⟩ rest
  obtain ⟨w0, w1, _, hop, ho, hd⟩ := decode_encLong 1 _ o rest
  exact hd.trans (by simp only [decodeLong, decodeLongVint, hop, ho]; rfl)
theorem vmulh (o : ShortOps) : Statement (.vmulh o) := by
  rintro _ ⟨⟩ rest
  obtain ⟨w, _, hop, ho, hd⟩ := decode_encShort 1 _ o rest
  exact hd.trans (by simp only [decodeShort, decodeShortVint, hop, ho]; rfl)
theorem vmulhLong (o : LongOps) : Statement (.vmulhLong o) := by
  rintro _ ⟨⟩ rest
  obtain ⟨w0, w1, _, hop, ho, hd⟩ := decode_encLong 1 _ o rest
  exact hd.trans (by simp only [decodeLong, decodeLongVint, hop, ho]; rfl)
theorem vmad (o : LongOps) : Statement (.vmad o) := by
  rintro _ ⟨⟩ rest
  obtain ⟨w0, w1, _, hop, ho, hd⟩ := decode_encLong 1 _ o rest
  exact hd.trans (by simp only [decodeLong, decodeLongVint, hop, ho]; rfl)
theorem vand (o : ShortOps) : Statement (.vand o) := by
  rintro _ ⟨⟩ rest
  obtain ⟨w, _, hop, ho, hd⟩ := decode_encShort 1 _ o rest
  exact hd.trans (by simp only [decodeShort, decodeShortVint, hop, ho]; rfl)
theorem vandLong (o : LongOps) : Statement (.vandLong o) := by
  rintro _ ⟨⟩ rest
  obtain ⟨w0, w1, _, hop, ho, hd⟩ := decode_encLong 1 _ o rest
  exact hd.trans (by simp only [decodeLong, decodeLongVint, hop, ho]; rfl)
theorem vor (o : ShortOps) : Statement (.vor o) := by
  rintro _ ⟨⟩ rest
  obtain ⟨w, _, hop, ho, hd⟩ := decode_encShort 1 _ o rest
  exact hd.trans (by simp only [decodeShort, decodeShortVint, hop, ho]; rfl)
theorem vorLong (o : LongOps) : Statement (.vorLong o) := by
  rintro _ ⟨⟩ rest
  obtain ⟨w0, w1, _, hop, ho, hd⟩ := decode_encLong 1 _ o rest
  exact hd.trans (by simp only [decodeLong, decodeLongVint, hop, ho]; rfl)
theorem vxor (o : ShortOps) : Statement (.vxor o) := by
  rintro _ ⟨⟩ rest
  obtain ⟨w, _, hop, ho, hd⟩ := decode_encShort 1 _ o rest
  exact hd.trans (by simp only [decodeShort, decodeShortVint, hop, ho]; rfl)
theorem vxorLong (o : LongOps) : Statement (.vxorLong o) := by
  rintro _ ⟨⟩ rest
  obtain ⟨w0, w1, _, hop, ho, hd⟩ := decode_encLong 1 _ o rest
  exact hd.trans (by simp only [decodeLong, decodeLongVint, hop, ho]; rfl)
theorem vnot (o : ShortOps) : Statement (.vnot o) := by
  rintro _ ⟨⟩ rest
  obtain ⟨w, _, hop, ho, hd⟩ := decode_encShort 1 _ o rest
  exact hd.trans (by simp only [decodeShort, decodeShortVint, hop, ho]; rfl)
theorem vnotLong (o : LongOps) : Statement (.vnotLong o) := by
  rintro _ ⟨⟩ rest
  obtain ⟨w0, w1, _, hop, ho, hd⟩ := decode_encLong 1 _ o rest
  exact hd.trans (by simp only [decodeLong, decodeLongVint, hop, ho]; rfl)
theorem vshl (o : ShortOps) : Statement (.vshl o) := by
  rintro _ ⟨⟩ rest
  obtain ⟨w, _, hop, ho, hd⟩ := decode_encShort 1 _ o rest
  exact hd.trans (by simp only [decodeShort, decodeShortVint, hop, ho]; rfl)
theorem vshlLong (o : LongOps) : Statement (.vshlLong o) := by
  rintro _ ⟨⟩ rest
  obtain ⟨w0, w1, _, hop, ho, hd⟩ := decode_encLong 1 _ o rest
  exact hd.trans (by simp only [decodeLong, decodeLongVint, hop, ho]; rfl)
theorem vshr (o : ShortOps) : Statement (.vshr o) := by
  rintro _ ⟨⟩ rest
  obtain ⟨w, _, hop, ho, hd⟩ := decode_encShort 1 _ o rest
  exact hd.trans (by simp only [decodeShort, decodeShortVint, hop, ho]; rfl)
theorem vshrLong (o : LongOps) : Statement (.vshrLong o) := by
  rintro _ ⟨⟩ rest
  obtain ⟨w0, w1, _, hop, ho, hd⟩ := decode_encLong 1 _ o rest
  exact hd.trans (by simp only [decodeLong, decodeLongVint, hop, ho]; rfl)
theorem vsra (o : ShortOps) : Statement (.vsra o) := by
  rintro _ ⟨⟩ rest
  obtain ⟨w, _, hop, ho, hd⟩ := decode_encShort 1 _ o rest
  exact hd.trans (by simp only [decodeShort, decodeShortVint, hop, ho]; rfl)
theorem vsraLong (o : LongOps) : Statement (.vsraLong o) := by
  rintro _ ⟨⟩ rest
  obtain ⟨w0, w1, _, hop, ho, hd⟩ := decode_encLong 1 _ o rest
  exact hd.trans (by simp only [decodeLong, decodeLongVint, hop, ho]; rfl)
theorem vmin (o : ShortOps) : Statement (.vmin o) := by
  rintro _ ⟨⟩ rest
  obtain ⟨w, _, hop, ho, hd⟩ := decode_encShort 1 _ o rest
  exact hd.trans (by simp only [decodeShort, decodeShortVint, hop, ho]; rfl)
theorem vminLong (o : LongOps) : Statement (.vminLong o) := by
  rintro _ ⟨⟩ rest
  obtain ⟨w0, w1, _, hop, ho, hd⟩ := decode_encLong 1 _ o rest
  exact hd.trans (by simp only [decodeLong, decodeLongVint, hop, ho]; rfl)
theorem vmax (o : ShortOps) : Statement (.vmax o) := by
  rintro _ ⟨⟩ rest
  obtain ⟨w, _, hop, ho, hd⟩ := decode_encShort 1 _ o rest
  exact hd.trans (by simp only [decodeShort, decodeShortVint, hop, ho]; rfl)
theorem vmaxLong (o : LongOps) : Statement (.vmaxLong o) := by
  rintro _ ⟨⟩ rest
  obtain ⟨w0, w1, _, hop, ho, hd⟩ := decode_encLong 1 _ o rest
  exact hd.trans (by simp only [decodeLong, decodeLongVint, hop, ho]; rfl)
theorem vabs (o : ShortOps) : Statement (.vabs o) := by
  rintro _ ⟨⟩ rest
  obtain ⟨w, _, hop, ho, hd⟩ := decode_encShort 1 _ o rest
  exact hd.trans (by simp only [decodeShort, decodeShortVint, hop, ho]; rfl)
theorem vabsLong (o : LongOps) : Statement (.vabsLong o) := by
  rintro _ ⟨⟩ rest
  obtain ⟨w0, w1, _, hop, ho, hd⟩ := decode_encLong 1 _ o rest
  exact hd.trans (by simp only [decodeLong, decodeLongVint, hop, ho]; rfl)
theorem vcmp (o : ShortOps) : Statement (.vcmp o) := by
  rintro _ ⟨⟩ rest
  obtain ⟨w, _, hop, ho, hd⟩ := decode_encShort 1 _ o rest
  exact hd.trans (by simp only [decodeShort, decodeShortVint, hop, ho]; rfl)
theorem vcmpLong (o : LongOps) : Statement (.vcmpLong o) := by
  rintro _ ⟨⟩ rest
  obtain ⟨w0, w1, _, hop, ho, hd⟩ := decode_encLong 1 _ o rest
  exact hd.trans (by simp only [decodeLong, decodeLongVint, hop, ho]; rfl)
theorem vsel (o : LongOps) : Statement (.vsel o) := by
  rintro _ ⟨⟩ rest
  obtain ⟨w0, w1, _, hop, ho, hd⟩ := decode_encLong 1 _ o rest
  exact hd.trans (by simp only [decodeLong, decodeLongVint, hop, ho]; rfl)
theorem vmov (o : ShortOps) : Statement (.vmov o) := by
  rintro _ ⟨⟩ rest
  obtain ⟨w, _, hop, ho, hd⟩ := decode_encShort 1 _ o rest
  exact hd.trans (by simp only [decodeShort, decodeShortVint, hop, ho]; rfl)
theorem vmovLong (o : LongOps) : Statement (.vmovLong o) := by
  rintro _ ⟨⟩ rest
  obtain ⟨w0, w1, _, hop, ho, hd⟩ := decode_encLong 1 _ o rest
  exact hd.trans (by simp only [decodeLong, decodeLongVint, hop, ho]; rfl)
theorem vmovi (o : ImmOps) : Statement (.vmovi o) := by
  rintro _ ⟨⟩ rest
  obtain ⟨w, _, hop, ho, hd⟩ := decode_encImm 1 _ o rest
  exact hd.trans (by simp only [decodeShort, decodeShortVint, hop, ho]; rfl)
theorem vmoviLong (o : LongOps) : Statement (.vmoviLong o) := by
  rintro _ ⟨⟩ rest
  obtain ⟨w0, w1, _, hop, ho, hd⟩ := decode_encLong 1 _ o rest
  exact hd.trans (by simp only [decodeLong, decodeLongVint, hop, ho]; rfl)
theorem vbcast (o : ShortOps) : Statement (.vbcast o) := by
  rintro _ ⟨⟩ rest
  obtain ⟨w, _, hop, ho, hd⟩ := decode_encShort 1 _ o rest
  exact hd.trans (by simp only [decodeShort, decodeShortVint, hop, ho]; rfl)
theorem vbcastLong (o : LongOps) : Statement (.vbcastLong o) := by
  rintro _ ⟨⟩ rest
  obtain ⟨w0, w1, _, hop, ho, hd⟩ := decode_encLong 1 _ o rest
  exact hd.trans (by simp only [decodeLong, decodeLongVint, hop, ho]; rfl)
theorem vpopc (o : ShortOps) : Statement (.vpopc o) := by
  rintro _ ⟨⟩ rest
  obtain ⟨w, _, hop, ho, hd⟩ := decode_encShort 1 _ o rest
  exact hd.trans (by simp only [decodeShort, decodeShortVint, hop, ho]; rfl)
theorem vpopcLong (o : LongOps) : Statement (.vpopcLong o) := by
  rintro _ ⟨⟩ rest
  obtain ⟨w0, w1, _, hop, ho, hd⟩ := decode_encLong 1 _ o rest
  exact hd.trans (by simp only [decodeLong, decodeLongVint, hop, ho]; rfl)
theorem vclz (o : ShortOps) : Statement (.vclz o) := by
  rintro _ ⟨⟩ rest
  obtain ⟨w, _, hop, ho, hd⟩ := decode_encShort 1 _ o rest
  exact hd.trans (by simp only [decodeShort, decodeShortVint, hop, ho]; rfl)
theorem vclzLong (o : LongOps) : Statement (.vclzLong o) := by
  rintro _ ⟨⟩ rest
  obtain ⟨w0, w1, _, hop, ho, hd⟩ := decode_encLong 1 _ o rest
  exact hd.trans (by simp only [decodeLong, decodeLongVint, hop, ho]; rfl)
theorem vbfx (o : ShortOps) : Statement (.vbfx o) := by
  rintro _ ⟨⟩ rest
  obtain ⟨w, _, hop, ho, hd⟩ := decode_encShort 1 _ o rest
  exact hd.trans (by simp only [decodeShort, decodeShortVint, hop, ho]; rfl)
theorem vbfxLong (o : LongOps) : Statement (.vbfxLong o) := by
  rintro _ ⟨⟩ rest
  obtain ⟨w0, w1, _, hop, ho, hd⟩ := decode_encLong 1 _ o rest
  exact hd.trans (by simp only [decodeLong, decodeLongVint, hop, ho]; rfl)
theorem vbfi (o : LongOps) : Statement (.vbfi o) := by
  rintro _ ⟨⟩ rest
  obtain ⟨w0, w1, _, hop, ho, hd⟩ := decode_encLong 1 _ o rest
  exact hd.trans (by simp only [decodeLong, decodeLongVint, hop, ho]; rfl)
theorem vshfl (o : ShortOps) : Statement (.vshfl o) := by
  rintro _ ⟨⟩ rest
  obtain ⟨w, _, hop, ho, hd⟩ := decode_encShort 1 _ o rest
  exact hd.trans (by simp only [decodeShort, decodeShortVint, hop, ho]; rfl)
theorem vshflLong (o : LongOps) : Statement (.vshflLong o) := by
  rintro _ ⟨⟩ rest
  obtain ⟨w0, w1, _, hop, ho, hd⟩ := decode_encLong 1 _ o rest
  exact hd.trans (by simp only [decodeLong, decodeLongVint, hop, ho]; rfl)
theorem vvote (o : ShortOps) : Statement (.vvote o) := by
  rintro _ ⟨⟩ rest
  obtain ⟨w, _, hop, ho, hd⟩ := decode_encShort 1 _ o rest
  exact hd.trans (by simp only [decodeShort, decodeShortVint, hop, ho]; rfl)
theorem vvoteLong (o : LongOps) : Statement (.vvoteLong o) := by
  rintro _ ⟨⟩ rest
  obtain ⟨w0, w1, _, hop, ho, hd⟩ := decode_encLong 1 _ o rest
  exact hd.trans (by simp only [decodeLong, decodeLongVint, hop, ho]; rfl)
theorem vred (o : ShortOps) : Statement (.vred o) := by
  rintro _ ⟨⟩ rest
  obtain ⟨w, _, hop, ho, hd⟩ := decode_encShort 1 _ o rest
  exact hd.trans (by simp only [decodeShort, decodeShortVint, hop, ho]; rfl)
theorem vredLong (o : LongOps) : Statement (.vredLong o) := by
  rintro _ ⟨⟩ rest
  obtain ⟨w0, w1, _, hop, ho, hd⟩ := decode_encLong 1 _ o rest
  exact hd.trans (by simp only [decodeLong, decodeLongVint, hop, ho]; rfl)
theorem vscan (o : ShortOps) : Statement (.vscan o) := by
  rintro _ ⟨⟩ rest
  obtain ⟨w, _, hop, ho, hd⟩ := decode_encShort 1 _ o rest
  exact hd.trans (by simp only [decodeShort, decodeShortVint, hop, ho]; rfl)
theorem vscanLong (o : LongOps) : Statement (.vscanLong o) := by
  rintro _ ⟨⟩ rest
  obtain ⟨w0, w1, _, hop, ho, hd⟩ := decode_encLong 1 _ o rest
  exact hd.trans (by simp only [decodeLong, decodeLongVint, hop, ho]; rfl)
theorem vaddc (o : LongOps) : Statement (.vaddc o) := by
  rintro _ ⟨⟩ rest
  obtain ⟨w0, w1, _, hop, ho, hd⟩ := decode_encLong 1 _ o rest
  exact hd.trans (by simp only [decodeLong, decodeLongVint, hop, ho]; rfl)
theorem vperm (o : ShortOps) : Statement (.vperm o) := by
  rintro _ ⟨⟩ rest
  obtain ⟨w, _, hop, ho, hd⟩ := decode_encShort 1 _ o rest
  exact hd.trans (by simp only [decodeShort, decodeShortVint, hop, ho]; rfl)
theorem vpermLong (o : LongOps) : Statement (.vpermLong o) := by
  rintro _ ⟨⟩ rest
  obtain ⟨w0, w1, _, hop, ho, hd⟩ := decode_encLong 1 _ o rest
  exact hd.trans (by simp only [decodeLong, decodeLongVint, hop, ho]; rfl)
theorem plog (o : ShortOps) : Statement (.plog o) := by
  rintro _ ⟨⟩ rest
  obtain ⟨w, _, hop, ho, hd⟩ := decode_encShort 1 _ o rest
  exact hd.trans (by simp only [decodeShort, decodeShortVint, hop, ho]; rfl)
theorem plogLong (o : LongOps) : Statement (.plogLong o) := by
  rintro _ ⟨⟩ rest
  obtain ⟨w0, w1, _, hop, ho, hd⟩ := decode_encLong 1 _ o rest
  exact hd.trans (by simp only [decodeLong, decodeLongVint, hop, ho]; rfl)
theorem exmset (o : ShortOps) : Statement (.exmset o) := by
  rintro _ ⟨⟩ rest
  obtain ⟨w, _, hop, ho, hd⟩ := decode_encShort 1 _ o rest
  exact hd.trans (by simp only [decodeShort, decodeShortVint, hop, ho]; rfl)
theorem exmsetLong (o : LongOps) : Statement (.exmsetLong o) := by
  rintro _ ⟨⟩ rest
  obtain ⟨w0, w1, _, hop, ho, hd⟩ := decode_encLong 1 _ o rest
  exact hd.trans (by simp only [decodeLong, decodeLongVint, hop, ho]; rfl)
theorem exmrd (o : ShortOps) : Statement (.exmrd o) := by
  rintro _ ⟨⟩ rest
  obtain ⟨w, _, hop, ho, hd⟩ := decode_encShort 1 _ o rest
  exact hd.trans (by simp only [decodeShort, decodeShortVint, hop, ho]; rfl)
theorem exmrdLong (o : LongOps) : Statement (.exmrdLong o) := by
  rintro _ ⟨⟩ rest
  obtain ⟨w0, w1, _, hop, ho, hd⟩ := decode_encLong 1 _ o rest
  exact hd.trans (by simp only [decodeLong, decodeLongVint, hop, ho]; rfl)
theorem xset (o : ShortOps) : Statement (.xset o) := by
  rintro _ ⟨⟩ rest
  obtain ⟨w, _, hop, ho, hd⟩ := decode_encShort 1 _ o rest
  exact hd.trans (by simp only [decodeShort, decodeShortVint, hop, ho]; rfl)
theorem xsetLong (o : LongOps) : Statement (.xsetLong o) := by
  rintro _ ⟨⟩ rest
  obtain ⟨w0, w1, _, hop, ho, hd⟩ := decode_encLong 1 _ o rest
  exact hd.trans (by simp only [decodeLong, decodeLongVint, hop, ho]; rfl)
theorem xinc (o : ImmOps) : Statement (.xinc o) := by
  rintro _ ⟨⟩ rest
  obtain ⟨w, _, hop, ho, hd⟩ := decode_encImm 1 _ o rest
  exact hd.trans (by simp only [decodeShort, decodeShortVint, hop, ho]; rfl)
theorem xincLong (o : LongOps) : Statement (.xincLong o) := by
  rintro _ ⟨⟩ rest
  obtain ⟨w0, w1, _, hop, ho, hd⟩ := decode_encLong 1 _ o rest
  exact hd.trans (by simp only [decodeLong, decodeLongVint, hop, ho]; rfl)
theorem fadd (o : ShortOps) : Statement (.fadd o) := by
  rintro _ ⟨⟩ rest
  obtain ⟨w, _, hop, ho, hd⟩ := decode_encShort 2 _ o rest
  exact hd.trans (by simp only [decodeShort, decodeShortVfp, hop, ho]; rfl)
theorem faddLong (o : LongOps) : Statement (.faddLong o) := by
  rintro _ ⟨⟩ rest
  obtain ⟨w0, w1, _, hop, ho, hd⟩ := decode_encLong 2 _ o rest
  exact hd.trans (by simp only [decodeLong, decodeLongVfp, hop, ho]; rfl)
theorem fsub (o : ShortOps) : Statement (.fsub o) := by
  rintro _ ⟨⟩ rest
  obtain ⟨w, _, hop, ho, hd⟩ := decode_encShort 2 _ o rest
  exact hd.trans (by simp only [decodeShort, decodeShortVfp, hop, ho]; rfl)
theorem fsubLong (o : LongOps) : Statement (.fsubLong o) := by
  rintro _ ⟨⟩ rest
  obtain ⟨w0, w1, _, hop, ho, hd⟩ := decode_encLong 2 _ o rest
  exact hd.trans (by simp only [decodeLong, decodeLongVfp, hop, ho]; rfl)
theorem fmul (o : ShortOps) : Statement (.fmul o) := by
  rintro _ ⟨⟩ rest
  obtain ⟨w, _, hop, ho, hd⟩ := decode_encShort 2 _ o rest
  exact hd.trans (by simp only [decodeShort, decodeShortVfp, hop, ho]; rfl)
theorem fmulLong (o : LongOps) : Statement (.fmulLong o) := by
  rintro _ ⟨⟩ rest
  obtain ⟨w0, w1, _, hop, ho, hd⟩ := decode_encLong 2 _ o rest
  exact hd.trans (by simp only [decodeLong, decodeLongVfp, hop, ho]; rfl)
theorem ffma (o : LongOps) : Statement (.ffma o) := by
  rintro _ ⟨⟩ rest
  obtain ⟨w0, w1, _, hop, ho, hd⟩ := decode_encLong 2 _ o rest
  exact hd.trans (by simp only [decodeLong, decodeLongVfp, hop, ho]; rfl)
theorem fmin (o : ShortOps) : Statement (.fmin o) := by
  rintro _ ⟨⟩ rest
  obtain ⟨w, _, hop, ho, hd⟩ := decode_encShort 2 _ o rest
  exact hd.trans (by simp only [decodeShort, decodeShortVfp, hop, ho]; rfl)
theorem fminLong (o : LongOps) : Statement (.fminLong o) := by
  rintro _ ⟨⟩ rest
  obtain ⟨w0, w1, _, hop, ho, hd⟩ := decode_encLong 2 _ o rest
  exact hd.trans (by simp only [decodeLong, decodeLongVfp, hop, ho]; rfl)
theorem fmax (o : ShortOps) : Statement (.fmax o) := by
  rintro _ ⟨⟩ rest
  obtain ⟨w, _, hop, ho, hd⟩ := decode_encShort 2 _ o rest
  exact hd.trans (by simp only [decodeShort, decodeShortVfp, hop, ho]; rfl)
theorem fmaxLong (o : LongOps) : Statement (.fmaxLong o) := by
  rintro _ ⟨⟩ rest
  obtain ⟨w0, w1, _, hop, ho, hd⟩ := decode_encLong 2 _ o rest
  exact hd.trans (by simp only [decodeLong, decodeLongVfp, hop, ho]; rfl)
theorem fabs (o : ShortOps) : Statement (.fabs o) := by
  rintro _ ⟨⟩ rest
  obtain ⟨w, _, hop, ho, hd⟩ := decode_encShort 2 _ o rest
  exact hd.trans (by simp only [decodeShort, decodeShortVfp, hop, ho]; rfl)
theorem fabsLong (o : LongOps) : Statement (.fabsLong o) := by
  rintro _ ⟨⟩ rest
  obtain ⟨w0, w1, _, hop, ho, hd⟩ := decode_encLong 2 _ o rest
  exact hd.trans (by simp only [decodeLong, decodeLongVfp, hop, ho]; rfl)
theorem fneg (o : ShortOps) : Statement (.fneg o) := by
  rintro _ ⟨⟩ rest
  obtain ⟨w, _, hop, ho, hd⟩ := decode_encShort 2 _ o rest
  exact hd.trans (by simp only [decodeShort, decodeShortVfp, hop, ho]; rfl)
theorem fnegLong (o : LongOps) : Statement (.fnegLong o) := by
  rintro _ ⟨⟩ rest
  obtain ⟨w0, w1, _, hop, ho, hd⟩ := decode_encLong 2 _ o rest
  exact hd.trans (by simp only [decodeLong, decodeLongVfp, hop, ho]; rfl)
theorem fcmp (o : ShortOps) : Statement (.fcmp o) := by
  rintro _ ⟨⟩ rest
  obtain ⟨w, _, hop, ho, hd⟩ := decode_encShort 2 _ o rest
  exact hd.trans (by simp only [decodeShort, decodeShortVfp, hop, ho]; rfl)
theorem fcmpLong (o : LongOps) : Statement (.fcmpLong o) := by
  rintro _ ⟨⟩ rest
  obtain ⟨w0, w1, _, hop, ho, hd⟩ := decode_encLong 2 _ o rest
  exact hd.trans (by simp only [decodeLong, decodeLongVfp, hop, ho]; rfl)
theorem fclass (o : ShortOps) : Statement (.fclass o) := by
  rintro _ ⟨⟩ rest
  obtain ⟨w, _, hop, ho, hd⟩ := decode_encShort 2 _ o rest
  exact hd.trans (by simp only [decodeShort, decodeShortVfp, hop, ho]; rfl)
theorem fclassLong (o : LongOps) : Statement (.fclassLong o) := by
  rintro _ ⟨⟩ rest
  obtain ⟨w0, w1, _, hop, ho, hd⟩ := decode_encLong 2 _ o rest
  exact hd.trans (by simp only [decodeLong, decodeLongVfp, hop, ho]; rfl)
theorem frcp (o : ShortOps) : Statement (.frcp o) := by
  rintro _ ⟨⟩ rest
  obtain ⟨w, _, hop, ho, hd⟩ := decode_encShort 2 _ o rest
  exact hd.trans (by simp only [decodeShort, decodeShortVfp, hop, ho]; rfl)
theorem frcpLong (o : LongOps) : Statement (.frcpLong o) := by
  rintro _ ⟨⟩ rest
  obtain ⟨w0, w1, _, hop, ho, hd⟩ := decode_encLong 2 _ o rest
  exact hd.trans (by simp only [decodeLong, decodeLongVfp, hop, ho]; rfl)
theorem frsq (o : ShortOps) : Statement (.frsq o) := by
  rintro _ ⟨⟩ rest
  obtain ⟨w, _, hop, ho, hd⟩ := decode_encShort 2 _ o rest
  exact hd.trans (by simp only [decodeShort, decodeShortVfp, hop, ho]; rfl)
theorem frsqLong (o : LongOps) : Statement (.frsqLong o) := by
  rintro _ ⟨⟩ rest
  obtain ⟨w0, w1, _, hop, ho, hd⟩ := decode_encLong 2 _ o rest
  exact hd.trans (by simp only [decodeLong, decodeLongVfp, hop, ho]; rfl)
theorem fsqrt (o : ShortOps) : Statement (.fsqrt o) := by
  rintro _ ⟨⟩ rest
  obtain ⟨w, _, hop, ho, hd⟩ := decode_encShort 2 _ o rest
  exact hd.trans (by simp only [decodeShort, decodeShortVfp, hop, ho]; rfl)
theorem fsqrtLong (o : LongOps) : Statement (.fsqrtLong o) := by
  rintro _ ⟨⟩ rest
  obtain ⟨w0, w1, _, hop, ho, hd⟩ := decode_encLong 2 _ o rest
  exact hd.trans (by simp only [decodeLong, decodeLongVfp, hop, ho]; rfl)
theorem fdiv (o : ShortOps) : Statement (.fdiv o) := by
  rintro _ ⟨⟩ rest
  obtain ⟨w, _, hop, ho, hd⟩ := decode_encShort 2 _ o rest
  exact hd.trans (by simp only [decodeShort, decodeShortVfp, hop, ho]; rfl)
theorem fdivLong (o : LongOps) : Statement (.fdivLong o) := by
  rintro _ ⟨⟩ rest
  obtain ⟨w0, w1, _, hop, ho, hd⟩ := decode_encLong 2 _ o rest
  exact hd.trans (by simp only [decodeLong, decodeLongVfp, hop, ho]; rfl)
theorem fexp2 (o : ShortOps) : Statement (.fexp2 o) := by
  rintro _ ⟨⟩ rest
  obtain ⟨w, _, hop, ho, hd⟩ := decode_encShort 2 _ o rest
  exact hd.trans (by simp only [decodeShort, decodeShortVfp, hop, ho]; rfl)
theorem fexp2Long (o : LongOps) : Statement (.fexp2Long o) := by
  rintro _ ⟨⟩ rest
  obtain ⟨w0, w1, _, hop, ho, hd⟩ := decode_encLong 2 _ o rest
  exact hd.trans (by simp only [decodeLong, decodeLongVfp, hop, ho]; rfl)
theorem flog2 (o : ShortOps) : Statement (.flog2 o) := by
  rintro _ ⟨⟩ rest
  obtain ⟨w, _, hop, ho, hd⟩ := decode_encShort 2 _ o rest
  exact hd.trans (by simp only [decodeShort, decodeShortVfp, hop, ho]; rfl)
theorem flog2Long (o : LongOps) : Statement (.flog2Long o) := by
  rintro _ ⟨⟩ rest
  obtain ⟨w0, w1, _, hop, ho, hd⟩ := decode_encLong 2 _ o rest
  exact hd.trans (by simp only [decodeLong, decodeLongVfp, hop, ho]; rfl)
theorem fsinp (o : ShortOps) : Statement (.fsinp o) := by
  rintro _ ⟨⟩ rest
  obtain ⟨w, _, hop, ho, hd⟩ := decode_encShort 2 _ o rest
  exact hd.trans (by simp only [decodeShort, decodeShortVfp, hop, ho]; rfl)
theorem fsinpLong (o : LongOps) : Statement (.fsinpLong o) := by
  rintro _ ⟨⟩ rest
  obtain ⟨w0, w1, _, hop, ho, hd⟩ := decode_encLong 2 _ o rest
  exact hd.trans (by simp only [decodeLong, decodeLongVfp, hop, ho]; rfl)
theorem fcosp (o : ShortOps) : Statement (.fcosp o) := by
  rintro _ ⟨⟩ rest
  obtain ⟨w, _, hop, ho, hd⟩ := decode_encShort 2 _ o rest
  exact hd.trans (by simp only [decodeShort, decodeShortVfp, hop, ho]; rfl)
theorem fcospLong (o : LongOps) : Statement (.fcospLong o) := by
  rintro _ ⟨⟩ rest
  obtain ⟨w0, w1, _, hop, ho, hd⟩ := decode_encLong 2 _ o rest
  exact hd.trans (by simp only [decodeLong, decodeLongVfp, hop, ho]; rfl)
theorem frnd (o : ShortOps) : Statement (.frnd o) := by
  rintro _ ⟨⟩ rest
  obtain ⟨w, _, hop, ho, hd⟩ := decode_encShort 2 _ o rest
  exact hd.trans (by simp only [decodeShort, decodeShortVfp, hop, ho]; rfl)
theorem frndLong (o : LongOps) : Statement (.frndLong o) := by
  rintro _ ⟨⟩ rest
  obtain ⟨w0, w1, _, hop, ho, hd⟩ := decode_encLong 2 _ o rest
  exact hd.trans (by simp only [decodeLong, decodeLongVfp, hop, ho]; rfl)
theorem cvtff (o : ShortOps) : Statement (.cvtff o) := by
  rintro _ ⟨⟩ rest
  obtain ⟨w, _, hop, ho, hd⟩ := decode_encShort 2 _ o rest
  exact hd.trans (by simp only [decodeShort, decodeShortVfp, hop, ho]; rfl)
theorem cvtffLong (o : LongOps) : Statement (.cvtffLong o) := by
  rintro _ ⟨⟩ rest
  obtain ⟨w0, w1, _, hop, ho, hd⟩ := decode_encLong 2 _ o rest
  exact hd.trans (by simp only [decodeLong, decodeLongVfp, hop, ho]; rfl)
theorem cvtfi (o : ShortOps) : Statement (.cvtfi o) := by
  rintro _ ⟨⟩ rest
  obtain ⟨w, _, hop, ho, hd⟩ := decode_encShort 2 _ o rest
  exact hd.trans (by simp only [decodeShort, decodeShortVfp, hop, ho]; rfl)
theorem cvtfiLong (o : LongOps) : Statement (.cvtfiLong o) := by
  rintro _ ⟨⟩ rest
  obtain ⟨w0, w1, _, hop, ho, hd⟩ := decode_encLong 2 _ o rest
  exact hd.trans (by simp only [decodeLong, decodeLongVfp, hop, ho]; rfl)
theorem cvtif (o : ShortOps) : Statement (.cvtif o) := by
  rintro _ ⟨⟩ rest
  obtain ⟨w, _, hop, ho, hd⟩ := decode_encShort 2 _ o rest
  exact hd.trans (by simp only [decodeShort, decodeShortVfp, hop, ho]; rfl)
theorem cvtifLong (o : LongOps) : Statement (.cvtifLong o) := by
  rintro _ ⟨⟩ rest
  obtain ⟨w0, w1, _, hop, ho, hd⟩ := decode_encLong 2 _ o rest
  exact hd.trans (by simp only [decodeLong, decodeLongVfp, hop, ho]; rfl)
theorem cvtblk (o : LongOps) : Statement (.cvtblk o) := by
  rintro _ ⟨⟩ rest
  obtain ⟨w0, w1, _, hop, ho, hd⟩ := decode_encLong 2 _ o rest
  exact hd.trans (by simp only [decodeLong, decodeLongVfp, hop, ho]; rfl)
theorem fscale (o : ShortOps) : Statement (.fscale o) := by
  rintro _ ⟨⟩ rest
  obtain ⟨w, _, hop, ho, hd⟩ := decode_encShort 2 _ o rest
  exact hd.trans (by simp only [decodeShort, decodeShortVfp, hop, ho]; rfl)
theorem fscaleLong (o : LongOps) : Statement (.fscaleLong o) := by
  rintro _ ⟨⟩ rest
  obtain ⟨w0, w1, _, hop, ho, hd⟩ := decode_encLong 2 _ o rest
  exact hd.trans (by simp only [decodeLong, decodeLongVfp, hop, ho]; rfl)
theorem fma2 (o : LongOps) : Statement (.fma2 o) := by
  rintro _ ⟨⟩ rest
  obtain ⟨w0, w1, _, hop, ho, hd⟩ := decode_encLong 2 _ o rest
  exact hd.trans (by simp only [decodeLong, decodeLongVfp, hop, ho]; rfl)
theorem fadd2 (o : ShortOps) : Statement (.fadd2 o) := by
  rintro _ ⟨⟩ rest
  obtain ⟨w, _, hop, ho, hd⟩ := decode_encShort 2 _ o rest
  exact hd.trans (by simp only [decodeShort, decodeShortVfp, hop, ho]; rfl)
theorem fadd2Long (o : LongOps) : Statement (.fadd2Long o) := by
  rintro _ ⟨⟩ rest
  obtain ⟨w0, w1, _, hop, ho, hd⟩ := decode_encLong 2 _ o rest
  exact hd.trans (by simp only [decodeLong, decodeLongVfp, hop, ho]; rfl)
theorem fmul2 (o : ShortOps) : Statement (.fmul2 o) := by
  rintro _ ⟨⟩ rest
  obtain ⟨w, _, hop, ho, hd⟩ := decode_encShort 2 _ o rest
  exact hd.trans (by simp only [decodeShort, decodeShortVfp, hop, ho]; rfl)
theorem fmul2Long (o : LongOps) : Statement (.fmul2Long o) := by
  rintro _ ⟨⟩ rest
  obtain ⟨w0, w1, _, hop, ho, hd⟩ := decode_encLong 2 _ o rest
  exact hd.trans (by simp only [decodeLong, decodeLongVfp, hop, ho]; rfl)
theorem fsmode (o : LongOps) : Statement (.fsmode o) := by
  rintro _ ⟨⟩ rest
  obtain ⟨w0, w1, _, hop, ho, hd⟩ := decode_encLong 2 _ o rest
  exact hd.trans (by simp only [decodeLong, decodeLongVfp, hop, ho]; rfl)
theorem fstat (o : LongOps) : Statement (.fstat o) := by
  rintro _ ⟨⟩ rest
  obtain ⟨w0, w1, _, hop, ho, hd⟩ := decode_encLong 2 _ o rest
  exact hd.trans (by simp only [decodeLong, decodeLongVfp, hop, ho]; rfl)
theorem ainit (o : LongOps) : Statement (.ainit o) := by
  rintro _ ⟨⟩ rest
  obtain ⟨w0, w1, _, hop, ho, hd⟩ := decode_encLong 5 _ o rest
  exact hd.trans (by simp only [decodeLong, decodeLongAff, hop, ho]; rfl)
theorem afromv (o : LongOps) : Statement (.afromv o) := by
  rintro _ ⟨⟩ rest
  obtain ⟨w0, w1, _, hop, ho, hd⟩ := decode_encLong 5 _ o rest
  exact hd.trans (by simp only [decodeLong, decodeLongAff, hop, ho]; rfl)
theorem aadd (o : LongOps) : Statement (.aadd o) := by
  rintro _ ⟨⟩ rest
  obtain ⟨w0, w1, _, hop, ho, hd⟩ := decode_encLong 5 _ o rest
  exact hd.trans (by simp only [decodeLong, decodeLongAff, hop, ho]; rfl)
theorem asub (o : LongOps) : Statement (.asub o) := by
  rintro _ ⟨⟩ rest
  obtain ⟨w0, w1, _, hop, ho, hd⟩ := decode_encLong 5 _ o rest
  exact hd.trans (by simp only [decodeLong, decodeLongAff, hop, ho]; rfl)
theorem ascl (o : LongOps) : Statement (.ascl o) := by
  rintro _ ⟨⟩ rest
  obtain ⟨w0, w1, _, hop, ho, hd⟩ := decode_encLong 5 _ o rest
  exact hd.trans (by simp only [decodeLong, decodeLongAff, hop, ho]; rfl)
theorem amul (o : LongOps) : Statement (.amul o) := by
  rintro _ ⟨⟩ rest
  obtain ⟨w0, w1, _, hop, ho, hd⟩ := decode_encLong 5 _ o rest
  exact hd.trans (by simp only [decodeLong, decodeLongAff, hop, ho]; rfl)
theorem afma (o : LongOps) : Statement (.afma o) := by
  rintro _ ⟨⟩ rest
  obtain ⟨w0, w1, _, hop, ho, hd⟩ := decode_encLong 5 _ o rest
  exact hd.trans (by simp only [decodeLong, decodeLongAff, hop, ho]; rfl)
theorem arcp (o : LongOps) : Statement (.arcp o) := by
  rintro _ ⟨⟩ rest
  obtain ⟨w0, w1, _, hop, ho, hd⟩ := decode_encLong 5 _ o rest
  exact hd.trans (by simp only [decodeLong, decodeLongAff, hop, ho]; rfl)
theorem asqrt (o : LongOps) : Statement (.asqrt o) := by
  rintro _ ⟨⟩ rest
  obtain ⟨w0, w1, _, hop, ho, hd⟩ := decode_encLong 5 _ o rest
  exact hd.trans (by simp only [decodeLong, decodeLongAff, hop, ho]; rfl)
theorem acnd (o : LongOps) : Statement (.acnd o) := by
  rintro _ ⟨⟩ rest
  obtain ⟨w0, w1, _, hop, ho, hd⟩ := decode_encLong 5 _ o rest
  exact hd.trans (by simp only [decodeLong, decodeLongAff, hop, ho]; rfl)
theorem acoll (o : LongOps) : Statement (.acoll o) := by
  rintro _ ⟨⟩ rest
  obtain ⟨w0, w1, _, hop, ho, hd⟩ := decode_encLong 5 _ o rest
  exact hd.trans (by simp only [decodeLong, decodeLongAff, hop, ho]; rfl)
theorem actr (o : LongOps) : Statement (.actr o) := by
  rintro _ ⟨⟩ rest
  obtain ⟨w0, w1, _, hop, ho, hd⟩ := decode_encLong 5 _ o rest
  exact hd.trans (by simp only [decodeLong, decodeLongAff, hop, ho]; rfl)
theorem arad (o : LongOps) : Statement (.arad o) := by
  rintro _ ⟨⟩ rest
  obtain ⟨w0, w1, _, hop, ho, hd⟩ := decode_encLong 5 _ o rest
  exact hd.trans (by simp only [decodeLong, decodeLongAff, hop, ho]; rfl)
theorem abnd (o : LongOps) : Statement (.abnd o) := by
  rintro _ ⟨⟩ rest
  obtain ⟨w0, w1, _, hop, ho, hd⟩ := decode_encLong 5 _ o rest
  exact hd.trans (by simp only [decodeLong, decodeLongAff, hop, ho]; rfl)
theorem asym (o : LongOps) : Statement (.asym o) := by
  rintro _ ⟨⟩ rest
  obtain ⟨w0, w1, _, hop, ho, hd⟩ := decode_encLong 5 _ o rest
  exact hd.trans (by simp only [decodeLong, decodeLongAff, hop, ho]; rfl)
theorem azld (o : LongOps) : Statement (.azld o) := by
  rintro _ ⟨⟩ rest
  obtain ⟨w0, w1, _, hop, ho, hd⟩ := decode_encLong 5 _ o rest
  exact hd.trans (by simp only [decodeLong, decodeLongAff, hop, ho]; rfl)
theorem axfer (o : LongOps) : Statement (.axfer o) := by
  rintro _ ⟨⟩ rest
  obtain ⟨w0, w1, _, hop, ho, hd⟩ := decode_encLong 5 _ o rest
  exact hd.trans (by simp only [decodeLong, decodeLongAff, hop, ho]; rfl)
theorem ld (o : MemOps) : Statement (.ld o) := by
  rintro _ ⟨⟩ rest
  obtain ⟨w0, w1, _, hop, ho, hx, hd⟩ := decode_encMem 3 _ o rest
  exact hd.trans (by simp only [decodeLong, decodeLongMem, hop, ho, hx]; rfl)
theorem st (o : MemOps) : Statement (.st o) := by
  rintro _ ⟨⟩ rest
  obtain ⟨w0, w1, _, hop, ho, hx, hd⟩ := decode_encMem 3 _ o rest
  exact hd.trans (by simp only [decodeLong, decodeLongMem, hop, ho, hx]; rfl)
theorem ldl (o : MemOps) : Statement (.ldl o) := by
  rintro _ ⟨⟩ rest
  obtain ⟨w0, w1, _, hop, ho, hx, hd⟩ := decode_encMem 3 _ o rest
  exact hd.trans (by simp only [decodeLong, decodeLongMem, hop, ho, hx]; rfl)
theorem stl (o : MemOps) : Statement (.stl o) := by
  rintro _ ⟨⟩ rest
  obtain ⟨w0, w1, _, hop, ho, hx, hd⟩ := decode_encMem 3 _ o rest
  exact hd.trans (by simp only [decodeLong, decodeLongMem, hop, ho, hx]; rfl)
theorem atom (o : MemOps) : Statement (.atom o) := by
  rintro _ ⟨⟩ rest
  obtain ⟨w0, w1, _, hop, ho, hx, hd⟩ := decode_encMem 3 _ o rest
  exact hd.trans (by simp only [decodeLong, decodeLongMem, hop, ho, hx]; rfl)
theorem atoml (o : MemOps) : Statement (.atoml o) := by
  rintro _ ⟨⟩ rest
  obtain ⟨w0, w1, _, hop, ho, hx, hd⟩ := decode_encMem 3 _ o rest
  exact hd.trans (by simp only [decodeLong, decodeLongMem, hop, ho, hx]; rfl)
theorem pref (o : MemOps) : Statement (.pref o) := by
  rintro _ ⟨⟩ rest
  obtain ⟨w0, w1, _, hop, ho, hx, hd⟩ := decode_encMem 3 _ o rest
  exact hd.trans (by simp only [decodeLong, decodeLongMem, hop, ho, hx]; rfl)
theorem land (o : MemOps) : Statement (.land o) := by
  rintro _ ⟨⟩ rest
  obtain ⟨w0, w1, _, hop, ho, hx, hd⟩ := decode_encMem 3 _ o rest
  exact hd.trans (by simp only [decodeLong, decodeLongMem, hop, ho, hx]; rfl)
theorem tld (o : MemOps) : Statement (.tld o) := by
  rintro _ ⟨⟩ rest
  obtain ⟨w0, w1, _, hop, ho, hx, hd⟩ := decode_encMem 3 _ o rest
  exact hd.trans (by simp only [decodeLong, decodeLongMem, hop, ho, hx]; rfl)
theorem tst (o : MemOps) : Statement (.tst o) := by
  rintro _ ⟨⟩ rest
  obtain ⟨w0, w1, _, hop, ho, hx, hd⟩ := decode_encMem 3 _ o rest
  exact hd.trans (by simp only [decodeLong, decodeLongMem, hop, ho, hx]; rfl)
theorem zflush (o : MemOps) : Statement (.zflush o) := by
  rintro _ ⟨⟩ rest
  obtain ⟨w0, w1, _, hop, ho, hx, hd⟩ := decode_encMem 3 _ o rest
  exact hd.trans (by simp only [decodeLong, decodeLongMem, hop, ho, hx]; rfl)
theorem zdrop (o : MemOps) : Statement (.zdrop o) := by
  rintro _ ⟨⟩ rest
  obtain ⟨w0, w1, _, hop, ho, hx, hd⟩ := decode_encMem 3 _ o rest
  exact hd.trans (by simp only [decodeLong, decodeLongMem, hop, ho, hx]; rfl)
theorem zerr (o : MemOps) : Statement (.zerr o) := by
  rintro _ ⟨⟩ rest
  obtain ⟨w0, w1, _, hop, ho, hx, hd⟩ := decode_encMem 3 _ o rest
  exact hd.trans (by simp only [decodeLong, decodeLongMem, hop, ho, hx]; rfl)
theorem clean (o : MemOps) : Statement (.clean o) := by
  rintro _ ⟨⟩ rest
  obtain ⟨w0, w1, _, hop, ho, hx, hd⟩ := decode_encMem 3 _ o rest
  exact hd.trans (by simp only [decodeLong, decodeLongMem, hop, ho, hx]; rfl)
theorem inval (o : MemOps) : Statement (.inval o) := by
  rintro _ ⟨⟩ rest
  obtain ⟨w0, w1, _, hop, ho, hx, hd⟩ := decode_encMem 3 _ o rest
  exact hd.trans (by simp only [decodeLong, decodeLongMem, hop, ho, hx]; rfl)
theorem bar (o : SyncOps) : Statement (.bar o) := by
  rintro _ ⟨⟩ rest
  obtain ⟨w0, w1, _, hop, ho, hx, hd⟩ := decode_encSync 6 _ o rest
  exact hd.trans (by simp only [decodeLong, decodeLongSync, hop, ho, hx]; rfl)
theorem bara (o : SyncOps) : Statement (.bara o) := by
  rintro _ ⟨⟩ rest
  obtain ⟨w0, w1, _, hop, ho, hx, hd⟩ := decode_encSync 6 _ o rest
  exact hd.trans (by simp only [decodeLong, decodeLongSync, hop, ho, hx]; rfl)
theorem barw (o : SyncOps) : Statement (.barw o) := by
  rintro _ ⟨⟩ rest
  obtain ⟨w0, w1, _, hop, ho, hx, hd⟩ := decode_encSync 6 _ o rest
  exact hd.trans (by simp only [decodeLong, decodeLongSync, hop, ho, hx]; rfl)
theorem fence (o : SyncOps) : Statement (.fence o) := by
  rintro _ ⟨⟩ rest
  obtain ⟨w0, w1, _, hop, ho, hx, hd⟩ := decode_encSync 6 _ o rest
  exact hd.trans (by simp only [decodeLong, decodeLongSync, hop, ho, hx]; rfl)
theorem semadd (o : SyncOps) : Statement (.semadd o) := by
  rintro _ ⟨⟩ rest
  obtain ⟨w0, w1, _, hop, ho, hx, hd⟩ := decode_encSync 6 _ o rest
  exact hd.trans (by simp only [decodeLong, decodeLongSync, hop, ho, hx]; rfl)
theorem semwait (o : SyncOps) : Statement (.semwait o) := by
  rintro _ ⟨⟩ rest
  obtain ⟨w0, w1, _, hop, ho, hx, hd⟩ := decode_encSync 6 _ o rest
  exact hd.trans (by simp only [decodeLong, decodeLongSync, hop, ho, hx]; rfl)
theorem semrd (o : SyncOps) : Statement (.semrd o) := by
  rintro _ ⟨⟩ rest
  obtain ⟨w0, w1, _, hop, ho, hx, hd⟩ := decode_encSync 6 _ o rest
  exact hd.trans (by simp only [decodeLong, decodeLongSync, hop, ho, hx]; rfl)
theorem semset (o : SyncOps) : Statement (.semset o) := by
  rintro _ ⟨⟩ rest
  obtain ⟨w0, w1, _, hop, ho, hx, hd⟩ := decode_encSync 6 _ o rest
  exact hd.trans (by simp only [decodeLong, decodeLongSync, hop, ho, hx]; rfl)
theorem mwait (o : SyncOps) : Statement (.mwait o) := by
  rintro _ ⟨⟩ rest
  obtain ⟨w0, w1, _, hop, ho, hx, hd⟩ := decode_encSync 6 _ o rest
  exact hd.trans (by simp only [decodeLong, decodeLongSync, hop, ho, hx]; rfl)
theorem chkwait (o : SyncOps) : Statement (.chkwait o) := by
  rintro _ ⟨⟩ rest
  obtain ⟨w0, w1, _, hop, ho, hx, hd⟩ := decode_encSync 6 _ o rest
  exact hd.trans (by simp only [decodeLong, decodeLongSync, hop, ho, hx]; rfl)
theorem yield (o : SyncOps) : Statement (.yield o) := by
  rintro _ ⟨⟩ rest
  obtain ⟨w0, w1, _, hop, ho, hx, hd⟩ := decode_encSync 6 _ o rest
  exact hd.trans (by simp only [decodeLong, decodeLongSync, hop, ho, hx]; rfl)
theorem waitsb (o : SyncOps) : Statement (.waitsb o) := by
  rintro _ ⟨⟩ rest
  obtain ⟨w0, w1, _, hop, ho, hx, hd⟩ := decode_encSync 6 _ o rest
  exact hd.trans (by simp only [decodeLong, decodeLongSync, hop, ho, hx]; rfl)
theorem mma (o : MatOps) : Statement (.mma o) := by
  rintro _ ⟨⟩ rest
  obtain ⟨w0, w1, _, hop, ho, hx, hd⟩ := decode_encMat 4 _ o rest
  exact hd.trans (by simp only [decodeLong, decodeLongMat, hop, ho, hx]; rfl)
theorem mgath (o : MatOps) : Statement (.mgath o) := by
  rintro _ ⟨⟩ rest
  obtain ⟨w0, w1, _, hop, ho, hx, hd⟩ := decode_encMat 4 _ o rest
  exact hd.trans (by simp only [decodeLong, decodeLongMat, hop, ho, hx]; rfl)
theorem mclose (o : MatOps) : Statement (.mclose o) := by
  rintro _ ⟨⟩ rest
  obtain ⟨w0, w1, _, hop, ho, hx, hd⟩ := decode_encMat 4 _ o rest
  exact hd.trans (by simp only [decodeLong, decodeLongMat, hop, ho, hx]; rfl)
theorem tshp (o : MatOps) : Statement (.tshp o) := by
  rintro _ ⟨⟩ rest
  obtain ⟨w0, w1, _, hop, ho, hx, hd⟩ := decode_encMat 4 _ o rest
  exact hd.trans (by simp only [decodeLong, decodeLongMat, hop, ho, hx]; rfl)
theorem tzero (o : MatOps) : Statement (.tzero o) := by
  rintro _ ⟨⟩ rest
  obtain ⟨w0, w1, _, hop, ho, hx, hd⟩ := decode_encMat 4 _ o rest
  exact hd.trans (by simp only [decodeLong, decodeLongMat, hop, ho, hx]; rfl)
theorem tmovv (o : MatOps) : Statement (.tmovv o) := by
  rintro _ ⟨⟩ rest
  obtain ⟨w0, w1, _, hop, ho, hx, hd⟩ := decode_encMat 4 _ o rest
  exact hd.trans (by simp only [decodeLong, decodeLongMat, hop, ho, hx]; rfl)
theorem vmovt (o : MatOps) : Statement (.vmovt o) := by
  rintro _ ⟨⟩ rest
  obtain ⟨w0, w1, _, hop, ho, hx, hd⟩ := decode_encMat 4 _ o rest
  exact hd.trans (by simp only [decodeLong, decodeLongMat, hop, ho, hx]; rfl)
theorem tscl (o : MatOps) : Statement (.tscl o) := by
  rintro _ ⟨⟩ rest
  obtain ⟨w0, w1, _, hop, ho, hx, hd⟩ := decode_encMat 4 _ o rest
  exact hd.trans (by simp only [decodeLong, decodeLongMat, hop, ho, hx]; rfl)
theorem tcvt (o : MatOps) : Statement (.tcvt o) := by
  rintro _ ⟨⟩ rest
  obtain ⟨w0, w1, _, hop, ho, hx, hd⟩ := decode_encMat 4 _ o rest
  exact hd.trans (by simp only [decodeLong, decodeLongMat, hop, ho, hx]; rfl)
theorem nop (o : CtlOps) : Statement (.nop o) := by
  rintro _ ⟨⟩ rest
  obtain ⟨w0, w1, _, hop, ho, hx, hd⟩ := decode_encCtl 7 _ o rest
  exact hd.trans (by simp only [decodeLong, decodeLongCtrl, hop, ho, hx]; rfl)
theorem bra (o : BrOps) : Statement (.bra o) := by
  rintro _ ⟨⟩ rest
  obtain ⟨w0, w1, _, hop, ho, hx, hd⟩ := decode_encBr 7 _ o rest
  exact hd.trans (by simp only [decodeLong, decodeLongCtrl, hop, ho, hx]; rfl)
theorem brc (o : BrOps) : Statement (.brc o) := by
  rintro _ ⟨⟩ rest
  obtain ⟨w0, w1, _, hop, ho, hx, hd⟩ := decode_encBr 7 _ o rest
  exact hd.trans (by simp only [decodeLong, decodeLongCtrl, hop, ho, hx]; rfl)
theorem join (o : CtlOps) : Statement (.join o) := by
  rintro _ ⟨⟩ rest
  obtain ⟨w0, w1, _, hop, ho, hx, hd⟩ := decode_encCtl 7 _ o rest
  exact hd.trans (by simp only [decodeLong, decodeLongCtrl, hop, ho, hx]; rfl)
theorem brgp (o : BrOps) : Statement (.brgp o) := by
  rintro _ ⟨⟩ rest
  obtain ⟨w0, w1, _, hop, ho, hx, hd⟩ := decode_encBr 7 _ o rest
  exact hd.trans (by simp only [decodeLong, decodeLongCtrl, hop, ho, hx]; rfl)
theorem rgjoin (o : CtlOps) : Statement (.rgjoin o) := by
  rintro _ ⟨⟩ rest
  obtain ⟨w0, w1, _, hop, ho, hx, hd⟩ := decode_encCtl 7 _ o rest
  exact hd.trans (by simp only [decodeLong, decodeLongCtrl, hop, ho, hx]; rfl)
theorem call (o : BrOps) : Statement (.call o) := by
  rintro _ ⟨⟩ rest
  obtain ⟨w0, w1, _, hop, ho, hx, hd⟩ := decode_encBr 7 _ o rest
  exact hd.trans (by simp only [decodeLong, decodeLongCtrl, hop, ho, hx]; rfl)
theorem ret (o : CtlOps) : Statement (.ret o) := by
  rintro _ ⟨⟩ rest
  obtain ⟨w0, w1, _, hop, ho, hx, hd⟩ := decode_encCtl 7 _ o rest
  exact hd.trans (by simp only [decodeLong, decodeLongCtrl, hop, ho, hx]; rfl)
theorem bri (o : CtlOps) : Statement (.bri o) := by
  rintro _ ⟨⟩ rest
  obtain ⟨w0, w1, _, hop, ho, hx, hd⟩ := decode_encCtl 7 _ o rest
  exact hd.trans (by simp only [decodeLong, decodeLongCtrl, hop, ho, hx]; rfl)
theorem exit (o : CtlOps) : Statement (.exit o) := by
  rintro _ ⟨⟩ rest
  obtain ⟨w0, w1, _, hop, ho, hx, hd⟩ := decode_encCtl 7 _ o rest
  exact hd.trans (by simp only [decodeLong, decodeLongCtrl, hop, ho, hx]; rfl)
theorem trap (o : CtlOps) : Statement (.trap o) := by
  rintro _ ⟨⟩ rest
  obtain ⟨w0, w1, _, hop, ho, hx, hd⟩ := decode_encCtl 7 _ o rest
  exact hd.trans (by simp only [decodeLong, decodeLongCtrl, hop, ho, hx]; rfl)
theorem eret (o : CtlOps) : Statement (.eret o) := by
  rintro _ ⟨⟩ rest
  obtain ⟨w0, w1, _, hop, ho, hx, hd⟩ := decode_encCtl 7 _ o rest
  exact hd.trans (by simp only [decodeLong, decodeLongCtrl, hop, ho, hx]; rfl)
theorem brk (o : CtlOps) : Statement (.brk o) := by
  rintro _ ⟨⟩ rest
  obtain ⟨w0, w1, _, hop, ho, hx, hd⟩ := decode_encCtl 7 _ o rest
  exact hd.trans (by simp only [decodeLong, decodeLongCtrl, hop, ho, hx]; rfl)
theorem defer (o : CtlOps) : Statement (.defer o) := by
  rintro _ ⟨⟩ rest
  obtain ⟨w0, w1, _, hop, ho, hx, hd⟩ := decode_encCtl 7 _ o rest
  exact hd.trans (by simp only [decodeLong, decodeLongCtrl, hop, ho, hx]; rfl)
theorem tfrd (o : CtlOps) : Statement (.tfrd o) := by
  rintro _ ⟨⟩ rest
  obtain ⟨w0, w1, _, hop, ho, hx, hd⟩ := decode_encCtl 7 _ o rest
  exact hd.trans (by simp only [decodeLong, decodeLongCtrl, hop, ho, hx]; rfl)
theorem tfwr (o : CtlOps) : Statement (.tfwr o) := by
  rintro _ ⟨⟩ rest
  obtain ⟨w0, w1, _, hop, ho, hx, hd⟩ := decode_encCtl 7 _ o rest
  exact hd.trans (by simp only [decodeLong, decodeLongCtrl, hop, ho, hx]; rfl)
theorem tfres (o : CtlOps) : Statement (.tfres o) := by
  rintro _ ⟨⟩ rest
  obtain ⟨w0, w1, _, hop, ho, hx, hd⟩ := decode_encCtl 7 _ o rest
  exact hd.trans (by simp only [decodeLong, decodeLongCtrl, hop, ho, hx]; rfl)
theorem lkill (o : CtlOps) : Statement (.lkill o) := by
  rintro _ ⟨⟩ rest
  obtain ⟨w0, w1, _, hop, ho, hx, hd⟩ := decode_encCtl 7 _ o rest
  exact hd.trans (by simp only [decodeLong, decodeLongCtrl, hop, ho, hx]; rfl)
theorem lnch (o : CtlOps) : Statement (.lnch o) := by
  rintro _ ⟨⟩ rest
  obtain ⟨w0, w1, _, hop, ho, hx, hd⟩ := decode_encCtl 7 _ o rest
  exact hd.trans (by simp only [decodeLong, decodeLongCtrl, hop, ho, hx]; rfl)
theorem undefinedInstruction (cls : BitVec 3) (w0 w1 : BitVec 32) : Statement (.undefinedInstruction cls w0 w1) := fun _ h => nomatch h
theorem dieLeavingReset (d : Nat) : Statement (.dieLeavingReset d) := fun _ h => nomatch h
theorem powerLoss (torn : Bool) : Statement (.powerLoss torn) := fun _ h => nomatch h
theorem linkUp (port : Nat) : Statement (.linkUp port) := fun _ h => nomatch h
theorem securityStateAdvance : Statement (.securityStateAdvance) := fun _ h => nomatch h
theorem atsTranslationCompletion (fn page hpa : Nat) : Statement (.atsTranslationCompletion fn page hpa) := fun _ h => nomatch h
theorem dieUnpark (d : Nat) : Statement (.dieUnpark d) := fun _ h => nomatch h

end Laws.Enc

end Sys2Proof
end

