-- ==== Sys2Proof/Tests/Slice0.lean ====
section
/-! SUPPORT. Tests: ill-formed terms, words of the specification's tables, its worked examples, one step of small states, and for every
statement a state and operands that meet its hypotheses. -/

namespace Sys2Proof.Tests

open Sys2Proof Sys2Proof.Machine

/-! ### Ill-formed terms: one for each check -/

theorem test_wf_short : (Instr.sadd { cc := 0, st := 0, b := 1, a := 127, d := 0 }).wf = false := by decide
theorem test_wf_short_ok : (Instr.sadd { cc := 0, st := 0, b := 1, a := 126, d := 0 }).wf = true := by decide
theorem test_wf_imm : (Instr.smovi { cc := 0, st := 0, imm := 127, a := 0, d := 127 }).wf = false := by decide
theorem test_wf_long : (Instr.saddLong { cc := 0, st := 0, a := 371, d := 0, w1 := .li 0 }).wf = false := by decide
theorem test_wf_word1_resv : (Instr.saddLong { cc := 0, st := 0, a := 370, d := 0, w1 := .lr 1 0 0 0 0 0 }).wf = false := by decide
theorem test_wf_word1_spec : (Instr.saddLong { cc := 0, st := 0, a := 0, d := 0, w1 := .lr 0 0 0 0 511 0 }).wf = false := by decide
theorem test_wf_mem : (Instr.ld { cc := 0, ty := 4, a := 0, d := 0, imm := 0, hint := 0, ord := 0, scope := 0, sb := 0, scl := 0, b := 400 }).wf = false := by
  decide
theorem test_wf_mat : (Instr.mma { cc := 0, st := 0, a := 0, d := 0, resv := 1, sb := 0, fsb := 0, fsa := 0, rm := 0, c := 0, b := 0 }).wf = false := by decide
theorem test_wf_sync : (Instr.bar { cc := 0, st := 0, a := 0, d := 0, resv1 := 0, id := 0, ord := 0, scope := 0, sb := 0, resv2 := 2, b := 0 }).wf = false := by
  decide
theorem test_wf_ctl : (Instr.exit { cc := 0, st := 0, a := 0, d := 0, resv := 1, mod := 0, c := 0, b := 0 }).wf = false := by decide
theorem test_wf_br : (Instr.brc { cc := 0, st := 0, a := 371, d := 0, mod := 0, off := 0 }).wf = false := by decide
theorem test_wf_die : (Instr.dieReset 8).wf = false := by decide
theorem test_wf_lane : (Instr.performRead 1 1 64).wf = false := by decide
theorem test_wf_region : (Instr.zrValidate 4096 0 0).wf = false := by decide
theorem test_wf_port : (Instr.linkDown 6).wf = false := by decide
theorem test_wf_queue : (Instr.qtailWrite 256 0).wf = false := by decide
theorem test_wf_cores : (Instr.workgroupPlace 1 [127, 128]).wf = false := by decide
theorem test_wf_half : (Instr.registerWrite 0 3 0).wf = false := by decide

/-! ### Words of the specification's tables, a family at a time (Tables 10-5 to 10-9, 11-1, 12-2 and the program chapters) -/

theorem test_decode_scalar_short : decode 0 [0x0C587180#32] = .ok (.sadd { cc := 0, st := 0, b := 98, a := 97, d := 99 }) [] := by decide
theorem test_decode_scalar_imm : decode 0 [0x0FA032A8#32] = .ok (.smovi { cc := 0, st := 0, imm := 125, a := 0, d := 101 }) [] := by decide
theorem test_decode_vint_long :
    decode 1 [0x0004A59F#32, 0x08000005#32] = .ok (.vcmpLong { cc := 0, st := 0, a := 4, d := 331, w1 := .lr 0 8 0 0 0 5 }) [] := by decide
theorem test_decode_vint_li :
    decode 1 [0x8148A043#32, 0x00082005#32] = .ok (.xsetLong { cc := 0, st := 0, a := 328, d := 320, w1 := .li 0x82005 }) [] := by decide
theorem test_decode_vfp_short : decode 2 [0xC182C504#32] = .ok (.fmul { cc := 3, st := 0, b := 12, a := 11, d := 10 }) [] := by decide
theorem test_decode_vfp_long :
    decode 2 [0x60060201#32, 0x01040008#32] = .ok (.faddLong { cc := 3, st := 0, a := 6, d := 4, w1 := .lr 0 1 0 1 0 8 }) [] := by decide
theorem test_decode_ffma : decode 2 [0x60050387#32, 0x00081208#32] = .ok (.ffma { cc := 3, st := 0, a := 5, d := 7, w1 := .lr 0 0 0 2 9 8 }) [] := by decide
theorem test_decode_aff :
    decode 5 [0x0154AA85#32, 0x00000156#32] = .ok (.aadd { cc := 0, st := 0, a := 340, d := 341, w1 := .lr 0 0 0 0 0 342 }) [] := by decide
theorem test_decode_ld : decode 3 [0x69020201#32, 0x02030C09#32] =
    .ok (.ld { cc := 3, ty := 4, a := 258, d := 4, imm := 16, hint := 0, ord := 1, scope := 4, sb := 1, scl := 2, b := 9 }) [] := by decide
theorem test_decode_stl : decode 3 [0x0B1D8587#32, 0x01000148#32] =
    .ok (.stl { cc := 0, ty := 5, a := 285, d := 267, imm := 8, hint := 0, ord := 0, scope := 0, sb := 0, scl := 0, b := 328 }) [] := by decide
theorem test_decode_mma : decode 4 [0x01632001#32, 0x09048164#32] =
    .ok (.mma { cc := 0, st := 0, a := 355, d := 64, resv := 0, sb := 1, fsb := 1, fsa := 0, rm := 1, c := 64, b := 356 }) [] := by decide
theorem test_decode_semwait : decode 6 [0x0000000B#32, 0x00100114#32] =
    .ok (.semwait { cc := 0, st := 0, a := 0, d := 0, resv1 := 0, id := 2, ord := 0, scope := 0, sb := 0, resv2 := 0, b := 276 }) [] := by decide
theorem test_decode_brc : decode 7 [0x814B0005#32, 0x00000007#32] = .ok (.brc { cc := 0, st := 0, a := 331, d := 0, mod := 0, off := 7 }) [] := by decide
theorem test_decode_exit :
    decode 7 [0x00000013#32, 0#32] = .ok (.exit { cc := 0, st := 0, a := 0, d := 0, resv := 0, mod := 0, c := 0, b := 0 }) [] := by decide
theorem test_decode_table : decodeTableWord 32 0x0C587180 = some (.sadd { cc := 0, st := 0, b := 98, a := 97, d := 99 }) := by decide
/-- OP 63 of class SCALAR is no instruction (R236); a short word in class MEM is none (R225). -/
theorem test_decode_undefined : decode 0 [0x7F#32, 0#32] = .bad .undefinedOpcode := by decide
theorem test_decode_short_mem : decode 3 [0#32] = .bad .shortWordInLongClass := by decide

/-! ### Worked examples -/

/-- Chapter 2's worked encodes: block 0 encodes to the bytes it gives, and decodes to its values and its bound. -/
def line8 : ZRegion :=
  { valid := true, rd := true, wr := true, launch := false, wide := false, dims := 1, rate := 8, err := 0, vbase := 0, cbase := 0, nx := 16, ny := 1, nz := 1 }
theorem test_encode_block : encodeBlock line8 [0x3F800000, 0x40000000, 0x40400000, 0x40800000] = [0x02, 0x15, 0xFC, 0xFF] := by decide
theorem test_decode_block : (decodeBlock line8 [0x02, 0x15, 0xFC, 0xFF]).elems = [0x3F800000, 0x40000000, 0x40400000, 0x40800000] := by decide
theorem test_decode_bound : (decodeBlock line8 [0x02, 0x15, 0xFC, 0xFF]).bound = 0x3F400005 := by decide
theorem test_encode_block1 : encodeBlock line8 [0x40400000, 0x3F800000, 0xBF800000, 0x3F200000] = [0x00, 0x0F, 0x09, 0xE9] := by decide +kernel
/-- R126: the check value of CRC-32C, and the sum of Table 23-5's first words. -/
theorem test_crc32c : crcOut (crcFrom crcInit [0x31, 0x32, 0x33, 0x34, 0x35, 0x36, 0x37, 0x38, 0x39]) = 0xE3069283 := by decide +kernel
theorem test_add32 : add32 [1, 0, 0, 0, 0xFF, 0xFF, 0xFF, 0xFF, 7] = 7 := by decide
/-- Chapter 12's worked product: the slots of Table 12-11, and the radius 2.4375. -/
def product12 : Aff :=
  productAff ⟨0x4000000000000000, 0, false, [(17, 0x3F000000)]⟩ ⟨0x4008000000000000, 0x3E000000, false, [(17, 0x3E800000)]⟩ none 40
theorem test_affine_product :
    affPack product12 = [0, 0x40180000, 0x3E800000, 2, 0x40000000, 0x3E400000, 0, 0, 0, 0, 0, 0, 0x00028011, 0, 0, 0] := by decide +kernel
theorem test_affine_radius : radOf product12 = 0x401C0000 := by decide +kernel

/-! ### A small device with one flight, and a check of what `Free` asks -/

/-- Record: one flight of 128 vector registers and 16 tiles, 4 KiB of local memory, 16 semaphores, DEFER and PERSIST, affine registers from v64; slot 0 FP64, slot 1
blocks of E4M3, slot 2 BF16, slot 3 E4M3 (Table 09-8). -/
def rec0 : List DWord :=
  [0x11000#64, BitVec.ofNat 64 (1 + 1 * 2 ^ 4 + 1 * 2 ^ 8 + 1 * 2 ^ 24 + 1 * 2 ^ 28 + 128 * 2 ^ 34 + 16 * 2 ^ 43),
   BitVec.ofNat 64 (4096 + 16 * 2 ^ 20 + 2 ^ 32 + 2 ^ 33 + 2 ^ 36 + 64 * 2 ^ 40 + 4095 * 2 ^ 48), 0, 0, 0, 0, 0, 0, 0, 0, 0, 0, 0, 0, 0, 0, 0x8404, 3, 4]

/-- A flight at the last instruction of its clause, with registers that differ from lane to lane. -/
def fl (w0 w1 : Word) (cls : Nat) : Flight :=
  { id := 1, launch := 1, wg := 1, nVregs := 128, nTiles := 16, priv := true, pc := 0x11000, place := .active 0
    clause := some { cls, words := [w0, w1], left := 1, chk := true, def_ := false }
    v := [(64 * 2, 5), (64 * 2 + 1, 6), (64 * 3, 7)], s := [(1, 9), (2, 0x20000), (3, 4)], p := [(1, 3)]
    x := (List.range 64).map (fun l => (l, 0x00082005)), shapes := [(1, 0x80401010), (2, 0x80401010), (3, 0x81202010)]
    walkRes := [⟨1, 0, 0, 1, 127, 16⟩, ⟨2, 0, 0, 2, 127, 16⟩] }

/-- The device around it: a header that opens a region stands after the instruction. -/
def st (f : Flight) : State :=
  { State.reset with
    nextId := 10, cur := 1, flights := [f], launches := [{ id := 1, recd := rec0, asid := 1, priv := true }]
    wgs := [{ id := 1, launch := 1, size := 4096, nsem := 16, tag := 1 }]
    mem := { State.reset.mem with bytes := [(0x11008, 0x01), (0x1100A, 0x02), (0x1100B, 0xD0), (0x20000, 0x2A)] } }

def readyB (s : State) (f : Flight) (cls : Nat) : Bool :=
  decide (s.flight? s.cur = some f) && f.isActive && !s.isHeld f && decide (f.port = .free) && !f.leaving && decide (f.capTrap = none)
  && decide (f.nextIssue ≤ s.clock) && s.slotFree f cls && !f.bucketParked && !f.crossing && decide (f.refused = []) && !f.step && decide (s.partner f = none) && !f.isShadow

theorem ready_of {s : State} {f : Flight} {cls : Nat} (h : readyB s f cls = true) : Ready s f cls := by
  simp only [readyB, Bool.and_eq_true, decide_eq_true_eq, Bool.not_eq_true'] at h
  obtain ⟨⟨⟨⟨⟨⟨⟨⟨⟨⟨⟨⟨⟨h1, h2⟩, h3⟩, h4⟩, h5⟩, h6⟩, h7⟩, h8⟩, h9⟩, h10⟩, h11⟩, h12⟩, h13⟩, h14⟩ := h
  exact ⟨h1, h2, h3, h4, h5, h6, h7, h8, h9, h10, h11, h12, h13, h14⟩

/-- Whether every index register that operand `o` uses resolves. -/
def resolvesB (f : Flight) (o : Opnd) : Bool :=
  match okind o.spec with
  | .vx n _ => o.self || (lanesOf f.exm).all fun l => match resolve f n o.regs l with | .ok _ => true | .error _ => false
  | _ => true

theorem resolves_of {f : Flight} {o : Opnd} (h : resolvesB f o = true) (c : Nat) : o.failLanes f c = [] := by
  unfold resolvesB at h
  unfold Opnd.failLanes
  cases hk : okind o.spec with
  | vx n p =>
    simp only [hk, Bool.or_eq_true, List.all_eq_true] at h
    cases hs : o.self with
    | true => simp
    | false =>
      simp only [hs, Bool.false_eq_true, false_or] at h
      simp only [Bool.false_eq_true, if_false, List.filter_eq_nil_iff]
      intro l hl
      have := h l hl
      revert this
      cases resolve f n o.regs l <;> simp
  | _ => simp

def freeB (s : State) (f : Flight) (cls : Nat) (os : List Opnd) (part : DWord) : Bool :=
  readyB s f cls && os.all (fun o => decide (o.bad f (s.afb f) = false)) && os.all (fun o => (o.regList f (s.afb f)).all fun r => decide (f.isPending r = false))
  && f.fixed.isEmpty && os.all (resolvesB f) && (match countReads f (s.afb f) os f.counts with | .ok _ => true | .error _ => false)
  && os.all fun o => (o.marked f (s.afb f) part).isEmpty

theorem free_of {s : State} {f : Flight} {cls : Nat} {os : List Opnd} {part : DWord} (h : freeB s f cls os part = true) : Free s f cls os part := by
  simp only [freeB, Bool.and_eq_true, List.all_eq_true, decide_eq_true_eq, List.isEmpty_iff] at h
  obtain ⟨⟨⟨⟨⟨⟨h1, h2⟩, h3⟩, h4⟩, h5⟩, h6⟩, h7⟩ := h
  refine { toReady := ready_of h1, legal := h2, landed := h3, delivered := ?_, index := fun o ho c => resolves_of (h5 o ho) c, unreleased := ?_, unmarked := h7 }
  · rw [h4]; intro x hx; cases hx
  · revert h6
    cases countReads f (s.afb f) os f.counts with
    | ok m => exact fun _ => ⟨m, rfl⟩
    | error e => intro h; cases h

def ones : DWord := BitVec.allOnes 64

theorem tidy {x : Fields} {n : Nat} (h : (decide (x.resv = 0) && decide (x.rm = 0) && decide (x.fs = 0) && decide (x.mod < n)) = true) : Tidy x n := by
  simp only [Bool.and_eq_true, decide_eq_true_eq] at h
  exact ⟨h.1.1.1, h.1.1.2, h.1.2, h.2⟩
theorem tidyFp {x : Fields} {n : Nat} (h : (decide (x.resv = 0) && decide (x.fs = 0) && decide (x.mod < n)) = true) : TidyFp x n := by
  simp only [Bool.and_eq_true, decide_eq_true_eq] at h
  exact ⟨h.1.1, h.1.2, h.2⟩

/-! ### Witnesses: scalar, lane and floating-point instructions -/

/-- Words of class SCALAR, VINT, VFP and AFF from their fields. -/
def lr (d a b : BitVec 9) (mod : BitVec 6 := 0) (c : BitVec 9 := 328) (rm fs : BitVec 3 := 0) : LongOps :=
  { cc := 3, st := 0, a, d, w1 := .lr 0 mod fs rm c b }
def li (d a : BitVec 9) (imm : BitVec 32) : LongOps := { cc := 3, st := 0, a, d, w1 := .li imm }
def sh (d a b : BitVec 7) : ShortOps := { cc := 3, st := 0, b, a, d }
def f0 : Flight := fl 0 0 0
/-- The operands of `os` may be used now, in the device with `f0`. -/
def Can (cls : Nat) (os : List Opnd) : Prop := Free (st f0) f0 cls os f0.exm
/-- A word without C. -/
def CanTidy (x : Fields) (mods cls : Nat) (os : List Opnd) : Prop := Tidy x mods ∧ NoC x ∧ Can cls os

theorem can {cls : Nat} {os : List Opnd} (h : freeB (st f0) f0 cls os f0.exm = true) : Can cls os := free_of h

/-- D a scalar register, a predicate and ZERO; A a register and EXM; B a register, ZERO and an immediate. -/
theorem witness_ScalarArithmetic :
    (let x := ofShort (sh 99 97 98); CanTidy x 1 0 (dst 0 x.d sD :: src 1 x.a sK :: srcB x.b sK)) ∧
    (let x := ofLong (lr 331 338 328); CanTidy x 1 0 (dst 0 x.d sD :: src 1 x.a sK :: srcB x.b sK)) ∧
    (let x := ofLong (li 328 257 5); CanTidy x 1 0 (dst 0 x.d sD :: src 1 x.a sK :: srcB x.b sK)) :=
  ⟨⟨tidy (by decide), rfl, can (by decide +kernel)⟩, ⟨tidy (by decide), rfl, can (by decide +kernel)⟩, ⟨tidy (by decide), rfl, can (by decide +kernel)⟩⟩

theorem witness_ScalarCompareMoveCount :
    (let x := ofLong (lr 260 257 258 11); CanTidy x 12 0 (dst 0 x.d sD :: src 1 x.a sK :: srcB x.b sK)) ∧
    (let x := ofLong (lr 260 257 258 0 331); Tidy x 1 ∧ Can 0 (dst 0 x.d sD :: src 1 x.a sK :: (srcB x.b sK ++ [src 3 x.c sK]))) ∧
    (let x := ofShort (sh 99 126 0); Tidy x 1 ∧ IsLR x ∧ NoC x ∧ NoB x ∧ Can 0 [dst 0 x.d sD, src 1 x.a sK]) ∧
    (let x := ofImm true { cc := 3, st := 0, imm := 127, a := 0, d := 99 }; Tidy x 1 ∧ IsLI x ∧ NoA x ∧ Can 0 [dst 0 x.d sD]) ∧
    (let x := ofLong (li 260 257 0xFFFFFFFF); Tidy x 1 ∧ IsLI x ∧ Can 0 [dst 0 x.d sD, src 1 x.a [.s, .z]]) ∧
    (let x := ofLong (lr 260 338 328); Tidy x 1 ∧ IsLR x ∧ NoC x ∧ NoB x ∧ Can 0 [dst 0 x.d [.s, .z], src 1 x.a sK]) ∧
    (let x := ofLong (lr 260 257 258 3 331); Tidy x 4 ∧ Can 0 (dst 0 x.d [.s, .z] :: src 1 x.a sK :: (srcB x.b sK ++ [src 3 x.c sK]))) :=
  ⟨⟨tidy (by decide), rfl, can (by decide +kernel)⟩, ⟨tidy (by decide), can (by decide +kernel)⟩, ⟨tidy (by decide), .inl rfl, rfl, rfl, can (by decide +kernel)⟩,
    ⟨tidy (by decide), rfl, rfl, can (by decide +kernel)⟩, ⟨tidy (by decide), rfl, can (by decide +kernel)⟩, ⟨tidy (by decide), .inr rfl, rfl, rfl, can (by decide +kernel)⟩,
    ⟨tidy (by decide), can (by decide +kernel)⟩⟩

/-- A divisor of 0, and MOD 1. -/
theorem witness_ScalarDivision :
    let x := ofLong (lr 260 257 328 1); CanTidy x 2 0 (dst 0 x.d [.s, .z] :: src 1 x.a sK :: srcB x.b sK) ∧ x.b.uni f0 = 0 :=
  ⟨⟨tidy (by decide), rfl, can (by decide +kernel)⟩, by decide⟩

def handlerless : Flight := { f0 with priv := false }
/-- Record word 63, special registers 0, 12 and 19 to s and to v, SWR of both codes in both privileges, and a lane. -/
theorem witness_ScalarRecordSpecialAndLane :
    (let x := ofLong (li 260 328 63); Tidy x 1 ∧ IsLI x ∧ Can 0 [dst 0 x.d [.s, .z], src 1 x.a [.s, .z]] ∧ (rdUni f0 x.a).toNat + x.b.immU < 64) ∧
    (let x := ofLong (li 260 0 12); Tidy x 1 ∧ IsLI x ∧ NoA x ∧ x.b.immU ≤ 12 ∧ x.b.immU ≠ 0 ∧ Can 0 [dst 0 x.d [.s, .z, .v, .vx]]) ∧
    (let x := ofLong (li 4 0 19); Tidy x 1 ∧ IsLI x ∧ NoA x ∧ 16 ≤ x.b.immU ∧ x.b.immU ≤ 19 ∧ Can 0 [dst 0 x.d [.s, .z, .v, .vx]]) ∧
    (let x := ofLong (li 320 0 0); Tidy x 1 ∧ IsLI x ∧ NoA x ∧ x.b.immU ≤ 12 ∧ (∃ n p, okind x.d = .vx n p) ∧ Can 0 [dst 0 x.d [.s, .z, .v, .vx]]) ∧
    (let x := ofLong (lr 260 4 258 2); Tidy x 3 ∧ NoC x ∧ Can 0 (dst 0 x.d [.s, .z] :: src 1 x.a [.v] 2 :: srcB x.b [.s, .z])) ∧
    (let x := ofLong (li 0 257 17); Tidy x 1 ∧ IsLI x ∧ unused x.d = true ∧ x.b.immU = 17 ∧ Can 0 [src 1 x.a [.s, .z]] ∧ f0.priv = true) ∧
    (let x := ofLong (li 0 257 18); Tidy x 1 ∧ IsLI x ∧ unused x.d = true ∧ x.b.immU = 18 ∧
      Ready (st handlerless) handlerless 0 ∧ handlerless.isHandler = false ∧
      Free (st handlerless) handlerless 0 [src 1 x.a [.s, .z]] ones ∧ handlerless.priv = false) :=
  ⟨⟨tidy (by decide), rfl, can (by decide +kernel), by decide⟩, ⟨tidy (by decide), rfl, rfl, by decide, by decide, can (by decide +kernel)⟩,
    ⟨tidy (by decide), rfl, rfl, by decide, by decide, can (by decide +kernel)⟩, ⟨tidy (by decide), rfl, rfl, by decide, ⟨0, false, rfl⟩, can (by decide +kernel)⟩,
    ⟨tidy (by decide), rfl, can (by decide +kernel)⟩, ⟨tidy (by decide), rfl, rfl, rfl, can (by decide +kernel), rfl⟩,
    ⟨tidy (by decide), rfl, rfl, rfl, ready_of (by decide), rfl, free_of (by decide +kernel), rfl⟩⟩

/-- Words of 32 and 64 bits, an indexed and post-incremented operand, LANEID, a short word and an immediate. -/
theorem witness_LaneArithmetic :
    (let x := ofLong (lr 4 324 329); CanTidy x 2 1 (dst 0 x.d vD 1 :: src 1 x.a vK 1 :: srcB x.b vK 1)) ∧
    (let x := ofLong (lr 4 2 6 3); CanTidy x 4 1 (dst 0 x.d vD 2 :: src 1 x.a vK 2 :: srcB x.b vK 2)) ∧
    (let x := ofShort (sh 4 2 3); CanTidy x 2 1 (dst 0 x.d vD 1 :: src 1 x.a vK 1 :: srcB x.b vK 1)) ∧
    (let x := ofLong (li 320 2 0x80000000); CanTidy x 2 1 (dst 0 x.d vD 1 :: src 1 x.a vK 1 :: srcB x.b vK 1)) ∧
    (let x := ofLong (lr 4 2 0 1); Tidy x 2 ∧ NoC x ∧ NoB x ∧ Can 1 [dst 0 x.d vD 2, src 1 x.a vK 2]) :=
  ⟨⟨tidy (by decide), rfl, can (by decide +kernel)⟩, ⟨tidy (by decide), rfl, can (by decide +kernel)⟩, ⟨tidy (by decide), rfl, can (by decide +kernel)⟩,
    ⟨tidy (by decide), rfl, can (by decide +kernel)⟩, ⟨tidy (by decide), rfl, rfl, can (by decide +kernel)⟩⟩

theorem witness_LaneMultiplyAddCarryMoveAndField :
    (let x := ofLong (lr 4 2 3 3 6); Tidy x 4 ∧ Can 1 (dst 0 x.d vD 2 :: src 1 x.a vK 1 :: (srcB x.b vK 1 ++ [src 3 x.c vK 2]))) ∧
    (let x := ofLong (lr 4 2 3 1 331); Tidy x 2 ∧ Can 1 (dst 0 x.d vD :: src 1 x.a vK :: (srcB x.b vK ++ [{ pos := 3, spec := x.c, use := .both, kinds := [.p] }]))) ∧
    (let x := ofLong (lr 4 2 0 1); Tidy x 2 ∧ NoC x ∧ NoB x ∧ Can 1 [dst 0 x.d vD 2, src 1 x.a vK 2]) ∧
    (let x := ofImm true { cc := 3, st := 0, imm := 64, a := 0, d := 4 }; Tidy x 1 ∧ IsLI x ∧ NoA x ∧ Can 1 [dst 0 x.d vD]) ∧
    (let x := ofLong (lr 4 2 3 1); CanTidy x 2 1 (dst 0 x.d vD :: src 1 x.a vK :: srcB x.b vK)) ∧
    (let x := ofLong (lr 4 2 3 0 5); Tidy x 1 ∧ Can 1 (dst 0 x.d vD :: src 1 x.a vK :: (srcB x.b vK ++ [src 3 x.c vK]))) :=
  ⟨⟨tidy (by decide), can (by decide +kernel)⟩, ⟨tidy (by decide), can (by decide +kernel)⟩, ⟨tidy (by decide), rfl, rfl, can (by decide +kernel)⟩,
    ⟨tidy (by decide), rfl, rfl, can (by decide +kernel)⟩, ⟨tidy (by decide), rfl, can (by decide +kernel)⟩, ⟨tidy (by decide), can (by decide +kernel)⟩⟩

theorem witness_LaneCompareSelectVoteAndPredicates :
    (let x := ofLong (lr 331 2 6 23); CanTidy x 24 1 (dst 0 x.d [.p] :: src 1 x.a vK 2 :: srcB x.b vK 2)) ∧
    (let x := ofLong (lr 4 2 6 1 331); Tidy x 2 ∧ Can 1 (dst 0 x.d vD 2 :: src 1 x.a vK 2 :: (srcB x.b vK 2 ++ [src 3 x.c [.p]]))) ∧
    (let x := ofLong (lr 260 2 328 7); Tidy x 8 ∧ IsLR x ∧ NoC x ∧ NoB x ∧ Can 1 [dst 0 x.d sD, src 1 x.a [.v, .vx, .s, .l, .p] 2]) ∧
    (let x := ofLong (lr 331 338 328 31); Tidy x 32 ∧ IsLR x ∧ NoC x ∧ Can 1 (dst 0 x.d [.p] :: src 1 x.a [.p, .e, .s, .z] :: srcB x.b [.p, .e, .s, .z])) ∧
    (let x := ofShort (sh 99 0 0); Tidy x 1 ∧ IsLR x ∧ NoC x ∧ NoB x ∧ NoA x ∧ Can 1 [dst 0 x.d sD]) :=
  ⟨⟨tidy (by decide), rfl, can (by decide +kernel)⟩, ⟨tidy (by decide), can (by decide +kernel)⟩, ⟨tidy (by decide), .inr rfl, rfl, rfl, can (by decide +kernel)⟩,
    ⟨tidy (by decide), .inr rfl, rfl, can (by decide +kernel)⟩, ⟨tidy (by decide), .inl rfl, rfl, rfl, rfl, can (by decide +kernel)⟩⟩

/-- A flight whose lane 9 is dead; s1 names that lane. -/
def fdead : Flight := { f0 with dead := 0x200, exm := ~~~(0x200#64) }
theorem witness_CrossLane :
    (let x := ofLong (lr 4 2 258 1); CanTidy x 2 1 (dst 0 x.d vD 2 :: src 1 x.a [.v] 2 :: srcB x.b [.s, .z]) ∧ f0.dead.getLsbD ((x.b.uni f0).setWidth 6).toNat = false) ∧
    (let x := ofLong (lr 4 2 3 7); CanTidy x 8 1 (dst 0 x.d vD 2 :: src 1 x.a [.v] 2 :: srcB x.b vK) ∧
      ∀ l < 64, f0.exm.getLsbD l = true → f0.dead.getLsbD (shuffleFrom (x.mod % 4) (x.b.lane f0 1 l) l) = false) ∧
    (let x := ofLong (lr 4 2 3 1); CanTidy x 2 1 (dst 0 x.d vD 2 :: src 1 x.a vK 2 :: srcB x.b vK)) ∧
    (let x := ofLong (lr 260 2 328 43); Tidy x 48 ∧ x.mod / 4 % 2 = 0 ∧ IsLR x ∧ NoC x ∧ NoB x ∧ Can 1 [dst 0 x.d [.s, .z], src 1 x.a vK 2]) ∧
    (let x := ofLong (lr 4 2 328 47); Tidy x 48 ∧ IsLR x ∧ NoC x ∧ NoB x ∧ Can 1 [dst 0 x.d vD 2, src 1 x.a vK 2]) :=
  ⟨⟨⟨tidy (by decide), rfl, can (by decide +kernel)⟩, by decide⟩, ⟨⟨tidy (by decide), rfl, can (by decide +kernel)⟩, by decide⟩, ⟨tidy (by decide), rfl, can (by decide +kernel)⟩,
    ⟨tidy (by decide), rfl, .inr rfl, rfl, rfl, can (by decide +kernel)⟩, ⟨tidy (by decide), .inr rfl, rfl, rfl, can (by decide +kernel)⟩⟩

theorem witness_ReadsOfDeadLanes :
    (let x := ofLong (lr 4 2 257); Tidy x 2 ∧ NoC x ∧ Free (st fdead) fdead 1 (dst 0 x.d vD :: src 1 x.a [.v] :: srcB x.b [.s, .z]) fdead.exm ∧
      fdead.dead.getLsbD ((x.b.uni fdead).setWidth 6).toNat = true) ∧
    (let x := ofLong (lr 4 2 257); Tidy x 8 ∧ NoC x ∧ Free (st fdead) fdead 1 (dst 0 x.d vD :: src 1 x.a [.v] :: srcB x.b vK) fdead.exm ∧
      fdead.dead.getLsbD (shuffleFrom (x.mod % 4) (x.b.lane fdead 1 0) 0) = true) :=
  ⟨⟨tidy (by decide), rfl, free_of (by decide +kernel), by decide⟩, ⟨tidy (by decide), rfl, free_of (by decide +kernel), by decide⟩⟩

theorem witness_ExmsetXsetXinc :
    (let x := ofLong (lr 0 331 0 2); Tidy x 3 ∧ IsLR x ∧ NoC x ∧ NoB x ∧ unused x.d = true ∧ Can 1 [src 1 x.a [.p, .s, .e, .z]]) ∧
    (let x := ofLong (li 320 328 0x01082007); CanTidy x 1 1 ({ pos := 0, spec := x.d, use := .dst, kinds := [.vx], self := true } :: src 1 x.a vK :: srcB x.b vK) ∧
      okind x.d = .vx 0 false) ∧
    (let x := ofImm true { cc := 3, st := 0, imm := 123, a := 0, d := 112 }; Tidy x 1 ∧ IsLI x ∧ NoA x ∧
      Can 1 [{ pos := 0, spec := x.d, use := .both, kinds := [.vx], self := true }] ∧ okind x.d = .vx 0 false) :=
  ⟨⟨tidy (by decide), .inr rfl, rfl, rfl, rfl, can (by decide +kernel)⟩, ⟨⟨tidy (by decide), rfl, can (by decide +kernel)⟩, rfl⟩,
    ⟨tidy (by decide), rfl, rfl, can (by decide +kernel), rfl⟩⟩

/-- FP32 and FP64, an immediate, a packed type, three operands, and a flight whose counters cross nothing. -/
theorem witness_FloatArithmetic :
    (let x := ofLong (lr 4 2 6 1 328 4); TidyFp x 2 ∧ NoC x ∧ Can 2 (dst 0 x.d vD 2 :: src 1 x.a fK 2 :: srcB x.b fK 2)) ∧
    (let x := ofShort (sh 4 2 3); TidyFp x 2 ∧ NoC x ∧ Can 2 (dst 0 x.d vD :: src 1 x.a fK :: srcB x.b fK)) ∧
    (let x := ofLong (lr 4 2 6 7); CanTidy x 8 2 (dst 0 x.d vD :: src 1 x.a fK :: srcB x.b fK)) ∧
    (let x := ofLong (lr 4 2 6 1 8); TidyFp x 2 ∧ IsLR x ∧ Can 2 (dst 0 x.d vD 2 :: src 1 x.a fK 2 :: (srcB x.b fK 2 ++ [src 3 x.c fK 2]))) ∧
    (let x := ofLong (lr 4 2 328 3); Tidy x 4 ∧ x.mod < 4 ∧ IsLR x ∧ NoC x ∧ NoB x ∧ Can 2 [dst 0 x.d vD, src 1 x.a fK]) ∧
    (let x := ofLong (lr 4 2 328 1 328 7); TidyFp x 2 ∧ IsLR x ∧ NoC x ∧ NoB x ∧ Can 2 [dst 0 x.d vD 2, src 1 x.a fK 2]) ∧
    NoCross f0 (fun _ => 31) fun _ => .sat :=
  ⟨⟨tidyFp (by decide), rfl, can (by decide +kernel)⟩, ⟨tidyFp (by decide), rfl, can (by decide +kernel)⟩, ⟨tidy (by decide), rfl, can (by decide +kernel)⟩,
    ⟨tidyFp (by decide), .inr rfl, can (by decide +kernel)⟩, ⟨tidy (by decide), by decide, .inr rfl, rfl, rfl, can (by decide +kernel)⟩,
    ⟨tidyFp (by decide), .inr rfl, rfl, rfl, can (by decide +kernel)⟩, by unfold NoCross; decide⟩

theorem witness_FloatCompareClassifyAndModes :
    (let x := ofLong (lr 331 2 6 29); CanTidy x 32 2 (dst 0 x.d [.p] :: src 1 x.a fK 2 :: srcB x.b fK 2) ∧ x.mod % 4 < 2) ∧
    (let x := ofLong (lr 4 2 328 1); Tidy x 2 ∧ IsLR x ∧ NoC x ∧ NoB x ∧ Can 2 [dst 0 x.d vD, src 1 x.a fK 2]) ∧
    (let x := ofLong (li 260 259 7); CanTidy x 1 2 (dst 0 x.d [.s, .z] :: src 1 x.a [.s, .z] :: srcB x.b [.s, .z]) ∧
      f0.residual = [] ∧ (∀ o ∈ f0.ops, o.kind ≠ .result ∧ o.kind ≠ .mma) ∧
      let new := (f0.fmode &&& ~~~(x.b.uni f0)) ||| (rdUni f0 x.a &&& x.b.uni f0)
      new.extractLsb' 0 3 ≠ 0 ∧ new.extractLsb' 3 2 = 0 ∧ new.extractLsb' 9 23 = 0) ∧
    (let x := ofLong (li 260 328 31); CanTidy x 1 2 (dst 0 x.d [.s, .z] :: src 1 x.a [.s, .z] :: srcB x.b [.s, .z]) ∧
      ((f0.fstat &&& ~~~(x.b.uni f0)) ||| (rdUni f0 x.a &&& x.b.uni f0)).extractLsb' 5 11 = 0) :=
  ⟨⟨⟨tidy (by decide), rfl, can (by decide +kernel)⟩, by decide⟩, ⟨tidy (by decide), .inr rfl, rfl, rfl, can (by decide +kernel)⟩,
    ⟨⟨tidy (by decide), rfl, can (by decide +kernel)⟩, rfl, by decide, by decide, by decide, by decide⟩, ⟨⟨tidy (by decide), rfl, can (by decide +kernel)⟩, by decide⟩⟩

/-- A type of a format, a type of slot 0 (FP64), integers of 64 and 8 bits, and blocks of slot 1 with the scale chosen and given. -/
theorem witness_Conversions :
    (let x := ofLong (lr 4 2 328 8); x.resv = 0 ∧ x.mod % 8 < 7 ∧ x.mod / 8 < 7 ∧ IsLR x ∧ NoC x ∧ NoB x ∧ x.fs = 0 ∧ Can 2 [dst 0 x.d vD 2, src 1 x.a fK 1]) ∧
    (let x := ofLong (lr 4 2 328 6); let d := recSlot ((st f0).recOf f0) x.fs
      x.mod % 8 = 6 ∧ IsLR x ∧ NoC x ∧ NoB x ∧ slotOk d = true ∧ slotElem d < 6 ∧ slotSkind d = 0 ∧ Can 2 [dst 0 x.d vD 1, src 1 x.a fK 2]) ∧
    (let x := ofLong (lr 4 2 328 7); TidyFp x 32 ∧ IsLR x ∧ NoC x ∧ NoB x ∧ Can 2 [dst 0 x.d vD 2, src 1 x.a fK 1]) ∧
    (let x := ofLong (lr 4 2 328 29); TidyFp x 32 ∧ IsLR x ∧ NoC x ∧ NoB x ∧ Can 2 [dst 0 x.d vD 2, src 1 x.a fK 1]) ∧
    (let x := ofLong (lr 4 2 328 0 328 1 1); let d := recSlot ((st f0).recOf f0) x.fs
      x.resv = 0 ∧ x.mod < 4 ∧ IsLR x ∧ NoB x ∧ NoC x ∧ slotOk d = true ∧ slotSkind d ≠ 0 ∧ Can 2 [dst 0 x.d vD, src 1 x.a fK 1]) ∧
    (let x := ofLong (lr 4 2 328 3 6 1 1); x.resv = 0 ∧ x.mod < 4 ∧ x.mod % 2 = 1 ∧ IsLR x ∧ NoB x ∧ Can 2 [dst 0 x.d vD, src 1 x.a fK 2, src 3 x.c fK]) :=
  ⟨⟨rfl, by decide, by decide, .inr rfl, rfl, rfl, rfl, can (by decide +kernel)⟩, ⟨rfl, .inr rfl, rfl, rfl, by decide, by decide, by decide, can (by decide +kernel)⟩,
    ⟨tidyFp (by decide), .inr rfl, rfl, rfl, can (by decide +kernel)⟩, ⟨tidyFp (by decide), .inr rfl, rfl, rfl, can (by decide +kernel)⟩,
    ⟨rfl, by decide, .inr rfl, rfl, rfl, by decide, by decide, can (by decide +kernel)⟩, ⟨rfl, by decide, rfl, .inr rfl, rfl, can (by decide +kernel)⟩⟩

theorem witness_FloatSpecialCases : fp64 ∈ [fp64, fp32, fp16, bf16] ∧ (1 : Nat) ≠ 0 := by decide
/-- 1.0 and a subnormal in FP16, and a value between two of them that does not overflow. -/
theorem witness_Rounding :
    fp16 ∈ [fp64, fp32, fp16, bf16, e4m3, e5m2] ∧ fp16.decode 0x3C00 = .num false 1024 (-10) ∧ fp16.decode 1 = .num false 1 (-24) ∧
      (1 : Nat) ≤ 7 ∧ (roundF fp16 7 false false 0 ⟨false, 2049, -11, false⟩).flags &&& fOVF = 0 := by decide +kernel

/-- Affine registers a0 and a1 of zeros are canonical. -/
theorem witness_AffineLinear :
    (let x := ofLong (lr 341 339 340); Tidy x 1 ∧ IsLR x ∧ NoC x ∧ Can 5 [affO 0 x.d .dst, affO 1 x.a .src, affO 2 (specB x.b) .src] ∧
      canonIn (st f0) f0 x.a ∧ canonIn (st f0) f0 (specB x.b)) ∧
    (let x := ofLong (li 341 257 0x3F800000); CanTidy x 1 5 (affO 0 x.d .dst :: src 1 x.a [.s, .z] :: srcB x.b [.s, .z])) ∧
    (let x := ofLong (lr 341 2 328 1); Tidy x 2 ∧ IsLR x ∧ NoC x ∧ Can 5 (affO 0 x.d .dst :: src 1 x.a fK 2 :: srcB x.b [.v, .s, .z])) ∧
    (let x := ofLong (lr 341 339 2 0 257); Tidy x 1 ∧ IsLR x ∧ Can 5 (affO 0 x.d .dst :: affO 1 x.a .src :: (srcB x.b [.s, .v, .z] 2 ++ [src 3 x.c [.s, .v, .z] 2]))) ∧
    (let x := ofLong (lr 341 339 328 8); Tidy x 9 ∧ IsLR x ∧ NoC x ∧ NoB x ∧ Can 5 [affO 0 x.d .dst, affO 1 x.a .src]) ∧
    (let x := ofLong (lr 341 328 328); Tidy x 1 ∧ IsLR x ∧ NoC x ∧ NoB x ∧ NoA x ∧ Can 5 [affO 0 x.d .both] ∧ canonIn (st f0) f0 x.d) :=
  ⟨⟨tidy (by decide), .inr rfl, rfl, can (by decide +kernel), by unfold canonIn; decide +kernel, by unfold canonIn; decide +kernel⟩,
    ⟨tidy (by decide), rfl, can (by decide +kernel)⟩, ⟨tidy (by decide), .inr rfl, rfl, can (by decide +kernel)⟩, ⟨tidy (by decide), .inr rfl, can (by decide +kernel)⟩,
    ⟨tidy (by decide), .inr rfl, rfl, rfl, can (by decide +kernel)⟩,
    ⟨tidy (by decide), .inr rfl, rfl, rfl, rfl, can (by decide +kernel), by unfold canonIn; decide +kernel⟩⟩

/-- A symbol left to mint, and none. -/
def fspent : Flight := { f0 with symNext := 4096 }
theorem witness_AffineNonlinear :
    (let x := ofLong (lr 341 339 340 0 339); Tidy x 1 ∧ IsLR x ∧ canMint f0 ∧
      Can 5 ([affO 0 x.d .dst, affO 1 x.a .src, affO 2 (specB x.b) .src] ++ [affO 3 x.c .src]) ∧ ∀ r ∈ [x.a, specB x.b, x.c], canonIn (st f0) f0 r) ∧
    (let x := ofLong (lr 341 339 328); NoC x ∧ NoB x ∧ ¬ canMint fspent ∧ Free (st fspent) fspent 5 [affO 0 x.d .dst, affO 1 x.a .src] fspent.exm ∧
      fspent.isHandler = false ∧ ∀ r ∈ [x.a], canonIn (st fspent) fspent r) :=
  ⟨⟨tidy (by decide), .inr rfl, by unfold canMint; decide, can (by decide +kernel), by unfold canonIn; decide +kernel⟩,
    ⟨rfl, rfl, by unfold canMint; decide, free_of (by decide +kernel), rfl, by unfold canonIn; decide +kernel⟩⟩

theorem witness_AffineQueriesAndTransfer :
    (let x := ofLong (lr 4 339 328); Tidy x 1 ∧ IsLR x ∧ NoC x ∧ NoB x ∧ Can 5 [dst 0 x.d [.v] 4, affO 1 x.a .src] ∧ canonIn (st f0) f0 x.a) ∧
    (let x := ofLong (lr 4 339 257); Tidy x 1 ∧ IsLR x ∧ NoC x ∧ Can 5 (dst 0 x.d [.v] :: affO 1 x.a .src :: srcB x.b [.v, .s, .z])) ∧
    (let x := ofLong (lr 341 339 257); Free (st fdead) fdead 5 (affO 0 x.d .dst :: affO 1 x.a .src :: srcB x.b [.v, .s, .z]) fdead.exm ∧
      fdead.dead.getLsbD (x.b.lane fdead 1 0 % 64) = true ∧
      ∀ l < 64, fdead.exm.getLsbD l = true → fdead.dead.getLsbD (x.b.lane fdead 1 l % 64) = false →
        canonical (slotsOf fdead (affBase ((st fdead).afb fdead) (aNum x.a)) (x.b.lane fdead 1 l % 64)) = true) :=
  ⟨⟨tidy (by decide), .inr rfl, rfl, rfl, can (by decide +kernel), by unfold canonIn; decide +kernel⟩, ⟨tidy (by decide), .inr rfl, rfl, can (by decide +kernel)⟩,
    ⟨free_of (by decide +kernel), by decide, by decide +kernel⟩⟩

/-- The centre of an exact value encloses it, for every choice of the symbols' values. -/
theorem witness_AffineEnclosure : (∀ _ : Nat, |(1 : ℚ)| ≤ 1) ∧ (⟨0, 0, true, []⟩ : Aff).unb = true ∧ (40 : Nat) ∉ ([(17, 1)] : List (Nat × Nat)).map Prod.fst :=
  ⟨fun _ => by norm_num, rfl, by decide⟩


/-! ### Witnesses: memory and matrix instructions -/

def f3 : Flight := fl 1 0 3
def Can3 (os : List Opnd) : Prop := Free (st f3) f3 3 os f3.exm
theorem can3 {os : List Opnd} (h : freeB (st f3) f3 3 os f3.exm = true) : Can3 os := free_of h

def mo (d a b : BitVec 9) (ty : BitVec 4 := 4) (imm : BitVec 11 := 0) (ord : BitVec 2 := 0) (scope : BitVec 3 := 0) (scl : BitVec 2 := 0) : MemOps :=
  { cc := 3, ty, a, d, imm, hint := 0, ord, scope, sb := 1, scl, b }

def spotsB (p : Spots) : Bool := match p with | .ok a => !a.isEmpty | .bad _ => false
/-- Some lane has an access. -/
theorem spots_of {p : Spots} (h : spotsB p = true) : ∃ a, p = .ok a ∧ a ≠ [] := by
  cases p with
  | ok a => exact ⟨a, rfl, by simpa [spotsB] using h⟩
  | bad v => cases h

def clearB (s : State) (f : Flight) (sb : Option Nat) (c : Nat) : Bool :=
  (match sb with | some k => decide (f.token k < 63) | none => true) && !f.fenced && (!f.deferring || f.residual.isEmpty)
  && (decide (c = 0) || decide (1 ≤ s.bucket (bucketKey s f)))
theorem clear_of {s : State} {f : Flight} {sb : Option Nat} {c : Nat} (h : clearB s f sb c = true) : Clear s f sb c := by
  simp only [clearB, Bool.and_eq_true, Bool.or_eq_true, Bool.not_eq_true', decide_eq_true_eq, List.isEmpty_iff] at h
  obtain ⟨⟨⟨h1, h2⟩, h3⟩, h4⟩ := h
  refine ⟨?_, h2, h3, h4⟩
  rintro k rfl
  simpa using h1

/-- Buckets are off after reset (R90). -/
theorem no_charge (acc : List Access) : (st f3).charge f3 false acc = 0 := by
  unfold State.charge
  exact if_pos (by decide +kernel)
/-- The header after the instruction opens a region. -/
theorem ends_region : EndsRegion (st f3) f3 :=
  ⟨rfl, 0xD0020001, _, by rfl, by decide, by decide⟩

/-- A load and a store at register address s2, a local load, a release store, and a landing prefetch: each with 64 accesses, and nothing to wait for. -/
theorem witness_LoadsAndStores :
    (let x := ofMem (mo 4 258 328); x.ty ≤ 7 ∧ x.scope ≤ 5 ∧ x.ord = 0 ∧ x.hint = 0 ∧
      Can3 [dst 0 x.d ([.v, .z] ++ if x.ty ≤ 4 then [.vx] else []) 1, memA x false, memB x] ∧
      (∃ a, resolveGlobal (st f3) f3 .load 4 4 false (laneAddrs f3 fun l => (rdLane f3 x.a 2 l + offB f3 x.b l * 2 ^ x.scl) % 2 ^ 64) = .ok a ∧ a ≠ []) ∧
      ∀ acc, (st f3).charge f3 false acc = 0) ∧
    (let x := ofMem (mo 4 328 320 4 0 0 0 2); Can3 [dst 0 x.d ([.v, .z] ++ if x.ty ≤ 4 then [.vx] else []) 1, memA x true, memB x] ∧
      ∃ a, resolveLocal (st f3) f3 4 false (laneAddrs f3 fun l => (rdLane f3 x.a 1 l + offB f3 x.b l * 2 ^ x.scl) % 2 ^ 32) = .ok a ∧ a ≠ []) ∧
    (let x := ofMem (mo 257 258 328 4 0 2 5); x.ord = 2 ∧ x.scope ≠ 0 ∧ x.scope ≤ 5 ∧
      Can3 [src 0 x.d ([.v, .z] ++ (if x.ty ≤ 4 then [.vx] else []) ++ if x.ty ≤ 5 then [.s] else []) 1, memA x false, memB x] ∧
      f3.residual = [] ∧ EndsRegion (st f3) f3 ∧
      ∃ a, resolveGlobal (st f3) f3 .store 4 4 false (laneAddrs f3 fun l => (rdLane f3 x.a 2 l + offB f3 x.b l * 2 ^ x.scl) % 2 ^ 64) = .ok a ∧ a ≠ []) ∧
    Clear (st f3) f3 (some 1) 0 :=
  ⟨⟨by decide, by decide, by decide, by decide, can3 (by decide +kernel), spots_of (by decide +kernel), no_charge⟩,
    ⟨can3 (by decide +kernel), spots_of (by decide +kernel)⟩,
    ⟨by decide, by decide, by decide, can3 (by decide +kernel), rfl, ends_region, spots_of (by decide +kernel)⟩, clear_of (by decide +kernel)⟩

/-- A returning acquire-release addition, a compare-and-swap of 16 bytes, and a local addition without a return. -/
theorem witness_Atomics :
    (let x := ofMem (mo 4 258 257 0 0 3 5); let code := 4 * x.ty + x.scl; atomCodeOk code = true ∧ x.scope ≠ 0 ∧ okind x.d ≠ .zero ∧
      Can3 [dst 0 x.d [.v, .z] (atomSize code / 4), memA x false, src 2 x.b ([.v, .s, .z] ++ if atomSize code / 4 = 1 then [.vx] else []) (atomSize code / 4)] ∧
      f3.residual = [] ∧ EndsRegion (st f3) f3 ∧
      ∃ a, resolveGlobal (st f3) f3 (.atomic code) (atomSize code) (atomSize code) false (laneAddrs f3 fun l => rdLane f3 x.a 2 l % 2 ^ 64) = .ok a ∧ a ≠ []) ∧
    (let x := ofMem (mo 328 328 257); let code := 4 * x.ty + x.scl; atomCodeOk code = true ∧ ¬ okind x.d ≠ .zero ∧
      Can3 [dst 0 x.d [.v, .z] (atomSize code / 4), memA x true, src 2 x.b ([.v, .s, .z] ++ if atomSize code / 4 = 1 then [.vx] else []) (atomSize code / 4)] ∧
      ∃ a, resolveLocal (st f3) f3 (atomSize code) false (laneAddrs f3 fun l => rdLane f3 x.a 1 l % 2 ^ 32) = .ok a ∧ a ≠ []) :=
  ⟨⟨by decide, by decide, by decide, can3 (by decide +kernel), rfl, ends_region, spots_of (by decide +kernel)⟩,
    ⟨by decide, by decide, can3 (by decide +kernel), spots_of (by decide +kernel)⟩⟩

def prefB (p : Except (List Nat) (List Access × Nat)) : Bool := match p with | .ok a => !a.1.isEmpty | .error _ => false
/-- A prefetch of one line, a landing of 64 registers, and a tile load and a release store of 16 rows. -/
theorem witness_PrefetchesAndTiles :
    (let x := ofMem (mo 0 258 328 0); unused x.d = true ∧ Can3 [memA x false, memB x] ∧
      prefB (prefSpots (st f3) f3 (laneAddrs f3 fun l => rdLane f3 x.a 2 l)) = true) ∧
    (let x := ofMem (mo 8 0 0 15 64); x.imm = 64 ∧ unused x.a = true ∧ unused x.b = true ∧ okind x.d = .v 8 ∧
      Can3 [{ pos := 0, spec := x.d, use := .src, kinds := [.v], regs := x.imm, multi := true }] ∧ Clear (st f3) f3 (some 1) 0) ∧
    (let x := ofMem (mo 356 258 259 0 0 2 1); okind x.d = .t 1 ∧ f3.exm = ~~~f3.dead ∧ f3.regrouped = false ∧ shapeV (f3.shape 1) = true ∧
      Free (st f3) f3 3 [{ pos := 0, spec := x.d, use := .dst, kinds := [.t] }, src 1 x.a [.s, .z], src 2 x.b [.s, .z]] f3.live ∧
      (rdLane f3 x.a 2 0) % (shapeBits (f3.shape 1) / 8) = 0 ∧ (rdUni f3 x.b).toNat % (shapeBits (f3.shape 1) / 8) = 0 ∧ f3.ops = [] ∧ f3.residual = [] ∧
      ∃ a, resolveTile (st f3) f3 true 0x20000 (sortBy id (dedup ((tilePieces false 0 (f3.shape 1) 0x20000 4).map fun p => p.1 / 128 * 128))) = .ok a ∧ a ≠ []) :=
  ⟨⟨by decide, can3 (by decide +kernel), by decide +kernel⟩, ⟨by decide, by decide, by decide, by decide, can3 (by decide +kernel), clear_of (by decide +kernel)⟩,
    ⟨by decide, by decide, rfl, by decide, free_of (by decide +kernel), by decide, by decide, rfl, rfl, spots_of (by decide +kernel)⟩⟩

/-- Cleaning one line; a scalar load and store; block operations and an affine load by a flight whose EXM is empty, so that no lane needs a Z-region. -/
def fempty : Flight := { fl 1 0 3 with exm := 0 }
theorem witness_BlocksLinesScalars :
    (let x := ofMem (mo 0 258 328 0 0 0 5); unused x.d = true ∧ x.scope ≠ 0 ∧ Can3 [memA x false, memB x] ∧
      ∃ a, resolveGlobal (st f3) f3 .line 1 1 false (laneAddrs f3 fun l => rdLane f3 x.a 2 l) = .ok a ∧ a ≠ []) ∧
    (let x := ofMem (mo 4 258 328 0); Free (st fempty) fempty 3 [dst 0 x.d [.v], memA x false, memB x] fempty.exm ∧
      resolveGlobal (st fempty) fempty (.block true) 4 1 false (laneAddrs fempty fun l => rdLane fempty x.a 2 l) = .ok []) ∧
    (let x := ofLong (li 260 258 0); Tidy x 16 ∧ Free (st f0) f0 0 (dst 0 x.d [.s, .z] :: src 1 x.a [.s, .z] :: (srcB x.b [.s, .z] ++ [])) ones ∧
      ∃ a, resolveGlobal (st f0) f0 .load 8 8 true [(0, ((rdUni f0 x.a).toNat + (x.b.uni f0).toNat) % 2 ^ 64)] = .ok a ∧ a ≠ []) ∧
    (let x := ofLong (lr 339 258 4); Tidy x 1 ∧ IsLR x ∧ NoC x ∧ okind x.d = .a 0 ∧ canMint fempty ∧
      Free (st fempty) fempty 5 (affO 0 x.d .dst :: src 1 x.a [.s] :: srcB x.b [.v]) fempty.exm ∧
      resolveGlobal (st fempty) fempty (.block true) 4 1 false (laneAddrs fempty fun l => (rdUni fempty x.a).toNat + x.b.lane fempty 1 l) = .ok []) :=
  ⟨⟨by decide, by decide, can3 (by decide +kernel), spots_of (by decide +kernel)⟩, ⟨free_of (by decide +kernel), rfl⟩,
    ⟨tidy (by decide), free_of (by decide +kernel), spots_of (by decide +kernel)⟩,
    ⟨tidy (by decide), .inr rfl, rfl, rfl, by unfold canMint; decide, free_of (by decide +kernel), rfl⟩⟩

/-- Lane 0 at an odd address; a local address outside the allocation; an aligned global address that translates; a local address inside. -/
theorem witness_LanesTranslateOrTrap :
    (let x := ofMem (mo 4 258 328 4 1); (st f3).zrAt ((st f3).launchOf f3).asid (gaddr x f3 0) = none ∧ gaddr x f3 0 % 4 ≠ 0 ∧ f3.isHandler = false ∧
      f3.fenced = false ∧ f3.deferring = false ∧ Can3 [dst 0 x.d ([.v, .z] ++ [.vx]) 1, memA x false, memB x]) ∧
    (let x := ofMem (mo 4 258 328 4); (st f3).local? f3 (laddr x f3 0) 4 = none ∧ Can3 [dst 0 x.d ([.v, .z] ++ [.vx]) 1, memA x true, memB x]) ∧
    ((st f3).zrAt ((st f3).launchOf f3).asid 0x20000 = none ∧ (st f3).xlate f3 ((st f3).launchOf f3).asid AccKind.load.need 0x20000 = .ok 0x20000 127 ∧
      paSpace 0x20000 = some .tier ∧ ∀ i < 4, (st f3).inCode (0x20000 + i) = false) ∧
    ∃ w, (st f3).local? f3 4092 4 = some (w, 4092) :=
  ⟨⟨by decide +kernel, by decide +kernel, rfl, by decide, by decide, can3 (by decide +kernel)⟩, ⟨by decide +kernel, can3 (by decide +kernel)⟩,
    ⟨by decide +kernel, by decide +kernel, by decide +kernel, by decide +kernel⟩, ⟨_, rfl⟩⟩

def f4 : Flight := fl 1 0 4
def awake : State := { st f4 with sched := { (st f4).sched with arrays := [(f4.partKey, ⟨0, true⟩)] } }
def mt (d a b : BitVec 9) (c : BitVec 9 := 328) (fsa fsb : BitVec 3 := 0) : MatOps := { cc := 3, st := 0, a, d, resv := 0, sb := 2, fsb, fsa, rm := 0, c, b }
def Can4 (os : List Opnd) (part : DWord := ones) : Prop := Free (st f4) f4 4 os part
theorem can4 {os : List Opnd} {part : DWord} (h : freeB (st f4) f4 4 os part = true) : Can4 os part := free_of h

def matB (f : Flight) (sb : Nat) (os : List Opnd) : Bool :=
  decide (f.token sb < 63) && !f.isHandler && !f.regrouped && f.ops.isEmpty && f.residual.isEmpty
  && os.all fun o => match okind o.spec with | .t n => shapeV (f.shape n) | _ => true
theorem mat_of {f : Flight} {sb : Nat} {os : List Opnd} (h : matB f sb os = true) : MatReady f sb os := by
  simp only [matB, Bool.and_eq_true, decide_eq_true_eq, Bool.not_eq_true', List.isEmpty_iff, List.all_eq_true] at h
  obtain ⟨⟨⟨⟨⟨h1, h2⟩, h3⟩, h4⟩, h5⟩, h6⟩ := h
  refine ⟨h1, h2, fun _ => h3, fun o ho n hn => ?_, fun o _ _ n _ => ?_⟩
  · have := h6 o ho; rw [hn] at this; exact this
  · simp [h4, h5]

/-- BF16 tiles t1 and t2 of 16 rows and columns, accumulating into v16 to v31 from zero, with the array awake. -/
theorem witness_Mma :
    let x := ofMat (mt 16 356 357 328 2 2)
    let da := awake.slotAt x.fsa; let wa := f4.shape 1
    let os := [multiO 0 x.d .dst [.v] 16 16, tileO 1 x.a .src, tileO 2 x.b .src, multiO 3 x.c .src [.v, .z] 16 16]
    okind x.d = .v 16 ∧ tNum x.a = 1 ∧ tNum x.b = 2 ∧ f4.shape 2 = wa ∧ x.fsb = x.fsa ∧ slotOk da = true ∧ shapeBits wa = elemBits (slotElem da) ∧ slotBsize da = 0 ∧
      (slotElem da = 2 ∨ slotElem da = 3) ∧ shapeCols wa ≤ 24 ∧ shapeSbnd wa = 0 ∧ okind x.c = .zero ∧
      Free awake f4 4 os f4.live ∧ MatReady f4 x.sb os ∧ f4.exm = ~~~f4.dead ∧ f4.residual = [] ∧ (awake.array f4).awake = true ∧ (awake.array f4).busyTo ≤ awake.clock :=
  ⟨by decide, by decide, by decide, by decide, by decide, by decide +kernel, by decide +kernel, by decide +kernel, by decide +kernel, by decide, by decide, by decide,
    free_of (by decide +kernel), mat_of (by decide), by decide, rfl, by decide +kernel, by decide +kernel⟩

/-- MGATH that begins (s1 = 0 so that the descriptor is aligned), and one whose reads are done; MCLOSE; TSHP with a legal and with an illegal shape (s2 and s1). -/
def fg : Flight := { f4 with s := [(1, 0x40), (2, 0x80401010), (3, 4)] }
def fgd : Flight := { fg with ops := [{ id := 5, seq := fg.seq, pc := fg.pc, kind := .mgath, acquired := true }] }
theorem witness_GatherBatchShape :
    (let x := ofMat (mt 356 257 258 259); let os := [tileO 0 x.d .dst, src 1 x.a [.s], src 2 x.b [.s], src 3 x.c [.s]]
      Free (st fg) fg 4 os fg.live ∧ MatReady fg x.sb os ∧ Clear (st fg) fg none 0 ∧ fg.exm = ~~~fg.dead ∧ 1 ≤ shapeEw (fg.shape (tNum x.d)) ∧
      (rdUni fg x.a).toNat % 32 = 0 ∧ (∀ p ∈ fg.ops, p.kind = .mgath → p.seq ≠ fg.seq) ∧
      Free (st fgd) fgd 4 os fgd.live ∧ ∃ p, (fgd.ops.find? fun p => decide (p.kind = .mgath) && decide (p.seq = fgd.seq)) = some p ∧ p.acquired = true) ∧
    (let x := ofMat (mt 260 0 0 0); NoMat x true true true ∧ Can4 [dst 0 x.d [.s, .z]] ∧ MatReady f4 x.sb [dst 0 x.d [.s, .z]] ∧ f4.ops = []) ∧
    (let x := ofMat (mt 356 258 0 0); NoMat x false true true ∧ okind x.d = .t 1 ∧ Free (st fg) fg 4 [tileO 0 x.d .dst, src 1 x.a [.s, .z]] ones ∧
      (let w : Word := BitVec.ofNat 32 (rdUni fg x.a).toNat; ¬ (shapeResv w = true ∨ (shapeV w = true ∧ shapeOk w = false))) ∧
      let w : Word := BitVec.ofNat 32 (rdUni f4 258).toNat; shapeResv w = true ∨ (shapeV w = true ∧ shapeOk w = false)) :=
  ⟨⟨free_of (by decide +kernel), mat_of (by decide), clear_of (by decide +kernel), by decide, by decide, by decide, fun p hp => by (cases hp), free_of (by decide +kernel), _, rfl, rfl⟩,
    ⟨⟨fun _ => by decide, fun _ => by decide, fun _ => by decide⟩, can4 (by decide +kernel), mat_of (by decide), rfl⟩,
    ⟨⟨fun h => by (cases h), fun _ => by decide, fun _ => by decide⟩, by decide, free_of (by decide +kernel), by decide, by decide⟩⟩

theorem witness_TileMoves :
    shapeOk (f4.shape 1) = true ∧
    (let x := ofMat (mt 356 0 0 0); NoMat x true true true ∧ okind x.d = .t 1 ∧ Can4 [tileO 0 x.d .dst] ∧ MatReady f4 x.sb [tileO 0 x.d .dst]) ∧
    (let x := ofMat (mt 356 2 328 0); let os := [tileO 0 x.d .dst, multiO 1 x.a .src [.v, .z] 6 1, src 2 x.b [.v, .z]]
      NoMat x false false true ∧ Can4 os f4.exm ∧ MatReady f4 x.sb os) ∧
    (let x := ofMat (mt 8 356 0 20); let os := [multiO 0 x.d .dst [.v, .z] 6 1, tileO 1 x.a .src, multiO 3 x.c .dst [.v, .z] 1 1]
      NoMat x false true false ∧ okind x.a = .t 1 ∧ Can4 os f4.exm ∧ MatReady f4 x.sb os) :=
  ⟨by decide, ⟨⟨fun _ => by decide, fun _ => by decide, fun _ => by decide⟩, by decide, can4 (by decide +kernel), mat_of (by decide)⟩,
    ⟨⟨fun h => by (cases h), fun h => by (cases h), fun _ => by decide⟩, can4 (by decide +kernel), mat_of (by decide)⟩,
    ⟨⟨fun h => by (cases h), fun _ => by decide, fun h => by (cases h)⟩, by decide, can4 (by decide +kernel), mat_of (by decide)⟩⟩

/-- Tile t3, of E4M3 elements with one scale a row group, scaled under slot 1; tile t1 of BF16 zeros converted to E4M3 of t4. -/
def fv : Flight := { f4 with shapes := [(1, 0x80401010), (4, 0x80201010)] }
theorem witness_TileScalingConversion :
    (let x := ofMat (mt 358 0 259 0 1 0); let d := (st f4).slotAt x.fsa; let os := [tileO 0 x.d .both, src 2 x.b [.s, .z]]
      NoMat x true false true ∧ okind x.d = .t 3 ∧ Can4 os ∧ MatReady f4 x.sb os ∧ shapeOk (f4.shape 3) = true ∧ slotOk d = true ∧ slotSkind d ≠ 0 ∧
      shapeSbnd (f4.shape 3) = if slotBsize d = 1 then 2 else 1) ∧
    (let x := ofMat (mt 359 356 0 0 2 3); let da := (st fv).slotAt x.fsa; let db := (st fv).slotAt x.fsb; let os := [tileO 0 x.d .dst, tileO 1 x.a .src]
      NoMat x false true true ∧ okind x.d = .t 4 ∧ okind x.a = .t 1 ∧ Free (st fv) fv 4 os ones ∧ MatReady fv x.sb os ∧ shapeOk (fv.shape 4) = true ∧ shapeOk (fv.shape 1) = true ∧
      slotOk da = true ∧ shapeBits (fv.shape 1) = elemBits (slotElem da) ∧ slotBsize da = 0 ∧ slotOk db = true ∧ shapeBits (fv.shape 4) = elemBits (slotElem db) ∧ slotBsize db = 0 ∧
      shapeRows (fv.shape 4) = shapeRows (fv.shape 1) ∧ shapeCols (fv.shape 4) = shapeCols (fv.shape 1) ∧ fstatCross fv.fstat (fstatAdd fv.fstat 0 {}) = false) :=
  ⟨⟨⟨fun _ => by decide, fun h => by (cases h), fun _ => by decide⟩, by decide, can4 (by decide +kernel), mat_of (by decide), by decide, by decide +kernel, by decide +kernel, by decide +kernel⟩,
    ⟨⟨fun h => by (cases h), fun _ => by decide, fun _ => by decide⟩, by decide, by decide, free_of (by decide +kernel), mat_of (by decide), by decide, by decide, by decide +kernel,
      by decide +kernel, by decide +kernel, by decide +kernel, by decide +kernel, by decide +kernel, by decide, by decide, by decide +kernel⟩⟩

/-! ### Witnesses: waits, branches and handlers -/

def f6 : Flight := fl 1 0 6
def so (id : BitVec 12 := 0) (b : BitVec 9 := 328) (a d : BitVec 9 := 0) (scope : BitVec 3 := 0) (ord : BitVec 2 := 0) (sb : BitVec 3 := 0) : SyncOps :=
  { cc := 3, st := 0, a, d, resv1 := 0, id, ord, scope, sb, resv2 := 0, b }
def Can6 (os : List Opnd) : Prop := Free (st f6) f6 6 os ones
theorem can6 {os : List Opnd} (h : freeB (st f6) f6 6 os ones = true) : Can6 os := free_of h
/-- The same flight standing in a BAR whose instance is complete. -/
def fbar : Flight := { f6 with arrivals := [⟨1, 5, 7, true, [9]⟩], wait := some { kind := 4, pc := f6.pc, num := 5, val := 1 } }

/-- Barrier 5 of the workgroup with B = ZERO: nobody has arrived, no arrival is pending, and one that is complete. -/
theorem witness_Barriers :
    (let x := ofSync (so 5 328 0 0 1); x.resv = 0 ∧ 1 ≤ x.scope ∧ x.scope ≤ 4 ∧ x.id < 1024 ∧ unused x.a = true ∧ unused x.d = true ∧ okind x.b = .zero ∧
      Can6 [src 2 x.b [.s, .z]] ∧ f6.isHandler = false ∧ f6.fenced = false ∧ f6.residual = [] ∧ f6.waiting 4 = none ∧
      0 < barParts (st f6) f6 x.scope ∧ (st f6).joins f6 x.scope x.id = none ∧ (st f6).releaseOk f6 f6.seq x.scope ((st f6).beforeOf f6 f6.seq) = true ∧
      (st f6).barriers = []) ∧
    (let x := ofSync (so 5 0 0 0 1); unused x.b = true ∧ Can6 [] ∧ f6.pendingBar x.scope x.id = none) ∧
    (let x := ofSync (so 5 328 0 0 1); Free (st fbar) fbar 6 [src 2 x.b [.s, .z]] ones ∧ fbar.isHandler = false ∧ fbar.residual = [] ∧
      (fbar.waiting 4).isSome = true ∧ fbar.pendingBar x.scope x.id = some ⟨1, 5, 7, true, [9]⟩) ∧
    (let s : State := { st f6 with barriers := [⟨7, 1, 1, 0, 1, 5, some 2, [1], [], 0⟩] }; ∃ b ∈ s.barriers, b.count = some 2) :=
  ⟨⟨by decide, by decide, by decide, by decide, by decide, by decide, by decide, can6 (by decide +kernel), rfl, by decide, rfl, by decide, by decide +kernel, by decide +kernel,
      by decide +kernel, rfl⟩,
    ⟨by decide, can6 (by decide +kernel), by decide⟩, ⟨free_of (by decide +kernel), rfl, rfl, by decide, by decide⟩, ⟨_, List.mem_singleton.2 rfl, rfl⟩⟩

theorem ends_region6 : EndsRegion (st f6) f6 := ⟨rfl, 0xD0020001, _, by rfl, by decide, by decide⟩
/-- Semaphore 3 of the workgroup, whose value 0 has reached 0 and not s1 = 9. -/
theorem witness_Semaphores :
    (∃ w, (st f6).semRef f6 3 = some (w, 3) ∧ 3 < w.nsem ∧ 0 ≤ ((w.sem 3).val - (rdUni f6 328).setWidth 32).toInt ∧
      ¬ 0 ≤ ((w.sem 3).val - (rdUni f6 257).setWidth 32).toInt ∧ f6.earlierOn f6.seq w.id 3 1 true = false) ∧ f6.waiting 1 = none ∧
    (let x := ofSync (so 3 257 0 0 5 2 1); x.id = 3 ∧ x.ord = 2 ∧ x.scope ≠ 0 ∧ Can6 [src 2 x.b [.s, .z]] ∧ Clear (st f6) f6 (some x.sb) 0 ∧ EndsRegion (st f6) f6) ∧
    (let x := ofSync (so 3 0 0 260); unused x.b = true ∧ Can6 [dst 0 x.d [.s, .z]]) ∧ (let x := ofSync (so 0 0 0 0 5); x.scope = 5 ∧ Can6 [] ∧ unused x.b = true) ∧
    (let x := ofSync (so 3 328); Can6 [src 2 x.b [.s, .z]]) :=
  ⟨⟨_, by rfl, by decide, by decide, by decide, by decide⟩, by decide, ⟨by decide, by decide, by decide, can6 (by decide +kernel), clear_of (by decide +kernel), ends_region6⟩,
    ⟨by decide, can6 (by decide +kernel)⟩, ⟨by decide, can6 (by decide +kernel), by decide⟩, can6 (by decide +kernel)⟩

/-- A complete batch and an open one (MWAIT), a word that holds the mask 0 and one that does not hold s1 = 9 (CHKWAIT), a token at 0 and one that is not (WAITSB). -/
def fbusy : Flight := { f6 with batch := 1, ops := [{ id := 5, seq := 0, pc := 0, kind := .mma, batch := 0, sb := some 2 }], tokens := [(2, 1)] }
theorem witness_Waits :
    (let late (f : Flight) : Prop := ((f.batch + 256 - 0) % 256 ≤ 128 ∧ ∃ p ∈ f.ops, p.kind = .mma ∧ p.batch % 256 = 0);
      Free (st { f6 with batch := 1 }) { f6 with batch := 1 } 6 [] ones ∧ ¬ late { f6 with batch := 1 } ∧
      Free (st fbusy) fbusy 6 [] ones ∧ (fbusy.batch + 256 - 0) % 256 ≠ 0 ∧ late fbusy ∧ fbusy.fenced = false) ∧
    (∃ w, (st f6).local? f6 0 4 = some (w, 0) ∧ (st f6).wg? w.id = some w ∧ cellsGet w.mem 0 4 &&& 9 ≠ 9 ∧ cellsGet w.mem 0 4 &&& 0 = 0 ∧
      f6.earlierOn f6.seq w.id 0 4 false = false) ∧ f6.waiting 2 = none ∧
    (let x := ofSync (so 0 257 328); Can6 [src 1 x.a [.s, .z], src 2 x.b [.s]] ∧ (rdUni f6 x.a).toNat = 0 ∧ (rdUni f6 x.b).toNat = 9) ∧
    (let x := ofSync (so 0 0); unused x.b = true ∧ Can6 [] ∧ f6.fenced = false) ∧
    (∀ k < 8, (4 : Nat).testBit k = true → f6.token k = 0) ∧ (4 : Nat).testBit 2 = true ∧ fbusy.token 2 ≠ 0 :=
  ⟨⟨free_of (by decide +kernel), by decide, free_of (by decide +kernel), by decide, by decide, by decide⟩, ⟨_, by rfl, by decide, by decide, by decide, by decide⟩, by decide,
    ⟨can6 (by decide +kernel), by decide, by decide⟩, ⟨by decide, can6 (by decide +kernel), by decide⟩, by decide, by decide, by decide⟩

def f7 : Flight := { fl 1 0 7 with p := [(1, 3), (2, ones)], stack := [.reconv 0xFF] }
def co (a d b c : BitVec 9 := 0) (mod : BitVec 6 := 0) : CtlOps := { cc := 3, st := 0, a, d, resv := 0, mod, c, b }
def bo (a d : BitVec 9) (off : BitVec 26) (mod : BitVec 6 := 0) : BrOps := { cc := 3, st := 0, a, d, mod, off }
def Can7 (os : List Opnd) (part : DWord := ones) : Prop := Free (st f7) f7 7 os part
theorem can7 {os : List Opnd} {part : DWord} (h : freeB (st f7) f7 7 os part = true) : Can7 os part := free_of h
def okB {α β : Type} (e : Except α β) : Bool := match e with | .ok _ => true | .error _ => false
theorem ok_of {α β : Type} {e : Except α β} (h : okB e = true) : ∃ b, e = .ok b := by
  cases e with
  | ok b => exact ⟨b, rfl⟩
  | error a => cases h

/-- NOP, BRA and RET; BRC on s0 = 0 and on s1 = 9, on p1 = 3 (which splits EXM), p2 (all lanes) and p0 (no lane); CALL. -/
theorem witness_Branches :
    Can7 [] ∧ f7.isLast = true ∧ (let x := ofCtl (co 257); unused x.d = true ∧ unused x.b = true ∧ unused x.c = true ∧ Can7 [src 1 x.a [.s]]) ∧
    (let x := ofCtl (co 0); unused x.a = true) ∧ (let x := ofBr (bo 0 0 16); unused x.a = true ∧ unused x.d = true ∧ x.mod = 0) ∧
    (let x := ofBr (bo 256 0 (-4)); okind x.a = .s 0 ∧ Can7 [src 1 x.a [.p, .s]] ∧ ¬ (f7.rdS 0 ≠ 0 ↔ x.mod = 0)) ∧
    (let x := ofBr (bo 257 0 4); okind x.a = .s 1 ∧ Can7 [src 1 x.a [.p, .s]] ∧ (f7.rdS 1 ≠ 0 ↔ x.mod = 0)) ∧
    (let x := ofBr (bo 331 0 4); okind x.a = .p 1 ∧ Can7 [src 1 x.a [.p, .s]] ∧ f7.exm &&& f7.rdP 1 ≠ f7.exm ∧ f7.exm &&& f7.rdP 1 ≠ 0 ∧
      ∃ t, pushAll f7 [.reconv f7.exm, .pending (f7.exm &&& ~~~(f7.exm &&& f7.rdP 1)) f7.nextHeader] (st f7) = .ok t) ∧
    (let x := ofBr (bo 332 0 4); okind x.a = .p 2 ∧ Can7 [src 1 x.a [.p, .s]] ∧ f7.exm &&& f7.rdP 2 = f7.exm) ∧
    (let x := ofBr (bo 330 0 4 4); okind x.a = .p 0 ∧ x.mod / 2 = 2 ∧ Can7 [src 1 x.a [.p, .s]] ∧ ¬ f7.exm &&& f7.rdP 0 = f7.exm) ∧
    (let x := ofBr (bo 0 260 4); unused x.a = true ∧ Can7 [dst 0 x.d [.s]]) :=
  ⟨can7 (by decide +kernel), rfl, ⟨by decide, by decide, by decide, can7 (by decide +kernel)⟩, by decide, ⟨by decide, by decide, by decide⟩,
    ⟨by decide, can7 (by decide +kernel), by decide⟩, ⟨by decide, can7 (by decide +kernel), by decide⟩, ⟨by decide, can7 (by decide +kernel), by decide, by decide, ok_of (by decide +kernel)⟩,
    ⟨by decide, can7 (by decide +kernel), by decide⟩, ⟨by decide, by decide, can7 (by decide +kernel), by decide⟩, ⟨by decide, can7 (by decide +kernel)⟩⟩

/-- A BRI by s and one by v2, whose lanes aim at two places; JOIN and EXIT with a stack, and EXIT without. -/
def f7e : Flight := { f7 with stack := [] }
def f7h : Flight := { f7 with exm := 0xFF }
theorem witness_GroupsJoinExit :
    (st f7).flight? f7.id = some f7 ∧ f7.spilled = [] ∧ f7.stack.length + 2 ≤ 32 ∧
    (let x := ofCtl (co 258); okind x.a = .s 2 ∧ Can7 [src 1 x.a [.s, .v] 2]) ∧
    (let x := ofCtl (co 2); okind x.a = .v 2 ∧ Can7 [src 1 x.a [.s, .v] 2] f7.exm ∧ dedup ((lanesOf f7.exm).map fun l => rdLane f7 x.a 2 l % 2 ^ 48) = [0x700000005, 6, 0] ∧
      ∃ t, pushAll f7 [.reconv f7.exm, .pending (~~~3) 0, .pending 2 6] (st f7) = .ok t) ∧
    f7.residual = [] ∧ f7.top ≠ some .regroup ∧ (∃ t, joinPop f7 (st f7) = .ok t) ∧
    Free (st f7h) f7h 7 [] ones ∧ f7h.regrouped = false ∧ f7h.isHandler = false ∧ ¬ (f7h.depth = 0 ∨ f7h.live &&& ~~~f7h.exm = 0) ∧ (∃ t, joinPop f7h (st f7h) = .ok t) ∧
    Free (st f7e) f7e 7 [] ones ∧ (f7e.depth = 0 ∨ f7e.live &&& ~~~f7e.exm = 0) ∧ f7e.ops = [] :=
  ⟨rfl, rfl, by decide, ⟨by decide, can7 (by decide +kernel)⟩, ⟨by decide, can7 (by decide +kernel), by decide +kernel, ok_of (by decide +kernel)⟩, rfl, by decide, ok_of (by decide +kernel),
    free_of (by decide +kernel), rfl, rfl, by decide, ok_of (by decide +kernel), free_of (by decide +kernel), by decide, rfl⟩

/-- A workgroup of one flight: it arrives alone at BRGP, and later, regrouped, at RGJOIN with REGROUP on top. -/
def f7r : Flight :=
  { f7e with regrouped := true, stack := [.regroup], homeLane := []
             home := some { exm := ones, dead := 0, exited := 0, s := [], fmode := 1, counts := [], v := [], x := [], p := [], stoch := [], marks := [] } }
theorem witness_Regrouping :
    (let x := ofBr (bo 331 0 4); x.mod < 2 ∧ unused x.d = true ∧ Free (st f7e) f7e 7 [src 1 x.a [.p]] f7e.live) ∧ f7e.exm = ~~~f7e.dead ∧ f7e.depth = 0 ∧ f7e.unlanded = false ∧
    (∃ w, (st f7e).wg? f7e.wg = some w ∧ w.gather = none) ∧ ((st f7e).flights.map Flight.id).Nodup ∧ ((st f7e).wgFlights f7e.wg).filter (fun g => !g.isEnded) = [f7e] ∧
    (∀ g ∈ [f7e], (st f7e).partner g = none ∧ g.isEvicted = false) ∧
    Free (st f7r) f7r 7 [] ones ∧ f7r.top = some .regroup ∧ f7r.unlanded = false ∧ ((st f7r).wgFlights f7r.wg).filter (fun g => !g.isEnded) = [f7r] ∧
    (let g : Flight := { f7r with stack := [.reconv 1, .regroup] }; Free (st g) g 7 [] ones ∧ g.top ≠ some .regroup ∧ ∃ t, joinPop g (st g) = .ok t) :=
  ⟨⟨by decide, by decide, free_of (by decide +kernel)⟩, by decide, rfl, rfl, ⟨_, by rfl, rfl⟩, by decide, by decide, by decide, free_of (by decide +kernel), rfl, rfl, by decide,
    ⟨free_of (by decide +kernel), by decide, ok_of (by decide +kernel)⟩⟩

/-- A handler run (flight 2) beside the flight of index 0 whose trap it handles; s4 of the handler is 0. -/
def fstop : Flight := { f7 with trap := some ⟨[0, 0, 0, 0, 0, 0, 0, 0], .running 2, 0⟩ }
def fhand : Flight := { fl 1 0 7 with id := 2, kind := .handler 1 }
def sth : State := { st fstop with flights := [fstop, fhand], cur := 2 }
theorem witness_TrapsReturnDefer :
    (let x := ofCtl (co 0 0 0 0 5); unused x.a = true ∧ unused x.b = true ∧ unused x.c = true ∧ unused x.d = true) ∧ Can7 [] ∧ f7.isHandler = false ∧
    Free sth fhand 7 [] ones ∧ fhand.isLast = true ∧ fhand.isHandler = true ∧ (sth.flights.map Flight.id).Nodup ∧ sth.flight? fhand.id = some fhand ∧
    sth.flight? fstop.id = some fstop ∧ fstop.id ≠ fhand.id ∧ fstop.trap.isSome = true ∧ recDeferOk ((st f7).recOf f7) = true :=
  ⟨⟨by decide, by decide, by decide, by decide⟩, can7 (by decide +kernel), rfl, free_of (by decide +kernel), rfl, rfl, by decide, rfl, rfl, by decide, rfl, by decide +kernel⟩

theorem ends_region7 : EndsRegion (st f7) f7 := ⟨rfl, 0xD0020001, _, by rfl, by decide, by decide⟩
theorem witness_HandlerAccess :
    (fhand.isHandler = true ∧ sth.byIndex fhand.wg (rdUni fhand 260).toNat = some fstop ∧ sth.isHeld fstop = true ∧ fstop.id ≠ fhand.id) ∧
    (let x := ofCtl (co 260 262 261); unused x.c = true ∧ Free sth fhand 7 [dst 0 x.d [.s], src 1 x.a [.s], src 2 x.b [.s]] ones ∧
      rdUni fhand x.b = 0 ∧ 0 < fstop.nVregs) ∧
    (let x := ofCtl (co 260 0 261 257); unused x.d = true ∧ Free sth fhand 7 [src 1 x.a [.s], src 2 x.b [.s], src 3 x.c [.s]] ones ∧
      selWritable (rdUni fhand x.b) = true ∧ selValueOk (rdUni fhand x.b) (rdUni fhand x.c) = true) ∧
    (let x := ofCtl (co 260 0 328 0 1); x.mod < 3 ∧ Free sth fhand 7 [src 1 x.a [.s], src 2 x.b [.s, .z]] ones ∧ fstop.region.valid = true) ∧
    (let x := ofCtl (co 328 0 331); unused x.d = true ∧ okind x.a = .zero ∧ Can7 [src 1 x.a [.s, .z], src 2 x.b [.p, .s]]) ∧
    (let x := ofCtl (co 258 262); unused x.b = true ∧ Can7 [dst 0 x.d [.s], src 1 x.a [.s]] ∧ EndsRegion (st f7) f7 ∧ (rdUni f7 x.a).toNat % 512 = 0 ∧ f7.residual = []) :=
  ⟨⟨rfl, by decide, by decide, by decide⟩, ⟨by decide, free_of (by decide +kernel), by decide, by decide⟩, ⟨by decide, free_of (by decide +kernel), by decide, by decide⟩,
    ⟨by decide, free_of (by decide +kernel), rfl⟩, ⟨by decide, by decide, can7 (by decide +kernel)⟩, ⟨by decide, can7 (by decide +kernel), ends_region7, by decide, rfl⟩⟩

/-! ### Witnesses: registers and tables of the device -/

/-- Device registers with values. -/
def withRegs (l : NMap DWord) : State := { State.reset with dev := { State.reset.dev with regs := l } }
/-- Index of ones. -/
theorem witness_RegisterWrites :
    State.reset.dev.repHeld = [] ∧ devReg? 0x18 = none ∧ (63 : Nat) < 64 ∧ (2 : Nat) ≠ 1 ∧ fld (255#64 <<< 32) 32 8 = 255 ∧
    exec (.arsWrite 63 0 5) State.reset = .next (withRegs [(0x103F0, 1)]) ∧ exec (.qownWrite 255 0xFF) State.reset = .next (withRegs [(0x23FE0, 0x1F)]) :=
  ⟨rfl, by decide +kernel, by decide, by decide, by decide, rfl, rfl⟩

/-- A shootdown of a range of one frame, one that finds another busy, and one of no frame; an acknowledgement of die 0, alone and not; a walk. -/
def aShoot (p : BitVec 8) : Shoot := ⟨2, 0, 0, 0, p, .software⟩
def shooting (p : BitVec 8) : State := { withRegs [(0x708, 8)] with tr := { State.reset.tr with shoots := [aShoot p] } }
def walking : State := { State.reset with tr := { State.reset.tr with walks := [⟨0, 0, 0⟩], misses := [⟨0, 0, 0, [1], true⟩] }, flights := [{ id := 1 }] }
theorem witness_Shootdowns :
    (3, Instr.tlbiPaRange (2 ^ 32)) ∈ [(0, Instr.tlbiVaRange (2 ^ 32)), (1, .tlbiAsid (2 ^ 32)), (2, .tlbiAll (2 ^ 32)), (3, .tlbiPaRange (2 ^ 32))] ∧
    fld (2 ^ 32 : DWord) 32 32 ≠ 0 ∧ fld (0 : DWord) 32 32 = 0 ∧ (State.reset.reg 0x708).getLsbD 3 = false ∧ ((shooting 1).reg 0x708).getLsbD 3 = true ∧
    (0 : Nat) ∉ State.reset.dev.dieRst ∧ State.reset.tr.shoots = [] ∧ (shooting 1).tr.shoots = [aShoot 1] ∧ (aShoot 1).owner = .software ∧ (aShoot 1).pend.getLsbD 0 = true ∧
    (aShoot 1).pend = dieBit 0 ∧ (aShoot 3).pend ≠ dieBit 0 ∧
    ⟨0, 0, 0⟩ ∈ (walking.tr.walksOf 0).take 32 ∧ ⟨0, 0, 0, [1], true⟩ ∈ walking.tr.misses ∧ walking.walkWaits 0 (walking.walk 0 0 0) = false :=
  ⟨by simp, by decide, by decide, by decide +kernel, by decide +kernel, by decide, rfl, rfl, rfl, by decide, by decide, by decide, by decide, by decide +kernel⟩

/-- A commit that fails at entry 1 with code 1, one that succeeds, a switch that may happen and one that an owned line holds back; regions in each state. -/
def committing (l : List L2Line) : State :=
  { withRegs [(0x600, 2), (0x10000, 0x00010101), (0x10008, 0x000FFFFF00000000)] with
    dev := { (withRegs [(0x600, 2), (0x10000, 0x00030201), (0x10008, 0x000FFFFF00000000)]).dev with arsBusy := true }, mem := { State.reset.mem with l2 := l } }
theorem witness_Tables :
    (let s := withRegs [(0x10010, 1)]; (s.reg 0x600).getLsbD 1 = false ∧ (s.reg 0x10010).getLsbD 0 = true ∧ arsFault (s.reg 0x10010) (s.reg 0x10018) = 1) ∧
    ((withRegs [(0x600, 2)]).reg 0x600).getLsbD 1 = true ∧ (∀ n < 64, (State.reset.reg (0x10000 + 16 * n)).getLsbD 0 = false) ∧
    (committing []).dev.arsBusy = true ∧ (committing []).mem.blocks = [] ∧ (committing []).mem.l2 = [] ∧
    (let x : L2Line := { L2Line.empty 5 with owner := some 1 }; x ∈ (committing [x]).mem.l2 ∧ (committing [x]).moves (128 * x.line) = true ∧ x.pinned = true) ∧
    (State.reset.reg (zrOff 4095 15)).getLsbD 0 = false ∧ ((withRegs [(zrOff 1 2, 1)]).reg (zrOff 1 2)).getLsbD 0 = true ∧
    (let s := withRegs [(zrOff 1 2, 0xF0000001)]; (s.zr 1 2).err = 15 ∧ s.viewComing 1 2 = false) ∧
    (let s : State := { withRegs [(zrOff 1 2, 0xF0000001)] with flights := [{ id := 1, ops := [{ id := 1, seq := 0, pc := 0, kind := .load, acc := [{ space := .view 1 2 }] }] }] };
      (s.zr 1 2).err = 15 ∧ s.viewComing 1 2 = true) ∧
    (let s := { State.reset with clock := 64 }; s.dev.lastRefill + 32 ≤ s.clock) ∧ State.reset.clock < State.reset.dev.lastRefill + 32 :=
  ⟨⟨by decide +kernel, by decide +kernel, by decide +kernel⟩, by decide +kernel, by decide +kernel, rfl, rfl, rfl, ⟨List.mem_singleton.2 rfl, by decide +kernel, rfl⟩,
    by decide +kernel, by decide +kernel, ⟨by decide +kernel, by decide +kernel⟩, ⟨by decide +kernel, by decide +kernel⟩, by decide, by decide⟩

/-- An idle command interface with buffers of host memory, one that is busy, and RETIRE and MIGRATE at each of their stages. -/
def commanded (busy : DWord) (a0 a1 a2 : DWord) (m : Option Mgmt) : State :=
  { withRegs [(0x408, busy), (0x410, a0), (0x418, a1), (0x420, a2)] with dev := { (withRegs [(0x408, busy), (0x410, a0), (0x418, a1), (0x420, a2)]).dev with mgmt := m } }
theorem witness_Management :
    (let s := commanded 0 0x100000000000 0x100000010000 0x2000 none;
      s.dev.badList.length ≤ 4096 ∧ s.dev.dbg < 3 ∧ (s.reg 0x408).getLsbD 0 = false ∧ s.dev.mgmt = none ∧ s.dev.sec = 0 ∧
      inHost (fld (s.reg 0x410) 0 64) 64 = true ∧ inHost (fld (s.reg 0x418) 0 64) (fld (s.reg 0x420) 0 32) = true ∧ 7315 + 64 * s.dev.running.length ≤ fld (s.reg 0x420) 0 32) ∧
    (let s := commanded 0 0x100000000000 64 0 none; fld (s.reg 0x418) 32 32 = 0 ∧ fld (s.reg 0x410) 0 3 = 0 ∧ inHost (fld (s.reg 0x410) 0 64) (fld (s.reg 0x418) 0 32) = true ∧
      8 * s.dev.badList.length ≤ fld (s.reg 0x418) 0 32 ∧ fld (s.reg 0x418) 16 48 = 0 ∧ fld (s.reg 0x418) 0 16 ≠ 4707) ∧
    fld ((commanded 0 0x100000000000 4707 0 none).reg 0x418) 0 16 = 4707 ∧ ((commanded 1 0 0 0 none).reg 0x408).getLsbD 0 = true ∧
    ({ State.reset with dev := { State.reset.dev with sec := 1 } } : State).dev.sec ≠ 0 ∧
    (let s := commanded 0 7 1 0 none; fld (s.reg 0x410) 0 32 = 7 ∧ fld (s.reg 0x418) 0 2 ≤ 2 ∧ (frameTier 7).isSome = true ∧ s.frmapOf 7 = none ∧ (0 : Nat) ∉ s.dev.dieRst ∧ s.tr.shoots = []) ∧
    (let m : Mgmt := ⟨1, [7, 1], 1, 0⟩; let s := commanded 1 7 1 0 (some m); s.dev.mgmt = some m ∧ s.mgmtShooting = false ∧ s.isBad 7 = false) ∧
    (let s := commanded 0 7 9 0 none; (frameTier 9).isSome = true ∧ s.migrateBad 7 9 = 0 ∧ s.migrateBad 7 7 = 4) ∧
    (let m : Mgmt := ⟨2, [7, 9], 2, 0⟩; m.op = 2 ∧ m.phase = 2 ∧ m.arg 0 0 32 ≠ m.arg 1 0 32) ∧ (⟨2, [7, 9], 3, 0⟩ : Mgmt).slot < 8 :=
  ⟨⟨by decide, by decide, by decide +kernel, rfl, rfl, by decide +kernel, by decide +kernel, by decide +kernel⟩,
    ⟨by decide +kernel, by decide +kernel, by decide +kernel, by decide +kernel, by decide +kernel, by decide +kernel⟩, by decide +kernel, by decide +kernel, by decide,
    ⟨by decide +kernel, by decide +kernel, by decide +kernel, by decide +kernel, by decide, rfl⟩, ⟨rfl, rfl, rfl⟩, ⟨by decide +kernel, by decide +kernel, by decide +kernel⟩,
    ⟨rfl, rfl, by decide⟩, by decide⟩

/-! ### Witnesses: resets, host, peers and power -/

/-- A flight and a write of die 0 on its way. -/
def aWr (sp : Space) (pa : Nat) : Wr :=
  { id := 9, flight := 1, seq := 0, op := 0, acc := { space := sp, pa, size := 4, data := 0x01020304 }, core := 0, tenant := 0, rel := 0, before := [], hint := 0, queued := false, asid := 1, fn := 0 }
def transiting (w : Wr) : State := { State.reset with mem := { State.reset.mem with transit := [(0, w)] } }
theorem witness_ResetsAndBoot :
    (State.reset.reg 0).getLsbD 0 = false ∧ ((withRegs [(0, 1)]).reg 0).getLsbD 0 = true ∧ (0 : Nat) ∉ State.reset.dev.dieRst ∧ State.reset.dieOpen 0 = 0 ∧
    (transiting (aWr .host 0)).dieOpen 0 = 1 ∧ State.reset.dev.sec < 2 ∧ ({ State.reset with dev := { State.reset.dev with sec := 2, dbg := 2 } } : State).dev.sec = 2 ∧
    State.reset.dev.dbg ≠ 2 ∧ State.reset.cmds = [] ∧ ({ State.reset with dev := { State.reset.dev with sec := 2, dbg := 2 } } : State).dev.dbg = 2 ∧ State.reset.dev.mgmt = none :=
  ⟨by decide +kernel, by decide +kernel, by decide, by decide, by decide +kernel, by decide, rfl, by decide, rfl, rfl, rfl⟩

/-- A booted device; queue 3 belongs to function 1; port 0 may reach the first frame. -/
def booted : State := withRegs [(0, 1), (0x200E0, 1)]
def bootedP : State := { booted with mem := { booted.mem with poison := [0x10000000000 / 32] } }
theorem witness_HostAndPeers :
    booted.mem.hostPosted = [] ∧ booted.asleep = false ∧ (booted.reg 0).getLsbD 0 = true ∧ booted.barPlace 0 1 0 4 = .unsupported ∧
    booted.homesOpen 0x80 8 = true ∧ booted.outerPoison 0x80 8 = false ∧ 0x80 + 8 ≤ 0x3000000000 ∧
    bootedP.homesOpen 0x10000000000 4 = true ∧ bootedP.outerPoison 0x10000000000 4 = true ∧
    booted.pageQueue 1 0 = some 3 ∧ booted.paclOk 0 0x80 8 = true ∧ booted.paclOk 0 0x10000 8 = false ∧ 0x80 % 8 = 0 ∧ 0x80 % 128 + 8 ≤ 128 ∧ (0 : Nat) ∉ booted.dev.portDown ∧
    (5 : Nat) ∈ ({ booted with dev := { booted.dev with portDown := [5] } } : State).dev.portDown ∧ booted.flights = [] ∧ inHost (0x100000000 * 4096) 4096 = true ∧
    (1 : Nat) ∈ ({ booted with tr := { booted.tr with atsOn := [1] } } : State).tr.atsOn ∧ (1 : Nat) ∉ booted.tr.atsOn ∧ booted.tr.shoots = [] ∧ (0 : Nat) ∉ booted.dev.dieRst :=
  ⟨rfl, by decide +kernel, by decide +kernel, by rfl, by decide +kernel, by decide +kernel, by decide, by decide +kernel, by decide +kernel, by decide +kernel, by decide +kernel,
    by decide +kernel, by decide, by decide, by decide, by decide, rfl, by decide +kernel, by decide, by decide, rfl, by decide⟩

def aReport : Report := ⟨1, 0, 255, 0, 0, [1, 2, 3], []⟩
/-- The report ring of 16 entries at the start of host memory, on, off, off with 64 reports held, and full. -/
def reporting (on : DWord) (wr : DWord) (held : Nat) : State :=
  { withRegs [(0x300, 0x1000000000000000 ||| 8 ||| on), (0x308, wr)] with
    dev := { (withRegs [(0x300, 0x1000000000000000 ||| 8 ||| on), (0x308, wr)]).dev with repQueue := [aReport], repHeld := (List.range held).map fun i => (i, aReport) } }
/-- The device with its power word, at a clock, and with die 0 of a resident workgroup or none. -/
def powered (w : DWord) (clk : Nat) : State := { withRegs [(0x100, w)] with clock := clk }
theorem witness_ReportsTelemetryPower :
    inTier (4 * 32) = true ∧
    (let thr := fld (State.reset.reg 0x110) (8 * tierOf (7 * 65536)) 8; mget 0 State.reset.mem.ce 7 < thr ∧
      ¬ mget 0 ({ State.reset with mem := { State.reset.mem with ce := [(7, 300)] } } : State).mem.ce 7 < thr) ∧
    State.reset.dev.repQueue = [] ∧
    (let s := reporting 1 0 0; let cfg := s.reg 0x300; cfg.getLsbD 0 = true ∧ inHost (fld cfg 28 36 * 4096) (128 * 2 ^ fld cfg 1 4) = true ∧ (0 + 2 ^ 32 - 0) % 2 ^ 32 < 2 ^ fld cfg 1 4) ∧
    ((reporting 0 0 0).reg 0x300).getLsbD 0 = false ∧ (reporting 0 0 64).dev.repHeld.length = 64 ∧ 2 ^ fld ((reporting 1 16 0).reg 0x300) 1 4 ≤ (16 + 2 ^ 32 - 0) % 2 ^ 32 ∧
    (State.reset.reg 0x200).getLsbD 0 = false ∧
    (let s : State := { withRegs [(0x200, 0x1000000000000000 ||| 9)] with clock := 800000 }; let cfg := s.reg 0x200
      cfg.getLsbD 0 = true ∧ s.asleep = false ∧ s.dev.telLast + 800000 ≤ s.clock ∧ inHost (fld cfg 28 36 * 4096) (32 * 2 ^ fld cfg 1 4) = true ∧ 0 + 9 ≤ 2 ^ fld cfg 1 4) ∧
    (let s := powered 0x100000000 0; s.parkAsked.testBit 0 = true ∧ s.parked.testBit 0 = false ∧ s.asleep = false ∧ s.wgs = [] ∧ s.flights = []) ∧
    (let s := powered 0x01000000 0; s.parkAsked.testBit 0 = false ∧ s.parked.testBit 0 = true ∧ s.asleep = false) ∧
    (let s := powered 0 1024; s.asleep = false ∧ s.idleNow = true ∧ s.sched.heads = []) ∧ (powered 0 1023).idleNow = false ∧
    (st f0).launches ≠ [] ∧ State.reset.launches = [] ∧ State.reset.flights = [] ∧ State.reset.mem.blocks = [] ∧ State.reset.mem.l2 = [] ∧
    (∀ q < 256, (State.reset.reg (0x20000 + 64 * q)).getLsbD 0 = false) ∧ (let s := powered 0x34 0; s.asleep = true ∧ (s.reg 0x100).getLsbD 2 = true) :=
  ⟨by decide +kernel, ⟨by decide +kernel, by decide +kernel⟩, rfl, ⟨by decide +kernel, by decide +kernel, by decide +kernel⟩, by decide +kernel, by decide, by decide +kernel,
    by decide +kernel, ⟨by decide +kernel, by decide +kernel, by decide, by decide +kernel, by decide +kernel⟩, ⟨by decide +kernel, by decide +kernel, by decide +kernel, rfl, rfl⟩,
    ⟨by decide +kernel, by decide +kernel, by decide +kernel⟩, ⟨by decide +kernel, by decide +kernel, rfl⟩, by decide +kernel, by decide, rfl, rfl, rfl, rfl, by decide +kernel,
    ⟨by decide +kernel, by decide +kernel⟩⟩

/-! ### Witnesses: launches and scheduling -/

/-- A record that passes its checks: one workgroup of one flight of 8 registers, in queue 0. -/
def rec1 : List DWord :=
  [0x11000#64, BitVec.ofNat 64 (1 + 1 * 2 ^ 4 + 1 * 2 ^ 8 + 1 * 2 ^ 24 + 1 * 2 ^ 28 + 8 * 2 ^ 34)] ++ (List.replicate 30 0)
def queued : State :=
  { withRegs [(0, 1), (0x20000, 0x100000041), (0x20008, 1 <<< 32)] with sched := { State.reset.sched with copies := [((0, 0), (rec0, 0x5000))] } }
def aHead : Head := ⟨0, rec1, 0x5000, none⟩
def heading : State := { queued with sched := { State.reset.sched with heads := [aHead] } }
def aLaunch : Launch := { id := 1, recd := rec0 }
/-- A launch in each phase, with nothing resident. -/
def launched (x : Launch) : State := { booted with nextId := 5, launches := [x] }
/-- LNCH of record 0 at its last step, from a flight of launch 1. -/
def lnching : State := st { f0 with ops := [{ id := 3, seq := 0, pc := 0, kind := .lnch, accBase := 0x20000, dests := [.s 4] }] }
theorem witness_Launches :
    ((queued.reg 0x20000).getLsbD 0 = true ∧ queued.running = true ∧ queued.headOf 0 = none ∧ fld (queued.reg 0x20008) 0 32 ≠ fld (queued.reg 0x20008) 32 32) ∧
    (State.reset.reg 0x20000).getLsbD 0 = false ∧ State.reset.nextHead 0 = none ∧ (∃ k, heading.nextHead 0 = some (aHead, k)) ∧
    ((launched aLaunch).launch? 1 = some aLaunch ∧ aLaunch.phase = .running ∧ aLaunch.nextTuple < recNwg rec0 * recNcl rec0 * recNdie rec0 ∧ recNstg rec0 = 1 ∧
      clusterOf 0 = aLaunch.nextCluster ∧ (0 : Nat) ∉ (launched aLaunch).dev.dieRst ∧ (launched aLaunch).parked.testBit 0 = false ∧
      (launched aLaunch).waitingBack 0 (recPrio rec0) = false ∧ ((launched aLaunch).placeAll aLaunch (enum [0])).isSome = true ∧ (launched aLaunch).launchDone aLaunch = false ∧
      aLaunch.before aLaunch = false) ∧
    (let x : Launch := { aLaunch with nextTuple := 1 }; (launched x).launchDone x = true) ∧
    (let x : Launch := { aLaunch with phase := .edges 0 }; recNedge x.recd ≤ 0 ∧ x.zr = []) ∧
    (let x : Launch := { aLaunch with recd := rec0.set 7 (1 <<< 48), phase := .edges 0 }; 0 < recNedge x.recd ∧ ∃ t, (launched x).edgeStep x 0 = some t) ∧
    (let x : Launch := { aLaunch with phase := .ending 1 [] }; (launched x).launchDone x = true ∧ x.zr = []) ∧
    (let x : Launch := { aLaunch with phase := .retiring }; x.zr = [] ∧ x.queue < 256) ∧
    (∃ w, (st f0).wg? 1 = some w ∧ (st f0).wgDone w = false) ∧ (let s : State := { st f0 with flights := [] }; ∃ w, s.wg? 1 = some w ∧ s.wgDone w = true) ∧
    ∃ x o, lnching.flight? 1 = some x ∧ x.op? 3 = some o ∧ o.kind = .lnch ∧ lnching.releaseOk x o.seq 4 (lnching.beforeOf x o.seq) = true :=
  ⟨⟨by decide +kernel, by decide +kernel, rfl, by decide +kernel⟩, by decide +kernel, by rfl, ⟨_, by rfl⟩,
    ⟨rfl, rfl, by decide, by decide, by decide, by decide, by decide +kernel, by decide +kernel, by decide +kernel, by decide +kernel, by decide⟩, by decide +kernel, ⟨by decide, rfl⟩,
    ⟨by decide, _, by rfl⟩, ⟨by decide +kernel, rfl⟩, ⟨rfl, by decide⟩, ⟨_, rfl, by decide +kernel⟩, ⟨_, rfl, by decide +kernel⟩, ⟨_, _, rfl, rfl, rfl, by decide +kernel⟩⟩

/-- Page tables of address space 1 that map the first GiB onto itself for reading, and record 0 at 0x20000: one queue with the entry written out, one with LNCH
to make it. -/
def tabledMem : MemSys :=
  { State.reset.mem with
    bytes := [(0x10002, 0x02), (0x20001, 0x10), (0x20002, 0x01), (0x20008, 0x11), (0x20009, 0x01), (0x2000B, 0x11), (0x2000D, 0x82), (0x20011, 0x10), (0x20013, 0x01),
      (0x20014, 0x13), (0x20015, 0x40), (0x20016, 0xFF), (0x20017, 0x0F), (0x20088, 0x04), (0x20089, 0x84), (0x20090, 0x03), (0x20098, 0x04), (0x40010, 0x01),
      (0x40012, 0x05), (0x50000, 0x01), (0x50002, 0x06), (0x60000, 0x07)] }
def tabled (tail head : Nat) : State :=
  { st { f0 with ops := [{ id := 3, seq := 0, pc := 0, kind := .lnch, accBase := 0x20000, dests := [.s 4] }] } with
    mem := tabledMem
    dev := { State.reset.dev with regs := [(0, 1), (0x500, 4), (0x20000, 0x100100047), (0x20008, BitVec.ofNat 64 (head + tail * 2 ^ 32))] } }
def tabledRec : List DWord := ((tabled 0 0).galleryWords 1 true 0x20000 64).getD []
theorem witness_EntryTaken : (match (tabled 1 0).takeEntry 0 with | .ok e => decide (e = (tabledRec, 0x20000, none)) | .error _ => false) = true := by decide +kernel
theorem witness_LnchCopied :
    ∃ x o, (tabled 0 0).flight? 1 = some x ∧ x.op? 3 = some o ∧ o.kind = .lnch ∧ (tabled 0 0).releaseOk x o.seq 4 ((tabled 0 0).beforeOf x o.seq) = true ∧
      (tabled 0 0).galleryWords ((tabled 0 0).launchOf x).asid x.priv o.accBase 64 = some tabledRec ∧ recQueue tabledRec = 0 ∧ tabledRec.take 3 = rec0.take 3 ∧
      (tabled 0 0).recordFault tabledRec 1 true = 0 :=
  ⟨_, _, rfl, rfl, rfl, by decide +kernel, by decide +kernel, by decide +kernel, by decide +kernel, by decide +kernel⟩

/-- Flights that wait, run, age, leave and come back. -/
def fp (p : Place) : Flight := { f0 with place := p, clause := none }
def fevict : Flight := { fp (.pending none false) with leaving := true }
def fback : Flight := fp (.evicted 0)
def full : State := { st f0 with flights := (List.range 8).map fun i => { f0 with id := i + 1 } }
def placed : State := { st (fp (.pending (some 0) false)) with launches := [{ id := 1, recd := rec0, asid := 1, priv := true, nextTuple := 1 }] }
def header (b : Byte) : State :=
  { st { fp (.active 0) with pc := 0x11008 } with mem := { State.reset.mem with bytes := [(0x11008, 0x01), (0x1100A, b), (0x1100B, 0xD0)] } }
theorem witness_Scheduling :
    8 ≤ full.activeCount 0 0 ∧ placed.activeCount 0 0 < 8 ∧ placed.readyOf 0 0 ≠ [] ∧
    (st fevict).mayLeave fevict = true ∧ fevict.isShadow = false ∧ fevict.isEnded = false ∧ fevict.isEvicted = false ∧ (st fevict).partner fevict = none ∧ (st f0).mayLeave f0 = false ∧
    (st fback).flight? 1 = some fback ∧ ((st fback).returning 0).head? = some fback ∧ (∃ p m, ((st fback).room 0).flight ((st fback).recOf fback) = some (p, m)) ∧
    (st fback).freedFor ((st fback).setFlight (fback.back 0 0)) 0 0 = false ∧
    ({ aLaunch with nextTuple := 1 } : Launch).unplaced = false ∧
    (let r : WakeReq := ⟨0, 1, 0⟩; let s : State := { st f0 with sched := { (st f0).sched with wakeReqs := [r] } }; r ∈ s.sched.wakeReqs ∧ mget 0 s.sched.lastWake 0 = 0) ∧
    (let s : State := { st f0 with sched := { (st f0).sched with wakeReqs := [⟨0, 1, 0⟩], lastWake := [(0, 1)] } }; mget 0 s.sched.lastWake 0 ≠ 0 ∧
      s.clock < mget 0 s.sched.lastWake 0 - 1 + max 1 (fld (s.reg 0x100008) 16 8)) ∧
    (let s := header 2; ∃ f, s.flight? s.cur = some f ∧ f.clause = none ∧ s.canHeader f = true ∧ s.fetchWord f 0 f.pc = .ok [0xD0020001] ∧ fld (0xD0020001 : Word) 19 9 = 0 ∧
      ∃ ws, s.fetchInstrs f 1 1 ((f.pc + 4) % 2 ^ 48) = .ok ws) ∧
    (let s := header 0x0A; ∃ f, s.flight? s.cur = some f ∧ s.fetchWord f 0 f.pc = .ok [0xD00A0001] ∧ fld (0xD00A0001 : Word) 19 9 ≠ 0) ∧
    (let s := st { fp (.active 0) with pc := 0x30000 }; ∃ f, s.flight? s.cur = some f ∧ s.canHeader f = true ∧ s.fetchWord f 0 f.pc = .miss 3) :=
  ⟨by decide +kernel, by decide +kernel, by decide +kernel, by decide +kernel, rfl, rfl, rfl, by decide, by decide +kernel, rfl, by decide +kernel, ⟨_, _, by rfl⟩, by decide +kernel,
    by decide +kernel, ⟨List.mem_singleton.2 rfl, rfl⟩, ⟨by decide, by decide +kernel⟩,
    ⟨_, rfl, rfl, by decide +kernel, by rfl, by decide, _, by rfl⟩, ⟨_, rfl, by rfl, by decide⟩, ⟨_, rfl, by decide +kernel, by rfl⟩⟩

/-- A save area that its launch may write, in page tables of one leaf; a flight saved to it, and one that comes back. -/
def saving (f : Flight) : State :=
  { st { f with nVregs := 8, nTiles := 0 } with
    mem := { State.reset.mem with bytes := [(0x40010, 0x01), (0x40012, 0x05), (0x50000, 0x01), (0x50002, 0x06), (0x60000, 0x0F)] }
    dev := { State.reset.dev with regs := [(0x500, 4)] }
    launches := [{ id := 1, recd := rec1.set 6 0x80000, asid := 1, priv := true }] }
def bigLaunch : Launch :=
  { id := 5, recd := (rec0.set 1 (BitVec.ofNat 64 (1 + 1 * 2 ^ 4 + 1 * 2 ^ 8 + 4 * 2 ^ 24 + 16 * 2 ^ 28 + 504 * 2 ^ 34))).set 4 (7 <<< 32) }
def crowded : State :=
  { st f0 with launches := (st f0).launches ++ [bigLaunch], flights := (List.range 12).map fun i => { f0 with id := i + 1, fidx := i, part := i % 6 } }
theorem packWord_bits (w : Nat) (d : List (Option Nat)) (k : Nat) : ((packWord w d k).2.1.map Prod.snd).sum ≤ 32 := by
  unfold packWord; split <;> [simp; split] <;> [simp; split] <;> simp
theorem packWords_bits (l : List Nat) : ∀ d k, ((packWords l d k).2.map Prod.snd).sum ≤ 32 * l.length := by
  induction l with
  | nil => simp [packWords]
  | cons w r ih =>
    intro d k
    have h1 := packWord_bits w d k
    have h2 := ih (packWord w d k).2.2.1 (packWord w d k).2.2.2
    have e : ((packWords (w :: r) d k).2.map Prod.snd).sum = ((packWord w d k).2.1.map Prod.snd).sum + ((packWords r (packWord w d k).2.2.1 (packWord w d k).2.2.2).2.map Prod.snd).sum := by
      rw [← List.sum_append, ← List.map_append]; rfl
    rw [e, List.length_cons]
    omega
theorem leBytes_length (n x : Nat) : (leBytes n x).length = n := by
  induction n generalizing x with
  | zero => rfl
  | succ n ih => simp [leBytes, ih]
theorem packBlock_length (l : List Nat) (h : l.length = 32) : (packBlock l).length ≤ 136 := by
  have h1 := packWords_bits l (List.replicate 16 none) 0
  simp only [packBlock, leBytes_length]
  omega
theorem packImage_length (n : Nat) : ∀ l, (packImage n l).length ≤ 136 * n := by
  induction n with
  | zero => simp [packImage]
  | succ n ih =>
    intro l
    unfold packImage
    split
    · simp
    · have h1 := packBlock_length ((List.range 32).map fun i => ofLe ((l.drop (4 * i)).take 4)) (by simp)
      have h2 := ih (l.drop 128)
      simp only [List.length_append]
      omega
/-- A slot within one frame that its launch may write takes every image. -/
theorem saveFlight_isSome {s : State} {f : Flight} (h : (({ s with freeCtr := s.freeCtr + 4096 } : State).savePa f .wr (s.saveVa f)).isSome = true)
    (hv : s.saveVa f % 65536 = 0) (hn : 136 * (imageLen (s.recOf f) / 128) ≤ 65536) : (s.saveFlight f).isSome = true := by
  have hl := packImage_length (imageLen (s.recOf f) / 128) (f.image s.freeCtr)
  unfold State.saveFlight
  generalize packImage (imageLen (s.recOf f) / 128) (f.image s.freeCtr) = b at hl
  dsimp only
  unfold frameParts
  by_cases hb : b.length = 0
  · rw [if_pos hb]; rfl
  · rw [if_neg hb]
    have e : (s.saveVa f + b.length - 1) / 2 ^ 16 - s.saveVa f / 2 ^ 16 + 1 = 1 := by omega
    have m : max (s.saveVa f) ((s.saveVa f / 2 ^ 16 + 0) * 2 ^ 16) = s.saveVa f := by omega
    rw [e]
    simp only [List.range_one, List.map_cons, List.map_nil, List.foldl_cons, List.foldl_nil, Option.bind_some, m, Option.isSome_map]
    exact h
theorem witness_Saved :
    ∃ x, (saving fevict).flight? 1 = some x ∧ (saving fevict).mayLeave x = true ∧ (saving fevict).saveHeld x = false ∧ ((saving fevict).saveFlight x).isSome = true :=
  ⟨_, rfl, by decide +kernel, by decide +kernel, saveFlight_isSome (by decide +kernel) (by decide +kernel) (by decide +kernel)⟩
theorem witness_Loaded :
    (∃ x, (saving fback).flight? 1 = some x ∧ (saving fback).saveHeld x = false ∧ ((saving fback).loadFlight x).isSome = true) := ⟨_, rfl, by decide +kernel, by decide +kernel⟩
theorem witness_Victims : bigLaunch.unplaced = true ∧ clusterOf 0 = bigLaunch.nextCluster ∧ crowded.shortfall bigLaunch 0 = some 1 ∧ 12 ∈ crowded.victims bigLaunch 0 1 :=
  ⟨by decide, by decide, by decide +kernel, by decide +kernel⟩

/-! ### Witnesses: the copy engine and the steps of memory -/

/-- A workgroup with a ring of 16 entries at 0 and one published; a command of it in each phase. -/
def recR : List DWord := rec0.set 3 (BitVec.ofNat 64 (16 * 2 ^ 19 + 2048 * 2 ^ 28))
def aWg : Workgroup := { id := 1, launch := 1, size := 4096, nsem := 16, tag := 1, mem := [(2048, 1)], pubSeen := 1, ringSnap := [(0, List.replicate 64 0)] }
def aCmd (p : CPhase) : Cmd := { id := 7, core := 0, wg := 1, launch := 1, seq := 0, words := List.replicate 8 0, pblock := [], phase := p }
def copying (l : List Cmd) : State := { State.reset with launches := [{ id := 1, recd := recR, asid := 1, priv := true }], wgs := [aWg], cmds := l }
/-- Four bytes from local address 64 to physical address 0x20000, or to local address 128, with a chunk bitmap at 256 if `cb`; and the same from 0x20000. -/
def w0 (ssp dsp cb : Nat) : DWord := BitVec.ofNat 64 (ssp * 2 ^ 8 + dsp * 2 ^ 10 + 5 * 2 ^ 12 + cb * 2 ^ 16)
def aMove (p : CPhase) (ssp dsp cb src dst : Nat) : Cmd :=
  { aCmd p with words := [w0 ssp dsp cb, BitVec.ofNat 64 src, BitVec.ofNat 64 (dst + cb * 16 * 2 ^ 48), BitVec.ofNat 64 (4 + 2 ^ 20), 0, 0, 0, 0], rowsAt := [src] }
def doneBytes (a : Nat) : NMap Byte := (List.range 4).map fun i => (i, BitVec.ofNat 8 (a + i))
theorem witness_CopyTaking :
    ((copying []).cmds.filter fun c => decide (c.core = 0)).length < 8 ∧ (copying []).wg? 1 = some aWg ∧ aWg.core = 0 ∧ (copying []).ringOpen aWg = true ∧
    findBy Prod.fst aWg.ringSnap aWg.taken = some (0, List.replicate 64 0) ∧ 8 ≤ ((copying (List.replicate 8 (aCmd .taken))).cmds.filter fun c => decide (c.core = 0)).length ∧
    (∀ w ∈ State.reset.wgs, w.core = 0 → State.reset.ringOpen w = false) ∧
    (let x := aCmd .taken; let s := copying [x]; s.cmd? 7 = some x ∧ s.earlierCmds x = [] ∧ s.cmdReject x ≠ 0) ∧
    (let x := { aCmd .taken with id := 8, seq := 1 }; let s := copying [aCmd .taken, x]; s.cmd? 8 = some x ∧ ∃ y ∈ s.earlierCmds x, y.phase = .taken) ∧
    (let x := { aCmd .finishing with st := 1 }; let s := copying [x]; s.cmd? 7 = some x ∧ x.owned = [] ∧ s.wg? x.wg = some aWg ∧ aWg.launch = x.launch ∧ x.st < 256 ∧ x.cause < 256 ∧
      recCring recR + 32 * recCrlen recR ≤ recCnotify recR ∧ 0 < recCrlen recR) ∧
    (let x := { aCmd .running with toOwn := [1024] }; let s := copying [x]; s.cmd? 7 = some x ∧ x.toOwn.head? = some 1024 ∧ s.homeMoves (128 * 1024) = false ∧ s.lineTransit 0 1024 = false) ∧
    (let x := { aCmd .running with owned := [1024] }; let l : L2Line := { L2Line.empty 1024 with owner := some 7 }
      let s : State := { copying [x] with mem := { State.reset.mem with l2 := [l] } }; 1024 ∈ x.owned ∧ x.dests = [] ∧ s.l2? 1024 = some l ∧ x.owned ≠ []) ∧ (5 : Nat) ∉ (aCmd .running).owned :=
  ⟨by decide +kernel, rfl, rfl, by decide +kernel, rfl, by decide +kernel, by decide, ⟨rfl, by decide +kernel, by decide +kernel⟩, ⟨rfl, aCmd .taken, by decide +kernel, rfl⟩,
    ⟨rfl, rfl, rfl, rfl, by decide, by decide, by decide, by decide⟩, ⟨rfl, rfl, by decide +kernel, by decide +kernel⟩, ⟨by decide, rfl, rfl, by decide⟩, by decide⟩
theorem witness_CopyRunning :
    (let x := aMove .taken 1 1 0 64 128; let s := copying [x]; s.cmd? 7 = some x ∧ x.fnc = false ∧ x.chain = false ∧ s.earlierCmds x = [] ∧ s.cmdReject x = 0 ∧ x.global = false) ∧
    (let x := aMove .taken 1 2 0 64 0x20000; let s := copying [x]; s.cmdReject x = 0 ∧ x.global = true ∧
      let r := s.xlDest x ((s.dstRows x x.dstAddr).flatMap fun a => frameParts a (s.cmdShape x).len) []; (match r.1 with | .ok _ => true | _ => false) = true) ∧
    (let x := aMove .running 1 2 0 64 0x20000; let s := copying [x]; x.sectorBytes 2 ≠ [] ∧ x.srcDone = [] ∧ x.toOwn = [] ∧ x.ssp = 1 ∧ ∃ w, s.localSrc x = some (w, 64)) ∧
    (let x := aMove .running 2 1 0 0x20000 128; let s := copying [x]; let pa := s.remap (32 * 4096); x.sectorBytes 4096 ≠ [] ∧ x.ssp = 2 ∧ inTier pa = true ∧ s.homeMoves pa = false ∧
      s.onHold pa = false ∧ s.mem.l2 = [] ∧ s.lineTransit 0 (pa / 128) = false ∧ (s.engineCfg x).getLsbD 0 = false ∧ s.secPoisoned (pa / 32) = false) ∧
    (let d : CDest := ⟨.tier, 0, 0, (List.range 4).map fun i => (0x20000 + i, i)⟩
      let x := { aMove .running 1 2 0 64 0x20000 with src := doneBytes 5, srcDone := [2], dests := [d], owned := [1024] }; let s := copying [x]
      x.global = true ∧ inTier (128 * 1024) = true ∧ (s.engineCfg x).getLsbD 0 = false ∧ (d.todo.filter fun p => decide (lineOf p.1 = 1024)) ≠ [] ∧
      s.ready x (d.todo.filter fun p => decide (lineOf p.1 = 1024)) = some [(0x20000, 5), (0x20001, 6), (0x20002, 7), (0x20003, 8)]) ∧
    (let d : CDest := ⟨.loc 1, 1, 0, (List.range 4).map fun i => (128 + i, i)⟩
      let x := { aMove .running 1 1 0 64 128 with src := doneBytes 5, srcDone := [2], dests := [d] }; let s := copying [x]
      x.global = false ∧ s.wg? 1 = some aWg ∧ aWg.tag = d.tag ∧ (d.todo.filter fun p => decide (lineOf p.1 = 1)) ≠ [] ∧
      s.ready x (d.todo.filter fun p => decide (lineOf p.1 = 1)) = some [(128, 5), (129, 6), (130, 7), (131, 8)]) ∧
    (let x := aMove .running 1 2 1 64 0x20000; let s := copying [x]; x.cbm = true ∧ 0 < chunkCount (s.cmdShape x) ∧ x.chunks = [] ∧ x.chunkDone 0 = true ∧ x.global = true ∧ x.cbOff = 256) ∧
    (let x := { aMove .running 1 2 1 64 0x20000 with chunks := [0] }; 0 ∈ x.chunks) :=
  ⟨⟨rfl, by decide, by decide, by decide +kernel, by decide +kernel, by decide⟩, ⟨by decide +kernel, by decide, by decide +kernel⟩, ⟨by decide +kernel, rfl, rfl, by decide, _, by rfl⟩,
    ⟨by decide +kernel, by decide, by decide +kernel, by decide +kernel, by decide +kernel, rfl, by decide +kernel, by decide +kernel, by decide +kernel⟩,
    ⟨by decide, by decide +kernel, by decide +kernel, by decide +kernel, by decide +kernel⟩, ⟨by decide, rfl, rfl, by decide +kernel, by decide +kernel⟩,
    ⟨by decide, by decide +kernel, rfl, by decide +kernel, by decide, by decide⟩, by decide⟩

/-- A flight with one outstanding operation, whose accesses are `a`, and memory `m`. -/
def anOp (k : OpKind) (a : List Access) : Op := { id := 3, seq := 0, pc := 0, kind := k, acc := a }
def doing (o : Op) (m : MemSys := State.reset.mem) : State := { st { f0 with ops := [o] } with mem := m }
def at_ (sp : Space) (pa : Nat) : Access := { space := sp, pa }
def l2Of (line : Nat) : L2Line := { L2Line.empty line with valid := 15 }
def memL2 (l : List L2Line) : MemSys := { State.reset.mem with l2 := l }
def copyOf (u : Nat) : LineCopy := { unit := u, line := 0, valid := 15, ro := true, gen := 0, hint := 0, bytes := [(0, 7)], wids := [], reader := 0 }
/-- A lane that may perform, in a state where the line's home stands as asked. -/
def Lane (s : State) (k : OpKind) (a : Access) : Prop :=
  ∃ x o, s.lane? 1 3 0 = some (x, o, a) ∧ x.op? 3 = some o ∧ a.phase = .todo ∧ x.mayPerform o a = true ∧ o.kind = k ∧ o.ord = 0 ∧ a.pois = none ∧ o.toZero = false
theorem witness_ReadsAndAtomics :
    (let s := doing (anOp .load [at_ .tier 0]) (memL2 [l2Of 0]); Lane s .load (at_ .tier 0) ∧ s.homeMoves 0 = false ∧ s.homeDie 0 = 0 ∧ s.homeNow 0 (secMask 0 4) = .ready ∧
      s.poisonIn 0 4 = none ∧ s.l1Copy 0 0 = none) ∧
    (let s := doing (anOp .load [at_ .tier 0]) (memL2 [{ l2Of 0 with pois := 1 }]); s.poisonIn 0 4 = some 0) ∧
    (doing (anOp .load [at_ .tier 0])).homeNow 0 (secMask 0 4) = .miss ∧
    (let s := doing (anOp .load [at_ .tier 0]) { State.reset.mem with l1 := [copyOf 0] }; s.l1Copy 0 0 = some (copyOf 0) ∧ (copyOf 0).has 0 4 = true) ∧
    (let s := doing (anOp .load [at_ (.loc 1) 8]); Lane s .load (at_ (.loc 1) 8) ∧ ∃ w, s.wg? 1 = some w) ∧
    (let a := at_ .dev (regOff + 0x100); let s := doing (anOp .load [a]); Lane s .load a ∧ ∃ x, s.flight? 1 = some x ∧ s.devBefore x 0 0 = false) ∧
    (let a : Access := { at_ .tier 0 with ro := true }; let s := doing (anOp .load [a]) { State.reset.mem with l1 := [copyOf 1], pred := [(predKey 0 0, 2)] }
      Lane s .load a ∧ s.predict 0 0 = some 1 ∧ s.l1Copy 1 0 = some (copyOf 1) ∧ (copyOf 1).ro = true ∧ s.l1Copy 0 0 = none) ∧ State.reset.predict 0 0 = none ∧
    Lane (doing (anOp .store [at_ .tier 0])) .store (at_ .tier 0) ∧
    (let s := doing (anOp .atomic [at_ .tier 0]) (memL2 [l2Of 0]); Lane s .atomic (at_ .tier 0) ∧ s.homeNow 0 (secMask 0 4) = .ready ∧ atomTwoWide 0 = false ∧
      ∃ x, s.flight? 1 = some x ∧ s.ownComing x 0 (at_ .tier 0) = false) ∧
    Lane (doing (anOp .atomic [at_ (.loc 1) 8])) .atomic (at_ (.loc 1) 8) :=
  ⟨⟨⟨_, _, rfl, rfl, rfl, by decide +kernel, rfl, rfl, rfl, rfl⟩, by decide +kernel, by decide +kernel, by rfl, by rfl, rfl⟩, by rfl, by rfl, ⟨rfl, by decide⟩,
    ⟨⟨_, _, rfl, rfl, rfl, by decide +kernel, rfl, rfl, rfl, rfl⟩, _, rfl⟩, ⟨⟨_, _, rfl, rfl, rfl, by decide +kernel, rfl, rfl, rfl, rfl⟩, _, rfl, by decide +kernel⟩,
    ⟨⟨_, _, rfl, rfl, rfl, by decide +kernel, rfl, rfl, rfl, rfl⟩, by rfl, rfl, rfl, rfl⟩, by rfl, ⟨_, _, rfl, rfl, rfl, by decide +kernel, rfl, rfl, rfl, rfl⟩,
    ⟨⟨_, _, rfl, rfl, rfl, by decide +kernel, rfl, rfl, rfl, rfl⟩, by rfl, rfl, _, rfl, by decide +kernel⟩, ⟨_, _, rfl, rfl, rfl, by decide +kernel, rfl, rfl, rfl, rfl⟩⟩

/-- Z-region 0 of address space 1: one block of four 32-bit elements at 0x30000. -/
def zRegs : NMap DWord := [(zrOff 1 0, 0x300000000 ||| 13 ||| BitVec.ofNat 64 (2 ^ 15 + 8 * 2 ^ 17)), (zrOff 1 0 + 8, BitVec.ofNat 64 (0x20000 / 256 * 2 ^ 8)), (zrOff 1 0 + 16, 4), (zrOff 1 0 + 24, 0)]
def aBlock (b : BState) : Block := { asid := 1, zr := 0, blk := 0, st := b, elems := [1, 2, 3, 4], wids := [], pois := none, stored := [], bound := 0, waiting := [], todo := [(0x20000, 5)] }
def viewing (l : List Block) : State :=
  { doing (anOp .load [at_ (.view 1 0) 0]) { State.reset.mem with blocks := l } with dev := { State.reset.dev with regs := zRegs } }
theorem witness_ViewsAndBlocks :
    (let s := viewing [aBlock .clean]; Lane s .load (at_ (.view 1 0) 0) ∧ s.viewMoves 1 0 (at_ (.view 1 0) 0) = false ∧ s.viewCopy 0 1 0 (at_ (.view 1 0) 0) = none ∧ (s.zr 1 0).valid = true ∧
      s.viewBlocks 1 0 (at_ (.view 1 0) 0) = [0] ∧ s.block? 1 0 0 = some (aBlock .clean)) ∧ (viewing []).block? 1 0 0 = none ∧
    (∀ b ∈ [BState.fill, .clean, .dirty, .enc false], (viewing [aBlock b]).block? 1 0 0 = some (aBlock b)) ∧
    (aBlock (.enc false)).todo = (enum [5#8]).map (fun p => (0x20000 + p.1, p.2)) ∧ (0x20000 : Nat) % 128 + 1 ≤ 128 :=
  ⟨⟨⟨_, _, rfl, rfl, rfl, by decide +kernel, rfl, rfl, rfl, rfl⟩, by decide +kernel, by rfl, by decide +kernel, by decide +kernel, rfl⟩, rfl, by decide, by decide, by decide⟩

/-- A write in the queue of its flight, for a home at its die, at another and in host memory; in transit; lines that may be evicted, are held, and are filling; tile steps. -/
def writing (w : Wr) : State := { st { f0 with wq := [w] } with mem := memL2 [l2Of 0] }
def tileOp (k : OpKind) : Op :=
  { anOp k [{ va := 0x20000, pa := 0x20000, size := 128 }] with accBase := 0x20000, batch := 4, sym := 0x80401010, num := 1, writes := [⟨.tile 1, 1632, 5⟩] }
theorem witness_WritesLinesTiles :
    (let w := aWr .tier 0; let s := writing w; ∃ x, s.flight? 1 = some x ∧ findBy Wr.id x.wq w.id = some w ∧ x.heldBy w = false ∧ s.homeDie 0 = dieOf w.core ∧
      s.homeNow 0 (secMask 0 4) = .ready) ∧
    (let w := aWr .tier 0x1000; let s := writing w; s.homeDie 0x1000 ≠ dieOf w.core ∧ s.homeMoves 0x1000 = false) ∧ (aWr .host 0x100000000000).acc.space = .host ∧
    (let w := aWr .host 0x100000000000; let s := transiting w; s.mem.transit.find? (fun p => decide (p.1 = 0) && decide (p.2.id = w.id)) = some (0, w) ∧ s.atsWait w.fn w.acc.pa = false ∧
      s.mem.transit.takeWhile (fun p => decide (p.2.id ≠ w.id)) = []) ∧
    (l2Of 0).pinned = false ∧ (l2Of 0).dirty &&& ~~~(l2Of 0).valid = 0 ∧ (∀ b < 128, mget blankByte (l2Of 0).bytes b = cellGet (memL2 [l2Of 0]).bytes (128 * 0 + b)) ∧
    (let x : L2Line := { L2Line.empty 0 with filling := true }; x.pinned = true ∧ x.filling = true ∧ x.waiting = []) ∧ (l2Of 0).filling = false ∧ State.reset.l2? 0 = none ∧
    (∀ k ∈ [OpKind.tileLoad, .tileStore], let s := doing (tileOp k) (memL2 [l2Of 1024]); ∃ x, s.flight? 1 = some x ∧ x.op? 3 = some (tileOp k) ∧ (tileOp k).performed = false ∧ s.tileFree x (tileOp k) = true) ∧
    (doing (tileOp .tileLoad) (memL2 [l2Of 1024])).mem.poison = [] :=
  ⟨⟨_, rfl, rfl, by decide, by decide +kernel, by rfl⟩, ⟨by decide +kernel, by decide +kernel⟩, rfl, ⟨rfl, by decide +kernel, rfl⟩, rfl, by decide, by decide, ⟨rfl, rfl, rfl⟩, rfl, rfl,
    fun k hk => ⟨_, rfl, by simp at hk; rcases hk with rfl | rfl <;> rfl, by simp at hk; rcases hk with rfl | rfl <;> decide, by simp at hk; rcases hk with rfl | rfl <;> decide +kernel⟩, rfl⟩

/-- Operations of each kind, performed and not. -/
def doneAt (a : Access) : Access := { a with phase := .done, got := 5, reg := 8 }
def Landing (o : Op) : Prop := ∃ x, (doing o).flight? 1 = some x ∧ x.op? 3 = some o ∧ o.lv = false ∧ (doing o).partner x = none ∧ x.isShadow = false
theorem landing (o : Op) (h : o.id = 3) (hl : o.lv = false) : Landing o :=
  ⟨{ f0 with ops := [o] }, rfl, by simp [Flight.op?, findBy, h], hl, rfl, rfl⟩
theorem witness_Landing :
    (∀ k ∈ [OpKind.load, .atomic, .zerr, .tileLoad], let o := anOp k [doneAt (at_ .tier 0)]; Landing o ∧ o.performed = true ∧ (o.acc.map Access.lane).Nodup ∧ (∀ a ∈ o.acc, a.lane < 64) ∧ o.lost = [] ∧
      o.toZero = false ∧ o.code < 8) ∧
    (let o := anOp .load [at_ .tier 0]; Landing o ∧ o.performed = false) ∧ (let o := { anOp .result [] with writes := [⟨.v 2, 128, 7⟩] }; Landing o ∧ o.acquired = false) ∧
    (let o := { anOp .fence [] with scope := 4 }; Landing o ∧ ∃ x, (doing o).flight? 1 = some x ∧ (doing o).releaseOk x o.seq o.scope ((doing o).beforeOf x o.seq) = true ∧
      (doing o).fgen 0 + 1 < 2 ^ 16) ∧
    (let w := aWr .host 0; let o := { anOp .fence [] with scope := 4, seq := 1 }; let f := { f0 with ops := [o], wq := [w] }; (st f).releaseOk f 1 4 ((st f).beforeOf f 1) = false) ∧
    (∀ k ∈ [OpKind.semAdd, .semSet, .semRd], let o := { anOp k [at_ (.loc 1) 3] with dests := [.s 4] }; Landing o ∧ ∃ x w, (doing o).flight? 1 = some x ∧ (doing o).wg? 1 = some w ∧
      x.earlierOn o.seq 1 3 1 true = false) ∧
    (let o := { anOp .semAdd [at_ (.loc 1) 3] with seq := 1 }; let f := { f0 with ops := [{ anOp .semAdd [at_ (.loc 1) 3] with id := 2 }, o] }; f.earlierOn 1 1 3 1 true = true) ∧
    (∀ k ∈ [OpKind.clean, .inval], let o := { anOp k [at_ .tier 0] with scope := 2 }; Landing o ∧ ∃ x, (doing o).flight? 1 = some x ∧ x.wq = [] ∧ x.mayTouch o (at_ .tier 0).wholeLine = true) ∧
    (let o := { anOp .mma [] with dests := [.v 8] }; Landing o ∧ ∃ x, (doing o).flight? 1 = some x ∧ ∀ p ∈ x.ops, ¬ p.seq < o.seq) ∧
    (let o := { anOp .mma [] with seq := 1, dests := [.v 8] }; let p := { anOp .mma [] with id := 2, dests := [.v 8] }; p.seq < o.seq ∧ ∃ r ∈ p.dests, r ∈ o.dests) :=
  ⟨fun k hk => ⟨landing _ rfl rfl, rfl, by simp [anOp], by simp [anOp, doneAt, at_], rfl, rfl, by simp [anOp]⟩, ⟨landing _ rfl rfl, rfl⟩, ⟨landing _ rfl rfl, rfl⟩,
    ⟨landing _ rfl rfl, _, rfl, by decide +kernel, by decide +kernel⟩, by decide +kernel, fun k hk => ⟨landing _ rfl rfl, _, _, rfl, rfl, by simp at hk; rcases hk with rfl | rfl | rfl <;> decide⟩,
    by decide, fun k hk => ⟨landing _ rfl rfl, _, rfl, rfl, by simp at hk; rcases hk with rfl | rfl <;> decide +kernel⟩,
    ⟨landing _ rfl rfl, _, rfl, by decide⟩, ⟨by decide, .v 8, by decide, by decide⟩⟩

/-! ### Witnesses: traps, the debug port and the machine as a whole -/

def trapped (code : Nat) (p : TrapPhase) : Flight := { f0 with trap := some ⟨[BitVec.ofNat 64 code, 0, 0, 0, 0, 3, 0, 0], p, 1⟩ }
/-- The queue's handler is on. -/
def handled (f : Flight) : State := { st f with dev := { State.reset.dev with regs := [(0x20018, 1)] } }
def anEntry : REntry :=
  { id := 4, seq := 2, pc := 0, cls := 1, words := [], ins := some (.vadd { cc := 0, st := 0, b := 3, a := 2, d := 4 }), mem := .none, v := [(128, 5)], s := [], p := [], x := [], exm := ones,
    dead := 0, sym := 0, marks := [], waits := [], tiles := [], chain := .v 2, dests := [.v 4], sb := none, granules := none, acq := false, land := false }
theorem witness_HandlersDefaults :
    (let f := trapped 0x20 .raised; (handled f).flight? 1 = some f ∧ (handled f).runReady f = true ∧ (handled f).partner f = none ∧ (∀ g ∈ (handled f).flights, g = f)) ∧
    (handled f0).runReady f0 = false ∧
    (∀ c ∈ [0x20, 0x1A, 0x08, 0x31, 0x18], let f := trapped c .raised; ((st f).reg 0x20018).getLsbD 0 = false ∧ ∃ u, f.trap = some u ∧ u.phase = .raised ∧ fld (u.frame.getD 0 0) 0 8 = c) ∧
    (let f := trapped 0x18 .raised; (3 : DWord) &&& ~~~f.dead ≠ 0 ∧ (~~~(f.dead ||| 3) &&& ~~~f.exited) ≠ 0) ∧ f0.refused = [] ∧
    (let f : Flight := { f0 with refused := [⟨3, 0x40, 8⟩, ⟨5, 0x20, 8⟩] }; (st f).isHeld f = false ∧ f.isEnded = false ∧ f.isEvicted = false) ∧
    (let f : Flight := { f0 with wait := some { kind := 7 } }; (st f).isHeld f = false ∧ f.isEnded = false) ∧ f0.wait = none ∧
    (let f : Flight := { f0 with capTrap := some (1, .v 2, 33, 33), residual := [anEntry] }; (st f).isHeld f = false ∧ f.residual ≠ []) ∧
    (let f : Flight := { f0 with capTrap := some (1, .v 2, 33, 33) }; (st f).isHeld f = false ∧ f.residual = []) ∧
    (let f : Flight := { f0 with residual := [anEntry] }; f.residual.find? (fun e => decide (e.id = 4) && f.entryReady e) = some anEntry ∧ (st f).isHeld f = false ∧ f.kind = .leader ∧
      (st f).partner f = none ∧ ∃ o, anEntry.ins = some (.vadd o) ∧ okind (ofShort o).d = .v 4 ∧ okind (ofShort o).a = .v 2 ∧ (ofShort o).b = .spec 3 ∧ okind 3 = .v 3 ∧ anEntry.marks = []) :=
  ⟨⟨rfl, by decide +kernel, by decide, fun g hg => List.mem_singleton.1 hg⟩, by decide +kernel, fun c hc => ⟨(by decide +kernel : (State.reset.reg 0x20018).getLsbD 0 = false), _, rfl, rfl, by simp at hc; rcases hc with rfl | rfl | rfl | rfl | rfl <;> decide⟩,
    ⟨by decide, by decide⟩, rfl, ⟨by decide, rfl, rfl⟩, ⟨by decide, rfl⟩, rfl, ⟨by decide, by decide⟩, ⟨by decide, rfl⟩, ⟨by decide, by decide, rfl, by decide, _, rfl, by decide, by decide, by decide, by decide, rfl⟩⟩

/-- In Halt: a flight that runs, one asked to stop, one stopped; and one asked that still loads. -/
def halted (p : PortHold) (ops : List Op := []) : State := { st { f0 with port := p, ops } with dev := { State.reset.dev with dbg := 2 } }
theorem witness_DebugPort :
    (halted .free).dev.dbg = 2 ∧ State.reset.dev.dbg ≠ 2 ∧ (∃ x, (halted .asked).flight? 1 = some x ∧ x.port = .asked ∧ x.residual = [] ∧ x.ops = [] ∧ x.fixed = []) ∧
    (anOp .load []).stopWaits = true ∧ (∃ x, (halted .stopped).flight? 1 = some x ∧ x.port = .stopped ∧ x.region.valid = true ∧ x.trap = none ∧ selOk x 0 = true ∧ selOk x (1 <<< 22) = false) ∧
    selWritable 0 = true ∧ selValueOk 0 5 = true ∧ selWritable 0x5000 = false ∧ (0x11000#64).toNat < 2 ^ 48 ∧ 2 < 3 :=
  ⟨rfl, by decide, ⟨_, rfl, rfl, rfl, rfl, rfl⟩, rfl, ⟨_, rfl, rfl, rfl, rfl, by decide, by decide⟩, by decide, by decide, by decide, by decide, by decide⟩

/-- A long scalar addition round trip, and words followed by others. -/
def anAdd : Instr := .saddLong (lr 260 257 258)
theorem witness_Decoding : anAdd.WellFormed ∧ classOf anAdd = some 0 ∧ decode 0 (encode anAdd ++ [7]) = .ok anAdd [7] := ⟨by decide, rfl, by decide⟩

/-- Agendas of each kind; words that decode and words that do not; a flight at a header, no flight, and one whose stall count has not passed. -/
def agendaOf (l : List Choice) (f : Flight) : State := { st f with agenda := l }
theorem witness_Step :
    (let f := fl 0x0C587180 0 0; (agendaOf [.issue 1] f).flight? 1 = some f ∧ ∃ c, f.clause = some c ∧ (match decode c.cls c.words with | .ok _ _ => true | .bad _ => false) = true) ∧
    (let f := fl 0x3E 0 7; ∃ c, f.clause = some c ∧ (match decode c.cls c.words with | .ok _ _ => false | .bad _ => true) = true) ∧
    (let f : Flight := { f0 with clause := none }; (agendaOf [.issue 1] f).flight? 1 = some f ∧ f.clause = none) ∧ (agendaOf [.issue 7] f0).flight? 7 = none ∧
    (agendaOf [] f0).agenda = [] ∧ (agendaOf [.readFinds 0 [.corrected]] f0).agenda = [.readFinds 0 [.corrected]] ∧ f0.nextIssue ≤ (agendaOf [] f0).clock ∧ (let f : Flight := { f0 with nextIssue := 5 }; (agendaOf [] f).flight? 1 = some f ∧ (agendaOf [] f).clock < f.nextIssue) :=
  ⟨⟨rfl, _, rfl, by decide⟩, ⟨_, rfl, by decide⟩, ⟨rfl, rfl⟩, rfl, rfl, rfl, by decide, rfl, by decide⟩

/-- The invariants hold at reset and of a state with a flight; a step from each answers a next state. -/
theorem witness_Invariants :
    (Memory.wf (st f0).mem.bytes ∧ (∀ w ∈ (st f0).wgs, Memory.wf w.mem) ∧ (st f0).dev.badList.length ≤ 4096 ∧ (st f0).dev.dbg < 3) ∧
    (let apart (l : List Nat) (n : Nat) : Prop := l.Nodup ∧ ∀ k ∈ l, k < n
     apart ((st f0).flights.map Flight.id) (st f0).nextId ∧ apart ((st f0).wgs.map Workgroup.id) (st f0).nextId ∧ apart ((st f0).launches.map Launch.id) (st f0).nextId) ∧
    (∃ t, step State.reset = .next t) :=
  ⟨⟨by decide, by decide, by decide, by decide⟩, ⟨⟨by decide, by decide⟩, ⟨by decide, by decide⟩, ⟨by decide, by decide⟩⟩, _, rfl⟩
/-- A row that a flight executes and one that it does not; a current flight and none. -/
theorem witness_EveryInstruction :
    (classOf anAdd).isSome = true ∧ classOf (.dieReset 0) = none ∧ (st f0).flight? (st f0).cur = some f0 ∧ State.reset.flight? State.reset.cur = none ∧ State.reset.agenda = [] :=
  ⟨rfl, rfl, rfl, rfl, rfl⟩

/-- A trap of a user flight and of a handler; a region to go back to; a frame with RESTART and one without; a kill of lanes 0 and 1, and one of no lane. -/
theorem witness_TrapsResume :
    ((st f0).flight? f0.id = some f0 ∧ f0.isHandler = false ∧ (0x20 : Nat) < 256) ∧
    (sth.flight? fhand.id = some fhand ∧ fhand.isHandler = true ∧ ∃ l, sth.launch? fhand.launch = some l ∧ l.phase = .running) ∧ f7.region.depth ≤ f7.depth ∧
    (([0x8000020#64].getD 0 0).getLsbD 27 = true ∧ ([0x20#64].getD 0 0).getLsbD 27 = false) ∧ (st f0).partner f0 = none ∧ (3 : DWord) &&& ~~~f0.dead ≠ 0 ∧ (0 : DWord) &&& ~~~f0.dead = 0 :=
  ⟨⟨rfl, rfl, by decide⟩, ⟨rfl, rfl, _, rfl, rfl⟩, by decide, ⟨by decide, by decide⟩, by decide, by decide, by decide⟩

/-- Flights that may issue a lane move whose A is pending, whose A's count is 0, and an operand with an index beyond its bounds; a result not yet delivered; and words of no instruction. -/
def fpend : Flight := { f0 with ops := [{ anOp .load [] with dests := [.v 2] }] }
def frel : Flight := { f0 with counts := [(2, 0)] }
def fidx : Flight := { f0 with x := [(0, 0x00080085)] }
def ffix : Flight := { f0 with fixed := [⟨.v 2, 4, 0x20, []⟩], chkAll := true }
theorem witness_EncodingTrapsWaits :
    (let d : Desc := { cls := 1, opnds := [dst 0 4 vD, src 1 2 vK] }; Ready (st f0) f0 1 ∧ f0.isHandler = false ∧ d.encBad = false ∧ d.scopeBad = false ∧ d.transfer = false ∧ f0.fenced = false ∧
      (dst 0 4 vD).bad f0 ((st f0).afb f0) = false ∧ (src 1 329 [.v]).bad f0 ((st f0).afb f0) = true ∧
      Ready (st fpend) fpend 1 ∧ d.dkind = .normal ∧ fpend.deferring = false ∧ (∃ r ∈ d.regs fpend ((st fpend).afb fpend), fpend.isPending r = true) ∧ d.tileClash fpend = false) ∧
    (let f : Flight := { f7 with clause := some { cls := 7, words := [1, 0, 1, 0], left := 2, chk := true, def_ := false } }; Ready (st f) f 7 ∧ f.isLast = false) ∧
    (let x := ofLong (lr 4 2 0); Tidy x 2 ∧ x.mod = 0 ∧ NoC x ∧ IsLR x ∧ NoB x ∧ x.d = 4 ∧ x.a = 2 ∧ frel.count 2 = 0 ∧ Ready (st frel) frel 1 ∧ frel.pendingRegs = [] ∧ frel.fixed = [] ∧
      Free (st f0) f0 1 [dst 0 x.d vD, src 1 2 vK] f0.exm ∧ f0.count 2 = 3) ∧
    (Ready (st fidx) fidx 1 ∧ (src 1 320 vK).failLanes fidx 6 ≠ [] ∧ okind 320 = .vx 0 false) ∧
    (Ready (st ffix) ffix 1 ∧ (st ffix).checking ffix = true ∧ (st ffix).clock < 4) ∧
    (Ready (st f7) f7 7 ∧ f7.fenced = false ∧ ∃ c r, f7.clause = some c ∧ c.words = 1 :: 0 :: r) ∧ (3 ≤ (7#3).toNat ∧ (2 : Word).getLsbD 0 = false) :=
  ⟨⟨ready_of (by decide), rfl, by decide, by decide, by decide, by decide, by decide, by decide, ready_of (by decide), rfl, by decide, by decide, by decide⟩, ⟨ready_of (by decide), by decide⟩,
    ⟨tidy (by decide), by decide, rfl, .inr rfl, rfl, by decide, by decide, by decide, ready_of (by decide), by decide, rfl, can (by decide +kernel), by decide⟩,
    ⟨ready_of (by decide), by decide +kernel, by decide⟩, ⟨ready_of (by decide), by decide, by decide⟩, ⟨ready_of (by decide), by decide, _, _, rfl, rfl⟩, by decide⟩

/-! ### Witnesses: the further cases of the statements -/

/-- The flight that issued least recently has the turn, and while it may take the slot another has not. -/
def turns : State := { st f0 with flights := [{ f0 with lastIssue := 3 }, { f0 with id := 2, lastIssue := 1 }] }
theorem witness_Turn : (st f0).hasTurn f0 0 = true ∧ turns.hasTurn { f0 with lastIssue := 3 } 0 = false := by decide +kernel

/-- A word of a control transfer that is no instruction, last in its clause and not; SWR of an unlisted code and of a listed one that no SWR writes; MGATH's reads. -/
theorem witness_FurtherInstructions :
    ((7#3 = 7) ∧ 1 ≤ ((0x13#32).extractLsb' 1 6).toNat ∧ ((0x13#32).extractLsb' 1 6).toNat ≤ 12) ∧
    (let x := ofLong (li 0 257 13); Tidy x 1 ∧ IsLI x ∧ unused x.d = true ∧ ¬ (x.b.immU ≤ 12 ∨ 16 ≤ x.b.immU ∧ x.b.immU ≤ 19)) ∧
    (let x := ofLong (li 0 257 2); Tidy x 1 ∧ x.b.immU ≤ 12 ∧ x.b.immU ≠ 17 ∧ x.b.immU ≠ 18 ∧ (src 1 x.a [.s, .z]).bad f0 ((st f0).afb f0) = false) ∧
    (st fgd).charge fgd false [] = 0 ∧
    (f6.acquiresBefore f6.seq = false ∧ ({ f6 with seq := 1, ops := [{ id := 3, seq := 0, pc := 0, kind := .load, ord := 1, scope := 5 }] } : Flight).acquiresBefore 1 = true) ∧
    (let f : Flight := { f0 with residual := [anEntry] }; (st f).flight? f.id = some f ∧ f.isHandler = false ∧ f.residual ≠ []) :=
  ⟨⟨rfl, by decide, by decide⟩, ⟨tidy (by decide), rfl, rfl, by decide⟩, ⟨tidy (by decide), by decide, by decide, by decide, by decide⟩, by decide +kernel, ⟨by decide, by decide⟩,
    ⟨rfl, rfl, by decide⟩⟩

/-- RGJOIN in an execution of two flights: the pop leaves REGROUP on top while the other still runs. -/
def f7w : Flight := { f7r with stack := [.reconv 1, .regroup] }
def s7w : State := { st f7w with flights := [f7w, { f7w with id := 2 }] }
theorem witness_RejoinWaits :
    f7w.regrouped = true ∧ f7w.top ≠ some .regroup ∧ f7w.unlanded = false ∧ (∃ w, s7w.wg? f7w.wg = some w ∧ ∃ h ∈ s7w.flights, h.wg = f7w.wg ∧ h.isHandler = false ∧ h.isShadow = false ∧
      h.isEnded = false ∧ h.id ≠ f7w.id ∧ h.id ∉ w.rejoin) ∧ ∃ s' g, joinPop f7w s7w = .ok s' ∧ s'.flight? f7w.id = some g ∧ g.top = some .regroup ∧ g.clause.isSome = true :=
  ⟨rfl, by decide, by decide, ⟨_, rfl, _, List.mem_cons_of_mem _ (List.mem_singleton.2 rfl), rfl, rfl, rfl, rfl, by decide, by decide⟩, _, _, rfl, rfl, rfl, rfl⟩

/-- A source sector in the far copy of the command's die; a line written whole; a destination in local memory below the notification word. -/
def farOf (pa : Nat) : LineCopy := { copyOf 0 with line := pa / 128 }
theorem witness_CopyFurther :
    (let x : Cmd := { aMove .running 2 1 0 0x21000 128 with words := (aMove .running 2 1 0 0x21000 128).words.set 0 0x2600 }; let s : State := { copying [x] with mem := { State.reset.mem with far := [farOf 0x21000] } }; let pa := s.remap (32 * 4224)
      x.sectorBytes 4224 ≠ [] ∧ inTier pa = true ∧ s.homeMoves pa = false ∧ s.onHold (32 * 4224) = false ∧ x.scope < 4 ∧ s.homeDie pa ≠ dieOf x.core ∧
      s.farCopy (dieOf x.core) (pa / 128) = some (farOf 0x21000) ∧ (farOf 0x21000).has (pa % 128) 32 = true ∧ (s.engineCfg x).getLsbD 0 = false) ∧
    (let s : State := { copying [] with mem := memL2 [l2Of 1024] }; s.unfilled 1024 ([(0x20000, 5#8)].foldl (fun m b => m ||| secMask (b.1 % 128) 1) 0) = false) ∧
    (copying []).unfilled 1024 15 = true ∧ (let s : State := { copying [] with mem := memL2 [l2Of 1024] }; s.unfilled 1024 15 = false ∧ s.secPoisoned 4096 = false) ∧
    recCrlen recR ≠ 0 ∧ (∀ p ∈ [(128, 5#8), (129, 6)], p.1 < aWg.size ∧ p.1 < recCnotify recR) :=
  ⟨⟨by decide +kernel, by decide +kernel, by decide +kernel, by decide +kernel, by decide, by decide +kernel, by rfl, by decide +kernel, by decide +kernel⟩,
    by decide +kernel, by decide +kernel, ⟨by decide +kernel, by decide +kernel⟩, by decide, by decide⟩

/-- A read wholly in the flight's own write queue and one that is not; writes to one line in transit and not; a store of all four sectors to an absent line; a line whose fill finds an
uncorrectable sector; a block whose code line is present and one whose code is not. -/
theorem witness_MemoryFurther :
    (let f : Flight := { f0 with wq := [aWr .tier 0] }; f.ownValue (at_ .tier 0) = some 0x01020304 ∧ f0.ownValue (at_ .tier 0) = none) ∧
    (State.reset.inTransit 0 (at_ .tier 0) = false ∧ (transiting (aWr .tier 0)).inTransit 0 (at_ .tier 0) = true) ∧
    (State.reset.homeNow 0 15 = .miss ∧ State.reset.noFill { aWr .tier 0 with full := 15 } = true ∧ State.reset.noFill (aWr .tier 0) = false) ∧
    (let x : L2Line := { L2Line.empty 0 with filling := true, finds := [.corrected, .uncorrectable] }; x.filling = true ∧ x.waiting = [] ∧ x.valid.getLsbD 1 = false ∧ x.finds[1]? = some .uncorrectable) ∧
    (let s := viewing [aBlock .fill]; let s : State := { s with mem := { s.mem with l2 := [l2Of 1024] } }; s.codeHeld (s.zr 1 0) 0 = false ∧ s.codeFills (s.zr 1 0) 0 = []) ∧
    (let s := viewing [aBlock .fill]; s.codeFills (s.zr 1 0) 0 = [1024]) ∧
    (at_ (.loc 1) 8).pa + (at_ (.loc 1) 8).size ≤ (4096 : Nat) ∧ (at_ (.loc 1) 8).tag = 0 :=
  ⟨⟨by decide +kernel, by decide +kernel⟩, ⟨by decide, by decide +kernel⟩, ⟨by decide +kernel, by decide +kernel, by decide +kernel⟩, ⟨rfl, rfl, by decide, rfl⟩,
    ⟨by decide +kernel, by decide +kernel⟩, by decide +kernel, by decide, rfl⟩

/-- A result that kills the lanes it read from dead ones; an acquire load before a semaphore step. -/
theorem witness_LandingFurther :
    (anOp .load []).crossed = 0 ∧ (let o := { anOp .result [] with kills := 3 }; Landing o ∧ o.lost = [] ∧ o.kills &&& ~~~f0.dead ≠ 0 ∧ f0.live &&& ~~~o.kills ≠ 0) ∧
    (let o := { anOp .semAdd [at_ (.loc 1) 3] with seq := 1 }; let p := { anOp .load [at_ .tier 0] with id := 2, ord := 1, scope := 5 }
      let f : Flight := { f0 with ops := [p, o] }; f.acquiresBefore 1 = true ∧ ({ f0 with ops := [o] } : Flight).acquiresBefore 1 = false) :=
  ⟨rfl, ⟨landing _ rfl rfl, rfl, by decide, by decide⟩, by decide, by decide⟩

/-- A changed number of far ways, up and down; a walk that HOLD holds back; a moving line with an owner and one that fills; two missed refills. -/
theorem witness_DeviceFurther :
    (let s (n was : Nat) : State := { withRegs [(0x100000, BitVec.ofNat 64 (0x80 + n))] with dev := { (withRegs [(0x100000, BitVec.ofNat 64 (0x80 + n))]).dev with flWas := [(0, was)] } };
      ((s 3 8).reg 0x100000).getLsbD 7 = true ∧ fld ((s 3 8).reg 0x100000) 0 5 < mget 0 (s 3 8).dev.flWas 0 ∧ mget 0 (s 8 3).dev.flWas 0 ≤ fld ((s 8 3).reg 0x100000) 0 5) ∧
    (let w : Walked := { res := ⟨0, 0, 0, 2, 127, 16⟩, base := 0x20000 };
      State.reset.walkWaits 0 w = false ∧ (withRegs [(frmapOff 0, 0x900000002), (frmapOff 0 + 8, 3)]).walkWaits 0 w = true) ∧
    (let x : L2Line := { L2Line.empty 5 with owner := some 1 }; x ∈ (committing [x]).mem.l2 ∧ x.filling = false ∧ x.waiting = [] ∧ x.owner.isSome = true) ∧
    (let x : L2Line := { L2Line.empty 5 with filling := true }; x ∈ (committing [x]).mem.l2 ∧ (committing [x]).moves (128 * x.line) = true ∧ x.filling = true) ∧
    (let s := { State.reset with clock := 64 }; (s.clock - s.dev.lastRefill) / 32 = 2) :=
  ⟨⟨by decide +kernel, by decide +kernel, by decide +kernel⟩, ⟨by decide +kernel, by decide +kernel⟩, ⟨List.mem_singleton.2 rfl, rfl, rfl, rfl⟩, ⟨List.mem_singleton.2 rfl, by decide +kernel, rfl⟩,
    by decide⟩

/-- The command processor waits for nothing at reset; room owed to an earlier launch; a handler run that is ready, and none. -/
def frun : Flight := { fhand with place := .pending (some 0) false }
theorem witness_SchedulingFurther :
    queued.takeHeld 0 = false ∧ queued.zHeld rec1 1 = false ∧ (tabled 0 0).slotHeld ((tabled 0 0).reg 0x20000) 0 = false ∧ (tabled 0 0).galleryHeld 1 0x20000 512 = false ∧
    (launched aLaunch).shortFor aLaunch 0 = false ∧
    (let y : Launch := { bigLaunch with id := 6 }; let s : State := { crowded with launches := crowded.launches ++ [y] }; s.shortFor { aLaunch with id := 1 } 0 = true) ∧
    (st f0).readyRun 0 0 = none ∧ ({ sth with flights := [fstop, frun], launches := placed.launches } : State).readyRun 0 0 = some frun ∧
    (let s := st { fp (.active 0) with pc := 0x11008 }; let w : State := { s with dev := (committing []).dev }; w.fetchWord (fp (.active 0)) 0 0x11008 = .wait) :=
  ⟨by decide +kernel, by decide +kernel, by decide +kernel, by decide +kernel, by decide +kernel, by decide +kernel, by decide +kernel, by rfl, by decide +kernel⟩

/-- A poison trap whose lanes are all dead already. -/
theorem witness_TrapsFurther : (let f : Flight := { trapped 0x18 .raised with dead := 3 }; (3 : DWord) &&& ~~~f.dead = 0) ∧ (st f0).runKey f0 ⟨[], .raised, 1⟩ ≤ (st f0).runKey f0 ⟨[], .raised, 2⟩ := by
  decide +kernel

/-- Host memory that answers with an error or without one: a write on its way there, a read, a ring's entry, a buffer. -/
theorem witness_OuterFailures :
    (let s := State.reset.outerFails 0x2000000000 true; s.dev.outerBad = [0x2000000000] ∧ s.failPort 0x100000000040 = some 6 ∧ s.failPort 0x100000000080 = none ∧
      (s.outerFails 0x2000000000 false).dev.outerBad = [] ∧ (s.outerFails 0 true).dev.outerBad = [0x2000000000]) ∧
    (let w := aWr .host 0x100000000000; let s := (transiting w).outerFails 0x2000000000 true; s.mem.transit.find? (fun p => decide (p.1 = 0) && decide (p.2.id = w.id)) = some (0, w) ∧
      s.atsWait w.fn w.acc.pa = false ∧ s.failPort w.acc.pa = some 6 ∧ (transiting w).failPort w.acc.pa = none) ∧
    (let o := anOp .load [{ space := .host, va := 0, pa := 0x100000000000, size := 4 }]; let s := doing o (memL2 []);
      ∃ x a, s.lane? 1 3 0 = some (x, o, a) ∧ o.toZero = false ∧ x.ownValue a = none ∧ s.atsWait (s.fnOf x) a.pa = false ∧ s.failPort a.pa = none ∧
        (s.outerFails 0x2000000000 true).failPort a.pa = some 6 ∧ x.mayPerform o a = true) ∧
    (let s := (reporting 1 0 0).outerFails 0x2000000000 true; let base := fld (s.reg 0x300) 28 36 * 4096; s.failsIn base 128 = true ∧ s.failsIn (base + 128) 128 = false) ∧
    (let s := commanded 0 0x100000000000 64 0 none; s.bufOk (fld (s.reg 0x410) 0 64) (fld (s.reg 0x418) 0 32) = true ∧
      (s.outerFails 0x2000000000 true).bufOk (fld (s.reg 0x410) 0 64) (fld (s.reg 0x418) 0 32) = false) :=
  ⟨by decide +kernel, by decide +kernel, ⟨_, _, rfl, by decide, by decide, by decide +kernel, by decide +kernel, by decide +kernel, by decide⟩, by decide +kernel, by decide +kernel⟩

/-- Host memory at a failing line: a lane's read marks its destination's sector, and report 13 names the host's port (R433). -/
theorem test_host_read_fails :
    (let o := anOp .load [{ space := .host, va := 0, pa := 0x100000000000, size := 4 }]
     match exec (.performRead 1 3 0) ((doing o (memL2 [])).outerFails 0x2000000000 true) with
     | .next t => (match t.lane? 1 3 0 with | some (_, _, a) => decide (a.pois = some 0x100000000000) | none => false) && (t.dev.repQueue.map Report.kind) == [13]
     | _ => false) = true := by
  decide +kernel

end Sys2Proof.Tests
end

section
/-! SUPPORT. What every step keeps, and which functions keep it: the state's operations, memory, translation and issue. -/

namespace Sys2Proof.Machine

open Sys2Proof

variable {α : Type}

/-- What every step keeps. -/
structure CanonParts (bytes : List Host.Cell) (wgs : List Workgroup) (bad : List DWord) (dbg : Nat) : Prop where
  bytes : Memory.wf bytes
  wgs : ∀ w ∈ wgs, Memory.wf w.mem
  bad : bad.length ≤ 4096
  dbg : dbg < 3

/-- The four parts of a state. -/
def State.Canon (s : State) : Prop := CanonParts s.mem.bytes s.wgs s.dev.badList s.dev.dbg

@[simp] theorem canon_mk (a b c d e f g h i j k l m n o) :
    (State.mk a b c d e f g h i j k l m n o).Canon ↔ CanonParts l.bytes h n.badList n.dbg := Iff.rfl
@[simp] theorem canonParts_state (s : State) : CanonParts s.mem.bytes s.wgs s.dev.badList s.dev.dbg ↔ s.Canon := Iff.rfl

theorem foldl_canon {f : State → α → State} (hf : ∀ s x, s.Canon → (f s x).Canon) (l : List α) (s : State) (h : s.Canon) :
    (l.foldl f s).Canon := by
  induction l generalizing s with
  | nil => exact h
  | cons x l ih => exact ih _ (hf s x h)

@[simp] theorem foldl_canon_iff {f : State → α → State} (hf : ∀ s x, (f s x).Canon ↔ s.Canon) (l : List α) (s : State) :
    (l.foldl f s).Canon ↔ s.Canon := by
  induction l generalizing s with
  | nil => rfl
  | cons x l ih => exact (ih _).trans (hf s x)

@[simp] theorem canon_ite (c : Prop) [Decidable c] (a b : State) : (if c then a else b).Canon ↔ if c then a.Canon else b.Canon := by
  split <;> rfl

/-- A verdict that keeps the parts. -/
def Verdict.Canon : Verdict → Prop
  | .hold s => s.Canon
  | _ => True

@[simp] theorem Verdict.go_canon : Verdict.Canon .go := trivial
@[simp] theorem Verdict.trap_canon (t : TrapInfo) : (Verdict.trap t).Canon := trivial
@[simp] theorem Verdict.hold_canon (s : State) : (Verdict.hold s).Canon ↔ s.Canon := Iff.rfl

@[simp] theorem verdict_ite (c : Prop) [Decidable c] (a b : Verdict) :
    (if c then a else b).Canon ↔ if c then a.Canon else b.Canon := by
  split <;> rfl

@[simp] theorem State.setReg_bad_dbg (s : State) (o : Nat) (v : DWord) :
    (s.setReg o v).dev.badList = s.dev.badList ∧ (s.setReg o v).dev.dbg = s.dev.dbg := ⟨rfl, rfl⟩

@[simp] theorem State.report_bad_dbg (s : State) (k d c : Nat) (l : Option Launch) (p : List Nat) (fr : List DWord) :
    (s.report k d c l p fr).dev.badList = s.dev.badList ∧ (s.report k d c l p fr).dev.dbg = s.dev.dbg := ⟨rfl, rfl⟩

@[simp] theorem State.setFlight_canon (s : State) (f : Flight) : (s.setFlight f).Canon ↔ s.Canon := by
  unfold State.setFlight
  simp

@[simp] theorem State.updFlight_canon (s : State) (f : Nat) (g : Flight → Flight) : (s.updFlight f g).Canon ↔ s.Canon := by
  unfold State.updFlight
  (repeat' split) <;> simp

theorem State.setWg_canon {s : State} {w : Workgroup} (h : s.Canon) (hw : Memory.wf w.mem) : (s.setWg w).Canon := by
  obtain ⟨hb, hwgs, hbad, hdbg⟩ := h
  refine ⟨hb, fun x hx => ?_, hbad, hdbg⟩
  obtain ⟨y, hy, rfl⟩ := List.mem_map.mp hx
  split
  · exact hw
  · exact hwgs y hy

theorem State.Canon.wg?_wf {s : State} (h : s.Canon) {n : Nat} {w : Workgroup} (hw : s.wg? n = some w) : Memory.wf w.mem :=
  h.wgs w (List.mem_of_find?_eq_some hw)

@[simp] theorem State.updWg_canon {s : State} {n : Nat} {g : Workgroup → Workgroup} (hg : ∀ x, (g x).mem = x.mem) (h : s.Canon) :
    (s.updWg n g).Canon := by
  unfold State.updWg
  split
  next x hx => exact setWg_canon h ((hg x).symm ▸ h.wg?_wf hx)
  next => exact h

@[simp] theorem State.setLaunch_canon (s : State) (l : Launch) : (s.setLaunch l).Canon ↔ s.Canon := by
  unfold State.setLaunch
  simp

@[simp] theorem State.setCmd_canon (s : State) (c : Cmd) : (s.setCmd c).Canon ↔ s.Canon := by
  unfold State.setCmd
  simp

@[simp] theorem State.fresh_canon (s : State) : s.fresh.2.Canon ↔ s.Canon := Iff.rfl

@[simp] theorem State.free_canon (s : State) : s.free.2.Canon ↔ s.Canon := Iff.rfl

@[simp] theorem State.setReg_canon (s : State) (off : Nat) (v : DWord) : (s.setReg off v).Canon ↔ s.Canon := by
  unfold State.setReg
  simp

@[simp] theorem State.report_canon (s : State) (kind die core : Nat) (l : Option Launch) (p : List Nat) (frame : List DWord) :
    (s.report kind die core l p frame).Canon ↔ s.Canon := by
  unfold State.report
  simp

@[simp] theorem State.reportFlight_canon (s : State) (f : Flight) (kind : Nat) (p : List Nat) (frame : List DWord) :
    (s.reportFlight f kind p frame).Canon ↔ s.Canon := by
  unfold State.reportFlight
  simp

@[simp] theorem State.addOp_canon (s : State) (f : Nat) (mk : Nat → Op) : (s.addOp f mk).Canon ↔ s.Canon := by
  unfold State.addOp
  simp

@[simp] theorem State.endLaunch_canon (s : State) (l why : Nat) (frame : List DWord) : (s.endLaunch l why frame).Canon ↔ s.Canon := by
  unfold State.endLaunch
  (repeat' split) <;> simp

@[simp] theorem State.raiseTrap_canon (s : State) (id : Nat) (t : TrapInfo) : (s.raiseTrap id t).Canon ↔ s.Canon := by
  unfold State.raiseTrap
  split
  · rfl
  · dsimp only
    split
    · simp
    · split
      · simp
      · split <;> simp

@[simp] theorem State.resumeFlight_canon (s : State) (id mode pc : Nat) : (s.resumeFlight id mode pc).Canon ↔ s.Canon := by
  unfold State.resumeFlight
  simp

@[simp] theorem State.setL2_canon (s : State) (x : L2Line) : (s.setL2 x).Canon ↔ s.Canon := by
  unfold State.setL2
  (repeat' split) <;> simp

@[simp] theorem State.dropL2_canon (s : State) (line : Nat) : (s.dropL2 line).Canon ↔ s.Canon := by
  unfold State.dropL2
  simp

@[simp] theorem State.outerFails_canon (s : State) (line : Nat) (fails : Bool) : (s.outerFails line fails).Canon ↔ s.Canon := by
  unfold State.outerFails
  (repeat' split) <;> simp

@[simp] theorem State.setPoison_canon (s : State) (sec : Nat) (on : Bool) : (s.setPoison sec on).Canon ↔ s.Canon := by
  unfold State.setPoison
  dsimp only
  split
  · split <;> simp
  · simp

@[simp] theorem State.eccFound_canon (s : State) (sec : Nat) (scrub : Bool) (found : EccFinding) : (s.eccFound sec scrub found).Canon ↔ s.Canon := by
  unfold State.eccFound
  (repeat' split) <;> simp

theorem cellSet_canon {s : State} (h : s.Canon) (a : Nat) (b : Byte) :
    CanonParts (cellSet s.mem.bytes a b) s.wgs s.dev.badList s.dev.dbg :=
  ⟨cellSet_wf _ _ _ h.bytes, h.wgs, h.bad, h.dbg⟩

@[simp] theorem State.homePut_canon {s : State} (h : s.Canon) (w pa : Nat) (b : Byte) : (s.homePut w pa b).Canon := by
  unfold State.homePut
  dsimp only
  split <;> split
  all_goals first | split | skip
  all_goals simp [h, cellSet_canon]

@[simp] theorem State.homePuts_canon {s : State} (h : s.Canon) (w pa : Nat) (bs : List Byte) : (s.homePuts w pa bs).Canon := by
  induction bs generalizing s pa with
  | nil => exact h
  | cons b r ih => exact ih (homePut_canon h w pa b) _

@[simp] theorem State.coverSector_canon (s : State) (sec : Nat) (c : Cover) : (s.coverSector sec c).Canon ↔ s.Canon := by
  unfold State.coverSector
  (repeat' split) <;> simp

@[simp] theorem State.homeWriteBy_canon {s : State} (h : s.Canon) (w pa : Nat) (bytes : List Byte) (cov : Nat → Cover) :
    (s.homeWriteBy w pa bytes cov).Canon := by
  unfold State.homeWriteBy
  split <;> simp [h]

@[simp] theorem State.homeWrite_canon {s : State} (h : s.Canon) (w pa : Nat) (bytes : List Byte) : (s.homeWrite w pa bytes).Canon :=
  homeWriteBy_canon h w pa bytes _

@[simp] theorem State.postLines_canon (core : Nat) (l : Option Launch) (n pa : Nat) (bytes : List Byte) {s : State} (h : s.Canon) :
    (State.postLines core l n pa bytes s).Canon := by
  induction n generalizing pa bytes s with
  | zero => exact h
  | succ n ih =>
    unfold State.postLines
    split
    · exact h
    · refine ih _ _ ?_
      split <;> simp [h]

@[simp] theorem State.postWrite_canon {s : State} (h : s.Canon) (core : Nat) (l : Option Launch) (pa : Nat) (bytes : List Byte) :
    (s.postWrite core l pa bytes).Canon :=
  postLines_canon core l _ pa bytes h

@[simp] theorem State.fillLine_canon (s : State) (line : Nat) : (s.fillLine line).Canon ↔ s.Canon := by
  unfold State.fillLine
  simp

@[simp] theorem State.startFill_canon (s : State) (line : Nat) : (s.startFill line).Canon ↔ s.Canon := by
  unfold State.startFill
  simp

theorem foldl_wf {f : List Host.Cell → α → List Host.Cell} (hf : ∀ m x, Memory.wf m → Memory.wf (f m x)) (l : List α) (m : List Host.Cell)
    (h : Memory.wf m) : Memory.wf (l.foldl f m) := by
  induction l generalizing m with
  | nil => exact h
  | cons x l ih => exact ih _ (hf m x h)

@[simp] theorem State.writeBack_canon {s : State} (h : s.Canon) (x : L2Line) : (s.writeBack x).Canon :=
  ⟨foldl_wf (fun _ _ hm => foldl_wf (fun _ _ => cellSet_wf _ _ _) _ _ hm) _ _ h.bytes, h.wgs, h.bad, h.dbg⟩

@[simp] theorem State.cleanLine_canon {s : State} (h : s.Canon) (line : Nat) : (s.cleanLine line).Canon := by
  unfold State.cleanLine
  split <;> simp [h]

@[simp] theorem State.putL1_canon (s : State) (c : LineCopy) : (s.putL1 c).Canon ↔ s.Canon := by
  unfold State.putL1
  simp

@[simp] theorem State.putFar_canon (s : State) (c : LineCopy) : (s.putFar c).Canon ↔ s.Canon := by
  unfold State.putFar
  simp

@[simp] theorem State.dropL1_canon (s : State) (core line : Nat) : (s.dropL1 core line).Canon ↔ s.Canon := by
  unfold State.dropL1
  simp

@[simp] theorem State.dropFar_canon (s : State) (d line : Nat) : (s.dropFar d line).Canon ↔ s.Canon := by
  unfold State.dropFar
  simp

@[simp] theorem State.discardCore_canon (s : State) (core : Nat) : (s.discardCore core).Canon ↔ s.Canon := by
  unfold State.discardCore
  simp

@[simp] theorem State.discardFar_canon (s : State) (d : Nat) : (s.discardFar d).Canon ↔ s.Canon := by
  unfold State.discardFar
  simp

@[simp] theorem State.acquire_canon (s : State) (core scope : Nat) : (s.acquire core scope).Canon ↔ s.Canon := by
  unfold State.acquire
  (repeat' split) <;> simp

@[simp] theorem State.observe_canon (s : State) (f seq : Nat) (ws : List Nat) : (s.observe f seq ws).Canon ↔ s.Canon := by
  unfold State.observe
  simp

@[simp] theorem State.noteWrite_canon (s : State) (k w : Nat) (rel : Bool) : (s.noteWrite k w rel).Canon ↔ s.Canon := by
  unfold State.noteWrite
  dsimp only
  split <;> simp

@[simp] theorem State.noteRelease_canon (s : State) (w x wg core : Nat) (before : List Nat) : (s.noteRelease w x wg core before).Canon ↔ s.Canon := by
  unfold State.noteRelease
  (repeat' split) <;> simp

@[simp] theorem State.putBlock_canon (s : State) (b : Block) : (s.putBlock b).Canon ↔ s.Canon := by
  unfold State.putBlock
  (repeat' split) <;> simp

@[simp] theorem State.dropBlock_canon (s : State) (asid zr blk : Nat) : (s.dropBlock asid zr blk).Canon ↔ s.Canon := by
  unfold State.dropBlock
  simp

@[simp] theorem State.completeBars_canon (s : State) : (s.completeBars).Canon ↔ s.Canon := by
  unfold State.completeBars
  simp

@[simp] theorem State.owe_canon {s : State} (h : s.Canon) (wg : Nat) : (s.owe wg).Canon := by
  unfold State.owe
  split <;> simp [h]

@[simp] theorem State.endFlight_canon {s : State} (h : s.Canon) (id : Nat) : (s.endFlight id).Canon := by
  unfold State.endFlight
  simp [h]

@[simp] theorem State.askWalks_canon (s : State) (id : Nat) (asid : Nat) (frames : List Nat) : (s.askWalks id asid frames).Canon ↔ s.Canon := by
  unfold State.askWalks
  (repeat' split) <;> simp

@[simp] theorem State.tlbPut_canon (s : State) (ways cap : Nat) (e : TlbEntry) : (s.tlbPut ways cap e).Canon ↔ s.Canon := by
  unfold State.tlbPut
  simp

@[simp] theorem State.tlbDrop_canon (s : State) (core part asid va : Nat) : (s.tlbDrop core part asid va).Canon ↔ s.Canon := by
  unfold State.tlbDrop
  simp

@[simp] theorem State.install_canon (s : State) (core part asid va : Nat) (w : Walked) : (s.install core part asid va w).Canon ↔ s.Canon := by
  unfold State.install
  (repeat' split) <;> simp

@[simp] theorem State.cachePtrs_canon (s : State) (ps : List WalkEntry) : (s.cachePtrs ps).Canon ↔ s.Canon := by
  unfold State.cachePtrs
  refine foldl_canon_iff (fun s e => ?_) ps s
  exact Iff.rfl

@[simp] theorem State.giveWalk_canon (s : State) (core asid va : Nat) (w : Walked) (id : Nat) : (s.giveWalk core asid va w id).Canon ↔ s.Canon := by
  unfold State.giveWalk
  (repeat' split) <;> simp

@[simp] theorem State.giveMiss_canon (s : State) (asid va : Nat) (w : Walked) (m : Miss) : (s.giveMiss asid va w m).Canon ↔ s.Canon := by
  unfold State.giveMiss
  simp

@[simp] theorem State.takeSlot_canon (s : State) (f : Flight) (cls : Nat) : (s.takeSlot f cls).Canon ↔ s.Canon := by
  unfold State.takeSlot
  simp

@[simp] theorem State.waitFor_canon (s : State) (f : Flight) (rs : List Reg) : (s.waitFor f rs).Canon ↔ s.Canon := by
  unfold State.waitFor
  (repeat' split) <;> simp

@[simp] theorem State.killLanesOf_canon {s : State} (h : s.Canon) (id : Nat) (m : DWord) (frame : List DWord) :
    (s.killLanesOf id m frame).Canon := by
  unfold State.killLanesOf
  split
  · exact h
  · dsimp only
    split
    · exact h
    · generalize hr : State.reportFlight _ _ _ _ _ = r
      have hr : r.Canon := by rw [← hr]; split <;> simp [h]
      split <;> simp [hr]

@[simp] theorem State.later_canon (s : State) (c : Ctx) (dests : List Reg) (o : Out) (lost : List Reg) (sb : Option Nat) (crossed : Nat) :
    (s.later c dests o lost sb crossed).Canon ↔ s.Canon := by
  unfold State.later
  simp

@[simp] theorem State.afterResults_canon (s : State) (id pc : Nat) (old : Option DWord) : (s.afterResults id pc old).Canon ↔ s.Canon := by
  unfold State.afterResults
  (repeat' split) <;> simp

@[simp] theorem State.takeLater_canon (s : State) (id seq pc : Nat) (dests : List Reg) (sb : Option Nat) :
    (s.takeLater id seq pc dests sb).Canon ↔ s.Canon := by
  unfold State.takeLater
  simp

@[simp] theorem State.giveShadow_canon (s : State) (f : Flight) (seq : Nat) (ws : List RegWrite) (ms : List PMark) :
    (s.giveShadow f seq ws ms).Canon ↔ s.Canon := by
  unfold State.giveShadow
  split <;> simp

@[simp] theorem State.loseEarly_canon (s : State) (id seq : Nat) (lost : List Reg) : (s.loseEarly id seq lost).Canon ↔ s.Canon := by
  unfold State.loseEarly
  (repeat' split) <;> simp

@[simp] theorem State.giveNothing_canon (s : State) (f : Flight) (seq : Nat) : (s.giveNothing f seq).Canon ↔ s.Canon := by
  unfold State.giveNothing
  (repeat' split) <;> simp

/-- A descriptor whose own effects keep the parts. -/
structure Desc.Keeps (d : Desc) : Prop where
  eff : ∀ {c : Ctx} {s : State}, s.Canon → (d.eff c s).Canon
  pre : ∀ {c : Ctx} {s : State}, s.Canon → (d.pre c s).Canon
  room : ∀ {c : Ctx} {s : State}, s.Canon → (d.room c s).Canon

@[simp] theorem runBody_canon {d : Desc} (hd : d.Keeps) (c : Ctx) (dests lost : List Reg) {s : State} (h : s.Canon) :
    (runBody d c dests lost s).Canon := by
  unfold runBody
  have heff (t : State) (ht : t.Canon) : (d.eff c t).Canon := hd.eff ht
  (repeat' split) <;> simp [h, heff]

@[simp] theorem passShadow_canon (d : Desc) (f : Flight) (clock : Nat) (s : State) : (passShadow d f clock s).Canon ↔ s.Canon := by
  unfold passShadow
  (repeat' split) <;> simp

@[simp] theorem commit_canon {d : Desc} (hd : d.Keeps) (c : Ctx) {s : State} (h : s.Canon) : (commit d c s).Canon := by
  unfold commit
  split
  · exact h
  · simp [runBody_canon hd, h]

@[simp] theorem enterQueue_canon (d : Desc) (c : Ctx) (chain : Reg) (s : State) : (enterQueue d c chain s).Canon ↔ s.Canon := by
  unfold enterQueue
  split
  · rfl
  · dsimp only
    split
    · simp
    · split <;> simp

/-! ### Verdicts, the gate and issue -/

@[simp] theorem Verdict.andThen_canon {v : Verdict} {w : Unit → Verdict} (hv : v.Canon) (hw : (w ()).Canon) : (v.andThen w).Canon := by
  unfold Verdict.andThen
  split
  · exact hw
  · exact hv

@[simp] theorem Verdict.ofTrap_canon (t : Option TrapInfo) : (Verdict.ofTrap t).Canon := by
  cases t <;> trivial

@[simp] theorem regionTrap_canon (d : Desc) (c : Ctx) {s : State} (h : s.Canon) : (regionTrap d c s).Canon := by
  unfold regionTrap
  (repeat' split) <;> simp [h]

theorem lateChecks_canon {d : Desc} (hd : d.Keeps) (c : Ctx) {s : State} (h : s.Canon) (afb : Nat) : (lateChecks d c s afb).Canon := by
  have hpre : (d.pre c s).Canon := hd.pre h
  unfold lateChecks
  refine Verdict.andThen_canon (regionTrap_canon d c h) (Verdict.andThen_canon (by simp) (Verdict.andThen_canon (by simp)
    (Verdict.andThen_canon (by simp) (Verdict.andThen_canon (by simp) (Verdict.andThen_canon ?_ (by simp))))))
  split <;> simp [hpre]

theorem pairCheck_canon (d : Desc) (c : Ctx) {s : State} (h : s.Canon) : (pairCheck d c s).Canon := by
  unfold pairCheck shadowCheck
  (repeat' split) <;> simp [h]

/-- A gate that keeps the parts. -/
def Gate.Canon : Gate → Prop
  | .hold s => s.Canon
  | _ => True

@[simp] theorem Gate.go_canon (c : Ctx) : (Gate.go c).Canon := trivial
@[simp] theorem Gate.enter_canon (c : Ctx) (r : Reg) : (Gate.enter c r).Canon := trivial
@[simp] theorem Gate.trap_canon (t : TrapInfo) : (Gate.trap t).Canon := trivial
@[simp] theorem Gate.hold_canon (s : State) : (Gate.hold s).Canon ↔ s.Canon := Iff.rfl

theorem gate_canon {d : Desc} (hd : d.Keeps) (f : Flight) {s : State} (h : s.Canon) : (gate d f s).Canon := by
  have hlast (c : Ctx) (afb : Nat) (full : Prop) [Decidable full] :
      (((lateChecks d c s afb).andThen fun _ => pairCheck d c s).andThen fun _ =>
        if full then .hold s else if c.f.isShadow && d.fromLeader then .go else d.room c s).Canon := by
    refine Verdict.andThen_canon (Verdict.andThen_canon (lateChecks_canon hd c h afb) (pairCheck_canon d c h)) ?_
    simp [h, hd.room h]
  unfold gate
  dsimp only
  repeat' split
  all_goals try simp [h]
  all_goals
    next t ht => exact (ht ▸ hlast _ _ _ : (Verdict.hold t).Canon)

/-- An outcome whose state, if there is one, has its parts canonical. -/
def NextCanon : Host.Outcome State Fault Refusal → Prop
  | .next s => s.Canon
  | _ => True

@[simp] theorem nextCanon_next (s : State) : NextCanon (.next s) ↔ s.Canon := Iff.rfl
@[simp] theorem nextCanon_fault (e : Fault) : NextCanon (.fault e) := trivial
@[simp] theorem nextCanon_ite (c : Prop) [Decidable c] (a b : Host.Outcome State Fault Refusal) :
    NextCanon (if c then a else b) ↔ if c then NextCanon a else NextCanon b := by
  split <;> rfl

theorem issue_canon {d : Desc} (hd : d.Keeps) {s : State} (h : s.Canon) : NextCanon (issue d s) := by
  unfold issue
  split
  · trivial
  next f _ =>
    have hg := gate_canon hd f h
    split
    · simp [hd, h]
    · simp [h]
    · simp [h]
    next t ht => rw [ht] at hg; exact hg

end Sys2Proof.Machine
end

section
/-! SUPPORT. What every step keeps: resolved addresses, synchronisation, the stack, regrouping and queued instructions. -/

namespace Sys2Proof.Machine

open Sys2Proof

variable {α : Type}

/-! ### Resolved addresses -/

/-- Resolved addresses whose refusal, if it holds the flight back, keeps the parts. -/
def Spots.Canon : Spots → Prop
  | .ok _ => True
  | .bad v => v.Canon

@[simp] theorem Spots.ok_canon (l : List Access) : (Spots.ok l).Canon := trivial
@[simp] theorem Spots.bad_canon (v : Verdict) : (Spots.bad v).Canon ↔ v.Canon := Iff.rfl

@[simp] theorem Spots.verdict_canon {x : Spots} (h : x.Canon) : x.verdict.Canon := by
  cases x with
  | ok l => trivial
  | bad v => exact h

@[simp] theorem resolveGlobal_canon {s : State} (h : s.Canon) (f : Flight) (k : AccKind) (size align : Nat) (uni : Bool) (addrs : List (Nat × Nat)) :
    (resolveGlobal s f k size align uni addrs).Canon := by
  unfold resolveGlobal
  dsimp only
  (repeat' split) <;> simp [h]

@[simp] theorem resolveLocal_canon (s : State) (f : Flight) (size : Nat) (uni : Bool) (addrs : List (Nat × Nat)) :
    (resolveLocal s f size uni addrs).Canon := by
  unfold resolveLocal
  dsimp only
  (repeat' split) <;> simp

@[simp] theorem resolveTile_canon {s : State} (h : s.Canon) (f : Flight) (store : Bool) (base : Nat) (lines : List Nat) :
    (resolveTile s f store base lines).Canon := by
  unfold resolveTile
  dsimp only
  (repeat' split) <;> simp [h]

@[simp] theorem lsSpots_canon (x : MFields) (loc : Bool) (k : AccKind) (c : Ctx) {s : State} (h : s.Canon) : (lsSpots x loc k c s).Canon := by
  unfold lsSpots
  split <;> simp [h]

@[simp] theorem sSpots_canon (x : Fields) (k : AccKind) (c : Ctx) {s : State} (h : s.Canon) : (sSpots x k c s).Canon := by
  simp [sSpots, h]

/-! ### Results or a refusal -/

/-- A result, or a refusal, that keeps the parts. -/
def ExceptCanon : Except Verdict State → Prop
  | .ok s => s.Canon
  | .error v => v.Canon

@[simp] theorem exceptCanon_ok (s : State) : ExceptCanon (.ok s) ↔ s.Canon := Iff.rfl
@[simp] theorem exceptCanon_error (v : Verdict) : ExceptCanon (.error v) ↔ v.Canon := Iff.rfl

@[simp] theorem Flight.toVerdict_canon {r : Except Verdict State} (h : ExceptCanon r) : (Flight.toVerdict r).Canon := by
  cases r with
  | ok s => trivial
  | error v => exact h

@[simp] theorem State.orSame_canon {s : State} (h : s.Canon) {r : Except Verdict State} (hr : ExceptCanon r) : (s.orSame r).Canon := by
  cases r with
  | ok t => exact hr
  | error v => exact h

@[simp] theorem bucketRoom_canon (f : Flight) (charge : Nat) {s : State} (h : s.Canon) : (bucketRoom f charge s).Canon := by
  unfold bucketRoom
  dsimp only
  (repeat' split) <;> simp [h]

@[simp] theorem State.spend_canon (s : State) (f : Flight) (charge : Nat) : (s.spend f charge).Canon ↔ s.Canon := by
  unfold State.spend
  (repeat' split) <;> simp

@[simp] theorem startOp_canon (c : Ctx) (sb : Nat) (atomic : Bool) (acc : List Access) (mk : Nat → Op) (s : State) :
    (startOp c sb atomic acc mk s).Canon ↔ s.Canon := by
  unfold startOp
  (repeat' split) <;> simp

@[simp] theorem State.dropHint_canon (s : State) (f : Flight) (n : Nat) : (s.dropHint f n).Canon ↔ s.Canon := by
  unfold State.dropHint
  (repeat' split) <;> simp

@[simp] theorem State.semStep_canon {s : State} (h : s.Canon) (wg n : Nat) (g : Sem → Sem) : (s.semStep wg n g).Canon := by
  unfold State.semStep
  split
  · exact h
  next w hw =>
    have hm := h.wg?_wf hw
    exact setWg_canon (w := { w with sems := mset Sem.blank w.sems n (g (w.sem n)) }) h hm

theorem Workgroup.putErrs_wf {w : Workgroup} (h : Memory.wf w.mem) (r : List DWord) : Memory.wf (w.putErrs r).mem :=
  cellsPut_wf _ _ _ h

theorem Workgroup.watch_wf {w : Workgroup} (h : Memory.wf w.mem) (r : List DWord) (old : List Host.Cell) (off n : Nat) (rel : Bool) :
    Memory.wf (w.watch r old off n rel).mem := by
  unfold Workgroup.watch
  split
  · exact h
  · dsimp only
    split
    · split <;> exact putErrs_wf h r
    · exact h

@[simp] theorem State.locPut_canon {s : State} (h : s.Canon) (wg off : Nat) (bytes : List Byte) (wid : Nat) (rel : Bool) :
    (s.locPut wg off bytes wid rel).Canon := by
  unfold State.locPut
  split
  · exact h
  next w hw => exact setWg_canon h (Workgroup.watch_wf (cellsPut_wf _ _ _ (h.wg?_wf hw)) _ _ _ _ _)

@[simp] theorem State.arrive_canon (s : State) (f : Flight) (scope num : Nat) (count : Option Nat) :
    (s.arrive f scope num count).Canon ↔ s.Canon := by
  unfold State.arrive
  dsimp only
  split <;> simp

@[simp] theorem arriveRoom_canon (x : SFields) (c : Ctx) {s : State} (h : s.Canon) : (arriveRoom x c s).Canon := by
  unfold arriveRoom
  (repeat' split) <;> simp [h]

@[simp] theorem semPre_canon (x : SFields) (c : Ctx) (s : State) : (semPre x c s).Canon := by
  simp [semPre]

/-- What refuses a spill keeps the parts. -/
theorem State.spillPa_canon {s : State} (h : s.Canon) {v : Flight} {n : Nat} {e : Verdict} (he : s.spillPa v n = .error e) : e.Canon := by
  unfold State.spillPa at he
  dsimp only at he
  repeat' split at he
  all_goals cases he
  all_goals simp [h, stackTrap]

@[simp] theorem pushOne_canon (v : Flight) {s : State} (h : s.Canon) (e : StackEntry) : ExceptCanon (pushOne v s e) := by
  unfold pushOne
  split
  · exact h
  · dsimp only
    split
    · simp [h]
    · split
      · simp [stackTrap]
      · split
        · simp [h]
        · split
          next he => exact State.spillPa_canon h he
          next => simp [h]

theorem State.spillStop_canon {s : State} (h : s.Canon) {v : Flight} {n : Nat} {e : Verdict} (he : s.spillStop v n = some e) : e.Canon := by
  obtain ⟨k, -, hk⟩ := List.exists_of_findSome?_eq_some he
  split at hk
  next e' he' => exact Option.some.inj hk ▸ spillPa_canon h he'
  next => cases hk

theorem foldlM_canon {f : State → α → Except Verdict State} (hf : ∀ s x, s.Canon → ExceptCanon (f s x)) (l : List α) {s : State}
    (h : s.Canon) : ExceptCanon (l.foldlM f s) := by
  induction l generalizing s with
  | nil => exact h
  | cons x l ih =>
    have hx := hf s x h
    rw [List.foldlM_cons]
    cases hr : f s x with
    | error v => rw [hr] at hx; exact hx
    | ok t => rw [hr] at hx; exact ih hx

@[simp] theorem pushAll_canon (v : Flight) (es : List StackEntry) {s : State} (h : s.Canon) : ExceptCanon (pushAll v es s) := by
  unfold pushAll
  split
  · simp [stackTrap]
  · split
    next e he =>
      split at he
      · cases he
      · exact State.spillStop_canon h he
    next => exact foldlM_canon (fun _ e ht => pushOne_canon v ht e) es h

theorem exceptCanon_ite {c : Prop} {_ : Decidable c} {a b : Except Verdict State} (ha : ExceptCanon a) (hb : ExceptCanon b) :
    ExceptCanon (if c then a else b) := by
  split
  · exact ha
  · exact hb

@[simp] theorem fillStack_canon (v : Flight) {s : State} (h : s.Canon) (g : Flight) : ExceptCanon (fillStack v s g) := by
  unfold fillStack
  split
  · simp [h]
  · dsimp only
    refine exceptCanon_ite (by simp [h]) ?_
    split
    next he => exact State.spillPa_canon h he
    next =>
      refine exceptCanon_ite trivial ?_
      generalize s.homeBytes _ _ = m
      exact exceptCanon_ite trivial ((State.setFlight_canon ..).mpr h)

theorem popOne_canon (v : Flight) {s : State} (h : s.Canon) : ExceptCanon ((popOne v s).map Prod.snd) := by
  unfold popOne
  split
  · exact h
  next g0 _ =>
    have h1 : ExceptCanon (if g0.stack.isEmpty then fillStack v s g0 else .ok s) := by split <;> simp [h]
    split
    next e he => rw [he] at h1; exact h1
    next t ht =>
      rw [ht] at h1
      split
      · exact h1
      next g _ =>
        split
        · exact h1
        next r _ =>
          have h2 : ExceptCanon (if r.isEmpty then fillStack v t { g with stack := r } else .ok (t.setFlight { g with stack := r })) := by
            split
            · exact fillStack_canon v h1 _
            · exact (State.setFlight_canon ..).mpr h1
          dsimp only
          split
          next e he => rw [he] at h2; exact h2
          next u hu => rw [hu] at h2; exact h2

@[simp] theorem joinPop_canon (v : Flight) {s : State} (h : s.Canon) : ExceptCanon (joinPop v s) := by
  have hp := popOne_canon v h
  unfold joinPop
  split
  next e he => rw [he] at hp; exact hp
  next e t he => rw [he] at hp; exact (State.updFlight_canon ..).mpr hp

@[simp] theorem brcSplit_canon (c : Ctx) (t : DWord) (next : Nat) {s : State} (h : s.Canon) : ExceptCanon (brcSplit c t next s) :=
  pushAll_canon _ _ h

@[simp] theorem briPush_canon (c : Ctx) (gs : List (Nat × DWord)) {s : State} (h : s.Canon) : ExceptCanon (briPush c gs s) := by
  unfold briPush
  split
  · exact pushAll_canon _ _ h
  · exact h

@[simp] theorem State.regroup_canon {s : State} (h : s.Canon) (wg st : Nat) (fs : List Flight) (ps : List Pack) (target next : Nat) :
    (s.regroup wg st fs ps target next).Canon := by
  unfold State.regroup
  simp [h]

@[simp] theorem State.ungroup_canon {s : State} (h : s.Canon) (wg st : Nat) (fs : List Flight) (next : Nat) : (s.ungroup wg st fs next).Canon := by
  unfold State.ungroup
  refine foldl_canon (fun t f ht => ?_) _ _ (by simp [h])
  split <;> simp [ht]

@[simp] theorem State.endRun_canon (s : State) (h : Flight) : (s.endRun h).Canon ↔ s.Canon := by
  unfold State.endRun
  refine (foldl_canon_iff (fun t f => ?_) _ _).trans (by simp)
  split <;> simp

@[simp] theorem State.selWrite_canon (s : State) (f : Flight) (w v : DWord) : (s.selWrite f w v).Canon ↔ s.Canon := by
  unfold State.selWrite
  dsimp only
  split <;> simp

@[simp] theorem State.residualTrap_canon (s : State) (id pc : Nat) (t : TrapInfo) : (s.residualTrap id pc t).Canon ↔ s.Canon := by
  unfold State.residualTrap
  simp

@[simp] theorem State.crossTrap_canon (s : State) (id : Nat) (o : Op) : (s.crossTrap id o).Canon ↔ s.Canon := by
  unfold State.crossTrap
  (repeat' split) <;> simp

@[simp] theorem State.landOp_canon {s : State} (h : s.Canon) (id : Nat) (o : Op) (ws : List RegWrite) (ms : List PMark) :
    (s.landOp id o ws ms).Canon := by
  unfold State.landOp
  (repeat' split) <;> simp [h]

theorem entryPair_canon (d : Desc) (c : Ctx) (e : REntry) {s : State} (h : s.Canon) : (entryPair d c e s).Canon := by
  unfold entryPair
  dsimp only
  (repeat' split) <;> simp [h]

@[simp] theorem runEntry_canon {d : Desc} (hd : d.Keeps) (c : Ctx) (e : REntry) {s : State} (h : s.Canon) : (runEntry d c e s).Canon := by
  unfold runEntry
  split
  · exact h
  next f _ =>
    dsimp only
    generalize hr : runBody _ _ _ _ _ = r
    have hr : r.Canon := by rw [← hr]; simp [h, hd]
    cases hx : d.ext <;> cases hp : r.partner f <;> dsimp only <;> split <;> simp [hr]

end Sys2Proof.Machine
end

section
/-! SUPPORT. What every step keeps: the instructions, by their descriptors. -/

namespace Sys2Proof.Machine

open Sys2Proof

variable {α : Type}

/-! ### What the instructions do -/

@[simp] theorem blockSpots_canon (x : MFields) (rd : Bool) (c : Ctx) {s : State} (h : s.Canon) : (blockSpots x rd c s).Canon := by
  simp [blockSpots, h]

@[simp] theorem chkSpots_canon (x : SFields) (c : Ctx) (s : State) : (chkSpots x c s).Canon := by
  simp [chkSpots]

theorem ExceptCanon.of_ok {r : Except Verdict State} {t : State} (h : ExceptCanon r) (ht : r = .ok t) : t.Canon := by
  rw [ht] at h
  exact h

theorem descSwr_keeps (x : Fields) : (descSwr x).Keeps where
  eff h := by simp only [descSwr]; (repeat' split) <;> simp [h]
  pre _ := trivial
  room _ := trivial

theorem descExmset_keeps (x : Fields) : (descExmset x).Keeps where
  eff h := by simp only [descExmset]; simp [h]
  pre _ := trivial
  room _ := trivial

theorem modeDesc_keeps (x : Fields) (get : Flight → DWord) (ok : DWord → Bool) (put : Flight → DWord → DWord → Flight) : (modeDesc x get ok put).Keeps where
  eff h := by simp only [modeDesc]; simp [h]
  pre h := by simp only [modeDesc]; (repeat' split) <;> simp [h]
  room _ := trivial

theorem loadDesc_keeps (x : MFields) (loc land : Bool) : (loadDesc x loc land).Keeps where
  eff h := by simp only [loadDesc, memDesc]; (repeat' split) <;> simp [h]
  pre h := by simp only [loadDesc, memDesc]; simp [h]
  room h := by simp only [loadDesc, memDesc]; simp [h]

theorem storeDesc_keeps (x : MFields) (loc : Bool) : (storeDesc x loc).Keeps where
  eff h := by simp only [storeDesc, memDesc]; (repeat' split) <;> simp [h]
  pre h := by simp only [storeDesc, memDesc]; simp [h]
  room h := by simp only [storeDesc, memDesc]; simp [h]

theorem atomDesc_keeps (x : MFields) (loc : Bool) : (atomDesc x loc).Keeps where
  eff h := by simp only [atomDesc, memDesc]; (repeat' split) <;> simp [h]
  pre h := by simp only [atomDesc, memDesc]; (repeat' split) <;> simp [h]
  room h := by simp only [atomDesc, memDesc]; (repeat' split) <;> simp [h]

theorem descPref_keeps (x : MFields) : (descPref x).Keeps where
  eff h := by simp only [descPref]; (repeat' split) <;> simp [h]
  pre h := by simp only [descPref]; (repeat' split) <;> simp [h]
  room h := by simp only [descPref]; (repeat' split) <;> simp [h]

theorem tileDesc_keeps (x : MFields) (store : Bool) : (tileDesc x store).Keeps where
  eff h := by simp only [tileDesc, memDesc]; (repeat' split) <;> simp [h]
  pre h := by simp only [tileDesc, memDesc]; (repeat' split) <;> simp [h]
  room h := by simp only [tileDesc, memDesc]; (repeat' split) <;> simp [h]

theorem blockDesc_keeps (x : MFields) (kind : OpKind) : (blockDesc x kind).Keeps where
  eff h := by simp only [blockDesc, memDesc]; (repeat' split) <;> simp [h]
  pre h := by simp only [blockDesc, memDesc]; simp [h]
  room h := by simp only [blockDesc, memDesc]; simp

theorem descZerr_keeps (x : MFields) : (descZerr x).Keeps where
  eff h := by simp only [descZerr, memDesc]; simp [h]
  pre h := by simp only [descZerr, memDesc]; simp [h]
  room h := by simp only [descZerr, memDesc]; simp [h]

theorem lineDesc_keeps (x : MFields) (kind : OpKind) : (lineDesc x kind).Keeps where
  eff h := by simp only [lineDesc, memDesc]; (repeat' split) <;> simp [h]
  pre h := by simp only [lineDesc, memDesc]; simp [h]
  room h := by simp only [lineDesc, memDesc]; simp

theorem descSld_keeps (x : Fields) : (descSld x).Keeps where
  eff h := by simp only [descSld, sMem]; (repeat' split) <;> simp [h]
  pre h := by simp only [descSld, sMem]; (repeat' split) <;> simp [h]
  room h := by simp only [descSld, sMem]; (repeat' split) <;> simp [h]

theorem descSst_keeps (x : Fields) : (descSst x).Keeps where
  eff h := by simp only [descSst, sMem]; simp [h]
  pre h := by simp only [descSst, sMem]; (repeat' split) <;> simp [h]
  room h := by simp only [descSst, sMem]; (repeat' split) <;> simp [h]

theorem descAzld_keeps (x : Fields) : (descAzld x).Keeps where
  eff h := by simp only [descAzld]; (repeat' split) <;> simp [h]
  pre h := by simp only [descAzld]; simp [h]
  room h := by simp only [descAzld]; simp [h]

theorem barDesc_keeps (x : SFields) (arrives waits : Bool) : (barDesc x arrives waits).Keeps where
  eff h := by simp only [barDesc]; (repeat' split) <;> simp [h]
  pre _ := trivial
  room h := by simp only [barDesc]; (repeat' split) <;> simp [h]

theorem descFence_keeps (x : SFields) : (descFence x).Keeps where
  eff h := by simp only [descFence]; simp [h]
  pre _ := trivial
  room _ := trivial

theorem semWrite_keeps (x : SFields) (kind : OpKind) (region : Bool) : (semWrite x kind region).Keeps where
  eff h := by simp only [semWrite]; (repeat' split) <;> simp [h]
  pre h := by simp only [semWrite]; simp
  room _ := trivial

theorem descSemrd_keeps (x : SFields) : (descSemrd x).Keeps where
  eff h := by simp only [descSemrd]; simp [h]
  pre h := by simp only [descSemrd]; simp
  room _ := trivial

theorem descSemwait_keeps (x : SFields) : (descSemwait x).Keeps where
  eff h := by simp only [descSemwait]; (repeat' split) <;> simp [h]
  pre h := by simp only [descSemwait]; simp
  room h := by simp only [descSemwait]; (repeat' split) <;> simp [h]

theorem descMwait_keeps (x : SFields) : (descMwait x).Keeps where
  eff h := h
  pre _ := trivial
  room h := by simp only [descMwait]; (repeat' split) <;> simp [h]

theorem descChkwait_keeps (x : SFields) : (descChkwait x).Keeps where
  eff h := by simp only [descChkwait]; (repeat' split) <;> simp [h]
  pre h := by simp only [descChkwait]; simp
  room h := by simp only [descChkwait]; (repeat' split) <;> simp [h]

theorem descYield_keeps (x : SFields) : (descYield x).Keeps where
  eff h := by simp only [descYield]; (repeat' split) <;> simp [h]
  pre _ := trivial
  room _ := trivial

theorem descWaitsb_keeps (x : SFields) : (descWaitsb x).Keeps where
  eff h := h
  pre _ := trivial
  room h := by simp only [descWaitsb]; (repeat' split) <;> simp [h]

theorem descMma_keeps (x : TFields) (s : State) : (descMma x s).Keeps where
  eff h := by simp [descMma, h]
  pre _ := trivial
  room h := by simp only [descMma]; (repeat' split) <;> simp [h]

theorem descMgath_keeps (x : TFields) (_s : State) : (descMgath x _s).Keeps where
  eff h := by simp only [descMgath]; (repeat' split) <;> simp [h]
  pre h := by simp only [descMgath]; (repeat' split) <;> simp
  room h := by simp only [descMgath]; (repeat' split) <;> simp [h]

theorem descMclose_keeps (x : TFields) : (descMclose x).Keeps where
  eff h := by simp only [descMclose]; simp [h]
  pre _ := trivial
  room h := by simp only [descMclose]; (repeat' split) <;> simp [h]

theorem descTshp_keeps (x : TFields) : (descTshp x).Keeps where
  eff h := by simp only [descTshp]; simp [h]
  pre _ := trivial
  room _ := trivial

theorem descBra_keeps (x : BFields) : (descBra x).Keeps where
  eff h := by simp only [descBra]; simp [h]
  pre _ := trivial
  room _ := trivial

theorem descBrc_keeps (x : BFields) : (descBrc x).Keeps where
  eff h := by
    simp only [descBrc]
    split
    · simp [h]
    · exact h
    · split
      next => exact h
      next ht => simp [(brcSplit_canon _ _ _ h).of_ok ht]
  pre h := by simp only [descBrc]; (repeat' split) <;> simp [h]
  room _ := trivial

theorem descBri_keeps (x : CFields) : (descBri x).Keeps where
  eff h := by
    simp only [descBri]
    split
    · simp [h]
    · split
      next hf => cases hf
      next =>
        split
        · exact h
        · split
          next => exact h
          next ht => simp [(briPush_canon _ _ h).of_ok ht]
  pre h := by simp only [descBri]; (repeat' split) <;> simp [h]
  room _ := trivial

theorem descCall_keeps (x : BFields) : (descCall x).Keeps where
  eff h := by simp only [descCall]; simp [h]
  pre _ := trivial
  room _ := trivial

theorem descRet_keeps (x : CFields) : (descRet x).Keeps where
  eff h := by simp only [descRet]; simp [h]
  pre _ := trivial
  room _ := trivial

theorem descJoin_keeps (x : CFields) : (descJoin x).Keeps where
  eff h := by simp only [descJoin]; simp [h]
  pre h := by simp only [descJoin]; simp [h]
  room _ := trivial

theorem descBrgp_keeps (x : BFields) : (descBrgp x).Keeps where
  eff h := h
  pre _ := trivial
  room h := by
    rename_i c s
    have hw (u : Workgroup → Option Gather) : (s.updWg c.f.wg fun w => { w with gather := u w }).Canon :=
      State.updWg_canon (fun _ => rfl) h
    simp only [descBrgp]
    (repeat' split) <;> simp [h, hw]

theorem descRgjoin_keeps (x : CFields) : (descRgjoin x).Keeps where
  eff h := by simp only [descRgjoin]; (repeat' split) <;> simp [h]
  pre h := by simp only [descRgjoin]; (repeat' split) <;> simp [h]
  room h := by
    rename_i c s
    have hw (t : State) (ht : t.Canon) (u : Workgroup → List Nat) : (t.updWg c.f.wg fun w => { w with rejoin := u w }).Canon :=
      State.updWg_canon (fun _ => rfl) ht
    have hpop := hw _ (State.orSame_canon h (joinPop_canon c.f h))
    have hsame := hw _ h
    simp only [descRgjoin]
    (repeat' split) <;> simp [h, hpop, hsame]

theorem descExit_keeps (x : CFields) : (descExit x).Keeps where
  eff h := by simp only [descExit]; (repeat' split) <;> simp [h]
  pre h := by simp only [descExit]; (repeat' split) <;> simp [h]
  room h := by simp only [descExit]; (repeat' split) <;> simp [h]

theorem trapDesc_keeps (x : CFields) (code : Nat) : (trapDesc x code).Keeps where
  eff h := by simp only [trapDesc]; simp [h]
  pre _ := trivial
  room _ := trivial

theorem descEret_keeps (x : CFields) : (descEret x).Keeps where
  eff h := by simp only [descEret]; (repeat' split) <;> simp [h]
  pre _ := trivial
  room _ := trivial

theorem descDefer_keeps (x : CFields) : (descDefer x).Keeps where
  eff h := by simp only [descDefer]; simp [h]
  pre _ := trivial
  room _ := trivial

theorem descTfwr_keeps (x : CFields) : (descTfwr x).Keeps where
  eff h := by simp only [descTfwr]; (repeat' split) <;> simp [h]
  pre _ := trivial
  room _ := trivial

theorem descTfres_keeps (x : CFields) : (descTfres x).Keeps where
  eff h := by simp only [descTfres]; (repeat' split) <;> simp [h]
  pre _ := trivial
  room _ := trivial

theorem descLkill_keeps (x : CFields) : (descLkill x).Keeps where
  eff h := by simp only [descLkill]; (repeat' split) <;> simp [h]
  pre _ := trivial
  room _ := trivial

theorem descLnch_keeps (x : CFields) : (descLnch x).Keeps where
  eff h := by simp only [descLnch]; simp [h]
  pre h := by simp only [descLnch]; (repeat' split) <;> simp
  room _ := trivial

theorem landReg_keeps (x : MFields) : (landReg x).Keeps where
  eff h := by simp only [landReg]; simp [h]
  pre _ := trivial
  room _ := trivial

theorem descLand_keeps (x : MFields) : (descLand x).Keeps := by
  unfold descLand
  split
  · exact landReg_keeps x
  · exact loadDesc_keeps x false true

/-- Descriptors, where there is one, that keep the parts. -/
def OptKeeps : Option Desc → Prop
  | some d => d.Keeps
  | none => True

theorem descOf_keeps (s : State) (i : Instr) : OptKeeps (descOf s i) := by
  cases i
  case swr | swrLong => exact descSwr_keeps ..
  case exmset | exmsetLong => exact descExmset_keeps ..
  case fsmode | fstat => exact modeDesc_keeps ..
  case sld => exact descSld_keeps ..
  case sst => exact descSst_keeps ..
  case azld => exact descAzld_keeps ..
  case ld | ldl => exact loadDesc_keeps ..
  case land => exact descLand_keeps ..
  case st | stl => exact storeDesc_keeps ..
  case atom | atoml => exact atomDesc_keeps ..
  case pref => exact descPref_keeps ..
  case tld | tst => exact tileDesc_keeps ..
  case zflush | zdrop => exact blockDesc_keeps ..
  case zerr => exact descZerr_keeps ..
  case clean | inval => exact lineDesc_keeps ..
  case bar | bara | barw => exact barDesc_keeps ..
  case fence => exact descFence_keeps ..
  case semadd | semset => exact semWrite_keeps ..
  case semwait => exact descSemwait_keeps ..
  case semrd => exact descSemrd_keeps ..
  case mwait => exact descMwait_keeps ..
  case chkwait => exact descChkwait_keeps ..
  case yield => exact descYield_keeps ..
  case waitsb => exact descWaitsb_keeps ..
  case mma => exact descMma_keeps ..
  case mgath => exact descMgath_keeps ..
  case mclose => exact descMclose_keeps ..
  case tshp => exact descTshp_keeps ..
  case bra => exact descBra_keeps ..
  case brc => exact descBrc_keeps ..
  case join => exact descJoin_keeps ..
  case brgp => exact descBrgp_keeps ..
  case rgjoin => exact descRgjoin_keeps ..
  case call => exact descCall_keeps ..
  case ret => exact descRet_keeps ..
  case bri => exact descBri_keeps ..
  case exit => exact descExit_keeps ..
  case trap | brk => exact trapDesc_keeps ..
  case eret => exact descEret_keeps ..
  case defer => exact descDefer_keeps ..
  case tfwr => exact descTfwr_keeps ..
  case tfres => exact descTfres_keeps ..
  case lkill => exact descLkill_keeps ..
  case lnch => exact descLnch_keeps ..
  all_goals first | exact trivial | exact ⟨fun h => h, fun _ => trivial, fun _ => trivial⟩

/-- The meaning of an instruction that has a descriptor is its issue. -/
def IssuesDesc (s : State) (i : Instr) : Prop :=
  match descOf s i with
  | some d => exec i s = issue d s
  | none => True

theorem exec_issuesDesc (s : State) (i : Instr) : IssuesDesc s i := by
  cases i
  all_goals first | exact trivial | exact rfl

theorem exec_of_descOf {s : State} {i : Instr} {d : Desc} (h : descOf s i = some d) : exec i s = issue d s := by
  have hi := exec_issuesDesc s i
  unfold IssuesDesc at hi
  rw [h] at hi
  exact hi

theorem exec_canon_of_descOf {s : State} (hs : s.Canon) {i : Instr} {d : Desc} (h : descOf s i = some d) : NextCanon (exec i s) := by
  have hk := descOf_keeps s i
  rw [h] at hk
  rw [exec_of_descOf h]
  exact issue_canon hk hs

end Sys2Proof.Machine
end

section
/-! SUPPORT. What every step keeps: the homes, block views, device registers, reports and management commands. -/

namespace Sys2Proof.Machine

open Sys2Proof

variable {α : Type}

@[simp] theorem State.settle_canon (s : State) (f opn : Nat) : (s.settle f opn).Canon ↔ s.Canon := by
  unfold State.settle
  (repeat' split) <;> simp

@[simp] theorem State.lanePerformed_canon (s : State) (f opn : Nat) (a : Access) (obs : List Nat) :
    (s.lanePerformed f opn a obs).Canon ↔ s.Canon := by
  unfold State.lanePerformed
  simp

@[simp] theorem State.refuse_canon (s : State) (f opn : Nat) (a : Access) (sec pc : Nat) : (s.refuse f opn a sec pc).Canon ↔ s.Canon := by
  unfold State.refuse
  simp

@[simp] theorem State.joinFill_canon (s : State) (line : Nat) (r : HomeReq) : (s.joinFill line r).Canon ↔ s.Canon := by
  unfold State.joinFill
  simp

@[simp] theorem State.lanePhase_canon (s : State) (f opn lane : Nat) (p : Phase) : (s.lanePhase f opn lane p).Canon ↔ s.Canon := by
  unfold State.lanePhase
  simp

@[simp] theorem State.train_canon (s : State) (core pa peer : Nat) : (s.train core pa peer).Canon ↔ s.Canon := by
  unfold State.train
  simp

@[simp] theorem State.untrain_canon (s : State) (core pa : Nat) : (s.untrain core pa).Canon ↔ s.Canon := by
  unfold State.untrain
  simp

@[simp] theorem State.trainBy_canon (s : State) (core pa field : Nat) : (s.trainBy core pa field).Canon ↔ s.Canon := by
  unfold State.trainBy
  (repeat' split) <;> simp

@[simp] theorem State.l1FromHome_canon (s : State) (core line : Nat) (m : BitVec 4) (ro : Bool) (hint : Nat) :
    (s.l1FromHome core line m ro hint).Canon ↔ s.Canon := by
  unfold State.l1FromHome
  (repeat' split) <;> simp

@[simp] theorem State.l1FromCopy_canon (s : State) (core : Nat) (c : LineCopy) (m : BitVec 4) (ro : Bool) (hint : Nat) :
    (s.l1FromCopy core c m ro hint).Canon ↔ s.Canon := by
  unfold State.l1FromCopy
  (repeat' split) <;> simp

@[simp] theorem State.fillFar_canon (s : State) (core line gen : Nat) (ro : Bool) : (s.fillFar core line gen ro).Canon ↔ s.Canon := by
  unfold State.fillFar
  (repeat' split) <;> simp

@[simp] theorem State.readHome_canon {s : State} (h : s.Canon) (f : Flight) (o : Op) (a : Access) (gen : Nat) : (s.readHome f o a gen).Canon := by
  simp only [State.readHome]
  (repeat' split) <;> simp [h]

@[simp] theorem State.readCopy_canon (s : State) (f : Flight) (o : Op) (a : Access) (c : LineCopy) : (s.readCopy f o a c).Canon ↔ s.Canon := by
  unfold State.readCopy
  simp

@[simp] theorem State.readBeyond_canon {s : State} (h : s.Canon) (f : Flight) (o : Op) (a : Access) : (s.readBeyond f o a).Canon := by
  simp only [State.readBeyond]
  (repeat' split) <;> simp [h]

@[simp] theorem State.readTier_canon {s : State} (h : s.Canon) (f : Flight) (o : Op) (a : Access) : (s.readTier f o a).Canon := by
  simp only [State.readTier]
  (repeat' split) <;> simp [h]

@[simp] theorem State.readSystem_canon (s : State) (f : Flight) (o : Op) (a : Access) : (s.readSystem f o a).Canon ↔ s.Canon := by
  unfold State.readSystem
  simp

@[simp] theorem State.readLocal_canon {s : State} (h : s.Canon) (f : Flight) (o : Op) (a : Access) (wg : Nat) : (s.readLocal f o a wg).Canon := by
  simp only [State.readLocal]
  (repeat' split) <;> simp [h]

@[simp] theorem State.allocWhole_canon {s : State} (h : s.Canon) (w : Wr) : (s.allocWhole w).Canon := by
  simp only [State.allocWhole]
  (repeat' split) <;> simp [h]

@[simp] theorem State.applyHome_canon {s : State} (h : s.Canon) (w : Wr) : (s.applyHome w).Canon := by
  simp only [State.applyHome]
  simp [h]

@[simp] theorem State.localWrite_canon {s : State} (h : s.Canon) (g : Workgroup) (off : Nat) (bytes : List Byte) (w : Nat) (rel : Bool) :
    (s.localWrite g off bytes w rel).Canon := by
  simp only [State.localWrite]
  simp [h]

@[simp] theorem State.applyLocal_canon {s : State} (h : s.Canon) (w : Wr) (wg : Nat) : (s.applyLocal w wg).Canon := by
  simp only [State.applyLocal]
  (repeat' split) <;> simp [h]

@[simp] theorem State.updateL1_canon (s : State) (core : Nat) (w : Wr) : (s.updateL1 core w).Canon ↔ s.Canon := by
  unfold State.updateL1
  (repeat' split) <;> simp

@[simp] theorem State.updateFar_canon (s : State) (core : Nat) (w : Wr) : (s.updateFar core w).Canon ↔ s.Canon := by
  unfold State.updateFar
  (repeat' split) <;> simp

@[simp] theorem State.leaveQueue_canon (s : State) (w : Wr) (before : List Nat) : (s.leaveQueue w before).Canon ↔ s.Canon := by
  unfold State.leaveQueue
  simp

@[simp] theorem State.discardOwn_canon (s : State) (core line : Nat) : (s.discardOwn core line).Canon ↔ s.Canon := by
  unfold State.discardOwn
  simp

@[simp] theorem State.stepWriter_canon (s : State) (f : Flight) (o : Op) : (s.stepWriter f o).2.Canon ↔ s.Canon := by
  simp [State.stepWriter]

@[simp] theorem State.atomHome_canon {s : State} (h : s.Canon) (f : Flight) (o : Op) (a : Access) : (s.atomHome f o a).Canon := by
  simp only [State.atomHome]
  (repeat' split) <;> simp [h]

@[simp] theorem State.atomLocal_canon {s : State} (h : s.Canon) (f : Flight) (o : Op) (a : Access) (wg : Nat) : (s.atomLocal f o a wg).Canon := by
  simp only [State.atomLocal]
  (repeat' split) <;> simp [h]

@[simp] theorem State.putElem_canon (s : State) (z : ZRegion) (asid zr wid : Nat) (p : Nat × Nat) (x : Nat) :
    (s.putElem z asid zr wid p x).Canon ↔ s.Canon := by
  unfold State.putElem
  (repeat' split) <;> simp

@[simp] theorem State.viewFill_canon (s : State) (z : ZRegion) (asid zr core off hint : Nat) :
    (s.viewFill z asid zr core off hint).Canon ↔ s.Canon := by
  unfold State.viewFill
  simp

@[simp] theorem State.dropBlockLines_canon (s : State) (z : ZRegion) (asid zr blk core : Nat) :
    (s.dropBlockLines z asid zr blk core).Canon ↔ s.Canon := by
  unfold State.dropBlockLines
  simp

@[simp] theorem State.viewRead_canon {s : State} (h : s.Canon) (f : Flight) (o : Op) (a : Access) (asid zr : Nat) :
    (s.viewRead f o a asid zr).Canon := by
  simp only [State.viewRead]
  (repeat' split) <;> simp [h]

@[simp] theorem State.viewAtomic_canon {s : State} (h : s.Canon) (f : Flight) (o : Op) (a : Access) (asid zr : Nat) :
    (s.viewAtomic f o a asid zr).Canon := by
  simp only [State.viewAtomic]
  (repeat' split) <;> simp [h]

@[simp] theorem State.viewStore_canon (s : State) (w : Wr) (asid zr : Nat) : (s.viewStore w asid zr).Canon ↔ s.Canon := by
  unfold State.viewStore
  (repeat' split) <;> simp

@[simp] theorem State.flushDone_canon (s : State) (f opn asid zr blk : Nat) : (s.flushDone f opn asid zr blk).Canon ↔ s.Canon := by
  unfold State.flushDone
  (repeat' split) <;> simp

@[simp] theorem State.serve_canon {s : State} (h : s.Canon) (asid zr blk : Nat) (rs : List HomeReq) : (s.serve asid zr blk rs).Canon := by
  induction rs generalizing s with
  | nil => exact h
  | cons r rest ih =>
    unfold State.serve
    dsimp only
    split
    · exact h
    · split
      · exact ih (by split <;> simp [h])
      · exact ih (by split <;> simp [h])
      · exact ih (by split <;> simp [h])
      · split
        · split <;> simp [h]
        · split
          · simp [h]
          · exact ih (by simp [h])

@[simp] theorem State.blockRequest_canon {s : State} (h : s.Canon) (asid zr : Nat) (blks : List Nat) (r : HomeReq) {queue : State → State}
    (hq : ∀ t, t.Canon → (queue t).Canon) : (s.blockRequest asid zr blks r queue).Canon := by
  have hput (b : Block) : (queue (s.putBlock b)).Canon := hq _ (by simp [h])
  simp only [State.blockRequest]
  (repeat' split) <;> simp [h, hput]

@[simp] theorem State.zrSet_canon (s : State) (asid n : Nat) (w0 : DWord) (lnch : Bool) : (s.zrSet asid n w0 lnch).Canon ↔ s.Canon := by
  unfold State.zrSet
  (repeat' split) <;> simp

@[simp] theorem State.startEncode_canon (s : State) (b : Block) : (s.startEncode b).Canon ↔ s.Canon := by
  unfold State.startEncode
  (repeat' split) <;> simp

@[simp] theorem State.poisonedWrite_canon {s : State} (h : s.Canon) (pa : Nat) (bytes : List Byte) : (s.poisonedWrite pa bytes).Canon := by
  simp only [State.poisonedWrite]
  simp [h]

@[simp] theorem State.encodeLine_canon {s : State} (h : s.Canon) (b : Block) : (s.encodeLine b).Canon := by
  simp only [State.encodeLine]
  (repeat' split) <;> simp [h]

@[simp] theorem State.endEncode_canon {s : State} (h : s.Canon) (b : Block) : (s.endEncode b).Canon := by
  unfold State.endEncode
  split
  · simp [h]
  · split <;> simp [h]
  · exact h

@[simp] theorem State.encodeAll_canon (n : Nat) {s : State} (h : s.Canon) (asid zr blk : Nat) : (s.encodeAll n asid zr blk).Canon := by
  induction n generalizing s with
  | zero => exact h
  | succ n ih =>
    unfold State.encodeAll
    split
    · split
      · split
        · simp [h]
        · exact ih (encodeLine_canon h _)
      · exact h
    · exact h

@[simp] theorem State.encodeNow_canon {s : State} (h : s.Canon) (b : Block) : (s.encodeNow b).Canon :=
  encodeAll_canon _ ((startEncode_canon s b).mpr h) _ _ _

@[simp] theorem State.zrRetireStart_canon (s : State) (asid n : Nat) : (s.zrRetireStart asid n).Canon ↔ s.Canon := by
  unfold State.zrRetireStart
  simp

@[simp] theorem State.dropViewLines_canon (s : State) (asid n : Nat) : (s.dropViewLines asid n).Canon ↔ s.Canon := by
  unfold State.dropViewLines
  simp

@[simp] theorem State.zrRetireEnd_canon (s : State) (asid n : Nat) : (s.zrRetireEnd asid n).Canon ↔ s.Canon := by
  unfold State.zrRetireEnd
  simp

@[simp] theorem State.setBits_canon (s : State) (o : Nat) (m : DWord) : (s.setBits o m).Canon ↔ s.Canon := by
  unfold State.setBits
  simp

@[simp] theorem State.lost_canon (s : State) (wr : Nat) : (s.lost wr).Canon ↔ s.Canon := by
  unfold State.lost
  simp

@[simp] theorem State.ringPut_canon {s : State} (h : s.Canon) (cfg n : Nat) (bytes : List Byte) : (s.ringPut cfg n bytes).2.Canon := by
  unfold State.ringPut
  dsimp only
  split <;> simp [h]

@[simp] theorem State.writeReport_canon {s : State} (h : s.Canon) (seq : Nat) (r : Report) : (s.writeReport seq r).Canon := by
  have hr := ringPut_canon h repCfg 128 (r.bytes seq)
  unfold State.writeReport
  dsimp only
  split
  next t ht => rw [ht] at hr; split <;> exact hr
  next t ht => rw [ht] at hr; exact hr

@[simp] theorem State.flushReports_canon {s : State} (h : s.Canon) : s.flushReports.Canon := by
  unfold State.flushReports
  split
  · exact foldl_canon (fun _ _ ht => writeReport_canon ht _ _) _ _ h
  · exact h

@[simp] theorem State.setPower_canon (s : State) (idle : Bool) : (s.setPower idle).Canon ↔ s.Canon := by
  unfold State.setPower
  (repeat' split) <;> simp

@[simp] theorem State.clearKeys_canon (s : State) : (s.clearKeys).Canon ↔ s.Canon := by
  unfold State.clearKeys
  simp

@[simp] theorem State.sleepAsk_canon {s : State} (h : s.Canon) : s.sleepAsk.Canon := by
  have hb : (s.mem.blocks.foldl State.encodeNow s).Canon := foldl_canon (fun _ _ ht => encodeNow_canon ht _) _ _ h
  have hl (l : List L2Line) : (l.foldl (fun s x => s.cleanLine x.line) (s.mem.blocks.foldl State.encodeNow s)).Canon :=
    foldl_canon (fun _ _ ht => cleanLine_canon ht _) _ _ hb
  simp only [State.sleepAsk]
  split <;> simp [h, hl]

@[simp] theorem State.finishShoots_canon {s : State} (h : s.Canon) : (s.finishShoots).Canon := by
  simp only [State.finishShoots]
  (repeat' split) <;> simp [h]

@[simp] theorem State.startShoot_canon {s : State} (h : s.Canon) (kind asid first count : Nat) (o : ShootOwner) :
    (s.startShoot kind asid first count o).Canon := by
  simp only [State.startShoot]
  simp [h]

@[simp] theorem State.tlbiWrite_canon {s : State} (h : s.Canon) (half : Nat) (w : DWord) : (s.tlbiWrite half w).Canon := by
  simp only [State.tlbiWrite]
  (repeat' split) <;> simp [h]

@[simp] theorem State.arsctlWrite_canon {s : State} (h : s.Canon) (half : Nat) (w : DWord) : (s.arsctlWrite half w).Canon := by
  simp only [State.arsctlWrite]
  (repeat' split) <;> simp [h]

@[simp] theorem State.moveLine_canon {s : State} (h : s.Canon) (x : L2Line) : (s.moveLine x).Canon := by
  simp only [State.moveLine]
  (repeat' split) <;> simp [h]

@[simp] theorem State.queueErr_canon (s : State) (q idx chk : Nat) : (s.queueErr q idx chk).Canon ↔ s.Canon := by
  unfold State.queueErr
  simp

@[simp] theorem State.qcfgPut_canon (s : State) (q half : Nat) (w : DWord) : (s.qcfgPut q half w).Canon ↔ s.Canon := by
  unfold State.qcfgPut
  (repeat' split) <;> simp

@[simp] theorem State.tailPut_canon (s : State) (q tail : Nat) : (s.tailPut q tail).Canon ↔ s.Canon := by
  unfold State.tailPut
  simp

@[simp] theorem State.zrPut_canon (s : State) (asid n w half : Nat) (v : DWord) : (s.zrPut asid n w half v).Canon ↔ s.Canon := by
  unfold State.zrPut
  (repeat' split) <;> simp

@[simp] theorem State.flcfgPut_canon (s : State) (d half : Nat) (w : DWord) : (s.flcfgPut d half w).Canon ↔ s.Canon := by
  unfold State.flcfgPut
  (repeat' split) <;> simp

@[simp] theorem State.regPut_canon {s : State} (h : s.Canon) (o half : Nat) (w : DWord) : (s.regPut o half w).Canon := by
  simp only [State.regPut]
  (repeat' split) <;> simp [h]

@[simp] theorem State.dropFarWays_canon (s : State) (d : Nat) : (s.dropFarWays d).Canon ↔ s.Canon := by
  unfold State.dropFarWays
  simp

@[simp] theorem State.evictHomeWays_canon {s : State} (h : s.Canon) (d : Nat) : (s.evictHomeWays d).Canon := by
  unfold State.evictHomeWays
  exact foldl_canon (fun _ _ ht => (dropL2_canon ..).mpr (writeBack_canon ht _)) _ _ h

@[simp] theorem State.setDebug_canon {s : State} (h : s.Canon) {st : Nat} (hst : st < 3) : (s.setDebug st).Canon := by
  have hp (t : State) (ht : t.Canon) : CanonParts t.mem.bytes t.wgs t.dev.badList st := ⟨ht.bytes, ht.wgs, ht.bad, hst⟩
  simp only [State.setDebug]
  (repeat' split) <;> simp [h, hp]

@[simp] theorem State.askDebug_canon {s : State} (h : s.Canon) (st : Nat) : (s.askDebug st).Canon := by
  unfold State.askDebug
  split
  next hst => simp [h, hst]
  next => exact h

@[simp] theorem State.bootFail_canon (s : State) (image fail : Nat) : (s.bootFail image fail).Canon ↔ s.Canon := by
  unfold State.bootFail
  simp

@[simp] theorem State.readBadList_canon (s : State) : (s.readBadList).Canon ↔ s.Canon := by
  unfold State.readBadList
  simp

@[simp] theorem State.afterReset_canon {s : State} (h : s.Canon) : s.afterReset.Canon where
  bytes := h.bytes
  wgs _ hw := nomatch hw
  bad := h.bad
  dbg := Nat.zero_lt_succ 2

@[simp] theorem State.recover_canon {s : State} (h : s.Canon) : (s.recover).Canon := by
  simp only [State.recover]
  (repeat' split) <;> simp [h]

@[simp] theorem State.mgmtDone_canon (s : State) (status res : Nat) : (s.mgmtDone status res).Canon ↔ s.Canon := by
  unfold State.mgmtDone
  simp

@[simp] theorem State.appendBad_canon {s : State} (h : s.Canon) (frame cause : Nat) : (s.appendBad frame cause).Canon := by
  have hp (w : DWord) (hn : ¬ 4096 ≤ s.dev.badList.length) : CanonParts s.mem.bytes s.wgs (s.dev.badList ++ [w]) s.dev.dbg :=
    ⟨h.bytes, h.wgs, by simp only [List.length_append, List.length_singleton]; omega, h.dbg⟩
  simp only [State.appendBad]
  split
  · simp [h]
  · split
    · simp [h]
    next hn => simp [hp _ hn]

@[simp] theorem State.setMgmt_canon (s : State) (m : Mgmt) : (s.setMgmt m).Canon ↔ s.Canon := by
  unfold State.setMgmt
  simp

@[simp] theorem State.retireStep_canon {s : State} (h : s.Canon) (m : Mgmt) : (s.retireStep m).Canon := by
  simp only [State.retireStep]
  (repeat' split) <;> simp [h]

@[simp] theorem State.copySector_canon {s : State} (h : s.Canon) (n f g sec : Nat) : (s.copySector n f g sec).Canon := by
  simp only [State.copySector]
  (repeat' split) <;> simp [h]

@[simp] theorem State.migrateStep_canon {s : State} (h : s.Canon) (m : Mgmt) : (s.migrateStep m).Canon := by
  have hclean (l : List L2Line) : (l.foldl (fun s x => s.cleanLine x.line) s).Canon :=
    foldl_canon (fun _ _ ht => cleanLine_canon ht _) _ _ h
  have hcopy (n f g : Nat) (l : List Nat) : (l.foldl (fun s x => s.copySector n f g x) s).Canon :=
    foldl_canon (fun _ _ ht => copySector_canon ht _ _ _ _) _ _ h
  simp only [State.migrateStep]
  (repeat' split) <;> simp [h, hclean, hcopy]

/-- A token that verifies asks for a debug state of Table 18-9. -/
theorem State.tokenOk_debug {s : State} {t : List Byte} (h : s.tokenOk t = true) : ofLe ((t.drop 4).take 1) < 3 := by
  simp only [State.tokenOk, Bool.and_eq_true, Bool.or_eq_true, decide_eq_true_eq] at h
  omega

@[simp] theorem State.mgmtQuick_canon {s : State} (h : s.Canon) (m : Mgmt) : (s.mgmtQuick m).Canon := by
  have hclear : CanonParts s.mem.bytes s.wgs [] s.dev.dbg := ⟨h.bytes, h.wgs, by simp, h.dbg⟩
  have htoken (v : DWord) {st : Nat} (hst : st < 3) : (({ s with dev := { s.dev with tokSerial := v } } : State).setDebug st).Canon :=
    setDebug_canon (by simp [h]) hst
  simp only [State.mgmtQuick]
  split
  · split <;> simp [h, hclear]
  · (repeat' split) <;> simp [h]
  · split
    · simp [h]
    · split
      next ht => simp [htoken _ (tokenOk_debug ht.2)]
      next => simp [h]
  · (repeat' split) <;> simp [h]

@[simp] theorem State.mgmtStart_canon {s : State} (h : s.Canon) (op : Nat) : (s.mgmtStart op).Canon := by
  simp only [State.mgmtStart]
  (repeat' split) <;> simp [h]

@[simp] theorem State.regWrite_canon {s : State} (h : s.Canon) (o half : Nat) (w : DWord) : (s.regWrite o half w).Canon := by
  simp only [State.regWrite]
  (repeat' split) <;> simp [h]

@[simp] theorem State.devWrite_canon {s : State} (h : s.Canon) (off n v : Nat) : (s.devWrite off n v).Canon := by
  unfold State.devWrite
  split
  · simp [h]
  · split <;> simp [h]

@[simp] theorem State.mgmtCmd_canon {s : State} (h : s.Canon) (op : Nat) : (s.mgmtCmd op).Canon :=
  regWrite_canon h _ _ _

end Sys2Proof.Machine
end

section
/-! SUPPORT. What every step keeps: performing, landing, launching, scheduling, the copy engines, traps and ports. -/

namespace Sys2Proof.Machine

open Sys2Proof

variable {α : Type}

/-! ### Updates of a workgroup that write its memory -/

theorem State.updWg_canon_of_wf {s : State} {n : Nat} {g : Workgroup → Workgroup} (hg : ∀ x, Memory.wf x.mem → Memory.wf (g x).mem)
    (h : s.Canon) : (s.updWg n g).Canon := by
  unfold State.updWg
  split
  next x hx => exact setWg_canon h (hg x (h.wg?_wf hx))
  next => exact h

@[simp] theorem State.updWg_putErrs_canon {s : State} (h : s.Canon) (n : Nat) (r : List DWord) : (s.updWg n fun w => w.putErrs r).Canon :=
  updWg_canon_of_wf (fun _ hx => Workgroup.putErrs_wf hx r) h

theorem filterWgs_canon {s : State} (h : s.Canon) (p : Workgroup → Bool) : CanonParts s.mem.bytes (s.wgs.filter p) s.dev.badList s.dev.dbg :=
  ⟨h.bytes, fun w hw => h.wgs w (List.mem_of_mem_filter hw), h.bad, h.dbg⟩

@[simp] theorem State.failRead_canon (s : State) (f : Flight) (o : Op) (a : Access) (port : Nat) : (s.failRead f o a port).Canon ↔ s.Canon := by
  unfold State.failRead
  (repeat' split) <;> simp

@[simp] theorem State.readDev_canon (s : State) (f : Flight) (o : Op) (a : Access) : (s.readDev f o a).Canon ↔ s.Canon := by
  unfold State.readDev
  (repeat' split) <;> simp

@[simp] theorem State.viewHome_canon {s : State} (h : s.Canon) (f : Flight) (o : Op) (a : Access) (asid zr : Nat) :
    (s.viewHome f o a asid zr).Canon := by
  simp only [State.viewHome]
  (repeat' split) <;> simp [h]

@[simp] theorem State.readPast_canon {s : State} (h : s.Canon) (f : Flight) (o : Op) (a : Access) : (s.readPast f o a).Canon := by
  simp only [State.readPast]
  (repeat' split) <;> simp [h]

@[simp] theorem State.readNow_canon {s : State} (h : s.Canon) (f : Flight) (o : Op) (a : Access) : (s.readNow f o a).Canon := by
  unfold State.readNow
  split <;> simp [h]

@[simp] theorem State.toTransit_canon (s : State) (w : Wr) (before : List Nat) : (s.toTransit w before).Canon ↔ s.Canon := by
  unfold State.toTransit
  simp

@[simp] theorem State.drainHome_canon {s : State} (h : s.Canon) (x : Flight) (w : Wr) : (s.drainHome x w).Canon := by
  simp only [State.drainHome]
  (repeat' split) <;> simp [h]

@[simp] theorem State.queueWrite_canon (s : State) (w : Wr) : (s.queueWrite w).Canon ↔ s.Canon := by
  unfold State.queueWrite
  simp

@[simp] theorem State.drainOne_canon {s : State} (h : s.Canon) (x : Flight) (w : Wr) : (s.drainOne x w).Canon := by
  simp only [State.drainOne]
  (repeat' split) <;> simp [h]

@[simp] theorem State.leaveTransit_canon (s : State) (w : Wr) : (s.leaveTransit w).Canon ↔ s.Canon := by
  unfold State.leaveTransit
  simp

@[simp] theorem State.queueTransit_canon (s : State) (w : Wr) : (s.queueTransit w).Canon ↔ s.Canon := by
  unfold State.queueTransit
  simp

@[simp] theorem State.serveFill_canon {s : State} (h : s.Canon) (r : HomeReq) : (s.serveFill r).Canon := by
  simp only [State.serveFill]
  (repeat' split) <;> simp [h]

@[simp] theorem State.readFinds_canon (s : State) (line : Nat) (found : List EccFinding) : (s.readFinds line found).Canon ↔ s.Canon := by
  unfold State.readFinds
  (repeat' split) <;> simp

@[simp] theorem State.tileLoadStep_canon (s : State) (x : Flight) (o : Op) : (s.tileLoadStep x o).Canon ↔ s.Canon := by
  unfold State.tileLoadStep
  simp

@[simp] theorem State.tileStoreClean_canon {s : State} (h : s.Canon) (x : Flight) (o : Op) (bs : List (Nat × Byte × Nat)) :
    (s.tileStoreClean x o bs).Canon := by
  have hput (id : Nat) {t : State} (ht : t.Canon) : (bs.foldl (fun s b => s.homePut id b.1 b.2.1) t).Canon :=
    foldl_canon (fun _ _ hu => homePut_canon hu _ _ _) _ _ ht
  simp only [State.tileStoreClean]
  simp [h, hput]

@[simp] theorem State.tileStoreStep_canon {s : State} (h : s.Canon) (x : Flight) (o : Op) : (s.tileStoreStep x o).Canon := by
  simp only [State.tileStoreStep]
  (repeat' split) <;> simp [h]

@[simp] theorem State.gTrap_canon (s : State) (x : Flight) (o : Op) (t : TrapInfo) : (s.gTrap x o t).Canon ↔ s.Canon := by
  unfold State.gTrap
  (repeat' split) <;> simp

@[simp] theorem State.gFinish_canon (s : State) (x : Flight) (o : Op) : (s.gFinish x o).Canon ↔ s.Canon := by
  unfold State.gFinish
  (repeat' split) <;> simp

@[simp] theorem State.gCheck_canon (s : State) (f opn : Nat) : (s.gCheck f opn).Canon ↔ s.Canon := by
  unfold State.gCheck
  (repeat' split) <;> simp

@[simp] theorem State.gRead_canon {s : State} (h : s.Canon) (x : Flight) (o : Op) (row : Nat) : (s.gRead x o row).Canon := by
  unfold State.gRead
  split
  · exact h
  · split <;> simp [h]
  next va size tag _ =>
    have hr := resolveGlobal_canon h x .load size size true [(0, va)]
    dsimp only
    split
    · simp [h]
    next t ht => rw [ht] at hr; exact hr
    · exact h
    · split
      · split <;> simp [h]
      · exact h

@[simp] theorem State.reportZero_canon (s : State) (x : Flight) (o : Op) : (s.reportZero x o).Canon ↔ s.Canon := by
  unfold State.reportZero
  (repeat' split) <;> simp

@[simp] theorem State.landLanes_canon {s : State} (h : s.Canon) (x : Flight) (o : Op) : (s.landLanes x o).Canon := by
  simp only [State.landLanes]
  simp [h]

@[simp] theorem State.landTile_canon {s : State} (h : s.Canon) (x : Flight) (o : Op) : (s.landTile x o).Canon := by
  simp only [State.landTile]
  simp [h]

@[simp] theorem State.landResult_canon {s : State} (h : s.Canon) (x : Flight) (o : Op) : (s.landResult x o).Canon := by
  simp only [State.landResult]
  (repeat' split) <;> simp [h]

@[simp] theorem State.landShared_canon {s : State} (h : s.Canon) (x : Flight) (o : Op) : (s.landShared x o).Canon := by
  simp only [State.landShared]
  (repeat' split) <;> simp [h]

@[simp] theorem State.landFence_canon (s : State) (x : Flight) (o : Op) : (s.landFence x o).Canon ↔ s.Canon := by
  unfold State.landFence
  (repeat' split) <;> simp

@[simp] theorem State.landSem_canon {s : State} (h : s.Canon) (x : Flight) (o : Op) : (s.landSem x o).Canon := by
  simp only [State.landSem]
  (repeat' split) <;> simp [h]

@[simp] theorem State.landClean_canon {s : State} (h : s.Canon) (x : Flight) (o : Op) : (s.landClean x o).Canon := by
  have hclean (l : List Access) :
      (l.foldl (fun (s : State) (a : Access) => if a.space = .tier then s.cleanLine (lineOf a.pa) else s) s).Canon :=
    foldl_canon (fun _ _ ht => by split <;> simp [ht]) _ _ h
  simp only [State.landClean]
  (repeat' split) <;> simp [h, hclean]

@[simp] theorem State.landInval_canon {s : State} (h : s.Canon) (x : Flight) (o : Op) : (s.landInval x o).Canon := by
  simp only [State.landInval]
  split
  · exact h
  · refine (State.updFlight_canon ..).mpr (foldl_canon (fun t a ht => ?_) _ _ h)
    (repeat' split) <;> simp [ht]

@[simp] theorem State.dropMatches_canon (s : State) (d : Nat) (k : Shoot) : (s.dropMatches d k).Canon ↔ s.Canon := by
  unfold State.dropMatches
  simp

@[simp] theorem State.zApply_canon (s : State) (asid : Nat) (l : List (Nat × List DWord)) : (s.zApply asid l).Canon ↔ s.Canon := by
  unfold State.zApply
  simp

@[simp] theorem State.pick_canon (s : State) (n : Nat) (l : List Nat) : (s.pick n l).2.Canon ↔ s.Canon := by
  induction n generalizing s l with
  | zero => rfl
  | succ n ih =>
    simp only [State.pick]
    split <;> simp [ih]

@[simp] theorem State.bindClusters_canon (s : State) (r : List DWord) (l : List (Nat × Nat)) : (s.bindClusters r l).2.Canon ↔ s.Canon := by
  induction l generalizing s with
  | nil => rfl
  | cons x l ih => simp [State.bindClusters, ih]

@[simp] theorem State.admitHead_canon {s : State} (h : s.Canon) (hd : Head) : (s.admitHead hd).Canon := by
  simp [State.admitHead, h]

@[simp] theorem State.evtAdd_canon (s : State) (n : Nat) : (s.evtAdd n).Canon ↔ s.Canon := by
  unfold State.evtAdd
  simp

@[simp] theorem State.retireZ_canon (s : State) (l : Launch) : (s.retireZ l).Canon ↔ s.Canon := by
  unfold State.retireZ
  simp

@[simp] theorem State.launchGone_canon (s : State) (l : Launch) : (s.launchGone l).Canon ↔ s.Canon := by
  unfold State.launchGone
  simp

@[simp] theorem State.passClocks_canon (s : State) (n : Nat) : (s.passClocks n).Canon ↔ s.Canon := by
  unfold State.passClocks
  (repeat' split) <;> simp

@[simp] theorem State.refill_canon (s : State) (d n k : Nat) : (s.refill d n k).Canon ↔ s.Canon := by
  unfold State.refill
  (repeat' split) <;> simp

@[simp] theorem State.leaveCore_canon {s : State} (h : s.Canon) (f : Flight) : (s.leaveCore f).Canon :=
  updWg_canon (fun _ => rfl) ((setFlight_canon ..).mpr h)

@[simp] theorem State.ringEntry_canon (s : State) (w : Workgroup) (off : Nat) : (s.ringEntry w off).2.Canon ↔ s.Canon := by
  unfold State.ringEntry
  split <;> simp

theorem State.takeFrom_canon {s : State} (h : s.Canon) (core : Nat) {w : Workgroup} (hw : Memory.wf w.mem) : (s.takeFrom core w).Canon := by
  simp only [State.takeFrom, canon_mk, canonParts_state]
  refine updWg_putErrs_canon (locPut_canon (setWg_canon ?_ ?_) _ _ _ _ _) _ _
  · simp [h]
  · exact hw

@[simp] theorem State.startCmd_canon (s : State) (c : Cmd) (frames : NMap Nat) : (s.startCmd c frames).Canon ↔ s.Canon := by
  unfold State.startCmd
  (repeat' split) <;> simp

@[simp] theorem State.disown_canon (s : State) (c line : Nat) : (s.disown c line).Canon ↔ s.Canon := by
  unfold State.disown
  (repeat' split) <;> simp

@[simp] theorem State.engineSpend_canon (s : State) (c : Cmd) (a : Access) : (s.engineSpend c a).Canon ↔ s.Canon := by
  unfold State.engineSpend
  (repeat' split) <;> simp

@[simp] theorem State.sectorSpend_canon (s : State) (c : Cmd) (sec : Nat) (a : Access) : (s.sectorSpend c sec a).Canon ↔ s.Canon := by
  unfold State.sectorSpend
  (repeat' split) <;> simp

@[simp] theorem State.updCmd_canon (s : State) (c : Nat) (g : Cmd → Cmd) : (s.updCmd c g).Canon ↔ s.Canon := by
  unfold State.updCmd
  (repeat' split) <;> simp

@[simp] theorem State.engineDrop_canon (s : State) (c : Cmd) (a : Nat) : (s.engineDrop c a).Canon ↔ s.Canon := by
  unfold State.engineDrop
  simp

@[simp] theorem State.setChunk_canon {s : State} (h : s.Canon) (c : Cmd) (i : Nat) : (s.setChunk c i).Canon := by
  simp only [State.setChunk]
  refine (State.updCmd_canon ..).mpr ?_
  split
  · simp [h]
  · refine foldl_canon (fun t d ht => ?_) _ _ (by simp [h])
    (repeat' split) <;> simp [ht]

@[simp] theorem State.srcFault_canon {s : State} (h : s.Canon) (c : Cmd) (cause va : Nat) : (s.srcFault c cause va).Canon := by
  have hchunks (l : List Nat) : (l.foldl (fun s i => s.setChunk c i) s).Canon := foldl_canon (fun _ _ ht => setChunk_canon ht _ _) _ _ h
  simp only [State.srcFault]
  split <;> simp [hchunks]

@[simp] theorem State.viewSector_canon (s : State) (c : Cmd) (sec asid n : Nat) : (s.viewSector c sec asid n).Canon ↔ s.Canon := by
  unfold State.viewSector
  simp

@[simp] theorem State.homeSector_canon (s : State) (c : Cmd) (sec pa : Nat) : (s.homeSector c sec pa).Canon ↔ s.Canon := by
  unfold State.homeSector
  (repeat' split) <;> simp

@[simp] theorem State.physSector_canon {s : State} (h : s.Canon) (c : Cmd) (sec pa va : Nat) : (s.physSector c sec pa va).Canon := by
  simp only [State.physSector]
  (repeat' split) <;> simp [h]

@[simp] theorem State.engineWrite_canon {s : State} (h : s.Canon) (line : Nat) (bs : List (Nat × Byte)) : (s.engineWrite line bs).Canon := by
  have hput (id : Nat) {t : State} (ht : t.Canon) : (bs.foldl (fun s b => s.homePut id b.1 b.2) t).Canon :=
    foldl_canon (fun _ _ hu => homePut_canon hu _ _ _) _ _ ht
  simp only [State.engineWrite]
  simp [h, hput]

@[simp] theorem State.writeGlobal_canon {s : State} (h : s.Canon) (c : Cmd) (line : Nat) : (s.writeGlobal c line).Canon := by
  simp only [State.writeGlobal]
  (repeat' split) <;> simp [h]

@[simp] theorem State.writeLocal_canon {s : State} (h : s.Canon) (c : Cmd) (line : Nat) : (s.writeLocal c line).Canon := by
  have hput (w : Workgroup) (id : Nat) (l : List (Nat × List Byte)) {t : State} (ht : t.Canon) :
      (l.foldl (fun s r => s.localWrite w r.1 r.2 id false) t).Canon :=
    foldl_canon (fun _ _ hu => localWrite_canon hu _ _ _ _ _) _ _ ht
  simp only [State.writeLocal]
  (repeat' split) <;> simp [h, hput]

@[simp] theorem State.sums_canon (s : State) (c : Cmd) : (s.sums c).2.Canon ↔ s.Canon := by
  simp only [State.sums]
  split <;> simp

@[simp] theorem State.endCmd_canon {s : State} (h : s.Canon) (c : Cmd) : (s.endCmd c).Canon := by
  simp only [State.endCmd, canon_mk, canonParts_state]
  apply foldl_canon
  · exact fun _ _ ht => semStep_canon ht _ _ _
  apply foldl_canon
  · exact fun _ _ ht => foldl_canon (fun _ _ hu => (dropL1_canon ..).mpr hu) _ _ ht
  apply updWg_putErrs_canon
  apply locPut_canon
  apply updWg_canon
  · exact fun _ => rfl
  apply updWg_canon
  · exact fun _ => rfl
  apply locPut_canon
  exact (sums_canon s c).mpr h

@[simp] theorem State.defaultAct_canon {s : State} (h : s.Canon) (f : Flight) (frame : List DWord) : (s.defaultAct f frame).Canon := by
  simp only [State.defaultAct]
  (repeat' split) <;> simp [h]

@[simp] theorem State.answered_canon (s : State) (st : Nat) (bytes : List Byte) : (s.answered st bytes).Canon ↔ s.Canon := by
  unfold State.answered
  simp

@[simp] theorem State.outerLines_canon (w k pa : Nat) (bytes : List Byte) {s : State} (h : s.Canon) : (State.outerLines w k pa bytes s).Canon := by
  induction k generalizing pa bytes s with
  | zero => exact h
  | succ k ih => exact ih _ _ (by simp [h])

@[simp] theorem State.outerWrite_canon {s : State} (h : s.Canon) (k pa : Nat) (bytes : List Byte) : (s.outerWrite k pa bytes).Canon :=
  outerLines_canon _ _ _ _ h

theorem State.hostApply_canon {s t : State} (h : s.Canon) {w : HostWr} (ht : s.hostApply w = some t) : t.Canon := by
  unfold State.hostApply at ht
  split at ht
  · cases ht; simp [h]
  · split at ht
    · cases ht; simp [h]
    · cases ht

@[simp] theorem hostDrain_canon {s : State} (h : s.Canon) (kept l : List HostWr) : (hostDrain s kept l).1.Canon := by
  induction l generalizing s kept with
  | nil => exact h
  | cons w r ih =>
    unfold hostDrain
    split
    · exact ih h _
    · split
      next t ht => exact ih (State.hostApply_canon h ht) _
      next => exact ih h _

@[simp] theorem State.applyPosted_canon {s : State} (h : s.Canon) : s.applyPosted.Canon :=
  hostDrain_canon h _ _

@[simp] theorem State.wakeAsk_canon (s : State) : (s.wakeAsk).Canon ↔ s.Canon := by
  unfold State.wakeAsk
  (repeat' split) <;> simp

@[simp] theorem State.dropDie_canon (s : State) (d : Nat) : (s.dropDie d).Canon ↔ s.Canon := by
  unfold State.dropDie
  simp

@[simp] theorem State.endDie_canon {s : State} (h : s.Canon) (d : Nat) : (s.endDie d).Canon :=
  filterWgs_canon h _

end Sys2Proof.Machine
end

section
/-! SUPPORT. What every step keeps: the events, and every step. -/

namespace Sys2Proof.Machine

open Sys2Proof

variable {α : Type}

/-! ### The remaining state functions -/

theorem State.placeOne_canon {s t : State} (h : s.Canon) {l : Launch} {stage core : Nat} (ht : s.placeOne l stage core = some t) : t.Canon := by
  unfold State.placeOne at ht
  split at ht
  · cases ht
  · cases ht
    refine ⟨h.bytes, fun w hw => ?_, h.bad, h.dbg⟩
    rcases List.mem_append.mp hw with hw | hw
    · exact h.wgs w hw
    · cases List.mem_singleton.mp hw
      exact mwf_nil blankByte

theorem State.placeAll_canon {l : Launch} (ps : List (Nat × Nat)) {s t : State} (h : s.Canon) (ht : s.placeAll l ps = some t) : t.Canon := by
  induction ps generalizing s with
  | nil => cases ht; exact h
  | cons p r ih =>
    obtain ⟨u, hu, hr⟩ := Option.bind_eq_some_iff.mp ht
    exact ih (placeOne_canon h hu) hr

theorem State.edgeDeliver_canon {s t : State} (h : s.Canon) {w : Wr} (ht : s.edgeDeliver w = some t) : t.Canon := by
  obtain ⟨u, hu, hr⟩ := Option.bind_eq_some_iff.mp ht
  have hu : u.Canon := by
    split at hu
    · rw [Option.ite_none_left_eq_some] at hu
      exact Option.some.inj hu.2 ▸ (fillLine_canon s _).mpr h
    · exact Option.some.inj hu ▸ h
  split at hr
  · cases hr
  · split at hr <;> exact Option.some.inj hr ▸ by simp [hu]

theorem State.edgeDeliverAll_canon (ws : List Wr) {s t : State} (h : s.Canon) (ht : s.edgeDeliverAll ws = some t) : t.Canon := by
  induction ws generalizing s with
  | nil => cases ht; exact h
  | cons w r ih =>
    obtain ⟨u, hu, hr⟩ := Option.bind_eq_some_iff.mp ht
    exact ih (edgeDeliver_canon h hu) hr

theorem State.edgeAct_canon {s t : State} (h : s.Canon) {l : Launch} {i : Nat} {w0 : DWord} {ws : List DWord}
    (ht : s.edgeAct l i w0 ws = some t) : t.Canon := by
  simp only [State.edgeAct] at ht
  split at ht
  · cases ht
  · obtain ⟨u, hu, rfl⟩ := Option.map_eq_some_iff.mp ht
    have := edgeDeliverAll_canon _ h hu
    simp [this]

theorem State.edgeStep_canon {s t : State} (h : s.Canon) {l : Launch} {i : Nat} (ht : s.edgeStep l i = some t) : t.Canon := by
  simp only [State.edgeStep] at ht
  split at ht
  · cases ht
  · split at ht
    · cases ht; simp [h]
    · split at ht
      · cases ht; simp [h]
      · exact edgeAct_canon h ht

theorem foldl_bind_canon {g : State → α → Option State} (hg : ∀ u p v, u.Canon → g u p = some v → v.Canon) (l : List α)
    {acc : Option State} (ha : ∀ u, acc = some u → u.Canon) {t : State} (ht : l.foldl (fun a p => a.bind fun u => g u p) acc = some t) :
    t.Canon := by
  induction l generalizing acc with
  | nil => exact ha t ht
  | cons p r ih =>
    refine ih (fun u hu => ?_) ht
    obtain ⟨w, hw, hr⟩ := Option.bind_eq_some_iff.mp hu
    exact hg w p u (ha w hw) hr

theorem State.saveFlight_canon {s t : State} (h : s.Canon) {f : Flight} (ht : s.saveFlight f = some t) : t.Canon := by
  refine foldl_bind_canon (fun u p v hu hv => ?_) _ (fun u hu => ?_) ht
  · obtain ⟨pa, -, rfl⟩ := Option.map_eq_some_iff.mp hv
    simp [hu]
  · cases hu
    exact h

@[simp] theorem State.passes_canon (n : Nat) (s : State) : (State.passes n s).Canon ↔ s.Canon := by
  induction n generalizing s with
  | zero => rfl
  | succ n ih =>
    unfold State.passes
    split <;> simp [ih]

@[simp] theorem State.engineXl_canon (s : State) (c : Cmd) (need : Need) (va : Nat) : (s.engineXl c need va).2.Canon ↔ s.Canon := by
  simp only [State.engineXl]
  (repeat' split) <;> simp

@[simp] theorem State.xlDest_canon (s : State) (c : Cmd) (l : List (Nat × Nat)) (m : NMap Nat) : (s.xlDest c l m).2.Canon ↔ s.Canon := by
  induction l generalizing s m with
  | nil => rfl
  | cons p rest ih =>
    have hx (t : State) (r : EngineXl) (hr : s.engineXl c .wr p.1 = (r, t)) : t.Canon ↔ s.Canon := by
      rw [← State.engineXl_canon s c .wr p.1, hr]
    unfold State.xlDest
    split
    · exact ih _ _
    · split
      · split
        · rfl
        · exact ih _ _
      · split
        next hr => exact (ih _ _).trans (hx _ _ hr)
        next hr => exact hx _ _ hr
        next hr => exact hx _ _ hr

/-! ### The events -/

theorem execWalkComplete_canon {s : State} (h : s.Canon) (die asid frame : Nat) : NextCanon (execWalkComplete die asid frame s) := by
  simp only [execWalkComplete]
  (repeat' split) <;> simp [h]

theorem execClauseHeaderIssue_canon {s : State} (h : s.Canon) : NextCanon (execClauseHeaderIssue s) := by
  simp only [execClauseHeaderIssue]
  (repeat' split) <;> simp [h]

theorem descUndefined_keeps (cls : Nat) (w0 : Word) : (descUndefined cls w0).Keeps where
  eff h := h
  pre _ := trivial
  room _ := trivial

theorem execUndefinedInstruction_canon {s : State} (h : s.Canon) (cls : BitVec 3) (w0 w1 : BitVec 32) :
    NextCanon (execUndefinedInstruction cls w0 w1 s) := by
  unfold execUndefinedInstruction
  split
  · split
    · trivial
    · split <;> simp [h]
  · exact issue_canon (descUndefined_keeps _ _) h

theorem execResidualEntryRun_canon {s : State} (h : s.Canon) (f i : Nat) : NextCanon (execResidualEntryRun f i s) := by
  unfold execResidualEntryRun
  split
  · exact h
  · split
    · exact h
    · split
      · exact h
      · split
        · exact h
        next x _ _ e _ _ d hd =>
          obtain ⟨j, -, hj⟩ := Option.bind_eq_some_iff.mp hd
          have hk : d.Keeps := by have hk := descOf_keeps { s with cur := f } j; rw [hj] at hk; exact hk
          dsimp only
          generalize hs : ({ s with cur := f } : State) = t
          have ht : t.Canon := by rw [← hs]; exact h
          have hv (c : Ctx) (afb : Nat) : ((lateChecks d c t afb).andThen fun _ => entryPair d c e t).Canon :=
            Verdict.andThen_canon (lateChecks_canon hk c ht afb) (entryPair_canon d c e ht)
          split
          · simp [ht]
          · split
            · simp [ht]
            next u hu => exact (hu ▸ hv _ _ : (Verdict.hold u).Canon)
            · split
              · simp [ht]
              next u hu =>
                split at hu
                · cases hu
                · exact (hu ▸ hk.room ht : (Verdict.hold u).Canon)
              · simp [hk, ht]

theorem execResidualCapacityTrap_canon {s : State} (h : s.Canon) (f : Nat) : NextCanon (execResidualCapacityTrap f s) := by
  simp only [execResidualCapacityTrap]
  (repeat' split) <;> simp [h]

theorem execBlockDecodeDone_canon {s : State} (h : s.Canon) (asid zr blk : Nat) : NextCanon (execBlockDecodeDone asid zr blk s) := by
  simp only [execBlockDecodeDone]
  (repeat' split) <;> simp [h]

theorem execBlockEvictChosen_canon {s : State} (h : s.Canon) (asid zr blk : Nat) : NextCanon (execBlockEvictChosen asid zr blk s) := by
  simp only [execBlockEvictChosen]
  (repeat' split) <;> simp [h]

theorem execEncode_canon {s : State} (h : s.Canon) (asid zr blk : Nat) : NextCanon (execEncode asid zr blk s) := by
  simp only [execEncode]
  (repeat' split) <;> simp [h]

theorem execZrRetireDone_canon {s : State} (h : s.Canon) (asid n : Nat) : NextCanon (execZrRetireDone asid n s) := by
  simp only [execZrRetireDone]
  (repeat' split) <;> simp [h]

theorem execReportWrite_canon {s : State} (h : s.Canon) : NextCanon (execReportWrite s) := by
  simp only [execReportWrite]
  (repeat' split) <;> simp [h]

theorem execArsCommitSwitch_canon {s : State} (h : s.Canon) : NextCanon (execArsCommitSwitch s) := by
  have hmove (l : List L2Line) : (l.foldl State.moveLine s).Canon := foldl_canon (fun _ _ ht => State.moveLine_canon ht _) _ _ h
  simp only [execArsCommitSwitch]
  (repeat' split) <;> simp [h, hmove]

theorem execFlcfgChangeDone_canon {s : State} (h : s.Canon) (d : Nat) : NextCanon (execFlcfgChangeDone d s) := by
  simp only [execFlcfgChangeDone]
  (repeat' split) <;> simp [h]

theorem execSecurityStateAdvance_canon {s : State} (h : s.Canon) : NextCanon (execSecurityStateAdvance s) := by
  simp only [execSecurityStateAdvance]
  (repeat' split) <;> simp [h]

theorem execModuleReset_canon {s : State} (h : s.Canon) : NextCanon (execModuleReset s) := by
  simp only [execModuleReset]
  (repeat' split) <;> simp [h]

theorem execRegisterWrite_canon {s : State} (h : s.Canon) (off half : Nat) (v : BitVec 64) : NextCanon (execRegisterWrite off half v s) := by
  simp only [execRegisterWrite]
  simp [h]

theorem execArsWrite_canon {s : State} (h : s.Canon) (n w : Nat) (v : BitVec 64) : NextCanon (execArsWrite n w v s) := by
  simp only [execArsWrite]
  simp [h]

theorem execArsCommit_canon {s : State} (h : s.Canon) (v : BitVec 64) : NextCanon (execArsCommit v s) := by
  simp only [execArsCommit]
  simp [h]

theorem execZrValidate_canon {s : State} (h : s.Canon) (asid n : Nat) (v : BitVec 64) : NextCanon (execZrValidate asid n v s) := by
  simp only [execZrValidate]
  simp [h]

theorem execZrRetire_canon {s : State} (h : s.Canon) (asid n : Nat) (v : BitVec 64) : NextCanon (execZrRetire asid n v s) := by
  simp only [execZrRetire]
  simp [h]

theorem execTlbiVaRange_canon {s : State} (h : s.Canon) (v : BitVec 64) : NextCanon (execTlbiVaRange v s) := by
  simp only [execTlbiVaRange]
  simp [h]

theorem execTlbiAsid_canon {s : State} (h : s.Canon) (v : BitVec 64) : NextCanon (execTlbiAsid v s) := by
  simp only [execTlbiAsid]
  simp [h]

theorem execTlbiAll_canon {s : State} (h : s.Canon) (v : BitVec 64) : NextCanon (execTlbiAll v s) := by
  simp only [execTlbiAll]
  simp [h]

theorem execTlbiPaRange_canon {s : State} (h : s.Canon) (v : BitVec 64) : NextCanon (execTlbiPaRange v s) := by
  simp only [execTlbiPaRange]
  simp [h]

theorem execTlbiaddrWrite_canon {s : State} (h : s.Canon) (v : BitVec 64) : NextCanon (execTlbiaddrWrite v s) := by
  simp only [execTlbiaddrWrite]
  simp [h]

theorem execFrmapWrite_canon {s : State} (h : s.Canon) (n : Nat) (v : BitVec 64) : NextCanon (execFrmapWrite n v s) := by
  simp only [execFrmapWrite]
  simp [h]

theorem execFlcfgWrite_canon {s : State} (h : s.Canon) (d : Nat) (v : BitVec 64) : NextCanon (execFlcfgWrite d v s) := by
  simp only [execFlcfgWrite]
  simp [h]

theorem execTbcfgWrite_canon {s : State} (h : s.Canon) (d n : Nat) (v : BitVec 64) : NextCanon (execTbcfgWrite d n v s) := by
  simp only [execTbcfgWrite]
  simp [h]

theorem execQcfgWrite_canon {s : State} (h : s.Canon) (q : Nat) (v : BitVec 64) : NextCanon (execQcfgWrite q v s) := by
  simp only [execQcfgWrite]
  simp [h]

theorem execQtailWrite_canon {s : State} (h : s.Canon) (q : Nat) (tail : BitVec 32) : NextCanon (execQtailWrite q tail s) := by
  simp only [execQtailWrite]
  simp [h]

theorem execQownWrite_canon {s : State} (h : s.Canon) (q : Nat) (v : BitVec 64) : NextCanon (execQownWrite q v s) := by
  simp only [execQownWrite]
  simp [h]

theorem execHdropWrite_canon {s : State} (h : s.Canon) (q : Nat) : NextCanon (execHdropWrite q s) := by
  simp only [execHdropWrite]
  simp [h]

theorem execTbparkWrite_canon {s : State} (h : s.Canon) (d k n : Nat) : NextCanon (execTbparkWrite d k n s) := by
  simp only [execTbparkWrite]
  simp [h]

theorem execRepcfgWrite_canon {s : State} (h : s.Canon) (v : BitVec 64) : NextCanon (execRepcfgWrite v s) := by
  simp only [execRepcfgWrite]
  simp [h]

theorem execPwrctlSleep_canon {s : State} (h : s.Canon) : NextCanon (execPwrctlSleep s) := by
  simp only [execPwrctlSleep]
  simp [h]

theorem execPwrctlPark_canon {s : State} (h : s.Canon) (v : BitVec 64) : NextCanon (execPwrctlPark v s) := by
  simp only [execPwrctlPark]
  simp [h]

theorem execRecoveryGo_canon {s : State} (h : s.Canon) : NextCanon (execRecoveryGo s) := by
  simp only [execRecoveryGo]
  simp [h]

theorem execMgmtargWrite_canon {s : State} (h : s.Canon) (k : Nat) (v : BitVec 64) : NextCanon (execMgmtargWrite k v s) := by
  simp only [execMgmtargWrite]
  simp [h]

theorem execRetire_canon {s : State} (h : s.Canon) : NextCanon (execRetire s) := by
  simp only [execRetire]
  (repeat' split) <;> simp [h]

theorem execMigrate_canon {s : State} (h : s.Canon) : NextCanon (execMigrate s) := by
  simp only [execMigrate]
  (repeat' split) <;> simp [h]

theorem execMigrateHoldClear_canon {s : State} (h : s.Canon) (n : Nat) : NextCanon (execMigrateHoldClear n s) := by
  simp only [execMigrateHoldClear]
  (repeat' split) <;> simp [h]

theorem execClearbad_canon {s : State} (h : s.Canon) : NextCanon (execClearbad s) := by
  simp only [execClearbad]
  simp [h]

theorem execAttest_canon {s : State} (h : s.Canon) : NextCanon (execAttest s) := by
  simp only [execAttest]
  simp [h]

theorem execDebugtoken_canon {s : State} (h : s.Canon) : NextCanon (execDebugtoken s) := by
  simp only [execDebugtoken]
  simp [h]

theorem execReadbad_canon {s : State} (h : s.Canon) : NextCanon (execReadbad s) := by
  simp only [execReadbad]
  simp [h]

theorem execMgmtUnknownCommand_canon {s : State} (h : s.Canon) (op : BitVec 8) : NextCanon (execMgmtUnknownCommand op s) := by
  simp only [execMgmtUnknownCommand]
  simp [h]

theorem execPowerLoss_canon {s : State} (h : s.Canon) (torn : Bool) : NextCanon (execPowerLoss torn s) := by
  obtain ⟨hb, -, hbad, hdbg⟩ := State.afterReset_canon ((State.free_canon s).mpr h)
  have hlen (w : DWord) (hn : s.dev.badList.length < 4096) : (s.dev.badList ++ [w]).length ≤ 4096 := by
    simp only [List.length_append, List.length_singleton]; omega
  refine ⟨mwf_filter _ _ _ hb, fun _ hw => (nomatch hw), ?_, hdbg⟩
  simp only []
  split
  · split
    next hn => exact hlen _ hn.2
    next => simpa using h.bad
  · simpa using h.bad

theorem execLinkUp_canon {s : State} (h : s.Canon) (port : Nat) : NextCanon (execLinkUp port s) := by
  simp only [execLinkUp]
  simp [h]

theorem execFrameSuspectReport_canon {s : State} (h : s.Canon) (frame : Nat) : NextCanon (execFrameSuspectReport frame s) := by
  simp only [execFrameSuspectReport]
  (repeat' split) <;> simp [h]

theorem execPatrolScrubRead_canon {s : State} (h : s.Canon) (sector : Nat) (found : EccFinding) : NextCanon (execPatrolScrubRead sector found s) := by
  simp only [execPatrolScrubRead]
  (repeat' split) <;> simp [h]

theorem execPerformWrite_canon {s : State} (h : s.Canon) (f op lane : Nat) : NextCanon (execPerformWrite f op lane s) := by
  simp only [execPerformWrite]
  (repeat' split) <;> simp [h]

theorem execDrain_canon {s : State} (h : s.Canon) (f w : Nat) : NextCanon (execDrain f w s) := by
  simp only [execDrain]
  (repeat' split) <;> simp [h]

theorem execDeliver_canon {s : State} (h : s.Canon) (d w : Nat) : NextCanon (execDeliver d w s) := by
  simp only [execDeliver]
  (repeat' split) <;> simp [h]

theorem execAtomicStep_canon {s : State} (h : s.Canon) (f op lane : Nat) : NextCanon (execAtomicStep f op lane s) := by
  simp only [execAtomicStep]
  (repeat' split) <;> simp [h]

theorem execBlockViewAccess_canon {s : State} (h : s.Canon) (f op lane : Nat) : NextCanon (execBlockViewAccess f op lane s) := by
  simp only [execBlockViewAccess]
  (repeat' split) <;> simp [h]

theorem execEvict_canon {s : State} (h : s.Canon) (far : Bool) (unit line : Nat) : NextCanon (execEvict far unit line s) := by
  simp only [execEvict]
  (repeat' split) <;> simp [h]

theorem execL2Evict_canon {s : State} (h : s.Canon) (line : Nat) : NextCanon (execL2Evict line s) := by
  simp only [execL2Evict]
  (repeat' split) <;> simp [h]

theorem execL2FillArrive_canon {s : State} (h : s.Canon) (line : Nat) : NextCanon (execL2FillArrive line s) := by
  simp only [execL2FillArrive]
  split
  · split
    · exact h
    · refine foldl_canon (fun _ _ ht => State.serveFill_canon ht _) _ _ ?_
      split <;> simp [h]
  · exact h

theorem execPeerProbe_canon {s : State} (h : s.Canon) (f op lane : Nat) : NextCanon (execPeerProbe f op lane s) := by
  simp only [execPeerProbe]
  (repeat' split) <;> simp [h]

theorem execTileStep_canon {s : State} (h : s.Canon) (f op : Nat) : NextCanon (execTileStep f op s) := by
  simp only [execTileStep]
  (repeat' split) <;> simp [h]

theorem execPerformRead_canon {s : State} (h : s.Canon) (f op lane : Nat) : NextCanon (execPerformRead f op lane s) := by
  simp only [execPerformRead]
  (repeat' split) <;> simp [h]

theorem execResultLand_canon {s : State} (h : s.Canon) (f op : Nat) : NextCanon (execResultLand f op s) := by
  simp only [execResultLand]
  (repeat' split) <;> simp [h]

theorem execMmaReadback_canon {s : State} (h : s.Canon) (f op : Nat) : NextCanon (execMmaReadback f op s) := by
  simp only [execMmaReadback]
  (repeat' split) <;> simp [h]

theorem execTlbiDieAck_canon {s : State} (h : s.Canon) (d : Nat) : NextCanon (execTlbiDieAck d s) := by
  simp only [execTlbiDieAck]
  simp [h]

theorem execQueueTake_canon {s : State} (h : s.Canon) (q : Nat) : NextCanon (execQueueTake q s) := by
  simp only [execQueueTake]
  (repeat' split) <;> simp [h]

theorem execLnchRecordCopy_canon {s : State} (h : s.Canon) (f op : Nat) : NextCanon (execLnchRecordCopy f op s) := by
  simp only [execLnchRecordCopy]
  (repeat' split) <;> simp [h]

theorem execLaunchAdmit_canon {s : State} (h : s.Canon) (p : Nat) : NextCanon (execLaunchAdmit p s) := by
  unfold execLaunchAdmit
  split
  · exact h
  · dsimp only
    split
    · exact h
    · split
      · exact (State.queueErr_canon ..).mpr h
      · simp only [nextCanon_next]
        exact State.admitHead_canon (by exact h) _

theorem execWorkgroupPlace_canon {s : State} (h : s.Canon) (l : Nat) (cores : List Nat) : NextCanon (execWorkgroupPlace l cores s) := by
  simp only [execWorkgroupPlace]
  split
  · exact h
  · split
    · exact h
    · split
      next t ht => simp [h, State.placeAll_canon _ h ht]
      next => exact h

theorem execWorkgroupRelease_canon {s : State} (h : s.Canon) (w : Nat) : NextCanon (execWorkgroupRelease w s) := by
  simp only [execWorkgroupRelease]
  (repeat' split) <;> simp [h, filterWgs_canon]

theorem execLaunchComplete_canon {s : State} (h : s.Canon) (l : Nat) : NextCanon (execLaunchComplete l s) := by
  simp only [execLaunchComplete]
  split
  · exact h
  · split
    · split <;> simp [h]
    · split <;> simp [h]
    · split
      · split
        next t ht => simp [State.edgeStep_canon h ht]
        next => exact h
      · simp [h]
    · split <;> simp [h]

theorem execFlightSwapIn_canon {s : State} (h : s.Canon) (core part : Nat) : NextCanon (execFlightSwapIn core part s) := by
  simp only [execFlightSwapIn]
  (repeat' split) <;> simp [h]

theorem execFlightSwapOutTimeout_canon {s : State} (h : s.Canon) (f : Nat) : NextCanon (execFlightSwapOutTimeout f s) := by
  simp only [execFlightSwapOutTimeout]
  (repeat' split) <;> simp [h]

theorem execPendingAgeExpiry_canon {s : State} (h : s.Canon) (f : Nat) : NextCanon (execPendingAgeExpiry f s) := by
  simp only [execPendingAgeExpiry]
  (repeat' split) <;> simp [h]

theorem execMatrixArrayWake_canon {s : State} (h : s.Canon) (d : Nat) : NextCanon (execMatrixArrayWake d s) := by
  simp only [execMatrixArrayWake]
  (repeat' split) <;> simp [h]

theorem execMatrixArrayIdle_canon {s : State} (h : s.Canon) (core part : Nat) : NextCanon (execMatrixArrayIdle core part s) := by
  simp only [execMatrixArrayIdle]
  (repeat' split) <;> simp [h]

theorem execBucketRefill_canon {s : State} (h : s.Canon) : NextCanon (execBucketRefill s) := by
  simp only [execBucketRefill]
  (repeat' split) <;> simp [h]

theorem execEvictionDecision_canon {s : State} (h : s.Canon) (l core : Nat) : NextCanon (execEvictionDecision l core s) := by
  simp only [execEvictionDecision]
  (repeat' split) <;> simp [h]

theorem execFlightEvict_canon {s : State} (h : s.Canon) (f : Nat) : NextCanon (execFlightEvict f s) := by
  simp only [execFlightEvict]
  split
  · exact h
  · split
    · exact h
    · split
      · simp [h]
      next t ht =>
        have ht := foldl_bind_canon (fun _ _ _ hu hv => State.saveFlight_canon hu hv) _ (fun u hu => (Option.some.inj hu) ▸ h) ht
        exact foldl_canon (fun _ _ hu => State.leaveCore_canon hu _) _ _ ht

theorem execFlightReturn_canon {s : State} (h : s.Canon) (f core : Nat) : NextCanon (execFlightReturn f core s) := by
  simp only [execFlightReturn]
  (repeat' split) <;> simp [h]

theorem mem_insertBy {key : α → Nat} {a b : α} {l : List α} (h : b ∈ insertBy key a l) : b = a ∨ b ∈ l := by
  induction l with
  | nil => simpa [insertBy] using h
  | cons c r ih =>
    unfold insertBy at h
    split at h
    · simpa using h
    · rcases List.mem_cons.mp h with h | h
      · exact .inr (h ▸ List.mem_cons_self)
      · exact (ih h).imp_right (List.mem_cons_of_mem c)

theorem mem_of_mem_sortBy {key : α → Nat} {b : α} {l : List α} (h : b ∈ sortBy key l) : b ∈ l := by
  have hfold (l acc : List α) : b ∈ l.foldl (fun acc a => insertBy key a acc) acc → b ∈ acc ∨ b ∈ l := by
    induction l generalizing acc with
    | nil => exact .inl
    | cons c r ih =>
      intro hb
      rcases ih _ hb with hb | hb
      · rcases mem_insertBy hb with rfl | hb
        · exact .inr List.mem_cons_self
        · exact .inl hb
      · exact .inr (List.mem_cons_of_mem c hb)
  exact (hfold l [] h).resolve_left List.not_mem_nil

theorem execCopyTake_canon {s : State} (h : s.Canon) (core : Nat) : NextCanon (execCopyTake core s) := by
  simp only [execCopyTake]
  split
  · exact h
  · split
    next w hw =>
      have hm : w ∈ sortBy Workgroup.id (s.wgs.filter fun w => decide (w.core = core) && s.ringOpen w) := by
        rcases Option.or_eq_some_iff.mp hw with hw | ⟨-, hw⟩
        · exact List.mem_of_find?_eq_some hw
        · exact List.mem_of_head? hw
      exact State.takeFrom_canon h core (h.wgs w (List.mem_of_mem_filter (mem_of_mem_sortBy hm)))
    next => exact h

theorem execCopyBegin_canon {s : State} (h : s.Canon) (c : Nat) : NextCanon (execCopyBegin c s) := by
  simp only [execCopyBegin]
  split
  · exact h
  next x _ =>
    have hx (l : List (Nat × Nat)) (r : DestFrames × State) (hr : s.xlDest x l [] = r) : r.2.Canon := hr ▸ (State.xlDest_canon s x l []).mpr h
    (repeat' split) <;> simp [h]
    next hr => exact hx _ _ hr
    next hr => exact hx _ _ hr
    next hr _ => exact hx _ _ hr
    next hr _ => exact hx _ _ hr

theorem execOwn_canon {s : State} (h : s.Canon) (c line : Nat) : NextCanon (execOwn c line s) := by
  simp only [execOwn]
  (repeat' split) <;> simp [h]

theorem execReleaseLine_canon {s : State} (h : s.Canon) (c line : Nat) : NextCanon (execReleaseLine c line s) := by
  simp only [execReleaseLine]
  (repeat' split) <;> simp [h]

theorem execCopySourceRead_canon {s : State} (h : s.Canon) (c sector : Nat) : NextCanon (execCopySourceRead c sector s) := by
  simp only [execCopySourceRead]
  split
  · exact h
  next x _ =>
    have hx (va : Nat) (r : EngineXl × State) (hr : s.engineXl x .rd va = r) : r.2.Canon := hr ▸ (State.engineXl_canon s x .rd va).mpr h
    split
    · exact h
    · split
      · exact h
      · split
        · simp [h]
        · (repeat' split) <;> simp [h]
        · split
          · simp [h]
          · split
            · simp [h]
            · split
              next hr => exact hx _ _ hr
              next hr => simp [hx _ _ hr]
              next hr => exact State.physSector_canon (hx _ _ hr) ..

theorem execWriteLine_canon {s : State} (h : s.Canon) (c line : Nat) : NextCanon (execWriteLine c line s) := by
  simp only [execWriteLine]
  (repeat' split) <;> simp [h]

theorem execCopyChunkSet_canon {s : State} (h : s.Canon) (c i : Nat) : NextCanon (execCopyChunkSet c i s) := by
  simp only [execCopyChunkSet]
  (repeat' split) <;> simp [h]

theorem execCopyComplete_canon {s : State} (h : s.Canon) (c : Nat) : NextCanon (execCopyComplete c s) := by
  simp only [execCopyComplete]
  split
  · exact h
  next x _ =>
    have hchunks (l : List Nat) : (l.foldl (fun s i => s.setChunk x i) s).Canon := foldl_canon (fun _ _ ht => State.setChunk_canon ht _ _) _ _ h
    (repeat' split) <;> simp [h, hchunks]

theorem execKeySlotLoad_canon {s : State} (h : s.Canon) (slot tenant : Nat) (key : BitVec 256) : NextCanon (execKeySlotLoad slot tenant key s) := by
  simp only [execKeySlotLoad]
  (repeat' split) <;> simp [h]

theorem execHandlerRunStart_canon {s : State} (h : s.Canon) (f : Nat) : NextCanon (execHandlerRunStart f s) := by
  simp only [execHandlerRunStart]
  (repeat' split) <;> simp [h]

theorem execDefaultHandlerAction_canon {s : State} (h : s.Canon) (f : Nat) : NextCanon (execDefaultHandlerAction f s) := by
  simp only [execDefaultHandlerAction]
  (repeat' split) <;> simp [h]

theorem execPoisonRefusal_canon {s : State} (h : s.Canon) (f : Nat) : NextCanon (execPoisonRefusal f s) := by
  simp only [execPoisonRefusal]
  (repeat' split) <;> simp [h]

theorem execWatchdogExpiry_canon {s : State} (h : s.Canon) (f : Nat) : NextCanon (execWatchdogExpiry f s) := by
  simp only [execWatchdogExpiry]
  (repeat' split) <;> simp [h]

theorem execDebugStop_canon {s : State} (h : s.Canon) (f : Nat) : NextCanon (execDebugStop f s) := by
  simp only [execDebugStop]
  (repeat' split) <;> simp [h]

theorem execDebugStopComplete_canon {s : State} (h : s.Canon) (f : Nat) : NextCanon (execDebugStopComplete f s) := by
  simp only [execDebugStopComplete]
  (repeat' split) <;> simp [h]

theorem execDebugRead_canon {s : State} (h : s.Canon) (f : Nat) (sel : BitVec 64) : NextCanon (execDebugRead f sel s) := by
  simp only [execDebugRead]
  (repeat' split) <;> simp [h]

theorem execDebugWrite_canon {s : State} (h : s.Canon) (f : Nat) (sel v : BitVec 64) : NextCanon (execDebugWrite f sel v s) := by
  simp only [execDebugWrite]
  (repeat' split) <;> simp [h]

theorem execDebugResume_canon {s : State} (h : s.Canon) (f mode : Nat) (pc : BitVec 64) : NextCanon (execDebugResume f mode pc s) := by
  simp only [execDebugResume]
  (repeat' split) <;> simp [h]

theorem execDebugSetStep_canon {s : State} (h : s.Canon) (f : Nat) (on : Bool) : NextCanon (execDebugSetStep f on s) := by
  simp only [execDebugSetStep]
  (repeat' split) <;> simp [h]

theorem execHostRead_canon {s : State} (h : s.Canon) (fn barNo off n : Nat) : NextCanon (execHostRead fn barNo off n s) := by
  simp only [execHostRead]
  (repeat' split) <;> simp [h]

theorem execHostWrite_canon {s : State} (h : s.Canon) (fn barNo off : Nat) (bytes : List (BitVec 8)) :
    NextCanon (execHostWrite fn barNo off bytes s) := by
  simp only [execHostWrite]
  (repeat' split) <;> simp [h]

theorem execModuleWake_canon {s : State} (h : s.Canon) : NextCanon (execModuleWake s) := by
  simp only [execModuleWake]
  (repeat' split) <;> simp [h]

theorem execAtsInvalidation_canon {s : State} (h : s.Canon) (fn page count : Nat) : NextCanon (execAtsInvalidation fn page count s) := by
  simp only [execAtsInvalidation]
  (repeat' split) <;> simp [h]

theorem execAtsTranslationCompletion_canon {s : State} (h : s.Canon) (fn page hpa : Nat) :
    NextCanon (execAtsTranslationCompletion fn page hpa s) := by
  simp only [execAtsTranslationCompletion]
  (repeat' split) <;> simp [h]

theorem execFlitReceive_canon {s : State} (h : s.Canon) (port vc : Nat) (crcOk : Bool) : NextCanon (execFlitReceive port vc crcOk s) := by
  simp only [execFlitReceive]
  (repeat' split) <;> simp [h]

theorem execPeerAccess_canon {s : State} (h : s.Canon) (port : Nat) (kind : PeerKind) (pa : Nat) (bytes : List (BitVec 8)) :
    NextCanon (execPeerAccess port kind pa bytes s) := by
  cases kind <;> dsimp only [execPeerAccess] <;> (repeat' split) <;> simp [h]

theorem execLinkDown_canon {s : State} (h : s.Canon) (port : Nat) : NextCanon (execLinkDown port s) := by
  simp only [execLinkDown]
  split
  · exact h
  · refine foldl_canon (fun _ _ ht => by simp [ht]) _ _ (foldl_canon (fun _ _ ht => ?_) _ _ ?_)
    · (repeat' split) <;> simp [ht]
    · simp [h]

theorem execDieReset_canon {s : State} (h : s.Canon) (d : Nat) : NextCanon (execDieReset d s) := by
  simp only [execDieReset]
  (repeat' split) <;> simp [h]

theorem execDieLeavingReset_canon {s : State} (h : s.Canon) (d : Nat) : NextCanon (execDieLeavingReset d s) := by
  simp only [execDieLeavingReset]
  simp [h]

theorem execDiePark_canon {s : State} (h : s.Canon) (d : Nat) : NextCanon (execDiePark d s) := by
  simp only [execDiePark]
  (repeat' split) <;> simp [h]

theorem execDieUnpark_canon {s : State} (h : s.Canon) (d : Nat) : NextCanon (execDieUnpark d s) := by
  simp only [execDieUnpark]
  (repeat' split) <;> simp [h]

theorem execIdleEntry_canon {s : State} (h : s.Canon) : NextCanon (execIdleEntry s) := by
  simp only [execIdleEntry]
  (repeat' split) <;> simp [h]

theorem execTelemetrySample_canon {s : State} (h : s.Canon) (power : List Nat) : NextCanon (execTelemetrySample power s) := by
  simp only [execTelemetrySample]
  split
  · exact h
  · simp only [nextCanon_next, canon_mk, canonParts_state]
    refine foldl_canon (fun t _ ht => ?_) _ _ h
    exact State.ringPut_canon ht _ _ _

/-! ### Every step -/

theorem exec_canon {s : State} (h : s.Canon) (i : Instr) : NextCanon (exec i s) := by
  cases hd : descOf s i with
  | some d => exact exec_canon_of_descOf h hd
  | none =>
    cases i
    case moduleReset => exact execModuleReset_canon h ..
    case dieReset => exact execDieReset_canon h ..
    case patrolScrubRead => exact execPatrolScrubRead_canon h ..
    case frameSuspectReport => exact execFrameSuspectReport_canon h ..
    case arsWrite => exact execArsWrite_canon h ..
    case arsCommit => exact execArsCommit_canon h ..
    case arsCommitSwitch => exact execArsCommitSwitch_canon h ..
    case retire => exact execRetire_canon h ..
    case migrate => exact execMigrate_canon h ..
    case migrateHoldClear => exact execMigrateHoldClear_canon h ..
    case clearbad => exact execClearbad_canon h ..
    case attest => exact execAttest_canon h ..
    case debugtoken => exact execDebugtoken_canon h ..
    case readbad => exact execReadbad_canon h ..
    case mgmtUnknownCommand => exact execMgmtUnknownCommand_canon h ..
    case mgmtargWrite => exact execMgmtargWrite_canon h ..
    case zrValidate => exact execZrValidate_canon h ..
    case zrRetire => exact execZrRetire_canon h ..
    case zrRetireDone => exact execZrRetireDone_canon h ..
    case blockViewAccess => exact execBlockViewAccess_canon h ..
    case blockDecodeDone => exact execBlockDecodeDone_canon h ..
    case blockEvictChosen => exact execBlockEvictChosen_canon h ..
    case encode => exact execEncode_canon h ..
    case performRead => exact execPerformRead_canon h ..
    case performWrite => exact execPerformWrite_canon h ..
    case drain => exact execDrain_canon h ..
    case deliver => exact execDeliver_canon h ..
    case evict => exact execEvict_canon h ..
    case l2Evict => exact execL2Evict_canon h ..
    case l2FillArrive => exact execL2FillArrive_canon h ..
    case atomicStep => exact execAtomicStep_canon h ..
    case tileStep => exact execTileStep_canon h ..
    case own => exact execOwn_canon h ..
    case writeLine => exact execWriteLine_canon h ..
    case releaseLine => exact execReleaseLine_canon h ..
    case peerProbe => exact execPeerProbe_canon h ..
    case walkComplete => exact execWalkComplete_canon h ..
    case tlbiVaRange => exact execTlbiVaRange_canon h ..
    case tlbiAsid => exact execTlbiAsid_canon h ..
    case tlbiAll => exact execTlbiAll_canon h ..
    case tlbiPaRange => exact execTlbiPaRange_canon h ..
    case tlbiaddrWrite => exact execTlbiaddrWrite_canon h ..
    case tlbiDieAck => exact execTlbiDieAck_canon h ..
    case frmapWrite => exact execFrmapWrite_canon h ..
    case flcfgWrite => exact execFlcfgWrite_canon h ..
    case flcfgChangeDone => exact execFlcfgChangeDone_canon h ..
    case tbcfgWrite => exact execTbcfgWrite_canon h ..
    case bucketRefill => exact execBucketRefill_canon h ..
    case copyTake => exact execCopyTake_canon h ..
    case copyBegin => exact execCopyBegin_canon h ..
    case copySourceRead => exact execCopySourceRead_canon h ..
    case copyChunkSet => exact execCopyChunkSet_canon h ..
    case copyComplete => exact execCopyComplete_canon h ..
    case workgroupRelease => exact execWorkgroupRelease_canon h ..
    case resultLand => exact execResultLand_canon h ..
    case residualEntryRun => exact execResidualEntryRun_canon h ..
    case residualCapacityTrap => exact execResidualCapacityTrap_canon h ..
    case mmaReadback => exact execMmaReadback_canon h ..
    case matrixArrayWake => exact execMatrixArrayWake_canon h ..
    case matrixArrayIdle => exact execMatrixArrayIdle_canon h ..
    case clauseHeaderIssue => exact execClauseHeaderIssue_canon h ..
    case qcfgWrite => exact execQcfgWrite_canon h ..
    case qtailWrite => exact execQtailWrite_canon h ..
    case qownWrite => exact execQownWrite_canon h ..
    case queueTake => exact execQueueTake_canon h ..
    case launchAdmit => exact execLaunchAdmit_canon h ..
    case workgroupPlace => exact execWorkgroupPlace_canon h ..
    case launchComplete => exact execLaunchComplete_canon h ..
    case lnchRecordCopy => exact execLnchRecordCopy_canon h ..
    case flightSwapIn => exact execFlightSwapIn_canon h ..
    case flightSwapOutTimeout => exact execFlightSwapOutTimeout_canon h ..
    case pendingAgeExpiry => exact execPendingAgeExpiry_canon h ..
    case evictionDecision => exact execEvictionDecision_canon h ..
    case flightEvict => exact execFlightEvict_canon h ..
    case flightReturn => exact execFlightReturn_canon h ..
    case handlerRunStart => exact execHandlerRunStart_canon h ..
    case defaultHandlerAction => exact execDefaultHandlerAction_canon h ..
    case poisonRefusal => exact execPoisonRefusal_canon h ..
    case watchdogExpiry => exact execWatchdogExpiry_canon h ..
    case debugStop => exact execDebugStop_canon h ..
    case debugStopComplete => exact execDebugStopComplete_canon h ..
    case debugRead => exact execDebugRead_canon h ..
    case debugWrite => exact execDebugWrite_canon h ..
    case debugResume => exact execDebugResume_canon h ..
    case debugSetStep => exact execDebugSetStep_canon h ..
    case hdropWrite => exact execHdropWrite_canon h ..
    case tbparkWrite => exact execTbparkWrite_canon h ..
    case hostRead => exact execHostRead_canon h ..
    case hostWrite => exact execHostWrite_canon h ..
    case atsInvalidation => exact execAtsInvalidation_canon h ..
    case flitReceive => exact execFlitReceive_canon h ..
    case peerAccess => exact execPeerAccess_canon h ..
    case linkDown => exact execLinkDown_canon h ..
    case keySlotLoad => exact execKeySlotLoad_canon h ..
    case telemetrySample => exact execTelemetrySample_canon h ..
    case reportWrite => exact execReportWrite_canon h ..
    case repcfgWrite => exact execRepcfgWrite_canon h ..
    case pwrctlSleep => exact execPwrctlSleep_canon h ..
    case pwrctlPark => exact execPwrctlPark_canon h ..
    case diePark => exact execDiePark_canon h ..
    case idleEntry => exact execIdleEntry_canon h ..
    case moduleWake => exact execModuleWake_canon h ..
    case recoveryGo => exact execRecoveryGo_canon h ..
    case registerWrite => exact execRegisterWrite_canon h ..
    case undefinedInstruction cls w0 w1 => exact execUndefinedInstruction_canon h cls w0 w1
    case dieLeavingReset => exact execDieLeavingReset_canon h ..
    case powerLoss => exact execPowerLoss_canon h ..
    case linkUp => exact execLinkUp_canon h ..
    case securityStateAdvance => exact execSecurityStateAdvance_canon h ..
    case atsTranslationCompletion => exact execAtsTranslationCompletion_canon h ..
    case dieUnpark => exact execDieUnpark_canon h ..
    all_goals cases hd

theorem issueStep_canon {s : State} (h : s.Canon) (f : Nat) : NextCanon (issueStep f s) := by
  unfold issueStep
  split
  · exact h
  · split
    · exact exec_canon (by exact h) _
    · split
      · exact exec_canon (by exact h) _
      · exact h

theorem idleStep_canon {s : State} (h : s.Canon) : NextCanon s.idleStep := by
  unfold State.idleStep
  split
  · split
    · exact issueStep_canon h _
    · simp [h]
  · simp [h]

theorem step_canon {s : State} (h : s.Canon) : NextCanon (step s) := by
  unfold step
  split
  · exact issueStep_canon (by exact h) _
  · exact exec_canon (by exact h) _
  · simp [h]
  · simp [h]
  · simp [h]
  · simp [h]
  · exact idleStep_canon h

end Sys2Proof.Machine
end

section
open Sys2Proof Sys2Proof.Machine

/-- Settles O6: `State.Canon` holds after every step from a state in which it holds, by the lemmas above, one for each function of the model that gives a state. -/
theorem everyStepKeepsMemoryCanonical : Obligations.EveryStepKeepsMemoryCanonical := by
  unfold Obligations.EveryStepKeepsMemoryCanonical
  intro Inv s t ⟨hb, hw, hl, hd⟩ ht
  have h := step_canon (s := s) ⟨hb, hw, hl, hd⟩
  rw [ht] at h
  exact ⟨h.bytes, h.wgs, h.bad, h.dbg⟩

end

section
/-! SUPPORT. Device registers and bit fields: what a register reads after a write, what a field and a bit of a word hold after a field
is written, and the masks of the register map. -/

namespace Sys2Proof.Machine

open Sys2Proof

variable {α : Type}

/-! ### Registers -/

theorem getD_findBy_fst (d : α) (m : NMap α) (k : Nat) : ((findBy Prod.fst m k).map Prod.snd).getD d = mget d m k := by
  induction m with
  | nil => rfl
  | cons p r ih =>
    by_cases h : p.1 = k
    · simp [findBy, mget, h]
    · simpa [findBy, mget, h] using ih

theorem State.reg_eq_mget (s : State) (o : Nat) : s.reg o = mget (regReset o) s.dev.regs o := getD_findBy_fst _ _ _

theorem State.reg_congr {s t : State} (h : t.dev.regs = s.dev.regs) (o : Nat) : t.reg o = s.reg o := by
  rw [State.reg_eq_mget, State.reg_eq_mget, h]

theorem State.reg_setReg (s : State) (o p : Nat) (v : DWord) : (s.setReg o v).reg p = if p = o then v else s.reg p := by
  rw [State.reg_eq_mget, State.reg_eq_mget]
  show mget (regReset p) (mset (regReset o) s.dev.regs o v) p = _
  by_cases h : p = o
  · subst h; rw [mget_mset_same, if_pos rfl]
  · rw [mget_mset_ne _ _ _ _ h, if_neg h]

@[simp] theorem State.reg_setReg_same (s : State) (o : Nat) (v : DWord) : (s.setReg o v).reg o = v := by
  rw [State.reg_setReg, if_pos rfl]

theorem State.reg_setReg_ne (s : State) {o p : Nat} (v : DWord) (h : p ≠ o) : (s.setReg o v).reg p = s.reg p := by
  rw [State.reg_setReg, if_neg h]

/-- A report as REPORT_WRITE will find it. -/
def reportOf (kind die core : Nat) (l : Option Launch) (p : List Nat) (frame : List DWord) : Report :=
  { kind, die, core, w1 := (launchWords l).1, w2 := (launchWords l).2, p := p.map (BitVec.ofNat 64), frame }

theorem State.report_eq (s : State) (k d c : Nat) (l : Option Launch) (p : List Nat) (fr : List DWord) :
    s.report k d c l p fr = { s with dev := { s.dev with repQueue := s.dev.repQueue ++ [reportOf k d c l p fr] } } := rfl

@[simp] theorem State.reg_report (s : State) (k d c : Nat) (l : Option Launch) (p : List Nat) (fr : List DWord) (o : Nat) :
    (s.report k d c l p fr).reg o = s.reg o := rfl

/-! ### Fields and bits -/

theorem nbits_testBit (w lo n i : Nat) : (nbits w lo n).testBit i = (decide (i < n) && w.testBit (lo + i)) := by
  rw [nbits, Nat.testBit_mod_two_pow, Nat.testBit_shiftRight]

theorem fld_testBit {k : Nat} (w : BitVec k) (lo n i : Nat) : (fld w lo n).testBit i = (decide (i < n) && w.getLsbD (lo + i)) :=
  nbits_testBit w.toNat lo n i

theorem fld_lt {k : Nat} (w : BitVec k) (lo n : Nat) : fld w lo n < 2 ^ n := Nat.mod_lt _ (Nat.two_pow_pos n)

/-- A word cut at a field: the bits below it, the field and the bits above it. -/
theorem setFld_toNat_split (a lo n x : Nat) :
    a - nbits a lo n * 2 ^ lo + x % 2 ^ n * 2 ^ lo = 2 ^ lo * (2 ^ n * (a >>> lo >>> n) + x % 2 ^ n) + a % 2 ^ lo := by
  have h1 : 2 ^ lo * (a >>> lo) + a % 2 ^ lo = a := by rw [Nat.shiftRight_eq_div_pow]; exact Nat.div_add_mod _ _
  have h2 : 2 ^ n * (a >>> lo >>> n) + nbits a lo n = a >>> lo := by
    rw [Nat.shiftRight_eq_div_pow _ n]; exact Nat.div_add_mod _ _
  have h3 : 2 ^ lo * (2 ^ n * (a >>> lo >>> n)) + nbits a lo n * 2 ^ lo = 2 ^ lo * (a >>> lo) := by
    conv_rhs => rw [← h2]
    rw [Nat.mul_add, Nat.mul_comm (2 ^ lo) (nbits a lo n)]
  rw [Nat.mul_add, Nat.mul_comm (2 ^ lo) (x % 2 ^ n)]
  omega

theorem setFld_getLsbD {k : Nat} (w : BitVec k) (lo n x i : Nat) :
    (setFld w lo n x).getLsbD i = (decide (i < k) && if lo ≤ i ∧ i < lo + n then x.testBit (i - lo) else w.getLsbD i) := by
  have hw : w.getLsbD i = w.toNat.testBit i := rfl
  rw [setFld, BitVec.getLsbD_ofNat, setFld_toNat_split, Nat.testBit_two_pow_mul_add _ (Nat.mod_lt _ (Nat.two_pow_pos lo)), hw]
  refine congrArg _ ?_
  by_cases h : i < lo
  · rw [if_pos h, if_neg (by omega), Nat.testBit_mod_two_pow]; simp [h]
  · rw [if_neg h, Nat.testBit_two_pow_mul_add _ (Nat.mod_lt _ (Nat.two_pow_pos n))]
    by_cases h2 : i < lo + n
    · rw [if_pos (by omega), if_pos (by omega), Nat.testBit_mod_two_pow]; simp; omega
    · rw [if_neg (by omega), if_neg (by omega), Nat.testBit_shiftRight, Nat.testBit_shiftRight]
      congr 1; omega

theorem fld_setFld_same {k : Nat} (w : BitVec k) (lo n x : Nat) (h : lo + n ≤ k) : fld (setFld w lo n x) lo n = x % 2 ^ n := by
  refine Nat.eq_of_testBit_eq fun i => ?_
  rw [fld_testBit, setFld_getLsbD, Nat.testBit_mod_two_pow]
  by_cases hi : i < n
  · rw [if_pos (by omega), decide_eq_true (show lo + i < k by omega), Nat.add_sub_cancel_left]; simp
  · simp [hi]

theorem fld_setFld_ne {k : Nat} (w : BitVec k) (lo n x lo' n' : Nat) (h : lo' + n' ≤ lo ∨ lo + n ≤ lo') :
    fld (setFld w lo n x) lo' n' = fld w lo' n' := by
  refine Nat.eq_of_testBit_eq fun i => ?_
  rw [fld_testBit, fld_testBit, setFld_getLsbD]
  by_cases hi : i < n'
  · rw [if_neg (by omega)]
    by_cases hk : lo' + i < k
    · simp [hk]
    · rw [BitVec.getLsbD_of_ge _ _ (by omega)]; simp
  · simp [hi]

/-- A field depends on its own bits only. -/
theorem fld_congr {k l : Nat} {v : BitVec k} {w : BitVec l} {lo lo' n : Nat} (h : ∀ i < n, v.getLsbD (lo + i) = w.getLsbD (lo' + i)) :
    fld v lo n = fld w lo' n := by
  refine Nat.eq_of_testBit_eq fun i => ?_
  rw [fld_testBit, fld_testBit]
  by_cases hi : i < n
  · rw [h i hi]
  · simp [hi]

theorem fld_ofNat (k x lo n : Nat) (h : lo + n ≤ k) : fld (BitVec.ofNat k x) lo n = x / 2 ^ lo % 2 ^ n := by
  refine Nat.eq_of_testBit_eq fun i => ?_
  rw [fld_testBit, BitVec.getLsbD_ofNat, Nat.testBit_mod_two_pow, Nat.testBit_div_two_pow]
  by_cases hi : i < n
  · rw [decide_eq_true (show lo + i < k by omega), Bool.true_and, Nat.add_comm]
  · simp [hi]

/-! ### Words that have some bits set -/

/-- The word whose bits `[lo + n − 1 : lo]` are set. -/
def span (lo n : Nat) : DWord := BitVec.ofNat 64 (2 ^ n - 1) <<< lo

theorem span_getLsbD (lo n i : Nat) : (span lo n).getLsbD i = (decide (i < 64) && decide (lo ≤ i ∧ i < lo + n)) := by
  rw [span, BitVec.getLsbD_shiftLeft, BitVec.getLsbD_ofNat, Nat.testBit_two_pow_sub_one]
  by_cases h : i < 64
  · by_cases h1 : i < lo
    · simp [h1, h]
    · have h2 : i - lo < 64 := by omega
      have h3 : i - lo < n ↔ lo ≤ i ∧ i < lo + n := by omega
      simp only [h1, h, h2, h3, decide_true, decide_false, Bool.not_false, Bool.true_and]
  · simp [h]

theorem setFld_eq_mask (w : DWord) (lo n x : Nat) :
    setFld w lo n x = w &&& ~~~span lo n ||| (BitVec.ofNat 64 x <<< lo) &&& span lo n := by
  refine BitVec.eq_of_getLsbD_eq fun i hi => ?_
  simp only [setFld_getLsbD, BitVec.getLsbD_or, BitVec.getLsbD_and, BitVec.getLsbD_not, span_getLsbD, BitVec.getLsbD_shiftLeft,
    BitVec.getLsbD_ofNat, hi, decide_true, Bool.true_and]
  by_cases h : lo ≤ i ∧ i < lo + n
  · have h1 : ¬ i < lo := by omega
    have h2 : i - lo < 64 := by omega
    simp [h, h1, h2]
  · simp only [h, if_false, decide_false, Bool.not_false, Bool.and_true, Bool.and_false, Bool.or_false]

end Sys2Proof.Machine
end

section
/-! SUPPORT. Which register stands at an offset (Table 18-10), and the words that a write of writable bits leaves. -/

namespace Sys2Proof.Machine

open Sys2Proof

/-! ### Offsets -/

theorem devReg?_ars {n w : Nat} (hn : n < 64) (hw : w < 2) : devReg? (0x10000 + 16 * n + 8 * w) = some (.ars n w) := by
  simp (disch := omega) only [devReg?, if_neg, if_pos]
  rw [show (0x10000 + 16 * n + 8 * w - 0x10000) / 16 = n by omega, show (0x10000 + 16 * n + 8 * w) % 16 / 8 = w by omega]

theorem devReg?_frmap {n : Nat} (hn : n < 8) : devReg? (frmapOff n + 8) = some (.frmap n 1) := by
  unfold frmapOff
  simp (disch := omega) only [devReg?, if_neg, if_pos]
  rw [show (0x11000 + 16 * n + 8 - 0x11000) / 16 = n by omega, show (0x11000 + 16 * n + 8) % 16 / 8 = 1 by omega]

theorem devReg?_evt {n : Nat} (hn : n < 1024) : devReg? (0x24000 + 8 * n) = some (.evt n) := by
  simp (disch := omega) only [devReg?, if_neg, if_pos]
  rw [show (0x24000 + 8 * n - 0x24000) / 8 = n by omega]

theorem devReg?_flcfg {d : Nat} (hd : d < 8) : devReg? (flcfgOff d) = some (.flcfg d) := by
  unfold flcfgOff
  simp (disch := omega) only [devReg?, if_neg, if_pos]
  rw [show (0x100000 + 0x10000 * d - 0x100000) / 0x10000 = d by omega]

theorem devReg?_tbcfg {d n : Nat} (hd : d < 8) (hn : n < 16) : devReg? (tbcfgOff d n) = some (.tbcfg d n) := by
  unfold tbcfgOff
  simp (disch := omega) only [devReg?, if_neg, if_pos]
  rw [show (0x100100 + 0x10000 * d + 8 * n - 0x100000) / 0x10000 = d by omega,
    show ((0x100100 + 0x10000 * d + 8 * n) % 0x10000 - 0x100) / 8 = n by omega]

theorem devReg?_tbpark {d k n : Nat} (hd : d < 8) (hk : k < 16) (hn : n < 16) : devReg? (tbparkOff d k n) = some (.tbpark d k n) := by
  unfold tbparkOff
  simp (disch := omega) only [devReg?, if_neg, if_pos]
  rw [show (0x101000 + 0x10000 * d + 0x80 * k + 8 * n - 0x100000) / 0x10000 = d by omega,
    show ((0x101000 + 0x10000 * d + 0x80 * k + 8 * n) % 0x10000 - 0x1000) / 0x80 = k by omega,
    show (0x101000 + 0x10000 * d + 0x80 * k + 8 * n) % 0x10000 % 0x80 / 8 = n by omega]

theorem devReg?_mgmtarg {k : Nat} (hk : k < 4) : devReg? (0x410 + 8 * k) = some (.mgmtarg k) := by
  simp (disch := omega) only [devReg?, if_neg, if_pos]
  rw [show (0x410 + 8 * k - 0x410) / 8 = k by omega]

theorem devReg?_zr {a n : Nat} (ha : a < 4096) (hn : n < 16) : devReg? (zrOff a n) = some (.zr a n 0) := by
  unfold zrOff
  simp (disch := omega) only [devReg?, if_neg, if_pos]
  rw [show (0x1000000 + 0x1000 * a + 32 * n - 0x1000000) / 0x1000 = a by omega,
    show (0x1000000 + 0x1000 * a + 32 * n) % 0x1000 / 32 = n by omega, show (0x1000000 + 0x1000 * a + 32 * n) % 32 / 8 = 0 by omega]

/-- The block of a queue's registers. -/
theorem devReg?_queue {q k : Nat} (hq : q < 256) :
    k < 64 → devReg? (qOff q + k) = (match k with
      | 0 => some (.qcfg q) | 8 => some (.qptr q) | 16 => some (.qstat q) | 24 => some (.qtrap q) | 32 => some (.qown q) | 40 => some (.hdrop q)
      | _ => none) := by
  intro hk
  unfold qOff
  simp (disch := omega) only [devReg?, if_neg, if_pos]
  rw [show (0x20000 + 64 * q + k - 0x20000) / 64 = q by omega]
  generalize hj : (0x20000 + 64 * q + k) % 64 = j
  obtain rfl : j = k := by omega
  rfl

theorem devReg?_qcfg {q : Nat} (hq : q < 256) : devReg? (qOff q) = some (.qcfg q) := devReg?_queue (k := 0) hq (by decide)
theorem devReg?_qptr {q : Nat} (hq : q < 256) : devReg? (qOff q + 8) = some (.qptr q) := devReg?_queue (k := 8) hq (by decide)
theorem devReg?_qstat {q : Nat} (hq : q < 256) : devReg? (qOff q + 16) = some (.qstat q) := devReg?_queue (k := 16) hq (by decide)
theorem devReg?_qtrap {q : Nat} (hq : q < 256) : devReg? (qOff q + 24) = some (.qtrap q) := devReg?_queue (k := 24) hq (by decide)
theorem devReg?_qown {q : Nat} (hq : q < 256) : devReg? (qOff q + 32) = some (.qown q) := devReg?_queue (k := 32) hq (by decide)
theorem devReg?_hdrop {q : Nat} (hq : q < 256) : devReg? (hdropOff q) = some (.hdrop q) := devReg?_queue (k := 40) hq (by decide)

/-! ### Written words -/

/-- A word whose bits under a mask come from another word. -/
def merge (cur m w : DWord) : DWord := cur &&& ~~~m ||| w &&& m

theorem merge_getLsbD (cur m w : DWord) (i : Nat) : (merge cur m w).getLsbD i = if m.getLsbD i then w.getLsbD i else cur.getLsbD i := by
  by_cases hi : i < 64
  · rw [merge, BitVec.getLsbD_or, BitVec.getLsbD_and, BitVec.getLsbD_and, BitVec.getLsbD_not]
    cases m.getLsbD i <;> simp [-BitVec.getLsbD_eq_getElem, hi]
  · simp only [BitVec.getLsbD_of_ge _ _ (Nat.le_of_not_lt hi), Bool.false_eq_true, if_false]

@[simp] theorem merge_allOnes (cur w : DWord) : merge cur (BitVec.allOnes 64) w = w := by
  rw [merge, BitVec.and_allOnes, BitVec.not_allOnes, BitVec.and_zero, BitVec.zero_or]

@[simp] theorem merge_zero (cur w : DWord) : merge cur 0 w = cur := by
  refine BitVec.eq_of_getLsbD_eq fun i _ => ?_
  rw [merge_getLsbD, show (0 : DWord).getLsbD i = false from BitVec.getLsbD_zero]
  rfl

theorem rw_eq_merge (cur m w : DWord) (h : Nat) : rw cur m w h = merge cur (m &&& halfMask h) w := by
  rw [rw, merge, BitVec.and_assoc]

theorem w1c_eq_merge (cur m w : DWord) (h : Nat) : w1c cur m w h = merge cur (m &&& w &&& halfMask h) 0 := by
  simp [w1c, merge]

theorem or_eq_merge (cur m : DWord) : cur ||| m = merge cur m m := by
  refine BitVec.eq_of_getLsbD_eq fun i _ => ?_
  rw [merge_getLsbD, BitVec.getLsbD_or]
  cases m.getLsbD i <;> simp

theorem setFld_eq_merge (w : DWord) (lo n x : Nat) : setFld w lo n x = merge w (span lo n) (BitVec.ofNat 64 x <<< lo) := setFld_eq_mask w lo n x

/-- Two merges of one word agree when each bit comes from the same place. -/
theorem merge_congr {cur m m' v v' : DWord} (hm : m = m') (hv : ∀ i, m.getLsbD i = true → v.getLsbD i = v'.getLsbD i) :
    merge cur m v = merge cur m' v' := by
  subst hm
  refine BitVec.eq_of_getLsbD_eq fun i _ => ?_
  rw [merge_getLsbD, merge_getLsbD]
  split
  · rename_i h; exact hv i h
  · rfl

/-- A field that lies wholly under the mask. -/
theorem fld_merge {cur m : DWord} {lo n : Nat} (hm : ∀ i < n, m.getLsbD (lo + i) = true) (w : DWord) : fld (merge cur m w) lo n = fld w lo n :=
  fld_congr fun i hi => by rw [merge_getLsbD, hm i hi, if_pos rfl]

/-- A field that the mask does not meet. -/
theorem fld_merge_ne {cur m : DWord} {lo n : Nat} (hm : ∀ i < n, m.getLsbD (lo + i) = false) (w : DWord) : fld (merge cur m w) lo n = fld cur lo n :=
  fld_congr fun i hi => by rw [merge_getLsbD, hm i hi]; simp

theorem setFld_merge {cur m : DWord} {lo n : Nat} (hm : ∀ i < n, m.getLsbD (lo + i) = true) (w : DWord) (x : Nat) :
    setFld (merge cur m w) lo n x = merge cur m (setFld w lo n x) := by
  refine BitVec.eq_of_getLsbD_eq fun i hi => ?_
  simp only [setFld_getLsbD, merge_getLsbD, hi, decide_true, Bool.true_and]
  by_cases h : lo ≤ i ∧ i < lo + n
  · have := hm (i - lo) (by omega)
    rw [Nat.add_sub_cancel' h.1] at this
    rw [if_pos h, if_pos h, if_pos this]
  · rw [if_neg h, if_neg h]

/-- A write of a one-bit field. -/
theorem setFld_bit_eq_merge (w : DWord) (lo x : Nat) : setFld w lo 1 x = merge w (span lo 1) (if x % 2 = 1 then span lo 1 else 0) := by
  refine BitVec.eq_of_getLsbD_eq fun i hi => ?_
  simp only [setFld_getLsbD, merge_getLsbD, span_getLsbD, hi, decide_true, Bool.true_and, decide_eq_true_eq]
  by_cases h : lo ≤ i ∧ i < lo + 1
  · obtain rfl : i = lo := by omega
    rw [if_pos h, if_pos h, Nat.sub_self, Nat.testBit_zero]
    by_cases hx : x % 2 = 1
    · simp [hx, span_getLsbD, hi]
    · simp [hx]
  · rw [if_neg h, if_neg h]

theorem halfMask_zero : halfMask 0 = BitVec.allOnes 64 := rfl
@[simp] theorem and_halfMask_zero (m : DWord) : m &&& halfMask 0 = m := by rw [halfMask_zero, BitVec.and_allOnes]

end Sys2Proof.Machine
end

section
/-! SUPPORT. Home bytes: what a home reads after a write, after a line is cleaned, and after lines are written back and dropped. -/

namespace Sys2Proof.Machine

open Sys2Proof

variable {α : Type}

theorem lineOf_eq (pa : Nat) : lineOf pa = pa / 128 := rfl
theorem secOf_eq (pa : Nat) : secOf pa = pa % 128 / 32 := rfl

/-! ### Lines of L2 -/

theorem findBy_append_one (key : α → Nat) (l : List α) (k : Nat) (a : α) (h : findBy key l (key a) = none) :
    findBy key (l ++ [a]) k = if k = key a then some a else findBy key l k := by
  by_cases hk : k = key a
  · subst hk
    unfold findBy at *
    rw [List.find?_append, h, if_pos rfl]; simp
  · unfold findBy
    rw [List.find?_append, if_neg hk]
    simp [Ne.symm hk]

theorem State.l2?_setL2 (s : State) (x : L2Line) (line : Nat) : (s.setL2 x).l2? line = if line = x.line then some x else s.l2? line := by
  unfold State.setL2
  cases h : s.l2? x.line with
  | none => exact findBy_append_one _ _ _ _ h
  | some y =>
    by_cases hl : line = x.line
    · subst hl
      rw [if_pos rfl]
      show findBy L2Line.line (replBy L2Line.line s.mem.l2 x.line x) x.line = _
      rw [findBy_replBy _ _ _ _ rfl, show findBy L2Line.line s.mem.l2 x.line = some y from h]; rfl
    · rw [if_neg hl]
      exact findBy_replBy_ne _ _ _ _ _ rfl hl

theorem State.l2?_dropL2 (s : State) (l line : Nat) : (s.dropL2 l).l2? line = if line = l then none else s.l2? line := by
  show ((s.mem.l2.filter fun x => decide (x.line ≠ l)).find? fun x => decide (x.line = line)) = _
  rw [List.find?_filter]
  by_cases h : line = l
  · subst h
    rw [if_pos rfl, List.find?_eq_none]
    intro x _; simp
  · rw [if_neg h]
    refine congrFun (congrArg _ (funext fun x => ?_)) _
    by_cases hx : x.line = line
    · simp [hx, h]
    · simp [hx]

theorem State.l2?_line {s : State} {line : Nat} {x : L2Line} (h : s.l2? line = some x) : x.line = line := findBy_key _ _ _ _ h
theorem State.l2?_mem {s : State} {line : Nat} {x : L2Line} (h : s.l2? line = some x) : x ∈ s.mem.l2 := List.mem_of_find?_eq_some h

/-! ### Bytes at their homes -/

/-- A home byte depends on the memory devices and the lines of L2. -/
theorem State.homeByte_congr {s t : State} (hl : t.mem.l2 = s.mem.l2) (hb : t.mem.bytes = s.mem.bytes) (a : Nat) : t.homeByte a = s.homeByte a := by
  unfold State.homeByte State.l2?
  rw [hl, hb]

/-- A byte that an L2 line holds, and else the byte of the memory devices. -/
def byteOf (m : List Host.Cell) (x : Option L2Line) (a : Nat) : Byte :=
  match x with
  | some x => if x.valid.getLsbD (secOf a) then mget blankByte x.bytes (a % 128) else cellGet m a
  | none => cellGet m a

theorem State.homeByte_eq (s : State) (a : Nat) : s.homeByte a = byteOf s.mem.bytes (s.l2? (a / 128)) a := rfl

theorem byteOf_valid {m : List Host.Cell} {x : L2Line} {a : Nat} (h : x.valid.getLsbD (secOf a) = true) :
    byteOf m (some x) a = mget blankByte x.bytes (a % 128) := if_pos h
theorem byteOf_invalid {m : List Host.Cell} {x : L2Line} {a : Nat} (h : x.valid.getLsbD (secOf a) = false) :
    byteOf m (some x) a = cellGet m a := if_neg (by simp [h])

/-- The byte's cell, or its place in a line that holds it. -/
def State.storeByte (s : State) (pa : Nat) (b : Byte) : State :=
  match s.l2? (lineOf pa) with
  | some x =>
    if x.valid.getLsbD (secOf pa) then
      s.setL2 { x with bytes := mset blankByte x.bytes (pa % 128) b, dirty := x.dirty ||| BitVec.ofNat 4 (2 ^ secOf pa) }
    else { s with mem := { s.mem with bytes := cellSet s.mem.bytes pa b } }
  | none => { s with mem := { s.mem with bytes := cellSet s.mem.bytes pa b } }

/-- The launches' notes of a byte that is about to change, and its writer. -/
def State.markWrite (s : State) (w pa : Nat) (b : Byte) : State :=
  let t := if s.homeByte pa = b then s else { s with launches := s.launches.map (keepOld pa (s.homeByte pa)) }
  { t with mem := { t.mem with writer := mset 0 t.mem.writer pa w } }

theorem State.homePut_eq (s : State) (w pa : Nat) (b : Byte) : s.homePut w pa b = (s.markWrite w pa b).storeByte pa b := rfl

theorem State.homeByte_markWrite (s : State) (w pa a : Nat) (b : Byte) : (s.markWrite w pa b).homeByte a = s.homeByte a := by
  unfold State.markWrite
  by_cases h : s.homeByte pa = b
  · rw [if_pos h]; rfl
  · rw [if_neg h]; rfl

theorem byteOf_cellSet_same {m : List Host.Cell} {x : Option L2Line} {a : Nat} (h : ∀ y, x = some y → y.valid.getLsbD (secOf a) = false) (b : Byte) :
    byteOf (cellSet m a b) x a = b := by
  cases x with
  | none => exact (cellGet_cellSet _ _ _ _).trans (if_pos rfl)
  | some y => rw [byteOf_invalid (h y rfl), cellGet_cellSet, if_pos rfl]

theorem byteOf_congr {m m' : List Host.Cell} {a : Nat} (h : cellGet m a = cellGet m' a) (x : Option L2Line) : byteOf m x a = byteOf m' x a := by
  unfold byteOf
  rw [h]

theorem State.homeByte_storeByte (s : State) (pa a : Nat) (b : Byte) : (s.storeByte pa b).homeByte a = if a = pa then b else s.homeByte a := by
  have hcell : (∀ y, s.l2? (pa / 128) = some y → y.valid.getLsbD (secOf pa) = false) →
      byteOf (cellSet s.mem.bytes pa b) (s.l2? (a / 128)) a = if a = pa then b else s.homeByte a := by
    intro h
    by_cases ha : a = pa
    · subst ha; rw [if_pos rfl, byteOf_cellSet_same h]
    · rw [if_neg ha, State.homeByte_eq]
      exact byteOf_congr ((cellGet_cellSet _ _ _ _).trans (if_neg ha)) _
  unfold State.storeByte
  cases hx : s.l2? (lineOf pa) with
  | none => exact hcell fun y hy => absurd (hx.symm.trans hy) nofun
  | some x =>
    have hxl := State.l2?_line hx
    by_cases hv : x.valid.getLsbD (secOf pa) = true
    · simp only [hv, if_true]
      rw [State.homeByte_eq, State.l2?_setL2]
      by_cases hal : a / 128 = x.line
      · have hx' : s.l2? (a / 128) = some x := by rw [hal, hxl, hx]
        rw [if_pos hal, State.homeByte_eq, hx']
        by_cases ha : a = pa
        · subst ha
          rw [if_pos rfl]
          exact Eq.trans (if_pos hv) (mget_mset_same _ _ _ _)
        · have hne : a % 128 ≠ pa % 128 := by rw [hxl, lineOf_eq] at hal; omega
          rw [if_neg ha]
          unfold byteOf
          simp only [mget_mset_other _ _ _ hne]
          rfl
      · have ha : a ≠ pa := by rintro rfl; exact hal hxl.symm
        rw [if_neg hal, if_neg ha, State.homeByte_eq]
        rfl
    · rw [Bool.not_eq_true] at hv
      simp only [hv, Bool.false_eq_true, if_false]
      exact hcell fun y hy => by rw [← Option.some.inj (hx.symm.trans hy)]; exact hv

theorem State.homeByte_homePut (s : State) (w pa a : Nat) (b : Byte) :
    (s.homePut w pa b).homeByte a = if a = pa then b else s.homeByte a := by
  rw [State.homePut_eq, State.homeByte_storeByte, State.homeByte_markWrite]

theorem State.homeByte_homePuts (w : Nat) (l : List Byte) : ∀ (s : State) (pa a : Nat),
    (s.homePuts w pa l).homeByte a = if pa ≤ a ∧ a < pa + l.length then l.getD (a - pa) 0 else s.homeByte a := by
  induction l with
  | nil => intro s pa a; rw [if_neg (by simp only [List.length_nil]; omega)]; rfl
  | cons b r ih =>
    intro s pa a
    rw [State.homePuts, ih, State.homeByte_homePut]
    simp only [List.length_cons]
    by_cases h : a = pa
    · subst h; rw [if_neg (by omega), if_pos rfl, if_pos (by omega), Nat.sub_self]; rfl
    · by_cases h2 : pa + 1 ≤ a ∧ a < pa + 1 + r.length
      · rw [if_pos h2, if_pos (by omega), show a - pa = a - (pa + 1) + 1 by omega]; rfl
      · rw [if_neg h2, if_neg h, if_neg (by omega)]

/-! ### What a write of home bytes leaves unchanged -/

@[simp] theorem State.homePut_same (s : State) (w pa : Nat) (b : Byte) :
    (s.homePut w pa b).dev = s.dev ∧ (s.homePut w pa b).tr = s.tr ∧ (s.homePut w pa b).clock = s.clock ∧ (s.homePut w pa b).sched = s.sched ∧
    (s.homePut w pa b).flights = s.flights ∧ (s.homePut w pa b).wgs = s.wgs ∧ (s.homePut w pa b).cmds = s.cmds ∧
    (s.homePut w pa b).mem.poison = s.mem.poison ∧ (s.homePut w pa b).mem.l1 = s.mem.l1 ∧ (s.homePut w pa b).mem.far = s.mem.far := by
  unfold State.homePut State.setL2
  simp only []
  refine ⟨?_, ?_, ?_, ?_, ?_, ?_, ?_, ?_, ?_, ?_⟩ <;> (repeat' split) <;> rfl

@[simp] theorem State.homePuts_same (w : Nat) (l : List Byte) : ∀ (s : State) (pa : Nat),
    (s.homePuts w pa l).dev = s.dev ∧ (s.homePuts w pa l).tr = s.tr ∧ (s.homePuts w pa l).clock = s.clock ∧ (s.homePuts w pa l).sched = s.sched ∧
    (s.homePuts w pa l).flights = s.flights ∧ (s.homePuts w pa l).wgs = s.wgs ∧ (s.homePuts w pa l).cmds = s.cmds ∧
    (s.homePuts w pa l).mem.poison = s.mem.poison ∧ (s.homePuts w pa l).mem.l1 = s.mem.l1 ∧ (s.homePuts w pa l).mem.far = s.mem.far := by
  induction l with
  | nil => intro s pa; exact ⟨rfl, rfl, rfl, rfl, rfl, rfl, rfl, rfl, rfl, rfl⟩
  | cons b r ih => intro s pa; rw [State.homePuts]; simpa using ih (s.homePut w pa b) (pa + 1)

theorem State.reg_homePuts (s : State) (w pa : Nat) (l : List Byte) (o : Nat) : (s.homePuts w pa l).reg o = s.reg o :=
  State.reg_congr (congrArg _ (State.homePuts_same w l s pa).1) o

/-! ### Lines written back -/

theorem cellGet_range_foldl (m : List Host.Cell) (base n : Nat) (g : Nat → Byte) (a : Nat) :
    cellGet ((List.range n).foldl (fun m j => cellSet m (base + j) (g j)) m) a = if base ≤ a ∧ a < base + n then g (a - base) else cellGet m a := by
  induction n with
  | zero => rw [if_neg (by omega)]; rfl
  | succ n ih =>
    rw [List.range_succ, List.foldl_append, List.foldl_cons, List.foldl_nil, cellGet_cellSet, ih]
    by_cases h : a = base + n
    · rw [if_pos h, if_pos (by omega), show a - base = n by omega]
    · rw [if_neg h]
      by_cases h2 : base ≤ a ∧ a < base + n
      · rw [if_pos h2, if_pos (by omega)]
      · rw [if_neg h2, if_neg (by omega)]

theorem cellGet_sectors_foldl (base : Nat) (g : Nat → Byte) (a : Nat) (ds : List Nat) : ∀ m : List Host.Cell,
    cellGet (ds.foldl (fun m i => (List.range 32).foldl (fun m j => cellSet m (base + 32 * i + j) (g (32 * i + j))) m) m) a
      = if base ≤ a ∧ (a - base) / 32 ∈ ds then g (a - base) else cellGet m a := by
  induction ds with
  | nil => intro m; rw [if_neg (by simp)]; rfl
  | cons i r ih =>
    intro m
    rw [List.foldl_cons, ih, cellGet_range_foldl m (base + 32 * i) 32 (fun j => g (32 * i + j))]
    by_cases h : base ≤ a
    · by_cases hr : (a - base) / 32 ∈ r
      · rw [if_pos ⟨h, hr⟩, if_pos ⟨h, List.mem_cons_of_mem _ hr⟩]
      · rw [if_neg (fun e => hr e.2)]
        by_cases hi : (a - base) / 32 = i
        · rw [if_pos (by omega), if_pos ⟨h, hi ▸ List.mem_cons_self⟩, show 32 * i + (a - (base + 32 * i)) = a - base by omega]
        · rw [if_neg (by omega), if_neg (fun e => (List.mem_cons.1 e.2).elim hi hr)]
    · rw [if_neg (fun e => h e.1), if_neg (by omega), if_neg (fun e => h e.1)]

theorem State.cellGet_writeBack (s : State) (x : L2Line) (a : Nat) :
    cellGet (s.writeBack x).mem.bytes a = if a / 128 = x.line ∧ x.dirty.getLsbD (secOf a) then mget blankByte x.bytes (a % 128) else cellGet s.mem.bytes a := by
  show cellGet (((List.range 4).filter fun i => x.dirty.getLsbD i).foldl _ s.mem.bytes) a = _
  rw [cellGet_sectors_foldl (128 * x.line) (fun k => mget blankByte x.bytes k)]
  simp only [List.mem_filter, List.mem_range]
  have hc : (128 * x.line ≤ a ∧ (a - 128 * x.line) / 32 < 4 ∧ x.dirty.getLsbD ((a - 128 * x.line) / 32) = true) ↔
      (a / 128 = x.line ∧ x.dirty.getLsbD (secOf a) = true) := by
    rw [secOf_eq]
    constructor
    · rintro ⟨h1, h2, h3⟩
      rw [show a % 128 = a - 128 * x.line by omega]
      exact ⟨by omega, h3⟩
    · rintro ⟨h1, h2⟩
      rw [show a - 128 * x.line = a % 128 by omega]
      exact ⟨by omega, by omega, h2⟩
  simp only [hc]
  by_cases h : a / 128 = x.line ∧ x.dirty.getLsbD (secOf a) = true
  · rw [if_pos h, if_pos h, show a - 128 * x.line = a % 128 by omega]
  · rw [if_neg h, if_neg h]

/-- A line whose dirty sectors are valid reads the same after it is cleaned. -/
theorem State.homeByte_cleanLine (s : State) (line a : Nat) (h : ∀ x, s.l2? line = some x → x.dirty &&& ~~~x.valid = 0) :
    (s.cleanLine line).homeByte a = s.homeByte a := by
  unfold State.cleanLine
  cases hx : s.l2? line with
  | none => rfl
  | some x =>
    have hl := State.l2?_line hx
    show ((s.writeBack x).setL2 { x with dirty := 0 }).homeByte a = _
    rw [State.homeByte_eq, State.homeByte_eq, State.l2?_setL2]
    show byteOf (s.writeBack x).mem.bytes (if a / 128 = x.line then _ else s.l2? (a / 128)) a = _
    have hd : x.dirty.getLsbD (secOf a) = true → x.valid.getLsbD (secOf a) = true := by
      intro hd
      have h0 := congrArg (fun w : BitVec 4 => w.getLsbD (secOf a)) (h x hx)
      have h4 : secOf a < 4 := by rw [secOf_eq]; omega
      simp only [BitVec.getLsbD_and, BitVec.getLsbD_not, hd, h4, decide_true, Bool.true_and] at h0
      simpa using h0
    by_cases hal : a / 128 = x.line
    · have hx' : s.l2? (a / 128) = some x := by rw [hal, hl, hx]
      rw [if_pos hal, hx']
      cases hv : x.valid.getLsbD (secOf a) with
      | true => rw [byteOf_valid hv, byteOf_valid (x := { x with dirty := 0 }) hv]
      | false =>
        have hd' : x.dirty.getLsbD (secOf a) = false := by
          cases e : x.dirty.getLsbD (secOf a) with
          | false => rfl
          | true => exact absurd (hd e) (by simp [hv])
        rw [byteOf_invalid hv, byteOf_invalid (x := { x with dirty := 0 }) hv, State.cellGet_writeBack, if_neg (by simp [hd'])]
    · rw [if_neg hal]
      exact byteOf_congr (by rw [State.cellGet_writeBack, if_neg (fun e => hal e.1)]) _

end Sys2Proof.Machine
end

section
/-! SUPPORT. What resets, boot and shootdown acknowledgements leave. -/

namespace Sys2Proof.Machine

open Sys2Proof

variable {α : Type}

/-! ### Reports and boot -/

/-- Reports change the queue of reports only. -/
theorem foldl_report_eq (rep : α → Report) (f : State → α → State)
    (hf : ∀ s x, f s x = { s with dev := { s.dev with repQueue := s.dev.repQueue ++ [rep x] } }) (l : List α) :
    ∀ s : State, l.foldl f s = { s with dev := { s.dev with repQueue := s.dev.repQueue ++ l.map rep } } := by
  induction l with
  | nil => intro s; rw [List.map_nil, List.append_nil]; rfl
  | cons x l ih => intro s; simp only [List.foldl_cons, ih, hf, List.map_cons, List.append_assoc, List.singleton_append]

theorem State.readBadList_eq (s : State) : s.readBadList = { s with dev := { s.dev with
    withheld := (s.dev.badList.filter chkGood).map badFrame,
    repQueue := s.dev.repQueue ++ (s.dev.badList.filter fun w => !chkGood w).map fun (w : DWord) => reportOf 11 8 255 none [w.toNat] [] } } := by
  unfold State.readBadList
  exact foldl_report_eq (fun (w : DWord) => reportOf 11 8 255 none [w.toNat] []) _ (fun _ _ => rfl) _ _

/-- BOOTSTAT after a failed check. -/
def bootFailWord (image fail : Nat) : DWord := setFld (setFld (0 : DWord) 8 8 image) 1 3 fail

theorem State.bootFail_eq (s : State) (image fail : Nat) :
    s.bootFail image fail = (s.setReg 0 (bootFailWord image fail)).report 16 8 255 none [1, (bootFailWord image fail).toNat] [] := rfl

theorem State.reg_bootFail (s : State) (image fail : Nat) : (s.bootFail image fail).reg 0 = bootFailWord image fail :=
  (State.reg_report _ _ _ _ _ _ _ _).trans (State.reg_setReg_same _ _ _)

theorem bootFailWord_fields (image fail : Nat) (h : fail < 8) :
    (bootFailWord image fail).getLsbD 0 = false ∧ fld (bootFailWord image fail) 1 3 = fail ∧ fld (bootFailWord image fail) 8 8 = image % 256 := by
  refine ⟨?_, ?_, ?_⟩
  · rw [bootFailWord, setFld_getLsbD, if_neg (by omega), setFld_getLsbD, if_neg (by omega)]; rfl
  · rw [bootFailWord, fld_setFld_same _ _ _ _ (by decide)]; exact Nat.mod_eq_of_lt h
  · rw [bootFailWord, fld_setFld_ne _ _ _ _ _ _ (by omega), fld_setFld_same _ _ _ _ (by decide)]; rfl

theorem imageFail_le (sec rollback : Nat) (img key sig : List Byte) (ver : Nat) : imageFail sec rollback img key sig ver ≤ 3 := by
  unfold imageFail
  repeat' split
  all_goals decide

theorem bootCheck_le (sec rollback : Nat) (l : List (List Byte × List Byte × List Byte × Nat)) :
    ∀ i j e, bootCheck sec rollback i l = some (j, e) → e ≤ 3 := by
  induction l with
  | nil => intro i j e h; cases h
  | cons x l ih =>
    obtain ⟨img, key, sig, ver⟩ := x
    intro i j e h
    rw [bootCheck] at h
    split at h
    · exact ih _ _ _ h
    · cases h; exact imageFail_le _ _ _ _ _ _

/-! ### Reset -/

/-- What a reset leaves at its reset value, and what outlives it. -/
def BareAfter (s t : State) : Prop :=
  t.flights = [] ∧ t.wgs = [] ∧ t.launches = [] ∧ t.cmds = [] ∧ t.barriers = [] ∧ t.tr = State.reset.tr ∧ t.sched = State.reset.sched
    ∧ t.mem.l2 = [] ∧ t.mem.l1 = [] ∧ t.mem.far = [] ∧ t.mem.transit = [] ∧ t.mem.blocks = [] ∧ t.dev.keys = [] ∧ t.dev.dbg = 0 ∧ t.dev.dieRst = [] ∧ t.dev.ars = []
    ∧ t.dev.sec = s.dev.sec ∧ t.dev.rollback = s.dev.rollback ∧ t.dev.images = s.dev.images ∧ t.dev.tokSerial = s.dev.tokSerial

theorem State.bareAfter_reset (s : State) (bytes : List Host.Cell) (poison : List Nat) (regs : NMap DWord) (repQueue : List Report)
    (running : List (BitVec 512)) (withheld : List Nat) (badList : List DWord) :
    BareAfter s { s.afterReset with
      mem := { s.afterReset.mem with bytes, poison }
      dev := { s.afterReset.dev with regs, repQueue, running, withheld, badList } } :=
  ⟨rfl, rfl, rfl, rfl, rfl, rfl, rfl, rfl, rfl, rfl, rfl, rfl, rfl, rfl, rfl, rfl, rfl, rfl, rfl, rfl⟩

theorem moduleReset_boots (s : State) (h : bootCheck s.dev.sec s.dev.rollback 0 s.dev.images = none) :
    ∃ t, execModuleReset s = .next t ∧ BareAfter s t ∧ t.mem.bytes = s.mem.bytes ∧ t.mem.poison = s.mem.poison ∧ t.dev.badList = s.dev.badList ∧
      t.dev.regs = [(0, 1)] ∧ t.dev.running = s.dev.images.map (fun p => sha3Word p.1) ∧ t.dev.withheld = (s.dev.badList.filter chkGood).map badFrame := by
  have h' : bootCheck s.afterReset.dev.sec s.afterReset.dev.rollback 0 s.afterReset.dev.images = none := h
  simp only [execModuleReset, h']
  refine ⟨_, rfl, ?_⟩
  rw [State.readBadList_eq]
  exact ⟨s.bareAfter_reset _ _ _ _ _ _ _, rfl, rfl, rfl, rfl, rfl, rfl⟩

theorem moduleReset_fails (s : State) {i e : Nat} (h : bootCheck s.dev.sec s.dev.rollback 0 s.dev.images = some (i, e)) :
    ∃ t, execModuleReset s = .next t ∧ BareAfter s t ∧ t.mem.bytes = s.mem.bytes ∧ t.mem.poison = s.mem.poison ∧ t.dev.badList = s.dev.badList ∧
      (t.reg 0).getLsbD 0 = false ∧ fld (t.reg 0) 1 3 = e ∧ fld (t.reg 0) 8 8 = i % 256 ∧ t.dev.running = []
          ∧ ∃ r, t.dev.repQueue = [r] ∧ r.kind = 16 ∧ r.p = [1, t.reg 0] := by
  have he : e < 8 := Nat.lt_of_le_of_lt (bootCheck_le _ _ _ _ _ _ h) (by decide)
  obtain ⟨h0, h1, h8⟩ := bootFailWord_fields i e he
  have h' : bootCheck s.afterReset.dev.sec s.afterReset.dev.rollback 0 s.afterReset.dev.images = some (i, e) := h
  simp only [execModuleReset, h']
  refine ⟨_, rfl, ?_⟩
  rw [State.reg_bootFail, State.bootFail_eq, State.report_eq]
  refine ⟨s.bareAfter_reset _ _ _ _ _ _ _, rfl, rfl, rfl, h0, h1, h8, rfl, _, rfl, rfl, ?_⟩
  show [_, BitVec.ofNat 64 (bootFailWord i e).toNat] = _
  rw [BitVec.ofNat_toNat, BitVec.setWidth_eq]; rfl

theorem mget_filter_gone (d : α) (p : Nat × α → Bool) (k : Nat) (h : ∀ a, p (k, a) = false) (m : NMap α) : mget d (m.filter p) k = d := by
  induction m with
  | nil => rfl
  | cons c m ih =>
    obtain ⟨j, a⟩ := c
    rw [List.filter_cons]
    split
    · rename_i hp
      have hj : j ≠ k := by rintro rfl; rw [h a] at hp; cases hp
      rw [mget, if_neg hj, ih]
    · exact ih

theorem powerLoss_leaves (s : State) (torn : Bool) :
    ∃ t, execPowerLoss torn s = .next t ∧ BareAfter s t ∧ t.dev.regs = [] ∧ t.mem.poison = [] ∧ (∀ a, inTier a = true → t.homeByte a = blankByte)
      ∧ ∃ l, t.dev.badList = s.dev.badList ++ l ∧ (torn = false → l = []) ∧ (s.dev.mgmt = none → l = []) ∧ l.length ≤ 1 := by
  refine ⟨_, rfl, (s.free.2).bareAfter_reset _ _ _ _ _ _ _, rfl, rfl, ?_, _, rfl, ?_, ?_, ?_⟩
  · intro a ha
    exact mget_filter_gone _ _ _ (fun b => by show (!inTier a) = false; rw [ha]; rfl) _
  · rintro rfl; rfl
  · intro hm
    show (match torn, s.dev.mgmt with | true, some m => _ | _, _ => _) = _
    rw [hm]; cases torn <;> rfl
  · dsimp only
    split
    · split <;> simp
    · simp

/-! ### Recovery -/

theorem State.regWrite_rcvgo (s : State) : s.regWrite 0x10 0 1 = s.recover := by
  have h : devReg? 0x10 = some .rcvgo := rfl
  unfold State.regWrite
  rw [h]
  exact if_pos ⟨by decide, by decide⟩

theorem State.recover_ok (s : State) (h : (s.reg 0).getLsbD 0 = true) : s.recover = s := if_pos h

/-- The image that a recovery verifies. -/
def State.recoveryImage? (s : State) : Option (List Byte × List Byte × List Byte × Nat) :=
  let pa := fld (s.reg 8) 12 36 * 2 ^ 12
  if inHost pa 1 then Config.recoveryImage (s.mem.bytes.filter fun c => decide (0x100000000000 ≤ c.1) && decide (c.1 < 0x800000000000)) pa else none

theorem State.recover_none (s : State) (h : (s.reg 0).getLsbD 0 = false) (hi : s.recoveryImage? = none) :
    (s.recover.reg 0).toNat = 8 ∧ s.recover.dev.running = s.dev.running := by
  have he : s.recover = s.bootFail 0 4 := by
    unfold State.recover
    rw [if_neg (ne_true_of_eq_false h)]
    unfold State.recoveryImage? at hi
    simp only [hi]
  rw [he, State.reg_bootFail]
  exact ⟨by decide, rfl⟩

theorem State.recover_some (s : State) (h : (s.reg 0).getLsbD 0 = false) {img key sig : List Byte} {ver : Nat}
    (hi : s.recoveryImage? = some (img, key, sig, ver)) : let e := imageFail s.dev.sec s.dev.rollback img key sig ver
    if e = 0 then (s.recover.reg 0).toNat = 1 ∧ s.recover.dev.running = [sha3Word img]
    else (s.recover.reg 0).toNat = 2 * e ∧ s.recover.dev.running = s.dev.running := by
  intro e
  have he : s.recover = if e ≠ 0 then s.bootFail 0 e else (({ s with dev := { s.dev with running := [sha3Word img] } }).setReg 0 1).readBadList := by
    unfold State.recover
    rw [if_neg (ne_true_of_eq_false h)]
    unfold State.recoveryImage? at hi
    simp only [hi]
    rfl
  by_cases h0 : e = 0
  · rw [if_pos h0, he, if_neg (not_not.2 h0), State.readBadList_eq]
    refine ⟨?_, rfl⟩
    exact congrArg BitVec.toNat ((State.reg_congr rfl 0).trans (State.reg_setReg_same { s with dev := { s.dev with running := [sha3Word img] } } 0 1))
  · rw [if_neg h0, he, if_pos h0, State.reg_bootFail]
    refine ⟨?_, rfl⟩
    have hw : ∀ n ≤ 3, (bootFailWord 0 n).toNat = 2 * n := by decide
    exact hw e (imageFail_le _ _ _ _ _ _)

/-! ### Shootdowns that end -/

/-- Shootdowns that end change the list of shootdowns, the cached completions and TLBICTL. -/
theorem State.finishShoots_eq (s : State) : ∃ regs ats, s.finishShoots = { s with
      tr := { s.tr with shoots := s.tr.shoots.filter (fun k => decide (k.pend ≠ 0)), ats }
      dev := { s.dev with regs } } ∧ ∀ o, o ≠ tlbiOff → mget (regReset o) regs o = s.reg o := by
  have hother : ∀ (v : DWord) o, o ≠ tlbiOff → mget (regReset o) (mset (regReset tlbiOff) s.dev.regs tlbiOff v) o = s.reg o := by
    intro v o ho
    rw [mget_mset_ne _ _ _ _ ho, State.reg_eq_mget]
  unfold State.finishShoots
  dsimp only
  split
  · split
    · exact ⟨_, _, rfl, hother _⟩
    · exact ⟨_, _, rfl, hother _⟩
  · exact ⟨s.dev.regs, _, rfl, fun o _ => (State.reg_eq_mget s o).symm⟩

/-! ### Dies -/

theorem State.homeByte_mapL2 (s : State) (g : L2Line → L2Line) (hg : ∀ x, (g x).line = x.line ∧ (g x).valid = x.valid ∧ (g x).bytes = x.bytes)
    {t : State} (hl : t.mem.l2 = s.mem.l2.map g) (hb : t.mem.bytes = s.mem.bytes) (a : Nat) : t.homeByte a = s.homeByte a := by
  have hx : t.l2? (a / 128) = (s.l2? (a / 128)).map g := by
    show t.mem.l2.find? _ = (s.mem.l2.find? _).map g
    rw [hl, List.find?_map]
    refine congrArg _ (congrFun (congrArg _ (funext fun x => ?_)) _)
    exact congrArg (fun n => decide (n = a / 128)) (hg x).1
  rw [State.homeByte_eq, State.homeByte_eq, hx, hb]
  cases s.l2? (a / 128) with
  | none => rfl
  | some x =>
    obtain ⟨-, hv, hbs⟩ := hg x
    show (if (g x).valid.getLsbD (secOf a) then mget blankByte (g x).bytes (a % 128) else _) = _
    rw [hv, hbs]; rfl

/-- A copy engine that is gone owns no line. -/
def L2Line.disown (gone : List Nat) (x : L2Line) : L2Line :=
  match x.owner with | some c => if c ∈ gone then { x with owner := none } else x | none => x

theorem L2Line.disown_same (gone : List Nat) (x : L2Line) :
    (x.disown gone).line = x.line ∧ (x.disown gone).valid = x.valid ∧ (x.disown gone).bytes = x.bytes := by
  unfold L2Line.disown
  split
  · split <;> exact ⟨rfl, rfl, rfl⟩
  · exact ⟨rfl, rfl, rfl⟩

theorem dieBit_getLsbD {d : Nat} (hd : d < 8) : (dieBit d).getLsbD d = true := by
  rw [dieBit, BitVec.getLsbD_ofNat, Nat.testBit_two_pow_self, decide_eq_true hd]; rfl

/-- A die in reset has acknowledged every shootdown. -/
def State.ackAll (s : State) (d : Nat) : State :=
  { s with
    dev := { s.dev with dieRst := s.dev.dieRst ++ [d] }
    tr := { s.tr with shoots := s.tr.shoots.map fun (k : Shoot) => { k with pend := k.pend &&& ~~~dieBit d } } }

theorem execDieReset_eq (s : State) {d : Nat} (h : d ∉ s.dev.dieRst) :
    execDieReset d s = .next (if min (s.dieOpen d) (2 ^ 64 - 1) = 0 then (((s.endDie d).dropDie d).ackAll d).finishShoots
      else ((((s.endDie d).dropDie d).ackAll d).finishShoots).report 14 d 255 none [d, min (s.dieOpen d) (2 ^ 64 - 1)] []) := if_neg h

/-- What a die reset leaves of the die. -/
structure DieEnded (s : State) (d : Nat) (t : State) : Prop where
  rst : t.dev.dieRst = s.dev.dieRst ++ [d]
  flights : ∀ f ∈ t.flights, dieOf f.core = d → f.place = .ended ∧ f.ops = [] ∧ f.wq = [] ∧ f.residual = [] ∧ f.trap = none
  wgs : t.wgs = s.wgs.filter (fun w => dieOf w.core ≠ d)
  cmds : t.cmds = s.cmds.filter (fun c => dieOf c.core ≠ d)
  transit : t.mem.transit = s.mem.transit.filter (fun p => p.1 ≠ d)
  l1 : t.mem.l1 = s.mem.l1.filter (fun c => dieOf c.unit ≠ d)
  far : t.mem.far = s.mem.far.filter (fun c => c.unit ≠ d)
  tlb : t.tr.tlb = s.tr.tlb.filter (fun e => dieOf e.core ≠ d)
  shoots : ∀ k ∈ t.tr.shoots, k.pend.getLsbD d = false
  home : ∀ a, t.homeByte a = s.homeByte a

theorem State.dieEnded (s : State) {d : Nat} (hd : d < 8) :
    DieEnded s d (((s.endDie d).dropDie d).ackAll d).finishShoots ∧ (((s.endDie d).dropDie d).ackAll d).finishShoots.dev.repQueue = s.dev.repQueue := by
  obtain ⟨regs, ats, he, -⟩ := State.finishShoots_eq (((s.endDie d).dropDie d).ackAll d)
  rw [he]
  refine ⟨⟨rfl, ?_, rfl, rfl, rfl, rfl, rfl, rfl, ?_, ?_⟩, rfl⟩
  · intro f hf hfd
    obtain ⟨g, -, rfl⟩ := List.mem_map.1 hf
    by_cases h : dieOf g.core = d
    · simp [h]
    · simp only [h, if_false] at hfd
  · intro k hk
    obtain ⟨hk, -⟩ := List.mem_filter.1 hk
    obtain ⟨j, -, rfl⟩ := List.mem_map.1 hk
    show (j.pend &&& ~~~dieBit d).getLsbD d = false
    rw [BitVec.getLsbD_and, BitVec.getLsbD_not, dieBit_getLsbD hd]; simp
  · exact State.homeByte_mapL2 s (L2Line.disown ((s.cmds.filter fun c => decide (dieOf c.core = d)).map Cmd.id)) (L2Line.disown_same _) rfl rfl

theorem DieEnded.report {s t : State} {d : Nat} (h : DieEnded s d t) (k n c : Nat) (l : Option Launch) (p : List Nat) (fr : List DWord) :
    DieEnded s d (t.report k n c l p fr) :=
  ⟨h.rst, h.flights, h.wgs, h.cmds, h.transit, h.l1, h.far, h.tlb, h.shoots, h.home⟩

theorem dieReset_leaves (s : State) {d : Nat} (hd : d < 8) (h : d ∉ s.dev.dieRst) :
    ∃ t, execDieReset d s = .next t ∧ DieEnded s d t ∧ (s.dieOpen d = 0 → t.dev.repQueue = s.dev.repQueue)
      ∧ (0 < s.dieOpen d → s.dieOpen d < 2 ^ 64 → ∃ r, t.dev.repQueue = s.dev.repQueue ++ [r] ∧ r.kind = 14 ∧ r.p = [BitVec.ofNat 64 d, BitVec.ofNat 64 (s.dieOpen d)]) := by
  obtain ⟨he, hq⟩ := s.dieEnded hd
  rw [execDieReset_eq s h]
  by_cases h0 : s.dieOpen d = 0
  · rw [if_pos (by rw [h0]; rfl)]
    exact ⟨_, rfl, he, fun _ => hq, fun hp => absurd hp (by omega)⟩
  · rw [if_neg (by omega)]
    refine ⟨_, rfl, he.report _ _ _ _ _ _, fun e => absurd e h0, fun _ hlt => ?_⟩
    rw [Nat.min_eq_left (by omega)]
    exact ⟨_, congrArg (· ++ [_]) hq, rfl, rfl⟩

/-! ### Security states and keys -/

theorem State.setDebug_zero (s : State) : (s.setDebug 0).dev.sec = s.dev.sec ∧ (s.setDebug 0).dev.dbg = 0 ∧ (s.setDebug 0).mem = s.mem := by
  unfold State.setDebug
  dsimp only
  rw [if_neg (by simp)]
  split <;> exact ⟨rfl, rfl, rfl⟩

end Sys2Proof.Machine
end

section
open Sys2Proof Sys2Proof.Machine

/-- Settles O50: each reset by the lemma about it; the recovery by the image it finds. -/
theorem resetsBootAndSecurityStates : Obligations.ResetsBootAndSecurityStates := by
  unfold Obligations.ResetsBootAndSecurityStates
  intro s bare
  refine ⟨?_, ?_, ?_, ?_, ?_, ?_, ?_, ?_, ?_, ?_⟩
  · cases h : bootCheck s.dev.sec s.dev.rollback 0 s.dev.images with
    | none => exact moduleReset_boots s h
    | some p => exact moduleReset_fails s h
  · exact powerLoss_leaves s
  · intro h
    show Host.Outcome.next (s.regWrite 0x10 0 1) = _
    rw [State.regWrite_rcvgo, s.recover_ok h]
  · intro h
    have he : exec .recoveryGo s = .next s.recover := by
      show Host.Outcome.next (s.regWrite 0x10 0 1) = _
      rw [State.regWrite_rcvgo]
    dsimp only
    cases hi : s.recoveryImage? with
    | none =>
      have hp := s.recover_none h hi
      unfold State.recoveryImage? at hi
      dsimp only at hi
      rw [hi]
      exact ⟨_, he, hp⟩
    | some p =>
      obtain ⟨img, key, sig, ver⟩ := p
      have hp := s.recover_some h hi
      unfold State.recoveryImage? at hi
      dsimp only at hi
      rw [hi]
      exact ⟨_, he, hp⟩
  · intro d hd h
    obtain ⟨t, ht, he, hz, hl⟩ := dieReset_leaves s hd h
    exact ⟨t, ht, he.rst, he.flights, he.wgs, he.cmds, he.transit, he.l1, he.far, he.tlb, he.shoots, he.home, hz, hl⟩
  · intro d
    refine ⟨_, rfl, ?_, ?_, ?_, rfl⟩
    · exact fun h => by simpa using (List.mem_filter.1 h).2
    · exact fun e h => by simpa using (List.mem_filter.1 h).2
    · exact fun e h => by simpa using (List.mem_filter.1 h).2
  · intro h
    obtain ⟨h1, h2, h3⟩ := State.setDebug_zero { s with dev := { s.dev with sec := s.dev.sec + 1 } }
    exact ⟨_, if_pos h, h1, h2, h3⟩
  · intro h
    exact if_neg (Nat.not_lt.2 h)
  · intro n v key _ hd hc
    refine if_neg ?_
    rintro (h | h)
    · exact hd h
    · obtain ⟨c, hm, hk⟩ := List.any_eq_true.1 h
      rw [hc c hm] at hk; cases hk
  · intro n v key h
    exact if_pos (h.imp id List.any_eq_true.2)

end

section
/-! SUPPORT. What a write of each register leaves in its plain case (R445, Table 18-10). -/

namespace Sys2Proof.Machine

open Sys2Proof

/-- The bits of a register that a mask names take those of a word. -/
def State.putBits (s : State) (o : Nat) (m w : DWord) : State := s.setReg o (merge (s.reg o) m w)

theorem State.setBits_eq_putBits (s : State) (o : Nat) (m : DWord) : s.setBits o m = s.putBits o m m := congrArg _ (or_eq_merge _ _)

/-- A write of any register but MGMTCMD and RCVGO. -/
theorem State.regWrite_eq_regPut (s : State) {o : Nat} {r : DevReg} (h : devReg? o = some r) (h1 : r ≠ .mgmtcmd) (h2 : r ≠ .rcvgo)
    (half : Nat) (w : DWord) : s.regWrite o half w = s.regPut o half w := by
  unfold State.regWrite
  rw [h]
  split
  · rename_i e; exact absurd (Option.some.inj e) h1
  · rename_i e; exact absurd (Option.some.inj e) h2
  · rfl

theorem State.regWrite_none (s : State) {o : Nat} (h : devReg? o = none) (half : Nat) (w : DWord) : s.regWrite o half w = s := by
  unfold State.regWrite State.regPut
  rw [h]

/-! ### Tables -/

theorem State.arsWrite_eq (s : State) {n w : Nat} (hn : n < 64) (hw : w < 2) (v : DWord) :
    s.regWrite (0x10000 + 16 * n + 8 * w) 0 v = if (s.reg (0x10000 + 16 * n)).getLsbD 1 then s
      else if s.dev.arsBusy then s.setReg 0x600 (s.reg 0x600 ||| 8)
      else s.putBits (0x10000 + 16 * n + 8 * w) (if w = 0 then 0xFFFFFFF3 else BitVec.allOnes 64) v := by
  rw [s.regWrite_eq_regPut (devReg?_ars hn hw) nofun nofun]
  simp only [State.regPut, devReg?_ars hn hw, rw_eq_merge, and_halfMask_zero]
  by_cases hl : (s.reg (0x10000 + 16 * n)).getLsbD 1 = true
  · rw [if_pos hl, if_pos hl]
  rw [if_neg hl, if_neg hl]
  refine congrArg (fun t => if s.dev.arsBusy = true then s.setReg 0x600 (s.reg 0x600 ||| 8) else t) ?_
  by_cases h0 : w = 0
  · subst h0
    rw [if_pos rfl, if_pos rfl]
    refine congrArg _ (BitVec.eq_of_getLsbD_eq fun i hi => ?_)
    have hm : ∀ i < 64, (0xFFFFFFF3 : DWord).getLsbD i = ((0xFFFFFFF1 : DWord).getLsbD i || decide (i = 1)) ∧
        (2 : DWord).getLsbD i = decide (i = 1) ∧ ((0xFFFFFFF1 : DWord).getLsbD i = true → i ≠ 1) := by decide
    obtain ⟨h1, h2, h3⟩ := hm i hi
    rw [BitVec.getLsbD_or, merge_getLsbD, merge_getLsbD, BitVec.getLsbD_and, h1, h2]
    by_cases hi1 : i = 1
    · subst hi1
      rw [Bool.not_eq_true] at hl
      simp only [Nat.mul_zero, Nat.add_zero, hl]
      cases v.getLsbD 1 <;> decide
    · simp only [hi1, decide_false, Bool.and_false, Bool.or_false]
  · rw [if_neg h0, if_neg h0]; rfl

theorem span_zero_one : span 0 1 = 1 := by decide

theorem State.frmapWrite_eq (s : State) {n : Nat} (hn : n < 8) (v : DWord) :
    s.regWrite (frmapOff n + 8) 0 v = if v.getLsbD 0 = false ∧ (s.reg (frmapOff n + 8)).getLsbD 1 = false then s.putBits (frmapOff n + 8) 1 0 else s := by
  rw [s.regWrite_eq_regPut (devReg?_frmap hn) nofun nofun]
  simp only [State.regPut, devReg?_frmap hn, setFld_bit_eq_merge, span_zero_one]
  simp [State.putBits]

theorem State.tlbiaddrWrite_eq (s : State) (v : DWord) :
    s.regWrite 0x700 0 v = if (s.reg 0x708).getLsbD 3 then s.putBits 0x708 0x20 0x20 else s.putBits 0x700 0x0000FFFFFFFF0000 v := by
  show (if (s.reg 0x708).getLsbD 3 then s.setBits 0x708 0x20 else s.setReg 0x700 (rw (s.reg 0x700) 0x0000FFFFFFFF0000 v 0)) = _
  rw [State.setBits_eq_putBits, rw_eq_merge, and_halfMask_zero]; rfl

theorem State.tbcfgWrite_eq (s : State) {d n : Nat} (hd : d < 8) (hn : n < 16) (v : DWord) :
    s.regWrite (tbcfgOff d n) 0 v = { s with dev := { s.dev with tbNext := mset 0 s.dev.tbNext (16 * d + n) (setFld (merge (s.devRead8 (tbcfgOff d n)) 0x0000FFFFFFFF000F v) 63 1 1) } } := by
  rw [s.regWrite_eq_regPut (devReg?_tbcfg hd hn) nofun nofun]
  simp only [State.regPut, devReg?_tbcfg hd hn, rw_eq_merge, and_halfMask_zero]

/-! ### Queues -/

theorem State.qcfgWrite_eq (s : State) {q : Nat} (hq : q < 256) (v : DWord) :
    s.regWrite (qOff q) 0 v = if (s.reg (qOff q)).getLsbD 0 then (if v.getLsbD 0 then s else s.putBits (qOff q) 1 0)
      else if v.getLsbD 0 ∧ ¬ (2 ≤ fld v 4 4 ∧ fld v 4 4 ≤ 12 ∧ fld v 8 8 ≠ 0) then s.putBits (qOff q) 0xFFFFFFFFFFFFFFF7 (v &&& ~~~1)
      else s.putBits (qOff q) 0xFFFFFFFFFFFFFFF7 v := by
  rw [s.regWrite_eq_regPut (devReg?_qcfg hq) nofun nofun]
  have hm : ∀ i < 64, i ≠ 3 → (0xFFFFFFFFFFFFFFF7 : DWord).getLsbD i = true := by decide
  have f4 : ∀ c, fld (merge c 0xFFFFFFFFFFFFFFF7 v) 4 4 = fld v 4 4 := fun c => fld_merge (fun i _ => hm _ (by omega) (by omega)) v
  have f8 : ∀ c, fld (merge c 0xFFFFFFFFFFFFFFF7 v) 8 8 = fld v 8 8 := fun c => fld_merge (fun i _ => hm _ (by omega) (by omega)) v
  have b0 : ∀ c, (merge c 0xFFFFFFFFFFFFFFF7 v).getLsbD 0 = v.getLsbD 0 := fun c => by rw [merge_getLsbD]; rfl
  have hv : setFld v 0 1 0 = v &&& ~~~1 := by
    rw [setFld_bit_eq_merge, span_zero_one]; simp [merge]
  simp only [State.regPut, devReg?_qcfg hq, State.qcfgPut, rw_eq_merge, and_halfMask_zero, f4, f8, b0,
    setFld_merge (cur := s.reg (qOff q)) (m := 0xFFFFFFFFFFFFFFF7) (lo := 0) (n := 1) (fun i _ => hm _ (by omega) (by omega)), hv]
  by_cases hl : (s.reg (qOff q)).getLsbD 0 = true
  · rw [if_pos hl, if_pos hl, setFld_bit_eq_merge, span_zero_one]
    cases v.getLsbD 0 <;> rfl
  · rw [if_neg hl, if_neg hl]
    have hc : (v.getLsbD 0 && !(decide (2 ≤ fld v 4 4) && decide (fld v 4 4 ≤ 12) && decide (fld v 8 8 ≠ 0))) = true ↔
        v.getLsbD 0 = true ∧ ¬ (2 ≤ fld v 4 4 ∧ fld v 4 4 ≤ 12 ∧ fld v 8 8 ≠ 0) := by
      simp only [Bool.and_eq_true, Bool.not_eq_true', Bool.and_eq_false_iff, decide_eq_false_iff_not]
      tauto
    simp only [hc]
    split <;> rfl

theorem State.qtailWrite_eq (s : State) {q : Nat} (hq : q < 256) (t : BitVec 32) :
    s.regWrite (qOff q + 8) 2 (BitVec.ofNat 64 (t.toNat * 2 ^ 32)) = if (s.reg (qOff q)).getLsbD 2 then s
      else if 2 ^ fld (s.reg (qOff q)) 4 4 < (t.toNat + 2 ^ 32 - fld (s.reg (qOff q + 8)) 0 32) % 2 ^ 32 then s.queueErr q (t.toNat % 2 ^ 16) 11
      else s.putBits (qOff q + 8) (~~~0xFFFFFFFF) (BitVec.ofNat 64 (t.toNat * 2 ^ 32)) := by
  rw [s.regWrite_eq_regPut (devReg?_qptr hq) nofun nofun]
  have ht := t.isLt
  have hf : fld (BitVec.ofNat 64 (t.toNat * 2 ^ 32)) 32 32 = t.toNat := by
    rw [fld_ofNat _ _ _ _ (by decide)]; omega
  have hs : BitVec.ofNat 64 t.toNat <<< 32 = BitVec.ofNat 64 (t.toNat * 2 ^ 32) := by
    apply BitVec.eq_of_toNat_eq
    rw [BitVec.toNat_shiftLeft, BitVec.toNat_ofNat, BitVec.toNat_ofNat, Nat.shiftLeft_eq]; omega
  have hm : span 32 32 = ~~~0xFFFFFFFF := by decide
  simp only [State.regPut, devReg?_qptr hq, hf, State.tailPut, setFld_eq_merge, hs, hm, State.putBits, show ¬ (2 : Nat) = 1 by decide, if_false]

theorem State.qownWrite_eq (s : State) {q : Nat} (hq : q < 256) (v : DWord) :
    s.regWrite (qOff q + 32) 0 v = if (s.reg (qOff q)).getLsbD 0 then s else s.putBits (qOff q + 32) 0x1F v := by
  rw [s.regWrite_eq_regPut (devReg?_qown hq) nofun nofun]
  simp only [State.regPut, devReg?_qown hq, rw_eq_merge, and_halfMask_zero]
  rfl

theorem State.hdropWrite_eq (s : State) {q : Nat} (hq : q < 256) : s.regWrite (hdropOff q) 0 0 = s.setReg (hdropOff q) 0 := by
  rw [s.regWrite_eq_regPut (devReg?_hdrop hq) nofun nofun]
  simp only [State.regPut, devReg?_hdrop hq]

theorem State.tbparkWrite_eq (s : State) {d k n : Nat} (hd : d < 8) (hk : k < 16) (hn : n < 16) :
    s.regWrite (tbparkOff d k n) 0 0 = s.setReg (tbparkOff d k n) 0 := by
  rw [s.regWrite_eq_regPut (devReg?_tbpark hd hk hn) nofun nofun]
  simp only [State.regPut, devReg?_tbpark hd hk hn]

/-! ### Control registers -/

theorem State.mgmtargWrite_eq (s : State) {k : Nat} (hk : k < 4) (v : DWord) :
    s.regWrite (0x410 + 8 * k) 0 v = if (s.reg 0x408).getLsbD 0 then s.putBits 0x408 4 4 else s.setReg (0x410 + 8 * k) v := by
  rw [s.regWrite_eq_regPut (devReg?_mgmtarg hk) nofun nofun]
  simp only [State.regPut, devReg?_mgmtarg hk, State.setBits_eq_putBits, rw_eq_merge, and_halfMask_zero, allOnes, merge_allOnes]

theorem State.flushReports_none (s : State) (h : s.dev.repHeld = []) : s.flushReports = s := by
  unfold State.flushReports
  split
  · rw [h, List.foldl_nil, ← h]
  · rfl

theorem State.repcfgWrite_eq (s : State) (h : s.dev.repHeld = []) (v : DWord) :
    s.regWrite 0x300 0 v = s.putBits 0x300 0xFFFFFFFFF000FC1F (setFld v 1 4 (max 4 (fld v 1 4))) := by
  have hm : ∀ i < 4, (0xFFFFFFFFF000FC1F : DWord).getLsbD (1 + i) = true := by decide
  show (s.setReg 0x300 (setFld (rw (s.reg 0x300) 0xFFFFFFFFF000FC1F v 0) 1 4 (max 4 (fld (rw (s.reg 0x300) 0xFFFFFFFFF000FC1F v 0) 1 4)))).flushReports = _
  rw [State.flushReports_none (s.setReg _ _) h, rw_eq_merge, and_halfMask_zero, fld_merge hm, setFld_merge hm]
  rfl

theorem State.pwrctlParkWrite_eq (s : State) (v : DWord) :
    s.regWrite 0x100 2 v = if fld v 32 8 = 255 then s.setReg 0x100 (s.reg 0x100) else s.putBits 0x100 0xFF00000000 v := by
  have h1 : rw (s.reg 0x100) 0xF0000 v 2 = s.reg 0x100 := by
    rw [rw_eq_merge, show (0xF0000 : DWord) &&& halfMask 2 = 0 by decide, merge_zero]
  have h2 : w1c (s.reg 0x100) 0x8 v 2 = s.reg 0x100 := by
    rw [w1c_eq_merge, BitVec.and_assoc, BitVec.and_comm v, ← BitVec.and_assoc, show (0x8 : DWord) &&& halfMask 2 = 0#64 by decide, BitVec.zero_and]
    exact merge_zero _ _
  have hr : devReg? 0x100 = some .pwrctl := rfl
  rw [s.regWrite_eq_regPut hr nofun nofun]
  simp only [State.regPut, hr, h1, h2, ne_eq, not_true_eq_false, false_and, if_false]
  by_cases h : fld v 32 8 = 255
  · rw [if_neg (by simp [h]), if_pos h]
  · rw [if_pos ⟨by decide, h⟩, if_neg h, State.putBits, setFld_eq_merge, show span 32 8 = 0xFF00000000 by decide]
    refine congrArg _ (merge_congr rfl fun i hi => ?_)
    have hm : ∀ i < 64, (0xFF00000000 : DWord).getLsbD i = true → 32 ≤ i ∧ i < 40 := by decide
    have hi64 : i < 64 := by
      rcases Nat.lt_or_ge i 64 with h | h
      · exact h
      · rw [BitVec.getLsbD_of_ge _ _ h] at hi; exact absurd hi (by decide)
    obtain ⟨h3, h4⟩ := hm i hi64 hi
    rw [BitVec.getLsbD_shiftLeft, BitVec.getLsbD_ofNat, fld_testBit]
    simp only [hi64, Nat.not_lt.2 h3, show i - 32 < 64 by omega, show i - 32 < 8 by omega, decide_true, decide_false, Bool.not_false, Bool.true_and,
      Nat.add_sub_cancel' h3]

/-! ### Writes of one half or both -/

theorem State.evtWrite_eq (s : State) {n : Nat} (hn : n < 1024) (half : Nat) (v : DWord) :
    s.regWrite (0x24000 + 8 * n) half v = s.putBits (0x24000 + 8 * n) (0xFFFFFFFF &&& halfMask half) v := by
  rw [s.regWrite_eq_regPut (devReg?_evt hn) nofun nofun]
  simp only [State.regPut, devReg?_evt hn, rw_eq_merge]
  rfl

theorem State.readOnlyWrite_eq (s : State) {o : Nat} (h : o ∈ [0, 0x208, 0x308, 0x430]) (half : Nat) (v : DWord) : s.regWrite o half v = s := by
  simp only [List.mem_cons, List.not_mem_nil, or_false] at h
  rcases h with rfl | rfl | rfl | rfl <;> rfl

theorem State.qstatWrite_eq (s : State) {q : Nat} (hq : q < 256) (half : Nat) (v : DWord) : s.regWrite (qOff q + 16) half v = s := by
  rw [s.regWrite_eq_regPut (devReg?_qstat hq) nofun nofun]
  simp only [State.regPut, devReg?_qstat hq]

theorem State.qtrapWrite_eq (s : State) {q : Nat} (hq : q < 256) (half : Nat) (v : DWord) :
    s.regWrite (qOff q + 24) half v = s.putBits (qOff q + 24) (0x0000FFFFFFFFFFFD &&& halfMask half) v := by
  rw [s.regWrite_eq_regPut (devReg?_qtrap hq) nofun nofun]
  simp only [State.regPut, devReg?_qtrap hq, rw_eq_merge]
  rfl

/-- A mask in the lower half is the same for a write of that half and of both. -/
theorem and_halfMask_low {m : DWord} (h1 : m &&& 0xFFFFFFFF = m) {half : Nat} (h : half < 3) (h2 : half ≠ 2) : m &&& halfMask half = m := by
  obtain rfl | rfl : half = 0 ∨ half = 1 := by omega
  · exact and_halfMask_zero m
  · exact h1

theorem State.wdcfgWrite_eq (s : State) {half : Nat} (h : half < 3) (h2 : half ≠ 2) (v : DWord) :
    s.regWrite 0x108 half v = s.putBits 0x108 0xFD (setFld v 2 6 (max 20 (min 40 (fld v 2 6)))) := by
  have hm : ∀ i < 6, (0xFD : DWord).getLsbD (2 + i) = true := by decide
  show s.setReg 0x108 (setFld (rw (s.reg 0x108) 0xFD v half) 2 6 (max 20 (min 40 (fld (rw (s.reg 0x108) 0xFD v half) 2 6)))) = _
  rw [rw_eq_merge, and_halfMask_low (by decide) h h2, fld_merge hm, setFld_merge hm]
  rfl

theorem State.rascfgWrite_eq (s : State) {half : Nat} (h : half < 3) (h2 : half ≠ 2) (v : DWord) :
    s.regWrite 0x110 half v = s.putBits 0x110 0xFFFF (setFld (setFld v 0 8 (max 1 (fld v 0 8))) 8 8 (max 1 (fld v 8 8))) := by
  have hm : ∀ i < 16, (0xFFFF : DWord).getLsbD i = true := by decide
  have h0 : ∀ i < 8, (0xFFFF : DWord).getLsbD (0 + i) = true := fun i hi => hm _ (by omega)
  have h8 : ∀ i < 8, (0xFFFF : DWord).getLsbD (8 + i) = true := fun i hi => hm _ (by omega)
  show s.setReg 0x110 (setFld (setFld (rw (s.reg 0x110) 0xFFFF v half) 0 8 (max 1 (fld (rw (s.reg 0x110) 0xFFFF v half) 0 8))) 8 8
    (max 1 (fld (rw (s.reg 0x110) 0xFFFF v half) 8 8))) = _
  rw [rw_eq_merge, and_halfMask_low (by decide) h h2, fld_merge h0, fld_merge h8, setFld_merge h0, setFld_merge h8]
  rfl

end Sys2Proof.Machine
end

section
/-! SUPPORT. FLCFG (R86): what its write leaves, and which lines a change of ways drops and evicts. -/

namespace Sys2Proof.Machine

open Sys2Proof

variable {α : Type}

/-! ### The write -/

/-- OVERFLOW of FLCFG, cleared by a one. -/
def flcfgDrop (v : DWord) : DWord := if v.getLsbD 6 then 0x40 else 0

theorem flcfg_drop_eq (v : DWord) : (0x40 : DWord) &&& v = flcfgDrop v := by
  refine BitVec.eq_of_getLsbD_eq fun i hi => ?_
  have hm : ∀ i < 64, (0x40 : DWord).getLsbD i = decide (i = 6) := by decide
  rw [BitVec.getLsbD_and, hm i hi, flcfgDrop]
  by_cases h : i = 6
  · subst h
    cases v.getLsbD 6 <;> rfl
  · cases v.getLsbD 6
    · simp [h]
    · rw [if_pos rfl, hm i hi, decide_eq_false h, Bool.false_and]

theorem flcfgDrop_getLsbD (v : DWord) (i : Nat) (hi : i < 64) : (flcfgDrop v).getLsbD i = (decide (i = 6) && v.getLsbD 6) := by
  have hm : ∀ i < 64, (0x40 : DWord).getLsbD i = decide (i = 6) := by decide
  rw [flcfgDrop]
  cases v.getLsbD 6
  · simp
  · rw [if_pos rfl, hm i hi, Bool.and_true]

/-- FLCFG after a write that is taken, but for BUSY. -/
def flcfgNew (cur v : DWord) : DWord := merge (merge cur 0x1F v) (flcfgDrop v) 0

theorem flcfgNew_getLsbD (cur v : DWord) (i : Nat) (hi : i < 64) :
    (flcfgNew cur v).getLsbD i = if i < 5 then v.getLsbD i else if i = 6 then (!v.getLsbD 6 && cur.getLsbD 6) else cur.getLsbD i := by
  have hm : ∀ i < 64, (0x1F : DWord).getLsbD i = decide (i < 5) := by decide
  rw [flcfgNew, merge_getLsbD, merge_getLsbD, flcfgDrop_getLsbD v i hi, hm i hi]
  by_cases h5 : i < 5
  · have h6 : i ≠ 6 := by omega
    simp [h5, h6]
  · by_cases h6 : i = 6
    · subst h6
      cases v.getLsbD 6 <;> simp
    · simp [h5, h6]

theorem fld_flcfgNew (cur v : DWord) : fld (flcfgNew cur v) 0 5 = fld v 0 5 :=
  fld_congr fun i hi => by rw [flcfgNew_getLsbD _ _ _ (by omega), if_pos (by omega)]

theorem flcfgNew_keep {cur v : DWord} (h : fld v 0 5 = fld cur 0 5) : flcfgNew cur v = merge cur (flcfgDrop v) 0 := by
  refine BitVec.eq_of_getLsbD_eq fun i hi => ?_
  rw [flcfgNew_getLsbD _ _ _ hi, merge_getLsbD, flcfgDrop_getLsbD _ _ hi]
  by_cases h5 : i < 5
  · have hb := congrArg (fun n => n.testBit i) h
    simp only [fld_testBit, h5, decide_true, Bool.true_and, Nat.zero_add] at hb
    have h6 : i ≠ 6 := by omega
    simp [h5, h6, hb]
  · by_cases h6 : i = 6
    · subst h6
      cases v.getLsbD 6 <;> simp
    · simp [h5, h6]

theorem flcfgNew_busy (cur v : DWord) : setFld (flcfgNew cur v) 7 1 1 = merge cur (0x9F ||| flcfgDrop v) (0x80 ||| v &&& 0x1F) := by
  refine BitVec.eq_of_getLsbD_eq fun i hi => ?_
  have hm : ∀ i < 64, (0x9F : DWord).getLsbD i = (decide (i < 5) || decide (i = 7)) ∧ (0x80 : DWord).getLsbD i = decide (i = 7)
      ∧ (0x1F : DWord).getLsbD i = decide (i < 5) := by decide
  obtain ⟨h9, h8, h1⟩ := hm i hi
  rw [setFld_one _ _ _ _ (by decide), merge_getLsbD, BitVec.getLsbD_or, BitVec.getLsbD_or, BitVec.getLsbD_and, h9, h8, h1,
    flcfgDrop_getLsbD _ _ hi, flcfgNew_getLsbD _ _ _ hi]
  by_cases h7 : i = 7
  · subst h7; simp
  · by_cases h5 : i < 5
    · have h6 : i ≠ 6 := by omega
      simp [h5, h6, h7]
    · by_cases h6 : i = 6
      · subst h6
        cases v.getLsbD 6 <;> simp
      · simp [h5, h6, h7]

theorem State.flcfgWrite_eq (s : State) {d : Nat} (hd : d < 8) (v : DWord) :
    s.regWrite (flcfgOff d) 0 v = if (s.reg (flcfgOff d)).getLsbD 7 ∨ 16 < fld v 0 5 then s.putBits (flcfgOff d) 0x40 0x40
      else if fld v 0 5 = fld (s.reg (flcfgOff d)) 0 5 then s.putBits (flcfgOff d) (flcfgDrop v) 0
      else { s.putBits (flcfgOff d) (0x9F ||| flcfgDrop v) (0x80 ||| v &&& 0x1F) with
        dev := { (s.putBits (flcfgOff d) (0x9F ||| flcfgDrop v) (0x80 ||| v &&& 0x1F)).dev with
          flWas := mset 0 s.dev.flWas d (fld (s.reg (flcfgOff d)) 0 5) } } := by
  rw [s.regWrite_eq_regPut (devReg?_flcfg hd) nofun nofun]
  have hn : w1c (rw (s.reg (flcfgOff d)) 0x1F v 0) 0x40 v 0 = flcfgNew (s.reg (flcfgOff d)) v := by
    rw [rw_eq_merge, w1c_eq_merge, and_halfMask_zero, and_halfMask_zero, flcfg_drop_eq]; rfl
  simp only [State.regPut, devReg?_flcfg hd, State.flcfgPut, hn, fld_flcfgNew, flcfgNew_busy, State.setBits_eq_putBits, State.putBits,
    show ¬ (0 : Nat) = 2 by decide, if_false]
  by_cases hb : (s.reg (flcfgOff d)).getLsbD 7 = true ∨ 16 < fld v 0 5
  · rw [if_pos hb, if_pos hb]
  · rw [if_neg hb, if_neg hb]
    by_cases hf : fld v 0 5 = fld (s.reg (flcfgOff d)) 0 5
    · rw [if_pos hf, if_pos hf, flcfgNew_keep hf]
    · rw [if_neg hf, if_neg hf]

/-! ### The lines that go -/

theorem map_snd_enum (l : List α) : (enum l).map Prod.snd = l := List.map_snd_zip (by simp)

theorem enum_filter_sublist (l : List α) (p : Nat × α → Bool) : List.Sublist (((enum l).filter p).map Prod.snd) l := by
  conv_rhs => rw [← map_snd_enum l]
  exact List.filter_sublist.map _

theorem mem_enum_filter {l : List α} {p : Nat × α → Bool} {x : α} (hp : ∀ i, p (i, x) = true) (h : x ∈ l) : x ∈ ((enum l).filter p).map Prod.snd := by
  rw [← map_snd_enum l] at h
  obtain ⟨⟨i, y⟩, hm, rfl⟩ := List.mem_map.1 h
  exact List.mem_map_of_mem (List.mem_filter.2 ⟨hm, hp i⟩)

theorem of_mem_enum_filter {l : List α} {p : Nat × α → Bool} {x : α} (h : x ∈ ((enum l).filter p).map Prod.snd) : x ∈ l ∧ ∃ i, p (i, x) = true := by
  obtain ⟨⟨i, y⟩, hm, rfl⟩ := List.mem_map.1 h
  obtain ⟨hm, hp⟩ := List.mem_filter.1 hm
  refine ⟨?_, i, hp⟩
  rw [← map_snd_enum l]
  exact List.mem_map_of_mem hm

/-- What a dirty line keeps to itself agrees with the memory devices: its dirty sectors are valid, its clean ones hold their bytes. -/
def L2Line.Agrees (m : List Host.Cell) (x : L2Line) : Prop :=
  x.dirty &&& ~~~x.valid = 0 ∧ ∀ b < 128, x.valid.getLsbD (b / 32) = true → x.dirty.getLsbD (b / 32) = false →
    mget blankByte x.bytes b = cellGet m (128 * x.line + b)

/-- A dirty sector of such a line is valid. -/
theorem valid_of_dirty {x : L2Line} (h : x.dirty &&& ~~~x.valid = 0) {i : Nat} (hd : x.dirty.getLsbD i = true) : x.valid.getLsbD i = true := by
  have h0 := congrArg (fun w : BitVec 4 => w.getLsbD i) h
  have h4 : i < 4 := by
    rcases Nat.lt_or_ge i 4 with h | h
    · exact h
    · rw [BitVec.getLsbD_of_ge _ _ h] at hd; cases hd
  simp only [BitVec.getLsbD_and, BitVec.getLsbD_not, hd, h4, decide_true, Bool.true_and] at h0
  simpa using h0

/-- A line evicted after its dirty sectors are written back. -/
def State.evict (s : State) (x : L2Line) : State := (s.writeBack x).dropL2 x.line

@[simp] theorem State.evict_same (s : State) (x : L2Line) :
    (s.evict x).dev = s.dev ∧ (s.evict x).mem.l1 = s.mem.l1 ∧ (s.evict x).mem.far = s.mem.far ∧
    (s.evict x).mem.l2 = s.mem.l2.filter fun y => decide (y.line ≠ x.line) := ⟨rfl, rfl, rfl, rfl⟩

theorem State.homeByte_evict (s : State) {x : L2Line} (hx : s.l2? x.line = some x) (h : x.Agrees s.mem.bytes) (a : Nat) :
    (s.evict x).homeByte a = s.homeByte a := by
  obtain ⟨hdv, hag⟩ := h
  rw [State.homeByte_eq, State.homeByte_eq, State.evict, State.l2?_dropL2]
  show byteOf (s.writeBack x).mem.bytes (if a / 128 = x.line then none else s.l2? (a / 128)) a = _
  by_cases hal : a / 128 = x.line
  · have hx' : s.l2? (a / 128) = some x := by rw [hal, hx]
    rw [if_pos hal, hx']
    show cellGet (s.writeBack x).mem.bytes a = _
    rw [State.cellGet_writeBack]
    by_cases hd : x.dirty.getLsbD (secOf a) = true
    · rw [if_pos ⟨hal, hd⟩, byteOf_valid (valid_of_dirty hdv hd)]
    · rw [if_neg (fun e => hd e.2)]
      cases hv : x.valid.getLsbD (secOf a) with
      | false => rw [byteOf_invalid hv]
      | true =>
        rw [byteOf_valid hv, hag (a % 128) (by omega) hv (Bool.eq_false_iff.2 hd), show 128 * x.line + a % 128 = a by omega]
  · rw [if_neg hal]
    exact byteOf_congr (by rw [State.cellGet_writeBack, if_neg (fun e => hal e.1)]) _

@[simp] theorem foldl_evict_same (l : List L2Line) : ∀ s : State,
    (l.foldl State.evict s).dev = s.dev ∧ (l.foldl State.evict s).mem.l1 = s.mem.l1 ∧ (l.foldl State.evict s).mem.far = s.mem.far := by
  induction l with
  | nil => exact fun s => ⟨rfl, rfl, rfl⟩
  | cons x l ih => exact fun s => ih (s.evict x)

theorem mem_foldl_evict (l : List L2Line) (y : L2Line) : ∀ s : State,
    y ∈ (l.foldl State.evict s).mem.l2 ↔ y ∈ s.mem.l2 ∧ ∀ x ∈ l, y.line ≠ x.line := by
  induction l with
  | nil => intro s; simp
  | cons x l ih =>
    intro s
    rw [List.foldl_cons, ih, (s.evict_same x).2.2.2, List.mem_filter, List.forall_mem_cons, decide_eq_true_eq, and_assoc]

theorem homeByte_foldl_evict (a : Nat) (l : List L2Line) (hl : (l.map L2Line.line).Nodup) :
    ∀ s : State, (∀ x ∈ l, s.l2? x.line = some x ∧ x.Agrees s.mem.bytes) → (l.foldl State.evict s).homeByte a = s.homeByte a := by
  induction l with
  | nil => exact fun s _ => rfl
  | cons x l ih =>
    intro s h
    obtain ⟨hnx, hn⟩ := List.nodup_cons.1 hl
    rw [List.foldl_cons, ih hn, State.homeByte_evict s (h x List.mem_cons_self).1 (h x List.mem_cons_self).2]
    intro y hy
    obtain ⟨h1, h2, h3⟩ := h y (List.mem_cons_of_mem _ hy)
    have hne : y.line ≠ x.line := fun e => hnx (e ▸ List.mem_map_of_mem hy)
    refine ⟨(State.l2?_dropL2 _ _ _).trans ((if_neg hne).trans h1), h2, fun b hb hv hd => (h3 b hb hv hd).trans ?_⟩
    exact ((State.cellGet_writeBack s x _).trans (if_neg fun e => hne (by omega))).symm

/-- The line found under a key, where no key stands twice. -/
theorem findBy_of_mem {key : α → Nat} {l : List α} (hl : (l.map key).Nodup) {x : α} (h : x ∈ l) : findBy key l (key x) = some x := by
  induction l with
  | nil => cases h
  | cons y l ih =>
    rw [List.map_cons, List.nodup_cons] at hl
    rcases List.mem_cons.1 h with rfl | h
    · simp [findBy]
    · have hne : key y ≠ key x := fun e => hl.1 (e ▸ List.mem_map_of_mem h)
      have hf := ih hl.2 h
      unfold findBy at hf ⊢
      rw [List.find?_cons_of_neg (by simpa using hne), hf]

/-! ### The change done -/

/-- Home lines that a change of a die's ways evicts. -/
def State.waysTaken (s : State) (d : Nat) : List L2Line :=
  ((enum s.mem.l2).filter fun (i, x) => decide (s.homeDie (128 * x.line) = d) && !x.pinned && inMovedWay s.freeCtr i).map Prod.snd

theorem State.evictHomeWays_eq (s : State) (d : Nat) :
    s.evictHomeWays d = (s.waysTaken d).foldl State.evict { s with freeCtr := s.freeCtr + s.mem.l2.length } := rfl

theorem State.waysTaken_mem {s : State} {d : Nat} {x : L2Line} (h : x ∈ s.waysTaken d) :
    x ∈ s.mem.l2 ∧ s.homeDie (128 * x.line) = d ∧ x.pinned = false := by
  obtain ⟨hm, i, hp⟩ := of_mem_enum_filter h
  simp only [Bool.and_eq_true, decide_eq_true_eq, Bool.not_eq_true'] at hp
  exact ⟨hm, hp.1.1, hp.1.2⟩

/-- BUSY of FLCFG cleared. -/
def State.flcfgDone (s : State) (d : Nat) : State := s.setReg (flcfgOff d) (setFld (s.reg (flcfgOff d)) 7 1 0)

theorem State.reg_flcfgDone {s t : State} (h : t.dev = s.dev) (d p : Nat) : (t.flcfgDone d).reg p = (s.putBits (flcfgOff d) 0x80 0).reg p := by
  have hr : ∀ o, t.reg o = s.reg o := State.reg_congr (congrArg _ h)
  rw [State.flcfgDone, State.putBits, State.reg_setReg, State.reg_setReg, hr, hr, setFld_bit_eq_merge, show span 7 1 = 0x80 by decide]
  rfl

theorem execFlcfgChangeDone_eq (s : State) {d : Nat} (h : (s.reg (flcfgOff d)).getLsbD 7 = true) :
    execFlcfgChangeDone d s = .next ((if s.flways d < mget 0 s.dev.flWas d then s.dropFarWays d else s.evictHomeWays d).flcfgDone d) := by
  unfold execFlcfgChangeDone
  rw [if_pos h]; rfl

theorem dropFarWays_far (s : State) (d : Nat) : (∀ c ∈ (s.dropFarWays d).mem.far, c ∈ s.mem.far) ∧
    (∀ c ∈ s.mem.far, c.unit ≠ d → c ∈ (s.dropFarWays d).mem.far) ∧ (s.flways d = 0 → ∀ c ∈ (s.dropFarWays d).mem.far, c.unit ≠ d) := by
  refine ⟨fun c hc => (of_mem_enum_filter hc).1, fun c hc hu => mem_enum_filter (fun i => ?_) hc, fun h0 c hc => ?_⟩
  · simp [hu]
  · obtain ⟨-, i, hp⟩ := of_mem_enum_filter hc
    simpa [h0] using hp

theorem evictHomeWays_lines (s : State) (d : Nat) (hn : (s.mem.l2.map L2Line.line).Nodup) :
    (s.evictHomeWays d).mem.far = s.mem.far ∧ (∀ x ∈ (s.evictHomeWays d).mem.l2, x ∈ s.mem.l2)
      ∧ (∀ x ∈ s.mem.l2, s.homeDie (128 * x.line) ≠ d ∨ x.pinned = true → x ∈ (s.evictHomeWays d).mem.l2)
      ∧ ((∀ x ∈ s.mem.l2, x.Agrees s.mem.bytes) → ∀ a, (s.evictHomeWays d).homeByte a = s.homeByte a) := by
  rw [State.evictHomeWays_eq]
  refine ⟨(foldl_evict_same _ _).2.2, fun x hx => ((mem_foldl_evict _ _ _).1 hx).1, fun x hx hk => (mem_foldl_evict _ _ _).2 ⟨hx, fun y hy he => ?_⟩,
    fun hag a => ?_⟩
  · obtain ⟨hm, hh, hp⟩ := State.waysTaken_mem hy
    have hxy : x = y := Option.some.inj ((findBy_of_mem hn hx).symm.trans (he ▸ findBy_of_mem hn hm))
    subst hxy
    rcases hk with hk | hk
    · exact hk hh
    · rw [hp] at hk; cases hk
  · refine (homeByte_foldl_evict a _ (((enum_filter_sublist _ _).map _).nodup hn) _ fun x hx => ?_).trans rfl
    obtain ⟨hm, -, -⟩ := State.waysTaken_mem hx
    exact ⟨findBy_of_mem hn hm, hag x hm⟩

end Sys2Proof.Machine
end

section
/-! SUPPORT. The obligation's spelling of offsets and masks. -/

namespace Sys2Proof.Machine

open Sys2Proof

theorem halfMask_eq (half : Nat) : halfMask half = if half = 1 then 0xFFFFFFFF else if half = 2 then ~~~0xFFFFFFFF else BitVec.allOnes 64 := by
  unfold halfMask allOnes
  rw [show (0xFFFFFFFF00000000 : DWord) = ~~~0xFFFFFFFF by decide]

theorem qOff_add (q k : Nat) : 0x20000 + k + 64 * q = qOff q + k := by unfold qOff; omega
theorem frmapOff_add (n : Nat) : 0x11008 + 16 * n = frmapOff n + 8 := by unfold frmapOff; omega

/-- The three parts of a bucket's configuration. -/
theorem fld_low48 (w : DWord) : fld w 0 48 = fld w 0 4 + fld w 16 32 * 2 ^ 16 + fld w 4 12 * 16 := by
  unfold fld nbits
  simp only [Nat.shiftRight_eq_div_pow]
  omega

theorem tbcfgWord_fields (cur v : DWord) : let w := setFld (merge cur 0x0000FFFFFFFF000F v) 63 1 1
    w.getLsbD 63 = true ∧ fld w 0 48 = fld v 0 4 + fld v 16 32 * 2 ^ 16 + fld cur 4 12 * 16 := by
  have hm : ∀ i < 64, (0x0000FFFFFFFF000F : DWord).getLsbD i = (decide (i < 4) || decide (16 ≤ i ∧ i < 48)) := by decide
  refine ⟨by rw [setFld_one _ _ _ _ (by decide), if_pos rfl]; rfl, ?_⟩
  rw [fld_setFld_ne _ _ _ _ _ _ (by omega), fld_low48,
    fld_merge (fun i hi => by rw [hm _ (by omega)]; simp; omega), fld_merge (fun i hi => by rw [hm _ (by omega)]; simp; omega),
    fld_merge_ne (fun i hi => by rw [hm _ (by omega)]; simp; omega)]

end Sys2Proof.Machine
end

section
open Sys2Proof Sys2Proof.Machine

/-- Settles O53: each write by the equation of its register. -/
theorem registerWritesTakeTheWritableBits : Obligations.RegisterWritesTakeTheWritableBits := by
  unfold Obligations.RegisterWritesTakeTheWritableBits
  intro s put low
  refine ⟨?ars, ?frmap, ?tlbiaddr, ?flcfg, ?flcfgDone, ?tbcfg, ?qcfg, ?qtail, ?qown, ?hdrop, ?tbpark, ?mgmtarg, ?repcfg, ?park, ?plain⟩
  case ars => exact fun n hn w hw v => congrArg Host.Outcome.next (s.arsWrite_eq hn hw v)
  case frmap =>
    intro n hn v
    dsimp only
    rw [frmapOff_add]
    exact congrArg Host.Outcome.next (s.frmapWrite_eq hn v)
  case tlbiaddr => exact fun v => congrArg Host.Outcome.next (s.tlbiaddrWrite_eq v)
  case flcfg => exact fun d hd v => congrArg Host.Outcome.next (s.flcfgWrite_eq hd v)
  case flcfgDone =>
    intro d hd o ways was
    refine ⟨fun h => if_neg (ne_true_of_eq_false h), fun h => ⟨_, execFlcfgChangeDone_eq s h, ?_⟩⟩
    by_cases hw : ways < was
    · obtain ⟨h1, h2, h3⟩ := dropFarWays_far s d
      rw [if_pos (show s.flways d < mget 0 s.dev.flWas d from hw)]
      exact ⟨fun p => State.reg_flcfgDone rfl d p, rfl, fun _ => ⟨rfl, rfl, h1, h2, h3⟩, fun h => absurd hw (Nat.not_lt.2 h)⟩
    · rw [if_neg (show ¬ s.flways d < mget 0 s.dev.flWas d from hw)]
      exact ⟨fun p => State.reg_flcfgDone (foldl_evict_same _ _).1 d p, (foldl_evict_same (s.waysTaken d) _).2.1, fun h => absurd h hw,
        fun _ hn => evictHomeWays_lines s d hn⟩
  case tbcfg => exact fun d hd n hn v => ⟨_, congrArg Host.Outcome.next (s.tbcfgWrite_eq hd hn v), tbcfgWord_fields _ v⟩
  case qcfg => exact fun q hq v => congrArg Host.Outcome.next (s.qcfgWrite_eq hq v)
  case qtail =>
    intro q hq t
    dsimp only
    rw [qOff_add q 8]
    exact congrArg Host.Outcome.next (s.qtailWrite_eq hq t)
  case qown =>
    intro q hq v
    rw [qOff_add q 32]
    exact congrArg Host.Outcome.next (s.qownWrite_eq hq v)
  case hdrop =>
    intro q hq
    rw [qOff_add q 40]
    exact congrArg Host.Outcome.next (s.hdropWrite_eq hq)
  case tbpark => exact fun d hd k hk n hn => congrArg Host.Outcome.next (s.tbparkWrite_eq hd hk hn)
  case mgmtarg => exact fun k hk v => congrArg Host.Outcome.next (s.mgmtargWrite_eq hk v)
  case repcfg => exact fun v h => congrArg Host.Outcome.next (s.repcfgWrite_eq h v)
  case park => exact fun v => congrArg Host.Outcome.next (s.pwrctlParkWrite_eq v)
  case plain =>
    intro half hh v h
    have hm : h = halfMask half := (halfMask_eq half).symm
    refine ⟨fun n hn => ?_, fun o ho => congrArg Host.Outcome.next (s.readOnlyWrite_eq ho half v), fun q hq => ?_, fun q hq => ?_,
      fun o ho => congrArg Host.Outcome.next (s.regWrite_none ho half v), fun h2 => congrArg Host.Outcome.next (s.wdcfgWrite_eq hh h2 v),
      fun h2 => congrArg Host.Outcome.next (s.rascfgWrite_eq hh h2 v)⟩
    · rw [hm]; exact congrArg Host.Outcome.next (s.evtWrite_eq hn half v)
    · rw [qOff_add q 16]; exact congrArg Host.Outcome.next (s.qstatWrite_eq hq half v)
    · rw [hm, qOff_add q 24]; exact congrArg Host.Outcome.next (s.qtrapWrite_eq hq half v)

end

section
/-! SUPPORT. Bytes and numbers, and writes of home bytes read back as numbers. -/

namespace Sys2Proof.Machine

open Sys2Proof

variable {α : Type}

theorem leBytes_length (n : Nat) : ∀ x, (leBytes n x).length = n := by
  induction n with
  | zero => exact fun _ => rfl
  | succ n ih => exact fun x => congrArg (· + 1) (ih _)

theorem ofLe_leBytes (n : Nat) : ∀ x, ofLe (leBytes n x) = x % 256 ^ n := by
  induction n with
  | zero => intro x; rw [pow_zero, Nat.mod_one]; rfl
  | succ n ih =>
    intro x
    rw [leBytes, ofLe, ih, BitVec.toNat_ofNat, pow_succ' 256 n, Nat.mod_mul (a := 256)]

theorem ofLe_lt (l : List Byte) : ofLe l < 256 ^ l.length := by
  induction l with
  | nil => exact Nat.one_pos
  | cons b r ih =>
    have hb := b.isLt
    rw [ofLe, List.length_cons, pow_succ']
    omega

/-- A list of bytes is what its number is written as. -/
theorem leBytes_ofLe {n : Nat} {l : List Byte} (h : l.length = n) : leBytes n (ofLe l) = l := by
  induction l generalizing n with
  | nil => subst h; rfl
  | cons b r ih =>
    subst h
    have hb := b.isLt
    rw [List.length_cons, leBytes, ofLe, show (b.toNat + 256 * ofLe r) / 256 = ofLe r by omega, ih rfl]
    refine congrArg (· :: r) (BitVec.eq_of_toNat_eq ?_)
    rw [BitVec.toNat_ofNat]; omega

/-- A list read entry by entry. -/
theorem map_range_getD (d : α) (l : List α) : (List.range l.length).map (fun i => l.getD i d) = l := by
  refine List.ext_getElem (by simp) fun i h1 h2 => ?_
  rw [List.getElem_map, List.getElem_range, List.getD_eq_getElem _ _ h2]

/-- Home bytes that hold a list read as its number. -/
theorem State.homeBytes_of_list {s : State} {pa : Nat} (l : List Byte) (h : ∀ i < l.length, s.homeByte (pa + i) = l.getD i 0) :
    s.homeBytes pa l.length = ofLe l := by
  rw [State.homeBytes, List.map_congr_left fun i hi => h i (List.mem_range.1 hi), map_range_getD]

/-- An entry of lists of one length, one after the other. -/
theorem getD_flatMap (d : α) {β : Type} (g : β → List α) (n : Nat) (hg : ∀ b, (g b).length = n) (j : Nat) (hj : j < n) (l : List β) :
    ∀ i b, l[i]? = some b → (l.flatMap g).getD (n * i + j) d = (g b).getD j d := by
  induction l with
  | nil => intro i b h; simp at h
  | cons x l ih =>
    intro i b h
    rw [List.flatMap_cons]
    cases i with
    | zero =>
      obtain rfl : x = b := by simpa using h
      rw [Nat.mul_zero, Nat.zero_add, List.getD_append _ _ _ _ (by rw [hg]; exact hj)]
    | succ i =>
      rw [List.getD_append_right _ _ _ _ (by rw [hg, Nat.mul_succ]; omega), hg, Nat.mul_succ, show n * i + n + j - n = n * i + j by omega]
      exact ih i b (by simpa using h)

theorem length_flatMap_const {β : Type} (g : β → List α) (n : Nat) (hg : ∀ b, (g b).length = n) (l : List β) : (l.flatMap g).length = n * l.length := by
  induction l with
  | nil => rfl
  | cons x l ih => rw [List.flatMap_cons, List.length_append, ih, hg, List.length_cons, Nat.mul_succ, Nat.add_comm]

end Sys2Proof.Machine
end

section
/-! SUPPORT. The mailbox (R449): how a command is taken, and how it ends. -/

namespace Sys2Proof.Machine

open Sys2Proof

variable {α : Type}

/-! ### How a command is taken -/

/-- The command that a write of its code makes of the argument registers. -/
def State.mgmtOf (s : State) (op : Nat) : Mgmt := { op, args := (List.range 4).map fun k => s.reg (0x410 + 8 * k), phase := 0, slot := 0 }

theorem State.mgmtOf_arg (s : State) (op : Nat) {k : Nat} (hk : k < 4) (lo n : Nat) : (s.mgmtOf op).arg k lo n = fld (s.reg (0x410 + 8 * k)) lo n := by
  unfold Mgmt.arg State.mgmtOf
  rw [List.getD_eq_getElem _ _ (by simpa using hk), List.getElem_map, List.getElem_range]

theorem State.regWrite_mgmtcmd (s : State) (w : DWord) :
    s.regWrite 0x400 0 w = if (s.reg 0x408).getLsbD 0 then s.setReg 0x408 (s.reg 0x408 ||| 4) else s.mgmtStart (fld w 0 8) := by
  have h : devReg? 0x400 = some .mgmtcmd := rfl
  unfold State.regWrite
  rw [h]
  rfl

theorem State.mgmtCmd_busy (s : State) (h : (s.reg 0x408).getLsbD 0 = true) (op : Nat) : s.mgmtCmd op = s.setReg 0x408 (s.reg 0x408 ||| 4) :=
  (s.regWrite_mgmtcmd _).trans (if_pos h)

/-- What a code does that is written while no command is in progress. -/
theorem State.mgmtCmd_idle (s : State) (h : (s.reg 0x408).getLsbD 0 = false) {op : Nat} (hop : op < 256) :
    s.mgmtCmd op = if op = 0 ∨ 6 < op then s.mgmtDone 14 0
      else if mgmtBadArg (s.mgmtOf op) then s.mgmtDone 15 0
      else if op = 1 then ((s.setBits mgmtStat 1).setMgmt (s.mgmtOf op)).retireStep (s.mgmtOf op)
      else if op = 2 then ((s.setBits mgmtStat 1).setMgmt (s.mgmtOf op)).migrateStep (s.mgmtOf op)
      else s.mgmtQuick (s.mgmtOf op) := by
  rw [State.mgmtCmd, State.regWrite_mgmtcmd, if_neg (ne_true_of_eq_false h), fld_ofNat _ _ _ _ (by decide), pow_zero, Nat.div_one,
    Nat.mod_eq_of_lt (show op < 2 ^ 8 from hop), State.mgmtStart, if_neg (show ¬ (s.reg mgmtStat).getLsbD 0 = true from ne_true_of_eq_false h)]
  rfl

/-- A command with good arguments that is done at once. -/
theorem State.mgmtCmd_quick (s : State) (h : (s.reg 0x408).getLsbD 0 = false) {op : Nat} (h3 : 3 ≤ op) (h6 : op ≤ 6)
    (hb : mgmtBadArg (s.mgmtOf op) = false) : s.mgmtCmd op = s.mgmtQuick (s.mgmtOf op) := by
  rw [s.mgmtCmd_idle h (by omega), if_neg (by omega), if_neg (ne_true_of_eq_false hb), if_neg (by omega), if_neg (by omega)]

/-! ### How a command ends -/

/-- MGMTSTAT of a command that ends. -/
def doneWord (cur : DWord) (status : Nat) : DWord := setFld (setFld (setFld cur 8 8 status) 0 1 0) 1 1 1

theorem doneWord_fields (cur : DWord) {status : Nat} (h : status < 256) :
    fld (doneWord cur status) 8 8 = status ∧ (doneWord cur status).getLsbD 0 = false ∧ (doneWord cur status).getLsbD 1 = true := by
  refine ⟨?_, ?_, ?_⟩
  · rw [doneWord, fld_setFld_ne _ _ _ _ _ _ (by omega), fld_setFld_ne _ _ _ _ _ _ (by omega), fld_setFld_same _ _ _ _ (by decide)]
    exact Nat.mod_eq_of_lt h
  · rw [doneWord, setFld_one _ _ _ _ (by decide), setFld_one _ _ _ _ (by decide)]; rfl
  · rw [doneWord, setFld_one _ _ _ _ (by decide)]; rfl

theorem State.mgmtDone_eq (s : State) (status res : Nat) : s.mgmtDone status res = { s with dev := { s.dev with
    mgmt := none, msix := s.dev.msix ++ [fld (s.reg 0x300) 10 6],
    regs := mset (regReset 0x408) (mset (regReset 0x430) s.dev.regs 0x430 (BitVec.ofNat 64 res)) 0x408 (doneWord (s.reg 0x408) status) } } := by
  have hr : (State.setReg { s with dev := { s.dev with mgmt := none, msix := s.dev.msix ++ [fld (s.reg repCfg) 10 6] } } 0x430 (BitVec.ofNat 64 res)).reg 0x408
      = s.reg 0x408 := by
    rw [State.reg_setReg_ne _ _ (by decide)]; rfl
  unfold State.mgmtDone
  dsimp only
  rw [show mgmtStat = 0x408 from rfl, hr]
  rfl

theorem State.reg_mgmtDone (s : State) (status res o : Nat) : (s.mgmtDone status res).reg o =
    if o = 0x408 then doneWord (s.reg 0x408) status else if o = 0x430 then BitVec.ofNat 64 res else s.reg o := by
  rw [State.mgmtDone_eq, State.reg_eq_mget]
  dsimp only
  by_cases h1 : o = 0x408
  · subst h1; rw [mget_mset_same, if_pos rfl]
  · rw [mget_mset_ne _ _ _ _ h1, if_neg h1]
    by_cases h2 : o = 0x430
    · subst h2; rw [mget_mset_same, if_pos rfl]
    · rw [mget_mset_ne _ _ _ _ h2, if_neg h2, State.reg_eq_mget]

/-- A command ends with its status and result. -/
def Ends (s : State) (i : Instr) (status res : Nat) (P : State → Prop) : Prop :=
  ∃ t, exec i s = .next t ∧ fld (t.reg 0x408) 8 8 = status ∧ (t.reg 0x408).getLsbD 0 = false
      ∧ (t.reg 0x408).getLsbD 1 = true ∧ (t.reg 0x430).toNat = res ∧ t.dev.mgmt = none ∧ t.dev.msix = s.dev.msix ++ [fld (s.reg 0x300) 10 6] ∧ P t

/-- A step whose last act is to end the command. -/
theorem ends_of_mgmtDone {s u : State} {i : Instr} {status res : Nat} {P : State → Prop} (he : exec i s = .next (u.mgmtDone status res))
    (hs : status < 256) (hr : res < 2 ^ 64) (hm : u.dev.msix = s.dev.msix) (h3 : u.reg 0x300 = s.reg 0x300) (hp : P (u.mgmtDone status res)) :
    Ends s i status res P := by
  obtain ⟨h8, h0, h1⟩ := doneWord_fields (u.reg 0x408) hs
  refine ⟨_, he, ?_, ?_, ?_, ?_, ?_, ?_, hp⟩
  · rw [State.reg_mgmtDone, if_pos rfl]; exact h8
  · rw [State.reg_mgmtDone, if_pos rfl]; exact h0
  · rw [State.reg_mgmtDone, if_pos rfl]; exact h1
  · rw [State.reg_mgmtDone, if_neg (by decide), if_pos rfl, BitVec.toNat_ofNat]; exact Nat.mod_eq_of_lt hr
  · rw [State.mgmtDone_eq]
  · rw [State.mgmtDone_eq, ← hm, ← h3]

theorem State.homeByte_mgmtDone (s : State) (status res a : Nat) : (s.mgmtDone status res).homeByte a = s.homeByte a := rfl

/-! ### CLEARBAD, READBAD, ATTEST, DEBUGTOKEN -/

theorem mgmtBadArg_unused {m : Mgmt} (h : m.op = 3) : mgmtBadArg m = false := by
  unfold mgmtBadArg; rw [h]; rfl

theorem mgmtBadArg_attest {s : State} (h2 : fld (s.reg (0x410 + 8 * 2)) 32 32 = 0) (h0 : fld (s.reg (0x410 + 8 * 0)) 0 3 = 0)
    (h1 : fld (s.reg (0x410 + 8 * 1)) 0 3 = 0) : mgmtBadArg (s.mgmtOf 4) = false := by
  show (decide ((s.mgmtOf 4).arg 2 32 (64 - 32) ≠ 0) || decide ((s.mgmtOf 4).arg 0 0 3 ≠ 0) || decide ((s.mgmtOf 4).arg 1 0 3 ≠ 0)) = false
  rw [s.mgmtOf_arg 4 (by decide), s.mgmtOf_arg 4 (by decide), s.mgmtOf_arg 4 (by decide), h2, h0, h1]; rfl

theorem mgmtBadArg_token {s : State} (h1 : fld (s.reg (0x410 + 8 * 1)) 16 48 = 0) (h0 : fld (s.reg (0x410 + 8 * 0)) 0 3 = 0) :
    mgmtBadArg (s.mgmtOf 5) = false := by
  show (decide ((s.mgmtOf 5).arg 1 16 (64 - 16) ≠ 0) || decide ((s.mgmtOf 5).arg 0 0 3 ≠ 0)) = false
  rw [s.mgmtOf_arg 5 (by decide), s.mgmtOf_arg 5 (by decide), h1, h0]; rfl

theorem mgmtBadArg_readbad {s : State} (h1 : fld (s.reg (0x410 + 8 * 1)) 32 32 = 0) (h0 : fld (s.reg (0x410 + 8 * 0)) 0 3 = 0) :
    mgmtBadArg (s.mgmtOf 6) = false := by
  show (decide ((s.mgmtOf 6).arg 1 32 (64 - 32) ≠ 0) || decide ((s.mgmtOf 6).arg 0 0 3 ≠ 0)) = false
  rw [s.mgmtOf_arg 6 (by decide), s.mgmtOf_arg 6 (by decide), h1, h0]; rfl

theorem State.mgmtQuick_clearbad (s : State) : s.mgmtQuick (s.mgmtOf 3) =
    if s.dev.sec ≠ 0 then s.mgmtDone 6 0 else State.mgmtDone { s with dev := { s.dev with badList := [] } } 0 s.dev.badList.length := rfl

theorem State.mgmtQuick_attest (s : State) : s.mgmtQuick (s.mgmtOf 4) =
    if s.bufOk (fld (s.reg (0x410 + 8 * 0)) 0 64) 64 = false ∨ s.bufOk (fld (s.reg (0x410 + 8 * 1)) 0 64) (fld (s.reg (0x410 + 8 * 2)) 0 32) = false then s.mgmtDone 8 0
    else if fld (s.reg (0x410 + 8 * 2)) 0 32 < 7315 + 64 * s.dev.running.length then s.mgmtDone 7 0
    else (s.homePuts 0 (fld (s.reg (0x410 + 8 * 1)) 0 64) (s.attestation (s.hostBytes (fld (s.reg (0x410 + 8 * 0)) 0 64) 64))).mgmtDone 0
      (7315 + 64 * s.dev.running.length) := by
  rw [← s.mgmtOf_arg 4 (k := 0) (by decide), ← s.mgmtOf_arg 4 (k := 1) (by decide), ← s.mgmtOf_arg 4 (k := 2) (by decide)]; rfl

theorem State.mgmtQuick_readbad (s : State) : s.mgmtQuick (s.mgmtOf 6) =
    if s.bufOk (fld (s.reg (0x410 + 8 * 0)) 0 64) (fld (s.reg (0x410 + 8 * 1)) 0 32) = false then s.mgmtDone 8 0
    else if fld (s.reg (0x410 + 8 * 1)) 0 32 < 8 * s.dev.badList.length then s.mgmtDone 7 0
    else (s.homePuts 0 (fld (s.reg (0x410 + 8 * 0)) 0 64) (s.dev.badList.flatMap fun w => leBytes 8 w.toNat)).mgmtDone 0 s.dev.badList.length := by
  rw [← s.mgmtOf_arg 6 (k := 0) (by decide), ← s.mgmtOf_arg 6 (k := 1) (by decide)]; rfl

/-- The state that an accepted token sets. -/
def tokenDebug (t : List Byte) : Nat := ofLe ((t.drop 4).take 1)
def tokenSerial (t : List Byte) : Nat := ofLe ((t.drop 8).take 8)

theorem tokenSerial_lt (t : List Byte) : tokenSerial t < 2 ^ 64 := by
  refine Nat.lt_of_lt_of_le (ofLe_lt _) (Nat.le_trans (Nat.pow_le_pow_right (by decide) (List.length_take_le 8 _)) (by decide))

theorem State.mgmtQuick_token (s : State) : s.mgmtQuick (s.mgmtOf 5) =
    if s.bufOk (fld (s.reg (0x410 + 8 * 0)) 0 64) (fld (s.reg (0x410 + 8 * 1)) 0 16) = false then s.mgmtDone 8 s.dev.dbg
    else
      let t := s.hostBytes (fld (s.reg (0x410 + 8 * 0)) 0 64) (fld (s.reg (0x410 + 8 * 1)) 0 16)
      if fld (s.reg (0x410 + 8 * 1)) 0 16 = 4707 ∧ s.tokenOk t then
        let u := State.setDebug { s with dev := { s.dev with tokSerial := BitVec.ofNat 64 (tokenSerial t) } } (tokenDebug t)
        u.mgmtDone 0 u.dev.dbg
      else (s.report 16 8 255 none [2, tokenSerial t] []).mgmtDone 9 s.dev.dbg := by
  rw [← s.mgmtOf_arg 5 (k := 0) (by decide), ← s.mgmtOf_arg 5 (k := 1) (by decide)]; rfl

@[simp] theorem State.setDebug_same (s : State) (st : Nat) : (s.setDebug st).dev.dbg = st ∧ (s.setDebug st).dev.regs = s.dev.regs ∧
    (s.setDebug st).dev.msix = s.dev.msix ∧ (s.setDebug st).dev.tokSerial = s.dev.tokSerial := by
  unfold State.setDebug
  dsimp only
  split
  · exact ⟨rfl, rfl, rfl, rfl⟩
  · split <;> exact ⟨rfl, rfl, rfl, rfl⟩

theorem State.attestation_length (s : State) (nonce : List Byte) (h : nonce.length = 64) : (s.attestation nonce).length = 7315 + 64 * s.dev.running.length := by
  have hf : (s.dev.running.flatMap fun d => leBytes 64 d.toNat).length = 64 * s.dev.running.length :=
    length_flatMap_const _ 64 (fun d => leBytes_length 64 _) _
  simp only [State.attestation, State.attestBody, List.length_append, leBytes_length, List.length_map, List.length_range, h, hf]
  omega

end Sys2Proof.Machine
end

section
/-! SUPPORT. RETIRE and MIGRATE (R21, R70, R72): the shootdown that each begins, the entry appended, the frame copied. -/

namespace Sys2Proof.Machine

open Sys2Proof

variable {α : Type}

/-! ### A shootdown begun -/

theorem foldl_add_pow (p : Nat → Bool) (n : Nat) : let v := ((List.range n).filter p).foldl (fun a d => a + 2 ^ d) 0
    v < 2 ^ n ∧ ∀ d < n, p d = true → 0 < v := by
  induction n with
  | zero => exact ⟨Nat.one_pos, fun d h => absurd h (Nat.not_lt_zero d)⟩
  | succ n ih =>
    dsimp only at ih ⊢
    rw [List.range_succ, List.filter_append, List.foldl_append]
    obtain ⟨h1, h2⟩ := ih
    have h3 := Nat.two_pow_pos n
    cases hp : p n with
    | true =>
      rw [List.filter_cons_of_pos hp]
      simp only [List.filter_nil, List.foldl_cons, List.foldl_nil]
      exact ⟨by rw [pow_succ]; omega, fun _ _ _ => by omega⟩
    | false =>
      rw [List.filter_cons_of_neg (by simp [hp])]
      simp only [List.filter_nil, List.foldl_nil]
      refine ⟨by rw [pow_succ]; omega, fun d hd hpd => h2 d ?_ hpd⟩
      have : d ≠ n := by rintro rfl; rw [hp] at hpd; cases hpd
      omega

/-- A shootdown waits for someone unless every die is in reset. -/
theorem State.shootDies_ne_zero (s : State) (h : ∃ d < 8, d ∉ s.dev.dieRst) : s.shootDies ≠ 0 := by
  obtain ⟨d, hd, hn⟩ := h
  obtain ⟨hlt, hpos⟩ := foldl_add_pow (fun d => decide (d ∉ s.dev.dieRst)) 8
  have hp := hpos d hd (by simpa using hn)
  intro h0
  have h1 := congrArg BitVec.toNat h0
  rw [State.shootDies, allDies, BitVec.toNat_ofNat, Nat.mod_eq_of_lt (show _ < 2 ^ 8 from hlt)] at h1
  exact absurd h1 (Nat.pos_iff_ne_zero.1 hp)

/-- Some die answers, and no shootdown is over. -/
def State.ShootsLive (s : State) : Prop := (∃ d < 8, d ∉ s.dev.dieRst) ∧ ∀ k ∈ s.tr.shoots, k.pend ≠ 0

/-- A shootdown that begins joins those in progress; registers other than TLBICTL stay. -/
theorem State.startShoot_live (s : State) (h : s.ShootsLive) (kind asid first count : Nat) (o : ShootOwner) :
    ∃ k : Shoot, k.kind = kind ∧ k.first = first ∧ k.count = count ∧ k.owner = o ∧
      (s.startShoot kind asid first count o).tr.shoots = s.tr.shoots ++ [k] ∧ (s.startShoot kind asid first count o).dev.mgmt = s.dev.mgmt ∧
      ∀ p, p ≠ tlbiOff → (s.startShoot kind asid first count o).reg p = s.reg p := by
  obtain ⟨hd, hs⟩ := h
  obtain ⟨regs, ats, he, hr⟩ := State.finishShoots_eq { s with tr := { s.tr with shoots := s.tr.shoots ++
    [({ kind, asid, first, count, pend := s.shootDies, owner := o } : Shoot)] } }
  refine ⟨{ kind, asid, first, count, pend := s.shootDies, owner := o }, rfl, rfl, rfl, rfl, ?_⟩
  rw [show s.startShoot kind asid first count o = _ from he]
  refine ⟨?_, rfl, fun p hp => (State.reg_eq_mget _ p).trans (hr p hp)⟩
  refine List.filter_eq_self.2 fun k hk => ?_
  rcases List.mem_append.1 hk with hk | hk
  · exact decide_eq_true (hs k hk)
  · rw [List.mem_singleton.1 hk]
    exact decide_eq_true (s.shootDies_ne_zero hd)

/-! ### What the commands read -/

theorem State.frmapHit_congr {s t : State} (h : ∀ o, 0x11000 ≤ o → t.reg o = s.reg o) (n pa : Nat) : t.frmapHit n pa = s.frmapHit n pa := by
  unfold State.frmapHit
  rw [h _ (by unfold frmapOff; omega), h _ (by unfold frmapOff; omega)]

theorem State.frmapOf_congr {s t : State} (h : ∀ o, 0x11000 ≤ o → t.reg o = s.reg o) (frame : Nat) : t.frmapOf frame = s.frmapOf frame := by
  unfold State.frmapOf
  exact congrFun (congrArg _ (funext fun n => State.frmapHit_congr h n _)) _

theorem filterMap_mput {β : Type} (f : Nat × α → Option β) (k : Nat) (hf : ∀ a, f (k, a) = none) (a : α) (m : NMap α) :
    (mput m k a).filterMap f = m.filterMap f := by
  induction m with
  | nil => simp [mput, hf]
  | cons p r ih =>
    obtain ⟨j, b⟩ := p
    unfold mput
    split
    · rw [List.filterMap_cons_none (hf a)]
    · split
      · rename_i h; subst h
        rw [List.filterMap_cons_none (hf a), List.filterMap_cons_none (hf b)]
      · rw [List.filterMap_cons, List.filterMap_cons, ih]

theorem filterMap_mset {β : Type} [DecidableEq α] (f : Nat × α → Option β) (d : α) (k : Nat) (hf : ∀ a, f (k, a) = none) (a : α) (m : NMap α) :
    (mset d m k a).filterMap f = m.filterMap f := by
  unfold mset
  split
  · induction m with
    | nil => rfl
    | cons p r ih =>
      obtain ⟨j, b⟩ := p
      by_cases hj : j = k
      · subst hj
        rw [List.filter_cons_of_neg (by simp), List.filterMap_cons_none (hf b), ih]
      · rw [List.filter_cons_of_pos (by simpa using hj), List.filterMap_cons, List.filterMap_cons, ih]
  · exact filterMap_mput f k hf a m

theorem State.validZrs_setReg (s : State) {o : Nat} (ho : o < 0x1000000) (v : DWord) : (s.setReg o v).validZrs = s.validZrs :=
  filterMap_mset _ _ _ (fun _ => if_neg fun h => Nat.not_le.2 ho h.1) _ _

theorem State.zr_congr {s t : State} (h : ∀ o, 0x11000 ≤ o → t.reg o = s.reg o) (a n : Nat) : t.zr a n = s.zr a n := by
  have h1 : 0x11000 ≤ zrOff a n := by unfold zrOff; omega
  unfold State.zr
  dsimp only
  rw [h _ h1, h _ (by omega), h _ (by omega), h _ (by omega)]

theorem State.migrateBad_congr {s t : State} (hr : ∀ o, 0x11000 ≤ o → t.reg o = s.reg o) (hb : t.dev.badList = s.dev.badList)
    (hz : t.validZrs = s.validZrs) (f g : Nat) : t.migrateBad f g = s.migrateBad f g := by
  have hr1 : ∀ n, t.reg (frmapOff n) = s.reg (frmapOff n) := fun n => hr _ (by unfold frmapOff; omega)
  have hr2 : ∀ n, t.reg (frmapOff n + 8) = s.reg (frmapOff n + 8) := fun n => hr _ (by unfold frmapOff; omega)
  unfold State.migrateBad State.isBad
  simp only [hr1, hr2, hb, hz, State.zr_congr hr]

/-- The state in which RETIRE and MIGRATE begin. -/
def State.mgmtBegun (s : State) (op : Nat) : State := (s.setBits mgmtStat 1).setMgmt (s.mgmtOf op)

theorem State.reg_mgmtBegun (s : State) (op : Nat) {o : Nat} (h : o ≠ 0x408) : (s.mgmtBegun op).reg o = s.reg o :=
  (State.reg_congr rfl o).trans (State.reg_setReg_ne s _ h)

theorem State.reg_mgmtBegun_busy (s : State) (op : Nat) : ((s.mgmtBegun op).reg 0x408).getLsbD 0 = true := by
  have h : (s.mgmtBegun op).reg 0x408 = s.reg 0x408 ||| 1 := (State.reg_congr rfl _).trans (State.reg_setReg_same s _ _)
  rw [h, BitVec.getLsbD_or]
  exact Bool.or_true _

theorem State.validZrs_mgmtBegun (s : State) (op : Nat) : (s.mgmtBegun op).validZrs = s.validZrs := s.validZrs_setReg (by decide) _

/-! ### RETIRE -/

/-- The entry of a frame, without CHK. -/
def badWord (s : State) (frame cause : Nat) : DWord :=
  BitVec.ofNat 64 (frame + (frameTier frame).getD 0 * 2 ^ 33 + cause * 2 ^ 34 + s.dev.badSeq % 4096 * 2 ^ 36)

theorem frameTier_lt (frame : Nat) : (frameTier frame).getD 0 < 2 := by
  unfold frameTier tierOf
  split
  · split <;> decide
  · decide

theorem badWord_fields (s : State) {frame cause : Nat} (hf : frame < 2 ^ 32) (hc : cause < 4) :
    fld (badWord s frame cause) 0 32 = frame ∧ fld (badWord s frame cause) 33 1 = (frameTier frame).getD 0 ∧ fld (badWord s frame cause) 34 2 = cause ∧
    fld (badWord s frame cause) 36 12 = s.dev.badSeq % 4096 := by
  have ht := frameTier_lt frame
  unfold badWord
  generalize (frameTier frame).getD 0 = t at *
  have hs : s.dev.badSeq % 4096 < 4096 := Nat.mod_lt _ (by decide)
  generalize s.dev.badSeq % 4096 = q at *
  refine ⟨?_, ?_, ?_, ?_⟩ <;> rw [fld_ofNat _ _ _ _ (by decide)] <;> omega

/-- An entry with its CHK. -/
def withChk (w : DWord) : DWord := setFld w 48 16 (chkOf w)

theorem fld_withChk (w : DWord) {lo n : Nat} (h : lo + n ≤ 48) : fld (withChk w) lo n = fld w lo n := fld_setFld_ne _ _ _ _ _ _ (by omega)

theorem chkGood_withChk (w : DWord) : chkGood (withChk w) = true := by
  have h1 : chkOf (withChk w) = chkOf w := by unfold chkOf; rw [fld_withChk _ (by omega)]
  have h2 : fld (withChk w) 48 16 = chkOf w := by
    rw [withChk, fld_setFld_same _ _ _ _ (by decide)]
    exact Nat.mod_eq_of_lt (fld_lt _ _ _)
  exact decide_eq_true (h1.trans h2.symm)

theorem State.appendBad_eq (s : State) (frame cause : Nat) : s.appendBad frame cause =
    if s.isBad frame then s.mgmtDone 1 s.dev.badList.length
    else if 4096 ≤ s.dev.badList.length then s.mgmtDone 2 s.dev.badList.length
    else State.mgmtDone { s with dev := { s.dev with badList := s.dev.badList ++ [withChk (badWord s frame cause)], badSeq := (s.dev.badSeq + 1) % 4096 } } 0
      (s.dev.badList.length + 1) := rfl

theorem execRetire_next (s : State) {m : Mgmt} (hm : s.dev.mgmt = some m) (hop : m.op = 1) (hp : m.phase = 1) (hs : s.mgmtShooting = false) :
    execRetire s = .next (s.appendBad (m.arg 0 0 32) (m.arg 1 0 2)) := by
  unfold execRetire State.retireStep
  simp only [hm, hop, hp, hs, if_true, Bool.false_eq_true, if_false]

theorem State.retireStep_shoot {s : State} {m : Mgmt} (hp : m.phase = 0) (hf : s.frmapOf (m.arg 0 0 32) = none) :
    s.retireStep m = (s.setMgmt { m with phase := 1 }).startShoot 3 0 (m.arg 0 0 32) 1 .mgmt := by
  unfold State.retireStep
  simp only [hp, hf]

theorem mgmtBadArg_retire {s : State} (h0 : fld (s.reg (0x410 + 8 * 0)) 32 32 = 0) (h1 : fld (s.reg (0x410 + 8 * 1)) 2 62 = 0)
    (hc : fld (s.reg (0x410 + 8 * 1)) 0 2 ≤ 2) (ht : (frameTier (fld (s.reg (0x410 + 8 * 0)) 0 32)).isSome = true) : mgmtBadArg (s.mgmtOf 1) = false := by
  show (decide ((s.mgmtOf 1).arg 0 32 (64 - 32) ≠ 0) || decide ((s.mgmtOf 1).arg 1 2 (64 - 2) ≠ 0) || decide (2 < (s.mgmtOf 1).arg 1 0 2)
    || (frameTier ((s.mgmtOf 1).arg 0 0 32)).isNone) = false
  rw [s.mgmtOf_arg 1 (by decide), s.mgmtOf_arg 1 (by decide), s.mgmtOf_arg 1 (by decide), s.mgmtOf_arg 1 (by decide), h0, h1,
    decide_eq_false (Nat.not_lt.2 hc), Option.isNone_eq_false_iff.2 ht]
  rfl

/-! ### MIGRATE -/

theorem fld_halves (w : DWord) (h : fld w 0 64 < 2 ^ 32) : fld w 32 32 = 0 ∧ fld w 0 32 = fld w 0 64 := by
  unfold fld nbits at *
  have := w.isLt
  simp only [Nat.shiftRight_eq_div_pow] at *
  omega

theorem mgmtBadArg_migrate {s : State} (h0 : fld (s.reg (0x410 + 8 * 0)) 0 64 < 2 ^ 32) (h1 : fld (s.reg (0x410 + 8 * 1)) 0 64 < 2 ^ 32)
    (ht0 : (frameTier (fld (s.reg (0x410 + 8 * 0)) 0 64)).isSome = true) (ht1 : (frameTier (fld (s.reg (0x410 + 8 * 1)) 0 64)).isSome = true) :
    mgmtBadArg (s.mgmtOf 2) = false := by
  obtain ⟨e0, f0⟩ := fld_halves _ h0
  obtain ⟨e1, f1⟩ := fld_halves _ h1
  show (decide ((s.mgmtOf 2).arg 0 32 (64 - 32) ≠ 0) || decide ((s.mgmtOf 2).arg 1 32 (64 - 32) ≠ 0) || (frameTier ((s.mgmtOf 2).arg 0 0 32)).isNone
    || (frameTier ((s.mgmtOf 2).arg 1 0 32)).isNone) = false
  rw [s.mgmtOf_arg 2 (by decide), s.mgmtOf_arg 2 (by decide), s.mgmtOf_arg 2 (by decide), s.mgmtOf_arg 2 (by decide), e0, e1, f0, f1,
    Option.isNone_eq_false_iff.2 ht0, Option.isNone_eq_false_iff.2 ht1]
  rfl

theorem State.migrateStep_bad {s : State} {m : Mgmt} (hp : m.phase = 0) (hb : s.migrateBad (m.arg 0 0 32) (m.arg 1 0 32) ≠ 0) :
    s.migrateStep m = s.mgmtDone (s.migrateBad (m.arg 0 0 32) (m.arg 1 0 32)) 0 := by
  unfold State.migrateStep
  simp only [hp, hb, ne_eq, not_false_eq_true, if_true]

theorem State.migrateBad_lt (s : State) (f g : Nat) : s.migrateBad f g < 256 := by
  unfold State.migrateBad
  dsimp only
  repeat' split
  all_goals decide

/-- A remap entry is free while MIGRATE may start. -/
theorem State.free_slot {s : State} {f g : Nat} (hb : s.migrateBad f g = 0) :
    ∃ n < 8, (List.range 8).find? (fun n => (s.reg (frmapOff n + 8)).getLsbD 0 = false) = some n ∧ (s.reg (frmapOff n + 8)).getLsbD 0 = false := by
  cases hf : (List.range 8).find? (fun n => (s.reg (frmapOff n + 8)).getLsbD 0 = false) with
  | some n => exact ⟨n, List.mem_range.1 (List.mem_of_find?_eq_some hf), rfl, by simpa using List.find?_some hf⟩
  | none =>
    have hall : ((List.range 8).filter fun n => (s.reg (frmapOff n + 8)).getLsbD 0).length = 8 := by
      rw [List.filter_eq_self.2 fun n hn => by simpa using List.find?_eq_none.1 hf n hn]; rfl
    unfold State.migrateBad at hb
    dsimp only at hb
    rw [if_pos hall] at hb
    cases hb

/-- MIGRATE's entry of the remap table. -/
def State.frmapPut (s : State) (n f g : Nat) : State := (s.setReg (frmapOff n) (BitVec.ofNat 64 (f + g * 2 ^ 32))).setReg (frmapOff n + 8) 3

theorem State.reg_frmapPut (s : State) (n f g : Nat) : (s.frmapPut n f g).reg (frmapOff n) = BitVec.ofNat 64 (f + g * 2 ^ 32) ∧
    (s.frmapPut n f g).reg (frmapOff n + 8) = 3 ∧ (s.frmapPut n f g).reg 0x408 = s.reg 0x408 := by
  unfold State.frmapPut
  refine ⟨?_, State.reg_setReg_same _ _ _, ?_⟩
  · rw [State.reg_setReg_ne _ _ (by omega), State.reg_setReg_same]
  · rw [State.reg_setReg_ne _ _ (by unfold frmapOff; omega), State.reg_setReg_ne _ _ (by unfold frmapOff; omega)]

theorem State.setReg_tr (s : State) (o : Nat) (v : DWord) : (s.setReg o v).tr = s.tr := rfl
theorem State.setReg_dieRst (s : State) (o : Nat) (v : DWord) : (s.setReg o v).dev.dieRst = s.dev.dieRst := rfl

theorem State.frmapPut_same (s : State) (n f g : Nat) : (s.frmapPut n f g).tr = s.tr ∧ (s.frmapPut n f g).dev.dieRst = s.dev.dieRst := by
  unfold State.frmapPut
  rw [State.setReg_tr, State.setReg_tr, State.setReg_dieRst, State.setReg_dieRst]
  exact ⟨rfl, rfl⟩

theorem State.setMgmt_same (s : State) (m : Mgmt) : (s.setMgmt m).tr = s.tr ∧ (s.setMgmt m).dev.dieRst = s.dev.dieRst ∧ (s.setMgmt m).dev.mgmt = some m ∧
    ∀ o, (s.setMgmt m).reg o = s.reg o := ⟨rfl, rfl, rfl, fun _ => rfl⟩

theorem State.migrateStep_shoot {s : State} {m : Mgmt} (hp : m.phase = 0) (hb : s.migrateBad (m.arg 0 0 32) (m.arg 1 0 32) = 0) {n : Nat}
    (hn : (List.range 8).find? (fun n => (s.reg (frmapOff n + 8)).getLsbD 0 = false) = some n) :
    s.migrateStep m = ((s.frmapPut n (m.arg 0 0 32) (m.arg 1 0 32)).setMgmt { m with phase := 1, slot := n }).startShoot 3 0 (m.arg 0 0 32) 1 .mgmt := by
  unfold State.migrateStep
  simp only [hp, hb, hn, ne_eq, not_true_eq_false, if_false]
  rfl

/-! ### The frame copied -/

theorem State.homeByte_setPoison (s : State) (sec a : Nat) (on : Bool) : (s.setPoison sec on).homeByte a = s.homeByte a := by
  unfold State.setPoison
  dsimp only
  split
  · rename_i x hx
    have hx : s.l2? (sec / 4) = some x := hx
    split
    · rw [State.homeByte_eq, State.homeByte_eq, State.l2?_setL2]
      dsimp only
      by_cases hl : a / 128 = x.line
      · rw [if_pos hl, show s.l2? (a / 128) = some x by rw [hl, State.l2?_line hx, hx]]
        rfl
      · rw [if_neg hl]; rfl
    · rfl
  · rfl

/-- Home bytes read as a number and written elsewhere. -/
theorem State.homeByte_homePuts_homeBytes (s : State) (w dst src n a : Nat) :
    (s.homePuts w dst (leBytes n (s.homeBytes src n))).homeByte a = if dst ≤ a ∧ a < dst + n then s.homeByte (src + (a - dst)) else s.homeByte a := by
  rw [State.homeByte_homePuts, leBytes_length]
  by_cases h : dst ≤ a ∧ a < dst + n
  · rw [if_pos h, if_pos h, State.homeBytes, leBytes_ofLe (by simp), List.getD_eq_getElem _ _ (by simp; omega), List.getElem_map, List.getElem_range]
  · rw [if_neg h, if_neg h]

theorem State.homeByte_reg_report (s : State) (o : Nat) (v : DWord) (k d c : Nat) (l : Option Launch) (p : List Nat) (fr : List DWord) (a : Nat) :
    ((s.setReg o v).report k d c l p fr).homeByte a = s.homeByte a := rfl

theorem State.homeByte_copySector (s : State) (n f g sec a : Nat) : (s.copySector n f g sec).homeByte a =
    if a / 32 = g * 2 ^ 11 + sec then s.homeByte ((f * 2 ^ 11 + sec) * 32 + a % 32) else s.homeByte a := by
  have hput := s.homeByte_homePuts_homeBytes 0 ((g * 2 ^ 11 + sec) * 32) ((f * 2 ^ 11 + sec) * 32) 32 a
  have hcopy : (s.copySector n f g sec).homeByte a =
      (s.homePuts 0 ((g * 2 ^ 11 + sec) * 32) (leBytes 32 (s.homeBytes ((f * 2 ^ 11 + sec) * 32) 32))).homeByte a := by
    unfold State.copySector
    dsimp only
    split
    · rw [State.homeByte_reg_report, State.homeByte_setPoison]
    · rw [State.homeByte_setPoison]
  rw [hcopy, hput]
  by_cases h : a / 32 = g * 2 ^ 11 + sec
  · rw [if_pos h, if_pos (by omega), show a - (g * 2 ^ 11 + sec) * 32 = a % 32 by omega]
  · rw [if_neg h, if_neg (by omega)]

theorem homeByte_foldl_copySector (n : Nat) {f g : Nat} (hfg : f ≠ g) (l : List Nat) (hl : ∀ sec ∈ l, sec < 2048) (a : Nat) : ∀ s : State,
    (l.foldl (fun s sec => s.copySector n f g sec) s).homeByte a =
      if a / 2 ^ 16 = g ∧ a % 2 ^ 16 / 32 ∈ l then s.homeByte (f * 2 ^ 16 + a % 2 ^ 16) else s.homeByte a := by
  induction l with
  | nil => intro s; rw [if_neg (by simp)]; rfl
  | cons sec l ih =>
    intro s
    have hsec := hl sec List.mem_cons_self
    have ih' := ih fun x hx => hl x (List.mem_cons_of_mem _ hx)
    rw [List.foldl_cons, ih', State.homeByte_copySector, State.homeByte_copySector, if_neg (show ¬ (f * 2 ^ 16 + a % 2 ^ 16) / 32 = g * 2 ^ 11 + sec by omega)]
    by_cases hg : a / 2 ^ 16 = g
    · by_cases hm : a % 2 ^ 16 / 32 ∈ l
      · rw [if_pos ⟨hg, hm⟩, if_pos ⟨hg, List.mem_cons_of_mem _ hm⟩]
      · rw [if_neg (fun e => hm e.2)]
        by_cases hs : a % 2 ^ 16 / 32 = sec
        · rw [if_pos (by omega), if_pos ⟨hg, hs ▸ List.mem_cons_self⟩]
          congr 1; omega
        · rw [if_neg (by omega), if_neg (fun e => (List.mem_cons.1 e.2).elim hs hm)]
    · rw [if_neg (fun e => hg e.1), if_neg (by omega), if_neg (fun e => hg e.1)]

theorem mem_insertBy_iff (key : α → Nat) (a b : α) (l : List α) : b ∈ insertBy key a l ↔ b = a ∨ b ∈ l := by
  induction l with
  | nil => simp [insertBy]
  | cons c r ih =>
    unfold insertBy
    split
    · simp
    · rw [List.mem_cons, ih, List.mem_cons]; tauto

theorem mem_sortBy_iff (key : α → Nat) (b : α) (l : List α) : b ∈ sortBy key l ↔ b ∈ l := by
  have h : ∀ acc, b ∈ l.foldl (fun acc a => insertBy key a acc) acc ↔ b ∈ acc ∨ b ∈ l := by
    induction l with
    | nil => intro acc; simp
    | cons c r ih => intro acc; rw [List.foldl_cons, ih, mem_insertBy_iff, List.mem_cons]; tauto
  exact (h []).trans (by simp)

theorem mget_of_no_key (d : α) (k : Nat) (m : NMap α) (h : ∀ c ∈ m, c.1 ≠ k) : mget d m k = d := by
  induction m with
  | nil => rfl
  | cons c m ih =>
    obtain ⟨j, b⟩ := c
    rw [mget, if_neg (h _ List.mem_cons_self), ih fun c hc => h c (List.mem_cons_of_mem _ hc)]

theorem State.busySectors_lt {s : State} {f g sec : Nat} (h : sec ∈ s.busySectors f g) : sec < 2048 := by
  unfold State.busySectors at h
  dsimp only at h
  rw [mem_sortBy_iff, mem_dedup, List.mem_append, List.mem_append] at h
  rcases h with (h | h) | h
  · obtain ⟨c, -, rfl⟩ := List.mem_map.1 h; omega
  · obtain ⟨c, -, rfl⟩ := List.mem_map.1 h; omega
  · obtain ⟨x, -, h⟩ := List.mem_flatMap.1 h
    obtain ⟨i, hi, rfl⟩ := List.mem_map.1 h
    rw [List.mem_range] at hi; omega

/-- A sector of either frame that is not busy is blank. -/
theorem State.homeByte_not_busy {s : State} {f g a : Nat} (h : a % 2 ^ 16 / 32 ∉ s.busySectors f g) (hf : a / 2 ^ 16 = f ∨ a / 2 ^ 16 = g) :
    s.homeByte a = blankByte := by
  unfold State.busySectors at h
  dsimp only at h
  rw [mem_sortBy_iff, mem_dedup, List.mem_append, List.mem_append, not_or, not_or] at h
  obtain ⟨⟨hc, -⟩, hl⟩ := h
  have hnone : s.l2? (a / 128) = none := by
    cases hx : s.l2? (a / 128) with
    | none => rfl
    | some x =>
      have hline := State.l2?_line hx
      have hin : x ∈ s.linesIn f ++ s.linesIn g := by
        rw [List.mem_append]
        refine hf.imp (fun e => ?_) (fun e => ?_) <;>
        · exact List.mem_filter.2 ⟨State.l2?_mem hx, decide_eq_true (by rw [hline]; omega)⟩
      exact absurd (List.mem_flatMap.2 ⟨x, hin, List.mem_map.2 ⟨a % 128 / 32, List.mem_range.2 (by omega), by rw [hline]; omega⟩⟩) hl
  rw [State.homeByte_eq, hnone]
  refine mget_of_no_key _ _ _ fun c hm he => hc (List.mem_map.2 ⟨c, List.mem_filter.2 ⟨hm, ?_⟩, by rw [he]⟩)
  rw [he, Bool.or_eq_true, decide_eq_true_eq, decide_eq_true_eq]
  exact hf

theorem State.homeByte_migrate {s : State} {n f g : Nat} (hfg : f ≠ g) (a : Nat) :
    ((s.busySectors f g).foldl (fun s x => s.copySector n f g x) s).homeByte a = if a / 2 ^ 16 = g then s.homeByte (f * 2 ^ 16 + a % 2 ^ 16) else s.homeByte a := by
  rw [homeByte_foldl_copySector n hfg _ fun _ h => State.busySectors_lt h]
  by_cases hg : a / 2 ^ 16 = g
  · by_cases hm : a % 2 ^ 16 / 32 ∈ s.busySectors f g
    · rw [if_pos ⟨hg, hm⟩, if_pos hg]
    · rw [if_neg (fun e => hm e.2), if_pos hg, State.homeByte_not_busy hm (.inr hg),
        State.homeByte_not_busy (f := f) (g := g) (a := f * 2 ^ 16 + a % 2 ^ 16) (by rw [show (f * 2 ^ 16 + a % 2 ^ 16) % 2 ^ 16 = a % 2 ^ 16 by omega]; exact hm)
          (.inl (by omega))]
  · rw [if_neg (fun e => hg e.1), if_neg hg]

end Sys2Proof.Machine
end

section
/-! SUPPORT. The management commands, one by one. -/

namespace Sys2Proof.Machine

open Sys2Proof

/-- An argument register's field. -/
def State.mgmtArg (s : State) (k lo n : Nat) : Nat := fld (s.reg (0x410 + 8 * k)) lo n

theorem execRetire_none {s : State} (h : s.dev.mgmt = none) : execRetire s = .next (s.mgmtCmd 1) := by
  unfold execRetire; simp only [h]

theorem execMigrate_none {s : State} (h : s.dev.mgmt = none) : execMigrate s = .next (s.mgmtCmd 2) := by
  unfold execMigrate; simp only [h]

theorem commands_busy {s : State} (hb : (s.reg 0x408).getLsbD 0 = true) (hn : s.dev.mgmt = none) {i : Instr}
    (hi : i ∈ [Instr.retire, .migrate, .clearbad, .attest, .debugtoken, .readbad]) : exec i s = .next (s.setReg 0x408 (s.reg 0x408 ||| 4)) := by
  have hc : ∀ op, Host.Outcome.next (s.mgmtCmd op) = (.next (s.setReg 0x408 (s.reg 0x408 ||| 4)) : Host.Outcome State Fault Refusal) :=
    fun op => congrArg _ (s.mgmtCmd_busy hb op)
  simp only [List.mem_cons, List.not_mem_nil, or_false] at hi
  rcases hi with rfl | rfl | rfl | rfl | rfl | rfl
  · exact (execRetire_none hn).trans (hc 1)
  · exact (execMigrate_none hn).trans (hc 2)
  all_goals exact hc _

theorem unknown_ends {s : State} (h : (s.reg 0x408).getLsbD 0 = false) {op : BitVec 8} (hop : op.toNat = 0 ∨ 6 < op.toNat) :
    Ends s (.mgmtUnknownCommand op) 14 0 fun t => t.dev.badList = s.dev.badList :=
  ends_of_mgmtDone (congrArg Host.Outcome.next ((s.mgmtCmd_idle h op.isLt).trans (if_pos hop))) (by decide) (by decide) rfl rfl rfl

/-! ### CLEARBAD and READBAD -/

theorem clearbad_ends {s : State} (h : (s.reg 0x408).getLsbD 0 = false) (hl : s.dev.badList.length ≤ 4096) (hs : s.dev.sec = 0) :
    Ends s .clearbad 0 s.dev.badList.length fun t => t.dev.badList = [] := by
  refine ends_of_mgmtDone (u := { s with dev := { s.dev with badList := [] } }) (congrArg Host.Outcome.next ?_) (by decide) (by omega) rfl rfl rfl
  rw [s.mgmtCmd_quick h (by decide) (by decide) (mgmtBadArg_unused rfl), s.mgmtQuick_clearbad, if_neg (not_not.2 hs)]

theorem clearbad_refused {s : State} (h : (s.reg 0x408).getLsbD 0 = false) (hs : s.dev.sec ≠ 0) :
    Ends s .clearbad 6 0 fun t => t.dev.badList = s.dev.badList := by
  refine ends_of_mgmtDone (u := s) (congrArg Host.Outcome.next ?_) (by decide) (by decide) rfl rfl rfl
  rw [s.mgmtCmd_quick h (by decide) (by decide) (mgmtBadArg_unused rfl), s.mgmtQuick_clearbad, if_pos hs]

/-- Entries written one after the other read back as words. -/
theorem State.homeBytes_words (s : State) (w pa : Nat) (l : List DWord) {i : Nat} {x : DWord} (h : l[i]? = some x) :
    (s.homePuts w pa (l.flatMap fun w => leBytes 8 w.toNat)).homeBytes (pa + 8 * i) 8 = x.toNat := by
  have hi : i < l.length := (List.getElem?_eq_some_iff.1 h).1
  have hlen := length_flatMap_const (fun w : DWord => leBytes 8 w.toNat) 8 (fun _ => leBytes_length 8 _) l
  have hx := State.homeBytes_of_list (s := s.homePuts w pa (l.flatMap fun w => leBytes 8 w.toNat)) (pa := pa + 8 * i) (leBytes 8 x.toNat) fun j hj => by
    rw [leBytes_length] at hj
    rw [State.homeByte_homePuts, hlen, if_pos (by omega), show pa + 8 * i + j - pa = 8 * i + j by omega]
    exact getD_flatMap 0 _ 8 (fun _ => leBytes_length 8 _) j hj l i x h
  rw [leBytes_length, ofLe_leBytes] at hx
  exact hx.trans (Nat.mod_eq_of_lt x.isLt)

theorem readbad_ends {s : State} (h : (s.reg 0x408).getLsbD 0 = false) (hl : s.dev.badList.length ≤ 4096) (h1 : s.mgmtArg 1 32 32 = 0)
    (h0 : s.mgmtArg 0 0 3 = 0) (hb : s.bufOk (s.mgmtArg 0 0 64) (s.mgmtArg 1 0 32) = true) (hn : 8 * s.dev.badList.length ≤ s.mgmtArg 1 0 32) :
    Ends s .readbad 0 s.dev.badList.length fun t => ∀ i w, s.dev.badList[i]? = some w → t.homeBytes (s.mgmtArg 0 0 64 + 8 * i) 8 = w.toNat := by
  have hd := State.homePuts_same 0 (s.dev.badList.flatMap fun w => leBytes 8 w.toNat) s (s.mgmtArg 0 0 64)
  refine ends_of_mgmtDone (congrArg Host.Outcome.next ?_) (by decide) (by omega) (congrArg _ hd.1) (State.reg_homePuts _ _ _ _ _)
    (fun i w hw => s.homeBytes_words 0 (s.mgmtArg 0 0 64) _ hw)
  rw [s.mgmtCmd_quick h (by decide) (by decide) (mgmtBadArg_readbad h1 h0), s.mgmtQuick_readbad]
  exact (if_neg (ne_false_of_eq_true hb)).trans (if_neg (Nat.not_lt.2 hn))

theorem readbad_unreachable {s : State} (h : (s.reg 0x408).getLsbD 0 = false) (h1 : s.mgmtArg 1 32 32 = 0)
    (h0 : s.mgmtArg 0 0 3 = 0) (hb : s.bufOk (s.mgmtArg 0 0 64) (s.mgmtArg 1 0 32) = false) : Ends s .readbad 8 0 fun t => t.mem = s.mem := by
  refine ends_of_mgmtDone (u := s) (congrArg Host.Outcome.next ?_) (by decide) (by decide) rfl rfl rfl
  rw [s.mgmtCmd_quick h (by decide) (by decide) (mgmtBadArg_readbad h1 h0), s.mgmtQuick_readbad]
  exact if_pos hb

/-! ### ATTEST -/

theorem attest_ends {s : State} (h : (s.reg 0x408).getLsbD 0 = false) (h2 : s.mgmtArg 2 32 32 = 0) (h0 : s.mgmtArg 0 0 3 = 0) (h1 : s.mgmtArg 1 0 3 = 0)
    (hb0 : s.bufOk (s.mgmtArg 0 0 64) 64 = true) (hb1 : s.bufOk (s.mgmtArg 1 0 64) (s.mgmtArg 2 0 32) = true)
    (hn : 7315 + 64 * s.dev.running.length ≤ s.mgmtArg 2 0 32) :
    Ends s .attest 0 (7315 + 64 * s.dev.running.length) fun t => ∀ i < 7315 + 64 * s.dev.running.length,
      t.homeByte (s.mgmtArg 1 0 64 + i) = (s.attestation (leBytes 64 (s.homeBytes (s.mgmtArg 0 0 64) 64))).getD i 0 := by
  have hd := State.homePuts_same 0 (s.attestation (s.hostBytes (s.mgmtArg 0 0 64) 64)) s (s.mgmtArg 1 0 64)
  have hlt : s.mgmtArg 2 0 32 < 2 ^ 32 := fld_lt _ _ _
  refine ends_of_mgmtDone (congrArg Host.Outcome.next ?_) (by decide) (by omega) (congrArg _ hd.1) (State.reg_homePuts _ _ _ _ _) (fun i hi => ?_)
  · rw [s.mgmtCmd_quick h (by decide) (by decide) (mgmtBadArg_attest h2 h0 h1), s.mgmtQuick_attest]
    exact (if_neg (not_or.2 ⟨ne_false_of_eq_true hb0, ne_false_of_eq_true hb1⟩)).trans (if_neg (Nat.not_lt.2 hn))
  · rw [State.homeByte_mgmtDone, State.homeByte_homePuts, s.attestation_length (s.hostBytes (s.mgmtArg 0 0 64) 64) (leBytes_length _ _), if_pos (by omega), Nat.add_sub_cancel_left]
    rfl

theorem attest_unreachable {s : State} (h : (s.reg 0x408).getLsbD 0 = false) (h2 : s.mgmtArg 2 32 32 = 0) (h0 : s.mgmtArg 0 0 3 = 0) (h1 : s.mgmtArg 1 0 3 = 0)
    (hb : s.bufOk (s.mgmtArg 0 0 64) 64 = false ∨ s.bufOk (s.mgmtArg 1 0 64) (s.mgmtArg 2 0 32) = false) : Ends s .attest 8 0 fun t => t.mem = s.mem := by
  refine ends_of_mgmtDone (u := s) (congrArg Host.Outcome.next ?_) (by decide) (by decide) rfl rfl rfl
  rw [s.mgmtCmd_quick h (by decide) (by decide) (mgmtBadArg_attest h2 h0 h1), s.mgmtQuick_attest]
  exact if_pos hb

/-! ### DEBUGTOKEN -/

/-- The token in the buffer. -/
def State.token (s : State) : List Byte := leBytes (s.mgmtArg 1 0 16) (s.homeBytes (s.mgmtArg 0 0 64) (s.mgmtArg 1 0 16))

theorem token_accepted {s : State} (h : (s.reg 0x408).getLsbD 0 = false) (h1 : s.mgmtArg 1 16 48 = 0) (h0 : s.mgmtArg 0 0 3 = 0)
    (hb : s.bufOk (s.mgmtArg 0 0 64) (s.mgmtArg 1 0 16) = true) (ht : s.mgmtArg 1 0 16 = 4707 ∧ s.tokenOk s.token = true) :
    Ends s .debugtoken 0 (tokenDebug s.token) fun t => t.dev.dbg = tokenDebug s.token ∧ t.dev.tokSerial.toNat = tokenSerial s.token := by
  obtain ⟨h1d, h2d, h3d, h4d⟩ := State.setDebug_same { s with dev := { s.dev with tokSerial := BitVec.ofNat 64 (tokenSerial s.token) } } (tokenDebug s.token)
  have hst : tokenDebug s.token < 3 := State.tokenOk_debug ht.2
  refine ends_of_mgmtDone (u := State.setDebug { s with dev := { s.dev with tokSerial := BitVec.ofNat 64 (tokenSerial s.token) } } (tokenDebug s.token))
    (congrArg Host.Outcome.next ?_) (by decide) (by omega) h3d (State.reg_congr h2d _) ⟨h1d, ?_⟩
  · rw [s.mgmtCmd_quick h (by decide) (by decide) (mgmtBadArg_token h1 h0), s.mgmtQuick_token]
    refine (if_neg (ne_false_of_eq_true hb)).trans ((if_pos ht).trans ?_)
    exact congrArg (State.mgmtDone _ 0) h1d
  · exact (congrArg BitVec.toNat h4d).trans ((BitVec.toNat_ofNat _ _).trans (Nat.mod_eq_of_lt (tokenSerial_lt _)))

theorem token_rejected {s : State} (h : (s.reg 0x408).getLsbD 0 = false) (hd : s.dev.dbg < 3) (h1 : s.mgmtArg 1 16 48 = 0) (h0 : s.mgmtArg 0 0 3 = 0)
    (hb : s.bufOk (s.mgmtArg 0 0 64) (s.mgmtArg 1 0 16) = true) (ht : ¬ (s.mgmtArg 1 0 16 = 4707 ∧ s.tokenOk s.token = true)) :
    Ends s .debugtoken 9 s.dev.dbg fun t => t.dev.dbg = s.dev.dbg ∧ t.dev.tokSerial = s.dev.tokSerial ∧
      ∃ r, t.dev.repQueue = s.dev.repQueue ++ [r] ∧ r.kind = 16 ∧ r.p = [2, BitVec.ofNat 64 (tokenSerial s.token)] := by
  refine ends_of_mgmtDone (u := s.report 16 8 255 none [2, tokenSerial s.token] []) (congrArg Host.Outcome.next ?_) (by decide) (by omega) rfl rfl
    ⟨rfl, rfl, _, rfl, rfl, rfl⟩
  rw [s.mgmtCmd_quick h (by decide) (by decide) (mgmtBadArg_token h1 h0), s.mgmtQuick_token]
  exact (if_neg (ne_false_of_eq_true hb)).trans (if_neg ht)

theorem token_unreachable {s : State} (h : (s.reg 0x408).getLsbD 0 = false) (hd : s.dev.dbg < 3) (h1 : s.mgmtArg 1 16 48 = 0) (h0 : s.mgmtArg 0 0 3 = 0)
    (hb : s.bufOk (s.mgmtArg 0 0 64) (s.mgmtArg 1 0 16) = false) : Ends s .debugtoken 8 s.dev.dbg fun t => t.mem = s.mem ∧ t.dev.dbg = s.dev.dbg := by
  refine ends_of_mgmtDone (u := s) (congrArg Host.Outcome.next ?_) (by decide) (by omega) rfl rfl ⟨rfl, rfl⟩
  rw [s.mgmtCmd_quick h (by decide) (by decide) (mgmtBadArg_token h1 h0), s.mgmtQuick_token]
  exact if_pos hb

/-! ### RETIRE -/

/-- A shootdown of one frame, which the mailbox began. -/
def Shot (s t : State) (frame : Nat) : Prop := ∃ k : Shoot, t.tr.shoots = s.tr.shoots ++ [k] ∧ k.kind = 3 ∧ k.first = frame ∧ k.count = 1 ∧ k.owner = .mgmt

/-- A step that begins with the shootdown of a frame. -/
theorem shot_of_startShoot {s u : State} (hl : s.ShootsLive) (htr : u.tr = s.tr) (hrst : u.dev.dieRst = s.dev.dieRst) (frame : Nat) :
    Shot s (u.startShoot 3 0 frame 1 .mgmt) frame ∧ (u.startShoot 3 0 frame 1 .mgmt).dev.mgmt = u.dev.mgmt ∧
      ∀ p, p ≠ tlbiOff → (u.startShoot 3 0 frame 1 .mgmt).reg p = u.reg p := by
  have hu : u.ShootsLive := by
    unfold State.ShootsLive
    rw [htr, hrst]; exact hl
  obtain ⟨k, h1, h2, h3, h4, h5, h6, h7⟩ := u.startShoot_live hu 3 0 frame 1 .mgmt
  rw [htr] at h5
  exact ⟨⟨k, h5, h1, h2, h3, h4⟩, h6, h7⟩

theorem retire_begins {s : State} (h : (s.reg 0x408).getLsbD 0 = false) (hn : s.dev.mgmt = none) (hl : s.ShootsLive) (h0 : s.mgmtArg 0 32 32 = 0)
    (h1 : s.mgmtArg 1 2 62 = 0) (hc : s.mgmtArg 1 0 2 ≤ 2) (ht : (frameTier (s.mgmtArg 0 0 32)).isSome = true) (hf : s.frmapOf (s.mgmtArg 0 0 32) = none) :
    ∃ t m, exec .retire s = .next t ∧ Shot s t (s.mgmtArg 0 0 32) ∧ (t.reg 0x408).getLsbD 0 = true ∧ t.dev.mgmt = some m ∧ m.op = 1 ∧ m.phase = 1
        ∧ m.arg 0 0 32 = s.mgmtArg 0 0 32 ∧ m.arg 1 0 2 = s.mgmtArg 1 0 2 := by
  have ha : (s.mgmtOf 1).arg 0 0 32 = s.mgmtArg 0 0 32 := s.mgmtOf_arg 1 (by decide) _ _
  have hstep : s.mgmtCmd 1 = ((s.mgmtBegun 1).setMgmt { s.mgmtOf 1 with phase := 1 }).startShoot 3 0 (s.mgmtArg 0 0 32) 1 .mgmt := by
    rw [s.mgmtCmd_idle h (by decide), if_neg (by decide), if_neg (ne_true_of_eq_false (mgmtBadArg_retire h0 h1 hc ht)), if_pos rfl, ← ha]
    refine State.retireStep_shoot rfl ?_
    rw [ha]
    exact (State.frmapOf_congr (fun o ho => s.reg_mgmtBegun 1 (by omega)) _).trans hf
  obtain ⟨h3, h4, h5⟩ := shot_of_startShoot (u := (s.mgmtBegun 1).setMgmt { s.mgmtOf 1 with phase := 1 }) hl rfl rfl (s.mgmtArg 0 0 32)
  refine ⟨_, { s.mgmtOf 1 with phase := 1 }, (execRetire_none hn).trans (congrArg _ hstep), h3, ?_, h4, rfl, rfl, ha, s.mgmtOf_arg 1 (by decide) _ _⟩
  rw [h5 _ (by decide)]
  exact s.reg_mgmtBegun_busy 1

theorem retire_ends {s : State} (hl : s.dev.badList.length ≤ 4096) {m : Mgmt} (hm : s.dev.mgmt = some m) (hop : m.op = 1) (hp : m.phase = 1)
    (hs : s.mgmtShooting = false) :
    if s.isBad (m.arg 0 0 32) then Ends s .retire 1 s.dev.badList.length fun t => t.dev.badList = s.dev.badList
    else if 4096 ≤ s.dev.badList.length then Ends s .retire 2 s.dev.badList.length fun t => t.dev.badList = s.dev.badList
    else Ends s .retire 0 (s.dev.badList.length + 1) fun t => ∃ w, t.dev.badList = s.dev.badList ++ [w] ∧ badFrame w = m.arg 0 0 32 ∧ chkGood w = true
      ∧ fld w 33 1 = (frameTier (m.arg 0 0 32)).getD 0 ∧ fld w 34 2 = m.arg 1 0 2 ∧ fld w 36 12 = s.dev.badSeq % 4096 := by
  have he : exec .retire s = .next (s.appendBad (m.arg 0 0 32) (m.arg 1 0 2)) := execRetire_next s hm hop hp hs
  rw [State.appendBad_eq] at he
  by_cases hb : s.isBad (m.arg 0 0 32) = true
  · rw [if_pos hb] at he ⊢
    exact ends_of_mgmtDone he (by decide) (by omega) rfl rfl rfl
  · rw [if_neg hb] at he ⊢
    by_cases hn : 4096 ≤ s.dev.badList.length
    · rw [if_pos hn] at he ⊢
      exact ends_of_mgmtDone he (by decide) (by omega) rfl rfl rfl
    · rw [if_neg hn] at he ⊢
      obtain ⟨h1, h2, h3, h4⟩ := badWord_fields s (frame := m.arg 0 0 32) (cause := m.arg 1 0 2) (fld_lt _ _ _) (fld_lt _ _ _)
      refine ends_of_mgmtDone he (by decide) (by omega) rfl rfl ⟨_, rfl, ?_, chkGood_withChk _, ?_, ?_, ?_⟩
      · exact (fld_withChk _ (by decide)).trans h1
      · exact (fld_withChk _ (by decide)).trans h2
      · exact (fld_withChk _ (by decide)).trans h3
      · exact (fld_withChk _ (by decide)).trans h4

/-! ### MIGRATE -/

theorem migrate_begins {s : State} (h : (s.reg 0x408).getLsbD 0 = false) (hn : s.dev.mgmt = none) (hl : s.ShootsLive) {f g : Nat}
    (hf : s.mgmtArg 0 0 64 = f) (hg : s.mgmtArg 1 0 64 = g) (hf32 : f < 2 ^ 32) (hg32 : g < 2 ^ 32) (htf : (frameTier f).isSome = true)
    (htg : (frameTier g).isSome = true) :
    if s.migrateBad f g ≠ 0 then Ends s .migrate (s.migrateBad f g) 0 fun t => ∀ n < 8, t.reg (frmapOff n + 8) = s.reg (frmapOff n + 8)
    else ∃ t m, exec .migrate s = .next t ∧ Shot s t f ∧ (t.reg 0x408).getLsbD 0 = true ∧ t.dev.mgmt = some m ∧ m.op = 2 ∧ m.phase = 1 ∧ m.slot < 8
      ∧ (s.reg (frmapOff m.slot + 8)).getLsbD 0 = false ∧ (t.reg (frmapOff m.slot)).toNat = f + g * 2 ^ 32 ∧ t.reg (frmapOff m.slot + 8) = 3 := by
  subst hf hg
  have haf : (s.mgmtOf 2).arg 0 0 32 = s.mgmtArg 0 0 64 := (s.mgmtOf_arg 2 (by decide) _ _).trans (fld_halves _ hf32).2
  have hag : (s.mgmtOf 2).arg 1 0 32 = s.mgmtArg 1 0 64 := (s.mgmtOf_arg 2 (by decide) _ _).trans (fld_halves _ hg32).2
  have hbad : (s.mgmtBegun 2).migrateBad (s.mgmtArg 0 0 64) (s.mgmtArg 1 0 64) = s.migrateBad (s.mgmtArg 0 0 64) (s.mgmtArg 1 0 64) :=
    State.migrateBad_congr (fun o ho => s.reg_mgmtBegun 2 (by omega)) rfl (s.validZrs_mgmtBegun 2) _ _
  have hcmd : exec .migrate s = .next ((s.mgmtBegun 2).migrateStep (s.mgmtOf 2)) := by
    refine (execMigrate_none hn).trans (congrArg _ ?_)
    rw [s.mgmtCmd_idle h (by decide), if_neg (by decide), if_neg (ne_true_of_eq_false (mgmtBadArg_migrate hf32 hg32 htf htg)), if_neg (by decide), if_pos rfl]
    rfl
  by_cases hb : s.migrateBad (s.mgmtArg 0 0 64) (s.mgmtArg 1 0 64) = 0
  · rw [if_neg (not_not.2 hb)]
    rw [← haf, ← hag] at hb hbad
    obtain ⟨n, hn8, hfind, hfree⟩ := State.free_slot (hbad.trans hb)
    have hfr : (s.reg (frmapOff n + 8)).getLsbD 0 = false := by
      rw [s.reg_mgmtBegun 2 (by unfold frmapOff; omega)] at hfree; exact hfree
    rw [State.migrateStep_shoot rfl (hbad.trans hb) hfind, haf, hag] at hcmd
    obtain ⟨h1, h2, h3⟩ := State.reg_frmapPut (s.mgmtBegun 2) n (s.mgmtArg 0 0 64) (s.mgmtArg 1 0 64)
    obtain ⟨p1, p2⟩ := (s.mgmtBegun 2).frmapPut_same n (s.mgmtArg 0 0 64) (s.mgmtArg 1 0 64)
    generalize (s.mgmtBegun 2).frmapPut n (s.mgmtArg 0 0 64) (s.mgmtArg 1 0 64) = u at *
    obtain ⟨q1, q2, q3, q4⟩ := u.setMgmt_same { s.mgmtOf 2 with phase := 1, slot := n }
    obtain ⟨h4, h5, h6⟩ := shot_of_startShoot hl (q1.trans p1) (q2.trans p2) (s.mgmtArg 0 0 64)
    refine ⟨_, { s.mgmtOf 2 with phase := 1, slot := n }, hcmd, h4, ?_, h5.trans q3, rfl, rfl, hn8, hfr, ?_, ?_⟩
    · rw [h6 _ (by decide), q4, h3]
      exact s.reg_mgmtBegun_busy 2
    · rw [h6 _ (by unfold frmapOff tlbiOff; omega), q4]
      exact (congrArg BitVec.toNat h1).trans ((BitVec.toNat_ofNat _ _).trans (Nat.mod_eq_of_lt (by omega)))
    · rw [h6 _ (by unfold frmapOff tlbiOff; omega), q4]
      exact h2
  · rw [if_pos hb]
    rw [State.migrateStep_bad rfl (by rw [haf, hag, hbad]; exact hb), haf, hag, hbad] at hcmd
    refine ends_of_mgmtDone hcmd (s.migrateBad_lt _ _) (by decide) rfl (s.reg_mgmtBegun 2 (by decide)) fun n _ => ?_
    rw [State.reg_mgmtDone, if_neg (by unfold frmapOff; omega), if_neg (by unfold frmapOff; omega), s.reg_mgmtBegun 2 (by unfold frmapOff; omega)]

theorem migrate_copies {s : State} {m : Mgmt} (hm : s.dev.mgmt = some m) (hop : m.op = 2) (hp : m.phase = 2) (hfg : m.arg 0 0 32 ≠ m.arg 1 0 32) :
    ∃ t, exec .migrate s = .next t ∧ t.dev.mgmt = some { m with phase := 3 }
      ∧ (∀ i < 65536, t.homeByte (m.arg 1 0 32 * 2 ^ 16 + i) = s.homeByte (m.arg 0 0 32 * 2 ^ 16 + i))
      ∧ ∀ a, a / 2 ^ 16 ≠ m.arg 1 0 32 → t.homeByte a = s.homeByte a := by
  refine ⟨((s.busySectors (m.arg 0 0 32) (m.arg 1 0 32)).foldl (fun s x => s.copySector m.slot (m.arg 0 0 32) (m.arg 1 0 32) x) s).setMgmt { m with phase := 3 },
    ?_, rfl, fun i hi => ?_, fun a ha => ?_⟩
  · show execMigrate s = _
    unfold execMigrate State.migrateStep
    simp only [hm, hop, hp, if_true]
  · refine (State.homeByte_migrate hfg _).trans ((if_pos (by omega)).trans ?_)
    congr 1; omega
  · exact (State.homeByte_migrate hfg _).trans (if_neg ha)

theorem migrateHoldClear_ends {s : State} {m : Mgmt} {n : Nat} (hm : s.dev.mgmt = some m) (hop : m.op = 2) (hp : m.phase = 3) (hsl : m.slot = n) (hn : n < 8) :
    Ends s (.migrateHoldClear n) 0 n fun t => t.reg (frmapOff n + 8) = s.reg (frmapOff n + 8) &&& ~~~2 := by
  refine ends_of_mgmtDone (u := s.setReg (frmapOff n + 8) (setFld (s.reg (frmapOff n + 8)) 1 1 0)) ?_ (by decide) (by omega) rfl
    (State.reg_setReg_ne _ _ (by unfold frmapOff; omega)) ?_
  · show execMigrateHoldClear n s = _
    unfold execMigrateHoldClear
    simp only [hm, hop, hp, hsl, and_self, if_true]
  · rw [State.reg_mgmtDone, if_neg (by unfold frmapOff; omega), if_neg (by unfold frmapOff; omega), State.reg_setReg_same, setFld_bit_eq_merge,
      show span 1 1 = 2 by decide]
    show merge _ 2 0#64 = _
    rw [merge, BitVec.zero_and, BitVec.or_zero]

end Sys2Proof.Machine
end

section
open Sys2Proof Sys2Proof.Machine

/-- Settles O56: each command by the lemma about it. -/
theorem managementCommandsEndWithStatusAndResult : Obligations.ManagementCommandsEndWithStatusAndResult := by
  unfold Obligations.ManagementCommandsEndWithStatusAndResult
  intro s hl hd idle arg ends len token shot live
  refine ⟨?busy, ?unknown, ?clear, ?clearRefused, ?readbad, ?attest, ?token, ?readbadBuf, ?attestBuf, ?tokenBuf, ?retire, ?retireEnd, ?migrate, ?copy, ?hold⟩
  case busy => exact fun hb hn i hi => commands_busy hb hn hi
  case unknown => exact fun op h hop => unknown_ends h.1 hop
  case clear => exact fun h hs => clearbad_ends h.1 hl hs
  case clearRefused => exact fun h hs => clearbad_refused h.1 hs
  case readbad => exact fun h h1 h0 hb hn => readbad_ends h.1 hl h1 h0 hb hn
  case attest => exact fun h h2 h0 h1 hb0 hb1 hn => attest_ends h.1 h2 h0 h1 hb0 hb1 hn
  case token =>
    intro h h1 h0 hb st serial
    by_cases ht : arg 1 0 16 = 4707 ∧ s.tokenOk token = true
    · rw [if_pos ht]; exact token_accepted h.1 h1 h0 hb ht
    · rw [if_neg ht]; exact token_rejected h.1 hd h1 h0 hb ht
  case readbadBuf => exact fun h h1 h0 hb => readbad_unreachable h.1 h1 h0 hb
  case attestBuf => exact fun h h2 h0 h1 hb => attest_unreachable h.1 h2 h0 h1 hb
  case tokenBuf => exact fun h h1 h0 hb => token_unreachable h.1 hd h1 h0 hb
  case retire =>
    intro frame h hlive h0 hf h1 hc ht hm
    subst hf
    exact retire_begins h.1 h.2 hlive h0 h1 hc ht hm
  case retireEnd => exact fun m hm hop hp hs => retire_ends hl hm hop hp hs
  case migrate => exact fun f g h hlive hf hg hf32 hg32 htf htg => migrate_begins h.1 h.2 hlive hf hg hf32 hg32 htf htg
  case copy => exact fun m hm hop hp hfg => migrate_copies hm hop hp hfg
  case hold => exact fun m n hm hop hp hsl hn => migrateHoldClear_ends hm hop hp hsl hn

end

section
/-! SUPPORT. Power states (R441, R442): STATE, parked dies, idleness and sleep. -/

namespace Sys2Proof.Machine

open Sys2Proof

/-! ### PWRCTL -/

/-- A step that changes bits of PWRCTL and nothing else. -/
def PowerOnly (s t : State) (m w : DWord) : Prop :=
  { t with dev := { t.dev with regs := s.dev.regs } } = s ∧ t.reg 0x100 = (s.reg 0x100 &&& ~~~m ||| w &&& m) ∧ ∀ o, o ≠ 0x100 → t.reg o = s.reg o

theorem powerOnly_setReg (s : State) {v m w : DWord} (h : v = merge (s.reg 0x100) m w) : PowerOnly s (s.setReg 0x100 v) m w :=
  ⟨rfl, (State.reg_setReg_same _ _ _).trans h, fun _ ho => State.reg_setReg_ne _ _ ho⟩

/-- Two writes of PWRCTL, the second from what the first left. -/
theorem powerOnly_setReg_setReg (s : State) {u v m w : DWord} (h : v = merge (s.reg 0x100) m w) : PowerOnly s ((s.setReg 0x100 u).setReg 0x100 v) m w :=
  ⟨rfl, (State.reg_setReg_same _ _ _).trans h, fun _ ho => (State.reg_setReg_ne _ _ ho).trans (State.reg_setReg_ne _ _ ho)⟩

/-- STATE as PARKED and idleness give it. -/
def powerState (w : DWord) (idle : Bool) : Nat := if fld w 24 8 ≠ 0 then 2 else if idle then 1 else 0

theorem powerState_lt (w : DWord) (idle : Bool) : powerState w idle < 16 := by
  unfold powerState
  split
  · decide
  · split <;> decide

theorem State.setPower_eq (s : State) (idle : Bool) : s.setPower idle = s.setReg 0x100 (setFld (s.reg 0x100) 4 4 (powerState (s.reg 0x100) idle)) := rfl

theorem State.idleNow_congr {s t : State} (hw : t.wgs = s.wgs) (hd : t.dev.idleSince = s.dev.idleSince) (hc : t.clock = s.clock)
    (hr : fld (t.reg 0x100) 16 4 = fld (s.reg 0x100) 16 4) : t.idleNow = s.idleNow := by
  unfold State.idleNow
  rw [hw, hd, hc, show pwrOff = 0x100 from rfl, hr]

/-- STATE written with the shifted value. -/
theorem setFld_state (w : DWord) (x : Nat) : setFld w 4 4 x = merge w 0xF0 (BitVec.ofNat 64 x <<< 4) := setFld_eq_merge w 4 4 x

theorem merge_merge (c m m' v : DWord) : merge (merge c m 0) m' v = merge c (m ||| m') (v &&& m') := by
  refine BitVec.eq_of_getLsbD_eq fun i _ => ?_
  rw [merge_getLsbD, merge_getLsbD, merge_getLsbD, BitVec.getLsbD_or, BitVec.getLsbD_and, show (0 : DWord).getLsbD i = false from BitVec.getLsbD_zero]
  cases m.getLsbD i <;> cases m'.getLsbD i <;> simp

/-! ### Idleness and wake -/

theorem idleEntry_enters {s : State} (ha : s.asleep = false) (hi : s.idleNow = true) (hh : ∀ h ∈ s.sched.heads, s.admissible h = false) :
    ∃ t, execIdleEntry s = .next t ∧ PowerOnly s t 0xF0 (if fld (s.reg 0x100) 24 8 ≠ 0 then 0x20 else 0x10) := by
  refine ⟨_, if_neg ?_, powerOnly_setReg s ?_⟩
  · rintro (h | h | h)
    · rw [ha] at h; cases h
    · rw [hi] at h; cases h
    · obtain ⟨x, hx, hp⟩ := List.any_eq_true.1 h
      rw [hh x hx] at hp; cases hp
  · show setFld (s.reg 0x100) 4 4 (powerState (s.reg 0x100) true) = _
    rw [setFld_state, powerState]
    split <;> rfl

theorem moduleWake_wakes {s : State} (ha : s.asleep = true) (hw : (s.reg 0x100).getLsbD 2 = true) :
    ∃ t, execModuleWake s = .next t ∧ PowerOnly s t 0xF4 (if fld (s.reg 0x100) 24 8 ≠ 0 then 0x20 else if s.idleNow then 0x10 else 0) := by
  have hc : (s.asleep && (s.reg pwrOff).getLsbD 2) = true := by rw [ha]; exact hw
  refine ⟨_, if_pos hc, powerOnly_setReg_setReg s ?_⟩
  show setFld ((s.setReg 0x100 (setFld (s.reg 0x100) 2 1 0)).reg 0x100) 4 4
    (powerState ((s.setReg 0x100 (setFld (s.reg 0x100) 2 1 0)).reg 0x100) s.idleNow) = _
  rw [State.reg_setReg_same, powerState, fld_setFld_ne _ _ _ _ _ _ (by decide), setFld_state, setFld_bit_eq_merge, show span 2 1 = 4 by decide]
  refine (merge_merge _ _ _ _).trans ?_
  rw [show (4 : DWord) ||| 0xF0 = 0xF4 by decide]
  split
  · rfl
  · split <;> rfl

theorem moduleWake_awake {s : State} (ha : s.asleep = false) : execModuleWake s = .next s := by
  unfold execModuleWake
  rw [ha]; rfl

/-! ### Parked dies -/

theorem fld_testBit_fld (w : DWord) {d : Nat} (hd : d < 8) : (fld w 24 8).testBit d = w.getLsbD (24 + d) := by
  rw [fld_testBit, decide_eq_true hd, Bool.true_and]

/-- PARKED after a bit of it that was clear is set. -/
theorem fld_parked_on (w : DWord) {d : Nat} (hd : d < 8) (h : (fld w 24 8).testBit d = false) : fld (setFld w (24 + d) 1 1) 24 8 = fld w 24 8 + 2 ^ d := by
  have hb : ¬ w.toNat / 2 ^ (24 + d) % 2 = 1 := by
    rw [fld_testBit_fld w hd, BitVec.getLsbD, Nat.testBit_eq_decide_div_mod_eq] at h
    exact of_decide_eq_false h
  have hw := w.isLt
  unfold fld setFld nbits
  rw [BitVec.toNat_ofNat]
  simp only [Nat.shiftRight_eq_div_pow]
  interval_cases d <;> omega

/-- PARKED after a bit of it that was set is cleared. -/
theorem fld_parked_off (w : DWord) {d : Nat} (hd : d < 8) (h : (fld w 24 8).testBit d = true) : fld (setFld w (24 + d) 1 0) 24 8 = fld w 24 8 - 2 ^ d := by
  have hb : w.toNat / 2 ^ (24 + d) % 2 = 1 := by
    rw [fld_testBit_fld w hd, BitVec.getLsbD, Nat.testBit_eq_decide_div_mod_eq] at h
    exact of_decide_eq_true h
  have hw := w.isLt
  unfold fld setFld nbits
  rw [BitVec.toNat_ofNat]
  simp only [Nat.shiftRight_eq_div_pow]
  interval_cases d <;> omega

theorem diePark_parks {s : State} {d : Nat} (hd : d < 8) (hq : s.parkAsked.testBit d = true) (hp : s.parked.testBit d = false) (ha : s.asleep = false)
    (hw : ∀ w ∈ s.wgs, dieOf w.core ≠ d) (hf : ∀ f ∈ s.flights, dieOf f.core = d → f.port ≠ .stopped) :
    ∃ t, execDiePark d s = .next t ∧ fld (t.reg 0x100) 4 4 = 2 ∧ fld (t.reg 0x100) 24 8 = fld (s.reg 0x100) 24 8 + 2 ^ d
      ∧ (∀ c ∈ t.mem.l1, dieOf c.unit ≠ d) ∧ (∀ e ∈ t.tr.tlb, dieOf e.core ≠ d) ∧ ∀ a, t.homeByte a = s.homeByte a := by
  have hpark : fld (setFld (s.reg 0x100) (24 + d) 1 1) 24 8 = fld (s.reg 0x100) 24 8 + 2 ^ d := fld_parked_on _ hd hp
  have hpos : fld (setFld (s.reg 0x100) (24 + d) 1 1) 24 8 ≠ 0 := by
    rw [hpark]; exact Nat.ne_of_gt (Nat.lt_of_lt_of_le (Nat.two_pow_pos d) (Nat.le_add_left _ _))
  have hreg : ((s.dropDie d).setReg 0x100 (setFld (s.reg 0x100) (24 + d) 1 1)).reg 0x100 = setFld (s.reg 0x100) (24 + d) 1 1 := State.reg_setReg_same _ _ _
  refine ⟨_, if_neg ?_, ?_, ?_, ?_, ?_, fun a => rfl⟩
  · rintro (h | h | h | h | h)
    · rw [hq] at h; cases h
    · rw [hp] at h; cases h
    · rw [ha] at h; cases h
    · obtain ⟨w, hm, h⟩ := List.any_eq_true.1 h
      exact hw w hm (of_decide_eq_true h)
    · obtain ⟨f, hm, h⟩ := List.any_eq_true.1 h
      rw [Bool.and_eq_true, decide_eq_true_eq] at h
      refine hf f hm h.1 ?_
      have hs := h.2
      unfold Flight.isStopped at hs
      split at hs
      · assumption
      · cases hs
  · rw [show pwrOff = 0x100 from rfl, State.setPower_eq, State.reg_setReg_same, hreg, fld_setFld_same _ _ _ _ (by decide), powerState, if_pos hpos]; rfl
  · rw [show pwrOff = 0x100 from rfl, State.setPower_eq, State.reg_setReg_same, hreg, fld_setFld_ne _ _ _ _ _ _ (by decide)]
    exact hpark
  · exact fun c hc => of_decide_eq_true (List.mem_filter.1 hc).2
  · exact fun e he => of_decide_eq_true (List.mem_filter.1 he).2

theorem dieUnpark_unparks {s : State} {d : Nat} (hd : d < 8) (hq : s.parkAsked.testBit d = false) (hp : s.parked.testBit d = true) (ha : s.asleep = false) :
    ∃ t, execDieUnpark d s = .next t ∧ fld (t.reg 0x100) 24 8 = fld (s.reg 0x100) 24 8 - 2 ^ d
      ∧ fld (t.reg 0x100) 4 4 = if fld (s.reg 0x100) 24 8 ≠ 2 ^ d then 2 else if s.idleNow then 1 else 0 := by
  have hpark : fld (setFld (s.reg 0x100) (24 + d) 1 0) 24 8 = fld (s.reg 0x100) 24 8 - 2 ^ d := fld_parked_off _ hd hp
  have hle : 2 ^ d ≤ fld (s.reg 0x100) 24 8 := Nat.ge_two_pow_of_testBit hp
  have hreg : (s.setReg 0x100 (setFld (s.reg 0x100) (24 + d) 1 0)).reg 0x100 = setFld (s.reg 0x100) (24 + d) 1 0 := State.reg_setReg_same _ _ _
  have hidle : (s.setReg 0x100 (setFld (s.reg 0x100) (24 + d) 1 0)).idleNow = s.idleNow :=
    State.idleNow_congr rfl rfl rfl (by rw [hreg, fld_setFld_ne _ _ _ _ _ _ (by omega)])
  refine ⟨_, if_neg ?_, ?_, ?_⟩
  · rintro (h | h | h)
    · rw [hq] at h; cases h
    · rw [hp] at h; cases h
    · rw [ha] at h; cases h
  · rw [show pwrOff = 0x100 from rfl, State.setPower_eq, State.reg_setReg_same, hreg, fld_setFld_ne _ _ _ _ _ _ (by decide)]
    exact hpark
  · rw [show pwrOff = 0x100 from rfl, State.setPower_eq, State.reg_setReg_same, hreg, fld_setFld_same _ _ _ _ (by decide),
      Nat.mod_eq_of_lt (show _ < 2 ^ 4 from powerState_lt _ _), powerState, hpark, hidle]
    by_cases h : fld (s.reg 0x100) 24 8 = 2 ^ d
    · rw [if_neg (by omega), if_neg (not_not.2 h)]
    · rw [if_pos (by omega), if_pos h]

/-! ### Sleep -/

/-- SLEEP written alone asks for sleep and leaves PWRCTL as it stands. -/
theorem execPwrctlSleep_eq (s : State) : execPwrctlSleep s = .next (s.setReg 0x100 (s.reg 0x100)).sleepAsk := by
  have hr : devReg? 0x100 = some .pwrctl := rfl
  have hm : ∀ i < 64, (0xF0000 : DWord).getLsbD i = decide (16 ≤ i ∧ i < 20) ∧ (8 : DWord).getLsbD i = decide (i = 3) := by decide
  have hw : ∀ i < 64, (setFld (s.reg 0x100 &&& 0xF0000) 1 1 1).getLsbD i = if i = 1 then true else (s.reg 0x100).getLsbD i && decide (16 ≤ i ∧ i < 20) := by
    intro i hi
    rw [setFld_one _ _ _ _ (by decide), BitVec.getLsbD_and, (hm i hi).1]; rfl
  have h1 : rw (s.reg 0x100) 0xF0000 (setFld (s.reg 0x100 &&& 0xF0000) 1 1 1) 1 = s.reg 0x100 := by
    refine BitVec.eq_of_getLsbD_eq fun i hi => ?_
    rw [rw_eq_merge, show (0xF0000 : DWord) &&& halfMask 1 = 0xF0000 by decide, merge_getLsbD, (hm i hi).1, hw i hi]
    by_cases h : 16 ≤ i ∧ i < 20
    · rw [if_pos (decide_eq_true h), if_neg (by omega), decide_eq_true h, Bool.and_true]
    · rw [if_neg (by simpa using h)]
  have h2 : w1c (s.reg 0x100) 8 (setFld (s.reg 0x100 &&& 0xF0000) 1 1 1) 1 = s.reg 0x100 := by
    have h0 : (8 : DWord) &&& setFld (s.reg 0x100 &&& 0xF0000) 1 1 1 = 0#64 := by
      refine BitVec.eq_of_getLsbD_eq fun i hi => ?_
      rw [BitVec.getLsbD_and, (hm i hi).2, hw i hi, BitVec.getLsbD_zero]
      by_cases h : i = 3
      · subst h; simp
      · rw [decide_eq_false h, Bool.false_and]
    rw [w1c_eq_merge, h0, BitVec.zero_and]
    exact merge_zero _ _
  have hb : (setFld (s.reg 0x100 &&& 0xF0000) 1 1 1).getLsbD 1 = true := by rw [hw 1 (by decide)]; rfl
  refine congrArg Host.Outcome.next ?_
  rw [show pwrOff = 0x100 from rfl, s.regWrite_eq_regPut hr nofun nofun]
  simp only [State.regPut, hr, h1, h2, hb, ne_eq, not_true_eq_false, false_and, if_false, show ¬ (1 : Nat) = 2 by decide, not_false_eq_true, and_self, if_true]

/-- What refuses a sleep request. -/
def State.sleepRefused (s : State) : Bool :=
  !s.launches.isEmpty
    || ((List.range 256).any fun q =>
        (s.reg (0x20000 + 64 * q)).getLsbD 0 && decide (fld (s.reg (0x20000 + 64 * q + 8)) 0 32 ≠ fld (s.reg (0x20000 + 64 * q + 8)) 32 32))
    || s.flights.any fun f => f.port == .stopped

theorem State.sleepAsk_eq (s : State) : s.sleepAsk = if s.sleepRefused then s.setReg 0x100 (setFld (s.reg 0x100) 3 1 1)
    else
      let t := (((s.mem.blocks.foldl State.encodeNow s).mem.l2.foldl (fun s x => s.cleanLine x.line) (s.mem.blocks.foldl State.encodeNow s)).clearKeys)
      t.setReg 0x100 (setFld (t.reg 0x100) 4 4 3) := rfl

theorem pwrctlSleep_refused {s : State} (h : s.launches ≠ []) : ∃ t, execPwrctlSleep s = .next t ∧ PowerOnly s t 8 8 := by
  have hr : (s.setReg 0x100 (s.reg 0x100)).sleepRefused = true := by
    unfold State.sleepRefused
    rw [Bool.or_eq_true, Bool.or_eq_true]
    exact .inl (.inl (by simpa using h))
  refine ⟨_, execPwrctlSleep_eq s, ?_⟩
  rw [State.sleepAsk_eq, if_pos hr, State.reg_setReg_same]
  refine powerOnly_setReg_setReg s ?_
  rw [setFld_bit_eq_merge]; rfl

/-- A cleaned line is clean, and the other lines stay. -/
theorem State.mem_cleanLine {s : State} {line : Nat} {x : L2Line} (h : x ∈ (s.cleanLine line).mem.l2) : x.dirty = 0 ∨ x ∈ s.mem.l2 ∧ x.line ≠ line := by
  unfold State.cleanLine at h
  cases hy : s.l2? line with
  | none =>
    rw [hy] at h
    refine .inr ⟨h, fun e => ?_⟩
    have hn := List.find?_eq_none.1 (show s.mem.l2.find? (fun a => decide (a.line = line)) = none from hy) x h
    exact hn (decide_eq_true e)
  | some y =>
    rw [hy] at h
    have hl := State.l2?_line hy
    have hs : ((s.writeBack y).l2? ({ y with dirty := 0 } : L2Line).line).isSome = true := by
      show (s.l2? y.line).isSome = true
      rw [hl, hy]; rfl
    have h : x ∈ ((s.writeBack y).setL2 { y with dirty := 0 }).mem.l2 := h
    unfold State.setL2 at h
    rw [if_pos hs] at h
    obtain ⟨z, hz, rfl⟩ := List.mem_map.1 h
    by_cases hzl : z.line = y.line
    · rw [if_pos hzl]; exact .inl rfl
    · rw [if_neg hzl]; exact .inr ⟨hz, hl ▸ hzl⟩

theorem mem_foldl_cleanLine (l : List L2Line) {x : L2Line} : ∀ {s : State}, x ∈ (l.foldl (fun s y => s.cleanLine y.line) s).mem.l2 →
    x.dirty = 0 ∨ x ∈ s.mem.l2 ∧ ∀ y ∈ l, x.line ≠ y.line := by
  induction l with
  | nil => exact fun h => .inr ⟨h, by simp⟩
  | cons y l ih =>
    intro s h
    rcases ih h with h | ⟨h, hl⟩
    · exact .inl h
    · rcases State.mem_cleanLine h with h | ⟨h, hy⟩
      · exact .inl h
      · exact .inr ⟨h, List.forall_mem_cons.2 ⟨hy, hl⟩⟩

theorem State.cleanLine_dev (s : State) (line : Nat) : (s.cleanLine line).dev = s.dev := by
  unfold State.cleanLine
  split <;> rfl

theorem foldl_cleanLine_dev (l : List L2Line) : ∀ s : State, (l.foldl (fun s y => s.cleanLine y.line) s).dev = s.dev := by
  induction l with
  | nil => exact fun _ => rfl
  | cons y l ih => exact fun s => (ih _).trans (s.cleanLine_dev _)

/-- Lines whose dirty sectors are valid read the same after any of them are cleaned. -/
theorem homeByte_foldl_cleanLine (a : Nat) (l : List L2Line) : ∀ s : State, (∀ x ∈ s.mem.l2, x.dirty &&& ~~~x.valid = 0) →
    (l.foldl (fun s y => s.cleanLine y.line) s).homeByte a = s.homeByte a := by
  induction l with
  | nil => exact fun _ _ => rfl
  | cons y l ih =>
    intro s h
    refine (ih _ fun x hx => ?_).trans (s.homeByte_cleanLine _ a fun x hx => h x (State.l2?_mem hx))
    rcases State.mem_cleanLine hx with h0 | ⟨hm, -⟩
    · rw [h0]; exact BitVec.zero_and
    · exact h x hm

theorem pwrctlSleep_sleeps {s : State} (hl : s.launches = []) (hf : ∀ f ∈ s.flights, f.port ≠ .stopped) (hb : s.mem.blocks = [])
    (hd : ∀ x ∈ s.mem.l2, x.dirty &&& ~~~x.valid = 0)
    (hq : ∀ q < 256, (s.reg (0x20000 + 64 * q)).getLsbD 0 = true → fld (s.reg (0x20008 + 64 * q)) 0 32 = fld (s.reg (0x20008 + 64 * q)) 32 32) :
    ∃ t, execPwrctlSleep s = .next t ∧ t.asleep = true ∧ t.dev.keys = [] ∧
      (∃ r, t.dev.repQueue = s.dev.repQueue ++ [r] ∧ r.kind = 16 ∧ r.p = [3].map (BitVec.ofNat 64)) ∧ (∀ x ∈ t.mem.l2, x.dirty = 0) ∧ ∀ a, t.homeByte a = s.homeByte a := by
  have hr : (s.setReg 0x100 (s.reg 0x100)).sleepRefused = false := by
    unfold State.sleepRefused
    rw [Bool.or_eq_false_iff, Bool.or_eq_false_iff]
    refine ⟨⟨?_, List.any_eq_false.2 fun q hm h => ?_⟩, List.any_eq_false.2 fun f hm h => hf f hm (eq_of_beq h)⟩
    · show (!s.launches.isEmpty) = false
      rw [hl]; rfl
    · rw [State.reg_setReg_ne _ _ (by omega), State.reg_setReg_ne _ _ (by omega), Bool.and_eq_true, decide_eq_true_eq] at h
      refine h.2 ?_
      rw [show 0x20000 + 64 * q + 8 = 0x20008 + 64 * q by omega]
      exact hq q (List.mem_range.1 hm) h.1
  have hbl : (s.setReg 0x100 (s.reg 0x100)).mem.blocks.foldl State.encodeNow (s.setReg 0x100 (s.reg 0x100)) = s.setReg 0x100 (s.reg 0x100) := by
    rw [show (s.setReg 0x100 (s.reg 0x100)).mem.blocks = [] from hb]; rfl
  refine ⟨_, execPwrctlSleep_eq s, ?_⟩
  rw [State.sleepAsk_eq, if_neg (ne_true_of_eq_false hr), hbl]
  have hdev := foldl_cleanLine_dev (s.setReg 0x100 (s.reg 0x100)).mem.l2 (s.setReg 0x100 (s.reg 0x100))
  have hhome := fun a => homeByte_foldl_cleanLine a (s.setReg 0x100 (s.reg 0x100)).mem.l2 (s.setReg 0x100 (s.reg 0x100)) hd
  have hmem := fun x => @mem_foldl_cleanLine (s.setReg 0x100 (s.reg 0x100)).mem.l2 x (s.setReg 0x100 (s.reg 0x100))
  generalize (s.setReg 0x100 (s.reg 0x100)).mem.l2.foldl (fun s y => s.cleanLine y.line) (s.setReg 0x100 (s.reg 0x100)) = u at *
  have hque : u.dev.repQueue = s.dev.repQueue := (congrArg Device.repQueue hdev :)
  refine ⟨?_, rfl, ⟨_, congrArg (· ++ [_]) hque, rfl, rfl⟩, fun x hx => ?_, fun a => (hhome a).trans rfl⟩
  · unfold State.asleep
    rw [show pwrOff = 0x100 from rfl, State.reg_setReg_same, fld_setFld_same _ _ _ _ (by decide)]; rfl
  · rcases hmem x hx with h | ⟨h, hn⟩
    · exact h
    · exact absurd rfl (hn x h)

end Sys2Proof.Machine
end

section
/-! SUPPORT. Rings in host memory (R443, R447), scrubbing (R7, R10), reports and telemetry. -/

namespace Sys2Proof.Machine

open Sys2Proof

/-! ### Scrubbing -/

/-- A report joins the queue. -/
def Said (s t : State) (k : Nat) (p : List Nat) : Prop := ∃ r, t.dev.repQueue = s.dev.repQueue ++ [r] ∧ r.kind = k ∧ r.p = p.map (BitVec.ofNat 64)

theorem said_report {s u : State} (h : u.dev.repQueue = s.dev.repQueue) (k d c : Nat) (p : List Nat) (fr : List DWord) : Said s (u.report k d c none p fr) k p :=
  ⟨reportOf k d c none p fr, congrArg (· ++ [_]) h, rfl, rfl⟩

theorem State.setPoison_on (s : State) (sec : Nat) : (s.setPoison sec true).dev = s.dev ∧
    (s.setPoison sec true).mem.poison = if sec ∈ s.mem.poison then s.mem.poison else s.mem.poison ++ [sec] := by
  unfold State.setPoison State.setL2
  dsimp only
  split
  · split <;> exact ⟨rfl, rfl⟩
  · exact ⟨rfl, rfl⟩

theorem patrol_corrected {s : State} {sec : Nat} (h : inTier (sec * 32) = true) :
    ∃ t, execPatrolScrubRead sec .corrected s = .next t ∧ Said s t 1 [sec * 32, tierOf (sec * 32), 1]
      ∧ mget 0 t.mem.ce (sec * 32 / 65536) = mget 0 s.mem.ce (sec * 32 / 65536) + 1 ∧ t.mem.poison = s.mem.poison := by
  refine ⟨_, if_pos h, said_report rfl _ _ _ _ _, ?_, rfl⟩
  show mget 0 (mset 0 s.mem.ce (sec * 32 / 2 ^ 16) (mget 0 s.mem.ce (sec * 32 / 2 ^ 16) + 1)) (sec * 32 / 65536) = _
  rw [show (2 : Nat) ^ 16 = 65536 from rfl, mget_mset_same]

theorem patrol_uncorrectable {s : State} {sec : Nat} (h : inTier (sec * 32) = true) :
    ∃ t, execPatrolScrubRead sec .uncorrectable s = .next t ∧ Said s t 3 [sec * 32, tierOf (sec * 32)] ∧ sec ∈ t.mem.poison
      ∧ ∀ x, x ∈ t.mem.poison → x = sec ∨ x ∈ s.mem.poison := by
  obtain ⟨hd, hp⟩ := s.setPoison_on sec
  refine ⟨_, if_pos h, said_report (congrArg Device.repQueue hd) _ _ _ _ _, ?_, ?_⟩
  · show sec ∈ (s.setPoison sec true).mem.poison
    rw [hp]
    split
    · assumption
    · exact List.mem_append_right _ (List.mem_singleton_self _)
  · intro x hx
    have hx : x ∈ (s.setPoison sec true).mem.poison := hx
    rw [hp] at hx
    split at hx
    · exact .inr hx
    · exact (List.mem_append.1 hx).symm.imp List.mem_singleton.1 id

theorem frameSuspect_reports (s : State) (n : Nat) :
    if mget 0 s.mem.ce n < fld (s.reg 0x110) (8 * tierOf (n * 65536)) 8 then execFrameSuspectReport n s = .next s
    else ∃ t, execFrameSuspectReport n s = .next t ∧ Said s t 2 [n, tierOf (n * 65536), fld (s.reg 0x110) (8 * tierOf (n * 65536)) 8] ∧ mget 0 t.mem.ce n = 0 := by
  split
  · rename_i h; exact if_pos h
  · rename_i h
    exact ⟨_, if_neg h, said_report rfl _ _ _ _ _, mget_mset_same 0 s.mem.ce n 0⟩

/-! ### Rings -/

/-- Why a ring takes no entry: it is not in the host window, its place fails, or it is full. -/
def State.ringRefuses (s : State) (cfg n : Nat) : Prop :=
  inHost (fld (s.reg cfg) 28 36 * 2 ^ 12) (n * 2 ^ fld (s.reg cfg) 1 4) = false ∨
  s.failsIn (fld (s.reg cfg) 28 36 * 2 ^ 12 + n * (fld (s.reg (cfg + 8)) 0 32 % 2 ^ fld (s.reg cfg) 1 4)) n = true ∨
  2 ^ fld (s.reg cfg) 1 4 ≤ (fld (s.reg (cfg + 8)) 0 32 + 2 ^ 32 - fld (s.reg (cfg + 16)) 0 32) % 2 ^ 32

theorem State.ringRefuses_congr {s t : State} (hr : ∀ o, t.reg o = s.reg o) (ho : t.dev.outerBad = s.dev.outerBad) (cfg n : Nat) :
    t.ringRefuses cfg n ↔ s.ringRefuses cfg n := by
  unfold State.ringRefuses State.failsIn
  rw [hr, hr, hr, ho]

/-- The place of the next entry of a ring. -/
def State.ringPlace (s : State) (cfg n : Nat) : Nat := fld (s.reg cfg) 28 36 * 2 ^ 12 + n * (fld (s.reg (cfg + 8)) 0 32 % 2 ^ fld (s.reg cfg) 1 4)

theorem State.ringPlace_congr {s t : State} (hr : ∀ o, t.reg o = s.reg o) (cfg n : Nat) : t.ringPlace cfg n = s.ringPlace cfg n := by
  unfold State.ringPlace
  rw [hr, hr]

/-- A ring after an entry is written. -/
def State.ringTake (s : State) (cfg n : Nat) (bytes : List Byte) : State :=
  (s.homePuts 0 (s.ringPlace cfg n) bytes).setReg (cfg + 8) (setFld (s.reg (cfg + 8)) 0 32 (fld (s.reg (cfg + 8)) 0 32 + 1))

theorem State.ringPut_refused {s : State} {cfg n : Nat} (h : s.ringRefuses cfg n) (bytes : List Byte) : s.ringPut cfg n bytes = (false, s.lost (cfg + 8)) := if_pos h

theorem State.ringPut_taken {s : State} {cfg n : Nat} (h : ¬ s.ringRefuses cfg n) (bytes : List Byte) : s.ringPut cfg n bytes = (true, s.ringTake cfg n bytes) := by
  refine (if_neg h).trans ?_
  have hr := State.reg_homePuts s 0 (s.ringPlace cfg n) bytes (cfg + 8)
  unfold State.ringPlace at hr
  rw [hr]
  rfl

theorem State.reg_lost (s : State) (wr : Nat) : (s.lost wr).reg wr = setFld (s.reg wr) 32 32 (min (fld (s.reg wr) 32 32 + 1) 0xFFFFFFFF) := State.reg_setReg_same _ _ _

theorem State.setReg_queues (s : State) (o : Nat) (v : DWord) : (s.setReg o v).mem = s.mem ∧ (s.setReg o v).dev.repQueue = s.dev.repQueue ∧
    (s.setReg o v).dev.repSeq = s.dev.repSeq ∧ (s.setReg o v).dev.repHeld = s.dev.repHeld := ⟨rfl, rfl, rfl, rfl⟩

theorem State.lost_same (s : State) (wr : Nat) : (s.lost wr).mem = s.mem ∧ (s.lost wr).dev.repQueue = s.dev.repQueue ∧
    (s.lost wr).dev.repSeq = s.dev.repSeq ∧ (s.lost wr).dev.repHeld = s.dev.repHeld := State.setReg_queues _ _ _

theorem State.lost_counts (s : State) (wr : Nat) : fld ((s.lost wr).reg wr) 0 32 = fld (s.reg wr) 0 32 ∧
    fld ((s.lost wr).reg wr) 32 32 = min (fld (s.reg wr) 32 32 + 1) 0xFFFFFFFF := by
  rw [State.reg_lost]
  refine ⟨fld_setFld_ne _ _ _ _ _ _ (by decide), (fld_setFld_same _ _ _ _ (by decide)).trans (Nat.mod_eq_of_lt ?_)⟩
  exact Nat.lt_of_le_of_lt (Nat.min_le_right _ _) (by decide)

theorem State.ringTake_same (s : State) (cfg n : Nat) (bytes : List Byte) : (s.ringTake cfg n bytes).clock = s.clock ∧ (s.ringTake cfg n bytes).sched = s.sched ∧
    (∀ o, o ≠ cfg + 8 → (s.ringTake cfg n bytes).reg o = s.reg o) ∧ (s.ringTake cfg n bytes).reg (cfg + 8) = setFld (s.reg (cfg + 8)) 0 32 (fld (s.reg (cfg + 8)) 0 32 + 1) ∧
    { (s.ringTake cfg n bytes).dev with regs := s.dev.regs } = s.dev := by
  obtain ⟨hd, -, hc, hsc, -⟩ := State.homePuts_same 0 bytes s (s.ringPlace cfg n)
  refine ⟨hc, hsc, fun o ho => (State.reg_setReg_ne _ _ ho).trans (State.reg_homePuts _ _ _ _ _), State.reg_setReg_same _ _ _, ?_⟩
  show { (s.homePuts 0 (s.ringPlace cfg n) bytes).dev with regs := s.dev.regs } = s.dev
  rw [hd]

theorem State.homeByte_ringTake (s : State) (cfg n : Nat) (bytes : List Byte) (a : Nat) : (s.ringTake cfg n bytes).homeByte a =
    if s.ringPlace cfg n ≤ a ∧ a < s.ringPlace cfg n + bytes.length then bytes.getD (a - s.ringPlace cfg n) 0 else s.homeByte a :=
  State.homeByte_homePuts 0 bytes s (s.ringPlace cfg n) a

/-! ### Reports -/

theorem Report.bytes_length (r : Report) (seq : Nat) : (r.bytes seq).length = 128 := by
  have h1 := length_flatMap_const (fun i => leBytes 8 (r.p.getD i 0).toNat) 8 (fun _ => leBytes_length 8 _) (List.range 5)
  have h2 := length_flatMap_const (fun i => leBytes 8 (r.frame.getD i 0).toNat) 8 (fun _ => leBytes_length 8 _) (List.range 8)
  simp only [Report.bytes, List.length_append, leBytes_length, h1, h2, List.length_range]

/-- A report that its ring takes. -/
theorem State.writeReport_taken {s : State} (h : ¬ s.ringRefuses 0x300 128) (seq : Nat) (r : Report) :
    (∀ i < 128, (s.writeReport seq r).homeByte (s.ringPlace 0x300 128 + i) = (r.bytes seq).getD i 0) ∧
    fld ((s.writeReport seq r).reg 0x308) 0 32 = (fld (s.reg 0x308) 0 32 + 1) % 2 ^ 32 ∧
    (s.writeReport seq r).dev.msix = (if fld (s.reg 0x308) 0 32 = fld (s.reg 0x310) 0 32 then s.dev.msix ++ [fld (s.reg 0x300) 10 6] else s.dev.msix) ∧
    (s.writeReport seq r).dev.repQueue = s.dev.repQueue ∧ (s.writeReport seq r).dev.repSeq = s.dev.repSeq := by
  obtain ⟨-, -, hro, hrw, hdev⟩ := s.ringTake_same 0x300 128 (r.bytes seq)
  have hbytes : ∀ i < 128, (s.ringTake 0x300 128 (r.bytes seq)).homeByte (s.ringPlace 0x300 128 + i) = (r.bytes seq).getD i 0 := fun i hi => by
    rw [State.homeByte_ringTake, Report.bytes_length, if_pos (by omega), Nat.add_sub_cancel_left]
  have hptr : fld ((s.ringTake 0x300 128 (r.bytes seq)).reg 0x308) 0 32 = (fld (s.reg 0x308) 0 32 + 1) % 2 ^ 32 := by
    rw [show (0x308 : Nat) = 0x300 + 8 from rfl, hrw, fld_setFld_same _ _ _ _ (by decide)]
  have hmsix := congrArg Device.msix hdev
  have hque := congrArg Device.repQueue hdev
  have hseq := congrArg Device.repSeq hdev
  have hcfg := hro 0x300 (by decide)
  unfold State.writeReport
  dsimp only
  rw [show repCfg = 0x300 from rfl, State.ringPut_taken h]
  dsimp only
  generalize s.ringTake 0x300 128 (r.bytes seq) = u at *
  by_cases hw : fld (s.reg (0x300 + 8)) 0 32 = fld (s.reg (0x300 + 16)) 0 32
  · rw [if_pos hw, if_pos (show fld (s.reg 0x308) 0 32 = fld (s.reg 0x310) 0 32 from hw)]
    refine ⟨hbytes, hptr, ?_, hque, hseq⟩
    rw [← hcfg]
    exact congrArg (· ++ [_]) hmsix
  · rw [if_neg hw, if_neg (show ¬ fld (s.reg 0x308) 0 32 = fld (s.reg 0x310) 0 32 from hw)]
    exact ⟨hbytes, hptr, hmsix, hque, hseq⟩

theorem State.writeReport_refused {s : State} (h : s.ringRefuses 0x300 128) (seq : Nat) (r : Report) : s.writeReport seq r = s.lost 0x308 := by
  unfold State.writeReport
  rw [show repCfg = 0x300 from rfl, State.ringPut_refused h]

/-- The next report taken from the queue and numbered. -/
def State.reportTaken (s : State) (rest : List Report) : State :=
  { s with dev := { s.dev with repQueue := rest, repSeq := (s.dev.repSeq + 1) % 2 ^ 32 } }

theorem execReportWrite_none {s : State} (h : s.dev.repQueue = []) : execReportWrite s = .next s := by
  unfold execReportWrite
  rw [h]

theorem execReportWrite_some {s : State} {r : Report} {rest : List Report} (h : s.dev.repQueue = r :: rest) : execReportWrite s = .next (
    if (s.reg 0x300).getLsbD 0 then (s.reportTaken rest).writeReport s.dev.repSeq r
    else if s.dev.repHeld.length < 64 then
      { s.reportTaken rest with dev := { (s.reportTaken rest).dev with repHeld := s.dev.repHeld ++ [(s.dev.repSeq, r)] } }
    else (s.reportTaken rest).lost 0x308) := by
  unfold execReportWrite
  rw [h]
  rfl

theorem reportWrite_next {s : State} {r : Report} {rest : List Report} (h : s.dev.repQueue = r :: rest) :
    ∃ t, execReportWrite s = .next t ∧ t.dev.repQueue = rest ∧ t.dev.repSeq = (s.dev.repSeq + 1) % 2 ^ 32 ∧
      ((s.reg 0x300).getLsbD 0 = false → s.dev.repHeld.length < 64 → t.dev.repHeld = s.dev.repHeld ++ [(s.dev.repSeq, r)] ∧ t.mem = s.mem) ∧
      ((s.reg 0x300).getLsbD 0 = false → 64 ≤ s.dev.repHeld.length → t.dev.repHeld = s.dev.repHeld ∧
        fld (t.reg 0x308) 32 32 = min (fld (s.reg 0x308) 32 32 + 1) 0xFFFFFFFF) ∧
      ((s.reg 0x300).getLsbD 0 = true → ¬ s.ringRefuses 0x300 128 →
        (∀ i < 128, t.homeByte (s.ringPlace 0x300 128 + i) = (r.bytes s.dev.repSeq).getD i 0) ∧
        fld (t.reg 0x308) 0 32 = (fld (s.reg 0x308) 0 32 + 1) % 2 ^ 32 ∧
        t.dev.msix = if fld (s.reg 0x308) 0 32 = fld (s.reg 0x310) 0 32 then s.dev.msix ++ [fld (s.reg 0x300) 10 6] else s.dev.msix) ∧
      ((s.reg 0x300).getLsbD 0 = true → s.ringRefuses 0x300 128 → t.mem = s.mem ∧ fld (t.reg 0x308) 0 32 = fld (s.reg 0x308) 0 32 ∧
        fld (t.reg 0x308) 32 32 = min (fld (s.reg 0x308) 32 32 + 1) 0xFFFFFFFF) := by
  refine ⟨_, execReportWrite_some h, ?_⟩
  have hreg : ∀ o, (s.reportTaken rest).reg o = s.reg o := fun _ => rfl
  have hseq : (s.reportTaken rest).dev.repSeq = (s.dev.repSeq + 1) % 2 ^ 32 := rfl
  rw [← hseq]
  obtain ⟨hl1, hl2⟩ := (s.reportTaken rest).lost_counts 0x308
  rw [hreg] at hl1 hl2
  obtain ⟨hlm, hlq, hls, hlh⟩ := (s.reportTaken rest).lost_same 0x308
  by_cases hon : (s.reg 0x300).getLsbD 0 = true
  · have hne : (s.reg 0x300).getLsbD 0 ≠ false := ne_false_of_eq_true hon
    rw [if_pos hon]
    by_cases hr : s.ringRefuses 0x300 128
    · rw [State.writeReport_refused ((State.ringRefuses_congr hreg rfl _ _).2 hr)]
      exact ⟨hlq, hls, fun e => absurd e hne, fun e => absurd e hne, fun _ hn => absurd hr hn, fun _ _ => ⟨hlm, hl1, hl2⟩⟩
    · obtain ⟨h1, h2, h3, h4, h5⟩ := State.writeReport_taken (mt (State.ringRefuses_congr hreg rfl _ _).1 hr) s.dev.repSeq r
      rw [State.ringPlace_congr hreg] at h1
      rw [hreg] at h2
      rw [hreg, hreg, hreg] at h3
      exact ⟨h4, h5, fun e => absurd e hne, fun e => absurd e hne, fun _ _ => ⟨h1, h2, h3⟩, fun _ hn => absurd hn hr⟩
  · have hne : (s.reg 0x300).getLsbD 0 ≠ true := hon
    rw [if_neg hon]
    by_cases hh : s.dev.repHeld.length < 64
    · rw [if_pos hh]
      exact ⟨rfl, rfl, fun _ _ => ⟨rfl, rfl⟩, fun _ e => absurd hh (Nat.not_lt.2 e), fun e => absurd e hne, fun e => absurd e hne⟩
    · rw [if_neg hh]
      exact ⟨hlq, hls, fun _ e => absurd e hh, fun _ _ => ⟨hlh, hl2⟩, fun e => absurd e hne, fun e => absurd e hne⟩

/-! ### Telemetry -/

/-- A ring wholly free of failing places. -/
theorem State.failsIn_part {s : State} {pa n pa' n' : Nat} (h : s.failsIn pa n = false) (h1 : pa ≤ pa') (h2 : pa' + n' ≤ pa + n) : s.failsIn pa' n' = false := by
  refine List.any_eq_false.2 fun l hl hc => List.any_eq_false.1 h l hl ?_
  rw [Bool.and_eq_true, decide_eq_true_eq, decide_eq_true_eq] at hc ⊢
  omega

/-- The sample of one die put in the ring. -/
def State.sampleDie (power : List Nat) (s : State) (d : Nat) : State :=
  let seq := mget 0 s.dev.telSeq d
  let (_, s) := s.ringPut tlmCfg 32 (tlmSample d (s.pst d) seq (power.getD d 0) (mget 0 s.sched.delayed d))
  { s with dev := { s.dev with telSeq := mset 0 s.dev.telSeq d ((seq + 1) % 2 ^ 32) } }

/-- What a telemetry sample leaves, given how each die's sample is put. -/
theorem sampled_dies {f g : State → Nat → State} (h : ∀ s d, f s d = g s d) (s : State) :
    ∃ t, (Host.Outcome.next { (List.range 9).foldl f s with
        dev := { ((List.range 9).foldl f s).dev with telLast := ((List.range 9).foldl f s).clock }
        sched := { ((List.range 9).foldl f s).sched with delayed := [] } } : Host.Outcome State Fault Refusal) = .next t ∧
      t.dev = { ((List.range 9).foldl g s).dev with telLast := ((List.range 9).foldl g s).clock } ∧ t.mem = ((List.range 9).foldl g s).mem := by
  obtain rfl : f = g := funext fun s => funext fun d => h s d
  generalize (List.range 9).foldl f s = u
  exact ⟨_, rfl, rfl, rfl⟩

theorem execTelemetrySample_eq {s : State} (h : ¬ ((s.reg tlmCfg).getLsbD 0 = false ∨ s.asleep = true ∨ s.clock < s.dev.telLast + 800000)) (power : List Nat) :
    ∃ t, execTelemetrySample power s = .next t ∧ t.dev = { ((List.range 9).foldl (State.sampleDie power) s).dev with
        telLast := ((List.range 9).foldl (State.sampleDie power) s).clock } ∧ t.mem = ((List.range 9).foldl (State.sampleDie power) s).mem := by
  unfold execTelemetrySample
  rw [if_neg h]
  dsimp only
  refine sampled_dies (fun s d => ?_) s
  unfold State.sampleDie
  dsimp only

theorem tlmSample_length (d pst seq power wakes : Nat) : (tlmSample d pst seq power wakes).length = 32 := by
  simp only [tlmSample, List.length_append, leBytes_length]

/-- The ring holds the first `k` samples of `s`, one after the other from WR. -/
structure Sampled (power : List Nat) (s : State) (k : Nat) (t : State) : Prop where
  clock : t.clock = s.clock
  sched : t.sched = s.sched
  outer : t.dev.outerBad = s.dev.outerBad
  regs : ∀ o, o ≠ 0x208 → t.reg o = s.reg o
  wr : fld (t.reg 0x208) 0 32 = (fld (s.reg 0x208) 0 32 + k) % 2 ^ 32
  seq : ∀ d, mget 0 t.dev.telSeq d = if d < k then (mget 0 s.dev.telSeq d + 1) % 2 ^ 32 else mget 0 s.dev.telSeq d
  bytes : ∀ d < k, ∀ i < 32, t.homeByte (fld (s.reg 0x200) 28 36 * 2 ^ 12 + 32 * ((fld (s.reg 0x208) 0 32 + d) % 2 ^ fld (s.reg 0x200) 1 4) + i)
    = (tlmSample d (s.pst d) (mget 0 s.dev.telSeq d) (power.getD d 0) (mget 0 s.sched.delayed d)).getD i 0

theorem sampled_zero (power : List Nat) (s : State) : Sampled power s 0 s :=
  ⟨rfl, rfl, rfl, fun _ _ => rfl, (Nat.mod_eq_of_lt (fld_lt _ _ _)).symm, fun d => (if_neg (Nat.not_lt_zero d)).symm, fun d h => absurd h (Nat.not_lt_zero d)⟩

/-- Entries fewer apart than the ring is long stand in different places. -/
theorem ring_places_ne {w d k len : Nat} (h1 : d < k) (h2 : k < d + len) : (w + d) % len ≠ (w + k) % len := by
  intro h
  have hd : len ∣ (w + k) - (w + d) := (Nat.modEq_iff_dvd' (by omega)).1 h
  have hle := Nat.le_of_dvd (by omega) hd
  omega

/-- Two entries at different places do not meet. -/
theorem entries_apart {b p q i : Nat} (h : p ≠ q) (hi : i < 32) : ¬ (b + 32 * q ≤ b + 32 * p + i ∧ b + 32 * p + i < b + 32 * q + 32) := by omega

theorem Sampled.step {power : List Nat} {s t : State} {k : Nat} (h : Sampled power s k t) (hk : k < 9)
    (hin : inHost (fld (s.reg 0x200) 28 36 * 2 ^ 12) (32 * 2 ^ fld (s.reg 0x200) 1 4) = true)
    (hf : s.failsIn (fld (s.reg 0x200) 28 36 * 2 ^ 12) (32 * 2 ^ fld (s.reg 0x200) 1 4) = false)
    (hroom : (fld (s.reg 0x208) 0 32 + 2 ^ 32 - fld (s.reg 0x210) 0 32) % 2 ^ 32 + 9 ≤ 2 ^ fld (s.reg 0x200) 1 4) : Sampled power s (k + 1) (State.sampleDie power t k) := by
  have hcfg := h.regs 0x200 (by decide)
  have hrd := h.regs 0x210 (by decide)
  have hwr := h.wr
  have hlen : 2 ^ fld (s.reg 0x200) 1 4 ∣ 2 ^ 32 := pow_dvd_pow 2 (Nat.le_of_lt (Nat.lt_of_lt_of_le (fld_lt _ _ _) (by decide)))
  have hpos := Nat.two_pow_pos (fld (s.reg 0x200) 1 4)
  have hplace : t.ringPlace tlmCfg 32 = fld (s.reg 0x200) 28 36 * 2 ^ 12 + 32 * ((fld (s.reg 0x208) 0 32 + k) % 2 ^ fld (s.reg 0x200) 1 4) := by
    rw [State.ringPlace, show tlmCfg = 0x200 from rfl, show 0x200 + 8 = 0x208 from rfl, hcfg, hwr, Nat.mod_mod_of_dvd _ hlen]
  have hmod := Nat.mod_lt (fld (s.reg 0x208) 0 32 + k) hpos
  have htake : ¬ t.ringRefuses tlmCfg 32 := by
    have hrdlt : fld (s.reg 0x210) 0 32 < 2 ^ 32 := fld_lt _ _ _
    rw [State.ringRefuses, ← State.ringPlace, hplace]
    rw [show tlmCfg = 0x200 from rfl, show 0x200 + 8 = 0x208 from rfl, show 0x200 + 16 = 0x210 from rfl, hcfg, hwr, hrd]
    rintro (e | e | e)
    · rw [hin] at e; cases e
    · have hf' : t.failsIn (fld (s.reg 0x200) 28 36 * 2 ^ 12) (32 * 2 ^ fld (s.reg 0x200) 1 4) = false := by
        unfold State.failsIn at hf ⊢
        rw [h.outer]; exact hf
      rw [State.failsIn_part hf' (by omega) (by omega)] at e; cases e
    · omega
  obtain ⟨hc, hsc, hro, hrw, hdev⟩ := t.ringTake_same tlmCfg 32
    (tlmSample k (t.pst k) (mget 0 t.dev.telSeq k) (power.getD k 0) (mget 0 t.sched.delayed k))
  have hseqk : mget 0 t.dev.telSeq k = mget 0 s.dev.telSeq k := (h.seq k).trans (if_neg (Nat.lt_irrefl k))
  have hpst : t.pst k = s.pst k := by
    have hp := h.regs 0x100 (by decide)
    unfold State.pst State.parked
    rw [show pwrOff = 0x100 from rfl, hp]
  have hbytes := fun a => t.homeByte_ringTake tlmCfg 32 (tlmSample k (t.pst k) (mget 0 t.dev.telSeq k) (power.getD k 0) (mget 0 t.sched.delayed k)) a
  rw [tlmSample_length, hplace] at hbytes
  have hsd : State.sampleDie power t k = { t.ringTake tlmCfg 32 (tlmSample k (t.pst k) (mget 0 t.dev.telSeq k) (power.getD k 0) (mget 0 t.sched.delayed k)) with
      dev := { (t.ringTake tlmCfg 32 (tlmSample k (t.pst k) (mget 0 t.dev.telSeq k) (power.getD k 0) (mget 0 t.sched.delayed k))).dev with
        telSeq := mset 0 (t.ringTake tlmCfg 32 (tlmSample k (t.pst k) (mget 0 t.dev.telSeq k) (power.getD k 0) (mget 0 t.sched.delayed k))).dev.telSeq k
          ((mget 0 t.dev.telSeq k + 1) % 2 ^ 32) } } := by
    unfold State.sampleDie
    dsimp only
    rw [State.ringPut_taken htake]
  rw [hsd]
  rw [hseqk, hpst, h.sched] at hc hsc hro hrw hdev hbytes ⊢
  generalize t.ringTake tlmCfg 32 (tlmSample k (s.pst k) (mget 0 s.dev.telSeq k) (power.getD k 0) (mget 0 s.sched.delayed k)) = u at *
  have hts : u.dev.telSeq = t.dev.telSeq := (congrArg Device.telSeq hdev :)
  refine ⟨hc.trans h.clock, hsc, (congrArg Device.outerBad hdev).trans h.outer, fun o ho => (hro o ho).trans (h.regs o ho), ?_, fun d => ?_, fun d hd i hi => ?_⟩
  · refine (congrArg (fun w => fld w 0 32) hrw).trans ((fld_setFld_same _ _ _ _ (by decide)).trans ?_)
    rw [show tlmCfg + 8 = 0x208 from rfl, hwr]; omega
  · show mget 0 (mset 0 u.dev.telSeq k _) d = _
    rw [hts, mget_mset, h.seq d]
    by_cases hdk : d = k
    · subst hdk; rw [if_pos rfl, if_pos (by omega)]
    · rw [if_neg hdk]
      by_cases hlt : d < k
      · rw [if_pos hlt, if_pos (by omega)]
      · rw [if_neg hlt, if_neg (by omega)]
  · refine (hbytes _).trans ?_
    by_cases hdk : d = k
    · subst hdk
      rw [if_pos (by omega), Nat.add_sub_cancel_left]
    · rw [if_neg (entries_apart (ring_places_ne (by omega) (by omega)) hi)]
      exact h.bytes d (by omega) i hi

theorem telemetry_samples {s : State} (power : List Nat) (hon : (s.reg 0x200).getLsbD 0 = true) (ha : s.asleep = false) (hc : s.dev.telLast + 800000 ≤ s.clock)
    (hin : inHost (fld (s.reg 0x200) 28 36 * 2 ^ 12) (32 * 2 ^ fld (s.reg 0x200) 1 4) = true)
    (hf : s.failsIn (fld (s.reg 0x200) 28 36 * 2 ^ 12) (32 * 2 ^ fld (s.reg 0x200) 1 4) = false)
    (hroom : (fld (s.reg 0x208) 0 32 + 2 ^ 32 - fld (s.reg 0x210) 0 32) % 2 ^ 32 + 9 ≤ 2 ^ fld (s.reg 0x200) 1 4) :
    ∃ t, execTelemetrySample power s = .next t ∧ t.dev.telLast = s.clock ∧ fld (t.reg 0x208) 0 32 = (fld (s.reg 0x208) 0 32 + 9) % 2 ^ 32 ∧
      (∀ d < 9, mget 0 t.dev.telSeq d = (mget 0 s.dev.telSeq d + 1) % 2 ^ 32 ∧ ∀ i < 32,
        t.homeByte (fld (s.reg 0x200) 28 36 * 2 ^ 12 + 32 * ((fld (s.reg 0x208) 0 32 + d) % 2 ^ fld (s.reg 0x200) 1 4) + i) =
          (tlmSample d (s.pst d) (mget 0 s.dev.telSeq d) (power.getD d 0) (mget 0 s.sched.delayed d)).getD i 0) := by
  have hall : ∀ k ≤ 9, Sampled power s k ((List.range k).foldl (State.sampleDie power) s) := by
    intro k
    induction k with
    | zero => exact fun _ => sampled_zero power s
    | succ k ih =>
      intro hk
      rw [List.range_succ, List.foldl_append]
      exact (ih (by omega)).step (by omega) hin hf hroom
  have h9 := hall 9 (Nat.le_refl 9)
  obtain ⟨t, ht, hd, hm⟩ := execTelemetrySample_eq (s := s) (by rw [show tlmCfg = 0x200 from rfl, hon, ha]; simpa using hc) power
  generalize (List.range 9).foldl (State.sampleDie power) s = u at *
  refine ⟨t, ht, by rw [hd]; exact h9.clock, ?_, fun d hlt => ⟨?_, fun i hi => ?_⟩⟩
  · rw [State.reg_congr (s := u) (by rw [hd]), h9.wr]
  · rw [hd]
    exact (h9.seq d).trans (if_pos hlt)
  · rw [State.homeByte_congr (s := u) (by rw [hm]) (by rw [hm])]
    exact h9.bytes d hlt i hi

end Sys2Proof.Machine
end

section
open Sys2Proof Sys2Proof.Machine

/-- Settles O52: scrubbing, reports, telemetry and power, each by the lemma about its step. -/
theorem reportsTelemetryAndPower : Obligations.ReportsTelemetryAndPower := by
  unfold Obligations.ReportsTelemetryAndPower
  intro s said pw power
  refine ⟨?patrol, ?suspect, ?noReport, ?report, ?noSample, ?sample, ?park, ?unpark, ?idle, ?notIdle, ?refused, ?sleep, ?wake, ?awake⟩
  case patrol => exact fun sec h => ⟨if_pos h, patrol_corrected h, patrol_uncorrectable h⟩
  case suspect => exact fun n => frameSuspect_reports s n
  case noReport => exact fun h => execReportWrite_none h
  case report =>
    intro r rest h cfg base len wr rd
    obtain ⟨t, ht, h1, h2, h3, h4, h5, h6⟩ := reportWrite_next h
    refine ⟨t, ht, h1, h2, h3, h4, fun hon hin hf hroom => h5 hon ?_, fun hon hr => h6 hon ?_⟩
    · rintro (e | e | e)
      · exact Bool.false_ne_true (e.symm.trans hin)
      · exact Bool.false_ne_true (hf.symm.trans e)
      · exact absurd hroom (Nat.not_lt.2 e)
    · rcases hr with e | e | e
      · exact .inr (.inr e)
      · exact .inl e
      · exact .inr (.inl e)
  case noSample => exact fun p h => if_pos h
  case sample =>
    intro p cfg base len wr rd hon ha hc hin hf hroom
    exact telemetry_samples p hon ha hc hin hf hroom
  case park => exact fun d hd hq hp ha hw hf => diePark_parks hd hq hp ha hw hf
  case unpark => exact fun d hd hq hp ha => dieUnpark_unparks hd hq hp ha
  case idle => exact fun ha hi hh => idleEntry_enters ha hi hh
  case notIdle => exact fun h => if_pos (.inr (.inl h))
  case refused => exact fun h => pwrctlSleep_refused h
  case sleep => exact fun hl hf hb hd hq => pwrctlSleep_sleeps hl hf hb hd hq
  case wake => exact fun ha hw => moduleWake_wakes ha hw
  case awake => exact fun ha => moduleWake_awake ha

end

section
/-! SUPPORT. Bucket refills (R90). -/

namespace Sys2Proof.Machine

open Sys2Proof

variable {α : Type}

/-- A tenant's bucket on a die: the configuration in force, the one written, and the counts of the cores. -/
def State.bucketOf (s : State) (d n : Nat) : DWord × DWord × (Fin 16 → Int) :=
  (s.reg (tbcfgOff d n), mget 0 s.dev.tbNext (16 * d + n), fun c => mget 0 s.sched.buckets (16 * (16 * d + c) + n))

/-- The configuration that governs after a refill. -/
def tbGoverns (cur next : DWord) : DWord := if next.getLsbD 63 then setFld next 63 1 0 else cur

/-- A count after `k` refills. -/
def tbCount (k : Nat) (old new : DWord) (x : Int) : Int :=
  if new.getLsbD 0 = false then 0 else if old.getLsbD 0 = false then (fld new 32 16 : Int) else min (x + k * fld new 16 16) (fld new 32 16)

/-- A bucket after `k` refills. -/
def tbRefilled (k : Nat) (b : DWord × DWord × (Fin 16 → Int)) : DWord × DWord × (Fin 16 → Int) :=
  (tbGoverns b.1 b.2.1, if b.2.1.getLsbD 63 then 0 else b.2.1, fun c => tbCount k b.1 (tbGoverns b.1 b.2.1) (b.2.2 c))

/-- A written configuration put in force. -/
def State.tbTake (s : State) (d n : Nat) : State :=
  match tbPending s d n with
  | some w => { (s.setReg (tbcfgOff d n) w) with dev := { (s.setReg (tbcfgOff d n) w).dev with tbNext := mset 0 s.dev.tbNext (16 * d + n) 0 } }
  | none => s

theorem tbPending_eq (s : State) (d n : Nat) : tbPending s d n =
    if (mget 0 s.dev.tbNext (16 * d + n)).getLsbD 63 then some (setFld (mget 0 s.dev.tbNext (16 * d + n)) 63 1 0) else none := rfl

theorem State.tbTake_sched (s : State) (d n : Nat) : (s.tbTake d n).sched = s.sched ∧ (s.tbTake d n).dev.lastRefill = s.dev.lastRefill := by
  unfold State.tbTake
  split <;> exact ⟨rfl, rfl⟩

theorem State.reg_tbNext (s : State) (x : NMap DWord) (o : Nat) : State.reg { s with dev := { s.dev with tbNext := x } } o = s.reg o := rfl

theorem State.tbTake_reg (s : State) (d n o : Nat) : (s.tbTake d n).reg o =
    if o = tbcfgOff d n then tbGoverns (s.reg o) (mget 0 s.dev.tbNext (16 * d + n)) else s.reg o := by
  unfold State.tbTake tbGoverns
  rw [tbPending_eq]
  by_cases hp : (mget 0 s.dev.tbNext (16 * d + n)).getLsbD 63 = true
  · rw [if_pos hp, if_pos hp]
    rw [State.reg_tbNext, State.reg_setReg]
  · rw [if_neg hp, if_neg hp, ite_self]

theorem State.tbTake_next (s : State) (d n j : Nat) : mget 0 (s.tbTake d n).dev.tbNext j =
    if j = 16 * d + n ∧ (mget 0 s.dev.tbNext (16 * d + n)).getLsbD 63 then 0 else mget 0 s.dev.tbNext j := by
  unfold State.tbTake
  rw [tbPending_eq]
  by_cases hp : (mget 0 s.dev.tbNext (16 * d + n)).getLsbD 63 = true
  · rw [if_pos hp]
    show mget 0 (mset 0 s.dev.tbNext (16 * d + n) 0) j = _
    rw [mget_mset]
    by_cases hj : j = 16 * d + n
    · rw [if_pos hj, if_pos ⟨hj, hp⟩]
    · rw [if_neg hj, if_neg (fun e => hj e.1)]
  · rw [if_neg hp, if_neg (fun e => hp e.2)]

/-- Counts written core by core. -/
theorem mget_foldl_counts (n : Nat) (hn : n < 16) (f : Nat → Int) (c m : Nat) (hm : m < 16) (l : List Nat) : ∀ b : NMap Int,
    mget 0 (l.foldl (fun b c => mset 0 b (16 * c + n) (f c)) b) (16 * c + m) = if m = n ∧ c ∈ l then f c else mget 0 b (16 * c + m) := by
  induction l with
  | nil => intro b; rw [if_neg (by simp)]; rfl
  | cons x l ih =>
    intro b
    rw [List.foldl_cons, ih, mget_mset]
    by_cases hl : m = n ∧ c ∈ l
    · rw [if_pos hl, if_pos ⟨hl.1, List.mem_cons_of_mem _ hl.2⟩]
    · rw [if_neg hl]
      by_cases hx : 16 * c + m = 16 * x + n
      · obtain ⟨rfl, rfl⟩ : c = x ∧ m = n := by omega
        rw [if_pos rfl, if_pos ⟨rfl, List.mem_cons_self⟩]
      · rw [if_neg hx, if_neg]
        rintro ⟨hmn, hc⟩
        rcases List.mem_cons.1 hc with hc | hc
        · subst hc hmn; exact hx rfl
        · exact hl ⟨hmn, hc⟩

/-- Parked flights that return leave configurations and counts as they are. -/
theorem State.updFlight_dev_sched (s : State) (n : Nat) (u : Flight → Flight) : (s.updFlight n u).dev = s.dev ∧ (s.updFlight n u).sched = s.sched := by
  simp

/-- What a refill leaves of the registers, of the written configurations and of the counts. -/
theorem State.refill_eq (s : State) (d n k : Nat) : (s.refill d n k).dev = (s.tbTake d n).dev ∧ (s.refill d n k).sched.buckets =
    ((List.range 16).map (16 * d + ·)).foldl (fun b c => mset 0 b (16 * c + n)
      (tbCount k (s.reg (tbcfgOff d n)) ((s.tbTake d n).reg (tbcfgOff d n)) (mget 0 (s.tbTake d n).sched.buckets (16 * c + n)))) (s.tbTake d n).sched.buckets := by
  have hwake : ∀ (go : List Nat) (s : State), (go.foldl (fun (s : State) f => s.updFlight f Flight.wake) s).dev = s.dev ∧
      (go.foldl (fun (s : State) f => s.updFlight f Flight.wake) s).sched.buckets = s.sched.buckets := fun go s =>
    ⟨foldl_same State.dev _ (fun s f => (s.updFlight_dev_sched f _).1) go s,
      congrArg Sched.buckets (foldl_same State.sched _ (fun s f => (s.updFlight_dev_sched f _).2) go s)⟩
  unfold State.refill State.tbTake
  dsimp only
  cases tbPending s d n with
  | none =>
    refine ⟨foldl_same State.dev _ (fun u c => ?_) _ _, (foldl_same (fun u : State => u.sched.buckets) _ (fun u c => ?_) _ _).trans ?_⟩
    · exact (hwake _ u).1
    · exact (hwake _ u).2
    · simp only [tbCount, Bool.not_eq_true']
  | some w =>
    refine ⟨foldl_same State.dev _ (fun u c => ?_) _ _, (foldl_same (fun u : State => u.sched.buckets) _ (fun u c => ?_) _ _).trans ?_⟩
    · exact (hwake _ u).1
    · exact (hwake _ u).2
    · simp only [tbCount, Bool.not_eq_true']

/-- A refill of a bucket is what it says of that bucket. -/
theorem State.refill_bucketOf (s : State) {d n : Nat} (hn : n < 16) (k : Nat) : (s.refill d n k).bucketOf d n = tbRefilled k (s.bucketOf d n) := by
  obtain ⟨hd, hb⟩ := s.refill_eq d n k
  have hreg : (s.refill d n k).reg (tbcfgOff d n) = (s.tbTake d n).reg (tbcfgOff d n) := State.reg_congr (congrArg Device.regs hd) _
  refine Prod.ext ?_ (Prod.ext ?_ (funext fun c => ?_))
  · refine hreg.trans ((s.tbTake_reg d n _).trans (if_pos rfl))
  · refine (congrArg (fun v : Device => mget 0 v.tbNext (16 * d + n)) hd).trans ((s.tbTake_next d n _).trans ?_)
    simp only [true_and]; rfl
  · refine (congrArg (fun b => mget 0 b (16 * (16 * d + c) + n)) hb).trans ?_
    rw [mget_foldl_counts n hn _ _ n hn, if_pos ⟨rfl, List.mem_map.2 ⟨c, List.mem_range.2 c.isLt, rfl⟩⟩, (s.tbTake_sched d n).1, s.tbTake_reg, if_pos rfl]
    rfl

/-- A refill of one bucket leaves every other as it is. -/
theorem State.refill_bucketOf_ne (s : State) {d n d' n' : Nat} (hn : n < 16) (hn' : n' < 16) (h : (d', n') ≠ (d, n)) (k : Nat) :
    (s.refill d n k).bucketOf d' n' = s.bucketOf d' n' := by
  obtain ⟨he, hb⟩ := s.refill_eq d n k
  have hreg : (s.refill d n k).reg (tbcfgOff d' n') = (s.tbTake d n).reg (tbcfgOff d' n') := State.reg_congr (congrArg Device.regs he) _
  have hne : ¬ (d' = d ∧ n' = n) := fun e => h (Prod.ext e.1 e.2)
  refine Prod.ext ?_ (Prod.ext ?_ (funext fun c => ?_))
  · exact hreg.trans ((s.tbTake_reg d n _).trans (if_neg (by unfold tbcfgOff; omega)))
  · exact (congrArg (fun v : Device => mget 0 v.tbNext (16 * d' + n')) he).trans ((s.tbTake_next d n _).trans (if_neg fun e => by omega))
  · refine (congrArg (fun b => mget 0 b (16 * (16 * d' + c) + n')) hb).trans ?_
    rw [mget_foldl_counts n hn _ _ n' hn', if_neg, (s.tbTake_sched d n).1]
    · rfl
    · rintro ⟨hnn, hm⟩
      obtain ⟨c', hc', e⟩ := List.mem_map.1 hm
      have := List.mem_range.1 hc'
      have := c.isLt
      omega

/-- The buckets in the order in which they are refilled. -/
def allBuckets : List (Nat × Nat) := allDies.product (List.range 16)

theorem mem_allBuckets {p : Nat × Nat} : p ∈ allBuckets ↔ p.1 < 8 ∧ p.2 < 16 := by
  obtain ⟨d, n⟩ := p
  refine (List.mem_product (l₁ := allDies) (l₂ := List.range 16)).trans ?_
  rw [allDies, List.mem_range, List.mem_range]

theorem nodup_allBuckets : allBuckets.Nodup := List.nodup_range.product List.nodup_range

theorem foldl_refill_untouched (k : Nat) {p : Nat × Nat} (hp : p ∈ allBuckets) (l : List (Nat × Nat)) (hl : ∀ q ∈ l, q ∈ allBuckets) (h : p ∉ l) :
    ∀ s : State, (l.foldl (fun s q => s.refill q.1 q.2 k) s).bucketOf p.1 p.2 = s.bucketOf p.1 p.2 := by
  induction l with
  | nil => exact fun _ => rfl
  | cons q l ih =>
    intro s
    obtain ⟨hq1, hq2⟩ := mem_allBuckets.1 (hl q List.mem_cons_self)
    obtain ⟨hp1, hp2⟩ := mem_allBuckets.1 hp
    rw [List.foldl_cons, ih (fun x hx => hl x (List.mem_cons_of_mem _ hx)) (fun e => h (List.mem_cons_of_mem _ e)),
      s.refill_bucketOf_ne hq2 hp2 fun (e : p = q) => h (e ▸ List.mem_cons_self)]

theorem foldl_refill_bucketOf (k : Nat) {p : Nat × Nat} (l : List (Nat × Nat)) (hl : ∀ q ∈ l, q ∈ allBuckets) (hn : l.Nodup) (h : p ∈ l) :
    ∀ s : State, (l.foldl (fun s q => s.refill q.1 q.2 k) s).bucketOf p.1 p.2 = tbRefilled k (s.bucketOf p.1 p.2) := by
  induction l with
  | nil => cases h
  | cons q l ih =>
    intro s
    obtain ⟨hq, hn⟩ := List.nodup_cons.1 hn
    have hl' : ∀ x ∈ l, x ∈ allBuckets := fun x hx => hl x (List.mem_cons_of_mem _ hx)
    obtain ⟨hq1, hq2⟩ := mem_allBuckets.1 (hl q List.mem_cons_self)
    obtain ⟨hp1, hp2⟩ := mem_allBuckets.1 (hl p h)
    rw [List.foldl_cons]
    by_cases hpq : p = q
    · subst hpq
      rw [foldl_refill_untouched k (hl p h) l hl' hq, s.refill_bucketOf hq2]
    · rw [ih hl' hn ((List.mem_cons.1 h).resolve_left hpq), s.refill_bucketOf_ne hq2 hp2 hpq]

theorem State.refill_lastRefill (s : State) (d n k : Nat) : (s.refill d n k).dev.lastRefill = s.dev.lastRefill :=
  (congrArg Device.lastRefill (s.refill_eq d n k).1).trans (s.tbTake_sched d n).2

/-- Every bucket refilled. -/
def State.refillAll (s : State) (k : Nat) : State := allBuckets.foldl (fun s q => s.refill q.1 q.2 k) s

theorem State.refillAll_eq (s : State) (k : Nat) :
    s.refillAll k = allDies.foldl (fun (s : State) d => (List.range 16).foldl (fun (s : State) n => s.refill d n k) s) s := by
  rw [State.refillAll, allBuckets, List.product, List.foldl_flatMap]
  simp only [List.foldl_map]

theorem execBucketRefill_eq {s : State} (h : s.dev.lastRefill + 32 ≤ s.clock) : execBucketRefill s = .next
    (State.refillAll { s with dev := { s.dev with lastRefill := s.dev.lastRefill + 32 * ((s.clock - s.dev.lastRefill) / 32) } }
      ((s.clock - s.dev.lastRefill) / 32)) := by
  unfold execBucketRefill
  rw [if_neg (Nat.not_lt.2 h), State.refillAll_eq]

/-- Every bucket after a refill that is due. -/
theorem bucketRefill_refills {s : State} (h : s.dev.lastRefill + 32 ≤ s.clock) : ∃ t, execBucketRefill s = .next t ∧
    t.dev.lastRefill = s.dev.lastRefill + 32 * ((s.clock - s.dev.lastRefill) / 32) ∧
    ∀ d < 8, ∀ n < 16, t.bucketOf d n = tbRefilled ((s.clock - s.dev.lastRefill) / 32) (s.bucketOf d n) := by
  refine ⟨_, execBucketRefill_eq h, ?_, fun d hd n hn => ?_⟩
  · exact foldl_same (fun s : State => s.dev.lastRefill) _ (fun s q => s.refill_lastRefill _ _ _) _ _
  · exact foldl_refill_bucketOf _ (p := (d, n)) allBuckets (fun _ h => h) nodup_allBuckets (mem_allBuckets.2 ⟨hd, hn⟩) _

theorem bucketRefill_counts {s t : State} {k d n : Nat} (h : t.bucketOf d n = tbRefilled k (s.bucketOf d n)) :
    t.reg (tbcfgOff d n) = (tbPending s d n).getD (s.reg (tbcfgOff d n)) ∧ tbPending t d n = none ∧
    ∀ c < 16, mget 0 t.sched.buckets (16 * (16 * d + c) + n) =
      tbCount k (s.reg (tbcfgOff d n)) ((tbPending s d n).getD (s.reg (tbcfgOff d n))) (mget 0 s.sched.buckets (16 * (16 * d + c) + n)) := by
  have hg : tbGoverns (s.reg (tbcfgOff d n)) (mget 0 s.dev.tbNext (16 * d + n)) = (tbPending s d n).getD (s.reg (tbcfgOff d n)) := by
    rw [tbPending_eq, tbGoverns]
    split <;> rfl
  obtain ⟨h1, h2⟩ := Prod.ext_iff.1 h
  obtain ⟨h2, h3⟩ := Prod.ext_iff.1 h2
  refine ⟨h1.trans hg, ?_, fun c hc => ?_⟩
  · have h2 : mget 0 t.dev.tbNext (16 * d + n) = if (mget 0 s.dev.tbNext (16 * d + n)).getLsbD 63 then 0 else mget 0 s.dev.tbNext (16 * d + n) := h2
    rw [tbPending_eq, h2, if_neg]
    split
    · rw [show (0 : DWord).getLsbD 63 = false from BitVec.getLsbD_zero]; exact Bool.false_ne_true
    · assumption
  · rw [← hg]
    exact congrFun h3 ⟨c, hc⟩

end Sys2Proof.Machine
end

section
/-! SUPPORT. Blocks of the Z-cache sent to ENCODE and dropped. -/

namespace Sys2Proof.Machine

open Sys2Proof

variable {α : Type}

theorem State.startEncode_same (s : State) (b : Block) : (s.startEncode b).dev = s.dev ∧ (s.startEncode b).mem.l2 = s.mem.l2 ∧
    (s.startEncode b).mem.bytes = s.mem.bytes := by
  unfold State.startEncode
  split <;> exact ⟨rfl, rfl, rfl⟩

theorem foldl_startEncode_dev (l : List Block) (s : State) : (l.foldl State.startEncode s).dev = s.dev :=
  foldl_same State.dev _ (fun s b => (s.startEncode_same b).1) l s

theorem homeByte_foldl_startEncode (l : List Block) (s : State) (a : Nat) : (l.foldl State.startEncode s).homeByte a = s.homeByte a :=
  State.homeByte_congr (foldl_same (fun s : State => s.mem.l2) _ (fun s b => (s.startEncode_same b).2.1) l s)
    (foldl_same (fun s : State => s.mem.bytes) _ (fun s b => (s.startEncode_same b).2.2) l s) a

/-- A block that is still dirty was there before, and is not the one whose coding began. -/
theorem State.dirty_startEncode {s : State} {x b : Block} (h : b ∈ (s.startEncode x).mem.blocks) (hd : b.st = .dirty) :
    b ∈ s.mem.blocks ∧ (x.st = .dirty → b.is x.asid x.zr x.blk = false) := by
  unfold State.startEncode at h
  by_cases hx : x.st = .dirty
  · rw [if_pos hx] at h
    unfold State.putBlock at h
    dsimp only at h
    split at h
    · obtain ⟨z, hz, e⟩ := List.mem_map.1 h
      cases hk : z.is x.asid x.zr x.blk with
      | true =>
        rw [hk, if_pos rfl] at e
        subst e; cases hd
      | false =>
        rw [hk, if_neg Bool.false_ne_true] at e
        subst e; exact ⟨hz, fun _ => hk⟩
    · rename_i hn
      rcases List.mem_append.1 h with h | h
      · refine ⟨h, fun _ => Bool.eq_false_iff.2 fun hk => hn ?_⟩
        exact List.find?_isSome.2 ⟨b, h, hk⟩
      · rw [List.mem_singleton.1 h] at hd; cases hd
  · rw [if_neg hx] at h
    exact ⟨h, fun e => absurd e hx⟩

theorem dirty_foldl_startEncode (l : List Block) {b : Block} (hd : b.st = .dirty) : ∀ {s : State}, b ∈ (l.foldl State.startEncode s).mem.blocks →
    b ∈ s.mem.blocks ∧ ∀ x ∈ l, x.st = .dirty → b.is x.asid x.zr x.blk = false := by
  induction l with
  | nil => exact fun h => ⟨h, by simp⟩
  | cons x l ih =>
    intro s h
    obtain ⟨h1, h2⟩ := ih h
    obtain ⟨h3, h4⟩ := State.dirty_startEncode h1 hd
    exact ⟨h3, List.forall_mem_cons.2 ⟨h4, h2⟩⟩

theorem Block.is_self (b : Block) : b.is b.asid b.zr b.blk = true := by simp [Block.is]

/-- No block of a selection is dirty once the coding of the selection has begun. -/
theorem not_dirty_foldl_startEncode {p : Block → Bool} {s : State} {b : Block} (h : b ∈ ((s.mem.blocks.filter p).foldl State.startEncode s).mem.blocks)
    (hp : p b = true) : b.st ≠ .dirty := by
  intro hd
  obtain ⟨h1, h2⟩ := dirty_foldl_startEncode _ hd h
  have := h2 b (List.mem_filter.2 ⟨h1, hp⟩) hd
  rw [b.is_self] at this
  cases this

/-- Blocks that must be coded before their region or range can go. -/
def Block.pending (b : Block) : Bool := match b.st with | .dirty => true | .enc _ => true | .fill => !b.waiting.isEmpty | .clean => false

theorem State.dropBlock_same (s : State) (a z b : Nat) : (s.dropBlock a z b).dev = s.dev ∧ (s.dropBlock a z b).mem.l2 = s.mem.l2 ∧
    (s.dropBlock a z b).mem.bytes = s.mem.bytes ∧ (s.dropBlock a z b).mem.l1 = s.mem.l1 ∧ (s.dropBlock a z b).mem.far = s.mem.far ∧
    (s.dropBlock a z b).mem.blocks = s.mem.blocks.filter fun x => !x.is a z b := ⟨rfl, rfl, rfl, rfl, rfl, rfl⟩

/-- Blocks dropped one after the other. -/
def State.dropThis (s : State) (b : Block) : State := s.dropBlock b.asid b.zr b.blk
def State.dropBlocks (s : State) (l : List Block) : State := l.foldl State.dropThis s

theorem State.dropBlocks_same (s : State) (l : List Block) : (s.dropBlocks l).dev = s.dev ∧ (s.dropBlocks l).mem.l2 = s.mem.l2 ∧
    (s.dropBlocks l).mem.bytes = s.mem.bytes ∧ (s.dropBlocks l).mem.l1 = s.mem.l1 ∧ (s.dropBlocks l).mem.far = s.mem.far :=
  ⟨foldl_same State.dev State.dropThis (fun _ _ => rfl) l s, foldl_same (fun s : State => s.mem.l2) State.dropThis (fun _ _ => rfl) l s,
    foldl_same (fun s : State => s.mem.bytes) State.dropThis (fun _ _ => rfl) l s, foldl_same (fun s : State => s.mem.l1) State.dropThis (fun _ _ => rfl) l s,
    foldl_same (fun s : State => s.mem.far) State.dropThis (fun _ _ => rfl) l s⟩

theorem State.dropBlocks_blocks (l : List Block) : ∀ s : State, (s.dropBlocks l).mem.blocks = s.mem.blocks.filter fun x => !l.any fun b => x.is b.asid b.zr b.blk := by
  induction l with
  | nil => intro s; exact (List.filter_eq_self.2 fun _ _ => rfl).symm
  | cons b l ih =>
    intro s
    refine (ih (s.dropThis b)).trans ?_
    rw [State.dropThis, (s.dropBlock_same _ _ _).2.2.2.2.2, List.filter_filter]
    refine List.filter_congr fun x _ => ?_
    rw [List.any_cons, Bool.not_or, Bool.and_comm]

/-- A selection dropped whole leaves the rest, when the selection goes by the place of a block. -/
theorem State.dropBlocks_filter (s : State) {p : Block → Bool} (hp : ∀ x y : Block, x.is y.asid y.zr y.blk = true → p y = true → p x = true) :
    (s.dropBlocks (s.mem.blocks.filter p)).mem.blocks = s.mem.blocks.filter fun x => !p x := by
  rw [State.dropBlocks_blocks]
  refine List.filter_congr fun x hx => congrArg _ ?_
  cases hpx : p x with
  | true => exact List.any_eq_true.2 ⟨x, List.mem_filter.2 ⟨hx, hpx⟩, x.is_self⟩
  | false =>
    refine List.any_eq_false.2 fun y hy hk => ?_
    rw [hp x y hk (List.mem_filter.1 hy).2] at hpx
    cases hpx

theorem Block.is_iff {x : Block} {a z b : Nat} : x.is a z b = true ↔ x.asid = a ∧ x.zr = z ∧ x.blk = b := by
  simp [Block.is, and_assoc]

end Sys2Proof.Machine
end

section
/-! SUPPORT. Commits of the address-range table (R14 to R16). -/

namespace Sys2Proof.Machine

open Sys2Proof

variable {α : Type}

/-! ### The check -/

/-- An entry's first failed check. -/
def State.arsFails (s : State) (n : Nat) : Option (Nat × Nat) :=
  if (s.reg (0x10000 + 16 * n)).getLsbD 0 ∧ arsFault (s.reg (0x10000 + 16 * n)) (s.reg (0x10000 + 16 * n + 8)) ≠ 0 then
    some (n, arsFault (s.reg (0x10000 + 16 * n)) (s.reg (0x10000 + 16 * n + 8)))
  else none

theorem arsFault_lt (w0 w1 : DWord) : arsFault w0 w1 < 16 := by
  unfold arsFault
  repeat' split
  all_goals decide

/-- The first entry that fails. -/
theorem findSome?_range_first {f : Nat → Option α} {N n : Nat} {b : α} (hn : n < N) (h : f n = some b) (hm : ∀ m < n, f m = none) :
    (List.range N).findSome? f = some b := by
  induction N with
  | zero => exact absurd hn (Nat.not_lt_zero n)
  | succ N ih =>
    rw [List.range_succ, List.findSome?_append]
    by_cases hN : n < N
    · rw [ih hN]; rfl
    · obtain rfl : n = N := by omega
      rw [List.findSome?_eq_none_iff.2 fun m hm' => hm m (List.mem_range.1 hm')]
      simp [h]

/-- ARSCTL with DROPPED and the status of the last commit cleared by ones. -/
def arsctlNew (cur v : DWord) : DWord := merge cur (v &&& 0xC) 0

theorem arsctlNew_busy (cur v : DWord) : (arsctlNew cur v).getLsbD 1 = cur.getLsbD 1 := by
  rw [arsctlNew, merge_getLsbD, BitVec.getLsbD_and, show (0xC : DWord).getLsbD 1 = false by decide, Bool.and_false]
  rfl

theorem arsctl_w1c (cur v : DWord) : w1c cur 0xC (v ||| 1) 0 = arsctlNew cur v := by
  rw [w1c_eq_merge, and_halfMask_zero, arsctlNew]
  refine congrArg (fun m => merge cur m 0) (BitVec.eq_of_getLsbD_eq fun i hi => ?_)
  have hm : ∀ i < 64, (0xC : DWord).getLsbD i = decide (i = 2 ∨ i = 3) ∧ (1 : DWord).getLsbD i = decide (i = 0) := by decide
  obtain ⟨h1, h2⟩ := hm i hi
  rw [BitVec.getLsbD_and, BitVec.getLsbD_and, BitVec.getLsbD_or, h1, h2]
  by_cases h0 : i = 0
  · subst h0; simp
  · rw [decide_eq_false h0, Bool.or_false, Bool.and_comm]

/-- A commit under way: BUSY in ARSCTL. -/
def State.commitMarked (s : State) (w : DWord) : State := { s.setReg 0x600 w with dev := { (s.setReg 0x600 w).dev with arsBusy := true } }
/-- A commit begun: the moving blocks in their coding. -/
def State.commitBegun (s : State) (w : DWord) : State :=
  ((s.commitMarked w).mem.blocks.filter fun b => (s.commitMarked w).moves ((s.commitMarked w).blockPa b)).foldl State.startEncode (s.commitMarked w)

theorem State.commitMarked_same (s : State) (w : DWord) : (s.commitMarked w).dev.arsBusy = true ∧ (s.commitMarked w).dev.ars = s.dev.ars ∧
    (∀ a, (s.commitMarked w).homeByte a = s.homeByte a) ∧ ∀ o, (s.commitMarked w).reg o = (s.setReg 0x600 w).reg o := ⟨rfl, rfl, fun _ => rfl, fun _ => rfl⟩

theorem State.arsCommit_eq (s : State) (v : DWord) : s.regWrite arsctl 0 (v ||| 1) =
    if (s.reg 0x600).getLsbD 1 = false then
      match (List.range 64).findSome? s.arsFails with
      | some (n, e) => s.setReg 0x600 (setFld (setFld (setFld (arsctlNew (s.reg 0x600) v) 8 6 n) 4 4 e) 2 1 1)
      | none => s.commitBegun (setFld (setFld (setFld (arsctlNew (s.reg 0x600) v) 8 6 0) 4 4 0) 1 1 1)
    else s.setReg 0x600 (arsctlNew (s.reg 0x600) v) := by
  have hr : devReg? 0x600 = some .arsctl := rfl
  have hb : ((v ||| 1) &&& halfMask 0).getLsbD 0 = true := by
    rw [and_halfMask_zero, BitVec.getLsbD_or]
    exact Bool.or_true _
  rw [show arsctl = 0x600 from rfl, s.regWrite_eq_regPut hr nofun nofun]
  simp only [State.regPut, hr]
  unfold State.arsctlWrite
  simp only [show arsctl = 0x600 from rfl, hb, arsctl_w1c, true_and] <;> rfl

theorem arsCommit_busy {s : State} (h : (s.reg 0x600).getLsbD 1 = true) (v : DWord) :
    s.regWrite arsctl 0 (v ||| 1) = s.setReg 0x600 (merge (s.reg 0x600) (v &&& 0xC) 0) := by
  rw [s.arsCommit_eq, if_neg (ne_false_of_eq_true h)]; rfl

theorem arsCommit_fails {s : State} (h : (s.reg 0x600).getLsbD 1 = false) {n e : Nat} (hn : n < 64) (hv : (s.reg (0x10000 + 16 * n)).getLsbD 0 = true)
    (he : arsFault (s.reg (0x10000 + 16 * n)) (s.reg (0x10000 + 16 * n + 8)) = e) (h0 : e ≠ 0) (hm : ∀ m < n, s.arsFails m = none) (v : DWord) :
    ∃ w, s.regWrite arsctl 0 (v ||| 1) = s.setReg 0x600 w ∧ fld w 8 6 = n ∧ fld w 4 4 = e ∧ w.getLsbD 2 = true ∧ w.getLsbD 1 = false := by
  have hf : s.arsFails n = some (n, e) := by
    rw [State.arsFails, if_pos ⟨hv, he ▸ h0⟩, he]
  have he16 : e < 16 := he ▸ arsFault_lt _ _
  refine ⟨setFld (setFld (setFld (arsctlNew (s.reg 0x600) v) 8 6 n) 4 4 e) 2 1 1, ?_, ?_, ?_, ?_, ?_⟩
  · rw [s.arsCommit_eq, if_pos h, findSome?_range_first hn hf hm]
  · rw [fld_setFld_ne _ _ _ _ _ _ (by decide), fld_setFld_ne _ _ _ _ _ _ (by decide), fld_setFld_same _ _ _ _ (by decide)]
    exact Nat.mod_eq_of_lt hn
  · rw [fld_setFld_ne _ _ _ _ _ _ (by decide), fld_setFld_same _ _ _ _ (by decide)]
    exact Nat.mod_eq_of_lt he16
  · rw [setFld_one _ _ _ _ (by decide)]; rfl
  · rw [setFld_one _ _ _ _ (by decide), if_neg (by decide), setFld_getLsbD, if_neg (by decide), setFld_getLsbD, if_neg (by decide), arsctlNew_busy, h]; rfl

/-! ### Homes -/

/-- Homes and places depend on the tables of ranges, frames and regions. -/
theorem State.moves_congr {s t : State} (hr : ∀ o, 0x10000 ≤ o → t.reg o = s.reg o) (ha : t.dev.ars = s.dev.ars) (pa : Nat) : t.moves pa = s.moves pa := by
  have hn : t.arsNew = s.arsNew := by
    unfold State.arsNew
    refine congrFun (congrFun (congrArg _ (funext fun m => funext fun n => ?_)) _) _
    rw [hr _ (by omega), hr _ (by omega)]
  unfold State.moves State.home
  rw [hn, ha]

theorem State.blockPa_congr {s t : State} (hr : ∀ o, 0x10000 ≤ o → t.reg o = s.reg o) (b : Block) : t.blockPa b = s.blockPa b := by
  have hz : t.zr b.asid b.zr = s.zr b.asid b.zr := State.zr_congr (fun o ho => hr o (by omega)) _ _
  have hh : ∀ n pa, t.frmapHit n pa = s.frmapHit n pa := State.frmapHit_congr (fun o ho => hr o (by omega))
  have hm : ∀ n, t.reg (frmapOff n) = s.reg (frmapOff n) := fun n => hr _ (by unfold frmapOff; omega)
  unfold State.blockPa State.remap
  rw [hz]
  simp only [hh, hm]

/-- The place of a block goes by the place it names. -/
theorem State.blockPa_of_is (s : State) {x y : Block} (h : x.is y.asid y.zr y.blk = true) : s.blockPa x = s.blockPa y := by
  obtain ⟨h1, h2, h3⟩ := Block.is_iff.1 h
  unfold State.blockPa
  rw [h1, h2, h3]

theorem arsCommit_begins {s : State} (h : (s.reg 0x600).getLsbD 1 = false) (hm : ∀ m < 64, s.arsFails m = none) (v : DWord) :
    let t := s.regWrite arsctl 0 (v ||| 1)
    t.dev.arsBusy = true ∧ t.dev.ars = s.dev.ars ∧ (t.reg 0x600).getLsbD 1 = true ∧ fld (t.reg 0x600) 4 4 = 0 ∧ fld (t.reg 0x600) 8 6 = 0 ∧
      (∀ a, t.homeByte a = s.homeByte a) ∧ ∀ b ∈ t.mem.blocks, s.moves (s.blockPa b) = true → b.st ≠ .dirty := by
  have hnone : (List.range 64).findSome? s.arsFails = none := List.findSome?_eq_none_iff.2 fun m hm' => hm m (List.mem_range.1 hm')
  dsimp only
  rw [s.arsCommit_eq, if_pos h, hnone]
  dsimp only
  generalize hw : setFld (setFld (setFld (arsctlNew (s.reg 0x600) v) 8 6 0) 4 4 0) 1 1 1 = w
  have h1 : w.getLsbD 1 = true := by rw [← hw, setFld_one _ _ _ _ (by decide)]; rfl
  have h2 : fld w 4 4 = 0 := by rw [← hw, fld_setFld_ne _ _ _ _ _ _ (by decide), fld_setFld_same _ _ _ _ (by decide)]; rfl
  have h3 : fld w 8 6 = 0 := by
    rw [← hw, fld_setFld_ne _ _ _ _ _ _ (by decide), fld_setFld_ne _ _ _ _ _ _ (by decide), fld_setFld_same _ _ _ _ (by decide)]; rfl
  clear hw hnone
  obtain ⟨hbusy, hars, hhome, hreg⟩ := s.commitMarked_same w
  have hregs : ∀ o, 0x10000 ≤ o → (s.commitMarked w).reg o = s.reg o := fun o ho => (hreg o).trans (State.reg_setReg_ne s w (by omega))
  have hw : (s.commitMarked w).reg 0x600 = w := (hreg _).trans (State.reg_setReg_same s _ _)
  unfold State.commitBegun
  have hdev := foldl_startEncode_dev ((s.commitMarked w).mem.blocks.filter fun b => (s.commitMarked w).moves ((s.commitMarked w).blockPa b)) (s.commitMarked w)
  refine ⟨?_, ?_, ?_, ?_, ?_, fun a => (homeByte_foldl_startEncode _ _ a).trans (hhome a), fun b hb hmv => ?_⟩
  · rw [hdev, hbusy]
  · rw [hdev, hars]
  · rw [State.reg_congr (congrArg Device.regs hdev), hw, h1]
  · rw [State.reg_congr (congrArg Device.regs hdev), hw, h2]
  · rw [State.reg_congr (congrArg Device.regs hdev), hw, h3]
  · refine not_dirty_foldl_startEncode hb ?_
    rw [State.blockPa_congr hregs, State.moves_congr hregs hars]
    exact hmv

/-! ### The switch -/

/-- What a copy command keeps of a line that it owns and that moves (log 77). -/
def L2Line.kept (x : L2Line) : L2Line := { L2Line.empty x.line with owner := x.owner }

theorem State.moveLine_dev (s : State) (x : L2Line) : (s.moveLine x).dev = s.dev ∧ (s.moveLine x).mem.far = s.mem.far ∧ (s.moveLine x).mem.blocks = s.mem.blocks := by
  unfold State.moveLine
  dsimp only
  split <;> exact ⟨rfl, rfl, rfl⟩

theorem State.moveLine_l2 (s : State) (x : L2Line) : (s.moveLine x).mem.l2 =
    (s.mem.l2.filter fun y => decide (y.line ≠ x.line)) ++ if x.owner.isSome then [x.kept] else [] := by
  have hn : ((s.writeBack x).dropL2 x.line).l2? x.line = none := by rw [State.l2?_dropL2, if_pos rfl]
  unfold State.moveLine
  dsimp only
  by_cases ho : x.owner.isSome = true
  · rw [if_pos ho, if_pos ho]
    show (if (((s.writeBack x).dropL2 x.line).l2? x.line).isSome = true then _ else _) = _
    rw [hn]; rfl
  · rw [if_neg ho, if_neg ho, List.append_nil]; rfl

theorem State.moveLine_eq (s : State) (x : L2Line) : s.moveLine x =
    if x.owner.isSome then ((s.writeBack x).dropL2 x.line).setL2 x.kept else (s.writeBack x).dropL2 x.line := rfl

theorem State.homeByte_moveLine_ne (s : State) (x : L2Line) {a : Nat} (h : a / 128 ≠ x.line) : (s.moveLine x).homeByte a = s.homeByte a := by
  have hb : cellGet (s.writeBack x).mem.bytes a = cellGet s.mem.bytes a := by rw [State.cellGet_writeBack, if_neg (fun e => h e.1)]
  have hd : ((s.writeBack x).dropL2 x.line).homeByte a = s.homeByte a := by
    rw [State.homeByte_eq, State.homeByte_eq, State.l2?_dropL2, if_neg h]
    exact byteOf_congr hb _
  rw [State.moveLine_eq]
  split
  · refine Eq.trans ?_ hd
    rw [State.homeByte_eq, State.l2?_setL2, if_neg (show ¬ a / 128 = x.kept.line from h)]
    rfl
  · exact hd

theorem foldl_moveLine_dev (l : List L2Line) (s : State) : (l.foldl State.moveLine s).dev = s.dev ∧ (l.foldl State.moveLine s).mem.far = s.mem.far ∧
    (l.foldl State.moveLine s).mem.blocks = s.mem.blocks :=
  ⟨foldl_same State.dev _ (fun s x => (s.moveLine_dev x).1) l s, foldl_same (fun s : State => s.mem.far) _ (fun s x => (s.moveLine_dev x).2.1) l s,
    foldl_same (fun s : State => s.mem.blocks) _ (fun s x => (s.moveLine_dev x).2.2) l s⟩

theorem foldl_moveLine_stays (l : List L2Line) {x : L2Line} (h : ∀ y ∈ l, x.line ≠ y.line) : ∀ {s : State}, x ∈ s.mem.l2 → x ∈ (l.foldl State.moveLine s).mem.l2 := by
  induction l with
  | nil => exact id
  | cons y l ih =>
    intro s hx
    refine ih (fun z hz => h z (List.mem_cons_of_mem _ hz)) ?_
    rw [State.moveLine_l2]
    exact List.mem_append_left _ (List.mem_filter.2 ⟨hx, decide_eq_true (h y List.mem_cons_self)⟩)

theorem foldl_moveLine_mem (l : List L2Line) {x : L2Line} : ∀ {s : State}, x ∈ (l.foldl State.moveLine s).mem.l2 →
    (x ∈ s.mem.l2 ∧ ∀ y ∈ l, x.line ≠ y.line) ∨ ∃ y ∈ l, y.owner.isSome = true ∧ x = y.kept := by
  induction l with
  | nil => exact fun h => .inl ⟨h, by simp⟩
  | cons y l ih =>
    intro s h
    rcases ih h with ⟨h, hl⟩ | ⟨z, hz, h⟩
    · rw [State.moveLine_l2] at h
      rcases List.mem_append.1 h with h | h
      · obtain ⟨h1, h2⟩ := List.mem_filter.1 h
        exact .inl ⟨h1, List.forall_mem_cons.2 ⟨of_decide_eq_true h2, hl⟩⟩
      · split at h
        · rename_i ho
          exact .inr ⟨y, List.mem_cons_self, ho, List.mem_singleton.1 h⟩
        · cases h
    · exact .inr ⟨z, List.mem_cons_of_mem _ hz, h⟩

theorem homeByte_foldl_moveLine {a : Nat} (l : List L2Line) (h : ∀ y ∈ l, a / 128 ≠ y.line) : ∀ s : State, (l.foldl State.moveLine s).homeByte a = s.homeByte a := by
  induction l with
  | nil => exact fun _ => rfl
  | cons y l ih =>
    intro s
    rw [List.foldl_cons, ih (fun z hz => h z (List.mem_cons_of_mem _ hz)), s.homeByte_moveLine_ne y (h y List.mem_cons_self)]

/-- The lines that a commit moves. -/
def State.movingLines (s : State) : List L2Line := s.mem.l2.filter fun x => s.moves (128 * x.line)
def State.movingBlocks (s : State) : List Block := s.mem.blocks.filter fun b => s.moves (s.blockPa b)

/-- The moving lines and blocks gone. -/
def State.movedOut (s : State) : State := (s.movingLines.foldl State.moveLine s).dropBlocks s.movingBlocks

/-- The new table in force. -/
def State.arsSwitched (s : State) : State :=
  let u := s.movedOut
  let u := { u with mem := { u.mem with far := u.mem.far.filter fun c => !u.moves (128 * c.line) } }
  let u := { u with dev := { u.dev with ars := u.arsNew, arsBusy := false } }
  u.setReg 0x600 (setFld (setFld (u.reg 0x600) 1 1 0) 2 1 1)

theorem execArsCommitSwitch_eq (s : State) (h : s.dev.arsBusy = true) : execArsCommitSwitch s =
    if (s.movingLines.any fun x => x.filling || !x.waiting.isEmpty) = true then .next s
    else if s.movingBlocks.any Block.pending = true then .next (s.movingBlocks.foldl State.startEncode s)
    else .next s.arsSwitched := by
  unfold execArsCommitSwitch
  rw [if_neg (ne_false_of_eq_true h)]
  rfl

theorem arsCommitSwitch_waits {s : State} (h : s.dev.arsBusy = true)
    (hx : ∃ x ∈ s.mem.l2, s.moves (128 * x.line) = true ∧ (x.filling = true ∨ x.waiting ≠ [])) : execArsCommitSwitch s = .next s := by
  obtain ⟨x, hx, hm, hw⟩ := hx
  rw [execArsCommitSwitch_eq s h, if_pos]
  refine List.any_eq_true.2 ⟨x, List.mem_filter.2 ⟨hx, hm⟩, ?_⟩
  rw [Bool.or_eq_true]
  exact hw.imp id fun hw => by simpa using hw

theorem State.movedOut_same (s : State) : s.movedOut.dev = s.dev ∧ s.movedOut.mem.far = s.mem.far ∧
    s.movedOut.mem.l2 = (s.movingLines.foldl State.moveLine s).mem.l2 ∧ s.movedOut.mem.blocks = s.mem.blocks.filter (fun b => !s.moves (s.blockPa b)) ∧
    ∀ a, s.movedOut.homeByte a = (s.movingLines.foldl State.moveLine s).homeByte a := by
  obtain ⟨h1, h2, h3⟩ := foldl_moveLine_dev s.movingLines s
  obtain ⟨h4, h5, h6, h7, h8⟩ := (s.movingLines.foldl State.moveLine s).dropBlocks_same s.movingBlocks
  refine ⟨h4.trans h1, h8.trans h2, h5, ?_, fun a => State.homeByte_congr h5 h6 a⟩
  have hb := (s.movingLines.foldl State.moveLine s).dropBlocks_filter (p := fun b => s.moves (s.blockPa b)) fun x y hk hy => by rw [s.blockPa_of_is hk]; exact hy
  rw [h3] at hb
  exact hb

theorem State.arsNew_congr {s t : State} (hr : ∀ o, t.reg o = s.reg o) : t.arsNew = s.arsNew := by
  unfold State.arsNew
  simp only [hr]

theorem arsCommitSwitch_switches {s : State} (h : s.dev.arsBusy = true)
    (hl : ∀ x ∈ s.mem.l2, s.moves (128 * x.line) = true → x.filling = false ∧ x.waiting = [])
    (hb : ∀ b ∈ s.mem.blocks, s.moves (s.blockPa b) = true → b.pending = false) : ∃ t, execArsCommitSwitch s = .next t ∧
      t.dev.ars = s.arsNew ∧ t.dev.arsBusy = false ∧ (t.reg 0x600).getLsbD 1 = false ∧ (t.reg 0x600).getLsbD 2 = true
        ∧ (∀ x ∈ s.mem.l2, s.moves (128 * x.line) = false → x ∈ t.mem.l2)
        ∧ (∀ x ∈ t.mem.l2, x ∈ s.mem.l2 ∧ s.moves (128 * x.line) = false ∨ ∃ y ∈ s.mem.l2, s.moves (128 * y.line) = true ∧ y.owner.isSome = true ∧ x = y.kept)
        ∧ t.mem.far = s.mem.far.filter (fun c => !s.moves (128 * c.line))
        ∧ (∀ b, b ∈ t.mem.blocks → b ∈ s.mem.blocks ∧ s.moves (s.blockPa b) = false)
        ∧ ∀ a, s.moves (128 * (a / 128)) = false → t.homeByte a = s.homeByte a := by
  obtain ⟨hdev, hfar, hl2, hbl, hhome⟩ := s.movedOut_same
  have hregs : ∀ o, s.movedOut.reg o = s.reg o := State.reg_congr (congrArg Device.regs hdev)
  have hmv : ∀ pa, s.movedOut.moves pa = s.moves pa := State.moves_congr (fun o _ => hregs o) (congrArg Device.ars hdev)
  refine ⟨s.arsSwitched, ?_, ?_, rfl, ?_, ?_, fun x hx hm => ?_, fun x hx => ?_, ?_, fun b hb => ?_, fun a ha => ?_⟩
  · rw [execArsCommitSwitch_eq s h, if_neg, if_neg]
    · rw [Bool.not_eq_true, List.any_eq_false]
      intro b hm
      obtain ⟨hm, hp⟩ := List.mem_filter.1 hm
      rw [hb b hm hp]; exact Bool.false_ne_true
    · rw [Bool.not_eq_true, List.any_eq_false]
      intro x hm
      obtain ⟨hm, hp⟩ := List.mem_filter.1 hm
      obtain ⟨h1, h2⟩ := hl x hm hp
      rw [h1, h2]; exact Bool.false_ne_true
  · exact (State.arsNew_congr fun o => rfl).trans (State.arsNew_congr hregs)
  · unfold State.arsSwitched
    rw [State.reg_setReg_same, setFld_one _ _ _ _ (by decide), if_neg (by decide), setFld_one _ _ _ _ (by decide)]; rfl
  · unfold State.arsSwitched
    rw [State.reg_setReg_same, setFld_one _ _ _ _ (by decide)]; rfl
  · show x ∈ s.movedOut.mem.l2
    rw [hl2]
    refine foldl_moveLine_stays _ (fun y hy e => ?_) hx
    have hy := (List.mem_filter.1 hy).2
    rw [e, hy] at hm; cases hm
  · have hx : x ∈ s.movedOut.mem.l2 := hx
    rw [hl2] at hx
    rcases foldl_moveLine_mem _ hx with ⟨h1, h2⟩ | ⟨y, hy, h1, h2⟩
    · refine .inl ⟨h1, Bool.eq_false_iff.2 fun hm => h2 x (List.mem_filter.2 ⟨h1, hm⟩) rfl⟩
    · obtain ⟨hy, hm⟩ := List.mem_filter.1 hy
      exact .inr ⟨y, hy, hm, h1, h2⟩
  · show s.movedOut.mem.far.filter (fun c => !s.movedOut.moves (128 * c.line)) = _
    rw [hfar]
    simp only [hmv]
  · have hb : b ∈ s.movedOut.mem.blocks := hb
    rw [hbl] at hb
    obtain ⟨h1, h2⟩ := List.mem_filter.1 hb
    exact ⟨h1, by simpa using h2⟩
  · refine (hhome a).trans (homeByte_foldl_moveLine _ (fun y hy e => ?_) s)
    have hy := (List.mem_filter.1 hy).2
    rw [e, hy] at ha; cases ha

end Sys2Proof.Machine
end

section
/-! SUPPORT. Z-regions: validation (R26) and retirement (R27). -/

namespace Sys2Proof.Machine

open Sys2Proof

variable {α : Type}

/-! ### Writes of word 0 -/

/-- Word 0 as a write that sets V leaves it before the check. -/
def zrFields (v : DWord) : DWord := v &&& 0xFFFFFFFF00FFC00C

theorem zrMask0_getLsbD {i : Nat} (hi : i < 64) : zrMask0.getLsbD i = ((0xFFFFFFFF00FFC00C : DWord).getLsbD i || decide (i = 0)) ∧
    ((0xFFFFFFFF00FFC00C : DWord).getLsbD i = true → i ≠ 0 ∧ i ≠ 4 ∧ ¬ (28 ≤ i ∧ i < 32)) := by
  revert i
  decide

theorem zrSet_fields (cur v : DWord) : setFld (setFld (rw cur zrMask0 (v ||| 1) 0 &&& zrMask0) 0 1 0) 4 1 0 = zrFields v := by
  refine BitVec.eq_of_getLsbD_eq fun i hi => ?_
  obtain ⟨h1, h2⟩ := zrMask0_getLsbD hi
  have h3 : ∀ i < 64, (1 : DWord).getLsbD i = decide (i = 0) := by decide
  rw [setFld_one _ _ _ _ (by decide), setFld_one _ _ _ _ (by decide), rw_eq_merge, and_halfMask_zero, BitVec.getLsbD_and, merge_getLsbD, h1,
    BitVec.getLsbD_or, h3 i hi, zrFields, BitVec.getLsbD_and]
  cases hm : (0xFFFFFFFF00FFC00C : DWord).getLsbD i with
  | true =>
    obtain ⟨g0, g4, -⟩ := h2 hm
    simp [g0, g4]
  | false =>
    by_cases g0 : i = 0
    · subst g0; simp
    · by_cases g4 : i = 4
      · subst g4; simp
      · simp [g0, g4]

/-- Word 0 with the check's outcome in it. -/
theorem zrChecked_word (v : DWord) {e : Nat} (he : e < 16) : setFld (setFld (zrFields v) 28 4 e) 0 1 (if e = 0 then 1 else 0)
    = (zrFields v ||| BitVec.ofNat 64 (e * 2 ^ 28)) ||| (if e = 0 then 1 else 0) := by
  refine BitVec.eq_of_getLsbD_eq fun i hi => ?_
  obtain ⟨-, h2⟩ := zrMask0_getLsbD hi
  have h3 : ∀ i < 64, (1 : DWord).getLsbD i = decide (i = 0) := by decide
  have hbit : (BitVec.ofNat 64 (e * 2 ^ 28)).getLsbD i = (decide (28 ≤ i) && e.testBit (i - 28)) := by
    rw [BitVec.getLsbD_ofNat, decide_eq_true hi, Bool.true_and, Nat.mul_comm, Nat.testBit_two_pow_mul]
  have hhigh : 32 ≤ i → e.testBit (i - 28) = false := fun h => Nat.testBit_lt_two_pow (Nat.lt_of_lt_of_le he (Nat.pow_le_pow_right (n := 2) (by decide) (show 4 ≤ i - 28 by omega)))
  have hz : (if e = 0 then (1 : DWord) else 0).getLsbD i = (decide (i = 0) && decide (e = 0)) := by
    by_cases h0 : e = 0
    · rw [if_pos h0, h3 i hi]; simp [h0]
    · rw [if_neg h0, show (0 : DWord).getLsbD i = false from BitVec.getLsbD_zero]; simp [h0]
  rw [setFld_one _ _ _ _ (by decide), setFld_getLsbD, BitVec.getLsbD_or, BitVec.getLsbD_or, hbit, hz, decide_eq_true hi, Bool.true_and]
  have hmask : (zrFields v).getLsbD i = true → i ≠ 0 ∧ ¬ (28 ≤ i ∧ i < 32) := by
    intro h
    rw [zrFields, BitVec.getLsbD_and, Bool.and_eq_true] at h
    exact ⟨(h2 h.2).1, (h2 h.2).2.2⟩
  by_cases g0 : i = 0
  · have hf : (zrFields v).getLsbD i = false := Bool.eq_false_iff.2 fun h => (hmask h).1 g0
    rw [if_pos g0, hf]
    subst g0
    by_cases h0 : e = 0 <;> simp [h0]
  · rw [if_neg g0, decide_eq_false g0, Bool.false_and, Bool.or_false]
    by_cases g28 : 28 ≤ i ∧ i < 28 + 4
    · have hf : (zrFields v).getLsbD i = false := Bool.eq_false_iff.2 fun h => (hmask h).2 g28
      rw [if_pos g28, hf, decide_eq_true g28.1]; simp
    · rw [if_neg g28]
      by_cases g : 28 ≤ i
      · rw [hhigh (by omega)]; simp
      · rw [decide_eq_false g]; simp

/-! ### The check of an entry is about the others -/

theorem any_mput (p : Nat × α → Bool) (k : Nat) (hp : ∀ a, p (k, a) = false) (a : α) (m : NMap α) : (mput m k a).any p = m.any p := by
  induction m with
  | nil => simp [mput, hp]
  | cons q r ih =>
    obtain ⟨j, b⟩ := q
    unfold mput
    split
    · rw [List.any_cons, hp, Bool.false_or]
    · split
      · rename_i h; subst h
        rw [List.any_cons, List.any_cons, hp, hp]
      · rw [List.any_cons, List.any_cons, ih]

/-- A search that passes over a key does not see a write there. -/
theorem any_mset [DecidableEq α] (p : Nat × α → Bool) (d : α) (k : Nat) (hp : ∀ a, p (k, a) = false) (a : α) (m : NMap α) : (mset d m k a).any p = m.any p := by
  unfold mset
  split
  · induction m with
    | nil => rfl
    | cons q r ih =>
      obtain ⟨j, b⟩ := q
      by_cases hj : j = k
      · subst hj
        rw [List.filter_cons_of_neg (by simp), List.any_cons, hp, Bool.false_or, ih]
      · rw [List.filter_cons_of_pos (by simpa using hj), List.any_cons, List.any_cons, ih]
  · exact any_mput p k hp a m

/-- The entry that a register belongs to, as word 0 of it. -/
def zrEntry (o : Nat) : Nat × Nat := ((o - 0x1000000) / 0x1000, (o - 0x1000000) % 0x1000 / 32)
def zrEntryHere (o : Nat) (w : DWord) : Bool := decide (0x1000000 ≤ o ∧ o < 0x2000000 ∧ o % 32 = 0 ∧ w.getLsbD 0 = true)

theorem zrEntry_zrOff {a n : Nat} (hn : n < 16) : zrEntry (zrOff a n) = (a, n) := by
  unfold zrEntry zrOff
  refine Prod.ext ?_ ?_
  · show (0x1000000 + 0x1000 * a + 32 * n - 0x1000000) / 0x1000 = a; omega
  · show (0x1000000 + 0x1000 * a + 32 * n - 0x1000000) % 0x1000 / 32 = n; omega

theorem zrOff_zrEntry {o : Nat} (h1 : 0x1000000 ≤ o) (h2 : o % 32 = 0) : zrOff (zrEntry o).1 (zrEntry o).2 = o := by
  show 0x1000000 + 0x1000 * ((o - 0x1000000) / 0x1000) + 32 * ((o - 0x1000000) % 0x1000 / 32) = o
  omega

theorem State.validZrs_any (s : State) (f : Nat × Nat → Bool) : s.validZrs.any f = s.dev.regs.any fun p => zrEntryHere p.1 p.2 && f (zrEntry p.1) := by
  unfold State.validZrs
  rw [List.any_filterMap]
  refine congrArg (fun f => List.any s.dev.regs f) (funext fun p => ?_)
  obtain ⟨o, w⟩ := p
  by_cases h : 0x1000000 ≤ o ∧ o < 0x2000000 ∧ o % 32 = 0 ∧ w.getLsbD 0 = true
  · simp only [h, zrEntryHere]; simp [zrEntry]
  · simp only [zrEntryHere, h, if_false, decide_false, Bool.false_and]

theorem State.zr_setReg_ne (s : State) {o a m : Nat} (ho : o % 32 = 0) (h : zrOff a m ≠ o) (w : DWord) : (s.setReg o w).zr a m = s.zr a m := by
  have hz : zrOff a m % 32 = 0 := by unfold zrOff; omega
  unfold State.zr
  dsimp only
  rw [State.reg_setReg_ne _ _ h, State.reg_setReg_ne _ _ (show zrOff a m + 8 ≠ o by omega), State.reg_setReg_ne _ _ (show zrOff a m + 16 ≠ o by omega),
    State.reg_setReg_ne _ _ (show zrOff a m + 24 ≠ o by omega)]

/-- Whether an entry other than `(a, n)` meets a region. -/
def State.zrMeets (s : State) (a n : Nat) (z : ZRegion) (p : Nat × Nat) : Bool :=
  !(decide (p.1 = a) && decide (p.2 = n)) &&
    (decide (p.1 = a) && rangesMeet z.vbase z.viewLen (s.zr p.1 p.2).vbase (s.zr p.1 p.2).viewLen || rangesMeet z.cbase z.codeLen (s.zr p.1 p.2).cbase (s.zr p.1 p.2).codeLen)

theorem State.zrMeets_setReg (s : State) {a n : Nat} (hn : n < 16) (z : ZRegion) (w : DWord) :
    (s.setReg (zrOff a n) w).validZrs.any ((s.setReg (zrOff a n) w).zrMeets a n z) = s.validZrs.any (s.zrMeets a n z) := by
  have hoff : zrOff a n % 32 = 0 := by unfold zrOff; omega
  rw [State.validZrs_any, State.validZrs_any]
  refine Eq.trans ?_ (any_mset _ (regReset (zrOff a n)) (zrOff a n) (fun b => ?_) w _)
  · refine congrArg (fun f => List.any (mset (regReset (zrOff a n)) s.dev.regs (zrOff a n) w) f) (funext fun p => ?_)
    obtain ⟨o, x⟩ := p
    by_cases ho : zrEntryHere o x = true
    · obtain ⟨h1, -, h2, -⟩ := of_decide_eq_true ho
      by_cases he : o = zrOff a n
      · subst he
        rw [zrEntry_zrOff hn]
        simp [State.zrMeets]
      · have hz := s.zr_setReg_ne (o := zrOff a n) (a := (zrEntry o).1) (m := (zrEntry o).2) hoff (by rw [zrOff_zrEntry h1 h2]; exact he) w
        simp only [State.zrMeets, hz]
    · rw [Bool.not_eq_true] at ho
      rw [ho, Bool.false_and, Bool.false_and]
  · rw [zrEntry_zrOff hn]
    simp [State.zrMeets]

theorem State.zrCheck_eq (s : State) (a n : Nat) (z : ZRegion) : s.zrCheck a n z =
    if 1 ≤ z.dims ∧ rateOk z.wide z.dims z.rate = false then 1
    else if z.dims = 0 ∨ z.nx = 0 ∨ z.ny = 0 ∨ z.nz = 0 ∨ (z.dims = 1 ∧ z.ny ≠ 1) ∨ (z.dims ≤ 2 ∧ z.nz ≠ 1) then 2
    else if (match tierRoom z.cbase with | some r => decide (r < z.codeLen) | none => true) then 3
    else if s.validZrs.any (s.zrMeets a n z) then 4
    else 0 := rfl

theorem firstFailing_lt {a b c d : Prop} [Decidable a] [Decidable b] [Decidable c] [Decidable d] :
    (if a then 1 else if b then 2 else if c then 3 else if d then 4 else 0) < 16 := by
  split
  · decide
  split
  · decide
  split
  · decide
  split <;> decide

theorem zrCheck_lt (s : State) (a n : Nat) (z : ZRegion) : s.zrCheck a n z < 16 :=
  lt_of_eq_of_lt (s.zrCheck_eq a n z) firstFailing_lt

theorem State.zrCheck_setReg (s : State) {a n : Nat} (hn : n < 16) (z : ZRegion) (w : DWord) : (s.setReg (zrOff a n) w).zrCheck a n z = s.zrCheck a n z := by
  rw [State.zrCheck_eq, State.zrCheck_eq, s.zrMeets_setReg hn]

/-! ### Validation and retirement -/

theorem State.zrWrite_eq (s : State) {a n : Nat} (ha : a < 4096) (hn : n < 16) (v : DWord) : s.regWrite (zrOff a n) 0 v = s.zrPut a n 0 0 v := by
  rw [s.regWrite_eq_regPut (devReg?_zr ha hn) nofun nofun]
  simp only [State.regPut, devReg?_zr ha hn]

theorem State.zrPut_zero (s : State) (a n : Nat) (v : DWord) : s.zrPut a n 0 0 v =
    if (s.reg (zrOff a n)).getLsbD 0 then
      if (rw (s.reg (zrOff a n)) zrMask0 v 0).getLsbD 0 = false ∧ fld (s.reg (zrOff a n)) 28 4 ≠ 15 then s.zrRetireStart a n else s
    else if (rw (s.reg (zrOff a n)) zrMask0 v 0).getLsbD 0 then s.zrSet a n (rw (s.reg (zrOff a n)) zrMask0 v 0) false
    else s.setReg (zrOff a n) (rw (s.reg (zrOff a n)) zrMask0 v 0) := rfl

theorem zrWord_valid (cur v : DWord) : (rw cur zrMask0 v 0).getLsbD 0 = v.getLsbD 0 := by
  rw [rw_eq_merge, and_halfMask_zero, merge_getLsbD, if_pos (by decide)]

theorem zrValidate_again {s : State} {a n : Nat} (ha : a < 4096) (hn : n < 16) (h : (s.reg (zrOff a n)).getLsbD 0 = true) (v : DWord) :
    s.regWrite (zrOff a n) 0 (v ||| 1) = s := by
  have hv : (v ||| 1).getLsbD 0 = true := by rw [BitVec.getLsbD_or]; exact Bool.or_true _
  rw [s.zrWrite_eq ha hn, State.zrPut_zero, if_pos h, zrWord_valid, hv, if_neg (fun e => Bool.noConfusion e.1)]

theorem zrValidate_checks {s : State} {a n : Nat} (ha : a < 4096) (hn : n < 16) (h : (s.reg (zrOff a n)).getLsbD 0 = false) (v : DWord) :
    let z := zrOf (zrFields v) (s.reg (zrOff a n + 8)) (s.reg (zrOff a n + 16)) (s.reg (zrOff a n + 24))
    ∃ w, s.regWrite (zrOff a n) 0 (v ||| 1) = (s.setReg (zrOff a n) (zrFields v)).setReg (zrOff a n) w ∧
      w = (zrFields v ||| BitVec.ofNat 64 (s.zrCheck a n z * 2 ^ 28)) ||| (if s.zrCheck a n z = 0 then 1 else 0) := by
  intro z
  have hv : (v ||| 1).getLsbD 0 = true := by rw [BitVec.getLsbD_or]; exact Bool.or_true _
  have hz : (s.setReg (zrOff a n) (zrFields v)).zr a n = z := by
    unfold State.zr
    dsimp only
    rw [State.reg_setReg_same, State.reg_setReg_ne _ _ (by omega), State.reg_setReg_ne _ _ (by omega), State.reg_setReg_ne _ _ (by omega)]
  refine ⟨_, ?_, zrChecked_word v (zrCheck_lt s a n z)⟩
  rw [s.zrWrite_eq ha hn, State.zrPut_zero, if_neg (ne_true_of_eq_false h), zrWord_valid, hv, if_pos rfl, State.zrSet]
  rw [if_neg Bool.false_ne_true, zrSet_fields, hz, s.zrCheck_setReg hn]

theorem State.homeByte_setReg (s : State) (o : Nat) (w : DWord) (p : Nat) : (s.setReg o w).homeByte p = s.homeByte p :=
  State.homeByte_congr rfl rfl p

theorem zrRetire_begins {s : State} {a n : Nat} (ha : a < 4096) (hn : n < 16) (h : (s.reg (zrOff a n)).getLsbD 0 = true) (he : fld (s.reg (zrOff a n)) 28 4 ≠ 15)
    (v : DWord) : let t := s.regWrite (zrOff a n) 0 (setFld v 0 1 0)
    fld (t.reg (zrOff a n)) 28 4 = 15 ∧ (t.reg (zrOff a n)).getLsbD 0 = true ∧ (∀ p, t.homeByte p = s.homeByte p) ∧
      ∀ b ∈ t.mem.blocks, b.asid = a → b.zr = n → b.st ≠ .dirty := by
  have hv : (setFld v 0 1 0).getLsbD 0 = false := by rw [setFld_one _ _ _ _ (by decide)]; rfl
  dsimp only
  rw [s.zrWrite_eq ha hn, State.zrPut_zero, if_pos h, zrWord_valid, if_pos ⟨hv, he⟩, State.zrRetireStart]
  have hr : (s.setReg (zrOff a n) (setFld (s.reg (zrOff a n)) 28 4 15)).reg (zrOff a n) = setFld (s.reg (zrOff a n)) 28 4 15 := State.reg_setReg_same _ _ _
  have hh : ∀ p, (s.setReg (zrOff a n) (setFld (s.reg (zrOff a n)) 28 4 15)).homeByte p = s.homeByte p := s.homeByte_setReg _ _
  generalize s.setReg (zrOff a n) (setFld (s.reg (zrOff a n)) 28 4 15) = u at hr hh ⊢
  refine ⟨?_, ?_, fun p => (homeByte_foldl_startEncode _ _ p).trans (hh p), fun b hb h1 h2 => not_dirty_foldl_startEncode hb (by rw [h1, h2]; simp)⟩
  · rw [State.reg_congr (congrArg Device.regs (foldl_startEncode_dev _ _)), hr, fld_setFld_same _ _ _ _ (by decide)]; rfl
  · rw [State.reg_congr (congrArg Device.regs (foldl_startEncode_dev _ _)), hr, setFld_getLsbD, if_neg (by decide), h]; rfl

theorem execZrRetireDone_eq (a n : Nat) (s : State) : execZrRetireDone a n s =
    if (s.zr a n).err ≠ 15 ∨ s.viewComing a n = true then .next s
    else if (s.blocksOf a n).any Block.pending = true then .next ((s.blocksOf a n).foldl State.startEncode s)
    else .next (s.zrRetireEnd a n) := rfl

/-- The blocks of a region dropped. -/
theorem State.dropBlocks_region (s : State) (a n : Nat) : ((s.blocksOf a n).foldl (fun s b => s.dropBlock a n b.blk) s) = s.dropBlocks (s.blocksOf a n) := by
  have h : ∀ (l : List Block), (∀ b ∈ l, b.asid = a ∧ b.zr = n) → ∀ s : State, l.foldl (fun s b => s.dropBlock a n b.blk) s = s.dropBlocks l := by
    intro l
    induction l with
    | nil => exact fun _ _ => rfl
    | cons b l ih =>
      intro hl s
      obtain ⟨h1, h2⟩ := hl b List.mem_cons_self
      refine (ih (fun x hx => hl x (List.mem_cons_of_mem _ hx)) _).trans ?_
      rw [← h1, ← h2]; rfl
  refine h _ (fun b hb => ?_) s
  simpa [State.blocksOf] using (List.mem_filter.1 hb).2

theorem zrRetireDone_ends {s : State} {a n : Nat} (he : (s.zr a n).err = 15) (hv : s.viewComing a n = false)
    (hb : ∀ b ∈ s.mem.blocks, b.asid = a → b.zr = n → b.pending = false) : ∃ t, execZrRetireDone a n s = .next t ∧
      (t.reg (zrOff a n)).getLsbD 0 = false ∧ fld (t.reg (zrOff a n)) 28 4 = 0 ∧
      t.mem.blocks = s.mem.blocks.filter (fun b => !(decide (b.asid = a) && decide (b.zr = n))) ∧
      t.mem.l1 = s.mem.l1.filter (fun c => !(decide (viewLine a n 0 ≤ c.line) && decide (c.line < viewLine a n 0 + 2 ^ 48))) ∧
      ∀ p, t.homeByte p = s.homeByte p := by
  have hpend : ¬ (s.blocksOf a n).any Block.pending = true := by
    rw [Bool.not_eq_true, List.any_eq_false]
    intro b hm
    obtain ⟨hm, hp⟩ := List.mem_filter.1 hm
    rw [Bool.and_eq_true, decide_eq_true_eq, decide_eq_true_eq] at hp
    rw [hb b hm hp.1 hp.2]; exact Bool.false_ne_true
  refine ⟨s.zrRetireEnd a n, ?_, ?_⟩
  · rw [execZrRetireDone_eq, if_neg, if_neg hpend]
    rintro (h | h)
    · exact h he
    · rw [hv] at h; cases h
  · obtain ⟨h1, h2, h3, h4, -⟩ := s.dropBlocks_same (s.blocksOf a n)
    have h5 := s.dropBlocks_filter (p := fun b => decide (b.asid = a) && decide (b.zr = n)) fun x y hk hy => by
      obtain ⟨e1, e2, -⟩ := Block.is_iff.1 hk
      rw [e1, e2]; exact hy
    have h5 : (s.dropBlocks (s.blocksOf a n)).mem.blocks = _ := h5
    unfold State.zrRetireEnd
    dsimp only
    rw [State.dropBlocks_region]
    generalize s.dropBlocks (s.blocksOf a n) = u at *
    have hreg : ∀ w : DWord, State.reg { (u.dropViewLines a n).setReg (zrOff a n) w with dev := { ((u.dropViewLines a n).setReg (zrOff a n) w).dev with
        zrOwner := mset 0 ((u.dropViewLines a n).setReg (zrOff a n) w).dev.zrOwner (16 * a + n) 0 } } (zrOff a n) = w := fun w => State.reg_setReg_same _ _ _
    refine ⟨?_, ?_, h5, ?_, fun p => (State.homeByte_congr rfl rfl p).trans (State.homeByte_congr h2 h3 p)⟩
    · rw [hreg, setFld_one _ _ _ _ (by decide)]; rfl
    · rw [hreg, fld_setFld_ne _ _ _ _ _ _ (by decide), fld_setFld_same _ _ _ _ (by decide)]; rfl
    · show u.mem.l1.filter _ = _
      rw [h4]

theorem zrRetireDone_waits {s : State} {a n : Nat} (hv : s.viewComing a n = true) : execZrRetireDone a n s = .next s := by
  rw [execZrRetireDone_eq, if_pos (.inr hv)]

end Sys2Proof.Machine
end

section
open Sys2Proof Sys2Proof.Machine

/-- Settles O55: commits, regions and refills, each by the lemma about it. -/
theorem tablesOfRangesRegionsAndBuckets : Obligations.TablesOfRangesRegionsAndBuckets := by
  unfold Obligations.TablesOfRangesRegionsAndBuckets
  intro s put only fails ctl moving busy
  have hoff : ∀ n, 0x10008 + 16 * n = 0x10000 + 16 * n + 8 := fun n => by omega
  have hnone : ∀ m, (∀ e, ¬ fails m e) → s.arsFails m = none := by
    intro m hm
    refine if_neg fun h => hm _ ⟨h.1, ?_, h.2⟩
    rw [hoff]
  refine ⟨?commitBusy, ?commitFails, ?commit, ?switch, ?switchWaits, ?regions, ?refill, ?early⟩
  case commitBusy => exact fun v h => congrArg Host.Outcome.next (arsCommit_busy h v)
  case commitFails =>
    rintro v n e h hn ⟨hv, he, h0⟩ hm
    rw [hoff] at he
    obtain ⟨w, hw, h1, h2, h3, h4⟩ := arsCommit_fails h hn hv he h0 (fun m hm' => hnone m (hm m hm')) v
    refine ⟨s.setReg 0x600 w, congrArg Host.Outcome.next hw, rfl, ?_⟩
    rw [State.reg_setReg_same]
    exact ⟨h1, h2, h3, h4⟩
  case commit =>
    intro v h hf
    exact ⟨_, rfl, arsCommit_begins h (fun m hm => hnone m (hf m hm)) v⟩
  case switch => exact fun h hl hb => arsCommitSwitch_switches h hl hb
  case switchWaits => exact fun h hx => arsCommitSwitch_waits h hx
  case regions =>
    intro a ha n hn v o z e
    refine ⟨fun h => congrArg Host.Outcome.next (zrValidate_again ha hn h v), fun h => ?_, fun h he => ⟨_, rfl, zrRetire_begins ha hn h he v⟩,
      fun he hv hb => zrRetireDone_ends he hv hb, fun _ hv => zrRetireDone_waits hv⟩
    obtain ⟨w, hw, hc⟩ := zrValidate_checks ha hn h v
    refine ⟨_, congrArg Host.Outcome.next hw, rfl, ?_⟩
    rw [State.reg_setReg_same]
    exact hc
  case refill =>
    intro h k
    obtain ⟨t, ht, hl, hb⟩ := bucketRefill_refills h
    exact ⟨t, ht, hl, fun d hd n hn => by
      have hnew : s.devRead8 (tbcfgOff d n) = (tbPending s d n).getD (s.reg (tbcfgOff d n)) := by
        unfold State.devRead8
        rw [devReg?_tbcfg hd hn]
      obtain ⟨h1, h2, h3⟩ := bucketRefill_counts (hb d hd n hn)
      rw [← hnew] at h1 h3
      exact ⟨h1, h2, h3⟩⟩
  case early => exact fun h => if_pos h

end

section
/-! SUPPORT. One lane of an operation: what stands at its place after the lane is performed or queued, and what the end of an operation leaves
(R142, R152, R235). -/

namespace Sys2Proof.Machine

open Sys2Proof

variable {α : Type}

/-! ### Flights, operations and lanes by their names -/

theorem findBy_map {key : α → Nat} {g : α → α} (hg : ∀ x, key (g x) = key x) (l : List α) (k : Nat) : findBy key (l.map g) k = (findBy key l k).map g := by
  unfold findBy
  rw [List.find?_map]
  exact congrArg _ (congrFun (congrArg _ (funext fun x => by simp [hg])) l)

theorem State.flight?_congr {s t : State} (h : t.flights = s.flights) (n : Nat) : t.flight? n = s.flight? n := by
  unfold State.flight?
  rw [h]

/-- A flight that is changed and keeps its name. -/
theorem State.flight?_setFlight_same {s : State} {x y : Flight} (h : s.flight? x.id = some x) (hy : y.id = x.id) : (s.setFlight y).flight? x.id = some y := by
  rw [State.flight?_setFlight, if_pos hy.symm, h]; rfl

/-- A flight after each flight is changed and keeps its name. -/
theorem State.flight?_updFlight (s : State) (n m : Nat) {u : Flight → Flight} (hu : ∀ x, (u x).id = x.id) :
    (s.updFlight n u).flight? m = if m = n then (s.flight? m).map u else s.flight? m := by
  unfold State.updFlight
  cases h : s.flight? n with
  | none =>
    by_cases hm : m = n
    · rw [if_pos hm, hm, h]; rfl
    · rw [if_neg hm]
  | some x =>
    have hx := State.flight?_id _ _ _ h
    dsimp only
    rw [State.flight?_setFlight, hu, hx]
    by_cases hm : m = n
    · rw [if_pos hm, if_pos hm, hm, h]; rfl
    · rw [if_neg hm, if_neg hm]

theorem Flight.setOp_length (x : Flight) (o : Op) : (x.setOp o).ops.length = x.ops.length := List.length_map _

theorem Op.lane?_setAcc {o : Op} {a b : Access} (h : o.lane? b.lane = some a) : (o.setAcc b).lane? b.lane = some b :=
  findBy_isSome_replBy Access.lane o.acc b.lane b rfl a h

theorem Flight.op?_setOp {x : Flight} {o p : Op} (h : x.op? o.id = some p) : (x.setOp o).op? o.id = some o :=
  findBy_isSome_replBy Op.id x.ops o.id o rfl p h

/-- Flight, operation and lane stand in the state under their names. -/
structure LaneAt (s : State) (x : Flight) (o : Op) (a : Access) : Prop where
  flight : s.flight? x.id = some x
  op : x.op? o.id = some o
  lane : o.lane? a.lane = some a

theorem State.lane?_some {s : State} {f op lane : Nat} {x : Flight} {o : Op} {a : Access} (h : s.lane? f op lane = some (x, o, a)) :
    x.id = f ∧ o.id = op ∧ a.lane = lane ∧ LaneAt s x o a := by
  unfold State.lane? at h
  cases hx : s.flight? f with
  | none => rw [hx] at h; cases h
  | some x' =>
    rw [hx, Option.bind_some] at h
    cases ho : x'.op? op with
    | none => rw [ho] at h; cases h
    | some o' =>
      rw [ho, Option.bind_some] at h
      cases ha : o'.lane? lane with
      | none => rw [ha] at h; cases h
      | some a' =>
        rw [ha] at h
        cases h
        have h1 := State.flight?_id _ _ _ hx
        have h2 : o.id = op := findBy_key _ _ _ _ ho
        have h3 : a.lane = lane := findBy_key _ _ _ _ ha
        subst h1 h2 h3
        exact ⟨rfl, rfl, rfl, hx, ho, ha⟩

variable {s t : State} {x : Flight} {o : Op} {a : Access}

theorem LaneAt.congr (h : LaneAt s x o a) (ht : t.flights = s.flights) : LaneAt t x o a :=
  ⟨(State.flight?_congr ht _).trans h.flight, h.op, h.lane⟩

theorem LaneAt.lane? (h : LaneAt s x o a) : s.lane? x.id o.id a.lane = some (x, o, a) := by
  unfold State.lane?
  rw [h.flight, Option.bind_some, h.op, Option.bind_some, h.lane]; rfl

theorem LaneAt.flightOp? (h : LaneAt s x o a) : (s.flight? x.id).bind (fun y => (y.op? o.id).map fun p => (y, p)) = some (x, o) := by
  rw [h.flight, Option.bind_some, h.op]; rfl

/-- The lane's place holds `b` once its operation is replaced in a flight that keeps its name. -/
theorem LaneAt.replaced (h : LaneAt s x o a) {b : Access} (hb : b.lane = a.lane) {y : Flight} (hy : y.id = x.id)
    (hops : y.op? o.id = some (o.setAcc b)) : LaneAt (s.setFlight y) y (o.setAcc b) b :=
  ⟨by rw [hy]; exact State.flight?_setFlight_same h.flight hy, hops, Op.lane?_setAcc (by rw [hb]; exact h.lane)⟩

/-! ### What settling does -/

/-- An operation that lands, and takes no discards, is left as it is. -/
theorem State.settle_lands {f op : Nat} (hx : s.flight? f = some x) (ho : x.op? op = some o) (hq : isAcq o.ord = false) (hl : o.lands = true) :
    s.settle f op = s := by
  unfold State.settle
  rw [hx, Option.bind_some, ho, Option.map_some]
  dsimp only
  rw [hq, hl]
  simp

/-- A lane performed or refused: its flight is replaced, and its place holds the lane as given. -/
theorem LaneAt.performed (h : LaneAt s x o a) (hq : isAcq o.ord = false) (hl : o.lands = true) {b : Access} (hb : b.lane = a.lane) (obs : List Nat) :
    ∃ y, s.lanePerformed x.id o.id b obs = s.setFlight y ∧ y.id = x.id ∧ y.ops.length = x.ops.length ∧ LaneAt (s.setFlight y) y (o.setAcc b) b := by
  let y := { x.setOp (o.setAcc b) with obs := obs.foldl (noteObs o.seq) x.obs }
  have hat : LaneAt (s.setFlight y) y (o.setAcc b) b := h.replaced hb rfl (Flight.op?_setOp (o := o.setAcc b) h.op)
  refine ⟨y, ?_, rfl, Flight.setOp_length _ _, hat⟩
  unfold State.lanePerformed
  rw [State.updFlight_eq _ _ _ _ h.flight, h.op]
  exact State.settle_lands hat.flight hat.op hq hl

/-- A lane's phase changed: its flight is replaced, and its place holds the lane with the phase. -/
theorem LaneAt.phased (h : LaneAt s x o a) (p : Phase) : ∃ y, s.lanePhase x.id o.id a.lane p = s.setFlight y ∧ y.id = x.id ∧ y.wq = x.wq ∧
    LaneAt (s.setFlight y) y (o.setAcc { a with phase := p }) { a with phase := p } := by
  refine ⟨x.setOp (o.setAcc { a with phase := p }), ?_, rfl, rfl,
    h.replaced (b := { a with phase := p }) rfl rfl (Flight.op?_setOp (o := o.setAcc { a with phase := p }) h.op)⟩
  unfold State.lanePhase
  rw [State.updFlight_eq _ _ _ _ h.flight, h.op]
  dsimp only
  rw [h.lane]

end Sys2Proof.Machine
end

section
/-! SUPPORT. What a read returns: bytes of the flight's own writes over the bytes it finds (R143); and the changes of views and predictors, which
leave home bytes and flights alone. -/

namespace Sys2Proof.Machine

open Sys2Proof

variable {α β : Type}

/-! ### Bytes of a number -/

theorem enum_map_range (n : Nat) (g : Nat → α) : enum ((List.range n).map g) = (List.range n).map fun i => (i, g i) := by
  unfold enum
  rw [List.length_map, List.length_range]
  exact List.ext_getElem (by simp) fun i h1 h2 => by simp

/-- Byte `i` of a number put together from bytes. -/
theorem byte_ofLe : ∀ (l : List Byte) (i : Nat), BitVec.ofNat 8 (ofLe l / 2 ^ (8 * i)) = l.getD i 0
  | [], i => by simp [ofLe]
  | b :: r, 0 => by
    have h := b.isLt
    refine BitVec.eq_of_toNat_eq ?_
    rw [BitVec.toNat_ofNat, ofLe, Nat.mul_zero, Nat.pow_zero, Nat.div_one, List.getD_cons_zero]
    omega
  | b :: r, i + 1 => by
    have h := b.isLt
    rw [List.getD_cons_succ, ← byte_ofLe r i, ofLe, Nat.mul_succ, Nat.pow_add, Nat.mul_comm (2 ^ (8 * i)), ← Nat.div_div_eq_div_mul,
      show (b.toNat + 256 * ofLe r) / 2 ^ 8 = ofLe r by omega]

theorem byte_ofLe_range (n : Nat) (g : Nat → Byte) {i : Nat} (hi : i < n) : BitVec.ofNat 8 (ofLe ((List.range n).map g) / 2 ^ (8 * i)) = g i := by
  rw [byte_ofLe, List.getD_eq_getElem _ _ (by simpa using hi), List.getElem_map, List.getElem_range]

theorem byte_cellsGet_one (m : List Host.Cell) (p : Nat) : BitVec.ofNat 8 (cellsGet m p 1) = cellGet m p := by
  have h := byte_ofLe_range 1 (fun i => cellGet m (p + i)) Nat.zero_lt_one
  rwa [Nat.mul_zero, Nat.pow_zero, Nat.div_one] at h

/-! ### Own bytes first -/

/-- The value of a read: each byte from the youngest own write that has it, and else as `at_` gives it. -/
def Flight.ownOr (x : Flight) (a : Access) (at_ : Nat → Byte) : Nat :=
  ofLe ((List.range a.size).map fun i => (x.wq.reverse.findSome? fun w => w.byteAt a.space (a.pa + i)).getD (at_ i))

theorem Flight.overlay_forwarded (x : Flight) (a : Access) {n : Nat} {at_ : Nat → Byte} (h : ∀ i < a.size, BitVec.ofNat 8 (n / 2 ^ (8 * i)) = at_ i) :
    overlay (x.forwarded a) n = x.ownOr a at_ := by
  unfold overlay Flight.forwarded Flight.ownOr
  rw [enum_map_range, List.map_map]
  refine congrArg ofLe (List.map_congr_left fun i hi => ?_)
  exact congrArg (Option.getD _) (h i (List.mem_range.1 hi))

theorem Flight.overlay_bytes (x : Flight) (a : Access) (g : Nat → Byte) : overlay (x.forwarded a) (ofLe ((List.range a.size).map g)) = x.ownOr a g :=
  x.overlay_forwarded a fun _ hi => byte_ofLe_range _ g hi

/-- A read that the write queue serves whole does not depend on what else is found. -/
theorem Flight.ownValue_some {x : Flight} {a : Access} {v : Nat} (h : x.ownValue a = some v) (at_ : Nat → Byte) : v = x.ownOr a at_ := by
  unfold Flight.ownValue at h
  dsimp only at h
  split at h
  · rename_i hall
    cases h
    unfold Flight.forwarded Flight.ownOr
    rw [List.map_map]
    refine congrArg ofLe (List.map_congr_left fun i hi => ?_)
    obtain ⟨b, hb⟩ := Option.isSome_iff_exists.1 (List.all_eq_true.1 hall _ (List.mem_map_of_mem hi))
    rw [Function.comp_apply, hb]; rfl
  · cases h

/-! ### Changes beside the homes -/

/-- A change of views, predictors or a line's last reader: flights and home bytes stay. -/
structure Beside (s t : State) : Prop where
  flights : t.flights = s.flights
  homes : ∀ a, t.homeByte a = s.homeByte a

theorem Beside.refl (s : State) : Beside s s := ⟨rfl, fun _ => rfl⟩

variable {s t u : State}

theorem Beside.trans (h : Beside s t) (k : Beside t u) : Beside s u := ⟨k.flights.trans h.flights, fun a => (k.homes a).trans (h.homes a)⟩

theorem Beside.ite (c : Prop) [Decidable c] (h : Beside s t) : Beside s (if c then t else s) := by
  split
  · exact h
  · exact .refl s

theorem beside_putL1 (s : State) (c : LineCopy) : Beside s (s.putL1 c) := ⟨rfl, fun _ => rfl⟩
theorem beside_putFar (s : State) (c : LineCopy) : Beside s (s.putFar c) := ⟨rfl, fun _ => rfl⟩
theorem beside_dropL1 (s : State) (core line : Nat) : Beside s (s.dropL1 core line) := ⟨rfl, fun _ => rfl⟩
theorem beside_dropFar (s : State) (d line : Nat) : Beside s (s.dropFar d line) := ⟨rfl, fun _ => rfl⟩
theorem beside_train (s : State) (core pa peer : Nat) : Beside s (s.train core pa peer) := ⟨rfl, fun _ => rfl⟩

theorem beside_trainBy (s : State) (core pa field : Nat) : Beside s (s.trainBy core pa field) := (beside_train ..).ite _

theorem beside_l1FromCopy (s : State) (core : Nat) (c : LineCopy) (m : BitVec 4) (ro : Bool) (hint : Nat) : Beside s (s.l1FromCopy core c m ro hint) := by
  unfold State.l1FromCopy
  split
  · exact .refl s
  · exact beside_putL1 ..

theorem beside_l1FromHome (s : State) (core line : Nat) (m : BitVec 4) (ro : Bool) (hint : Nat) : Beside s (s.l1FromHome core line m ro hint) := by
  unfold State.l1FromHome
  split
  · exact .refl s
  · exact beside_putL1 ..

theorem beside_fillFar (s : State) (core line gen : Nat) (ro : Bool) : Beside s (s.fillFar core line gen ro) := by
  unfold State.fillFar
  dsimp only
  split
  · exact .refl s
  · exact beside_putFar ..

/-- A home line replaced by one that reads as the home did. -/
theorem State.homeByte_setL2 (s : State) (x : L2Line) (h : ∀ a, a / 128 = x.line → byteOf s.mem.bytes (some x) a = s.homeByte a) (a : Nat) :
    (s.setL2 x).homeByte a = s.homeByte a := by
  rw [State.homeByte_eq, State.l2?_setL2]
  by_cases ha : a / 128 = x.line
  · rw [if_pos ha]; exact h a ha
  · rw [if_neg ha]; rfl

/-- A home's line, or an empty one where none is held. -/
def State.lineAt (s : State) (line : Nat) : L2Line := (s.l2? line).getD (L2Line.empty line)

theorem State.lineAt_line (s : State) (line : Nat) : (s.lineAt line).line = line := by
  unfold State.lineAt
  cases h : s.l2? line with
  | none => rfl
  | some x => exact State.l2?_line h

theorem State.byteOf_lineAt (s : State) (a : Nat) : byteOf s.mem.bytes (some (s.lineAt (a / 128))) a = s.homeByte a := by
  rw [State.homeByte_eq, State.lineAt]
  cases s.l2? (a / 128) with
  | none => exact byteOf_invalid BitVec.getLsbD_zero
  | some x => rfl

/-- A home line changed in other fields than its sectors' bytes. -/
theorem State.homeByte_setL2_lineAt (s : State) {line : Nat} {x : L2Line} (hl : x.line = line) (hv : x.valid = (s.lineAt line).valid)
    (hb : x.bytes = (s.lineAt line).bytes) (a : Nat) : (s.setL2 x).homeByte a = s.homeByte a :=
  s.homeByte_setL2 x (fun a ha => by
    rw [← hl, ← ha] at hv hb
    rw [← State.byteOf_lineAt]
    unfold byteOf
    dsimp only
    rw [hv, hb]) a

theorem State.lineAt_of_some {line : Nat} {x : L2Line} (h : s.l2? line = some x) : s.lineAt line = x := by
  unfold State.lineAt
  rw [h]; rfl

theorem State.homeByte_setL2_held {line : Nat} {y : L2Line} (h : s.l2? line = some y) {x : L2Line} (hl : x.line = y.line) (hv : x.valid = y.valid)
    (hb : x.bytes = y.bytes) (a : Nat) : (s.setL2 x).homeByte a = s.homeByte a :=
  have hy := State.lineAt_of_some h
  s.homeByte_setL2_lineAt (hl.trans (State.l2?_line h)) (by rw [hy, hv]) (by rw [hy, hb]) a

/-- A request that joins a line's waiting list. -/
theorem State.joinFill_eq (s : State) (line : Nat) (r : HomeReq) :
    s.joinFill line r = s.setL2 { s.lineAt line with filling := true, waiting := (s.lineAt line).waiting ++ [r] } := rfl

theorem beside_joinFill (s : State) (line : Nat) (r : HomeReq) : Beside s (s.joinFill line r) :=
  ⟨rfl, s.homeByte_setL2_lineAt (s.lineAt_line line) rfl rfl⟩

theorem State.l2?_joinFill (s : State) (line : Nat) (r : HomeReq) : ∃ l, (s.joinFill line r).l2? line = some l ∧ l.filling = true ∧ l.waiting.getLast? = some r :=
  ⟨_, by rw [State.joinFill_eq, State.l2?_setL2, if_pos (s.lineAt_line line).symm], rfl, List.getLast?_concat⟩

end Sys2Proof.Machine
end

section
/-! SUPPORT. PERFORM_READ and PEER_PROBE of one lane of a load (R143, R79, R80, R83): where its value comes from. -/

namespace Sys2Proof.Machine

open Sys2Proof

/-! ### A lane of a load -/

/-- A lane of a relaxed load that may be performed. -/
structure LoadReady (s : State) (x : Flight) (o : Op) (a : Access) : Prop where
  here : LaneAt s x o a
  todo : a.phase = .todo
  may : x.mayPerform o a = true
  kind : o.kind = .load
  ord : o.ord = 0

/-- The step performs the lane with a value, and every home byte and operation stays. -/
def Gets (s : State) (x : Flight) (o : Op) (a : Access) (i : Instr) (v : Nat) : Prop :=
  ∃ t y p, exec i s = .next t ∧ t.lane? x.id o.id a.lane = some (y, p, { a with phase := .done, got := v }) ∧ (∀ b, t.homeByte b = s.homeByte b) ∧
    y.ops.length = x.ops.length

/-- The step ends the lane with a value or a mark. -/
def EndsLane (s : State) (x : Flight) (o : Op) (a : Access) (i : Instr) (v : Nat) (pois : Option Nat) (P : State → Prop) : Prop :=
  ∃ t y p, exec i s = .next t ∧ t.lane? x.id o.id a.lane = some (y, p, { a with phase := .done, got := v, pois := pois }) ∧ P t

theorem Access.isTodo_of {a : Access} (h : a.phase = .todo) : a.isTodo = true := by
  unfold Access.isTodo
  rw [h]

theorem isAcq_zero : isAcq 0 = false := rfl
theorem isRel_zero : isRel 0 = false := rfl

theorem Op.acqScope_relaxed {o : Op} (h : o.ord = 0) : o.acqScope = 0 := by
  unfold Op.acqScope
  rw [h, isAcq_zero]; rfl

variable {s t : State} {x : Flight} {o : Op} {a : Access}

/-- The lane named by an operation that landed in its flight. -/
theorem LaneAt.lane?_of {y : Flight} {p : Op} {b : Access} (h : LaneAt t y p b) (hy : y.id = x.id) (hp : p.id = o.id) (hb : b.lane = a.lane) :
    t.lane? x.id o.id a.lane = some (y, p, b) := by
  rw [← hy, ← hp, ← hb]; exact h.lane?

namespace LoadReady

theorem relaxed (h : LoadReady s x o a) : isAcq o.ord = false := by rw [h.ord]; rfl
theorem lands (h : LoadReady s x o a) : o.lands = true := by
  unfold Op.lands
  rw [h.kind]
theorem noValue (h : LoadReady s x o a) : o.noValue = false := by
  unfold Op.noValue
  rw [h.kind]; rfl

/-- A step that performs the lane in a state whose homes and flights stand as they did. -/
theorem performed (h : LoadReady s x o a) (ht : Beside s t) {b : Access} (hb : b.lane = a.lane) (obs : List Nat) :
    ∃ y p, (t.lanePerformed x.id o.id b obs).lane? x.id o.id a.lane = some (y, p, b) ∧
      (∀ c, (t.lanePerformed x.id o.id b obs).homeByte c = s.homeByte c) ∧ y.ops.length = x.ops.length ∧
      (t.lanePerformed x.id o.id b obs).dev = t.dev := by
  obtain ⟨y, he, hy, hlen, hat⟩ := (h.here.congr ht.flights).performed h.relaxed h.lands hb obs
  rw [he]
  exact ⟨y, _, hat.lane?_of hy rfl hb, ht.homes, hlen, rfl⟩

theorem gets (h : LoadReady s x o a) (ht : Beside s t) {i : Instr} {v : Nat} {obs : List Nat}
    (he : exec i s = .next (t.lanePerformed x.id o.id { a with phase := .done, got := v } obs)) : Gets s x o a i v := by
  obtain ⟨y, p, hl, hs, hlen, -⟩ := h.performed ht (b := { a with phase := .done, got := v }) rfl obs
  exact ⟨_, y, p, he, hl, hs, hlen⟩

theorem performRead_eq (h : LoadReady s x o a) : exec (.performRead x.id o.id a.lane) s = .next (s.readNow x o a) := by
  show execPerformRead x.id o.id a.lane s = _
  unfold execPerformRead
  rw [h.here.flightOp?]
  dsimp only
  rw [h.kind]
  dsimp only
  rw [h.here.lane]
  dsimp only
  rw [Access.isTodo_of h.todo, h.may]
  rfl

theorem readNow_own (h : LoadReady s x o a) (hd : a.space ≠ .dev) {v : Nat} (hv : x.ownValue a = some v) :
    s.readNow x o a = s.lanePerformed x.id o.id { a with phase := .done, got := v } [] := by
  unfold State.readNow
  rw [h.noValue, show a.isDev = false from decide_eq_false hd]
  simp only [Bool.or_false, Bool.false_eq_true, if_false, hv]

theorem readNow_past (h : LoadReady s x o a) (hv : a.space ≠ .dev → x.ownValue a = none) : s.readNow x o a = s.readPast x o a := by
  unfold State.readNow
  by_cases hd : a.space = .dev
  · rw [show a.isDev = true from decide_eq_true hd]
    simp
  · rw [h.noValue, show a.isDev = false from decide_eq_false hd, hv hd]
    simp

/-- What the write queue serves whole is returned. -/
theorem gets_own (h : LoadReady s x o a) (hd : a.space ≠ .dev) {v : Nat} (hv : x.ownValue a = some v) : Gets s x o a (.performRead x.id o.id a.lane) v :=
  h.gets (.refl s) (by rw [h.performRead_eq, h.readNow_own hd hv])

/-- A read past the write queue that finds a byte for each of its places. -/
theorem gets_past (h : LoadReady s x o a) (hd : a.space ≠ .dev) {at_ : Nat → Byte}
    (hp : ∃ t obs, Beside s t ∧ s.readPast x o a = t.lanePerformed x.id o.id { a with phase := .done, got := x.ownOr a at_ } obs) :
    Gets s x o a (.performRead x.id o.id a.lane) (x.ownOr a at_) := by
  cases hv : x.ownValue a with
  | some v => rw [← Flight.ownValue_some hv at_]; exact h.gets_own hd hv
  | none =>
    obtain ⟨t, obs, ht, he⟩ := hp
    exact h.gets ht (by rw [h.performRead_eq, h.readNow_past fun _ => hv, he])

theorem performRead_past (h : LoadReady s x o a) (hv : a.space ≠ .dev → x.ownValue a = none) :
    exec (.performRead x.id o.id a.lane) s = .next (s.readPast x o a) := by
  rw [h.performRead_eq, h.readNow_past hv]

end LoadReady

/-! ### Tier lines -/

theorem State.readCopy_eq (s : State) (x : Flight) (o : Op) (a : Access) (c : LineCopy) : s.readCopy x o a c =
    s.lanePerformed x.id o.id { a with phase := .done, got := x.ownOr a fun i => mget blankByte c.bytes (a.pa % 128 + i) }
      (s.seen x o (s.lineOrder a.lineKey) (c.writers (a.pa % 128) a.size)) := by
  unfold State.readCopy LineCopy.read
  dsimp only
  rw [Flight.overlay_bytes]

theorem readPast_tier (hsp : a.space = .tier) (hm : s.homeMoves a.pa = false) : s.readPast x o a = s.readTier x o a := by
  unfold State.readPast
  simp only [hsp, hm, Bool.false_eq_true, if_false]

theorem readTier_l1 (ho : o.ord = 0) {c : LineCopy} (hc : s.l1Copy x.core (a.pa / 128) = some c) (hh : c.has (a.pa % 128) a.size = true) :
    s.readTier x o a = s.readCopy x o a c := by
  unfold State.readTier
  rw [Op.acqScope_relaxed ho, lineOf_eq, hc]
  simp [hh]

theorem readTier_beyond (hc : s.l1Copy x.core (a.pa / 128) = none) (hro : a.ro = false) : s.readTier x o a = s.readBeyond x o a := by
  unfold State.readTier probed
  rw [lineOf_eq, hc, hro]
  simp

theorem readBeyond_ready (hd : s.homeDie a.pa = dieOf x.core) (hn : s.homeNow a.pa (secMask (a.pa % 128) a.size) = .ready) :
    s.readBeyond x o a = s.readHome x o a (s.fgen (dieOf x.core)) := by
  unfold State.readBeyond
  simp [hd, hn]

theorem readBeyond_miss (hd : s.homeDie a.pa = dieOf x.core) (hn : s.homeNow a.pa (secMask (a.pa % 128) a.size) = .miss) :
    s.readBeyond x o a = (s.joinFill (a.pa / 128) (.read x.id o.id a.lane (s.fgen (dieOf x.core)))).lanePhase x.id o.id a.lane .queued := by
  unfold State.readBeyond
  simp [hd, hn, lineOf_eq]

theorem readPast_beyond (hsp : a.space = .tier) (hm : s.homeMoves a.pa = false) (hc : s.l1Copy x.core (a.pa / 128) = none) (hro : a.ro = false) :
    s.readPast x o a = s.readBeyond x o a := by
  rw [readPast_tier hsp hm, readTier_beyond hc hro]

/-- The views and predictors after a read at the home: the last reader noted, the predictor trained, the die's and the core's copies filled. -/
def State.homeReadViews (s : State) (f : Flight) (o : Op) (a : Access) (gen : Nat) : State :=
  let line := lineOf a.pa
  let d := dieOf f.core
  let off := decide (s.homeDie a.pa ≠ d)
  let far := off && decide (s.flways d ≠ 0) && decide (o.acqScope < 4)
  let field := if far then ((s.farCopy d line).map LineCopy.reader).getD 0 else match s.l2? line with | some x => x.reader | none => 0
  let s := if a.ro && !off then (match s.l2? line with | some x => s.setL2 { x with reader := f.core + 1 } | none => s) else s
  let s := if a.ro && (far || !off) then s.trainBy f.core a.pa field else s
  let s := if far then s.fillFar f.core line gen a.ro else s
  if o.fillsL1 then s.l1FromHome f.core line (secMask (a.pa % 128) a.size) a.ro o.hint else s

theorem beside_homeReadViews (s : State) (x : Flight) (o : Op) (a : Access) (gen : Nat) : Beside s (s.homeReadViews x o a gen) := by
  have hreader : Beside s (match s.l2? (lineOf a.pa) with | some y => s.setL2 { y with reader := x.core + 1 } | none => s) := by
    cases hy : s.l2? (lineOf a.pa) with
    | none => exact .refl s
    | some y => exact ⟨rfl, State.homeByte_setL2_held hy rfl rfl rfl⟩
  exact (hreader.ite _).trans (((beside_trainBy ..).ite _).trans (((beside_fillFar ..).ite _).trans ((beside_l1FromHome ..).ite _)))

theorem State.readHome_clean (hk : o.noValue = false) (hp : s.poisonIn a.pa a.size = none) (gen : Nat) : s.readHome x o a gen =
    (s.homeReadViews x o a gen).lanePerformed x.id o.id { a with phase := .done, got := x.ownOr a fun i => s.homeByte (a.pa + i) }
      (s.seen x o (s.lineOrder (lineOf a.pa)) (s.homeWriters a.pa a.size)) := by
  rw [← Flight.overlay_bytes]
  unfold State.readHome
  rw [hk, hp]
  rfl

theorem State.readHome_poisoned (hk : o.noValue = false) {p : Nat} (hp : s.poisonIn a.pa a.size = some p) (gen : Nat) : s.readHome x o a gen =
    (s.homeReadViews x o a gen).lanePerformed x.id o.id { a with phase := .done, pois := some p } [] := by
  unfold State.readHome
  rw [hk, hp]
  rfl

namespace LoadReady

theorem gets_l1 (h : LoadReady s x o a) (hsp : a.space = .tier) (hm : s.homeMoves a.pa = false) {c : LineCopy}
    (hc : s.l1Copy x.core (a.pa / 128) = some c) (hh : c.has (a.pa % 128) a.size = true) :
    Gets s x o a (.performRead x.id o.id a.lane) (x.ownOr a fun i => mget blankByte c.bytes (a.pa % 128 + i)) :=
  h.gets_past (by rw [hsp]; nofun) ⟨s, _, .refl s, by rw [readPast_tier hsp hm, readTier_l1 h.ord hc hh, State.readCopy_eq]⟩

theorem gets_home (h : LoadReady s x o a) (hp : s.readPast x o a = s.readBeyond x o a) (hsp : a.space = .tier) (hd : s.homeDie a.pa = dieOf x.core)
    (hn : s.homeNow a.pa (secMask (a.pa % 128) a.size) = .ready) (hq : s.poisonIn a.pa a.size = none) :
    Gets s x o a (.performRead x.id o.id a.lane) (x.ownOr a fun i => s.homeByte (a.pa + i)) :=
  h.gets_past (by rw [hsp]; nofun)
    ⟨_, _, beside_homeReadViews .., by rw [hp, readBeyond_ready hd hn, State.readHome_clean h.noValue hq]⟩

theorem poisoned_home (h : LoadReady s x o a) (hp : s.readPast x o a = s.readBeyond x o a) (hd : s.homeDie a.pa = dieOf x.core)
    (hn : s.homeNow a.pa (secMask (a.pa % 128) a.size) = .ready) (hv : x.ownValue a = none) {p : Nat} (hq : s.poisonIn a.pa a.size = some p) :
    EndsLane s x o a (.performRead x.id o.id a.lane) a.got (some p) fun t => ∀ b, t.homeByte b = s.homeByte b := by
  obtain ⟨y, q, hl, hs, -, -⟩ := h.performed (beside_homeReadViews s x o a (s.fgen (dieOf x.core))) (b := { a with phase := .done, pois := some p }) rfl []
  exact ⟨_, y, q, by rw [h.performRead_past fun _ => hv, hp, readBeyond_ready hd hn, State.readHome_poisoned h.noValue hq], hl, hs⟩

/-- A read of sectors that the home does not hold joins the line's fill. -/
theorem waits_home (h : LoadReady s x o a) (hp : s.readPast x o a = s.readBeyond x o a) (hd : s.homeDie a.pa = dieOf x.core)
    (hn : s.homeNow a.pa (secMask (a.pa % 128) a.size) = .miss) (hv : x.ownValue a = none) :
    ∃ t y p l, exec (.performRead x.id o.id a.lane) s = .next t ∧ t.lane? x.id o.id a.lane = some (y, p, { a with phase := .queued }) ∧
      t.l2? (a.pa / 128) = some l ∧ l.filling = true ∧ l.waiting.getLast? = some (.read x.id o.id a.lane (s.fgen (dieOf x.core))) ∧
      ∀ b, t.homeByte b = s.homeByte b := by
  have hj := beside_joinFill s (a.pa / 128) (.read x.id o.id a.lane (s.fgen (dieOf x.core)))
  obtain ⟨l, hl, hf, hw⟩ := s.l2?_joinFill (a.pa / 128) (.read x.id o.id a.lane (s.fgen (dieOf x.core)))
  obtain ⟨y, he, hy, -, hat⟩ := (h.here.congr hj.flights).phased .queued
  exact ⟨_, y, _, l, by rw [h.performRead_past fun _ => hv, hp, readBeyond_miss hd hn, he], hat.lane?_of hy rfl rfl, hl, hf, hw, hj.homes⟩

/-! ### Local memory, device registers and host memory -/

theorem gets_local (h : LoadReady s x o a) {g : Nat} {w : Workgroup} (hsp : a.space = .loc g) (hw : s.wg? g = some w) :
    Gets s x o a (.performRead x.id o.id a.lane) (x.ownOr a fun i => BitVec.ofNat 8 (cellsGet w.mem (a.pa + i) 1)) := by
  have hv : overlay (x.forwarded a) (cellsGet w.mem a.pa a.size) = x.ownOr a fun i => BitVec.ofNat 8 (cellsGet w.mem (a.pa + i) 1) :=
    x.overlay_forwarded a fun i hi => by
      rw [byte_cellsGet_one]
      exact byte_ofLe_range _ _ hi
  have hp : s.readPast x o a = s.readLocal x o a g := by
    unfold State.readPast
    rw [hsp]
  refine h.gets_past (by rw [hsp]; nofun) ⟨s, s.seen x o (mget [] w.rels (lineOf a.pa)) (w.writersOf a.pa a.size), .refl s, ?_⟩
  rw [hp]
  unfold State.readLocal
  rw [hw]
  dsimp only
  rw [hv]

theorem gets_device (h : LoadReady s x o a) (hsp : a.space = .dev) (hb : s.devBefore x o.seq a.lane = false) :
    Gets s x o a (.performRead x.id o.id a.lane) (s.devRead (a.pa - regOff) a.size) := by
  have hp : s.readPast x o a = s.readDev x o a := by
    unfold State.readPast
    rw [hsp]
  refine h.gets (.refl s) (obs := []) ?_
  rw [h.performRead_past fun hd => absurd hsp hd, hp]
  unfold State.readDev
  rw [if_neg (by rw [hb]; nofun), h.noValue, if_neg Bool.false_ne_true]

theorem readPast_host (h : LoadReady s x o a) (hsp : a.space = .host) (hw : s.atsWait (s.fnOf x) a.pa = false) (hp : s.failPort a.pa = none) :
    s.readPast x o a = s.readSystem x o a := by
  unfold State.readPast
  rw [hsp]
  simp only [h.noValue, hw, hp, Bool.and_false, Bool.false_eq_true, if_false]

theorem readPast_host_fails (h : LoadReady s x o a) (hsp : a.space = .host) (hw : s.atsWait (s.fnOf x) a.pa = false) {port : Nat}
    (hp : s.failPort a.pa = some port) : s.readPast x o a = s.failRead x o a port := by
  unfold State.readPast
  rw [hsp]
  simp only [h.noValue, hw, hp, Bool.and_false, Bool.false_eq_true, if_false]

theorem gets_host (h : LoadReady s x o a) (hsp : a.space = .host) (hw : s.atsWait (s.fnOf x) a.pa = false) (hp : s.failPort a.pa = none) :
    Gets s x o a (.performRead x.id o.id a.lane) (x.ownOr a fun i => s.homeByte (a.pa + i)) := by
  refine h.gets_past (by rw [hsp]; nofun) ⟨s, s.seen x o (s.lineOrder (lineOf a.pa)) (s.homeWriters a.pa a.size), .refl s, ?_⟩
  rw [h.readPast_host hsp hw hp, ← Flight.overlay_bytes]
  rfl

theorem failed_host (h : LoadReady s x o a) (hsp : a.space = .host) (hw : s.atsWait (s.fnOf x) a.pa = false) (hz : o.toZero = false)
    (hv : x.ownValue a = none) {port : Nat} (hp : s.failPort a.pa = some port) :
    EndsLane s x o a (.performRead x.id o.id a.lane) 0 (some (a.pa / 32 * 32)) fun t => (∀ b, t.homeByte b = s.homeByte b) ∧
      ∃ r, t.dev.repQueue = s.dev.repQueue ++ [r] ∧ r.kind = 13 ∧ r.p = [BitVec.ofNat 64 a.pa, BitVec.ofNat 64 port, 1] := by
  obtain ⟨y, q, hl, hs, -, hdev⟩ := h.performed (t := s.reportFlight x 13 [a.pa, port, 1] []) ⟨rfl, fun _ => rfl⟩
    (b := { a with phase := .done, got := 0, pois := some (a.pa / 32 * 32) }) rfl []
  refine ⟨_, y, q, ?_, hl, hs, _, congrArg Device.repQueue hdev, rfl, rfl⟩
  rw [h.performRead_past fun _ => hv, h.readPast_host_fails hsp hw hp]
  unfold State.failRead
  rw [h.noValue, hz]
  rfl

/-! ### Peer forwarding -/

/-- The predicted peer's read-only copy serves the read. -/
theorem gets_peer (h : LoadReady s x o a) (hcode : o.code < 16) (hro : a.ro = true) (hsp : a.space = .tier) (hm : s.homeMoves a.pa = false)
    (hl : s.l1Copy x.core (a.pa / 128) = none) {peer : Nat} (hp : s.predict x.core a.pa = some peer) {c : LineCopy}
    (hc : s.l1Copy peer (a.pa / 128) = some c) (hcr : c.ro = true) (hh : c.has (a.pa % 128) a.size = true) :
    Gets s x o a (.peerProbe x.id o.id a.lane) (x.ownOr a fun i => mget blankByte c.bytes (a.pa % 128 + i)) := by
  have hprobed : probed o a = true := by
    unfold probed
    simp [h.kind, hcode, hro, h.relaxed, hsp]
  let u := (s.train x.core a.pa peer).train peer a.pa x.core
  have hu : Beside s (if o.fillsL1 then u.l1FromCopy x.core c (secMask (a.pa % 128) a.size) true o.hint else u) :=
    ((beside_train ..).trans (beside_train ..)).trans ((beside_l1FromCopy ..).ite _)
  refine h.gets hu (Eq.trans ?_ (congrArg _ (State.readCopy_eq ..)))
  show execPeerProbe x.id o.id a.lane s = _
  unfold execPeerProbe
  rw [h.here.lane?]
  dsimp only
  rw [if_neg (by rw [Access.isTodo_of h.todo, h.may, hprobed, hm]; simp), lineOf_eq, hl]
  dsimp only
  rw [if_neg Bool.false_ne_true, hp]
  dsimp only
  rw [hc]
  dsimp only
  rw [hcr, hh]
  rfl

end LoadReady

theorem peerProbe_unpredicted (h : LaneAt s x o a) (hp : s.predict x.core a.pa = none) : exec (.peerProbe x.id o.id a.lane) s = .next s := by
  show execPeerProbe x.id o.id a.lane s = _
  unfold execPeerProbe
  rw [h.lane?]
  dsimp only
  rw [hp]
  simp

end Sys2Proof.Machine
end

section
/-! SUPPORT. Writes at homes and fills: what home bytes read afterwards, and what stays (R8, R80 to R82, R144). -/

namespace Sys2Proof.Machine

open Sys2Proof

variable {α : Type}

/-! ### Bytes put at a home -/

/-- The bytes stand at their places and all others stay. -/
def Puts (s t : State) (pa : Nat) (b : List Byte) : Prop :=
  (∀ i < b.length, t.homeByte (pa + i) = b.getD i 0) ∧ ∀ a, a < pa ∨ pa + b.length ≤ a → t.homeByte a = s.homeByte a

/-- A change at the homes: flights and writes on their way stay. -/
structure AtHome (s t : State) : Prop where
  flights : t.flights = s.flights
  transit : t.mem.transit = s.mem.transit

variable {s t u : State}

theorem AtHome.refl (s : State) : AtHome s s := ⟨rfl, rfl⟩
theorem AtHome.trans (h : AtHome s t) (k : AtHome t u) : AtHome s u :=
  ⟨k.flights.trans h.flights, k.transit.trans h.transit⟩

theorem atHome_foldl {f : State → α → State} (hf : ∀ s a, AtHome s (f s a)) (l : List α) (s : State) : AtHome s (l.foldl f s) := by
  induction l generalizing s with
  | nil => exact .refl s
  | cons a l ih => exact (hf s a).trans (ih _)

theorem homeByte_foldl {f : State → α → State} (hf : ∀ s x a, (f s x).homeByte a = s.homeByte a) (l : List α) (s : State) (a : Nat) :
    (l.foldl f s).homeByte a = s.homeByte a := by
  induction l generalizing s with
  | nil => rfl
  | cons x l ih => exact (ih _).trans (hf s x a)

theorem Puts.of_homes {pa : Nat} {b : List Byte} (h : Puts t u pa b) (hs : ∀ a, t.homeByte a = s.homeByte a) : Puts s u pa b :=
  ⟨h.1, fun a ha => (h.2 a ha).trans (hs a)⟩

theorem Puts.homes {pa : Nat} {b : List Byte} (h : Puts s t pa b) (hu : ∀ a, u.homeByte a = t.homeByte a) : Puts s u pa b :=
  ⟨fun i hi => (hu _).trans (h.1 i hi), fun a ha => (hu a).trans (h.2 a ha)⟩

theorem atHome_setL2 (s : State) (x : L2Line) : AtHome s (s.setL2 x) := ⟨rfl, rfl⟩
theorem atHome_report (s : State) (k d c : Nat) (l : Option Launch) (p : List Nat) (fr : List DWord) : AtHome s (s.report k d c l p fr) := ⟨rfl, rfl⟩

theorem atHome_setPoison (s : State) (sec : Nat) (on : Bool) : AtHome s (s.setPoison sec on) := by
  unfold State.setPoison
  dsimp only
  split
  · split
    · exact ⟨rfl, rfl⟩
    · exact ⟨rfl, rfl⟩
  · exact ⟨rfl, rfl⟩

theorem atHome_coverSector (s : State) (sec : Nat) (c : Cover) : AtHome s (s.coverSector sec c) := by
  unfold State.coverSector
  split
  · cases c
    · exact atHome_setPoison ..
    · exact .refl s
    · exact atHome_report ..
  · exact .refl s

theorem State.homeByte_coverSector (s : State) (sec : Nat) (c : Cover) (a : Nat) : (s.coverSector sec c).homeByte a = s.homeByte a := by
  unfold State.coverSector
  split
  · cases c
    · exact s.homeByte_setPoison sec a false
    · rfl
    · rfl
  · rfl

theorem atHome_homePut (s : State) (w pa : Nat) (b : Byte) : AtHome s (s.homePut w pa b) := by
  have hmark : AtHome s (s.markWrite w pa b) := by
    unfold State.markWrite
    dsimp only
    split
    · exact ⟨rfl, rfl⟩
    · exact ⟨rfl, rfl⟩
  have hstore : ∀ u : State, AtHome u (u.storeByte pa b) := fun u => by
    unfold State.storeByte
    split
    · split
      · exact atHome_setL2 ..
      · exact ⟨rfl, rfl⟩
    · exact ⟨rfl, rfl⟩
  rw [State.homePut_eq]
  exact hmark.trans (hstore _)

theorem atHome_homePuts (w : Nat) (l : List Byte) : ∀ (s : State) (pa : Nat), AtHome s (s.homePuts w pa l) := by
  induction l with
  | nil => exact fun s _ => .refl s
  | cons b r ih => exact fun s pa => (atHome_homePut s w pa b).trans (ih _ _)

theorem puts_homePuts (s : State) (w pa : Nat) (l : List Byte) : Puts s (s.homePuts w pa l) pa l := by
  constructor
  · intro i hi
    rw [State.homeByte_homePuts, if_pos (by omega), Nat.add_sub_cancel_left]
  · intro a ha
    rw [State.homeByte_homePuts, if_neg (by omega)]

/-- The sectors that a write touches, taken under the poison rule (R8). -/
def State.coverAll (s : State) (pa n : Nat) (cov : Nat → Cover) : State :=
  (sectorsOf pa n).foldl (fun s p => s.coverSector p.1 (if p.2 then .whole else cov p.1)) s

theorem State.homeWriteBy_eq (s : State) (w pa : Nat) {b : List Byte} (hb : b ≠ []) (cov : Nat → Cover) :
    s.homeWriteBy w pa b cov = (s.coverAll pa b.length cov).homePuts w pa b := if_neg hb

theorem atHome_homeWriteBy (s : State) (w pa : Nat) (b : List Byte) (cov : Nat → Cover) : AtHome s (s.homeWriteBy w pa b cov) := by
  by_cases hb : b = []
  · rw [show s.homeWriteBy w pa b cov = s from if_pos hb]
    exact .refl s
  · rw [State.homeWriteBy_eq _ _ _ hb]
    exact (atHome_foldl (fun _ _ => atHome_coverSector ..) _ s).trans (atHome_homePuts ..)

theorem puts_homeWriteBy (s : State) (w pa : Nat) (b : List Byte) (cov : Nat → Cover) : Puts s (s.homeWriteBy w pa b cov) pa b := by
  by_cases hb : b = []
  · subst hb
    exact puts_homePuts s w pa []
  · rw [State.homeWriteBy_eq _ _ _ hb]
    exact (puts_homePuts ..).of_homes (homeByte_foldl (fun s _ _ => s.homeByte_coverSector ..) _ s)

theorem State.homeByte_noteWrite (s : State) (k w : Nat) (rel : Bool) (a : Nat) : (s.noteWrite k w rel).homeByte a = s.homeByte a := by
  unfold State.noteWrite
  dsimp only
  split <;> rfl

theorem atHome_noteWrite (s : State) (k w : Nat) (rel : Bool) : AtHome s (s.noteWrite k w rel) := by
  unfold State.noteWrite
  dsimp only
  split
  · exact .refl s
  · exact ⟨rfl, rfl⟩

theorem atHome_applyHome (s : State) (w : Wr) : AtHome s (s.applyHome w) := (atHome_homeWriteBy ..).trans (atHome_noteWrite ..)
theorem puts_applyHome (s : State) (w : Wr) : Puts s (s.applyHome w) w.acc.pa w.bytes := (puts_homeWriteBy ..).homes (State.homeByte_noteWrite _ _ _ _)

/-! ### Fills -/

/-- Sectors that a line has to be given by a fill. -/
def L2Line.missing (x : L2Line) : List Nat := (List.range 4).filter fun i => !x.valid.getLsbD i

theorem L2Line.mem_missing {x : L2Line} {i : Nat} : i ∈ x.missing ↔ i < 4 ∧ x.valid.getLsbD i = false := by simp [L2Line.missing]

/-- A line's bytes after its missing sectors come from the memory device. -/
def L2Line.filled (x : L2Line) (m : List Host.Cell) : NMap Byte :=
  x.missing.foldl (fun b i => (List.range 32).foldl (fun b j => mset blankByte b (32 * i + j) (cellGet m (128 * x.line + 32 * i + j))) b) x.bytes

theorem L2Line.mget_filled (x : L2Line) (m : List Host.Cell) {k : Nat} (hk : k < 128) : mget blankByte (x.filled m) k =
    if x.valid.getLsbD (k / 32) then mget blankByte x.bytes k else cellGet m (128 * x.line + k) := by
  have h := cellGet_sectors_foldl 0 (fun k => cellGet m (128 * x.line + k)) k x.missing x.bytes
  simp only [Nat.zero_add, ← Nat.add_assoc, Nat.zero_le, true_and, Nat.sub_zero, L2Line.mem_missing] at h
  refine h.trans ?_
  cases hv : x.valid.getLsbD (k / 32) with
  | true => rw [if_neg (by simp), if_pos rfl]; rfl
  | false => rw [if_pos ⟨by omega, rfl⟩, if_neg (by simp)]

/-- A line's marks after its missing sectors come from the memory device. -/
def L2Line.filledPois (x : L2Line) (poison : List Nat) : BitVec 4 :=
  x.missing.foldl (fun p i => if (4 * x.line + i) ∈ poison then p ||| BitVec.ofNat 4 (2 ^ i) else p &&& ~~~BitVec.ofNat 4 (2 ^ i)) x.pois

/-- The line that a fill leaves. -/
theorem State.fillLine_eq (s : State) (line : Nat) : s.fillLine line = s.setL2 { s.lineAt line with
    valid := 15, bytes := (s.lineAt line).filled s.mem.bytes, pois := (s.lineAt line).filledPois s.mem.poison, filling := false, finds := [] } := by
  unfold State.fillLine L2Line.filled L2Line.filledPois L2Line.missing
  rw [State.lineAt_line]
  rfl

theorem State.homeByte_fillLine (s : State) (line a : Nat) : (s.fillLine line).homeByte a = s.homeByte a := by
  rw [State.fillLine_eq]
  refine s.homeByte_setL2 _ (fun a ha => ?_) a
  have hl : a / 128 = line := ha.trans (s.lineAt_line line)
  have h15 : (15 : BitVec 4).getLsbD (secOf a) = true := by
    have h4 : secOf a < 4 := by rw [secOf_eq]; omega
    revert h4; generalize secOf a = n; intro h4; interval_cases n <;> rfl
  rw [byteOf_valid h15, L2Line.mget_filled _ _ (by omega), ← State.byteOf_lineAt, hl, State.lineAt_line, ← hl, Nat.div_add_mod]
  rfl

theorem atHome_fillLine (s : State) (line : Nat) : AtHome s (s.fillLine line) := by
  rw [State.fillLine_eq]
  exact atHome_setL2 ..

theorem State.homeByte_allocWhole (s : State) (w : Wr) (a : Nat) : (s.allocWhole w).homeByte a = s.homeByte a := by
  unfold State.allocWhole
  split
  · dsimp only
    cases hy : (s.fillLine (lineOf w.acc.pa)).l2? (lineOf w.acc.pa) with
    | none => exact s.homeByte_fillLine ..
    | some y => exact (State.homeByte_setL2_held (x := { y with dirty := 15 }) hy rfl rfl rfl a).trans (s.homeByte_fillLine ..)
  · rfl

theorem atHome_allocWhole (s : State) (w : Wr) : AtHome s (s.allocWhole w) := by
  unfold State.allocWhole
  split
  · dsimp only
    split
    · exact (atHome_fillLine ..).trans (atHome_setL2 ..)
    · exact atHome_fillLine ..
  · exact .refl s

/-! ### Settling, and the write queue -/

/-- An operation settled: home bytes, writes on their way and write queues stay. -/
structure Settled (s t : State) : Prop where
  homes : ∀ a, t.homeByte a = s.homeByte a
  transit : t.mem.transit = s.mem.transit
  queue : ∀ n, (t.flight? n).map Flight.wq = (s.flight? n).map Flight.wq

theorem Settled.refl (s : State) : Settled s s := ⟨fun _ => rfl, rfl, fun _ => rfl⟩
theorem Settled.trans (h : Settled s t) (k : Settled t u) : Settled s u :=
  ⟨fun a => (k.homes a).trans (h.homes a), k.transit.trans h.transit, fun n => (k.queue n).trans (h.queue n)⟩

theorem settled_acquire (s : State) (core scope : Nat) : Settled s (s.acquire core scope) := by
  unfold State.acquire
  split
  · exact .refl s
  · split
    · exact ⟨fun _ => rfl, rfl, fun _ => rfl⟩
    · exact ⟨fun _ => rfl, rfl, fun _ => rfl⟩

theorem settled_updFlight (s : State) (f : Nat) {v : Flight → Flight} (hv : ∀ x, (v x).id = x.id ∧ (v x).wq = x.wq) : Settled s (s.updFlight f v) := by
  obtain ⟨-, -, -, -, -, -, -, -, -, -, hm, -⟩ := s.updFlight_same f v
  refine ⟨State.homeByte_congr (congrArg _ hm) (congrArg _ hm), congrArg _ hm, fun n => ?_⟩
  rw [State.flight?_updFlight s f n fun x => (hv x).1]
  split
  · cases s.flight? n with
    | none => rfl
    | some x => exact congrArg some (hv x).2
  · rfl

theorem Flight.endOp_queue (x : Flight) (o : Op) : (x.endOp o).id = x.id ∧ (x.endOp o).wq = x.wq := by
  unfold Flight.endOp Flight.subTokenOpt
  cases o.sb with
  | none => exact ⟨rfl, rfl⟩
  | some k => exact ⟨rfl, rfl⟩

theorem settled_settle (s : State) (f op : Nat) : Settled s (s.settle f op) := by
  unfold State.settle
  split
  · exact .refl s
  · rename_i x o _
    dsimp only
    split
    · exact .refl s
    · have hacq : Settled s (if isAcq o.ord && !o.acquired && o.kind.isRead then
          (s.acquire x.core o.scope).updFlight f fun y => y.setOp { o with acquired := true } else s) := by
        split
        · exact (settled_acquire ..).trans (settled_updFlight _ _ fun _ => ⟨rfl, rfl⟩)
        · exact .refl s
      split
      · exact hacq
      · split
        · exact hacq
        · refine hacq.trans (settled_updFlight _ _ fun y => ?_)
          cases y.op? op with
          | none => exact ⟨rfl, rfl⟩
          | some p => exact y.endOp_queue p

/-- The write queue of a flight, in a state that keeps it. -/
theorem Settled.wq (h : Settled s t) {n : Nat} {x : Flight} (hx : s.flight? n = some x) : ∃ y, t.flight? n = some y ∧ y.wq = x.wq := by
  have hq := h.queue n
  rw [hx] at hq
  cases hy : t.flight? n with
  | none => rw [hy] at hq; cases hq
  | some y => rw [hy] at hq; exact ⟨y, rfl, Option.some.inj hq⟩

/-- A relaxed write leaves its queue. -/
theorem State.leaveQueue_relaxed (s : State) {w : Wr} (h : w.rel = 0) (before : List Nat) :
    s.leaveQueue w before = s.updFlight w.flight fun x => { x with wq := x.wq.filter fun v => decide (v.id ≠ w.id) } := by
  unfold State.leaveQueue State.noteRelease
  rw [h]; rfl

theorem State.homeByte_updFlight (s : State) (f : Nat) (v : Flight → Flight) (a : Nat) : (s.updFlight f v).homeByte a = s.homeByte a := by
  obtain ⟨-, -, -, -, -, -, -, -, -, -, hm, -⟩ := s.updFlight_same f v
  exact State.homeByte_congr (congrArg _ hm) (congrArg _ hm) a

theorem State.transit_updFlight (s : State) (f : Nat) (v : Flight → Flight) : (s.updFlight f v).mem.transit = s.mem.transit := by
  obtain ⟨-, -, -, -, -, -, -, -, -, -, hm, -⟩ := s.updFlight_same f v
  exact congrArg _ hm

end Sys2Proof.Machine
end

section
/-! SUPPORT. PERFORM_WRITE, DRAIN and DELIVER of one write (R142, R144, R150, R80). -/

namespace Sys2Proof.Machine

open Sys2Proof

variable {s : State} {x : Flight} {o : Op} {a : Access} {w : Wr}

/-! ### A write enters its queue -/

theorem isRel_of_ne {n : Nat} (h2 : n ≠ 2) (h3 : n ≠ 3) : isRel n = false := by simp [isRel, h2, h3]

/-- A store with a write still in its queue is not settled. -/
theorem State.settle_storing {f op : Nat} {w : Wr} (hx : s.flight? f = some x) (ho : x.op? op = some o) (hk : o.kind = .store) (hw : w ∈ x.wq) (hop : w.op = op) :
    s.settle f op = s := by
  have hany : (x.wq.any fun v => decide (v.op = op)) = true := List.any_eq_true.2 ⟨w, hw, decide_eq_true hop⟩
  have hread : o.kind.isRead = false := by rw [hk]; rfl
  unfold State.settle
  rw [hx, Option.bind_some, ho, Option.map_some]
  dsimp only
  rw [hread, hany, hk]
  simp

/-- The write that a lane of a store makes. -/
def State.writeOf (s : State) (x : Flight) (o : Op) (a : Access) : Wr :=
  { id := s.nextId, flight := x.id, seq := o.seq, op := o.id, acc := { a with phase := .todo }, core := x.core, tenant := (s.launchOf x).tenant,
    rel := if isRel o.ord then o.scope else 0, before := [], hint := o.hint, queued := false, asid := (s.launchOf x).asid, fn := s.fnOf x, full := o.covers a }

theorem performWrite_enters (h : LaneAt s x o a) (ht : a.phase = .todo) (hp : x.mayPerform o a = true) (hk : o.kind = .store) (hd : a.space ≠ .dev)
    (hrel : isRel o.ord = false) :
    ∃ t y w, exec (.performWrite x.id o.id a.lane) s = .next t ∧ t.flight? x.id = some y ∧ y.wq = x.wq ++ [w] ∧ w.acc = a ∧ w.flight = x.id ∧ w.op = o.id ∧
      w.seq = o.seq ∧ w.core = x.core ∧ w.rel = 0 ∧ (∃ p, t.lane? x.id o.id a.lane = some (y, p, { a with phase := .done })) ∧
      ∀ b, t.homeByte b = s.homeByte b := by
  let u : State := { s with nextId := s.nextId + 1 }
  let z : Flight := { x with wq := x.wq ++ [s.writeOf x o a] }
  have hu : u.updFlight x.id (fun y => { y with wq := y.wq ++ [s.writeOf x o a] }) = u.setFlight z := State.updFlight_eq u x.id _ x h.flight
  have hq : LaneAt (u.setFlight z) z o a := ⟨State.flight?_setFlight_same (x := x) (y := z) h.flight rfl, h.op, h.lane⟩
  obtain ⟨y, he, hy, hwq, hat⟩ := hq.phased .done
  have hfl := hat.flight
  rw [hy] at hfl
  refine ⟨_, y, s.writeOf x o a, ?_, hfl, hwq, ?_, rfl, rfl, rfl, rfl, ?_, ⟨_, hat.lane?_of hy rfl rfl⟩, fun b => ?_⟩
  · show execPerformWrite x.id o.id a.lane s = _
    unfold execPerformWrite
    rw [h.lane?]
    have hno : ¬ (o.kind ≠ .store ∨ a.isTodo = false ∨ x.mayPerform o a = false ∨ (a.isDev = true ∧ s.devBefore x o.seq a.lane = true)) := by
      rw [Access.isTodo_of ht, hp, hk, show a.isDev = false from decide_eq_false hd]
      simp
    dsimp only
    rw [if_neg hno]
    refine congrArg Host.Outcome.next ?_
    show ((u.updFlight x.id fun y => { y with wq := y.wq ++ [s.writeOf x o a] }).lanePhase x.id o.id a.lane .done).settle x.id o.id = _
    rw [hu, he]
    exact State.settle_storing hfl hat.op hk (by rw [hwq]; exact List.mem_append_right _ (List.mem_singleton_self _)) rfl
  · show { a with phase := .todo } = a
    rw [← ht]
  · show (if isRel o.ord then o.scope else 0) = 0
    rw [hrel]; rfl
  · rfl

/-! ### A write leaves its queue -/

/-- A relaxed write at the head of what may leave its flight's queue. -/
structure DrainReady (s : State) (x : Flight) (w : Wr) : Prop where
  flight : s.flight? w.flight = some x
  found : findBy Wr.id x.wq w.id = some w
  relaxed : w.rel = 0
  waiting : w.queued = false
  free : x.heldBy w = false

/-- What is left of a queue when one write has gone. -/
def Flight.wqWithout (x : Flight) (w : Wr) : List Wr := x.wq.filter fun v => decide (v.id ≠ w.id)

theorem beside_updateL1 (s : State) (core : Nat) (w : Wr) : Beside s (s.updateL1 core w) := by
  unfold State.updateL1
  split
  · exact beside_putL1 ..
  · exact .refl s

theorem beside_updateFar (s : State) (core : Nat) (w : Wr) : Beside s (s.updateFar core w) := by
  unfold State.updateFar
  split
  · exact beside_putFar ..
  · exact .refl s

theorem transit_updateL1 (s : State) (core : Nat) (w : Wr) : (s.updateL1 core w).mem.transit = s.mem.transit := by
  unfold State.updateL1
  split <;> rfl

theorem transit_updateFar (s : State) (core : Nat) (w : Wr) : (s.updateFar core w).mem.transit = s.mem.transit := by
  unfold State.updateFar
  split <;> rfl

/-- The queue of the flight after a relaxed write left it in a state with the same flights. -/
theorem flight?_leaveQueue {t : State} (hx : s.flight? w.flight = some x) (ht : t.flights = s.flights) (hr : w.rel = 0) (before : List Nat) :
    (t.leaveQueue w before).flight? w.flight = some { x with wq := x.wqWithout w } := by
  have hx' : t.flight? w.flight = some x := (State.flight?_congr ht _).trans hx
  rw [State.leaveQueue_relaxed t hr, State.updFlight_eq t w.flight _ x hx']
  have hid : x.id = w.flight := State.flight?_id _ _ _ hx
  rw [← hid] at hx' ⊢
  exact State.flight?_setFlight_same hx' rfl

namespace DrainReady

theorem drain_eq (h : DrainReady s x w) : exec (.drain w.flight w.id) s = .next (s.drainOne x w) := by
  show execDrain w.flight w.id s = _
  unfold execDrain
  rw [h.flight]
  dsimp only
  rw [h.found]

theorem passes (h : DrainReady s x w) (before : List Nat) : (w.queued || x.heldBy w || (decide (w.rel ≠ 0) && !s.releaseOk x w.seq w.rel before)) = false := by
  rw [h.waiting, h.free, h.relaxed]; rfl

/-- A write applied at its home leaves its queue. -/
theorem drainHome (h : DrainReady s x w) : Puts s (s.drainHome x w) w.acc.pa w.bytes ∧
    (∃ y, (s.drainHome x w).flight? w.flight = some y ∧ y.wq = x.wqWithout w) ∧ (s.drainHome x w).mem.transit = s.mem.transit := by
  have hl1 := beside_updateL1 s w.core w
  have hh := atHome_applyHome (s.updateL1 w.core w) w
  have hset := settled_settle (((s.updateL1 w.core w).applyHome w).leaveQueue w (if w.rel = 0 then [] else s.beforeOf x w.seq)) w.flight w.op
  have hfl := flight?_leaveQueue h.flight (hh.flights.trans hl1.flights) h.relaxed (if w.rel = 0 then [] else s.beforeOf x w.seq)
  refine ⟨?_, hset.wq hfl, hset.transit.trans ?_⟩
  · refine (((puts_applyHome _ w).of_homes hl1.homes).homes (u := _) fun a => ?_)
    refine (hset.homes a).trans ?_
    rw [State.leaveQueue_relaxed _ h.relaxed, State.homeByte_updFlight]
  · rw [State.leaveQueue_relaxed _ h.relaxed, State.transit_updFlight]
    exact hh.transit.trans (transit_updateL1 ..)

variable (h : DrainReady s x w) (hsp : w.acc.space = .tier)
include h hsp

theorem drainOne_here (hd : s.homeDie w.acc.pa = dieOf w.core) (ht : s.inTransit (dieOf w.core) w.acc = false) :
    (s.homeNow w.acc.pa (secMask (w.acc.pa % 128) w.acc.size) = .ready → s.drainOne x w = s.drainHome x w) ∧
    (s.homeNow w.acc.pa (secMask (w.acc.pa % 128) w.acc.size) = .miss → s.drainOne x w =
      if s.noFill w then (s.drainHome x w).allocWhole w
      else (s.joinFill (w.acc.pa / 128) (.write (dieOf w.core) w.id false)).queueWrite w) := by
  have hc : s.homeDie w.acc.pa = dieOf w.core ∧ (!s.inTransit (dieOf w.core) w.acc) = true := ⟨hd, by rw [ht]; rfl⟩
  refine ⟨fun hn => ?_, fun hn => ?_⟩
  all_goals
    unfold State.drainOne
    dsimp only
    rw [h.passes, hsp]
    dsimp only
    rw [if_neg Bool.false_ne_true, if_pos hc, hn] <;> rfl

theorem drains_home (hd : s.homeDie w.acc.pa = dieOf w.core) (ht : s.inTransit (dieOf w.core) w.acc = false)
    (hn : s.homeNow w.acc.pa (secMask (w.acc.pa % 128) w.acc.size) = .ready ∨
      s.homeNow w.acc.pa (secMask (w.acc.pa % 128) w.acc.size) = .miss ∧ s.noFill w = true) :
    ∃ t y, exec (.drain w.flight w.id) s = .next t ∧ Puts s t w.acc.pa w.bytes ∧ t.flight? w.flight = some y ∧ y.wq = x.wqWithout w ∧
      t.mem.transit = s.mem.transit := by
  obtain ⟨hp, ⟨y, hy, hwq⟩, htr⟩ := h.drainHome
  obtain ⟨hready, hmiss⟩ := h.drainOne_here hsp hd ht
  rw [h.drain_eq]
  rcases hn with hn | ⟨hn, hf⟩
  · exact ⟨_, y, congrArg _ (hready hn), hp, hy, hwq, htr⟩
  · have hal := atHome_allocWhole (s.drainHome x w) w
    refine ⟨_, y, congrArg _ ((hmiss hn).trans (if_pos hf)), hp.homes (State.homeByte_allocWhole _ w), ?_, hwq, hal.transit.trans htr⟩
    rw [State.flight?_congr hal.flights, hy]

/-- A write whose sectors the home must fill first joins the line's waiting list. -/
theorem drain_waits (hd : s.homeDie w.acc.pa = dieOf w.core) (ht : s.inTransit (dieOf w.core) w.acc = false)
    (hn : s.homeNow w.acc.pa (secMask (w.acc.pa % 128) w.acc.size) = .miss) (hf : s.noFill w = false) :
    ∃ t l, exec (.drain w.flight w.id) s = .next t ∧ (∀ a, t.homeByte a = s.homeByte a) ∧ t.l2? (w.acc.pa / 128) = some l ∧ l.filling = true ∧
      l.waiting.getLast? = some (.write (dieOf w.core) w.id false) := by
  obtain ⟨l, hl, hfill, hw⟩ := s.l2?_joinFill (w.acc.pa / 128) (.write (dieOf w.core) w.id false)
  have hj := beside_joinFill s (w.acc.pa / 128) (.write (dieOf w.core) w.id false)
  rw [h.drain_eq, (h.drainOne_here hsp hd ht).2 hn, if_neg (by rw [hf]; nofun)]
  refine ⟨_, l, rfl, fun a => (State.homeByte_updFlight ..).trans (hj.homes a), ?_, hfill, hw⟩
  obtain ⟨-, -, -, -, -, -, -, -, -, -, hm, -⟩ := (s.joinFill (w.acc.pa / 128) (.write (dieOf w.core) w.id false)).updFlight_same w.flight
    fun x => { x with wq := x.wq.map fun v => if v.id = w.id then { v with queued := true } else v }
  unfold State.queueWrite State.l2?
  rw [hm]
  exact hl

omit h hsp

/-- A write that enters the transit set of its die, in a state that differs beside the homes. -/
theorem toTransit (h : DrainReady s x w) {t : State} (ht : Beside s t) (htr : t.mem.transit = s.mem.transit) (before : List Nat) :
    (∀ a, (t.toTransit w before).homeByte a = s.homeByte a) ∧ (∃ y, (t.toTransit w before).flight? w.flight = some y ∧ y.wq = x.wqWithout w) ∧
      (t.toTransit w before).mem.transit = s.mem.transit ++ [(dieOf w.core, w)] := by
  have hfl := flight?_leaveQueue h.flight ht.flights h.relaxed before
  have hl := State.leaveQueue_relaxed t h.relaxed before
  have htr' : (t.leaveQueue w before).mem.transit = s.mem.transit := by rw [hl, State.transit_updFlight, htr]
  have hset := settled_settle ({ t.leaveQueue w before with mem := { (t.leaveQueue w before).mem with
    transit := (t.leaveQueue w before).mem.transit ++ [(dieOf w.core, w)] } }) w.flight w.op
  refine ⟨fun a => (hset.homes a).trans (Eq.trans ?_ (ht.homes a)), hset.wq hfl, hset.transit.trans ?_⟩
  · show (t.leaveQueue w before).homeByte a = _
    rw [hl, State.homeByte_updFlight]
  · dsimp only
    rw [htr']

theorem drains_away (h : DrainReady s x w) (hsp : w.acc.space = .tier)
    (hd : s.homeDie w.acc.pa ≠ dieOf w.core ∨ s.inTransit (dieOf w.core) w.acc = true) (hm : s.homeMoves w.acc.pa = false) :
    ∃ t y, exec (.drain w.flight w.id) s = .next t ∧ (∀ a, t.homeByte a = s.homeByte a) ∧ t.flight? w.flight = some y ∧ y.wq = x.wqWithout w ∧
      t.mem.transit = s.mem.transit ++ [(dieOf w.core, w)] := by
  have hc : ¬ (s.homeDie w.acc.pa = dieOf w.core ∧ (!s.inTransit (dieOf w.core) w.acc) = true) := by
    rintro ⟨h1, h2⟩
    rcases hd with hd | hd
    · exact hd h1
    · rw [hd] at h2; cases h2
  obtain ⟨hs, ⟨y, hy, hwq⟩, htr⟩ := h.toTransit ((beside_updateL1 s w.core w).trans (beside_updateFar _ w.core w))
    ((transit_updateFar ..).trans (transit_updateL1 ..)) (if w.rel = 0 then [] else s.beforeOf x w.seq)
  refine ⟨_, y, ?_, hs, hy, hwq, htr⟩
  rw [h.drain_eq]
  unfold State.drainOne
  dsimp only
  rw [h.passes, hsp]
  dsimp only
  rw [if_neg Bool.false_ne_true, if_neg hc, hm]
  rfl

theorem drains_host (h : DrainReady s x w) (hsp : w.acc.space = .host) :
    ∃ t y, exec (.drain w.flight w.id) s = .next t ∧ (∀ a, t.homeByte a = s.homeByte a) ∧ t.flight? w.flight = some y ∧ y.wq = x.wqWithout w ∧
      t.mem.transit = s.mem.transit ++ [(dieOf w.core, w)] := by
  obtain ⟨hs, ⟨y, hy, hwq⟩, htr⟩ := h.toTransit (.refl s) rfl (if w.rel = 0 then [] else s.beforeOf x w.seq)
  refine ⟨_, y, ?_, hs, hy, hwq, htr⟩
  rw [h.drain_eq]
  unfold State.drainOne
  dsimp only
  rw [h.passes, hsp]
  rfl

end DrainReady

/-! ### A write arrives -/

/-- A write of die `d` on its way, with no earlier write of the die to its line before it. -/
structure DeliverReady (s : State) (d : Nat) (w : Wr) : Prop where
  found : s.mem.transit.find? (fun p => decide (p.1 = d) && decide (p.2.id = w.id)) = some (d, w)
  waiting : w.queued = false
  first : ∀ p ∈ s.mem.transit.takeWhile (fun p => decide (p.2.id ≠ w.id)), ¬ (p.1 = d ∧ p.2.acc.space = w.acc.space ∧ p.2.acc.pa / 128 = w.acc.pa / 128)

/-- What is left on the way when one write has arrived. -/
def State.transitWithout (s : State) (w : Wr) : List (Nat × Wr) := s.mem.transit.filter fun p => decide (p.2.id ≠ w.id)

namespace DeliverReady

variable {d : Nat}

theorem passes (h : DeliverReady s d w) : ¬ ((s.mem.transit.takeWhile fun p => decide (p.2.id ≠ w.id)).any (fun p =>
    decide (p.1 = d) && decide (p.2.acc.space = w.acc.space) && decide (lineOf p.2.acc.pa = lineOf w.acc.pa)) = true ∨ w.queued = true) := by
  rintro (hp | hq)
  · obtain ⟨p, hm, hp⟩ := List.any_eq_true.1 hp
    rw [Bool.and_eq_true, Bool.and_eq_true, lineOf_eq, lineOf_eq] at hp
    obtain ⟨⟨hd, hs⟩, hl⟩ := hp
    exact h.first p hm ⟨of_decide_eq_true hd, of_decide_eq_true hs, of_decide_eq_true hl⟩
  · rw [h.waiting] at hq; cases hq

/-- The write applied at its home, gone from the transit set. -/
theorem arrived (w : Wr) : Puts s ((s.applyHome w).leaveTransit w) w.acc.pa w.bytes ∧ ((s.applyHome w).leaveTransit w).mem.transit = s.transitWithout w :=
  ⟨(puts_applyHome s w).homes fun _ => rfl, congrArg (List.filter _) (atHome_applyHome s w).transit⟩

theorem delivers (h : DeliverReady s d w) (hc : w.acc.space = .tier ∧ s.homeNow w.acc.pa (secMask (w.acc.pa % 128) w.acc.size) = .ready ∨
    w.acc.space = .tier ∧ s.homeNow w.acc.pa (secMask (w.acc.pa % 128) w.acc.size) = .miss ∧ s.noFill w = true ∨
    w.acc.space = .host ∧ s.atsWait w.fn w.acc.pa = false ∧ s.failPort w.acc.pa = none) :
    ∃ t, exec (.deliver d w.id) s = .next t ∧ Puts s t w.acc.pa w.bytes ∧ t.mem.transit = s.transitWithout w := by
  obtain ⟨hp, htr⟩ := arrived (s := s) w
  have hal := atHome_allocWhole ((s.applyHome w).leaveTransit w) w
  show ∃ t, execDeliver d w.id s = .next t ∧ _
  unfold execDeliver
  rw [h.found]
  dsimp only
  rw [if_neg h.passes]
  rcases hc with ⟨hsp, hn⟩ | ⟨hsp, hn, hf⟩ | ⟨hsp, hw, hq⟩
  · rw [hsp]
    dsimp only
    rw [hn]
    exact ⟨_, rfl, hp, htr⟩
  · rw [hsp]
    dsimp only
    rw [hn]
    exact ⟨_, if_pos hf, hp.homes (State.homeByte_allocWhole _ w), hal.transit.trans htr⟩
  · rw [hsp]
    dsimp only
    rw [hw, hq]
    exact ⟨_, rfl, hp, htr⟩

/-- A write outside the module that completes with an error is lost and reported (R433, R435). -/
theorem fails (h : DeliverReady s d w) (hsp : w.acc.space = .host) (hw : s.atsWait w.fn w.acc.pa = false) {port : Nat} (hq : s.failPort w.acc.pa = some port) :
    ∃ t y, exec (.deliver d w.id) s = .next t ∧ (∀ a, t.homeByte a = s.homeByte a) ∧ t.mem.transit = s.transitWithout w ∧
      t.dev.repQueue = s.dev.repQueue ++ [y] ∧ y.kind = 13 ∧ y.p = [BitVec.ofNat 64 w.acc.pa, BitVec.ofNat 64 port, 2] := by
  have he : exec (.deliver d w.id) s = .next ((s.leaveTransit w).report 13 d w.core ((s.flight? w.flight).bind fun f => s.launch? f.launch)
      [w.acc.pa, port, 2] []) := by
    show execDeliver d w.id s = _
    unfold execDeliver
    rw [h.found]
    dsimp only
    rw [if_neg h.passes, hsp]
    dsimp only
    rw [hw, hq]
    rfl
  exact ⟨_, _, he, fun _ => rfl, rfl, rfl, rfl, rfl⟩

end DeliverReady

end Sys2Proof.Machine
end

section
/-! SUPPORT. ATOMIC_STEP of one lane at its home and at an allocation (R108 to R113, R155). -/

namespace Sys2Proof.Machine

open Sys2Proof

variable {s t : State} {x : Flight} {o : Op} {a : Access}

/-! ### Allocations -/

theorem cellGet_cellsPut (bs : List Byte) : ∀ (m : List Host.Cell) (a i : Nat), i < bs.length → cellGet (cellsPut m a bs) (a + i) = bs.getD i 0 := by
  induction bs with
  | nil => intro m a i hi; simp at hi
  | cons b r ih =>
    intro m a i hi
    rw [cellsPut]
    cases i with
    | zero => rw [cellGet_cellsPut_other _ _ _ _ (.inl (by omega)), cellGet_cellSet, if_pos (Nat.add_zero a)]; rfl
    | succ j => rw [show a + (j + 1) = a + 1 + j by omega, ih _ _ _ (by simpa using hi)]; rfl

/-- A write of an allocation that leaves PUB alone: the engine notes ring bytes at most. -/
theorem Workgroup.watch_apart (w : Workgroup) {r : List DWord} (old : List Host.Cell) {off n : Nat} (rel : Bool)
    (h : recCrlen r = 0 ∨ off + n ≤ recCnotify r ∨ recCnotify r + 4 ≤ off) :
    (w.watch r old off n rel).id = w.id ∧ (w.watch r old off n rel).mem = w.mem := by
  unfold Workgroup.watch
  split
  · exact ⟨rfl, rfl⟩
  · dsimp only
    rw [if_neg (by omega)]
    exact ⟨rfl, rfl⟩

theorem State.wakeChunk_same (s : State) (w : Workgroup) (f : Flight) : (s.wakeChunk w f).id = f.id ∧ (s.wakeChunk w f).ops = f.ops := by
  unfold State.wakeChunk
  split
  · split <;> exact ⟨rfl, rfl⟩
  · exact ⟨rfl, rfl⟩

/-- Bytes put into an allocation away from PUB: they stand there, and flights keep their operations. -/
theorem State.locPut_apart {g : Nat} {w : Workgroup} (hw : s.wg? g = some w) {off : Nat} {bytes : List Byte}
    (h : let r := ((s.launch? w.launch).map Launch.recd).getD []
      recCrlen r = 0 ∨ off + bytes.length ≤ recCnotify r ∨ recCnotify r + 4 ≤ off) (wid : Nat) (rel : Bool) :
    (∃ v, (s.locPut g off bytes wid rel).wg? g = some v ∧ v.mem = cellsPut w.mem off bytes) ∧
    ∃ u : Flight → Flight, (∀ f, (u f).id = f.id ∧ (u f).ops = f.ops) ∧ (s.locPut g off bytes wid rel).flights = s.flights.map u := by
  have hg : w.id = g := findBy_key _ _ _ _ hw
  unfold State.locPut
  rw [hw]
  dsimp only
  generalize hv : Workgroup.watch _ _ _ _ _ _ = v
  obtain ⟨hid, hmem⟩ : v.id = g ∧ v.mem = cellsPut w.mem off bytes := by
    rw [← hv, ← hg]
    exact Workgroup.watch_apart _ _ _ h
  exact ⟨⟨v, by rw [← hid]; exact findBy_isSome_replBy Workgroup.id s.wgs v.id v rfl w (hid ▸ hw), hmem⟩, _, State.wakeChunk_same _ v, rfl⟩

/-! ### A lane of an atomic -/

/-- A lane of a relaxed atomic that returns a value and may be performed. -/
structure AtomReady (s : State) (x : Flight) (o : Op) (a : Access) : Prop where
  here : LaneAt s x o a
  todo : a.phase = .todo
  may : x.mayPerform o a = true
  kind : o.kind = .atomic
  ord : o.ord = 0
  returns : o.toZero = false
  narrow : atomTwoWide o.code = false
  clean : a.pois = none
  coming : s.ownComing x o.seq a = false

theorem State.stepWriter_relaxed (s : State) (x : Flight) {o : Op} (h : o.ord = 0) : s.stepWriter x o = (s.nextId, { s with nextId := s.nextId + 1 }) := by
  unfold State.stepWriter
  rw [h]; rfl

theorem atomLane_narrow (h : atomTwoWide o.code = false) (old : Nat) :
    atomLane o a old = (atomNew o.code old a.data a.data2, { a with got := old, phase := .done }) := by
  unfold atomLane
  rw [h]; rfl

/-- Table 05-6's first rows, spelled out. -/
theorem atomNew_spelled (code size old op op2 : Nat) :
    (if code = 0 ∧ size = 4 then (old + op) % 2 ^ 32 else if code = 32 then op else if code = 34 ∧ size = 4 then (if old = op then op2 else old)
      else atomNew code old op op2) = atomNew code old op op2 := by
  split
  · rename_i h; rw [h.1]; rfl
  · split
    · rename_i h; rw [h]; rfl
    · split
      · rename_i h; rw [h.1]; rfl
      · rfl

namespace AtomReady

theorem relaxed (h : AtomReady s x o a) : isAcq o.ord = false := by rw [h.ord]; rfl
theorem lands (h : AtomReady s x o a) : o.lands = true := by
  unfold Op.lands
  rw [h.kind, h.returns]; rfl

theorem passes (h : AtomReady s x o a) : ¬ (o.kind ≠ .atomic ∨ a.isTodo = false ∨ x.mayPerform o a = false ∨ s.ownComing x o.seq a = true ∨
    (isRel o.ord = true ∧ s.releaseOk x o.seq o.scope (s.beforeOf x o.seq) = false)) := by
  rw [h.kind, Access.isTodo_of h.todo, h.may, h.coming, h.ord, isRel_zero]
  simp

/-- The lane performed in a state whose flights are changed and keep their names and operations. -/
theorem performed (h : AtomReady s x o a) {u : Flight → Flight} (hu : ∀ f, (u f).id = f.id ∧ (u f).ops = f.ops) (ht : t.flights = s.flights.map u)
    (old : Nat) (obs : List Nat) : ∃ y p z, t.lanePerformed x.id o.id { a with got := old, phase := .done } obs = t.setFlight z ∧
      (t.setFlight z).lane? x.id o.id a.lane = some (y, p, { a with phase := .done, got := old, pois := none }) := by
  have hid := (hu x).1
  have hat : LaneAt t (u x) o a := by
    refine ⟨?_, ?_, h.here.lane⟩
    · rw [hid]
      unfold State.flight?
      rw [ht, findBy_map fun f => (hu f).1]
      exact congrArg (Option.map u) h.here.flight
    · unfold Flight.op?
      rw [(hu x).2]
      exact h.here.op
  obtain ⟨y, he, hy, -, hl⟩ := hat.performed h.relaxed h.lands (b := { a with got := old, phase := .done }) rfl obs
  rw [hid] at he
  refine ⟨y, o.setAcc { a with got := old, phase := .done }, y, he, ?_⟩
  refine (hl.lane?_of (x := x) (o := o) (a := a) (hy.trans hid) rfl rfl).trans ?_
  exact congrArg (fun q => some (y, o.setAcc { a with got := old, phase := .done }, { a with got := old, phase := .done, pois := q })) h.clean

/-- An atomic at its home: the old value is returned, the new one stands there, and the core's copy is gone. -/
theorem home (h : AtomReady s x o a) (hsp : a.space = .tier) (hn : s.homeNow a.pa (secMask (a.pa % 128) a.size) = .ready)
    (hq : s.poisonIn a.pa a.size = none) :
    EndsLane s x o a (.atomicStep x.id o.id a.lane) (s.homeBytes a.pa a.size) none fun t =>
      Puts s t a.pa (leBytes a.size (atomNew o.code (s.homeBytes a.pa a.size) a.data a.data2)) ∧
      ∀ c ∈ t.mem.l1, ¬ (c.unit = x.core ∧ c.line = a.pa / 128) := by
  let v := atomNew o.code (s.homeBytes a.pa a.size) a.data a.data2
  let u := (({ s with nextId := s.nextId + 1 }.homeWrite s.nextId a.pa (leBytes a.size v)).noteWrite (lineOf a.pa) s.nextId (isRel o.ord)).discardOwn x.core (lineOf a.pa)
  have hfl : u.flights = s.flights.map id := by
    rw [List.map_id]
    exact (atHome_noteWrite ..).flights.trans (atHome_homeWriteBy ..).flights
  have hput : Puts s u a.pa (leBytes a.size v) :=
    ((puts_homeWriteBy { s with nextId := s.nextId + 1 } s.nextId a.pa (leBytes a.size v) fun _ => .part).homes
      (State.homeByte_noteWrite _ (lineOf a.pa) s.nextId (isRel o.ord))).of_homes fun _ => rfl
  obtain ⟨y, p, z, he, hl⟩ := h.performed (t := u) (fun _ => ⟨rfl, rfl⟩) hfl (s.homeBytes a.pa a.size)
    (s.seen x o (s.lineOrder (lineOf a.pa)) (s.homeWriters a.pa a.size))
  refine ⟨_, y, p, ?_, hl, hput, fun c hc => ?_⟩
  · show execAtomicStep x.id o.id a.lane s = _
    unfold execAtomicStep
    rw [h.here.lane?]
    dsimp only
    rw [if_neg h.passes, hsp]
    dsimp only
    rw [hn]
    dsimp only
    unfold State.atomHome
    rw [if_pos hsp, hq]
    dsimp only
    rw [atomLane_narrow h.narrow, State.stepWriter_relaxed _ _ h.ord]
    exact congrArg _ he
  · have hc : c ∈ dropCopy _ x.core (lineOf a.pa) := hc
    rintro ⟨hcore, hline⟩
    have hkept := (List.mem_filter.1 hc).2
    rw [hcore, hline, lineOf_eq] at hkept
    simp at hkept

/-- An atomic at an allocation. -/
theorem allocation (h : AtomReady s x o a) {g : Nat} {w : Workgroup} (hsp : a.space = .loc g) (hw : s.wg? g = some w) (htag : a.tag = 0)
    (hsize : a.pa + a.size ≤ w.size)
    (hpub : let r := ((s.launch? w.launch).map Launch.recd).getD []
      recCrlen r = 0 ∨ a.pa + a.size ≤ recCnotify r ∨ recCnotify r + 4 ≤ a.pa) :
    EndsLane s x o a (.atomicStep x.id o.id a.lane) (cellsGet w.mem a.pa a.size) none fun t => ∃ v, t.wg? g = some v ∧
      (∀ i < a.size, cellGet v.mem (a.pa + i) = (leBytes a.size (atomNew o.code (cellsGet w.mem a.pa a.size) a.data a.data2)).getD i 0) ∧
      ∀ b, b < a.pa ∨ a.pa + a.size ≤ b → cellGet v.mem b = cellGet w.mem b := by
  have hg : w.id = g := findBy_key _ _ _ _ hw
  let bytes := leBytes a.size (atomNew o.code (cellsGet w.mem a.pa a.size) a.data a.data2)
  have hlen : bytes.length = a.size := leBytes_length _ _
  obtain ⟨⟨v, hv, hvm⟩, u, hu, hfl⟩ := State.locPut_apart (s := { s with nextId := s.nextId + 1 }) (bytes := bytes) hw (by rw [hlen]; exact hpub)
    s.nextId (isRel o.ord)
  obtain ⟨y, p, z, he, hl⟩ := h.performed hu hfl (cellsGet w.mem a.pa a.size) (s.seen x o (mget [] w.rels (lineOf a.pa)) (w.writersOf a.pa a.size))
  refine ⟨_, y, p, ?_, hl, v, hv, fun i hi => ?_, fun b hb => ?_⟩
  · show execAtomicStep x.id o.id a.lane s = _
    unfold execAtomicStep
    rw [h.here.lane?]
    dsimp only
    rw [if_neg h.passes, hsp]
    dsimp only
    have htagged : s.tagged g a.core a.tag = some w := by
      unfold State.tagged
      rw [hw, htag]; rfl
    unfold State.atomLocal
    rw [htagged]
    dsimp only
    rw [atomLane_narrow h.narrow, State.stepWriter_relaxed _ _ h.ord]
    dsimp only
    unfold State.localWrite
    rw [hg, List.take_of_length_le (by rw [leBytes_length]; omega)]
    exact congrArg _ he
  · rw [hvm, cellGet_cellsPut _ _ _ _ (by rw [hlen]; exact hi)]
  · rw [hvm, cellGet_cellsPut_other _ _ _ _ (by rw [hlen]; exact hb)]

end AtomReady

end Sys2Proof.Machine
end

section
/-! SUPPORT. Decoded blocks (R46, R47, R50): a view access at its block's home slice, and the steps of a block. -/

namespace Sys2Proof.Machine

open Sys2Proof

variable {s t : State} {x : Flight} {o : Op} {a : Access}

/-! ### Blocks by their places -/

theorem State.block?_eq (s : State) (asid zr blk : Nat) : s.block? asid zr blk = s.mem.blocks.find? fun b => b.is asid zr blk := rfl

theorem State.block?_place {asid zr blk : Nat} {b : Block} (h : s.block? asid zr blk = some b) : b.asid = asid ∧ b.zr = zr ∧ b.blk = blk :=
  Block.is_iff.1 (List.find?_some (p := fun b : Block => b.is asid zr blk) h)

/-- A block put at its place is found there. -/
theorem State.block?_putBlock (s : State) (b : Block) : (s.putBlock b).block? b.asid b.zr b.blk = some b := by
  rw [State.block?_eq]
  unfold State.putBlock
  dsimp only
  split
  · rename_i h
    rw [State.block?_eq] at h
    generalize s.mem.blocks = l at h ⊢
    induction l with
    | nil => cases h
    | cons c l ih =>
      rw [List.map_cons, List.find?_cons]
      by_cases hc : c.is b.asid b.zr b.blk = true
      · rw [if_pos hc, b.is_self]
      · rw [if_neg hc, Bool.eq_false_iff.2 hc]
        rw [List.find?_cons, Bool.eq_false_iff.2 hc] at h
        exact ih h
  · rename_i h
    rw [State.block?_eq, Bool.not_eq_true, Option.isSome_eq_false_iff, Option.isNone_iff_eq_none] at h
    rw [List.find?_append, h, List.find?_cons, b.is_self]; rfl

/-- A block put at the place of another. -/
theorem State.block?_putBlock_at {asid zr blk : Nat} {b c : Block} (hb : s.block? asid zr blk = some b) (h1 : c.asid = b.asid) (h2 : c.zr = b.zr)
    (h3 : c.blk = b.blk) (t : State) : (t.putBlock c).block? asid zr blk = some c := by
  obtain ⟨p1, p2, p3⟩ := State.block?_place hb
  have h := t.block?_putBlock c
  rwa [h1, h2, h3, p1, p2, p3] at h

theorem State.block?_dropBlock (s : State) (asid zr blk : Nat) : (s.dropBlock asid zr blk).block? asid zr blk = none := by
  rw [State.block?_eq, List.find?_eq_none]
  intro b hb
  simpa using (List.mem_filter.1 hb).2

/-! ### A load from a view -/

/-- A lane of a load from a view that no core view serves and that lies in one block of a valid region. -/
structure ViewReady (s : State) (x : Flight) (o : Op) (a : Access) (asid zr blk : Nat) : Prop where
  load : LoadReady s x o a
  space : a.space = .view asid zr
  stays : s.viewMoves asid zr a = false
  uncopied : s.viewCopy x.core asid zr a = none
  valid : (s.zr asid zr).valid = true
  one : s.viewBlocks asid zr a = [blk]

theorem beside_viewFill (s : State) (z : ZRegion) (asid zr core off hint : Nat) : Beside s (s.viewFill z asid zr core off hint) := by
  unfold State.viewFill
  dsimp only
  split
  · exact .refl s
  · exact beside_putL1 ..

/-- A block that has not been decoded, with the requests that wait for it. -/
def Block.awaited (asid zr blk : Nat) (ws : List HomeReq) : Block :=
  { asid, zr, blk, st := .fill, elems := [], wids := [], pois := none, stored := [], bound := 0, waiting := ws, todo := [] }

namespace ViewReady

variable {asid zr blk : Nat}

theorem access_eq (h : ViewReady s x o a asid zr blk) : exec (.blockViewAccess x.id o.id a.lane) s = .next (
    s.blockRequest asid zr [blk] (.read x.id o.id a.lane (s.fgen (dieOf x.core))) fun t => t.lanePhase x.id o.id a.lane .queued) := by
  show execBlockViewAccess x.id o.id a.lane s = _
  unfold execBlockViewAccess
  rw [h.load.here.lane?]
  dsimp only
  rw [h.space]
  dsimp only
  rw [if_neg (by rw [h.load.kind]; nofun), if_neg (by rw [Access.isTodo_of h.load.todo, h.load.may]; simp),
    if_neg (by rw [h.uncopied]; simp)]
  unfold State.viewHome
  rw [h.stays, h.load.kind, h.one]
  rfl

theorem unpoisoned (h : ViewReady s x o a asid zr blk) {b : Block} (hb : s.block? asid zr blk = some b) (hp : b.pois = none) :
    s.blockPoison (s.zr asid zr) asid zr a.pa a.size = none := by
  unfold State.blockPoison
  rw [show (s.zr asid zr).blocksOf a.pa a.size = [blk] from h.one, List.findSome?_cons, hb, Option.bind_some, hp]
  rfl

/-- A decoded block serves the load with its elements. -/
theorem served (h : ViewReady s x o a asid zr blk) {b : Block} (hb : s.block? asid zr blk = some b) (hst : b.st = .clean ∨ b.st = .dirty) (hp : b.pois = none)
    (hq : a.pois = none) : ∃ t y p c, exec (.blockViewAccess x.id o.id a.lane) s = .next t ∧ t.lane? x.id o.id a.lane = some (y, p, c) ∧ c.phase = .done ∧
      c.pois = none ∧ c.got = x.ownOr a (fun i => BitVec.ofNat 8 (s.viewBytes (s.zr asid zr) asid zr a.pa a.size / 2 ^ (8 * i))) ∧
      ∀ p, t.homeByte p = s.homeByte p := by
  have hserve : s.blockRequest asid zr [blk] (.read x.id o.id a.lane (s.fgen (dieOf x.core))) (fun t => t.lanePhase x.id o.id a.lane .queued) =
      s.viewRead x o a asid zr := by
    have hread : s.serve asid zr blk [.read x.id o.id a.lane (s.fgen (dieOf x.core))] = s.viewRead x o a asid zr := by
      simp only [State.serve, hb, h.load.here.flight, h.load.here.op, h.load.here.lane, Option.bind_some, Option.map_some]
    unfold State.blockRequest
    dsimp only
    rw [if_neg (by rw [h.valid]; nofun), hb]
    dsimp only
    rcases hst with hst | hst <;> rw [hst] <;> exact hread
  obtain ⟨u, d2, obs, hu, hread⟩ : ∃ u d2 obs, Beside s u ∧ s.viewRead x o a asid zr = u.lanePerformed x.id o.id { a with
      phase := .done, data2 := d2, got := x.ownOr a (fun i => BitVec.ofNat 8 (s.viewBytes (s.zr asid zr) asid zr a.pa a.size / 2 ^ (8 * i))) } obs := by
    refine ⟨_, (((s.block? asid zr ((s.zr asid zr).place (a.pa / (s.zr asid zr).esize)).1).map Block.bound).getD 0).toNat,
      s.seen x o (s.lineOrder a.lineKey) (s.elemWriters (s.zr asid zr) asid zr a),
      (beside_viewFill s (s.zr asid zr) asid zr x.core a.pa o.hint).ite (((decide (o.kind = .load) || decide (o.kind = .pref)) && o.fillsL1) = true), ?_⟩
    rw [← x.overlay_forwarded a fun _ _ => rfl]
    unfold State.viewRead
    dsimp only
    rw [h.load.noValue, if_neg Bool.false_ne_true, h.unpoisoned hb hp]
    dsimp only
    rw [h.load.kind]
  obtain ⟨y, p, hl, hs, -, -⟩ := h.load.performed hu (b := { a with phase := .done, data2 := d2, got := x.ownOr a _ }) rfl obs
  exact ⟨_, y, p, _, by rw [h.access_eq, hserve, hread], hl, rfl, hq, rfl, hs⟩

/-- A load of an absent block waits for its decode. -/
theorem waits (h : ViewReady s x o a asid zr blk) (hb : s.block? asid zr blk = none) :
    ∃ t y p b, exec (.blockViewAccess x.id o.id a.lane) s = .next t ∧ t.lane? x.id o.id a.lane = some (y, p, { a with phase := .queued }) ∧
      t.block? asid zr blk = some b ∧ b.st = .fill ∧ b.waiting = [.read x.id o.id a.lane (s.fgen (dieOf x.core))] ∧ ∀ p, t.homeByte p = s.homeByte p := by
  let b := Block.awaited asid zr blk [.read x.id o.id a.lane (s.fgen (dieOf x.core))]
  obtain ⟨y, he, hy, -, hat⟩ := (h.load.here.congr (t := s.putBlock b) rfl).phased .queued
  refine ⟨_, y, _, b, ?_, hat.lane?_of hy rfl rfl, s.block?_putBlock b, rfl, rfl, fun _ => rfl⟩
  rw [h.access_eq, ← he]
  unfold State.blockRequest
  dsimp only
  rw [if_neg (by rw [h.valid]; nofun), hb]
  rfl

end ViewReady

/-! ### Steps of a block -/

theorem Block.code_bytes (b : Block) (z : ZRegion) : (b.code z).map Prod.snd = encodeBlock z (b.toEncode z) := by
  unfold Block.code
  rw [List.map_map]
  exact map_snd_enum _

section

variable {asid zr blk : Nat} {b : Block} (hb : s.block? asid zr blk = some b)
include hb

/-- A decode with nobody waiting leaves what the code gives. -/
theorem blockDecodeDone_decodes (hst : b.st = .fill) (hw : b.waiting = []) (hh : s.codeHeld (s.zr asid zr) blk = false)
    (hf : s.codeFills (s.zr asid zr) blk = []) : ∃ t c, exec (.blockDecodeDone asid zr blk) s = .next t ∧ t.block? asid zr blk = some c ∧ c.st = .clean ∧
      c.elems = (decodeBlock (s.zr asid zr) (s.codeBytes (s.zr asid zr) blk)).elems ∧
      c.bound = BitVec.ofNat 32 (decodeBlock (s.zr asid zr) (s.codeBytes (s.zr asid zr) blk)).bound ∧
      c.pois = s.codePoison (s.zr asid zr) blk ∧ ∀ a, t.homeByte a = s.homeByte a := by
  have hput := State.block?_putBlock_at hb (c := s.loaded b) rfl rfl rfl s
  obtain ⟨h1, h2, h3⟩ := State.block?_place hb
  refine ⟨_, s.loaded b, ?_, hput, rfl, ?_, ?_, ?_, fun _ => rfl⟩
  · show execBlockDecodeDone asid zr blk s = _
    unfold execBlockDecodeDone
    rw [hb]
    dsimp only
    rw [if_neg (by rw [hst, hh]; simp), hf, hw]
    rfl
  all_goals
    unfold State.loaded
    rw [h1, h2, h3]

theorem blockDecodeDone_other (hst : b.st ≠ .fill) : exec (.blockDecodeDone asid zr blk) s = .next s := by
  show execBlockDecodeDone asid zr blk s = _
  unfold execBlockDecodeDone
  rw [hb]
  dsimp only
  rw [if_pos (.inl hst)]

theorem blockEvictChosen_clean (hst : b.st = .clean) :
    ∃ t, exec (.blockEvictChosen asid zr blk) s = .next t ∧ t.block? asid zr blk = none ∧ ∀ a, t.homeByte a = s.homeByte a := by
  refine ⟨_, ?_, s.block?_dropBlock asid zr blk, fun _ => rfl⟩
  show execBlockEvictChosen asid zr blk s = _
  unfold execBlockEvictChosen
  rw [hb]
  dsimp only
  rw [hst]

/-- A dirty block goes to ENCODE with its code to write. -/
theorem blockEvictChosen_dirty (hst : b.st = .dirty) : ∃ t c, exec (.blockEvictChosen asid zr blk) s = .next t ∧ t.block? asid zr blk = some c ∧
    c.st = .enc false ∧ c.todo.map Prod.snd = encodeBlock (s.zr asid zr) (b.toEncode (s.zr asid zr)) ∧ c.elems = b.elems ∧
    ∀ a, t.homeByte a = s.homeByte a := by
  obtain ⟨h1, h2, -⟩ := State.block?_place hb
  have hz : s.zr b.asid b.zr = s.zr asid zr := by rw [h1, h2]
  have hput := State.block?_putBlock_at hb (c := { b with st := .enc false, todo := b.code (s.zr asid zr) }) rfl rfl rfl s
  refine ⟨_, _, ?_, hput, rfl, Block.code_bytes b _, rfl, fun _ => rfl⟩
  show execBlockEvictChosen asid zr blk s = _
  unfold execBlockEvictChosen
  rw [hb]
  dsimp only
  rw [hst]
  dsimp only
  unfold State.startEncode
  rw [if_pos hst, hz]

theorem blockEvictChosen_busy (hst : b.st = .fill ∨ ∃ k, b.st = .enc k) : exec (.blockEvictChosen asid zr blk) s = .next s := by
  show execBlockEvictChosen asid zr blk s = _
  unfold execBlockEvictChosen
  rw [hb]
  dsimp only
  rcases hst with hst | ⟨k, hst⟩ <;> rw [hst]

/-- The last line of a block's code is written, and the block is absent. -/
theorem encode_ends {l : List Byte} {p : Nat} (hst : b.st = .enc false) (hh : s.codeHeld (s.zr asid zr) blk = false) (hw : b.waiting = []) (hp : b.pois = none)
    (ht : b.todo = (enum l).map fun q => (p + q.1, q.2)) (hl : l ≠ []) (hline : p % 128 + l.length ≤ 128) :
    ∃ t, exec (.encode asid zr blk) s = .next t ∧ t.block? asid zr blk = none ∧ Puts s t (s.remap p) l := by
  obtain ⟨h1, h2, h3⟩ := State.block?_place hb
  have hsame : ∀ c ∈ b.todo, lineOf c.1 = lineOf p := by
    intro c hc
    rw [ht] at hc
    obtain ⟨q, hq, rfl⟩ := List.mem_map.1 hc
    have := List.mem_range.1 (List.of_mem_zip hq).1
    simp only [lineOf_eq]
    omega
  have hhead : ∃ y r, b.todo = (p, y) :: r := by
    obtain ⟨y, r, rfl⟩ := List.exists_cons_of_ne_nil hl
    refine ⟨y, (((List.range r.length).map Nat.succ).zip r).map fun q => (p + q.1, q.2), ht.trans ?_⟩
    unfold enum
    rw [List.length_cons, List.range_succ_eq_map]
    rfl
  have hbytes : (b.todo.filter fun c => decide (lineOf c.1 = lineOf p)).map Prod.snd = l := by
    rw [List.filter_eq_self.2 fun c hc => decide_eq_true (hsame c hc), ht, List.map_map]
    exact map_snd_enum l
  have hrest : (b.todo.filter fun c => decide (lineOf c.1 ≠ lineOf p)) = [] :=
    List.filter_eq_nil_iff.2 fun c hc => by simpa using hsame c hc
  have hput := State.block?_putBlock_at hb (c := { b with todo := [] }) rfl rfl rfl (s.homeWrite 0 (s.remap p) l)
  have hencode : s.encodeLine b = (s.homeWrite 0 (s.remap p) l).putBlock { b with todo := [] } := by
    obtain ⟨y, r, hr⟩ := hhead
    unfold State.encodeLine
    rw [show b.todo = (p, y) :: r from hr] at hbytes hrest ⊢
    dsimp only
    rw [hbytes, hrest, hp]
    rfl
  refine ⟨_, ?_, State.block?_dropBlock ((s.homeWrite 0 (s.remap p) l).putBlock { b with todo := [] }) asid zr blk, puts_homeWriteBy s 0 (s.remap p) l fun _ => .part⟩
  show execEncode asid zr blk s = _
  unfold execEncode
  rw [hb]
  dsimp only
  rw [hst]
  dsimp only
  rw [if_neg (by rw [hh]; nofun), hencode, hput]
  dsimp only
  unfold State.endEncode
  rw [hst]
  dsimp only
  rw [hw, h1, h2, h3]
  rfl

end

end Sys2Proof.Machine
end

section
/-! SUPPORT. Evictions and fills (R81, R82, R9, R10), and tile steps (R159 to R161). -/

namespace Sys2Proof.Machine

open Sys2Proof

variable {s t : State} {x : Flight} {o : Op}

/-! ### Evictions -/

theorem evict_drops (unit line : Nat) (h : ∀ y, s.l2? line = some y → y.owner = none) :
    exec (.evict false unit line) s = .next (s.dropL1 unit line) ∧ exec (.evict true unit line) s = .next (s.dropFar unit line) := by
  have hno : ¬ ((match s.l2? line with | some y => y.owner.isSome | none => false) = true) := by
    cases hy : s.l2? line with
    | none => nofun
    | some y =>
      show ¬ y.owner.isSome = true
      rw [h y hy]; nofun
  exact ⟨if_neg hno, if_neg hno⟩

theorem l2Evict_eq {line : Nat} {y : L2Line} (h : s.l2? line = some y) :
    exec (.l2Evict line) s = .next (if y.pinned then s else s.evict y) := by
  show execL2Evict line s = _
  unfold execL2Evict
  rw [h]
  dsimp only
  cases y.pinned with
  | true => rfl
  | false => rw [← State.l2?_line h]; rfl

theorem State.l2?_evict {line : Nat} {y : L2Line} (h : s.l2? line = some y) : (s.evict y).l2? line = none := by
  rw [← State.l2?_line h]
  exact (State.l2?_dropL2 _ _ _).trans (if_pos rfl)

/-! ### What a fill finds -/

/-- A finding in a sector: home bytes and the lines' other fields stay, and marks only grow. -/
structure Found (s t : State) : Prop where
  homes : ∀ a, t.homeByte a = s.homeByte a
  poison : ∀ sec ∈ s.mem.poison, sec ∈ t.mem.poison

theorem Found.refl (s : State) : Found s s := ⟨fun _ => rfl, fun _ h => h⟩
theorem Found.trans {u : State} (h : Found s t) (k : Found t u) : Found s u :=
  ⟨fun a => (k.homes a).trans (h.homes a), fun sec hs => k.poison sec (h.poison sec hs)⟩

theorem State.mem_poison_setPoison (s : State) (sec p : Nat) : p ∈ (s.setPoison sec true).mem.poison ↔ p = sec ∨ p ∈ s.mem.poison := by
  rw [(s.setPoison_on sec).2]
  split
  · rename_i h
    exact ⟨.inr, fun hp => hp.elim (fun e => e ▸ h) id⟩
  · rw [List.mem_append, List.mem_singleton, or_comm]

theorem found_eccFound (s : State) (sec : Nat) (f : EccFinding) : Found s (s.eccFound sec false f) := by
  cases f with
  | clean => exact .refl s
  | corrected => exact ⟨fun _ => rfl, fun _ h => h⟩
  | uncorrectable => exact ⟨fun a => s.homeByte_setPoison sec a true, fun p hp => (s.mem_poison_setPoison sec p).2 (.inr hp)⟩

/-- All findings of a fill, in the order of the sectors. -/
def State.findAll (s : State) (l : List (Nat × EccFinding)) : State := l.foldl (fun s p => s.eccFound p.1 false p.2) s

theorem found_findAll (l : List (Nat × EccFinding)) : ∀ s : State, Found s (s.findAll l) := by
  induction l with
  | nil => exact .refl
  | cons p l ih => exact fun s => (found_eccFound s p.1 p.2).trans (ih _)

theorem poison_findAll {sec : Nat} (l : List (Nat × EccFinding)) (h : (sec, .uncorrectable) ∈ l) : ∀ s : State, sec ∈ (s.findAll l).mem.poison := by
  induction l with
  | nil => cases h
  | cons p l ih =>
    intro s
    rcases List.mem_cons.1 h with rfl | h
    · exact (found_findAll l _).poison sec ((s.mem_poison_setPoison sec sec).2 (.inl rfl))
    · exact ih h _

theorem mem_enum_of_getElem? {α : Type} {l : List α} {i : Nat} {a : α} (h : l[i]? = some a) : (i, a) ∈ enum l := by
  obtain ⟨hi, rfl⟩ := List.getElem?_eq_some_iff.1 h
  exact List.mem_iff_getElem.2 ⟨i, by simpa [enum] using hi, by simp [enum]⟩

theorem L2Line.mem_fillFinds {y : L2Line} {i : Nat} (hi : i < 4) (hf : y.finds[i]? = some .uncorrectable) (hv : y.valid.getLsbD i = false) :
    (4 * y.line + i, .uncorrectable) ∈ y.fillFinds :=
  List.mem_map.2 ⟨(i, .uncorrectable), List.mem_filter.2 ⟨mem_enum_of_getElem? hf, by rw [decide_eq_true hi, hv]; rfl⟩, rfl⟩

/-- A filled line and its emptied waiting list. -/
theorem State.l2?_fillLine (s : State) (line : Nat) : ∃ y, (s.fillLine line).l2? line = some y ∧ y.valid = 15 ∧ y.filling = false := by
  rw [State.fillLine_eq]
  exact ⟨_, (State.l2?_setL2 _ _ _).trans (if_pos (s.lineAt_line line).symm), rfl, rfl⟩

/-- A fill that nobody waits for: the line is whole, and what the read could not correct is marked. -/
theorem l2FillArrive_fills {line : Nat} {x : L2Line} (h : s.l2? line = some x) (hf : x.filling = true) (hw : x.waiting = []) :
    ∃ t y, exec (.l2FillArrive line) s = .next t ∧ t.l2? line = some y ∧ y.valid = 15 ∧ y.filling = false ∧ y.waiting = [] ∧
      (∀ a, t.homeByte a = s.homeByte a) ∧
      ∀ i < 4, x.finds[i]? = some .uncorrectable → x.valid.getLsbD i = false → t.secPoisoned (4 * line + i) = true := by
  have hfound := found_findAll x.fillFinds s
  obtain ⟨y, hy, hv, hfill⟩ := (s.findAll x.fillFinds).l2?_fillLine line
  have hyl := State.l2?_line hy
  refine ⟨((s.findAll x.fillFinds).fillLine line).setL2 { y with waiting := [] }, { y with waiting := [] }, ?_, ?_, hv, hfill, rfl, fun a => ?_,
    fun i hi hu hvi => ?_⟩
  · show execL2FillArrive line s = _
    unfold execL2FillArrive
    rw [h]
    dsimp only
    rw [if_neg (by rw [hf]; nofun), hw]
    show Host.Outcome.next (match ((s.findAll x.fillFinds).fillLine line).l2? line with
      | some y => ((s.findAll x.fillFinds).fillLine line).setL2 { y with waiting := [] } | none => (s.findAll x.fillFinds).fillLine line) = _
    rw [hy]
  · exact (State.l2?_setL2 _ _ _).trans (if_pos hyl.symm)
  · exact (State.homeByte_setL2_held (x := { y with waiting := [] }) hy rfl rfl rfl a).trans ((State.homeByte_fillLine ..).trans (hfound.homes a))
  · have hmem := poison_findAll x.fillFinds (L2Line.mem_fillFinds hi hu hvi) s
    rw [State.l2?_line h] at hmem
    unfold State.secPoisoned
    rw [Bool.or_eq_true]
    refine .inl (decide_eq_true ?_)
    show 4 * line + i ∈ ((s.findAll x.fillFinds).fillLine line).mem.poison
    rw [State.fillLine_eq]
    exact hmem

theorem l2FillArrive_idle {line : Nat} {x : L2Line} (h : s.l2? line = some x) (hf : x.filling = false) : exec (.l2FillArrive line) s = .next s := by
  show execL2FillArrive line s = _
  unfold execL2FillArrive
  rw [h]
  exact if_pos hf

theorem readFinds_notes {line : Nat} {x : L2Line} (h : s.l2? line = some x) (hf : x.filling = true) (found : List EccFinding) :
    (s.readFinds line found).l2? line = some { x with finds := found.take 4 } ∧ ∀ a, (s.readFinds line found).homeByte a = s.homeByte a := by
  have hl := State.l2?_line h
  have he : s.readFinds line found = s.setL2 { x with finds := found.take 4 } := by
    unfold State.readFinds
    rw [h]
    exact if_pos hf
  rw [he]
  exact ⟨(State.l2?_setL2 _ _ _).trans (if_pos hl.symm), State.homeByte_setL2_held h rfl rfl rfl⟩

theorem readFinds_idle {line : Nat} {x : L2Line} (h : s.l2? line = some x) (hf : x.filling = false) (found : List EccFinding) : s.readFinds line found = s := by
  unfold State.readFinds
  rw [h]
  exact if_neg (by rw [hf]; nofun)

/-! ### Tile steps -/

/-- A relaxed tile operation whose footprint is free. -/
structure TileReady (s : State) (x : Flight) (o : Op) : Prop where
  flight : s.flight? x.id = some x
  op : x.op? o.id = some o
  todo : o.performed = false
  free : s.tileFree x o = true
  ord : o.ord = 0

theorem Op.allDone_performed (o : Op) : o.allDone.performed = true := by
  unfold Op.performed Op.allDone
  rw [List.all_map]
  exact List.all_eq_true.2 fun _ _ => rfl

theorem State.flight?_observe (h : s.flight? x.id = some x) (seq : Nat) (ws : List Nat) :
    (s.observe x.id seq ws).flight? x.id = some { x with obs := ws.foldl (noteObs seq) x.obs } := by
  unfold State.observe
  rw [State.updFlight_eq _ _ _ x h]
  exact State.flight?_setFlight_same (y := { x with obs := ws.foldl (noteObs seq) x.obs }) h rfl

theorem beside_discardOwn (s : State) (core line : Nat) : Beside s (s.discardOwn core line) := (beside_dropL1 ..).trans (beside_dropFar ..)

theorem beside_foldl {α : Type} {f : State → α → State} (hf : ∀ s a, Beside s (f s a)) (l : List α) (s : State) : Beside s (l.foldl f s) := by
  induction l generalizing s with
  | nil => exact .refl s
  | cons a l ih => exact (hf s a).trans (ih _)

/-- The core's copies of the lines that a tile operation touches, dropped. -/
def State.discardTouched (s : State) (core : Nat) (o : Op) : State := o.acc.foldl (fun s a => s.discardOwn core (lineOf a.pa)) s

theorem beside_discardTouched (s : State) (core : Nat) (o : Op) : Beside s (s.discardTouched core o) := beside_foldl (fun _ _ => beside_discardOwn ..) _ s

/-- An operation whose lanes are done and that has no result ends. -/
theorem State.settle_ends {f op : Nat} (hx : s.flight? f = some x) (ho : x.op? op = some o) (hp : o.performed = true) (hq : isAcq o.ord = false)
    (hl : o.lands = false) (hk : o.kind ≠ .store) : s.settle f op = s.setFlight (x.endOp o) := by
  unfold State.settle
  rw [hx, Option.bind_some, ho, Option.map_some]
  dsimp only
  rw [hp, hq, hl, decide_eq_false hk]
  simp only [Bool.not_true, Bool.false_and, Bool.false_eq_true, if_false]
  rw [State.updFlight_eq _ _ _ x hx, ho]

theorem Flight.op?_endOp (x : Flight) (o : Op) : (x.endOp o).op? o.id = none :=
  List.find?_eq_none.2 fun p hp => by simpa using (List.mem_filter.1 hp).2

/-- The sectors that a tile store covers, taken under the poison rule. -/
def State.coverTouched (s : State) (bs : List (Nat × Byte × Nat)) : State :=
  (coveredSectors bs).foldl (fun s c => s.coverSector c.1 (if c.2 then .whole else .among)) s

theorem State.homeByte_coverTouched (s : State) (bs : List (Nat × Byte × Nat)) (a : Nat) : (s.coverTouched bs).homeByte a = s.homeByte a :=
  homeByte_foldl (fun s _ _ => s.homeByte_coverSector ..) _ s a

theorem atHome_coverTouched (s : State) (bs : List (Nat × Byte × Nat)) : AtHome s (s.coverTouched bs) := atHome_foldl (fun _ _ => atHome_coverSector ..) _ s

/-- Bytes put one by one at their places. -/
def State.putEach (s : State) (wid : Nat) (bs : List (Nat × Byte × Nat)) : State := bs.foldl (fun s b => s.homePut wid b.1 b.2.1) s

theorem atHome_putEach (s : State) (wid : Nat) (bs : List (Nat × Byte × Nat)) : AtHome s (s.putEach wid bs) := atHome_foldl (fun _ _ => atHome_homePut ..) _ s

theorem State.homeByte_putEach (wid : Nat) (l : List (Nat × Byte × Nat)) (hl : (l.map Prod.fst).Nodup) : ∀ s : State,
    (∀ b ∈ l, (s.putEach wid l).homeByte b.1 = b.2.1) ∧ ∀ a, (∀ b ∈ l, b.1 ≠ a) → (s.putEach wid l).homeByte a = s.homeByte a := by
  induction l with
  | nil => exact fun s => ⟨fun b hb => (List.not_mem_nil hb).elim, fun _ _ => rfl⟩
  | cons c l ih =>
    intro s
    obtain ⟨hc, hn⟩ := List.nodup_cons.1 hl
    obtain ⟨h1, h2⟩ := ih hn (s.homePut wid c.1 c.2.1)
    refine ⟨fun b hb => ?_, fun a ha => ?_⟩
    · rcases List.mem_cons.1 hb with rfl | hb
      · refine (h2 b.1 fun p hp e => hc (List.mem_map.2 ⟨p, hp, e⟩)).trans ?_
        rw [State.homeByte_homePut, if_pos rfl]
      · exact h1 b hb
    · obtain ⟨hca, hla⟩ := List.forall_mem_cons.1 ha
      refine (h2 a hla).trans ?_
      rw [State.homeByte_homePut, if_neg (Ne.symm hca)]

/-- The lines that a tile store touches, noted as written. -/
def State.noteTouched (s : State) (o : Op) (wid : Nat) : State := o.acc.foldl (fun s a => s.noteWrite (lineOf a.pa) wid (isRel o.ord)) s

theorem State.homeByte_noteTouched (s : State) (o : Op) (wid a : Nat) : (s.noteTouched o wid).homeByte a = s.homeByte a :=
  homeByte_foldl (fun s _ _ => s.homeByte_noteWrite ..) _ s a

theorem atHome_noteTouched (s : State) (o : Op) (wid : Nat) : AtHome s (s.noteTouched o wid) := atHome_foldl (fun _ _ => atHome_noteWrite ..) _ s

/-- A relaxed tile store with a clean footprint: sectors covered, bytes put, lines noted, the core's copies dropped. -/
theorem State.tileStoreClean_eq (s : State) (x : Flight) {o : Op} (h : o.ord = 0) (bs : List (Nat × Byte × Nat)) : s.tileStoreClean x o bs =
    ((({ s with nextId := s.nextId + 1 }.coverTouched bs).putEach s.nextId bs).noteTouched o s.nextId).discardTouched x.core o := by
  unfold State.tileStoreClean
  rw [State.stepWriter_relaxed _ _ h]
  rfl

theorem State.tileStoreClean_flights (s : State) (x : Flight) {o : Op} (h : o.ord = 0) (bs : List (Nat × Byte × Nat)) :
    (s.tileStoreClean x o bs).flights = s.flights := by
  rw [State.tileStoreClean_eq s x h]
  exact (beside_discardTouched ..).flights.trans ((atHome_coverTouched ..).trans ((atHome_putEach ..).trans (atHome_noteTouched ..))).flights

theorem State.homeByte_tileStoreClean (s : State) (x : Flight) {o : Op} (h : o.ord = 0) {bs : List (Nat × Byte × Nat)} (hbs : (bs.map Prod.fst).Nodup) :
    (∀ b ∈ bs, (s.tileStoreClean x o bs).homeByte b.1 = b.2.1) ∧ ∀ a, (∀ b ∈ bs, b.1 ≠ a) → (s.tileStoreClean x o bs).homeByte a = s.homeByte a := by
  obtain ⟨hin, hout⟩ := State.homeByte_putEach s.nextId bs hbs ({ s with nextId := s.nextId + 1 }.coverTouched bs)
  have hput (a : Nat) : (s.tileStoreClean x o bs).homeByte a = (({ s with nextId := s.nextId + 1 }.coverTouched bs).putEach s.nextId bs).homeByte a := by
    rw [State.tileStoreClean_eq s x h]
    exact ((beside_discardTouched ..).homes a).trans (State.homeByte_noteTouched ..)
  exact ⟨fun b hb => (hput _).trans (hin b hb), fun a ha => (hput a).trans ((hout a ha).trans (State.homeByte_coverTouched ..))⟩

theorem State.tileBytesOut_nodup (s : State) (o : Op) : ((s.tileBytesOut o).map Prod.fst).Nodup := by
  have h : (s.tileBytesOut o).map Prod.fst = dedup (o.pieces.map Prod.fst) := by
    unfold State.tileBytesOut
    rw [List.map_map]
    exact List.map_id _
  rw [h]
  exact nodup_dedup _

namespace TileReady

theorem relaxed (h : TileReady s x o) : isAcq o.ord = false := by rw [h.ord]; rfl

theorem step_eq (h : TileReady s x o) : (o.kind = .tileLoad → exec (.tileStep x.id o.id) s = .next (s.tileLoadStep x o)) ∧
    (o.kind = .tileStore → exec (.tileStep x.id o.id) s = .next (s.tileStoreStep x o)) := by
  obtain ⟨hopen, hfills⟩ := Bool.and_eq_true_iff.1 h.free
  have hgo : ¬ (o.performed = true ∨ s.tileOpen x o = false ∨ (isRel o.ord = true ∧ s.releaseOk x o.seq o.scope (s.beforeOf x o.seq) = false)) := by
    rw [h.todo, hopen, h.ord, isRel_zero]; simp
  have he : (s.flight? x.id).bind (fun y => (y.op? o.id).map fun p => (y, p)) = some (x, o) := by
    rw [h.flight, Option.bind_some, h.op]; rfl
  refine ⟨fun hk => ?_, fun hk => ?_⟩
  all_goals
    show execTileStep x.id o.id s = _
    unfold execTileStep
    rw [he]
    dsimp only
    rw [if_neg hgo, hfills, hk]
    rfl

/-- A tile load takes the bits of its pieces and is performed. -/
theorem loads (h : TileReady s x o) (hk : o.kind = .tileLoad) (hc : ∀ p ∈ o.pieces, s.secPoisoned (p.1 / 32) = false) :
    ∃ t y p, exec (.tileStep x.id o.id) s = .next t ∧ t.flight? x.id = some y ∧ y.op? o.id = some p ∧ p.writes = s.tileRead x o ∧ p.performed = true ∧
      ∀ a, t.homeByte a = s.homeByte a := by
  let q : Op := { o.allDone with writes := s.tileRead x o }
  have hbad : sortBy id ((dedup (o.pieces.map fun p => p.1 / 32)).filter fun sec => s.secPoisoned sec) = [] := by
    rw [List.filter_eq_nil_iff.2 fun sec hs => ?_]
    · rfl
    · obtain ⟨p, hp, rfl⟩ := List.mem_map.1 ((mem_dedup _ _).1 hs)
      simp [hc p hp]
  let u := (s.setFlight (x.setOp q)).discardTouched x.core o
  have hu : Beside (s.setFlight (x.setOp q)) u := beside_discardTouched ..
  have hx : (u.observe x.id o.seq (s.tileSeen x o)).flight? x.id = some { x.setOp q with obs := (s.tileSeen x o).foldl (noteObs o.seq) (x.setOp q).obs } :=
    State.flight?_observe (x := x.setOp q) ((State.flight?_congr hu.flights _).trans (State.flight?_setFlight_same (x := x) (y := x.setOp q) h.flight rfl)) _ _
  have hop : (x.setOp q).op? o.id = some q := Flight.op?_setOp (o := q) h.op
  refine ⟨u.observe x.id o.seq (s.tileSeen x o), _, q, ?_, hx, hop, rfl, o.allDone_performed, fun a => (State.homeByte_updFlight ..).trans (hu.homes a)⟩
  rw [h.step_eq.1 hk]
  unfold State.tileLoadStep
  rw [hbad]
  dsimp only
  rw [State.updFlight_eq _ _ _ x h.flight]
  exact congrArg _ (State.settle_lands hx hop h.relaxed (by unfold Op.lands; rw [show q.kind = .tileLoad from hk]))

/-- A tile store writes the bits of its pieces and ends. -/
theorem stores (h : TileReady s x o) (hk : o.kind = .tileStore) (hc : ∀ c ∈ coveredSectors (s.tileBytesOut o), s.secPoisoned c.1 = false) :
    ∃ t y, exec (.tileStep x.id o.id) s = .next t ∧ t.flight? x.id = some y ∧ y.op? o.id = none ∧ (∀ b ∈ s.tileBytesOut o, t.homeByte b.1 = b.2.1) ∧
      ∀ a, (∀ b ∈ s.tileBytesOut o, b.1 ≠ a) → t.homeByte a = s.homeByte a := by
  have hbad : sortBy id (((coveredSectors (s.tileBytesOut o)).filter fun c => s.secPoisoned c.1 && !c.2).map Prod.fst) = [] := by
    rw [List.filter_eq_nil_iff.2 fun c hm => by simp [hc c hm]]
    rfl
  obtain ⟨hin, hout⟩ := s.homeByte_tileStoreClean x h.ord (s.tileBytesOut_nodup o)
  have hx : (s.tileStoreClean x o (s.tileBytesOut o)).flight? x.id = some x :=
    (State.flight?_congr (s.tileStoreClean_flights x h.ord _) _).trans h.flight
  have hdone := State.flight?_setFlight_same (x := x) (y := x.setOp o.allDone) hx rfl
  have hop : (x.setOp o.allDone).op? o.id = some o.allDone := Flight.op?_setOp (o := o.allDone) h.op
  have hend := State.settle_ends hdone hop o.allDone_performed (show isAcq o.ord = false from h.relaxed)
    (by unfold Op.lands; rw [show o.allDone.kind = .tileStore from hk]) (by rw [show o.allDone.kind = .tileStore from hk]; nofun)
  have hgone := State.flight?_setFlight_same (x := x.setOp o.allDone) hdone ((x.setOp o.allDone).endOp_queue o.allDone).1
  refine ⟨_, _, ?_, hgone, Flight.op?_endOp _ o.allDone, hin, hout⟩
  rw [h.step_eq.2 hk]
  unfold State.tileStoreStep
  dsimp only
  rw [hbad]
  dsimp only
  rw [State.updFlight_eq _ _ _ x hx, hend]

end TileReady

end Sys2Proof.Machine
end

section
/-! O48. The parts of the obligation, one per step of Table 07-3. -/

open Sys2Proof Sys2Proof.Machine

/-- Settles O48: each step is run to the state it makes, by the branch that its premises choose; a value read is `Flight.ownOr` of the bytes found,
a write is `Puts`, and every other step stands `Beside` the homes. -/
theorem stepsOfMemoryReadWriteAndKeepBytes : Obligations.StepsOfMemoryReadWriteAndKeepBytes := by
  unfold Obligations.StepsOfMemoryReadWriteAndKeepBytes
  intro s same puts
  refine ⟨?lanes, ?drain, ?deliver, ?deliverFails, ?evict, ?lines, ?tiles, ?blocks⟩
  case lanes =>
    intro f op lane x o a hlane _ htodo hmay own got done line m d
    obtain ⟨rfl, rfl, rfl, hat⟩ := State.lane?_some hlane
    have load (hk : o.kind = .load) (ho : o.ord = 0) : LoadReady s x o a := ⟨hat, htodo, hmay, hk, ho⟩
    refine ⟨fun hk ho hsp hm _ => ?tier, fun g w hk ho hsp hw _ => (load hk ho).gets_local hsp hw, fun hk ho hsp hb _ => (load hk ho).gets_device hsp hb,
      fun hk ho hsp _ hz hv hw => ⟨fun hp => (load hk ho).gets_host hsp hw hp, fun port hp => (load hk ho).failed_host hsp hw hz hv hp⟩,
      fun v hk hd hv => ⟨fun ho => (load hk ho).gets_own hd hv, Flight.ownValue_some hv fun _ => 0⟩,
      fun c peer hk hcode ho hro hsp _ hm hl hp hc hcr hh => (load hk ho).gets_peer hcode hro hsp hm hl hp hc hcr hh,
      fun hp => peerProbe_unpredicted hat hp,
      fun hk h2 h3 hd => performWrite_enters hat htodo hmay hk hd (isRel_of_ne h2 h3),
      fun hk ho hz hn hq hc => ?atomic, fun asid zr blk b hk ho hsp hq hm hv hz hb => ?view⟩
    case tier =>
      have hl := load hk ho
      exact ⟨fun c hc hh => hl.gets_l1 hsp hm hc hh,
        fun hc hro hd hn =>
          have hp := readPast_beyond hsp hm hc hro
          ⟨fun hq => hl.gets_home hp hsp hd hn hq, fun p hv hq => hl.poisoned_home hp hd hn hv hq⟩,
        fun hc hro hd hn hv => hl.waits_home (readPast_beyond hsp hm hc hro) hd hn hv⟩
    case atomic =>
      have h : AtomReady s x o a := ⟨hat, htodo, hmay, hk, ho, hz, hn, hq, hc⟩
      refine ⟨fun hsp hr hp _ => ?_, fun g w hsp hw ht hs hpub => h.allocation hsp hw ht hs hpub⟩
      intro old new
      have hnew : new = atomNew o.code old a.data a.data2 := atomNew_spelled ..
      rw [hnew]
      exact h.home hsp hr hp
    case view =>
      have h : ViewReady s x o a asid zr blk := ⟨load hk ho, hsp, hm, hv, hz, hb⟩
      exact ⟨fun hb hst hp => h.served hb hst hp hq, fun hb => h.waits hb⟩
  case drain =>
    intro f x w hx hw hf hr hq hh _
    subst hf
    have h : DrainReady s x w := ⟨hx, hw, hr, hq, hh⟩
    exact ⟨fun hsp hd ht hn => h.drains_home hsp hd ht hn, fun hsp hd ht hn hf => h.drain_waits hsp hd ht hn hf,
      fun hsp hd hm => h.drains_away hsp hd hm, fun hsp => h.drains_host hsp⟩
  case deliver =>
    intro d w hw hq _ _ hfirst hc
    exact DeliverReady.delivers ⟨hw, hq, hfirst⟩ hc
  case deliverFails =>
    intro d w port hw hq hfirst hsp hwait hp
    exact DeliverReady.fails ⟨hw, hq, hfirst⟩ hsp hwait hp
  case evict =>
    intro unit line h
    obtain ⟨h1, h2⟩ := evict_drops unit line h
    exact ⟨⟨_, h1, rfl, fun _ => rfl⟩, ⟨_, h2, rfl, fun _ => rfl⟩⟩
  case lines =>
    intro line x hx
    refine ⟨fun hp => ?_, fun hp hd hb => ?_, fun hf hw => ?_, fun hf => l2FillArrive_idle hx hf, fun found hf => readFinds_notes hx hf found,
      fun found hf => readFinds_idle hx hf found⟩
    · rw [l2Evict_eq hx, if_pos hp]
    · obtain rfl := State.l2?_line hx
      rw [l2Evict_eq hx, if_neg (by rw [hp]; nofun)]
      exact ⟨_, rfl, State.l2?_evict hx, s.homeByte_evict hx ⟨hd, hb⟩⟩
    · exact l2FillArrive_fills hx hf hw
  case tiles =>
    intro f op x o hx hop ht hfree ho
    obtain rfl : x.id = f := State.flight?_id _ _ _ hx
    obtain rfl : o.id = op := findBy_key _ _ _ _ hop
    have h : TileReady s x o := ⟨hx, hop, ht, hfree, ho⟩
    exact ⟨fun hk hc => h.loads hk hc, fun hk hc => h.stores hk hc⟩
  case blocks =>
    intro asid zr blk b hb z
    exact ⟨fun hst hw hh hf => blockDecodeDone_decodes hb hst hw hh hf, fun hst => blockDecodeDone_other hb hst, fun hst => blockEvictChosen_clean hb hst,
      fun hst => blockEvictChosen_dirty hb hst, fun hst => blockEvictChosen_busy hb hst,
      fun a l hst hh hw hp ht hl hline => encode_ends hb hst hh hw hp ht hl hline⟩

end

section
/-! SUPPORT. An instruction that its own lane checks trap, and what resolving the lanes of a memory instruction gives (R100, R308). -/

namespace Sys2Proof.Machine

open Sys2Proof

variable {α : Type} {s : State} {f : Flight} {d : Desc} {t : TrapInfo}

/-! ### A trap of the lane checks -/

/-- A description without its lane checks and what comes after them: `Fits` of it is what an instruction must meet to come to its lanes. -/
def Desc.beforeLanes (d : Desc) : Desc := { d with pre := fun _ _ => .go, room := fun _ _ => .go, sb := none }

theorem lateChecks_laneTrap (h : Free s f d.cls d.opnds (d.part f)) (i : Fits d.beforeLanes s f) (hp : d.pre (ctxOf f) s = .trap t) :
    lateChecks d (ctxOf f) s (s.afb f) = .trap t := by
  have hr : regionTrap d (ctxOf f) s = .go := i.region
  have hc : (d.collective && decide ((ctxOf f).f.exm ≠ ~~~(ctxOf f).f.dead)) = false := by
    by_cases hw : d.collective = true
    · simp [ctxOf, i.whole hw]
    · simp [hw]
  have h7 : ((d.tiled && (ctxOf f).f.regrouped) || d.chk07 (ctxOf f) s) = false := i.chk07
  have hv : d.chkPriv (ctxOf f) s = none := i.priv
  have hm : mintTrap d (ctxOf f).f = none := i.mint
  have hs : ((ctxOf f).f.isShadow && d.fromLeader) = false := by simp [ctxOf, h.unpaired]
  unfold lateChecks
  simp only [hr, hc, h7, hv, hm, hs, hp, Verdict.andThen, Verdict.ofTrap, ite_self, Bool.false_eq_true, if_false]

/-- The gate answers the lane checks' trap to an instruction that comes to its lanes. -/
theorem gate_laneTrap (h : Free s f d.cls d.opnds (d.part f)) (i : Fits d.beforeLanes s f) (hp : d.pre (ctxOf f) s = .trap t) :
    gate d f s = .trap t := by
  have hr : refusalTrap f = none := by simp [refusalTrap, h.refused]
  have hf : (f.fenced && d.ordered) = false := by
    by_cases ho : d.ordered = true
    · simp [show f.fenced = false from i.fence ho]
    · simp [ho]
  have ho : (f.openFence && d.ordered) = false := by
    simp only [Flight.fenced, Bool.and_eq_false_iff, Bool.or_eq_false_iff] at hf ⊢
    exact hf.imp_left And.left
  have he : encTrap d f (s.afb f) = none := encTrap_none (d := d.beforeLanes) h i
  have ht : d.tileClash f = false := i.tile
  have hview : (if s.checking f then f else earlyView s.freeCtr f []) = f := by split <;> rfl
  have hmeet (g : Option (List Nat)) : meet d f (s.afb f) g = .go := meet_go (d := d.beforeLanes) h i g
  have hx : (f.isShadow && d.ext.isSome) = false := by simp [h.unpaired]
  have hst (ch : Bool) : stateTrap d (ctxOf f) s (s.afb f) [] ch true = none := by
    obtain ⟨m, hm⟩ := h.unreleased
    unfold stateTrap
    have h6 (c : Nat) : firstFail (ctxOf f).f c d.opnds = none := firstFail_none h c
    have h2 : d.chk02 (ctxOf f) s = none := i.chk02
    have hm' : countReads (ctxOf f).f (s.afb f) d.opnds (ctxOf f).f.counts = .ok m := hm
    simp [h6, h2, hm']
  unfold gate
  simp only [canIssue_of h, hr, ho, he, ht, hazards_nil h, hview, Bool.not_true, Bool.false_eq_true, if_false]
  have hc : ({ f := f, pc := f.pc, seq := f.seq, sym := f.symNext.toNat } : Ctx) = ctxOf f := rfl
  simp only [hc, hmeet, hf, hx, hst, lateChecks_laneTrap h i hp, Verdict.andThen, Bool.false_eq_true, if_false]

/-- A trap other than a mismatch sets the flight anew, so that a flight written back as it was makes no difference. -/
theorem State.raiseTrap_setFlight (hf : s.flight? f.id = some f) (hh : f.isHandler = false) (hc : t.code ≠ 0x19) :
    (s.setFlight f).raiseTrap f.id t = s.raiseTrap f.id t := by
  have hg : (s.setFlight f).flight? f.id = some f := by rw [State.flight?_setFlight, if_pos rfl, hf]; rfl
  have hp : (s.setFlight f).portTakes f t.code = s.portTakes f t.code := rfl
  unfold State.raiseTrap
  simp only [hf, hg, hh, hp, hc, Bool.false_eq_true, if_false]
  split
  · exact s.setFlight_setFlight _ _ (Flight.leaveActive_same f).1
  · refine s.setFlight_setFlight _ _ ?_
    split <;> exact (Flight.leaveActive_same f).1

/-- An instruction that mints no symbol and comes to its lanes raises their trap. -/
theorem issue_laneTrap (h : Free s f d.cls d.opnds (d.part f)) (i : Fits d.beforeLanes s f) (hp : d.pre (ctxOf f) s = .trap t)
    (hm : d.mints = false) (hh : f.isHandler = false) (hc : t.code ≠ 0x19) : issue d s = .next (s.raiseTrap f.id t) := by
  have hu : s.updFlight f.id (fun f => f.takeRefusals.mintKept d t) = s.setFlight f := by
    rw [State.updFlight_eq _ _ _ _ (here_of h)]
    simp [Flight.takeRefusals, Flight.mintKept, h.refused, hm]
  unfold issue
  rw [h.cur]
  simp only [gate_laneTrap h i hp, hu, State.raiseTrap_setFlight (here_of h) hh hc]

/-! ### The frame of failing lanes -/

/-- Of the lanes of a mask, `l` is the lowest that fails. -/
structure LowestFail (m : DWord) (P : Nat → Prop) (l : Nat) : Prop where
  lt : l < 64
  live : m.getLsbD l = true
  fails : P l
  first : ∀ k < l, m.getLsbD k = true → ¬ P k

/-- The lanes of a mask that fail, each with its address, make the trap of the lowest of them. -/
theorem laneTrap_lowest {P : Nat → Prop} [DecidablePred P] {m : DWord} {l : Nat} (h : LowestFail m P l) (a : Nat → Nat) (code cause info : Nat)
    {g : Nat → Option (Nat × Nat × Nat × Nat)} (hg : ∀ k, g k = if P k then some (k, a k, cause, info) else none) :
    laneTrap code false ((lanesOf m).filterMap g) =
      some { code, cause, info, mask := maskOf (lanes.filter fun k => m.getLsbD k && decide (P k)), addr := a l } := by
  set fails : List Nat := lanes.filter fun k => m.getLsbD k && decide (P k) with hfails
  have hmap : (lanesOf m).filterMap g = fails.map fun k => (k, a k, cause, info) := by
    rw [← List.filterMap_eq_map', hfails, lanesOf, List.filterMap_filter, List.filterMap_filter]
    refine List.filterMap_congr fun k _ => ?_
    rw [hg]
    by_cases hk : P k <;> simp [hk]
  have hhead : fails.head? = some l := by
    rw [List.head?_filter]
    refine List.find?_range_eq_some.2 ⟨by simp [h.live, h.fails], List.mem_range.2 h.lt, fun k hk => ?_⟩
    by_cases hmk : m.getLsbD k = true
    · simp [h.first k hk hmk]
    · simp [hmk]
  rw [hmap]
  cases hf : fails with
  | nil => rw [hf] at hhead; cases hhead
  | cons x r =>
    obtain rfl : x = l := by rw [hf] at hhead; exact Option.some.inj hhead
    simp [laneTrap, Function.comp_def]

/-- A plain lane of a load or store that is misaligned traps before any translation (R308). -/
theorem resolveGlobal_misaligned (k : AccKind) (hk : k = .load ∨ k = .store) (size align : Nat) (uni : Bool) (addrs : List (Nat × Nat))
    (ht : laneTrap 0x12 uni (addrs.filterMap fun x => if s.zrAt (s.launchOf f).asid x.2 = none ∧ x.2 % align ≠ 0 then some (x.1, x.2, 0, 0) else none) = some t) :
    resolveGlobal s f k size align uni addrs = .bad (.trap t) := by
  have key : ((addrs.map fun x => (x.1, x.2, s.zrAt (s.launchOf f).asid x.2)).filter fun x => x.2.2.isNone).filterMap
        (fun x => if x.2.1 % align ≠ 0 then some (x.1, x.2.1, 0, 0) else none) =
      addrs.filterMap fun x => if s.zrAt (s.launchOf f).asid x.2 = none ∧ x.2 % align ≠ 0 then some (x.1, x.2, 0, 0) else none := by
    rw [List.filterMap_filter, List.filterMap_map]
    refine List.filterMap_congr fun x _ => ?_
    cases hz : s.zrAt (s.launchOf f).asid x.2 <;> simp [hz]
  rcases hk with rfl | rfl <;> simp only [resolveGlobal, Bool.false_eq_true, if_false, key, ht]

/-- A lane whose local address names no byte of an allocation traps before its alignment is looked at (R100, R311). -/
theorem resolveLocal_outside (size : Nat) (uni : Bool) (addrs : List (Nat × Nat))
    (ht : laneTrap 0x11 uni (addrs.filterMap fun x => if s.local? f x.2 size = none then some (x.1, x.2, 8, 0xFF) else none) = some t) :
    resolveLocal s f size uni addrs = .bad (.trap t) := by
  unfold resolveLocal
  dsimp only
  rw [List.filterMap_map, List.filterMap_congr (g := fun x => if s.local? f x.2 size = none then some (x.1, x.2, 8, 0xFF) else none) ?_, ht]
  intro x _
  cases hz : s.local? f x.2 size <;> simp [hz]

/-! ### Lists in order -/

theorem insertBy_last (key : α → Nat) (a : α) (l : List α) (h : ∀ b ∈ l, key b ≤ key a) : insertBy key a l = l ++ [a] := by
  induction l with
  | nil => rfl
  | cons b r ih =>
    rw [insertBy, if_neg (Nat.not_lt.2 (h b (List.mem_cons_self ..))), ih fun c hc => h c (List.mem_cons_of_mem _ hc), List.cons_append]

/-- A list in order is sorted as it stands. -/
theorem sortBy_eq_self (key : α → Nat) (l : List α) (h : l.Pairwise fun a b => key a ≤ key b) : sortBy key l = l := by
  suffices hacc : ∀ acc : List α, (acc ++ l).Pairwise (fun a b => key a ≤ key b) → l.foldl (fun acc a => insertBy key a acc) acc = acc ++ l from hacc [] h
  clear h
  induction l with
  | nil => exact fun acc _ => (List.append_nil acc).symm
  | cons a r ih =>
    intro acc h
    have hlast : ∀ b ∈ acc, key b ≤ key a := fun b hb => (List.pairwise_append.1 h).2.2 b hb a (List.mem_cons_self ..)
    rw [List.foldl_cons, insertBy_last key a acc hlast, ih (acc ++ [a]) (by rwa [List.append_assoc]), List.append_assoc]
    rfl

@[simp] theorem sortBy_nil (key : α → Nat) : sortBy key [] = [] := rfl

theorem filterMap_ite_nil {β : Type} {P : α → Prop} [DecidablePred P] {g : α → β} (l : List α) (h : ∀ a ∈ l, ¬ P a) :
    (l.filterMap fun a => if P a then some (g a) else none) = [] :=
  List.filterMap_eq_nil_iff.2 fun a ha => if_neg (h a ha)

@[simp] theorem laneTrap_nil (code : Nat) (uni : Bool) : laneTrap code uni [] = none := rfl

/-! ### Lanes that meet no trap -/

/-- The access of a plain lane at the address its translation gives (R310). -/
def tierAccess (s : State) (f : Flight) (size : Nat) (pa perm : Nat → Nat) (x : Nat × Nat) : Access :=
  { lane := x.1, va := x.2, space := .tier, pa := pa x.2, size, ro := !permWr (perm x.2), shift := (s.xlLeaf f (s.launchOf f).asid x.2).2 }

/-- Plain lanes of a load or store that are aligned, translate into the tiers and touch no code make one access each. -/
theorem resolveGlobal_translated (k : AccKind) (hk : k = .load ∨ k = .store) (size align : Nat) (uni : Bool) (addrs : List (Nat × Nat)) (pa perm : Nat → Nat)
    (hz : ∀ x ∈ addrs, s.zrAt (s.launchOf f).asid x.2 = none) (ha : ∀ x ∈ addrs, x.2 % align = 0)
    (hx : ∀ x ∈ addrs, s.xlate f (s.launchOf f).asid k.need x.2 = .ok (pa x.2) (perm x.2)) (hs : ∀ x ∈ addrs, paSpace (pa x.2) = some .tier)
    (hc : ∀ x ∈ addrs, ∀ i < size, s.inCode (pa x.2 + i) = false) (ho : addrs.Pairwise fun x y => x.1 < y.1) :
    resolveGlobal s f k size align uni addrs = .ok (addrs.map (tierAccess s f size pa perm)) := by
  have hvs : (addrs.map fun x => (x.1, x.2, s.zrAt (s.launchOf f).asid x.2)) = addrs.map fun x => (x.1, x.2, none) :=
    List.map_congr_left fun x h => by rw [hz x h]
  have hplain : ((addrs.map fun x => (x.1, x.2, (none : Option Nat))).filter fun x => x.2.2.isNone) = addrs.map fun x => (x.1, x.2, none) :=
    List.filter_eq_self.2 fun x h => by obtain ⟨y, -, rfl⟩ := List.mem_map.1 h; rfl
  have hviews : ((addrs.map fun x => (x.1, x.2, (none : Option Nat))).filterMap fun x => x.2.2.map fun n => (x.1, x.2.1, n)) = [] :=
    List.filterMap_eq_nil_iff.2 fun x h => by obtain ⟨y, -, rfl⟩ := List.mem_map.1 h; rfl
  have hxs : ((addrs.map fun x => (x.1, x.2, (none : Option Nat))).map fun x => (x.1, x.2.1, s.xlate f (s.launchOf f).asid k.need x.2.1)) =
      addrs.map fun x => (x.1, x.2, Xl.ok (pa x.2) (perm x.2)) := by
    rw [List.map_map]
    exact List.map_congr_left fun x h => by simp only [Function.comp_apply, hx x h]
  have hnone {β : Type} : (addrs.filterMap fun _ => (none : Option β)) = [] := List.filterMap_eq_nil_iff.2 fun _ _ => rfl
  have hal : ((addrs.map fun x => (x.1, x.2, (none : Option Nat))).filterMap fun x => if x.2.1 % align ≠ 0 then some (x.1, x.2.1, 0, 0) else none) = [] := by
    rw [List.filterMap_map]
    exact filterMap_ite_nil _ fun x h => not_not.2 (ha x h)
  have hdev : (addrs.filterMap fun x => if paSpace (pa x.2) = some .dev ∧ size ≠ 4 ∧ size ≠ 8 ∧ True then some (x.1, x.2, 0, 0) else none) = [] :=
    filterMap_ite_nil _ fun x h hd => by rw [hs x h] at hd; exact nomatch hd.1
  have hcode (w : Bool) :
      (addrs.filterMap fun x => if (w && (List.range size).any fun i => s.inCode (pa x.2 + i)) = true then some (x.1, x.2, 7, 0) else none) = [] :=
    filterMap_ite_nil _ fun x h hi => by
      obtain ⟨-, hi⟩ := Bool.and_eq_true_iff.1 hi
      obtain ⟨i, hlt, hi⟩ := List.any_eq_true.1 hi
      rw [hc x h i (List.mem_range.1 hlt)] at hi
      cases hi
  have hacc :
      (addrs.filterMap fun x => some
        { lane := x.1, va := x.2, space := (paSpace (pa x.2)).getD .tier, pa := pa x.2, size := size, ro := !permWr (perm x.2)
          shift := (s.xlLeaf f (s.launchOf f).asid x.2).2 }) = addrs.map (tierAccess s f size pa perm) :=
    List.filterMap_eq_map_iff_forall_eq_some.2 fun x h => by rw [hs x h]; rfl
  have hsort : sortBy Access.lane (addrs.map (tierAccess s f size pa perm)) = addrs.map (tierAccess s f size pa perm) :=
    sortBy_eq_self _ _ (List.pairwise_map.2 (ho.imp Nat.le_of_lt))
  rcases hk with rfl | rfl
  all_goals
    /- First the lists of lanes, each a map over the addresses; then what is looked for among them. -/
    simp only [resolveGlobal, Bool.false_eq_true, if_false, hvs, hplain, hviews, hxs, hal, laneTrap_nil]
    simp only [List.filterMap_map, Function.comp_def, hnone, hdev, hcode, hacc, hsort, laneTrap_nil, sortBy_nil, List.filterMap_nil, List.filter_nil,
      List.any_nil, List.append_nil, List.map_nil, List.isEmpty_nil, Bool.not_true, Bool.false_eq_true, if_false]

/-- The access of a lane in the allocation that its local address names; one of the flight's own workgroup needs no tag (R102). -/
def localAccess (f : Flight) (size : Nat) (w : Nat → Workgroup) (off : Nat → Nat) (x : Nat × Nat) : Access :=
  { lane := x.1, va := x.2, space := .loc (w x.2).id, pa := off x.2, size, tag := if (w x.2).id = f.wg then 0 else (w x.2).tag }

/-- Lanes whose local addresses name bytes of allocations and are aligned make one access each. -/
theorem resolveLocal_named (size : Nat) (uni : Bool) (addrs : List (Nat × Nat)) (w : Nat → Workgroup) (off : Nat → Nat)
    (hl : ∀ x ∈ addrs, s.local? f x.2 size = some (w x.2, off x.2)) (ha : ∀ x ∈ addrs, x.2 % size = 0) :
    resolveLocal s f size uni addrs = .ok (addrs.map (localAccess f size w off)) := by
  have hxs : (addrs.map fun x => (x.1, x.2, s.local? f x.2 size)) = addrs.map fun x => (x.1, x.2, some (w x.2, off x.2)) :=
    List.map_congr_left fun x h => by rw [hl x h]
  have hout : ((addrs.map fun x => (x.1, x.2, some (w x.2, off x.2))).filterMap fun x => if x.2.2.isNone = true then some (x.1, x.2.1, 8, 0xFF) else none) = [] :=
    List.filterMap_eq_nil_iff.2 fun x h => by obtain ⟨y, -, rfl⟩ := List.mem_map.1 h; rfl
  have hal : ((addrs.map fun x => (x.1, x.2, some (w x.2, off x.2))).filterMap fun x => if x.2.1 % size ≠ 0 then some (x.1, x.2.1, 0, 0) else none) = [] := by
    rw [List.filterMap_map]
    exact filterMap_ite_nil _ fun x h => not_not.2 (ha x h)
  simp only [resolveLocal, hxs, hout, hal, laneTrap_nil]
  refine congrArg Spots.ok ?_
  rw [List.filterMap_map]
  exact List.filterMap_eq_map_iff_forall_eq_some.2 fun x _ => rfl

/-! ### Loads and stores that come to their lanes -/

/-- A word of LD, ST, LDL or STL without order that meets none of the encoding traps (R232, R311). -/
structure MFields.Plain (x : MFields) (loc : Bool) : Prop where
  ty : x.ty ≤ 7
  scope : x.scope ≤ 5
  ord : x.ord = 0
  hint : loc = true → x.hint = 0

theorem MFields.Plain.scopeOk {x : MFields} {loc : Bool} (hx : x.Plain loc) : scopeOrdBad x.scope x.ord = false := by
  simp [scopeOrdBad, hx.ord, hx.scope]

theorem MFields.Plain.encOk {x : MFields} {loc : Bool} (hx : x.Plain loc) (ok : List Nat) (h0 : 0 ∈ ok) :
    (decide (7 < x.ty) || ordBad x ok || (loc && decide (x.hint ≠ 0))) = false := by
  have h7 : ¬ 7 < x.ty := Nat.not_lt.2 hx.ty
  have hh : (loc && decide (x.hint ≠ 0)) = false := by
    cases loc
    · rfl
    · simp [hx.hint rfl]
  rw [hh]
  simp [ordBad, hx.ord, h0, h7]

theorem noTile_mem {x : MFields} {loc : Bool} {o : Opnd} (h : KTag.t ∉ o.kinds) : NoTile [o, memA x loc, memB x] :=
  noTile_cons h (noTile_cons (by simp [memA]) (noTile_cons (by simp [memB]) noTile_nil))

section
variable {x : MFields} {loc : Bool} (hx : x.Plain loc) (hf : f.fenced = false) (hq : f.deferring = false ∨ f.residual = [])
include hx hf hq

theorem loadDesc_fits (h : Free s f 3 (loadDesc x loc false).opnds f.exm) : Fits (loadDesc x loc false).beforeLanes s f where
  last := nofun
  enc := by
    show (decide (7 < x.ty) || ordBad x [0, 1] || ((loc || false) && decide (x.hint ≠ 0))) = false
    rw [Bool.or_false]
    exact hx.encOk _ (by decide)
  scope := hx.scopeOk
  code := rfl
  fence _ := hf
  tile := tileClash_none (d := (loadDesc x loc false).beforeLanes) h (noTile_mem (by dsimp only; split <;> decide))
  queue := hq
  chk02 := rfl
  region := rfl
  whole := nofun
  chk07 := rfl
  priv := rfl
  mint := rfl
  pre := rfl
  token := nofun
  room := rfl

theorem storeDesc_fits (h : Free s f 3 (storeDesc x loc).opnds f.exm) : Fits (storeDesc x loc).beforeLanes s f where
  last := nofun
  enc := hx.encOk _ (by decide)
  scope := hx.scopeOk
  code := rfl
  fence _ := hf
  tile := tileClash_none (d := (storeDesc x loc).beforeLanes) h (noTile_mem (by dsimp only; split <;> split <;> decide))
  queue := by
    have hk : (storeDesc x loc).beforeLanes.dkind = .mem .store := by
      show (if x.ord = 2 then _ else _) = _
      rw [hx.ord]
      rfl
    rw [hk]
    exact hq
  chk02 := rfl
  region := by
    have hr : (storeDesc x loc).beforeLanes.region = false := by
      show decide (x.ord = 2) = false
      rw [hx.ord]
      rfl
    simp [regionTrap, hr]
  whole := nofun
  chk07 := rfl
  priv := rfl
  mint := rfl
  pre := rfl
  token := nofun
  room := rfl

end

/-! ### Their lanes that fail -/

section
variable {x : MFields} {k : AccKind} {l : Nat} {P : Nat → Prop} {_ : DecidablePred P} (h : LowestFail f.exm P l)
include h

/-- Misaligned plain lanes (R308). -/
theorem lsSpots_misaligned (hk : k = .load ∨ k = .store)
    (hP : ∀ j, P j ↔ s.zrAt (s.launchOf f).asid (gaddr x f j) = none ∧ gaddr x f j % tySize x.ty ≠ 0) :
    (lsSpots x false k (ctxOf f) s).verdict =
      .trap { code := 0x12, addr := gaddr x f l, mask := maskOf (lanes.filter fun j => f.exm.getLsbD j && decide (P j)) } := by
  refine congrArg Spots.verdict <| resolveGlobal_misaligned k hk _ _ false _ ?_
  rw [lsAddrs, List.filterMap_map]
  exact laneTrap_lowest h (gaddr x f) 0x12 0 0 fun j => if_congr (hP j).symm rfl rfl

/-- Lanes outside their allocation (R100, R311). -/
theorem lsSpots_outside (hP : ∀ j, P j ↔ s.local? f (laddr x f j) (tySize x.ty) = none) :
    (lsSpots x true k (ctxOf f) s).verdict =
      .trap { code := 0x11, cause := 8, info := 0xFF, addr := laddr x f l, mask := maskOf (lanes.filter fun j => f.exm.getLsbD j && decide (P j)) } := by
  refine congrArg Spots.verdict <| resolveLocal_outside _ false _ ?_
  rw [lsAddrs, List.filterMap_map]
  exact laneTrap_lowest h (laddr x f) 0x11 8 0xFF fun j => if_congr (hP j).symm rfl rfl

end

/-! ### Types within Table 10-15 -/

theorem tySize_spelled : ∀ ty ≤ 7, [1, 1, 2, 2, 4, 8, 16, 32].getD ty 0 = tySize ty := by decide
theorem tyRegs_spelled : ∀ ty ≤ 7, [1, 1, 1, 1, 1, 2, 4, 8].getD ty 0 = tyRegs ty := by decide

end Sys2Proof.Machine
end

section
open Sys2Proof Sys2Proof.Machine

/-- Settles O34: a lane's trap is that of the lanes' resolution, which is the first of its tests to fail; where none fails it is a map over the lanes. -/
theorem lanesTranslateOrTrap : Obligations.LanesTranslateOrTrap := by
  unfold Obligations.LanesTranslateOrTrap
  refine ⟨?traps, fun s f k size uni addrs pa perm hk _ h ho => ?global, fun s f size uni addrs w off h => ?loc⟩
  case global =>
    exact resolveGlobal_translated k hk size size uni addrs pa perm (fun x hx => (h x hx).1) (fun x hx => (h x hx).2.1)
      (fun x hx => (h x hx).2.2.1) (fun x hx => (h x hx).2.2.2.1) (fun x hx => (h x hx).2.2.2.2) ho
  case loc => exact resolveLocal_named size uni addrs w off (fun x hx => (h x hx).1) fun x hx => (h x hx).2
  case traps =>
    intro size regs ops word traps ga mis la outside
    refine ⟨?ld, ?st, ?ldl, ?stl⟩
    all_goals
      intro o l ⟨ht, hsc, ho, hi⟩ s f hr hh ⟨hfree, hf, hq, hl, hm, hfail, hlow⟩
      have hx : (ofMem o).Plain _ := ⟨ht, hsc, ho, hi⟩
      have hn : size (ofMem o) = tySize (ofMem o).ty := tySize_spelled _ ht
      simp only [ops, regs, tyRegs_spelled _ ht] at hfree
    case ld =>
      exact issue_laneTrap (d := descLd (ofMem o)) hfree (loadDesc_fits hx hf hq hfree)
        (lsSpots_misaligned ⟨hl, hm, hfail, hlow⟩ (.inl rfl) fun j => by rw [← hn]) rfl hh (by simp)
    case st =>
      exact issue_laneTrap (d := descSt (ofMem o)) hfree (storeDesc_fits hx hf hq hfree)
        (lsSpots_misaligned ⟨hl, hm, hfail, hlow⟩ (.inr rfl) fun j => by rw [← hn]) rfl hh (by simp)
    case ldl =>
      exact issue_laneTrap (d := descLdl (ofMem o)) hfree (loadDesc_fits hx hf hq hfree)
        (lsSpots_outside ⟨hl, hm, hfail, hlow⟩ fun j => by rw [← hn]) rfl hh (by simp)
    case stl =>
      exact issue_laneTrap (d := descStl (ofMem o)) hfree (storeDesc_fits hx hf hq hfree)
        (lsSpots_outside ⟨hl, hm, hfail, hlow⟩ fun j => by rw [← hn]) rfl hh (by simp)

end

section
/-! SUPPORT. Shootdowns: what a GO writes and begins (R64), and what an acknowledgement leaves (R65). -/

namespace Sys2Proof.Machine

open Sys2Proof

variable {s : State}

/-! ### Written words -/

/-- The writable bits of TLBICTL (Table 03-8). -/
def tlbiMask : DWord := 0xFFFFFFFF0FFF0006

/-- TLBICTL as a GO finds it: the fields written, ERR and DONE cleared by ones. -/
def goWord (cur v : DWord) (k : Nat) : DWord := w1c (rw cur tlbiMask (goKind v k) 0) 0x30 (goKind v k) 0

theorem goKind_getLsbD (v : DWord) (k : Nat) {i : Nat} (h3 : 3 ≤ i) : (goKind v k).getLsbD i = v.getLsbD i := by
  by_cases hi : i < 64
  · have h1 : ∀ i < 64, 3 ≤ i → (1 : DWord).getLsbD i = false := by decide
    rw [goKind, BitVec.getLsbD_or, h1 i hi h3, Bool.or_false, setFld_getLsbD, if_neg (by omega), decide_eq_true hi, Bool.true_and]
  · rw [BitVec.getLsbD_of_ge _ _ (Nat.le_of_not_lt hi), BitVec.getLsbD_of_ge _ _ (Nat.le_of_not_lt hi)]

theorem goKind_go (v : DWord) (k : Nat) : (goKind v k).getLsbD 0 = true := by
  rw [goKind, BitVec.getLsbD_or]
  exact Bool.or_true _

theorem goWord_eq_merge (cur v : DWord) (k : Nat) : goWord cur v k = merge (merge cur tlbiMask (goKind v k)) (0x30 &&& goKind v k) 0 := by
  rw [goWord, rw_eq_merge, w1c_eq_merge, and_halfMask_zero, and_halfMask_zero]

/-- ERR and DONE lie in bits 4 and 5, which no other field meets. -/
theorem clearMask_getLsbD (w : DWord) {i : Nat} (h : i < 4 ∨ 6 ≤ i) : (0x30 &&& w).getLsbD i = false := by
  by_cases hi : i < 64
  · have hm : ∀ i < 64, i < 4 ∨ 6 ≤ i → (0x30 : DWord).getLsbD i = false := by decide
    rw [BitVec.getLsbD_and, hm i hi h, Bool.false_and]
  · exact BitVec.getLsbD_of_ge _ _ (Nat.le_of_not_lt hi)

/-- A writable field takes the value written. -/
theorem fld_goWord (cur v : DWord) (k : Nat) {lo n : Nat} (hm : ∀ i < n, tlbiMask.getLsbD (lo + i) = true) (hc : lo + n ≤ 4 ∨ 6 ≤ lo) :
    fld (goWord cur v k) lo n = fld (goKind v k) lo n := by
  rw [goWord_eq_merge, fld_merge_ne (fun i hi => clearMask_getLsbD _ (by omega)), fld_merge hm]

theorem fld_goWord_kind (cur v : DWord) {k : Nat} (hk : k < 4) : fld (goWord cur v k) 1 2 = k := by
  have h1 : fld (goKind v k) 1 2 = fld (setFld v 1 2 k) 1 2 := fld_congr fun i hi => by
    have h0 : ∀ i < 2, (1 : DWord).getLsbD (1 + i) = false := by decide
    rw [goKind, BitVec.getLsbD_or, h0 i hi, Bool.or_false]
  rw [fld_goWord cur v k (by decide) (by decide), h1, fld_setFld_same _ _ _ _ (by decide)]
  exact Nat.mod_eq_of_lt hk

/-- The address space and the count of frames. -/
theorem fld_goWord_of_six_le (cur v : DWord) (k : Nat) {lo n : Nat} (hm : ∀ i < n, tlbiMask.getLsbD (lo + i) = true) (hlo : 6 ≤ lo) :
    fld (goWord cur v k) lo n = fld v lo n := by
  rw [fld_goWord cur v k hm (.inr hlo)]
  exact fld_congr fun i _ => goKind_getLsbD v k (by omega)

theorem goWord_busy (cur v : DWord) (k : Nat) : (goWord cur v k).getLsbD 3 = cur.getLsbD 3 := by
  rw [goWord_eq_merge, merge_getLsbD, clearMask_getLsbD _ (by decide), merge_getLsbD, show tlbiMask.getLsbD 3 = false by decide]
  rfl

/-- TLBICTL of a GO that names no frame: ERR and DONE. -/
def goInvalid (cur v : DWord) (k : Nat) : DWord := setFld (setFld (goWord cur v k) 6 1 1) 4 1 1
/-- TLBICTL of a GO that begins: BUSY, and no ERR. -/
def goBegins (cur v : DWord) (k : Nat) : DWord := setFld (setFld (goWord cur v k) 6 1 0) 3 1 1

/-- A GO (R64). -/
theorem State.go_eq (s : State) (v : DWord) {k : Nat} (hk : k < 4) : s.regWrite tlbiOff 0 (goKind v k) =
    if (s.reg tlbiOff).getLsbD 3 then s.setReg tlbiOff (s.reg tlbiOff ||| 0x20)
    else if (k = 0 ∨ k = 3) ∧ fld v 32 32 = 0 then s.setReg tlbiOff (goInvalid (s.reg tlbiOff) v k)
    else (s.setReg tlbiOff (goBegins (s.reg tlbiOff) v k)).startShoot k (fld v 16 12) (fld (s.reg 0x700) 16 32) (fld v 32 32) .software := by
  have hnv : w1c (rw (s.reg tlbiOff) 0xFFFFFFFF0FFF0006 (goKind v k) 0) 0x30 (goKind v k) 0 = goWord (s.reg tlbiOff) v k := rfl
  have hc : fld (goWord (s.reg tlbiOff) v k) 32 32 = fld v 32 32 := fld_goWord_of_six_le _ _ _ (by decide) (by decide)
  have ha : fld (goWord (s.reg tlbiOff) v k) 16 12 = fld v 16 12 := fld_goWord_of_six_le _ _ _ (by decide) (by decide)
  have hf : (s.setReg tlbiOff (goBegins (s.reg tlbiOff) v k)).reg 0x700 = s.reg 0x700 := State.reg_setReg_ne _ _ (by decide)
  rw [s.regWrite_eq_regPut (r := .tlbictl) rfl nofun nofun]
  show s.tlbiWrite 0 (goKind v k) = _
  simp only [State.tlbiWrite, hnv, and_halfMask_zero, goKind_go, if_true, fld_goWord_kind _ _ hk, hc, ha]
  rw [← hf]
  rfl

/-- A GO while BUSY is dropped, and noted. -/
theorem State.go_dropped {k : Nat} (hk : k < 4) (v : DWord) (hb : (s.reg tlbiOff).getLsbD 3 = true) :
    s.regWrite tlbiOff 0 (goKind v k) = s.setReg tlbiOff (s.reg tlbiOff ||| 0x20) := by
  rw [s.go_eq v hk, if_pos hb]

/-- A range of no frames is invalid. -/
theorem State.go_invalid {k : Nat} (hk : k < 4) (v : DWord) (hb : (s.reg tlbiOff).getLsbD 3 = false) (hr : k = 0 ∨ k = 3) (hc : fld v 32 32 = 0) :
    s.regWrite tlbiOff 0 (goKind v k) = s.setReg tlbiOff (goInvalid (s.reg tlbiOff) v k) := by
  rw [s.go_eq v hk, if_neg (ne_true_of_eq_false hb), if_pos ⟨hr, hc⟩]

/-! ### The dies waited for -/

/-- Distinct powers of two add up to the number with those bits. -/
theorem foldl_add_pow_testBit (p : Nat → Bool) (n d : Nat) :
    (((List.range n).filter p).foldl (fun a d => a + 2 ^ d) 0).testBit d = (decide (d < n) && p d) := by
  induction n with
  | zero => simp
  | succ n ih =>
    have hlt := (foldl_add_pow p n).1
    have hn : d < n + 1 ↔ d < n ∨ d = n := Nat.lt_succ_iff_lt_or_eq
    rw [List.range_succ, List.filter_append, List.foldl_append]
    generalize ((List.range n).filter p).foldl (fun a d => a + 2 ^ d) 0 = v at ih hlt
    cases hp : p n with
    | false =>
      rw [List.filter_cons_of_neg (by simp [hp])]
      by_cases h : d = n
      · subst h; simp [ih, hp]
      · simp [ih, hn, h]
    | true =>
      rw [List.filter_cons_of_pos hp, List.filter_nil, List.foldl_cons, List.foldl_nil,
        show v + 2 ^ n = 2 ^ n * 1 + v by omega, Nat.testBit_two_pow_mul_add _ hlt, ih]
      by_cases h : d < n
      · simp [h, hn]
      · rw [if_neg h]
        by_cases h' : d = n
        · subst h'; simp [hp]
        · have h1 : 1 < 2 ^ (d - n) := Nat.one_lt_two_pow (by omega)
          simp [hn, h, h', Nat.testBit_lt_two_pow h1]

/-- A shootdown waits for the dies that are not in reset (R67). -/
theorem State.shootDies_getLsbD (s : State) {d : Nat} (hd : d < 8) : s.shootDies.getLsbD d = true ↔ d ∉ s.dev.dieRst := by
  rw [State.shootDies, BitVec.getLsbD_ofNat, allDies, foldl_add_pow_testBit]
  simp [hd]

/-! ### TLBICTL as shootdowns end -/

/-- A state with another list of shootdowns. -/
def State.withShoots (s : State) (l : List Shoot) : State := { s with tr := { s.tr with shoots := l } }

/-- A state with its translation stores and registers as given. -/
def State.restored (s : State) (tr : TransSys) (regs : NMap DWord) : State := { s with tr, dev := { s.dev with regs } }

theorem State.setReg_restored (s : State) (o : Nat) (w : DWord) (tr : TransSys) (regs : NMap DWord) :
    (s.setReg o w).restored tr regs = s.restored tr regs := rfl
theorem State.withShoots_restored (s : State) (l : List Shoot) (tr : TransSys) (regs : NMap DWord) :
    (s.withShoots l).restored tr regs = s.restored tr regs := rfl

theorem State.reg_withShoots (s : State) (l : List Shoot) (o : Nat) : (s.withShoots l).reg o = s.reg o := State.reg_congr rfl o

theorem State.startShoot_eq (s : State) (kind asid first count : Nat) (o : ShootOwner) :
    s.startShoot kind asid first count o = (s.withShoots (s.tr.shoots ++ [⟨kind, asid, first, count, s.shootDies, o⟩])).finishShoots := rfl

/-- While every shootdown goes on, DIESPEND shows what software's waits for. -/
theorem State.finishShoots_shows {k : Shoot} (hl : ∀ k ∈ s.tr.shoots, k.pend ≠ 0) (hb : (s.reg tlbiOff).getLsbD 3 = true)
    (hk : s.tr.shoots.find? (fun k => decide (k.owner = .software)) = some k) :
    s.finishShoots = s.setReg tlbiOff (setFld (s.reg tlbiOff) 8 8 k.pend.toNat) := by
  have hdone : s.tr.shoots.filter (fun k => decide (k.pend = 0)) = [] := List.filter_eq_nil_iff.2 fun k hk => by simpa using hl k hk
  have hkeep : s.tr.shoots.filter (fun k => decide (k.pend ≠ 0)) = s.tr.shoots := List.filter_eq_self.2 fun k hk => decide_eq_true (hl k hk)
  unfold State.finishShoots
  simp only [hdone, hkeep, List.foldl_nil]
  have hr : ({ s with tr := { s.tr with shoots := s.tr.shoots, ats := s.tr.ats } } : State) = s := rfl
  rw [hr, if_pos hb, hk]

/-- TLBICTL after the last acknowledgement: DIESPEND 0, BUSY 0, DONE 1 (R65). -/
def tlbiDone (w : DWord) : DWord := setFld (setFld (setFld w 8 8 0) 3 1 0) 4 1 1

/-- Software's shootdown, alone and acknowledged by all, ends. -/
theorem State.finishShoots_last {k : Shoot} (hk : s.tr.shoots = [k]) (ho : k.owner = .software) (hp : k.pend = 0) (hb : (s.reg tlbiOff).getLsbD 3 = true) :
    s.finishShoots = (s.withShoots []).setReg tlbiOff (tlbiDone (s.reg tlbiOff)) := by
  have hats : k.dropAts s.tr.ats = s.tr.ats := by rw [Shoot.dropAts, ho]
  unfold State.finishShoots
  simp only [hk, List.filter_cons, List.filter_nil, hp, decide_true, ne_eq, not_true, decide_false, Bool.false_eq_true, if_false, if_true,
    List.foldl_cons, List.foldl_nil, hats, List.find?_nil]
  exact if_pos hb

theorem tlbiDone_fields (w : DWord) : (tlbiDone w).getLsbD 3 = false ∧ (tlbiDone w).getLsbD 4 = true ∧ fld (tlbiDone w) 8 8 = 0 := by
  refine ⟨?_, ?_, ?_⟩
  · rw [tlbiDone, setFld_one _ _ _ _ (by decide), if_neg (by decide), setFld_one _ _ _ _ (by decide), if_pos rfl]; rfl
  · rw [tlbiDone, setFld_one _ _ _ _ (by decide), if_pos rfl]; rfl
  · rw [tlbiDone, fld_setFld_ne _ _ _ _ _ _ (by decide), fld_setFld_ne _ _ _ _ _ _ (by decide), fld_setFld_same _ _ _ _ (by decide)]; rfl

theorem setFld_pend_busy (w : DWord) (x : Nat) : (setFld w 8 8 x).getLsbD 3 = w.getLsbD 3 := by
  rw [setFld_getLsbD, if_neg (by decide)]
  rfl

/-- TLBICTL of a GO in its two outcomes. -/
theorem goInvalid_fields (cur v : DWord) (k : Nat) (h : cur.getLsbD 3 = false) :
    (goInvalid cur v k).getLsbD 6 = true ∧ (goInvalid cur v k).getLsbD 4 = true ∧ (goInvalid cur v k).getLsbD 3 = false := by
  have h3 : ∀ i, i ≠ 4 → i ≠ 6 → (goInvalid cur v k).getLsbD i = (goWord cur v k).getLsbD i := fun i h4 h6 => by
    rw [goInvalid, setFld_one _ _ _ _ (by decide), if_neg h4, setFld_one _ _ _ _ (by decide), if_neg h6]
  refine ⟨?_, ?_, ?_⟩
  · rw [goInvalid, setFld_one _ _ _ _ (by decide), if_neg (by decide), setFld_one _ _ _ _ (by decide), if_pos rfl]; rfl
  · rw [goInvalid, setFld_one _ _ _ _ (by decide), if_pos rfl]; rfl
  · rw [h3 3 (by decide) (by decide), goWord_busy, h]

theorem goBegins_busy (cur v : DWord) (k : Nat) : (goBegins cur v k).getLsbD 3 = true := by
  rw [goBegins, setFld_one _ _ _ _ (by decide), if_pos rfl]; rfl

/-! ### A GO that begins -/

/-- The shootdown that software asks for (R64). -/
def State.goShoot (s : State) (v : DWord) (k : Nat) : Shoot :=
  { kind := k, asid := fld v 16 12, first := fld (s.reg 0x700) 16 32, count := fld v 32 32, pend := s.shootDies, owner := .software }

/-- The state as software's shootdown begins. -/
def State.goBegun (s : State) (v : DWord) (k : Nat) : State :=
  ((s.setReg tlbiOff (goBegins (s.reg tlbiOff) v k)).withShoots (s.tr.shoots ++ [s.goShoot v k])).setReg tlbiOff
    (setFld (goBegins (s.reg tlbiOff) v k) 8 8 s.shootDies.toNat)

/-- A GO of software, while none of its shootdowns is under way, begins one. -/
theorem State.go_begins {k : Nat} (hk : k < 4) (v : DWord) (hb : (s.reg tlbiOff).getLsbD 3 = false) (hc : k = 0 ∨ k = 3 → fld v 32 32 ≠ 0)
    (hd : ∃ d < 8, d ∉ s.dev.dieRst) (hl : ∀ k ∈ s.tr.shoots, k.owner ≠ .software ∧ k.pend ≠ 0) :
    s.regWrite tlbiOff 0 (goKind v k) = s.goBegun v k := by
  rw [s.go_eq v hk, if_neg (ne_true_of_eq_false hb), if_neg fun h => hc h.1 h.2, State.startShoot_eq]
  have hlive : ∀ j ∈ s.tr.shoots ++ [s.goShoot v k], j.pend ≠ 0 := fun j hj => by
    rcases List.mem_append.1 hj with hj | hj
    · exact (hl j hj).2
    · rw [List.mem_singleton.1 hj]; exact s.shootDies_ne_zero hd
  have hfind : (s.tr.shoots ++ [s.goShoot v k]).find? (fun j => decide (j.owner = .software)) = some (s.goShoot v k) := by
    rw [List.find?_append, List.find?_eq_none.2 fun j hj => by simpa using (hl j hj).1]
    rfl
  have hw : ((s.setReg tlbiOff (goBegins (s.reg tlbiOff) v k)).withShoots (s.tr.shoots ++ [s.goShoot v k])).reg tlbiOff = goBegins (s.reg tlbiOff) v k :=
    (State.reg_withShoots _ _ _).trans (State.reg_setReg_same _ _ _)
  have hbusy := goBegins_busy (s.reg tlbiOff) v k
  rw [← hw] at hbusy
  have hend := State.finishShoots_shows (s := State.withShoots _ _) (k := s.goShoot v k) hlive hbusy hfind
  rw [hw] at hend
  exact hend

theorem State.goBegun_tr (s : State) (v : DWord) (k : Nat) : (s.goBegun v k).tr = { s.tr with shoots := s.tr.shoots ++ [s.goShoot v k] } := rfl

theorem State.goBegun_rest (s : State) (v : DWord) (k : Nat) : (s.goBegun v k).restored s.tr s.dev.regs = s := by
  rw [State.goBegun, State.setReg_restored, State.withShoots_restored, State.setReg_restored]
  rfl

theorem State.goBegun_tlbictl (s : State) (v : DWord) (k : Nat) :
    ((s.goBegun v k).reg tlbiOff).getLsbD 3 = true ∧ fld ((s.goBegun v k).reg tlbiOff) 8 8 = s.shootDies.toNat := by
  rw [State.goBegun, State.reg_setReg_same, setFld_pend_busy, fld_setFld_same _ _ _ _ (by decide)]
  exact ⟨goBegins_busy _ _ _, Nat.mod_eq_of_lt s.shootDies.isLt⟩

/-! ### An acknowledgement -/

section
variable {d : Nat} {k : Shoot} (hk : s.tr.shoots = [k]) (hp : k.pend.getLsbD d = true)
include hk hp

/-- The only shootdown, acknowledged or not. -/
theorem execTlbiDieAck_eq : execTlbiDieAck d s = .next (((s.dropMatches d k).withShoots
    [if (s.dropMatches d k).matchOpen d k then k else { k with pend := k.pend &&& ~~~dieBit d }]).finishShoots) := by
  have hu : (s.dropMatches d k).tr.shoots = [k] := hk
  unfold execTlbiDieAck
  simp only [hk, List.filter_cons, hp, if_true, List.filter_nil, List.foldl_cons, List.foldl_nil, hu, List.map_cons, List.map_nil, Bool.true_and]
  cases (s.dropMatches d k).matchOpen d k <;> rfl

end

/-- A die that acknowledges leaves a shootdown that waits for it alone, and no other, waiting for nobody. -/
theorem ackPend_eq_zero {p : BitVec 8} {d : Nat} (hd : d < 8) (hp : p.getLsbD d = true) : p &&& ~~~dieBit d = 0 ↔ p = dieBit d := by
  have hbit (i : Nat) (hi : i < 8) : (dieBit d).getLsbD i = decide (i = d) := by
    rw [dieBit, BitVec.getLsbD_ofNat, Nat.testBit_two_pow, decide_eq_true hi, Bool.true_and]
    exact decide_eq_decide.2 eq_comm
  constructor
  · intro h
    refine BitVec.eq_of_getLsbD_eq fun i hi => ?_
    have hi0 : (p &&& ~~~dieBit d).getLsbD i = false := by rw [h]; exact BitVec.getLsbD_zero
    rw [BitVec.getLsbD_and, BitVec.getLsbD_not, hbit i hi, decide_eq_true hi, Bool.true_and] at hi0
    rw [hbit i hi]
    by_cases hid : i = d
    · subst hid; rw [hp, decide_eq_true rfl]
    · rw [decide_eq_false hid] at hi0 ⊢
      rwa [Bool.not_false, Bool.and_true] at hi0
  · rintro rfl
    exact BitVec.and_not_self _

theorem mem_filter_drop {α : Type} (l : List α) (P : α → Prop) [DecidablePred P] (q : α → Bool) (e : α) :
    e ∈ l.filter (fun e => !(decide (P e) && q e)) ↔ e ∈ l ∧ ¬ (P e ∧ q e = true) := by
  rw [List.mem_filter, Bool.not_eq_true', ← Bool.not_eq_true, Bool.and_eq_true, decide_eq_true_eq]

/-- The cached leaves, and the pointers, that stay with a die. -/
theorem State.mem_dropMatches_tlb (s : State) (d : Nat) (k : Shoot) (e : TlbEntry) :
    e ∈ (s.dropMatches d k).tr.tlb ↔ e ∈ s.tr.tlb ∧ ¬ (dieOf e.core = d ∧ k.leaf e = true) := mem_filter_drop s.tr.tlb (fun e => dieOf e.core = d) k.leaf e
theorem State.mem_dropMatches_wcache (s : State) (d : Nat) (k : Shoot) (e : WalkEntry) :
    e ∈ (s.dropMatches d k).tr.wcache ↔ e ∈ s.tr.wcache ∧ ¬ (e.die = d ∧ k.pointer e = true) := mem_filter_drop s.tr.wcache (fun e => e.die = d) k.pointer e

/-- What an acknowledgement of software's only shootdown leaves: the die's matches gone, and the shootdown as its accesses and the other dies have it. -/
theorem execTlbiDieAck_ends {d : Nat} (hd : d < 8) {k : Shoot} (hk : s.tr.shoots = [k]) (ho : k.owner = .software) (hp : k.pend.getLsbD d = true)
    (hb : (s.reg tlbiOff).getLsbD 3 = true) :
    ∃ l w, execTlbiDieAck d s = .next (((s.dropMatches d k).withShoots l).setReg tlbiOff w) ∧
      if (s.dropMatches d k).matchOpen d k then l = [k] ∧ w.getLsbD 3 = true
      else if k.pend = dieBit d then l = [] ∧ w.getLsbD 3 = false ∧ w.getLsbD 4 = true ∧ fld w 8 8 = 0
      else l = [{ k with pend := k.pend &&& ~~~dieBit d }] ∧ w.getLsbD 3 = true := by
  have hb' (l : List Shoot) : (((s.dropMatches d k).withShoots l).reg tlbiOff).getLsbD 3 = true := hb
  have hshows {j : Shoot} (hj : j.owner = .software) (hn : j.pend ≠ 0) :
      ∃ w, ((s.dropMatches d k).withShoots [j]).finishShoots = ((s.dropMatches d k).withShoots [j]).setReg tlbiOff w ∧ w.getLsbD 3 = true :=
    ⟨_, State.finishShoots_shows (k := j) (fun i hi => by rw [List.mem_singleton.1 hi]; exact hn) (hb' _)
      (List.find?_cons_of_pos (decide_eq_true hj)), (setFld_pend_busy _ _).trans (hb' _)⟩
  rw [execTlbiDieAck_eq hk hp]
  by_cases hm : (s.dropMatches d k).matchOpen d k = true
  · have hn : k.pend ≠ 0 := fun h0 => by rw [h0] at hp; simp at hp
    obtain ⟨w, hw, h3⟩ := hshows ho hn
    simp only [if_pos hm, hw]
    exact ⟨_, w, rfl, rfl, h3⟩
  simp only [if_neg hm]
  by_cases hl : k.pend = dieBit d
  · have hz : k.pend &&& ~~~dieBit d = 0 := (ackPend_eq_zero hd hp).2 hl
    rw [State.finishShoots_last (k := { k with pend := k.pend &&& ~~~dieBit d }) rfl ho hz (hb' _)]
    refine ⟨[], _, rfl, ?_⟩
    rw [if_pos hl]
    exact ⟨rfl, tlbiDone_fields _⟩
  · obtain ⟨w, hw, h3⟩ := hshows (j := { k with pend := k.pend &&& ~~~dieBit d }) ho fun h => hl ((ackPend_eq_zero hd hp).1 h)
    rw [hw]
    refine ⟨_, w, rfl, ?_⟩
    rw [if_neg hl]
    exact ⟨rfl, h3⟩

end Sys2Proof.Machine
end

section
/-! SUPPORT. Walks that finish (R61): the table of requests, and what each requester receives. -/

namespace Sys2Proof.Machine

open Sys2Proof

/-! ### The table of requests -/

theorem WalkReq.is_iff (q : WalkReq) (d a fr : Nat) : q.is d a fr = true ↔ q.die = d ∧ q.asid = a ∧ q.frame = fr := by
  simp only [WalkReq.is, Bool.and_eq_true, decide_eq_true_eq, and_assoc]

/-- Some core of a die misses a frame. -/
def TransSys.Asks (t : TransSys) (d a fr : Nat) : Prop := ∃ m ∈ t.misses, dieOf m.core = d ∧ m.asid = a ∧ m.frame = fr

section
variable (t : TransSys) (d a fr : Nat)

/-- A request enters the table once. -/
theorem TransSys.mem_request_walks (q : WalkReq) : q ∈ (t.request d a fr).walks ↔ q ∈ t.walks ∨ q = ⟨d, a, fr⟩ := by
  unfold TransSys.request
  by_cases h : (t.walks.any fun w => w.is d a fr) = true
  · rw [if_pos h]
    refine ⟨.inl, fun hq => hq.elim id ?_⟩
    rintro rfl
    obtain ⟨⟨_, _, _⟩, hw, hi⟩ := List.any_eq_true.1 h
    obtain ⟨rfl, rfl, rfl⟩ := (WalkReq.is_iff _ _ _ _).1 hi
    exact hw
  · rw [if_neg h, List.mem_append, List.mem_singleton]

/-- A request marks misses and makes none. -/
theorem TransSys.request_asks (d' a' fr' : Nat) : (t.request d a fr).Asks d' a' fr' → t.Asks d' a' fr' := by
  rintro ⟨m, hm, h⟩
  obtain ⟨m', hm', rfl⟩ := List.mem_map.1 hm
  refine ⟨m', hm', ?_⟩
  split at h <;> exact h

end

/-- While misses are taken, requests stay, and each that enters is one that the die's misses ask for. -/
theorem TransSys.takeMisses_walks (d n : Nat) (t : TransSys) :
    (∀ q ∈ t.walks, q ∈ (t.takeMisses d n).walks) ∧ ∀ q ∈ (t.takeMisses d n).walks, q ∈ t.walks ∨ q.die = d ∧ t.Asks d q.asid q.frame := by
  induction n generalizing t with
  | zero => exact ⟨fun _ h => h, fun _ h => .inl h⟩
  | succ n ih =>
    unfold TransSys.takeMisses
    dsimp only
    split
    · exact ⟨fun _ h => h, fun _ h => .inl h⟩
    · split
      · exact ⟨fun _ h => h, fun _ h => .inl h⟩
      · rename_i m hm
        have hm' : m ∈ t.misses ∧ dieOf m.core = d := by
          have hs : m ∈ sortBy Miss.core (t.misses.filter fun m => decide (dieOf m.core = d) && !m.sent) := by
            rcases Option.or_eq_some_iff.1 hm with h | ⟨-, h⟩
            · exact List.mem_of_find?_eq_some h
            · exact List.mem_of_head? h
          have := List.mem_filter.1 (mem_of_mem_sortBy hs)
          exact ⟨this.1, by simpa using (Bool.and_eq_true_iff.1 this.2).1⟩
        obtain ⟨h1, h2⟩ := ih { t.request d m.asid m.frame with walkTurn := mset 0 t.walkTurn d (m.core + 1) }
        refine ⟨fun q hq => h1 q ((t.mem_request_walks d m.asid m.frame q).2 (.inl hq)), fun q hq => ?_⟩
        rcases h2 q hq with h | ⟨hd, h⟩
        · rcases (t.mem_request_walks d m.asid m.frame q).1 h with h | rfl
          · exact .inl h
          · exact .inr ⟨rfl, m, hm'.1, hm'.2, rfl, rfl⟩
        · exact .inr ⟨hd, t.request_asks d m.asid m.frame _ _ _ h⟩

/-! ### What is cached -/

/-- Installing an entry changes a TLB and draws free values. -/
theorem State.tlbPut_eq (s : State) (ways cap : Nat) (e : TlbEntry) : ∃ tlb n, s.tlbPut ways cap e = { s with tr := { s.tr with tlb }, freeCtr := n } :=
  ⟨_, _, rfl⟩

theorem State.install_eq (s : State) (core part asid va : Nat) (w : Walked) :
    ∃ tlb n, s.install core part asid va w = { s with tr := { s.tr with tlb }, freeCtr := n } := by
  unfold State.install
  dsimp only
  split
  · exact ⟨_, _, rfl⟩
  · split
    · obtain ⟨l, n, h⟩ := State.tlbPut_eq ((s.tlbDrop core part asid va).tlbDrop core 6 asid va) 32 32 _
      rw [h]
      exact ⟨_, _, rfl⟩
    · exact ⟨_, _, rfl⟩

theorem State.cachePtrs_eq (ps : List WalkEntry) (s : State) : ∃ wcache n, s.cachePtrs ps = { s with tr := { s.tr with wcache }, freeCtr := n } := by
  induction ps generalizing s with
  | nil => exact ⟨_, _, rfl⟩
  | cons e r ih =>
    obtain ⟨l, n, h⟩ := ih (s.cachePtrs [e])
    exact ⟨l, n, h⟩

/-! ### What requesters receive -/

theorem mem_putRes (l : List WalkResult) (r : WalkResult) : r ∈ putRes l r := List.mem_append_right _ (List.mem_singleton.2 rfl)

/-- A walk's answer among those a flight or a command has. -/
def Flight.takeWalk (f : Flight) (r : WalkResult) : Flight := { f with walkRes := putRes f.walkRes r }
def Cmd.takeWalk (c : Cmd) (r : WalkResult) : Cmd := { c with walkRes := putRes c.walkRes r }

section
variable (asid va : Nat) (w : Walked)

theorem State.install_flight? (s : State) (core part i : Nat) : (s.install core part asid va w).flight? i = s.flight? i := by
  obtain ⟨l, n, h⟩ := s.install_eq core part asid va w
  rw [h]; rfl

theorem State.install_cmd? (s : State) (core part i : Nat) : (s.install core part asid va w).cmd? i = s.cmd? i := by
  obtain ⟨l, n, h⟩ := s.install_eq core part asid va w
  rw [h]; rfl

theorem State.install_same (s : State) (core part : Nat) : (s.install core part asid va w).mem = s.mem ∧ (s.install core part asid va w).dev = s.dev ∧
    (s.install core part asid va w).tr.walks = s.tr.walks := by
  obtain ⟨l, n, h⟩ := s.install_eq core part asid va w
  rw [h]; exact ⟨rfl, rfl, rfl⟩

/-- An answer reaches the flight it is for, on the core that missed, and no other. -/
theorem State.giveWalk_flight? (s : State) (core id i : Nat) : (s.giveWalk core asid va w id).flight? i =
    (s.flight? i).map fun f => if i = id ∧ f.core = core then f.takeWalk w.res else f := by
  unfold State.giveWalk
  cases hf : s.flight? id with
  | some f =>
    dsimp only
    have hid : f.id = id := State.flight?_id _ _ _ hf
    by_cases hc : f.core = core
    · rw [if_pos hc, State.install_flight?, State.flight?_setFlight]
      by_cases hi : i = id
      · subst hi; simp [hf, hid, hc, Flight.takeWalk]
      · simp [hi, hid]
    · rw [if_neg hc]
      by_cases hi : i = id
      · subst hi; simp [hf, hc]
      · simp [hi]
  | none =>
    have hother : (s.flight? i).map (fun f => if i = id ∧ f.core = core then f.takeWalk w.res else f) = s.flight? i := by
      by_cases hi : i = id
      · subst hi; rw [hf]; rfl
      · simp [hi]
    rw [hother]
    dsimp only
    cases s.cmd? id with
    | none => rfl
    | some c =>
      dsimp only
      split
      · rw [State.install_flight?]; rfl
      · rfl

/-- An answer reaches a command by the same number when no flight has it. -/
theorem State.giveWalk_cmd? (s : State) (core id i : Nat) (hi : s.flight? i = none) : (s.giveWalk core asid va w id).cmd? i =
    (s.cmd? i).map fun c => if i = id ∧ c.core = core then c.takeWalk w.res else c := by
  unfold State.giveWalk
  by_cases h : i = id
  · subst h
    rw [hi]
    dsimp only
    cases hc : s.cmd? i with
    | none => simpa using hc
    | some c =>
      have hid : c.id = i := findBy_key _ _ _ _ hc
      dsimp only
      split
      · rename_i he
        rw [State.install_cmd?, Option.map_some, if_pos ⟨rfl, he⟩]
        subst hid
        exact findBy_isSome_replBy Cmd.id s.cmds _ (c.takeWalk w.res) rfl c hc
      · rename_i he
        simp [hc, he]
  · have hsame : (s.cmd? i).map (fun c => if i = id ∧ c.core = core then c.takeWalk w.res else c) = s.cmd? i := by simp [h]
    rw [hsame]
    cases s.flight? id with
    | some f =>
      dsimp only
      split
      · rw [State.install_cmd?]; rfl
      · rfl
    | none =>
      cases hc : s.cmd? id with
      | none => rfl
      | some c =>
        have hid : c.id = id := findBy_key _ _ _ _ hc
        dsimp only
        split
        · rw [State.install_cmd?]
          exact findBy_replBy_ne Cmd.id s.cmds _ i _ rfl (by rw [hid]; exact h)
        · rfl

theorem State.giveWalk_same (s : State) (core id : Nat) : (s.giveWalk core asid va w id).mem = s.mem ∧ (s.giveWalk core asid va w id).dev = s.dev ∧
    (s.giveWalk core asid va w id).tr.walks = s.tr.walks := by
  unfold State.giveWalk
  split
  · split
    · exact State.install_same _ _ _ _ _ _
    · exact ⟨rfl, rfl, rfl⟩
  · split
    · split
      · exact State.install_same _ _ _ _ _ _
      · exact ⟨rfl, rfl, rfl⟩
    · exact ⟨rfl, rfl, rfl⟩

/-! ### All requesters -/

/-- The answer given to each of a list of requesters, as (core, number). -/
def State.giveAll (s : State) (l : List (Nat × Nat)) : State := l.foldl (fun s p => s.giveWalk p.1 asid va w p.2) s

theorem State.giveAll_same (l : List (Nat × Nat)) (s : State) : (s.giveAll asid va w l).mem = s.mem ∧ (s.giveAll asid va w l).dev = s.dev ∧
    (s.giveAll asid va w l).tr.walks = s.tr.walks := by
  induction l generalizing s with
  | nil => exact ⟨rfl, rfl, rfl⟩
  | cons p r ih =>
    obtain ⟨h1, h2, h3⟩ := ih (s.giveWalk p.1 asid va w p.2)
    obtain ⟨g1, g2, g3⟩ := s.giveWalk_same asid va w p.1 p.2
    exact ⟨h1.trans g1, h2.trans g2, h3.trans g3⟩

/-- Each flight asked for has the answer, and nothing else of it changes; the others are as they were. -/
theorem State.giveAll_flight? (l : List (Nat × Nat)) {s : State} {i : Nat} {f : Flight} (hf : s.flight? i = some f) :
    ∃ g, (s.giveAll asid va w l).flight? i = some g ∧ { g with walkRes := f.walkRes } = f ∧ ((f.core, i) ∈ l → w.res ∈ g.walkRes) ∧
      ((f.core, i) ∉ l → g = f) := by
  induction l generalizing s f with
  | nil => exact ⟨f, hf, rfl, nofun, fun _ => rfl⟩
  | cons p r ih =>
    obtain ⟨core, id⟩ := p
    have hstep : (s.giveWalk core asid va w id).flight? i = some (if i = id ∧ f.core = core then f.takeWalk w.res else f) := by
      rw [State.giveWalk_flight?, hf]; rfl
    have hmem : (f.core, i) ∈ (core, id) :: r ↔ (i = id ∧ f.core = core) ∨ (f.core, i) ∈ r := by
      rw [List.mem_cons, Prod.mk.injEq, and_comm]
    by_cases hp : i = id ∧ f.core = core
    · rw [if_pos hp] at hstep
      obtain ⟨g, h1, h2, h3, h4⟩ := ih hstep
      refine ⟨g, h1, congrArg (fun x : Flight => { x with walkRes := f.walkRes }) h2, fun _ => ?_, fun h => absurd (hmem.2 (.inl hp)) h⟩
      by_cases hr : (f.core, i) ∈ r
      · exact h3 hr
      · rw [h4 hr]; exact mem_putRes _ _
    · rw [if_neg hp] at hstep
      obtain ⟨g, h1, h2, h3, h4⟩ := ih hstep
      exact ⟨g, h1, h2, fun h => h3 ((hmem.1 h).resolve_left hp), fun h => h4 fun hr => h (hmem.2 (.inr hr))⟩

/-- Each command asked for has the answer. -/
theorem State.giveAll_cmd? (l : List (Nat × Nat)) {s : State} {i : Nat} {x : Cmd} (hn : s.flight? i = none) (hx : s.cmd? i = some x) :
    ∃ y, (s.giveAll asid va w l).cmd? i = some y ∧ ((x.core, i) ∈ l ∨ w.res ∈ x.walkRes → w.res ∈ y.walkRes) := by
  induction l generalizing s x with
  | nil => exact ⟨x, hx, fun h => h.elim nofun id⟩
  | cons p r ih =>
    obtain ⟨core, id⟩ := p
    have hn' : (s.giveWalk core asid va w id).flight? i = none := by rw [State.giveWalk_flight?, hn]; rfl
    have hstep : (s.giveWalk core asid va w id).cmd? i = some (if i = id ∧ x.core = core then x.takeWalk w.res else x) := by
      rw [State.giveWalk_cmd? _ _ _ _ _ _ _ hn, hx]; rfl
    have hmem : (x.core, i) ∈ (core, id) :: r ↔ (i = id ∧ x.core = core) ∨ (x.core, i) ∈ r := by
      rw [List.mem_cons, Prod.mk.injEq, and_comm]
    by_cases hp : i = id ∧ x.core = core
    · rw [if_pos hp] at hstep
      obtain ⟨y, h1, h2⟩ := ih hn' hstep
      exact ⟨y, h1, fun _ => h2 (.inr (mem_putRes _ _))⟩
    · rw [if_neg hp] at hstep
      obtain ⟨y, h1, h2⟩ := ih hn' hstep
      exact ⟨y, h1, fun h => h2 (h.imp_left fun h => (hmem.1 h).resolve_left hp)⟩

end

/-! ### A walk that finishes -/

/-- The requesters that a finished walk answers. -/
def TransSys.askers (t : TransSys) (d a fr : Nat) : List (Nat × Nat) :=
  (t.misses.filter fun m => m.servedBy d a fr).flatMap fun m => m.who.map fun i => (m.core, i)

theorem TransSys.mem_askers (t : TransSys) (d a fr core i : Nat) :
    (core, i) ∈ t.askers d a fr ↔ ∃ m ∈ t.misses, m.core = core ∧ dieOf m.core = d ∧ m.asid = a ∧ m.frame = fr ∧ i ∈ m.who := by
  simp only [TransSys.askers, List.mem_flatMap, List.mem_filter, Miss.servedBy, Bool.and_eq_true, decide_eq_true_eq, List.mem_map, Prod.mk.injEq]
  constructor
  · rintro ⟨m, ⟨hm, ⟨hd, ha⟩, hf⟩, j, hj, hc, rfl⟩
    exact ⟨m, hm, hc, hd, ha, hf, hj⟩
  · rintro ⟨m, hm, hc, hd, ha, hf, hj⟩
    exact ⟨m, ⟨hm, ⟨hd, ha⟩, hf⟩, i, hj, hc, rfl⟩

/-- The translation stores without a finished walk and the misses that it serves. -/
def TransSys.answered (t : TransSys) (d a fr : Nat) : TransSys :=
  { t with walks := t.walks.filter fun q => !q.is d a fr, misses := t.misses.filter fun m => !m.servedBy d a fr }

/-- The state as a walk finishes, before its answer is given: the table has taken waiting misses, and the pointers are cached. -/
def State.walked (s : State) (d a fr : Nat) (ps : List WalkEntry) : State :=
  { s with tr := (s.tr.answered d a fr).takeMisses d (s.tr.answered d a fr).misses.length }.cachePtrs ps

/-- One of a die's 32 oldest requests. -/
def State.Oldest (s : State) (d a fr : Nat) : Prop := ∃ q ∈ (s.tr.walksOf d).take 32, q.asid = a ∧ q.frame = fr

theorem State.oldest_iff (s : State) (d a fr : Nat) : ((s.tr.walksOf d).take 32).any (fun w => w.is d a fr) = true ↔ s.Oldest d a fr := by
  simp only [List.any_eq_true, WalkReq.is_iff, State.Oldest]
  refine exists_congr fun q => and_congr_right fun hq => and_iff_right ?_
  simpa using (List.mem_filter.1 (List.mem_of_mem_take hq)).2

theorem execWalkComplete_waits {s : State} {d a fr : Nat} (h : ¬ s.Oldest d a fr ∨ s.walkWaits (fr * 2 ^ 16) (s.walk d a (fr * 2 ^ 16)) = true) :
    execWalkComplete d a fr s = .next s := by
  unfold execWalkComplete
  by_cases ho : s.Oldest d a fr
  · rw [(s.oldest_iff d a fr).2 ho]
    exact if_pos (h.resolve_left (not_not.2 ho))
  · rw [Bool.eq_false_iff.2 fun h => ho ((s.oldest_iff d a fr).1 h)]
    rfl

theorem execWalkComplete_gives {s : State} {d a fr : Nat} (ho : s.Oldest d a fr) (hw : s.walkWaits (fr * 2 ^ 16) (s.walk d a (fr * 2 ^ 16)) = false) :
    execWalkComplete d a fr s = .next ((s.walked d a fr (s.walk d a (fr * 2 ^ 16)).ptrs).giveAll a (fr * 2 ^ 16) (s.walk d a (fr * 2 ^ 16)) (s.tr.askers d a fr)) := by
  unfold execWalkComplete
  rw [(s.oldest_iff d a fr).2 ho]
  simp only [Bool.not_true, Bool.false_eq_true, if_false, hw]
  rw [State.giveAll, TransSys.askers, List.foldl_flatMap]
  refine congrArg Host.Outcome.next ?_
  simp only [List.foldl_map]
  rfl

/-- Before the answer is given, the walk is gone from the table and every other stays. -/
theorem State.walked_walks (s : State) (d a fr : Nat) (ps : List WalkEntry) :
    (∀ q ∈ (s.walked d a fr ps).tr.walks, ¬ (q.die = d ∧ q.asid = a ∧ q.frame = fr)) ∧
      ∀ q ∈ s.tr.walks, ¬ (q.die = d ∧ q.asid = a ∧ q.frame = fr) → q ∈ (s.walked d a fr ps).tr.walks := by
  obtain ⟨h1, h2⟩ := (s.tr.answered d a fr).takeMisses_walks d (s.tr.answered d a fr).misses.length
  obtain ⟨c, n, hc⟩ := State.cachePtrs_eq ps { s with tr := (s.tr.answered d a fr).takeMisses d (s.tr.answered d a fr).misses.length }
  rw [State.walked, hc]
  refine ⟨fun q hq => ?_, fun q hq hn => h1 q (List.mem_filter.2 ⟨hq, ?_⟩)⟩
  · rcases h2 q hq with h | ⟨-, m, hm, hd, ha, hf⟩
    · have := (List.mem_filter.1 h).2
      rwa [Bool.not_eq_true', ← Bool.not_eq_true, WalkReq.is_iff] at this
    · rintro ⟨-, rfl, rfl⟩
      have := (List.mem_filter.1 hm).2
      simp [Miss.servedBy, hd, ha, hf] at this
  · rwa [Bool.not_eq_true', ← Bool.not_eq_true, WalkReq.is_iff]

theorem State.walked_same (s : State) (d a fr : Nat) (ps : List WalkEntry) : (s.walked d a fr ps).mem = s.mem ∧ (s.walked d a fr ps).dev = s.dev ∧
    (∀ i, (s.walked d a fr ps).flight? i = s.flight? i) ∧ ∀ i, (s.walked d a fr ps).cmd? i = s.cmd? i := by
  obtain ⟨c, n, hc⟩ := State.cachePtrs_eq ps { s with tr := (s.tr.answered d a fr).takeMisses d (s.tr.answered d a fr).misses.length }
  rw [State.walked, hc]
  exact ⟨rfl, rfl, fun _ => rfl, fun _ => rfl⟩

end Sys2Proof.Machine
end

section
open Sys2Proof Sys2Proof.Machine

/-- Settles O54: a GO by its three outcomes, an acknowledgement by the shootdown that it leaves, and a finished walk by the list of those that asked,
each of whom the fold over the list answers. -/
theorem shootdownsWaitForEveryDie : Obligations.ShootdownsWaitForEveryDie := by
  unfold Obligations.ShootdownsWaitForEveryDie
  intro s cur
  refine ⟨?go, ?ack, ?walk⟩
  case go =>
    intro kind i v hi
    obtain ⟨hk, he⟩ : kind < 4 ∧ exec i s = .next (s.regWrite tlbiOff 0 (goKind v kind)) := by
      simp only [List.mem_cons, Prod.mk.injEq, List.not_mem_nil, or_false] at hi
      rcases hi with ⟨rfl, rfl⟩ | ⟨rfl, rfl⟩ | ⟨rfl, rfl⟩ | ⟨rfl, rfl⟩ <;> exact ⟨by decide, rfl⟩
    rw [he]
    refine ⟨fun hb => congrArg Host.Outcome.next (State.go_dropped hk v hb), fun hb hr hc => ?_, fun hb hc hd hl => ?_⟩
    · refine ⟨_, congrArg Host.Outcome.next (State.go_invalid hk v hb hr hc), rfl, ?_⟩
      rw [show (0x708 : Nat) = tlbiOff from rfl, State.reg_setReg_same]
      exact goInvalid_fields _ v kind hb
    · exact ⟨_, s.goShoot v kind, congrArg Host.Outcome.next (State.go_begins hk v hb hc hd hl), s.goBegun_tr v kind, s.goBegun_rest v kind,
        rfl, rfl, rfl, rfl, rfl, fun d h => s.shootDies_getLsbD h, s.goBegun_tlbictl v kind⟩
  case ack =>
    intro d hd k hk ho hp hb
    obtain ⟨l, w, he, hend⟩ := execTlbiDieAck_ends hd hk ho hp hb
    have hw : (((s.dropMatches d k).withShoots l).setReg tlbiOff w).reg 0x708 = w := State.reg_setReg_same _ _ _
    refine ⟨_, he, s.mem_dropMatches_tlb d k, s.mem_dropMatches_wcache d k, rfl, ?_⟩
    rw [hw]
    exact hend
  case walk =>
    intro d a fr w oldest asked
    refine ⟨execWalkComplete_waits, fun ho hw => ⟨_, execWalkComplete_gives ho hw, ?_⟩⟩
    obtain ⟨m1, m2, hf, hc⟩ := s.walked_same d a fr w.ptrs
    obtain ⟨q1, q2⟩ := s.walked_walks d a fr w.ptrs
    obtain ⟨g1, g2, g3⟩ := State.giveAll_same a (fr * 2 ^ 16) w (s.tr.askers d a fr) (s.walked d a fr w.ptrs)
    rw [← g3] at q1 q2
    refine ⟨g1.trans m1, g2.trans m2, q1, q2, fun i f h => ?_, fun i x hn hx hask => ?_⟩
    · obtain ⟨g, h1, h2, h3, h4⟩ := State.giveAll_flight? a (fr * 2 ^ 16) w (s.tr.askers d a fr) ((hf i).trans h)
      rw [s.tr.mem_askers] at h3 h4
      exact ⟨g, h1, h2, h3, h4⟩
    · obtain ⟨y, h1, h2⟩ := State.giveAll_cmd? a (fr * 2 ^ 16) w (s.tr.askers d a fr) ((hf i).trans hn) ((hc i).trans hx)
      exact ⟨y, h1, h2 (.inl ((s.tr.mem_askers ..).2 hask))⟩

end

section
/-! SUPPORT. The gate for an instruction that meets nothing but its look at operand values, trap 0x02 (R237), and what holds it back after every trap. -/

namespace Sys2Proof.Machine
open Sys2Proof

variable {s : State} {f : Flight} {d : Desc}

/-- A description without its look at operand values and without what holds it back after every trap: `Fits` of it is what an instruction must meet to
come to these two. -/
def Desc.plain (d : Desc) : Desc := { d with chk02 := fun _ _ => none, room := fun _ _ => .go }

/-- What those two answer: trap 0x02, or else as `room` says. -/
def Desc.outcome (d : Desc) (c : Ctx) (s : State) : Gate :=
  match d.chk02 c s with
  | some (p, m, sp) => .trap { code := 0x02, cause := p, mask := m, aux := sp }
  | none => match d.room c s with | .go => .go c | .trap t => .trap t | .hold t => .hold t

theorem stateTrap_values (h : Free s f d.cls d.opnds (d.part f)) (ch : Bool) : stateTrap d (ctxOf f) s (s.afb f) [] ch true =
    (d.chk02 (ctxOf f) s).map fun (p, m, sp) => { code := 0x02, cause := p, mask := m, aux := sp } := by
  obtain ⟨m, hm⟩ := h.unreleased
  have hf (k : Nat) : firstFail (ctxOf f).f k d.opnds = none := firstFail_none h k
  have hm' : countReads (ctxOf f).f (s.afb f) d.opnds (ctxOf f).f.counts = .ok m := hm
  unfold stateTrap
  cases hc : d.chk02 (ctxOf f) s <;> simp [hf, hm']

theorem pairCheck_single (h : s.partner f = none) : pairCheck d (ctxOf f) s = .go := by
  unfold pairCheck
  rw [show s.partner (ctxOf f).f = none from h]

/-- An instruction that meets nothing else comes to its values and its room. -/
theorem gate_outcome (h : Free s f d.cls d.opnds (d.part f)) (i : Fits d.plain s f) : gate d f s = d.outcome (ctxOf f) s := by
  have hrefuse : refusalTrap f = none := by simp [refusalTrap, h.refused]
  have hfence : (f.fenced && d.ordered) = false := by
    have := i.fence
    cases ho : d.ordered
    · exact Bool.and_false _
    · rw [this ho]; rfl
  have hopen : (f.openFence && d.ordered) = false := by
    simp only [Flight.fenced, Bool.and_eq_false_iff, Bool.or_eq_false_iff] at hfence ⊢
    exact hfence.imp_left And.left
  have henc : encTrap d f (s.afb f) = none := encTrap_none (d := d.plain) h i
  have hclash : d.tileClash f = false := i.tile
  have hmeet (g : Option (List Nat)) : meet d f (s.afb f) g = .go := meet_go (d := d.plain) h i g
  have hlate : lateChecks d (ctxOf f) s (s.afb f) = .go := lateChecks_go (d := d.plain) h i
  have hview : (if s.checking f then f else earlyView s.freeCtr f []) = f := by split <;> rfl
  have hc : ({ f := f, pc := f.pc, seq := f.seq, sym := f.symNext.toNat } : Ctx) = ctxOf f := rfl
  unfold gate Desc.outcome
  simp only [canIssue_of h, hrefuse, hopen, henc, hclash, hazards_nil h, hview, hc, hmeet, hfence, h.unpaired, stateTrap_values h, hlate,
    pairCheck_single h.single, Verdict.andThen, Bool.not_true, Bool.false_and, Bool.false_eq_true, if_false]
  cases d.chk02 (ctxOf f) s with
  | some x => rfl
  | none =>
    cases e : d.sb with
    | none => cases d.room (ctxOf f) s <;> rfl
    | some k =>
      simp only [Option.map_none, Nat.not_le.2 (i.token k e), if_false]
      cases d.room (ctxOf f) s <;> rfl

/-- An instruction that is held back at the end leaves the state that its wait leaves. -/
theorem issue_hold {t : State} (h : Free s f d.cls d.opnds (d.part f)) (i : Fits d.plain s f) (h02 : d.chk02 (ctxOf f) s = none)
    (hr : d.room (ctxOf f) s = .hold t) : issue d s = .next t := by
  unfold issue
  rw [h.cur]
  simp only [gate_outcome h i, Desc.outcome, h02, hr]

/-- An instruction whose operand values are refused raises trap 0x02 (R237). -/
theorem issue_trap02 {p : Nat} {m : DWord} {sp : Nat} (h : Free s f d.cls d.opnds (d.part f)) (i : Fits d.plain s f)
    (h02 : d.chk02 (ctxOf f) s = some (p, m, sp)) (hm : d.mints = false) (hh : f.isHandler = false) :
    issue d s = .next (s.raiseTrap f.id { code := 0x02, cause := p, mask := m, aux := sp }) := by
  have hu : s.updFlight f.id (fun f => f.takeRefusals.mintKept d { code := 0x02, cause := p, mask := m, aux := sp }) = s.setFlight f := by
    rw [State.updFlight_eq _ _ _ _ (here_of h)]
    simp [Flight.takeRefusals, Flight.mintKept, h.refused, hm]
  unfold issue
  rw [h.cur]
  simp only [gate_outcome h i, Desc.outcome, h02, hu]
  rw [State.raiseTrap_setFlight (here_of h) hh (by simp)]

end Sys2Proof.Machine
end

section
/-! SUPPORT. Class MAT: what its operands name, and the checks that its descriptions share (R332, R345, R352). -/

namespace Sys2Proof.Machine
open Sys2Proof

variable {s : State} {f : Flight} {x : TFields} {os : List Opnd} {a b c fsa fsb rm : Bool}

/-! ### Operands of class MAT -/

/-- A legal operand of a tile position names a tile. -/
theorem okind_of_tile {o : Opnd} {afb : Nat} (h : o.bad f afb = false) (hk : o.kinds = [.t]) : okind o.spec = .t (tNum o.spec) := by
  unfold Opnd.bad at h
  unfold tNum
  rw [hk] at h
  cases e : okind o.spec with
  | vx n p => cases p <;> simp [e, OKind.tag] at h
  | t n => rfl
  | _ => simp [e, OKind.tag] at h

/-- Where no position takes `v[xn]+`, no index register advances. -/
theorem stepX_of_legal {afb : Nat} (h : ∀ o ∈ os, o.bad f afb = false) (hk : ∀ o ∈ os, KTag.vxp ∉ o.kinds) : stepX f os = noV := by
  have hi : incremented os = [] := by
    unfold incremented
    rw [List.filterMap_eq_nil_iff.2 fun o ho => ?_]
    · rfl
    · have hl := h o ho
      have hn := hk o ho
      unfold Opnd.bad at hl
      cases e : okind o.spec with
      | vx n p => cases p <;> simp [e, OKind.tag, hn] at hl ⊢
      | _ => rfl
  funext n l
  simp [stepX, hi, noV]

/-! ### The checks that the MAT instructions share -/

/-- What `MatReady` asks, but for the shapes. -/
structure MatPlace (f : Flight) (sb : Nat) (os : List Opnd) : Prop where
  token : f.token sb < 63
  user : f.isHandler = false
  home : (∃ o ∈ os, ∃ n, okind o.spec = .t n) → f.regrouped = false
  unread : ∀ o ∈ os, o.use ≠ .src → ∀ n, okind o.spec = .t n → (∀ p ∈ f.ops, Reg.tile n ∉ p.reads) ∧ ∀ e ∈ f.residual, Reg.tile n ∉ e.tiles

theorem MatPlace.of_ready {sb : Nat} (h : MatReady f sb os) : MatPlace f sb os := ⟨h.token, h.user, h.home, h.unread⟩

/-- A MAT word without reserved bits, whose unused fields hold nothing (R232, R248). -/
structure TFields.Tidy (x : TFields) (a b c fsa fsb rm : Bool) : Prop where
  resv : x.resv = 0
  unused : NoMat x (!a) (!b) (!c)
  fsa : fsa = false → x.fsa = 0
  fsb : fsb = false → x.fsb = 0
  rm : rm = false → x.rm = 0

theorem TFields.Tidy.encOk (h : x.Tidy a b c fsa fsb rm) : (matDesc x a b c fsa fsb rm os).encBad = false := by
  obtain ⟨h1, h2, h3⟩ := h.unused
  simp only [matDesc, Bool.or_eq_false_iff, Bool.and_eq_false_imp, Bool.not_eq_false', Bool.not_eq_true', decide_eq_false_iff_not, not_not] at h1 h2 h3 ⊢
  exact ⟨⟨⟨⟨⟨⟨h.resv, h1⟩, h2⟩, h3⟩, h.fsa⟩, h.fsb⟩, h.rm⟩

theorem MatPlace.tileClash {d : Desc} {sb : Nat} (h : MatPlace f sb d.opnds) : d.tileClash f = false := by
  unfold Desc.tileClash
  rw [List.any_eq_false]
  intro o ho
  cases e : okind o.spec with
  | t n =>
    by_cases hw : o.use = .src
    · simp [Opnd.writes, hw]
    · simpa using fun _ => h.unread o ho hw n e
  | _ => simp

/-- No tile stands in a regrouped flight's instruction (R352). -/
theorem MatPlace.notRegrouped {sb afb : Nat} (h : MatPlace f sb os) (hl : ∀ o ∈ os, o.bad f afb = false) :
    (os.any (fun o => decide (o.kinds = [.t])) && f.regrouped) = false := by
  rw [Bool.and_eq_false_imp, List.any_eq_true]
  rintro ⟨o, ho, hk⟩
  exact h.home ⟨o, ho, _, okind_of_tile (hl o ho) (of_decide_eq_true hk)⟩

/-- Every tile that is named has a shape (R332). -/
theorem shapeless_none {sb afb : Nat} (h : MatReady f sb os) (hl : ∀ o ∈ os, o.bad f afb = false) :
    (os.find? fun o => decide (o.kinds = [.t]) && !shapeV (f.shape (tNum o.spec))) = none := by
  rw [List.find?_eq_none]
  intro o ho
  rw [Bool.and_eq_true, not_and]
  intro hk
  rw [h.shaped o ho _ (okind_of_tile (hl o ho) (of_decide_eq_true hk))]
  decide

theorem first02_none {l : List (Ctx → State → Option (Nat × DWord × Nat))} {k : Ctx} (h : ∀ g ∈ l, g k s = none) : first02 l k s = none :=
  List.findSome?_eq_none_iff.2 h

/-- A MAT description, but for its look at the tiles' shapes. -/
theorem matDesc_fits {part : DWord} (h : Free s f 4 os part) (hx : x.Tidy a b c fsa fsb rm) (hp : MatPlace f x.sb os) :
    Fits (matDesc x a b c fsa fsb rm os).plain s f where
  last := nofun
  enc := hx.encOk (os := os)
  scope := rfl
  code := rfl
  fence := nofun
  tile := hp.tileClash
  queue := trivial
  chk02 := rfl
  region := rfl
  whole := nofun
  chk07 := (Bool.or_false _).trans (hp.notRegrouped h.legal)
  priv := if_neg (by rw [show (ctxOf f).f.isHandler = false from hp.user]; nofun)
  mint := rfl
  pre := rfl
  token k hk := Option.some.inj hk ▸ hp.token
  room := rfl

end Sys2Proof.Machine
end

section
/-! SUPPORT. What an instruction with a token leaves: one whose results land later, and one whose effect is all it does (R235). -/

namespace Sys2Proof.Machine
open Sys2Proof

/-! ### The flight past an instruction with a token -/

theorem Flight.token_addToken (f : Flight) (j k : Nat) : (f.addToken j).token k = f.token k + if j = k then 1 else 0 := by
  unfold Flight.token Flight.addToken
  rw [mget_mset]
  by_cases h : k = j
  · subst h; simp [Flight.token]
  · simp [h, Ne.symm h]

section
variable {d : Desc} {f : Flight} {s : State}

/-- Past an instruction that mints no symbol, a flight is as it was but for its tokens and what `blankIssue` blanks. -/
theorem blankTokens_passed (hm : d.mints = false) : { blankIssue (passed d f s) with tokens := [] } = { blankIssue f with tokens := [] } := by
  rw [passed_eq, hm]
  unfold Flight.advance
  split <;> rfl

theorem blankOps_passed (hm : d.mints = false) : blankOps (passed d f s) = blankOps f :=
  congrArg (fun g : Flight => { g with ops := [], symNext := 0 }) (blankTokens_passed hm)

theorem symNext_passed (hm : d.mints = false) : (passed d f s).symNext = f.symNext := by
  rw [passed_eq, hm]
  simp

theorem shape_passed (k : Nat) : (passed d f s).shape k = f.shape k := by
  rw [passed_eq]
  simp [Flight.shape]

theorem token_passed {sb : Nat} (hs : d.sb = some sb) (k : Nat) : (passed d f s).token k = f.token k + if sb = k then 1 else 0 := by
  have htok : (passed d f s).tokens = (f.addToken sb).tokens := by rw [passed_eq, hs]; simp [Flight.tokensFor]
  rw [← Flight.token_addToken]
  unfold Flight.token
  rw [htok]

end

/-! ### Results that land later -/

section
variable {run : Run} {st sb t : Nat} {os : List Opnd} {part : Flight → DWord} {when_ : State → Flight → Prop} {V : Flight → Nat → Nat → Option Word}
  {S : Flight → Nat → Option DWord} {B : State → Flight → Nat → Option Bool} {U : Flight → State → State} {u : Flight → Flight → Flight}

/-- What results must be for `ComputesMat`: nothing is counted or drawn, no lane dies, and the writes give the registers and the tile's bits. -/
structure MatOut (f : Flight) (o : Out) (V : Nat → Nat → Option Word) (S : Nat → Option DWord) (t : Nat) (B : Nat → Option Bool) : Prop where
  flags : o.flags = 0
  cnt : o.cnt = {}
  rng : o.rng = []
  dead : o.dead = 0
  regs : RegsAre f (o.writes.foldl Flight.regWrite f) V S noS noV
  tiles : ∀ k < 16, ∀ b < 13056, tileBit (o.writes.foldl Flight.regWrite f) k b = if k = t then (B b).getD (tileBit f t b) else tileBit f k b

theorem MatOut.account {f : Flight} {o : Out} {V : Nat → Nat → Option Word} {S : Nat → Option DWord} {B : Nat → Option Bool} (h : MatOut f o V S t B)
    (g : Flight) : g.account o = g := by
  unfold Flight.account
  rw [h.flags, h.cnt, h.rng]
  rfl

/-- A MAT description whose results land later, with token `sb`, operands `os` and marks that count in the lanes `part`. -/
structure LateMat (D : State → Desc) (st sb : Nat) (os : List Opnd) (part : Flight → DWord) : Prop where
  cls : ∀ s, (D s).cls = 4
  st : ∀ s, (D s).st = st
  opnds : ∀ s, (D s).opnds = os
  part : ∀ s f, (D s).part f = part f
  lat : ∀ s, (D s).lat = .late
  sb : ∀ s, (D s).sb = some sb
  mints : ∀ s, (D s).mints = false
  noIndex : ∀ o ∈ os, KTag.vxp ∉ o.kinds

/-- The change `U` of the state is the change `u` of its flight, and of nothing there that a trap after results looks at. -/
structure OnFlight (U : Flight → State → State) (u : Flight → Flight → Flight) : Prop where
  set : ∀ (f : Flight) (m : State) (g : Flight), m.flight? f.id = some f → g.id = f.id → U f (m.setFlight g) = m.setFlight (u f g)
  same : ∀ f g : Flight, (u f g).id = g.id ∧ (u f g).kind = g.kind ∧ (u f g).step = g.step ∧ (u f g).fstat = g.fstat

theorem computesMat_of (D : State → Desc) (hrun : ∀ s, run s = issue (D s) s) (hD : LateMat D st sb os part)
    (heff : ∀ s f (m : State), (D s).eff (ctxOf f) m = U f m) (hU : OnFlight U u)
    (hfit : ∀ s f, Free s f 4 os (part f) → MatReady f sb os → when_ s f → Fits (D s) s f)
    (hres : ∀ s f, Free s f 4 os (part f) → when_ s f → MatOut f ((D s).res (ctxOf f) (midState (D s) f s)) (V f) (S f) t (B s f)) :
    ComputesMat run st sb os part when_ V S t B noAccount U := by
  intro s f h hr hw
  have h' : Free s f (D s).cls (D s).opnds ((D s).part f) := by rw [hD.cls, hD.opnds, hD.part]; exact h
  have ho := hres s f h hw
  set o := (D s).res (ctxOf f) (midState (D s) f s)
  obtain ⟨pid, -, -, -, -, pfstat, -, -, -, -, -, pstoch, pops⟩ := passed_fields (D s) f s
  have hmove := issued_moves (D s) f s
  have hregs := passed_regs (D s) f s
  have hblank := blankOps_passed (f := f) (s := s) (hD.mints s)
  have hsym := symNext_passed (f := f) (s := s) (hD.mints s)
  have htok := token_passed (f := f) (s := s) (hD.sb s)
  rw [hD.st] at hmove
  rw [hD.opnds, stepX_of_legal h.legal hD.noIndex] at hregs
  let m : State := ({ s with freeCtr := s.freeCtr + freeStride, nextId := s.nextId + 1 } : State).takeSlot f 4
  have hmf : m.flight? f.id = some f := show s.flight? f.id = some f from here_of h
  have hc := commit_late h' (hD.lat s) o rfl (u f) (fun g hg => (heff s f _).trans (hU.set f _ g hmf hg))
    (fun g => ⟨(hU.same f g).1, (hU.same f g).2.1, (hU.same f g).2.2.1⟩) (by
      rw [ho.account, (hU.same f _).2.2.2, show (withOp (passed (D s) f s) (lateOp (D s) f s o)).fstat = f.fstat from pfstat]
      split <;> exact cross_self _)
  rw [ho.account, hD.cls] at hc
  have hnext := issue_commit h' (hfit s f h hr hw)
  rw [hc] at hnext
  generalize passed (D s) f s = p at *
  set q : Flight := withOp p (lateOp (D s) f s o)
  have hpass : Passes s (m.setFlight q) f q st := ⟨only_flight s f q 4 _ _ (here_of h) pid, hmove.pc, hmove.clause, hmove.seq, hmove.stall⟩
  have hholds : Holds s f q os (lateOp (D s) f s o) (V f) (S f) noS :=
    { ops := congrArg (· ++ _) pops
      kind := rfl
      acc := rfl
      place := ⟨rfl, rfl⟩
      dests := fun r => by rw [lateOp_dests, hD.opnds]
      regs := ho.regs
      kills := ho.dead }
  refine ⟨m.setFlight q, q, lateOp (D s) f s o, ?_, hpass, congrArg (fun g : Flight => { g with fstat := 0, stoch := [] }) hblank,
    ⟨pfstat, fun l _ => congrArg (fun r => mget (BitVec.ofNat 32 l) r l) pstoch⟩, htok, hsym,
    ⟨hregs.v, hregs.s, hregs.p, hregs.x⟩, hholds, hD.sb s, ho.tiles⟩
  rw [hrun, hnext, hU.set f m q hmf pid]

end

/-! ### Effects -/

section
variable {s : State} {f : Flight} {d : Desc}

/-- An instruction without register results whose effect leaves the state `t`, with its flight's FSTAT and STEP as they were. -/
theorem commit_effect {t : State} {g : Flight} (h : Free s f d.cls d.opnds (d.part f)) (hl : d.lat = .none) (hr : d.res (ctxOf f) (midState d f s) = {})
    (he : d.eff (ctxOf f) (midState d f s) = t) (hp : t.partner f = none) (hg : t.flight? f.id = some g) (hs : g.step = f.step)
    (hf : g.fstat = f.fstat) : commit d (ctxOf f) s = t := by
  have heff : effOf d f s = t := by
    unfold effOf
    rw [he]
    split
    · exact giveNothing_alone _ _ _ hp
    · rfl
  rw [commit_eff h hl hr, heff, passShadow_none (.inr ⟨hp, h.unpaired⟩), afterResults_none t g _ _ _ hg (hs.trans h.step)]
  rw [hf]
  split <;> exact cross_self _

theorem State.spend_partner (s : State) (f g : Flight) (n : Nat) : (s.spend g n).partner f = s.partner f := by
  unfold State.spend
  split <;> rfl
theorem State.spend_flight? (s : State) (g : Flight) (n k : Nat) : (s.spend g n).flight? k = s.flight? k := by
  unfold State.spend
  split <;> rfl
theorem State.updFlight_spend (s : State) (f : Flight) (n k : Nat) (u : Flight → Flight) : (s.spend f n).updFlight k u = (s.updFlight k u).spend f n := by
  unfold State.updFlight
  rw [State.spend_flight?]
  cases s.flight? k with
  | none => rfl
  | some g =>
    unfold State.spend
    by_cases h : n = 0
    · simp [h]
    · simp only [h, if_false]; rfl

end
end Sys2Proof.Machine
end

section
/-! SUPPORT. MGATH, MCLOSE and TSHP (R338 to R340): what each checks, and what it leaves. -/

namespace Sys2Proof.Machine
open Sys2Proof

variable {s : State} {f : Flight} {x : TFields}

/-- Operands of MGATH (Table 14-1). -/
def mgathOs (x : TFields) : List Opnd := [tileO 0 x.d .dst, src 1 x.a [.s], src 2 x.b [.s], src 3 x.c [.s]]
/-- Operands of TSHP. -/
def tshpOs (x : TFields) : List Opnd := [tileO 0 x.d .dst, src 1 x.a [.s, .z]]

theorem mgathOs_noIndex : ∀ o ∈ mgathOs x, KTag.vxp ∉ o.kinds := by simp [mgathOs, tileO, src]
theorem tshpOs_noIndex : ∀ o ∈ tshpOs x, KTag.vxp ∉ o.kinds := by simp [tshpOs, tileO, src]

/-! ### MCLOSE -/

/-- The batch after the open one (R339). -/
def Flight.nextBatch (f g : Flight) : Flight := { g with batch := (f.batch + 1) % 256 }

theorem nextBatch_onFlight : OnFlight (fun f r => r.updFlight f.id f.nextBatch) Flight.nextBatch where
  set f m g hf hg := by
    rw [← hg] at hf ⊢
    exact setFlight_self_upd m g hf f.nextBatch rfl
  same _ _ := ⟨rfl, rfl, rfl, rfl⟩

theorem mclose_fits (hx : x.Tidy false false false false false false) (h : Free s f 4 [dst 0 x.d [.s, .z]] allOnes) (hr : MatReady f x.sb [dst 0 x.d [.s, .z]])
    (hb : ∀ p ∈ f.ops, p.kind = .mma → p.batch ≠ (f.batch + 129) % 256) : Fits (descMclose x) s f :=
  { matDesc_fits h hx (.of_ready hr) with
    chk02 := congrArg (Option.map fun o => (o.pos, allOnes, o.spec)) (shapeless_none hr h.legal)
    room := if_neg fun he => by
      obtain ⟨p, hp, hk⟩ := List.any_eq_true.1 he
      rw [Bool.and_eq_true, decide_eq_true_eq, decide_eq_true_eq] at hk
      exact hb p hp hk.1 hk.2 }

/-- Writes of the numbered registers leave every tile bit. -/
theorem tileBit_plain {ws : List RegWrite} (h : Plain ws) (k b : Nat) : tileBit (ws.foldl Flight.regWrite f) k b = tileBit f k b := by
  have he : (ws.foldl Flight.regWrite f).tiles = f.tiles := by
    have := congrArg Flight.tiles (blank_regWrites f ws h)
    exact this
  unfold tileBit Flight.rdTile
  rw [he]

/-- A scalar destination is no predicate. -/
theorem toP_scalar {afb : Nat} (h : (dst 0 x.d [.s, .z]).bad f afb = false) (w : DWord) : toP x.d w = noS := by
  unfold Opnd.bad at h
  funext n
  cases e : okind x.d with
  | p m => simp [dst, e, OKind.tag] at h
  | _ => simp [toP, e, noS]

theorem mclose_out {afb : Nat} (h : (dst 0 x.d [.s, .z]).bad f afb = false) (w : DWord) :
    MatOut f { writes := uWrites x.d w } noV (toS x.d w) 16 (noB s f) := by
  obtain ⟨hr, hp, -⟩ := uWrites_regs f x.d w
  rw [toP_scalar h] at hr
  refine ⟨rfl, rfl, rfl, rfl, hr, fun k hk b _ => ?_⟩
  rw [tileBit_plain hp, if_neg (Nat.ne_of_lt hk)]

theorem mclose_computes (hx : x.Tidy false false false false false false) :
    ComputesMat (issue (descMclose x)) x.st x.sb [dst 0 x.d [.s, .z]] (fun _ => BitVec.allOnes 64)
      (fun _ f => ∀ p ∈ f.ops, p.kind = .mma → p.batch ≠ (f.batch + 129) % 256) (fun _ => noV) (fun f => toS x.d (BitVec.ofNat 64 f.batch)) 16 noB
      noAccount fun f r => r.updFlight f.id f.nextBatch := by
  have hD : LateMat (fun _ => descMclose x) x.st x.sb [dst 0 x.d [.s, .z]] fun _ => BitVec.allOnes 64 :=
    ⟨fun _ => rfl, fun _ => rfl, fun _ => rfl, fun _ _ => rfl, fun _ => rfl, fun _ => rfl, fun _ => rfl, by simp [dst]⟩
  exact computesMat_of _ (fun _ => rfl) hD (fun _ _ _ => rfl) nextBatch_onFlight (fun s f h hr hb => mclose_fits hx h hr hb)
    fun s f h _ => mclose_out (h.legal _ (List.mem_cons_self ..)) _

/-! ### TSHP -/

/-- The shape that TSHP gives a tile (R340). -/
def newShape (x : TFields) (f : Flight) : Word := BitVec.ofNat 32 (rdUni f x.a).toNat

/-- A word that TSHP refuses: reserved bits, or a valid shape against the rules of R183. -/
def IllegalShape (w : Word) : Prop := shapeResv w = true ∨ (shapeV w = true ∧ shapeOk w = false)

theorem illegalShape_iff (w : Word) : (shapeResv w || (shapeV w && !shapeOk w)) = true ↔ IllegalShape w := by
  rw [Bool.or_eq_true, Bool.and_eq_true, Bool.not_eq_true', IllegalShape]

theorem tshp_plain_fits (hx : x.Tidy true false false false false false) {part : DWord} (h : Free s f 4 (tshpOs x) part)
    (hp : MatPlace f x.sb (tshpOs x)) : Fits (descTshp x).plain s f :=
  { matDesc_fits h hx hp with }

theorem tshp_fits (hx : x.Tidy true false false false false false) {part : DWord} (h : Free s f 4 (tshpOs x) part)
    (hp : MatPlace f x.sb (tshpOs x)) (hw : ¬ IllegalShape (newShape x f)) : Fits (descTshp x) s f :=
  { matDesc_fits h hx hp with
    chk02 := if_neg (mt (illegalShape_iff _).1 hw) }

/-- A flight whose tile has the shape that TSHP gives, and whose token has fallen again: the instruction is done as it issues. -/
def Flight.reshaped (g : Flight) (t sb : Nat) (w : Word) : Flight := (g.setShape t w).subToken sb

theorem Flight.reshaped_same (g : Flight) (t sb : Nat) (w : Word) : (g.reshaped t sb w).id = g.id ∧ (g.reshaped t sb w).kind = g.kind ∧
    (g.reshaped t sb w).step = g.step ∧ (g.reshaped t sb w).fstat = g.fstat := ⟨rfl, rfl, rfl, rfl⟩

theorem Flight.token_reshaped (g : Flight) (t sb : Nat) (w : Word) (k : Nat) : (g.reshaped t sb w).token k = g.token k - if sb = k then 1 else 0 := by
  unfold Flight.token Flight.reshaped Flight.subToken
  rw [mget_mset]
  by_cases h : k = sb
  · subst h; simp [Flight.token]
  · simp [h, Ne.symm h]

theorem Flight.shape_reshaped (g : Flight) (t sb : Nat) (w : Word) (k : Nat) : (g.reshaped t sb w).shape k = if k = t then w else g.shape k := mget_mset ..

/-- TSHP asks no shape of its tile, and reads none. -/
theorem tshp_place {t : Nat} (ht : okind x.d = .t t) (htok : f.token x.sb < 63) (huser : f.isHandler = false) (hhome : f.regrouped = false)
    (hops : ∀ p ∈ f.ops, Reg.tile t ∉ p.reads) (hres : ∀ e ∈ f.residual, Reg.tile t ∉ e.tiles) : MatPlace f x.sb (tshpOs x) := by
  refine ⟨htok, huser, fun _ => hhome, fun p hp hw n hn => ?_⟩
  simp only [tshpOs, List.mem_cons, List.not_mem_nil, or_false] at hp
  rcases hp with rfl | rfl
  · obtain rfl : t = n := OKind.t.inj (ht.symm.trans hn)
    exact ⟨hops, hres⟩
  · exact absurd rfl hw

theorem tshp_commit (h : Free s f (descTshp x).cls (descTshp x).opnds ((descTshp x).part f)) : commit (descTshp x) (ctxOf f) s =
    ((({ s with freeCtr := s.freeCtr + freeStride } : State).takeSlot f 4).setFlight ((passed (descTshp x) f s).reshaped (tNum x.d) x.sb (newShape x f))) := by
  obtain ⟨pid, pkind, -, -, pstep, pfstat, -⟩ := passed_fields (descTshp x) f s
  obtain ⟨rid, rkind, rstep, rfstat⟩ := (passed (descTshp x) f s).reshaped_same (tNum x.d) x.sb (newShape x f)
  set g := (passed (descTshp x) f s).reshaped (tNum x.d) x.sb (newShape x f)
  have he : (descTshp x).eff (ctxOf f) (midState (descTshp x) f s) = (midState (descTshp x) f s).setFlight g :=
    State.updFlight_eq _ _ _ _ (mid_here (here_of h))
  have hg : ((midState (descTshp x) f s).setFlight g).flight? f.id = some g := by
    rw [State.flight?_setFlight, rid.trans pid, if_pos rfl, mid_here (here_of h)]
    rfl
  rw [commit_effect h rfl rfl he (mid_partner h g (rid.trans pid) (rkind.trans pkind)) hg (rstep.trans pstep) (rfstat.trans pfstat),
    mid_setFlight g (rid.trans pid)]
  rfl

theorem tshp_passes (hx : x.Tidy true false false false false false) (h : Free s f 4 (tshpOs x) allOnes) (hp : MatPlace f x.sb (tshpOs x))
    (hw : ¬ IllegalShape (newShape x f)) :
    ∃ r g, issue (descTshp x) s = .next r ∧ Passes s r f g x.st
      ∧ { blankIssue g with tokens := [], shapes := [] } = { blankIssue f with tokens := [], shapes := [] }
      ∧ (∀ k, g.token k = f.token k) ∧ RegsAre f g noV noS noS noV ∧ ∀ k, g.shape k = if k = tNum x.d then newShape x f else f.shape k := by
  have hrun := issue_commit (d := descTshp x) h (tshp_fits hx h hp hw)
  rw [tshp_commit h] at hrun
  have hmove : MovesOn f (passed (descTshp x) f s) f.wordCount x.st s.clock := issued_moves (descTshp x) f s
  have hregs : RegsAre f (passed (descTshp x) f s) noV noS noS (stepX f (tshpOs x)) := passed_regs (descTshp x) f s
  rw [stepX_of_legal h.legal tshpOs_noIndex] at hregs
  have hblank := blankTokens_passed (d := descTshp x) (f := f) (s := s) rfl
  have htok := token_passed (d := descTshp x) (f := f) (s := s) (sb := x.sb) rfl
  have hshape := shape_passed (d := descTshp x) (f := f) (s := s)
  have hid := (passed_fields (descTshp x) f s).1
  generalize passed (descTshp x) f s = p at *
  refine ⟨_, p.reshaped (tNum x.d) x.sb (newShape x f), hrun,
    ⟨only_flight s f _ 4 _ s.nextId (here_of h) hid, hmove.pc, hmove.clause, hmove.seq, hmove.stall⟩, ?_, fun k => ?_,
    ⟨hregs.v, hregs.s, hregs.p, hregs.x⟩, fun k => ?_⟩
  · exact congrArg (fun g : Flight => { g with shapes := [] }) hblank
  · rw [Flight.token_reshaped, htok, Nat.add_sub_cancel]
  · rw [Flight.shape_reshaped, hshape]

/-! ### MGATH -/

/-- What MGATH asks beyond a legal word: a whole flight, a tile of elements of at least 8 bits, and an aligned descriptor (R338). -/
structure GatherReady (s : State) (f : Flight) (x : TFields) : Prop where
  word : x.Tidy true true true false false false
  free : Free s f 4 (mgathOs x) f.live
  mat : MatReady f x.sb (mgathOs x)
  clear : Clear s f none 0
  whole : f.exm = ~~~f.dead
  wide : 1 ≤ shapeEw (f.shape (tNum x.d))
  aligned : (rdUni f x.a).toNat % 32 = 0

namespace GatherReady

theorem plain_fits (h : GatherReady s f x) : Fits (descMgath x s).plain s f :=
  { matDesc_fits h.free h.word (.of_ready h.mat) with
    fence := fun _ => h.clear.fence
    queue := h.clear.queue
    whole := fun _ => h.whole
    pre := if_neg (not_not.2 h.aligned) }

theorem chk02 (h : GatherReady s f x) : (descMgath x s).chk02 (ctxOf f) s = none :=
  first02_none (List.forall_mem_cons.2
    ⟨congrArg (Option.map _) (shapeless_none h.mat h.free.legal), List.forall_mem_singleton.2 (if_pos (decide_eq_true h.wide))⟩)

end GatherReady

/-- The operation that stands for MGATH at its place while its reads are performed (R338). -/
def Flight.gathering (f : Flight) : Option Op := f.ops.find? fun p => decide (p.kind = .mgath) && decide (p.seq = f.seq)

/-- The flight whose gathered tile is to land: operation `p` has become a result. -/
def Flight.gathered (g : Flight) (x : TFields) (p : Op) : Flight :=
  { g with ops := (g.ops.filter fun q => decide (q.id ≠ p.id)) ++ [{ p with kind := .result, acc := [], dests := [.tile (tNum x.d)], sb := some x.sb }] }

theorem Flight.gathered_same (g : Flight) (x : TFields) (p : Op) : (g.gathered x p).id = g.id ∧ (g.gathered x p).kind = g.kind ∧
    (g.gathered x p).step = g.step ∧ (g.gathered x p).fstat = g.fstat ∧ blankOps (g.gathered x p) = blankOps g := ⟨rfl, rfl, rfl, rfl, rfl⟩

/-- With no such operation, MGATH begins its reads and stays. -/
theorem mgath_room_begins (hn : ∀ p ∈ f.ops, p.kind = .mgath → p.seq ≠ f.seq) : (descMgath x s).room (ctxOf f) s =
    .hold (s.addOp f.id fun id =>
      { id, seq := f.seq, pc := f.pc, kind := .mgath, num := tNum x.d, sym := (f.shape (tNum x.d)).toNat
        accBase := (rdUni f x.a).toNat, batch := (rdUni f x.b).toNat, scope := (rdUni f x.c).toNat, code := x.a }) := by
  have hf : f.gathering = none := List.find?_eq_none.2 fun p hp => by simpa using hn p hp
  unfold Flight.gathering at hf
  simp only [descMgath, ctxOf, hf, Bool.false_eq_true, if_false]

theorem mgath_room_goes_on {p : Op} (hp : f.gathering = some p) : (descMgath x s).room (ctxOf f) s =
    if p.acquired then bucketRoom f (s.charge f false p.acc) s else .hold s := by
  unfold Flight.gathering at hp
  simp only [descMgath, ctxOf, hp]

theorem mgath_eff {p : Op} (hp : f.gathering = some p) (m : State) : (descMgath x s).eff (ctxOf f) m =
    (m.spend f (m.charge f false p.acc)).updFlight f.id fun g => g.gathered x p := by
  unfold Flight.gathering at hp
  simp only [descMgath, ctxOf, hp]
  rfl

theorem charge_mid (d : Desc) (f : Flight) (s : State) (l : List Access) : (midState d f s).charge f false l = s.charge f false l := rfl


namespace GatherReady

theorem begins (h : GatherReady s f x) (hn : ∀ p ∈ f.ops, p.kind = .mgath → p.seq ≠ f.seq) : issue (descMgath x s) s = .next (s.addOp f.id fun id =>
      { id, seq := f.seq, pc := f.pc, kind := .mgath, num := tNum x.d, sym := (f.shape (tNum x.d)).toNat
        accBase := (rdUni f x.a).toNat, batch := (rdUni f x.b).toNat, scope := (rdUni f x.c).toNat, code := x.a }) :=
  issue_hold (d := descMgath x s) h.free h.plain_fits h.chk02 (mgath_room_begins hn)

theorem waits (h : GatherReady s f x) {p : Op} (hp : f.gathering = some p) (hq : p.acquired = false) : issue (descMgath x s) s = .next s :=
  issue_hold (d := descMgath x s) h.free h.plain_fits h.chk02
    ((mgath_room_goes_on hp).trans (if_neg (by rw [hq]; nofun)))

theorem passes (h : GatherReady s f x) {p : Op} (hp : f.gathering = some p) (hq : p.acquired = true)
    (hb : s.charge f false p.acc = 0 ∨ 1 ≤ s.bucket (bucketKey s f)) :
    issue (descMgath x s) s = .next (((({ s with freeCtr := s.freeCtr + freeStride } : State).takeSlot f 4).setFlight
      ((passed (descMgath x s) f s).gathered x p)).spend f (s.charge f false p.acc)) := by
  have hfit : Fits (descMgath x s) s f := { h.plain_fits with
    chk02 := h.chk02
    room := (mgath_room_goes_on hp).trans ((if_pos hq).trans (if_pos hb)) }
  have h' : Free s f (descMgath x s).cls (descMgath x s).opnds ((descMgath x s).part f) := h.free
  obtain ⟨pid, pkind, -, -, pstep, pfstat, -⟩ := passed_fields (descMgath x s) f s
  obtain ⟨gid, gkind, gstep, gfstat, -⟩ := (passed (descMgath x s) f s).gathered_same x p
  set g := (passed (descMgath x s) f s).gathered x p
  set n := s.charge f false p.acc
  have he : (descMgath x s).eff (ctxOf f) (midState (descMgath x s) f s) = ((midState (descMgath x s) f s).setFlight g).spend f n := by
    rw [mgath_eff hp, charge_mid, State.updFlight_spend, State.updFlight_eq _ _ _ _ (mid_here (here_of h'))]
  have hpart : (((midState (descMgath x s) f s).setFlight g).spend f n).partner f = none := by
    rw [State.spend_partner]
    exact mid_partner h' g (gid.trans pid) (gkind.trans pkind)
  have hg : (((midState (descMgath x s) f s).setFlight g).spend f n).flight? f.id = some g := by
    rw [State.spend_flight?, State.flight?_setFlight, gid.trans pid, if_pos rfl, mid_here (here_of h')]
    rfl
  rw [issue_commit h' hfit, commit_effect h' rfl rfl he hpart hg (gstep.trans pstep) (gfstat.trans pfstat), mid_setFlight g (gid.trans pid)]
  rfl

theorem lands (h : GatherReady s f x) {p : Op} (hp : f.gathering = some p) (hq : p.acquired = true)
    (hb : s.charge f false p.acc = 0 ∨ 1 ≤ s.bucket (bucketKey s f)) :
    ∃ r g, issue (descMgath x s) s = .next (r.spend f (s.charge f false p.acc)) ∧ Passes s r f g x.st ∧ blankOps g = blankOps f
      ∧ (∀ k, g.token k = f.token k + if x.sb = k then 1 else 0) ∧ RegsAre f g noV noS noS noV
      ∧ g.ops = (f.ops.filter fun q => decide (q.id ≠ p.id)) ++
          [{ p with kind := .result, acc := [], dests := [.tile (tNum x.d)], sb := some x.sb }] := by
  have hrun := h.passes hp hq hb
  have hmove : MovesOn f (passed (descMgath x s) f s) f.wordCount x.st s.clock := issued_moves (descMgath x s) f s
  have hregs : RegsAre f (passed (descMgath x s) f s) noV noS noS (stepX f (mgathOs x)) := passed_regs (descMgath x s) f s
  rw [stepX_of_legal h.free.legal mgathOs_noIndex] at hregs
  have hblank := blankOps_passed (d := descMgath x s) (f := f) (s := s) rfl
  have htok := token_passed (d := descMgath x s) (f := f) (s := s) (sb := x.sb) rfl
  obtain ⟨hid, -, -, -, -, -, -, -, -, -, -, -, hops⟩ := passed_fields (descMgath x s) f s
  generalize passed (descMgath x s) f s = g at *
  refine ⟨_, g.gathered x p, hrun, ⟨only_flight s f _ 4 _ s.nextId (here_of h.free) hid, hmove.pc, hmove.clause, hmove.seq, hmove.stall⟩, hblank, htok,
    ⟨hregs.v, hregs.s, hregs.p, hregs.x⟩, ?_⟩
  rw [← hops]
  rfl

end GatherReady

end Sys2Proof.Machine
end

section
open Sys2Proof Sys2Proof.Machine

/-- Settles O36: each instruction meets the checks that class MAT shares, and then only its own. MGATH is held until the operation that stands for it has its
reads, and then turns it into a result; MCLOSE's result lands later, while the batch is counted on at once; TSHP is its effect alone. -/
theorem gatherBatchAndShape : Obligations.GatherBatchAndShape := by
  unfold Obligations.GatherBatchAndShape
  refine ⟨?mgath, ?mclose, ?tshp⟩
  case mgath =>
    intro o s f x os hresv hfsa hfsb hrm h hr hc hwhole hew ha
    have hg : GatherReady s f x :=
      ⟨⟨hresv, ⟨nofun, nofun, nofun⟩, fun _ => hfsa, fun _ => hfsb, fun _ => hrm⟩, h, hr, hc, hwhole, hew, ha⟩
    exact ⟨hg.begins, fun p hp => ⟨hg.waits hp, hg.lands hp⟩⟩
  case mclose =>
    intro o x hresv hn hfsa hfsb hrm
    exact mclose_computes ⟨hresv, hn, fun _ => hfsa, fun _ => hfsb, fun _ => hrm⟩
  case tshp =>
    intro o s f x os w hresv hn hfsa hfsb hrm t ht h htok huser hhome hops hres
    have hx : x.Tidy true false false false false false := ⟨hresv, hn, fun _ => hfsa, fun _ => hfsb, fun _ => hrm⟩
    have hp : MatPlace f x.sb (tshpOs x) := tshp_place ht htok huser hhome hops hres
    split
    next hbad =>
      exact issue_trap02 (d := descTshp x) h (tshp_plain_fits hx h hp) (if_pos ((illegalShape_iff _).2 hbad)) rfl huser
    next hok =>
      obtain rfl : tNum x.d = t := by unfold tNum; rw [ht]
      exact tshp_passes hx h hp hok

end

section
/-! SUPPORT. The flight, and the state, that a landing operation leaves: results written, marks set, the operation and its token gone (R189, R235, R411). -/

namespace Sys2Proof.Machine
open Sys2Proof

variable {s t u : State} {x y g : Flight} {o : Op} {ws : List RegWrite} {ms : List PMark}

/-! ### Result writes and marks -/

/-- A flight without what result writes reach: registers, EXM, tiles and marks. -/
def blankResults (f : Flight) : Flight := { f with v := [], s := [], p := [], x := [], tiles := [], exm := 0, marks := [] }

theorem blankResults_regWrite (f : Flight) (w : RegWrite) : blankResults (f.regWrite w) = blankResults f := by
  unfold Flight.regWrite
  cases w.reg with
  | p n => dsimp only; split <;> rfl
  | _ => rfl

theorem blankResults_regWrites (f : Flight) (ws : List RegWrite) : blankResults (ws.foldl Flight.regWrite f) = blankResults f :=
  foldl_same blankResults _ blankResults_regWrite ws f

theorem exm_regWrite {w : RegWrite} (h : w.reg ≠ .exm) (f : Flight) : (f.regWrite w).exm = f.exm := by
  unfold Flight.regWrite
  cases hr : w.reg with
  | exm => exact absurd hr h
  | p n => dsimp only; split <;> rfl
  | _ => rfl

theorem exm_regWrites (h : ∀ w ∈ ws, w.reg ≠ .exm) (f : Flight) : (ws.foldl Flight.regWrite f).exm = f.exm := by
  induction ws generalizing f with
  | nil => rfl
  | cons w r ih =>
    rw [List.foldl_cons, ih fun v hv => h v (List.mem_cons_of_mem _ hv)]
    exact exm_regWrite (h w (List.mem_cons_self ..)) f

/-- The marks of a landing operation set, one after another. -/
def Flight.markAll (f : Flight) (ms : List PMark) : Flight := ms.foldl (fun g m => g.mark m.reg m.lane m.pa) f

/-- A flight without its marks. -/
def blankMarks (f : Flight) : Flight := { f with marks := [] }

theorem blankMarks_markAll (f : Flight) (ms : List PMark) : blankMarks (f.markAll ms) = blankMarks f := by
  refine foldl_same blankMarks _ (fun f m => ?_) ms f
  unfold Flight.mark
  split
  · split <;> rfl
  · rfl

/-- A mark on a lane of a register, at an address no higher than a given one. -/
def Flight.MarkedBy (f : Flight) (m : PMark) : Prop := ∃ q ∈ f.marks, q.reg = m.reg ∧ q.lane = m.lane ∧ q.pa ≤ m.pa

theorem markedBy_mark (f : Flight) (m : PMark) : (f.mark m.reg m.lane m.pa).MarkedBy m := by
  unfold Flight.mark
  split
  next q hq =>
    have hkey : q.reg = m.reg ∧ q.lane = m.lane := by simpa using List.find?_some hq
    split
    next hle => exact ⟨q, List.mem_of_find?_eq_some hq, hkey.1, hkey.2, hle⟩
    next => exact ⟨_, List.mem_append_right _ (List.mem_singleton_self _), rfl, rfl, le_rfl⟩
  next => exact ⟨_, List.mem_append_right _ (List.mem_singleton_self _), rfl, rfl, le_rfl⟩

/-- A mark elsewhere leaves it. -/
theorem Flight.MarkedBy.mark_other {f : Flight} {m : PMark} (h : f.MarkedBy m) {r : Reg} {lane : Nat} (hne : ¬ (r = m.reg ∧ lane = m.lane)) (pa : Nat) :
    (f.mark r lane pa).MarkedBy m := by
  obtain ⟨q, hq, hr, hl, hp⟩ := h
  unfold Flight.mark
  split
  · split
    · exact ⟨q, hq, hr, hl, hp⟩
    · refine ⟨q, List.mem_append_left _ (List.mem_filter.2 ⟨hq, ?_⟩), hr, hl, hp⟩
      simp only [hr, hl, Bool.not_eq_true', Bool.and_eq_false_iff, decide_eq_false_iff_not]
      exact not_and_or.1 fun e => hne ⟨e.1.symm, e.2.symm⟩
  · exact ⟨q, List.mem_append_left _ hq, hr, hl, hp⟩

/-- Marks set in one go: each is there, where all that name one place name one address. -/
theorem markedBy_markAll {m : PMark} (hu : ∀ q ∈ ms, q.reg = m.reg → q.lane = m.lane → q = m) (f : Flight) (h : f.MarkedBy m ∨ m ∈ ms) :
    (f.markAll ms).MarkedBy m := by
  induction ms generalizing f with
  | nil => exact h.resolve_right List.not_mem_nil
  | cons q r ih =>
    refine ih (fun p hp => hu p (List.mem_cons_of_mem _ hp)) (f.mark q.reg q.lane q.pa) ?_
    by_cases hq : q.reg = m.reg ∧ q.lane = m.lane
    · obtain rfl := hu q (List.mem_cons_self ..) hq.1 hq.2
      exact .inl (markedBy_mark f q)
    · rcases h with h | h
      · exact .inl (h.mark_other hq q.pa)
      · rcases List.mem_cons.1 h with rfl | h
        · exact absurd ⟨rfl, rfl⟩ hq
        · exact .inr h

/-! ### The flight that an operation has left -/

theorem Flight.token_endOp (f : Flight) (o : Op) (k : Nat) : (f.endOp o).token k = f.token k - if o.sb = some k then 1 else 0 := by
  unfold Flight.endOp Flight.subTokenOpt
  cases o.sb with
  | none => simp [Flight.token]
  | some j =>
    show mget 0 (mset 0 f.tokens j (f.token j - 1)) k = _
    rw [mget_mset]
    by_cases h : k = j
    · subst h; simp
    · simp [h, Ne.symm h, Flight.token]

/-- Operation `o` of flight `x` is done in `g`: it is gone, its token has fallen, and FSTAT and the place stay, and EXM where no result names it. -/
structure OpDone (x g : Flight) (o : Op) : Prop where
  ops : g.ops = x.ops.filter fun p => decide (p.id ≠ o.id)
  token : ∀ k, g.token k = x.token k - if o.sb = some k then 1 else 0
  fstat : g.fstat = x.fstat
  exm : (∀ w ∈ o.writes, w.reg ≠ .exm) → g.exm = x.exm
  pc : g.pc = x.pc

theorem opDone_endOp (x : Flight) (o : Op) : OpDone x (x.endOp o) o := by
  refine ⟨rfl, x.token_endOp o, ?_, fun _ => ?_, ?_⟩ <;> simp

theorem RegsAre.endOp {V : Nat → Nat → Option Word} {S P : Nat → Option DWord} {X : Nat → Nat → Option Word} (h : RegsAre x g V S P X) (o : Op) :
    RegsAre x (g.endOp o) V S P X := by
  refine ⟨fun n l hl => ?_, fun n => ?_, fun n => ?_, fun n l hl => ?_⟩
  · exact Eq.trans (by simp [Flight.rdV]) (h.v n l hl)
  · exact Eq.trans (by simp [Flight.rdS]) (h.s n)
  · exact Eq.trans (by simp [Flight.rdP]) (h.p n)
  · exact Eq.trans (by simp [Flight.rdX]) (h.x n l hl)

/-- A flight once an operation's results and marks are written and its queue has taken the registers. -/
def Flight.landed (x : Flight) (o : Op) (ws : List RegWrite) (ms : List PMark) : Flight :=
  ((((ws.foldl Flight.regWrite x).markAll ms).endOp o).landTo o.seq o.dests)

/-- A flight without what the end of an operation changes beside registers: marks, the queue's captures, tokens and operations. -/
def blankDone (f : Flight) : Flight := { f with marks := [], residual := [], tokens := [], ops := [] }

theorem blankDone_landed (x : Flight) (o : Op) (ws : List RegWrite) (ms : List PMark) :
    blankDone (x.landed o ws ms) = blankDone (ws.foldl Flight.regWrite x) := by
  have hend : blankDone (x.landed o ws ms) = blankDone ((ws.foldl Flight.regWrite x).markAll ms) := by
    unfold Flight.landed Flight.landTo Flight.endOp Flight.subTokenOpt
    cases o.sb <;> rfl
  exact hend.trans (congrArg blankDone (blankMarks_markAll _ ms) :)

theorem blankResults_landed (x : Flight) (o : Op) (ws : List RegWrite) (ms : List PMark) :
    blankResults (blankDone (x.landed o ws ms)) = blankResults (blankDone x) :=
  (congrArg blankResults (blankDone_landed x o ws ms)).trans (congrArg blankDone (blankResults_regWrites x ws) :)

/-- Fields that two flights share when they differ at most in what landing reaches. -/
theorem fields_of_blankResults (h : blankResults (blankDone g) = blankResults (blankDone x)) :
    g.id = x.id ∧ g.kind = x.kind ∧ g.fstat = x.fstat ∧ g.pc = x.pc ∧ g.dead = x.dead ∧ g.exited = x.exited :=
  ⟨(congrArg Flight.id h :), (congrArg Flight.kind h :), (congrArg Flight.fstat h :), (congrArg Flight.pc h :), (congrArg Flight.dead h :),
    (congrArg Flight.exited h :)⟩

theorem landed_same (x : Flight) (o : Op) (ws : List RegWrite) (ms : List PMark) : (x.landed o ws ms).id = x.id ∧ (x.landed o ws ms).kind = x.kind ∧
    (x.landed o ws ms).fstat = x.fstat ∧ (x.landed o ws ms).pc = x.pc ∧ (x.landed o ws ms).dead = x.dead ∧ (x.landed o ws ms).exited = x.exited :=
  fields_of_blankResults (blankResults_landed x o ws ms)

theorem landed_tiles (x : Flight) (o : Op) (ws : List RegWrite) (ms : List PMark) : (x.landed o ws ms).tiles = (ws.foldl Flight.regWrite x).tiles :=
  (congrArg Flight.tiles (blankDone_landed x o ws ms) :)

theorem landed_ops (x : Flight) (o : Op) (ws : List RegWrite) (ms : List PMark) : (x.landed o ws ms).ops = x.ops.filter fun p => decide (p.id ≠ o.id) := by
  have hm : ((ws.foldl Flight.regWrite x).markAll ms).ops = x.ops :=
    (congrArg Flight.ops (blankMarks_markAll _ ms)).trans (congrArg Flight.ops (blankResults_regWrites x ws) :)
  exact congrArg (List.filter fun p => decide (p.id ≠ o.id)) hm

theorem landed_token (x : Flight) (o : Op) (ws : List RegWrite) (ms : List PMark) (k : Nat) :
    (x.landed o ws ms).token k = x.token k - if o.sb = some k then 1 else 0 := by
  have hm : ((ws.foldl Flight.regWrite x).markAll ms).tokens = x.tokens :=
    (congrArg Flight.tokens (blankMarks_markAll _ ms)).trans (congrArg Flight.tokens (blankResults_regWrites x ws) :)
  exact (Flight.token_endOp _ o k).trans (congrArg (fun m => mget 0 m k - if o.sb = some k then 1 else 0) hm)

theorem landed_regs {V : Nat → Nat → Option Word} {S P : Nat → Option DWord} {X : Nat → Nat → Option Word}
    (h : RegsAre x (ws.foldl Flight.regWrite x) V S P X) (o : Op) (ms : List PMark) : RegsAre x (x.landed o ws ms) V S P X := by
  have hb := blankDone_landed x o ws ms
  refine ⟨fun n l hl => ?_, fun n => ?_, fun n => ?_, fun n l hl => ?_⟩
  · exact (congrArg (fun f : Flight => f.rdV n l) hb).trans (h.v n l hl)
  · exact (congrArg (fun f : Flight => f.rdS n) hb).trans (h.s n)
  · exact (congrArg (fun f : Flight => f.rdP n) hb).trans (h.p n)
  · exact (congrArg (fun f : Flight => f.rdX n l) hb).trans (h.x n l hl)

/-- Registers as the writes alone leave them. -/
theorem landed_written (x : Flight) (o : Op) (ws : List RegWrite) (ms : List PMark) :
    (∀ n l, (x.landed o ws ms).rdV n l = (ws.foldl Flight.regWrite x).rdV n l) ∧ (∀ n, (x.landed o ws ms).rdS n = (ws.foldl Flight.regWrite x).rdS n) ∧
      ∀ n, (x.landed o ws ms).rdP n = (ws.foldl Flight.regWrite x).rdP n :=
  have hb := blankDone_landed x o ws ms
  ⟨fun n l => (congrArg (fun f : Flight => f.rdV n l) hb :), fun n => (congrArg (fun f : Flight => f.rdS n) hb :),
    fun n => (congrArg (fun f : Flight => f.rdP n) hb :)⟩

theorem landed_marks (x : Flight) (o : Op) (ws : List RegWrite) (ms : List PMark) :
    (x.landed o ws ms).marks = ((ws.foldl Flight.regWrite x).markAll ms).marks := by
  unfold Flight.landed Flight.landTo
  simp

theorem opDone_landed (hw : (∀ w ∈ o.writes, w.reg ≠ .exm) → ∀ w ∈ ws, w.reg ≠ .exm) : OpDone x (x.landed o ws ms) o := by
  obtain ⟨-, -, hfstat, hpc, -⟩ := landed_same x o ws ms
  exact ⟨landed_ops x o ws ms, landed_token x o ws ms, hfstat, fun h => (congrArg Flight.exm (blankDone_landed x o ws ms)).trans (exm_regWrites (hw h) x), hpc⟩

/-! ### The state that a landing leaves -/

/-- A flight of the state that belongs to no pair. -/
structure Alone (s : State) (x : Flight) : Prop where
  flight : s.flight? x.id = some x
  partner : s.partner x = none
  own : x.isShadow = false

theorem State.partner_congr (hf : t.flights = s.flights) (hid : y.id = x.id) (hk : y.kind = x.kind) : t.partner y = s.partner x := by
  unfold State.partner State.flight?
  rw [hf, hid, hk]

theorem Alone.of_flights (h : Alone s x) (hf : t.flights = s.flights) : Alone t x :=
  ⟨by rw [State.flight?, hf]; exact h.flight, (State.partner_congr hf rfl rfl).trans h.partner, h.own⟩

/-- The flight replaced by a later view of itself. -/
theorem Alone.set (h : Alone s x) (hid : y.id = x.id) (hk : y.kind = x.kind) : Alone (s.setFlight y) y where
  flight := hid ▸ State.flight?_setFlight_same h.flight hid
  partner := (State.partner_congr rfl hid hk).trans (partner_setFlight y hid hk h.partner h.own)
  own := by
    have := h.own
    unfold Flight.isShadow at this ⊢
    rwa [hk]

/-- An operation whose flight is no pair's, with results all its own and no trap to follow (R188, R234). -/
structure OpAlone (s : State) (x : Flight) (o : Op) : Prop where
  alone : Alone s x
  op : x.op? o.id = some o
  own : o.lv = false
  quiet : o.crossed = 0

theorem OpAlone.found (h : OpAlone s x o) : ((s.flight? x.id).bind fun x => (x.op? o.id).map fun o => (x, o)) = some (x, o) := by
  rw [h.alone.flight, Option.bind_some, h.op]
  rfl

/-- What landing does to a flight of no pair: lanes that read a dead lane die last. -/
theorem State.landOp_alone (h : Alone s x) (hq : o.crossed = 0) (hl : o.lost = []) (ws : List RegWrite) (ms : List PMark) :
    s.landOp x.id o ws ms = (s.setFlight (x.landed o ws ms)).killLanesOf x.id o.kills [] := by
  obtain ⟨hid, hkind, -⟩ := landed_same x o ws ms
  have hws : (ws.filter fun w => decide (w.reg ∉ o.lost)) = ws := List.filter_eq_self.2 fun w _ => by simp [hl]
  have hpair : (s.setFlight (x.landed o ws ms)).giveShadow (x.landed o ws ms) o.seq ws ms = s.setFlight (x.landed o ws ms) :=
    giveShadow_alone _ _ _ _ _ (h.set hid hkind).partner
  have hcross : ∀ r : State, r.crossTrap x.id o = r := fun r => by simp only [State.crossTrap, hq]
  unfold State.landOp
  rw [h.flight]
  dsimp only
  rw [hws, hcross, ite_self]
  change (if o.shared then (s.setFlight (x.landed o ws ms)).giveShadow (x.landed o ws ms) o.seq ws ms else s.setFlight (x.landed o ws ms)).killLanesOf
    x.id o.kills [] = _
  rw [hpair, ite_self]

/-- Instruction `i` lands operation `o` of flight `x`: home bytes stay, and `P` is of the state and the flight after it. -/
def Lands (s : State) (x : Flight) (o : Op) (i : Instr) (P : State → Flight → Prop) : Prop :=
  ∃ t g, exec i s = .next t ∧ t.flight? x.id = some g ∧ OpDone x g o ∧ (∀ a, t.homeByte a = s.homeByte a) ∧ P t g

theorem Lands.facts {i : Instr} {P : State → Flight → Prop} (h : Lands s x o i P) : ∃ t g, exec i s = .next t ∧ t.flight? x.id = some g
    ∧ g.ops = x.ops.filter (fun p => p.id ≠ o.id) ∧ (∀ k, g.token k = x.token k - if o.sb = some k then 1 else 0) ∧ g.fstat = x.fstat
    ∧ ((∀ w ∈ o.writes, w.reg ≠ .exm) → g.exm = x.exm) ∧ g.pc = x.pc ∧ (∀ a, t.homeByte a = s.homeByte a) ∧ P t g := by
  obtain ⟨t, g, he, hg, hd, hh, hp⟩ := h
  exact ⟨t, g, he, hg, hd.ops, hd.token, hd.fstat, hd.exm, hd.pc, hh, hp⟩

theorem Lands.imp {i : Instr} {P Q : State → Flight → Prop} (h : Lands s x o i P) (hPQ : ∀ t g, P t g → Q t g) : Lands s x o i Q := by
  obtain ⟨t, g, he, hg, hd, hh, hp⟩ := h
  exact ⟨t, g, he, hg, hd, hh, hPQ t g hp⟩

/-- An instruction that lands the operation with no lane to die, from a state `u` beside this one. -/
theorem lands_of_landOp {i : Instr} {P : State → Flight → Prop} (h : Alone s x) (hb : Beside s u) (hq : o.crossed = 0) (hl : o.lost = []) (hk : o.kills = 0)
    (he : exec i s = .next (u.landOp x.id o ws ms)) (hw : (∀ w ∈ o.writes, w.reg ≠ .exm) → ∀ w ∈ ws, w.reg ≠ .exm)
    (hP : P (u.setFlight (x.landed o ws ms)) (x.landed o ws ms)) : Lands s x o i P := by
  have hu : Alone u x := h.of_flights hb.flights
  rw [State.landOp_alone hu hq hl, hk, killLanesOf_none] at he
  exact ⟨_, _, he, State.flight?_setFlight_same hu.flight (landed_same x o ws ms).1, opDone_landed hw, hb.homes, hP⟩

/-- An instruction that ends an operation without results, from a state `u` in which at most the flight's wait has changed. -/
theorem lands_of_endOp {i : Instr} {P : State → Flight → Prop} {w : Option Wait} (hu : u.flight? x.id = some { x with wait := w })
    (hh : ∀ a, u.homeByte a = s.homeByte a) (he : exec i s = .next (u.updFlight x.id fun f => f.endOp o))
    (hP : P (u.setFlight (Flight.endOp { x with wait := w } o)) (Flight.endOp { x with wait := w } o)) : Lands s x o i P := by
  have hset : u.updFlight x.id (fun f => f.endOp o) = u.setFlight (Flight.endOp { x with wait := w } o) := State.updFlight_eq u x.id _ _ hu
  have hd := opDone_endOp { x with wait := w } o
  rw [hset] at he
  exact ⟨_, _, he, State.flight?_setFlight_same (x := { x with wait := w }) hu (Flight.endOp_same _ o).1,
    ⟨hd.ops, hd.token, hd.fstat, hd.exm, hd.pc⟩, hh, hP⟩

theorem endOp_unwritten (x : Flight) (w : Option Wait) (o : Op) : RegsAre x (Flight.endOp { x with wait := w } o) noV noS noS noV :=
  RegsAre.endOp (g := { x with wait := w }) ⟨fun _ _ _ => rfl, fun _ => rfl, fun _ => rfl, fun _ _ _ => rfl⟩ o

end Sys2Proof.Machine
end

section
/-! SUPPORT. RESULT_LAND and MMA_READBACK, kind by kind (R106, R153, R164, R320, R336, R337). -/

namespace Sys2Proof.Machine
open Sys2Proof

variable {s u : State} {x y : Flight} {o : Op}

theorem execResultLand_eq (h : OpAlone s x o) : exec (.resultLand x.id o.id) s = match o.kind with
    | .load | .zerr | .azld => if o.performed then .next (s.landLanes x o) else .next s
    | .atomic => if o.performed && !o.toZero then .next (s.landLanes x o) else .next s
    | .tileLoad => if o.performed then .next (s.landTile x o) else .next s
    | .result => .next (s.landResult x o)
    | .fence => .next (s.landFence x o)
    | .semAdd | .semSet | .semRd => .next (s.landSem x o)
    | .clean => .next (s.landClean x o)
    | .inval => .next (s.landInval x o)
    | .store | .tileStore | .pref | .zflush | .zdrop | .mma | .mgath | .lnch => .next s := by
  show execResultLand x.id o.id s = _
  unfold execResultLand
  rw [h.found]
  dsimp only
  rw [h.own]
  exact if_neg Bool.false_ne_true

/-! ### Lanes with a value each -/

/-- What a lane gives `n` registers: its value, or marks where it met poison. -/
def laneGives (n : Nat) (val : Access → Nat) (a : Access) : List RegWrite × List PMark :=
  match a.pois with
  | some p => ([], marksOfLane a.reg n a.lane p)
  | none => (regsOfLane a.reg n a.lane (val a), [])

theorem laneResult_load (hk : o.kind = .load) (hc : o.code < 8) (hz : o.toZero = false) :
    laneResult o = laneGives (tyRegs o.code) fun a => loadVal o.code a.got := by
  have hv : ¬ 16 ≤ o.code := by omega
  funext a
  cases hp : a.pois <;> simp [laneResult, loadLane, laneGives, hk, hz, hv, hp]

theorem laneResult_atomic (hk : o.kind = .atomic) : laneResult o = laneGives (atomSize o.code / 4) Access.got := by
  funext a
  cases hp : a.pois <;> simp [laneResult, laneGives, hk, hp]

theorem laneResult_zerr (hk : o.kind = .zerr) : laneResult o = laneGives 1 Access.got := by
  funext a
  cases hp : a.pois <;> simp [laneResult, laneGives, hk, hp]

/-- The vector registers of the lanes of `acc`: lane `l` of `n` registers from the one that its access names. -/
def lanesVec (acc : List Access) (n : Nat) (val : Access → Nat) (r l : Nat) : Option Word :=
  match acc.find? fun a => decide (a.lane = l) with
  | some a => if a.pois = none ∧ a.reg ≤ r ∧ r < a.reg + n then some (BitVec.ofNat 32 (val a / 2 ^ (32 * (r - a.reg)))) else none
  | none => none

def lanesWrites (acc : List Access) (n : Nat) (val : Access → Nat) : List RegWrite := acc.flatMap fun a => (laneGives n val a).1
def lanesMarks (acc : List Access) (n : Nat) (val : Access → Nat) : List PMark := acc.flatMap fun a => (laneGives n val a).2

section
variable {acc : List Access} {n : Nat} {val : Access → Nat}

theorem mem_lanesWrites {w : RegWrite} : w ∈ lanesWrites acc n val ↔
    ∃ a ∈ acc, a.pois = none ∧ ∃ k < n, w = ⟨.v (a.reg + k), 64 * (a.reg + k) + a.lane, val a / 2 ^ (32 * k) % 2 ^ 32⟩ := by
  unfold lanesWrites laneGives regsOfLane
  rw [List.mem_flatMap]
  refine exists_congr fun a => and_congr_right fun _ => ?_
  cases a.pois <;> simp [eq_comm]

theorem mem_lanesMarks {m : PMark} : m ∈ lanesMarks acc n val ↔ ∃ a ∈ acc, ∃ p, a.pois = some p ∧ ∃ k < n, m = ⟨.v (a.reg + k), a.lane, p⟩ := by
  unfold lanesMarks laneGives marksOfLane
  rw [List.mem_flatMap]
  refine exists_congr fun a => and_congr_right fun _ => ?_
  cases a.pois <;> simp [eq_comm]

theorem lanesWrites_noExm {w : RegWrite} (hw : w ∈ lanesWrites acc n val) : w.reg ≠ .exm := by
  obtain ⟨a, -, -, k, -, rfl⟩ := mem_lanesWrites.1 hw
  nofun

/-- The access of a lane is the only one of its lane. -/
theorem access_unique (hd : (acc.map Access.lane).Nodup) {a b : Access} (ha : a ∈ acc) (hb : b ∈ acc) (h : a.lane = b.lane) : a = b :=
  List.inj_on_of_nodup_map hd ha hb h

theorem lanesWrites_v (hd : (acc.map Access.lane).Nodup) (hl : ∀ a ∈ acc, a.lane < 64) (x : Flight) (r l : Nat) (hl64 : l < 64) :
    ((lanesWrites acc n val).foldl Flight.regWrite x).rdV r l = (lanesVec acc n val r l).getD (x.rdV r l) := by
  have hkey : ∀ a ∈ acc, ∀ k, (64 * (a.reg + k) + a.lane) % 64 = a.lane := fun a ha k => by rw [Nat.mul_add_mod, Nat.mod_eq_of_lt (hl a ha)]
  unfold lanesVec
  cases hf : acc.find? fun a => decide (a.lane = l) with
  | none =>
    refine rdV_writes_none _ _ _ _ hl64 fun w hw hh => ?_
    obtain ⟨a, ha, -, k, -, rfl⟩ := mem_lanesWrites.1 hw
    exact List.find?_eq_none.1 hf a ha (decide_eq_true ((hkey a ha k).symm.trans hh.2))
  | some a =>
    have ha : a ∈ acc := List.mem_of_find?_eq_some hf
    have hal : a.lane = l := by simpa using List.find?_some hf
    dsimp only
    split
    next hc =>
      obtain ⟨hp, hle, hlt⟩ := hc
      refine rdV_writes _ _ _ _ hl64 _ ⟨_, mem_lanesWrites.2 ⟨a, ha, hp, r - a.reg, by omega, rfl⟩, ?_, (hkey a ha _).trans hal⟩ fun w hw hh => ?_
      · exact congrArg Reg.v (by omega)
      · obtain ⟨b, hb, -, k, -, rfl⟩ := mem_lanesWrites.1 hw
        obtain rfl := access_unique hd hb ha (((hkey b hb k).symm.trans hh.2).trans hal.symm)
        obtain rfl : k = r - b.reg := by have := Reg.v.inj hh.1; omega
        exact BitVec.eq_of_toNat_eq (by simp)
    next hc =>
      refine rdV_writes_none _ _ _ _ hl64 fun w hw hh => hc ?_
      obtain ⟨b, hb, hp, k, hk, rfl⟩ := mem_lanesWrites.1 hw
      obtain rfl := access_unique hd hb ha (((hkey b hb k).symm.trans hh.2).trans hal.symm)
      have := Reg.v.inj hh.1
      exact ⟨hp, by omega, by omega⟩

theorem lanesWrites_regs (hd : (acc.map Access.lane).Nodup) (hl : ∀ a ∈ acc, a.lane < 64) (x : Flight) :
    RegsAre x ((lanesWrites acc n val).foldl Flight.regWrite x) (lanesVec acc n val) noS noS noV := by
  refine ⟨lanesWrites_v hd hl x, fun r => ?_, fun r => ?_, fun r l hl64 => ?_⟩
  · refine rdS_writes_none _ _ _ fun w hw hh => ?_
    obtain ⟨a, -, -, k, -, rfl⟩ := mem_lanesWrites.1 hw
    cases hh
  · refine rdP_writes_none _ _ _ fun w hw hh => ?_
    obtain ⟨a, -, -, k, -, rfl⟩ := mem_lanesWrites.1 hw
    cases hh
  · refine rdX_writes_none _ _ _ _ hl64 fun w hw hh => ?_
    obtain ⟨a, -, -, k, -, rfl⟩ := mem_lanesWrites.1 hw
    cases hh.1

/-- A lane that met poison marks each of its registers. -/
theorem lanesMarks_marked (hd : (acc.map Access.lane).Nodup) {a : Access} (ha : a ∈ acc) {p k : Nat} (hp : a.pois = some p) (hk : k < n) (f : Flight) :
    (f.markAll (lanesMarks acc n val)).MarkedBy ⟨.v (a.reg + k), a.lane, p⟩ := by
  refine markedBy_markAll (fun q hq hr hl => ?_) f (.inr (mem_lanesMarks.2 ⟨a, ha, p, hp, k, hk, rfl⟩))
  obtain ⟨b, hb, p', hp', j, -, rfl⟩ := mem_lanesMarks.1 hq
  obtain rfl := access_unique hd hb ha hl
  obtain rfl := Option.some.inj (hp'.symm.trans hp)
  exact congrArg (fun r => (⟨r, b.lane, p'⟩ : PMark)) hr

end

theorem State.landLanes_eq {n : Nat} {val : Access → Nat} (h : laneResult o = laneGives n val) (s : State) (x : Flight) :
    s.landLanes x o = (s.reportZero x o).landOp x.id o (lanesWrites o.acc n val) (lanesMarks o.acc n val) := by
  unfold State.landLanes lanesWrites lanesMarks
  rw [h]
  dsimp only
  rw [List.flatMap_map, List.flatMap_map]

theorem beside_reportZero (s : State) (x : Flight) (o : Op) : Beside s (s.reportZero x o) := by
  unfold State.reportZero
  split
  · exact .refl s
  · split
    · exact ⟨rfl, fun _ => rfl⟩
    · exact .refl s

/-- An operation whose lanes are all performed, each lane once, with no result lost and no lane to die. -/
structure LanesDone (s : State) (x : Flight) (o : Op) : Prop where
  here : OpAlone s x o
  nodup : (o.acc.map Access.lane).Nodup
  lane : ∀ a ∈ o.acc, a.lane < 64
  kept : o.lost = []
  alive : o.kills = 0

theorem LanesDone.lands {n : Nat} {val : Access → Nat} (h : LanesDone s x o) (hr : laneResult o = laneGives n val)
    (he : exec (.resultLand x.id o.id) s = .next (s.landLanes x o)) : Lands s x o (.resultLand x.id o.id) fun _ g =>
      RegsAre x g (lanesVec o.acc n val) noS noS noV ∧
        ∀ a ∈ o.acc, ∀ p, a.pois = some p → ∀ k < n, ∃ m ∈ g.marks, m.reg = .v (a.reg + k) ∧ m.lane = a.lane ∧ m.pa ≤ p := by
  rw [State.landLanes_eq hr] at he
  refine lands_of_landOp h.here.alone (beside_reportZero s x o) h.here.quiet h.kept h.alive he (fun _ _ => lanesWrites_noExm)
    ⟨landed_regs (lanesWrites_regs h.nodup h.lane x) _ _, fun a ha p hp k hk => ?_⟩
  rw [landed_marks]
  exact lanesMarks_marked h.nodup ha hp hk _

theorem LanesDone.load (h : LanesDone s x o) (hk : o.kind = .load) (hp : o.performed = true) (hc : o.code < 8) (hz : o.toZero = false) :
    Lands s x o (.resultLand x.id o.id) fun _ g => RegsAre x g (lanesVec o.acc (tyRegs o.code) fun a => loadVal o.code a.got) noS noS noV ∧
      ∀ a ∈ o.acc, ∀ p, a.pois = some p → ∀ k < tyRegs o.code, ∃ m ∈ g.marks, m.reg = .v (a.reg + k) ∧ m.lane = a.lane ∧ m.pa ≤ p :=
  h.lands (laneResult_load hk hc hz) (by rw [execResultLand_eq h.here, hk]; exact if_pos hp)

theorem LanesDone.atomic (h : LanesDone s x o) (hk : o.kind = .atomic) (hp : o.performed = true) (hz : o.toZero = false) :
    Lands s x o (.resultLand x.id o.id) fun _ g => RegsAre x g (lanesVec o.acc (atomSize o.code / 4) Access.got) noS noS noV ∧
      ∀ a ∈ o.acc, ∀ p, a.pois = some p → ∀ k < atomSize o.code / 4, ∃ m ∈ g.marks, m.reg = .v (a.reg + k) ∧ m.lane = a.lane ∧ m.pa ≤ p :=
  h.lands (laneResult_atomic hk) (by rw [execResultLand_eq h.here, hk]; exact if_pos (by rw [hp, hz]; rfl))

theorem LanesDone.zerr (h : LanesDone s x o) (hk : o.kind = .zerr) (hp : o.performed = true) :
    Lands s x o (.resultLand x.id o.id) fun _ g => RegsAre x g (lanesVec o.acc 1 Access.got) noS noS noV ∧
      ∀ a ∈ o.acc, ∀ p, a.pois = some p → ∀ k < 1, ∃ m ∈ g.marks, m.reg = .v (a.reg + k) ∧ m.lane = a.lane ∧ m.pa ≤ p :=
  h.lands (laneResult_zerr hk) (by rw [execResultLand_eq h.here, hk]; exact if_pos hp)

/-- Lanes still to be performed hold the landing back. -/
theorem resultLand_unperformed (h : OpAlone s x o) (hk : o.kind = .load ∨ o.kind = .atomic ∨ o.kind = .zerr ∨ o.kind = .azld ∨ o.kind = .tileLoad)
    (hp : o.performed = false) : exec (.resultLand x.id o.id) s = .next s := by
  rw [execResultLand_eq h, hp]
  rcases hk with hk | hk | hk | hk | hk <;> rw [hk] <;> rfl

/-! ### Results known before -/

theorem resultLand_result (h : OpAlone s x o) (hk : o.kind = .result) : exec (.resultLand x.id o.id) s = .next (s.landResult x o) := by
  rw [execResultLand_eq h, hk]

theorem landResult_lands (h : OpAlone s x o) (hk : o.kind = .result) (hl : o.lost = []) (hkills : o.kills = 0) :
    Lands s x o (.resultLand x.id o.id) fun _ g => (∀ n l, g.rdV n l = (o.writes.foldl Flight.regWrite x).rdV n l) ∧
      (∀ n, g.rdS n = (o.writes.foldl Flight.regWrite x).rdS n) ∧ (∀ n, g.rdP n = (o.writes.foldl Flight.regWrite x).rdP n) ∧
      g.tiles = (o.writes.foldl Flight.regWrite x).tiles := by
  obtain ⟨hv, hs, hp⟩ := landed_written x o o.writes (if o.acquired && decide (o.sym ≠ 0) then [⟨.tile o.num, 0, o.sym - 1⟩] else [])
  exact lands_of_landOp h.alone (.refl s) h.quiet hl hkills (resultLand_result h hk) id ⟨hv, hs, hp, landed_tiles ..⟩

/-- A tile that met no poison. -/
theorem landTile_lands (h : OpAlone s x o) (hk : o.kind = .tileLoad) (hd : o.performed = true) (hl : o.lost = []) (hkills : o.kills = 0) :
    Lands s x o (.resultLand x.id o.id) fun _ g => g.tiles = (o.writes.foldl Flight.regWrite x).tiles :=
  lands_of_landOp h.alone (.refl s) h.quiet hl hkills (by rw [execResultLand_eq h, hk]; exact if_pos hd) id (landed_tiles ..)

/-! ### Lanes that die with a result (R249) -/

theorem live_killLanes (f : Flight) (m : DWord) : (f.killLanes (m &&& ~~~f.dead)).live = f.live &&& ~~~m := by
  show ~~~((f.dead ||| m &&& ~~~f.dead) ||| f.exited) = ~~~(f.dead ||| f.exited) &&& ~~~m
  ext i hi
  simp only [BitVec.getElem_not, BitVec.getElem_or, BitVec.getElem_and]
  cases f.dead[i] <;> cases f.exited[i] <;> cases m[i] <;> rfl

theorem dead_killLanes (f : Flight) (m : DWord) : (f.killLanes (m &&& ~~~f.dead)).dead = f.dead ||| m := by
  show f.dead ||| m &&& ~~~f.dead = f.dead ||| m
  ext i hi
  simp only [BitVec.getElem_not, BitVec.getElem_or, BitVec.getElem_and]
  cases f.dead[i] <;> cases m[i] <;> rfl

/-- Lanes of a flight of no pair die, and one at least stays. -/
theorem State.killLanesOf_alone (h : Alone s x) {m : DWord} (hm : m &&& ~~~x.dead ≠ 0) (hl : x.live &&& ~~~m ≠ 0) (fr : List DWord) :
    ∃ y, (s.killLanesOf x.id m fr).flight? x.id = some y ∧ (∀ a, (s.killLanesOf x.id m fr).homeByte a = s.homeByte a) ∧ y.dead = x.dead ||| m ∧
      y.ops = x.ops ∧ ∀ n l, y.rdV n l = x.rdV n l := by
  have hp : (s.setFlight (x.killLanes (m &&& ~~~x.dead))).partner x = none := partner_setFlight _ rfl rfl h.partner h.own
  have hpr : ∀ p, ((s.setFlight (x.killLanes (m &&& ~~~x.dead))).reportFlight x 5 p fr).partner x = none := fun p =>
    (State.partner_congr rfl rfl rfl).trans hp
  have hk : s.killLanesOf x.id m fr = (s.setFlight (x.killLanes (m &&& ~~~x.dead))).reportFlight x 5
      [(m &&& ~~~x.dead).toNat, (x.dead ||| m &&& ~~~x.dead).toNat, x.fidx] fr := by
    unfold State.killLanesOf
    rw [h.flight]
    dsimp only
    rw [if_neg hm, hp]
    dsimp only
    rw [hpr]
    exact if_neg fun e => hl ((live_killLanes x m).symm.trans e.1)
  rw [hk]
  exact ⟨_, State.flight?_setFlight_same (y := x.killLanes (m &&& ~~~x.dead)) h.flight rfl, fun _ => rfl, dead_killLanes x m, rfl, fun _ _ => rfl⟩

theorem landResult_kills (h : OpAlone s x o) (hk : o.kind = .result) (hl : o.lost = []) (hm : o.kills &&& ~~~x.dead ≠ 0) (hlive : x.live &&& ~~~o.kills ≠ 0) :
    ∃ t g, exec (.resultLand x.id o.id) s = .next t ∧ t.flight? x.id = some g ∧ (∀ a, t.homeByte a = s.homeByte a) ∧ g.dead = x.dead ||| o.kills
      ∧ g.ops = x.ops.filter (fun p => decide (p.id ≠ o.id)) ∧ ∀ n l, g.rdV n l = (o.writes.foldl Flight.regWrite x).rdV n l := by
  have he := resultLand_result h hk
  unfold State.landResult at he
  rw [State.landOp_alone h.alone h.quiet hl] at he
  generalize (if o.acquired && decide (o.sym ≠ 0) then [(⟨.tile o.num, 0, o.sym - 1⟩ : PMark)] else []) = ms at he
  obtain ⟨hid, hkind, -, -, hdead, hexit⟩ := landed_same x o o.writes ms
  have hops := landed_ops x o o.writes ms
  obtain ⟨hv, -⟩ := landed_written x o o.writes ms
  generalize x.landed o o.writes ms = y at *
  obtain ⟨g, hg, hh, hd, ho, hr⟩ := State.killLanesOf_alone (h.alone.set hid hkind) (m := o.kills) (by rwa [hdead])
    (by unfold Flight.live at *; rwa [hdead, hexit]) []
  rw [hid] at hg hh
  exact ⟨_, g, he, hg, hh, hd.trans (congrArg (· ||| o.kills) hdead), ho.trans hops, fun n l => (hr n l).trans (hv n l)⟩

/-! ### Fences (R153) -/

theorem acquire_drops {core scope : Nat} (h : 2 ≤ scope) : ∀ c ∈ (s.acquire core scope).mem.l1, c.unit ≠ core := by
  have hcore : ∀ c ∈ (s.discardCore core).mem.l1, c.unit ≠ core := fun c hc e => by simpa [e] using (List.mem_filter.1 hc).2
  unfold State.acquire
  rw [if_neg (by omega)]
  split <;> exact hcore

theorem acquire_fgen {core scope : Nat} (h : 4 ≤ scope) (hw : s.fgen (dieOf core) + 1 < 2 ^ 16) :
    (s.acquire core scope).fgen (dieOf core) = s.fgen (dieOf core) + 1 := by
  unfold State.acquire
  rw [if_neg (by omega), if_neg (by omega)]
  exact (mget_mset_same ..).trans (Nat.mod_eq_of_lt hw)

theorem beside_acquire (s : State) (core scope : Nat) : Beside s (s.acquire core scope) := by
  refine ⟨?_, (settled_acquire s core scope).homes⟩
  unfold State.acquire
  split
  · rfl
  · split <;> rfl

theorem resultLand_fence (h : OpAlone s x o) (hk : o.kind = .fence) : exec (.resultLand x.id o.id) s = .next (s.landFence x o) := by
  rw [execResultLand_eq h, hk]

theorem landFence_lands (h : OpAlone s x o) (hk : o.kind = .fence) (hr : s.releaseOk x o.seq o.scope (s.beforeOf x o.seq) = true) :
    Lands s x o (.resultLand x.id o.id) fun t g => RegsAre x g noV noS noS noV ∧ (2 ≤ o.scope → ∀ c ∈ t.mem.l1, c.unit ≠ x.core) ∧
      (4 ≤ o.scope → s.fgen (dieOf x.core) + 1 < 2 ^ 16 → t.fgen (dieOf x.core) = s.fgen (dieOf x.core) + 1) := by
  have hb := beside_acquire s x.core o.scope
  exact lands_of_endOp (w := x.wait) (h.alone.of_flights hb.flights).flight hb.homes
    ((resultLand_fence h hk).trans (congrArg _ (if_pos hr))) ⟨endOp_unwritten x x.wait o, acquire_drops, acquire_fgen⟩

theorem landFence_waits (h : OpAlone s x o) (hk : o.kind = .fence) (hr : s.releaseOk x o.seq o.scope (s.beforeOf x o.seq) = false) :
    exec (.resultLand x.id o.id) s = .next s :=
  (resultLand_fence h hk).trans (congrArg _ (if_neg (by rw [hr]; nofun)))

/-! ### Semaphores (R106, R164) -/

/-- A relaxed semaphore operation that is first on its register. -/
structure SemReady (s : State) (x : Flight) (o : Op) (a : Access) (r : List Access) (n : Nat) (w : Workgroup) : Prop where
  here : OpAlone s x o
  acc : o.acc = a :: r
  space : a.space = .loc n
  wg : s.wg? n = some w
  first : x.earlierOn o.seq n a.pa 1 true = false
  free : x.acquiresBefore o.seq = false
  ord : o.ord = 0

theorem resultLand_sem (h : OpAlone s x o) (hk : o.kind = .semAdd ∨ o.kind = .semSet ∨ o.kind = .semRd) :
    exec (.resultLand x.id o.id) s = .next (s.landSem x o) := by
  rw [execResultLand_eq h]
  rcases hk with hk | hk | hk <;> rw [hk]

theorem landSem_waits (h : OpAlone s x o) {a : Access} {r : List Access} {n : Nat} (ha : o.acc = a :: r) (hsp : a.space = .loc n)
    (hk : o.kind = .semAdd ∨ o.kind = .semSet ∨ o.kind = .semRd) (hw : x.earlierOn o.seq n a.pa 1 true = true ∨ x.acquiresBefore o.seq = true) :
    exec (.resultLand x.id o.id) s = .next s := by
  refine (resultLand_sem h hk).trans (congrArg _ ?_)
  unfold State.landSem
  rw [ha]
  dsimp only
  rw [hsp]
  exact if_pos ((Bool.or_eq_true ..).mpr hw)

/-- A waiter changes its wait alone. -/
theorem wakeSem_wait (w : Workgroup) (n : Nat) (f : Flight) : ∃ z, wakeSem w n f = { f with wait := z } := by
  unfold wakeSem
  split
  · split
    · exact ⟨_, rfl⟩
    · exact ⟨f.wait, rfl⟩
  · exact ⟨f.wait, rfl⟩

theorem wakeSem_id (w : Workgroup) (n : Nat) (f : Flight) : (wakeSem w n f).id = f.id := by
  obtain ⟨z, hz⟩ := wakeSem_wait w n f
  rw [hz]

/-- A scalar register written whole. -/
theorem scalarWrite_regs (x : Flight) (d : Nat) (v : Word) :
    RegsAre x ([(⟨.s d, d, v.toNat⟩ : RegWrite)].foldl Flight.regWrite x) noV (fun m => if m = d then some (v.zeroExtend 64) else none) noS noV := by
  refine ⟨fun m l hl => ?_, fun m => ?_, fun m => ?_, fun m l hl => ?_⟩
  · simp [rdV_regWrite _ _ _ _ hl, noV]
  · simp only [List.foldl_cons, List.foldl_nil, rdS_regWrite, Reg.s.injEq]
    by_cases h : m = d
    · rw [if_pos h.symm, if_pos h]
      exact BitVec.eq_of_toNat_eq (by simp)
    · rw [if_neg (Ne.symm h), if_neg h]
      rfl
  · simp [rdP_regWrite, noS]
  · simp [rdX_regWrite _ _ _ _ hl, noV]

/-- One operation of the unit: the register's new value, the other registers, and the flight, which may wake. -/
theorem State.semStep_steps {n : Nat} {w : Workgroup} (hw : s.wg? n = some w) (hx : s.flight? x.id = some x) (pa : Nat) (v : Sem → Sem) :
    (∃ z, (s.semStep n pa v).flight? x.id = some { x with wait := z }) ∧ (s.semStep n pa v).mem = s.mem ∧
      ∃ w', (s.semStep n pa v).wg? n = some w' ∧ w'.sem pa = v (w.sem pa) ∧ ∀ m, m ≠ pa → w'.sem m = w.sem m := by
  obtain rfl : w.id = n := findBy_key _ _ _ _ hw
  unfold State.semStep
  rw [hw]
  dsimp only
  refine ⟨?_, rfl, { w with sems := mset Sem.blank w.sems pa (v (w.sem pa)) }, ?_, mget_mset_same .., fun m hm => mget_mset_other _ _ _ hm⟩
  · obtain ⟨z, hz⟩ := wakeSem_wait { w with sems := mset Sem.blank w.sems pa (v (w.sem pa)) } pa x
    exact ⟨z, hz ▸ (findBy_map (wakeSem_id _ pa) s.flights x.id).trans (congrArg (Option.map _) hx)⟩
  · exact findBy_isSome_replBy Workgroup.id s.wgs w.id _ rfl w hw

namespace SemReady
variable {a : Access} {r : List Access} {n : Nat} {w : Workgroup}

/-- Past the waits that `landSem` asks for, the operation acts. -/
theorem landSem_acts (h : SemReady s x o a r n w) : s.landSem x o = match o.kind with
    | .semRd => (s.observe x.id o.seq (w.sem a.pa).last).landOp x.id o
        (o.dests.filterMap fun r => match r with | .s m => some ⟨.s m, m, (w.sem a.pa).val.toNat⟩ | _ => none) []
    | .semAdd => (s.semStep n a.pa fun m => { m with val := m.val + BitVec.ofNat 32 a.data, last := [] }).updFlight x.id fun f => f.endOp o
    | _ => (s.semStep n a.pa fun _ => ⟨BitVec.ofNat 32 a.data, none, [], []⟩).updFlight x.id fun f => f.endOp o := by
  have hno : ¬ (x.earlierOn o.seq n a.pa 1 true || x.acquiresBefore o.seq) = true := by rw [h.first, h.free]; nofun
  unfold State.landSem
  rw [h.acc]
  dsimp only
  rw [h.space]
  dsimp only
  rw [if_neg hno, h.ord, h.wg]
  rfl

theorem steps (h : SemReady s x o a r n w) {v : Sem → Sem}
    (he : exec (.resultLand x.id o.id) s = .next ((s.semStep n a.pa v).updFlight x.id fun f => f.endOp o)) :
    Lands s x o (.resultLand x.id o.id) fun t _ => ∃ w', t.wg? n = some w' ∧ w'.sem a.pa = v (w.sem a.pa) ∧ ∀ m, m ≠ a.pa → w'.sem m = w.sem m := by
  obtain ⟨⟨z, hz⟩, hmem, hwg⟩ := State.semStep_steps h.wg h.here.alone.flight a.pa v
  exact lands_of_endOp hz (State.homeByte_congr (congrArg _ hmem) (congrArg _ hmem)) he hwg

theorem add (h : SemReady s x o a r n w) (hk : o.kind = .semAdd) : Lands s x o (.resultLand x.id o.id) fun t _ => ∃ w', t.wg? n = some w' ∧
    w'.sem a.pa = { w.sem a.pa with val := (w.sem a.pa).val + BitVec.ofNat 32 a.data, last := [] } ∧ ∀ m, m ≠ a.pa → w'.sem m = w.sem m :=
  h.steps (v := fun m => { m with val := m.val + BitVec.ofNat 32 a.data, last := [] })
    ((resultLand_sem h.here (.inl hk)).trans (congrArg _ (by rw [h.landSem_acts, hk])))

theorem set (h : SemReady s x o a r n w) (hk : o.kind = .semSet) : Lands s x o (.resultLand x.id o.id) fun t _ => ∃ w', t.wg? n = some w' ∧
    w'.sem a.pa = ⟨BitVec.ofNat 32 a.data, none, [], []⟩ ∧ ∀ m, m ≠ a.pa → w'.sem m = w.sem m :=
  h.steps (v := fun _ => ⟨BitVec.ofNat 32 a.data, none, [], []⟩) ((resultLand_sem h.here (.inr (.inl hk))).trans (congrArg _ (by rw [h.landSem_acts, hk])))

theorem read (h : SemReady s x o a r n w) (hk : o.kind = .semRd) (hl : o.lost = []) (hkills : o.kills = 0) {d : Nat} (hd : o.dests = [.s d]) :
    Lands s x o (.resultLand x.id o.id) fun t g => t.wgs = s.wgs ∧
      RegsAre x g noV (fun m => if m = d then some ((w.sem a.pa).val.zeroExtend 64) else none) noS noV := by
  let y : Flight := { x with obs := (w.sem a.pa).last.foldl (noteObs o.seq) x.obs }
  have hy : Alone (s.setFlight y) y := h.here.alone.set (y := y) rfl rfl
  have hobs : s.observe x.id o.seq (w.sem a.pa).last = s.setFlight y := State.updFlight_eq s x.id _ x h.here.alone.flight
  have he : exec (.resultLand x.id o.id) s = .next ((s.setFlight y).landOp y.id o [⟨.s d, d, (w.sem a.pa).val.toNat⟩] []) := by
    rw [resultLand_sem h.here (.inr (.inr hk)), h.landSem_acts, hk, hd, hobs]
    rfl
  rw [State.landOp_alone hy h.here.quiet hl, hkills, killLanesOf_none] at he
  have hdone : OpDone y (y.landed o [⟨.s d, d, (w.sem a.pa).val.toNat⟩] []) o := opDone_landed fun _ v hv => by
    rw [List.mem_singleton.1 hv]
    nofun
  have hregs := landed_regs (scalarWrite_regs y d (w.sem a.pa).val) o []
  exact ⟨_, _, he, State.flight?_setFlight_same (x := y) hy.flight (landed_same y o _ []).1, ⟨hdone.ops, hdone.token, hdone.fstat, hdone.exm, hdone.pc⟩,
    fun _ => rfl, rfl, ⟨hregs.v, hregs.s, hregs.p, hregs.x⟩⟩

end SemReady

/-! ### CLEAN and INVAL (R320) -/

theorem wholeLines_free (h : ∀ a ∈ o.acc, x.mayTouch o a.wholeLine = true) : ¬ (!(o.acc.map Access.wholeLine).all fun a => x.mayTouch o a) = true := by
  have hall : ((o.acc.map Access.wholeLine).all fun a => x.mayTouch o a) = true := by
    rw [List.all_map]
    exact List.all_eq_true.2 h
  rw [hall]
  nofun

/-- CLEAN short of the system's scope, with no write of anyone's on its way. -/
theorem landClean_lands (h : OpAlone s x o) (hk : o.kind = .clean) (hf : ∀ a ∈ o.acc, x.mayTouch o a.wholeLine = true) (hq : x.wq = [])
    (ht : s.mem.transit = []) (hs : o.scope ≠ 5) : Lands s x o (.resultLand x.id o.id) fun _ g => RegsAre x g noV noS noS noV := by
  have he : s.landClean x o = s.updFlight x.id fun f => f.endOp o := by
    unfold State.landClean
    dsimp only
    rw [hq, ht, if_neg hs]
    refine if_neg ?_
    rw [Bool.or_eq_true, not_or]
    exact ⟨wholeLines_free hf, nofun⟩
  refine lands_of_endOp (u := s) (w := x.wait) h.alone.flight (fun _ => rfl) ?_ (endOp_unwritten x x.wait o)
  rw [execResultLand_eq h, hk, ← he]

/-- What INVAL at a scope drops for one of its lines. -/
def State.invalLine (s : State) (core scope : Nat) (a : Access) : State :=
  if scope ≤ 1 then s
  else
    let s := s.dropL1 core a.lineKey
    match a.space with
    | .view _ _ => s
    | _ =>
      let s := { s with mem := { s.mem with l1 := s.mem.l1.filter fun c => !(c.ro && decide (c.line = a.lineKey) && decide (clusterOf c.unit = clusterOf core)) } }
      if 4 ≤ scope then s.dropFar (dieOf core) (lineOf a.pa) else s

theorem State.landInval_eq (hf : ∀ a ∈ o.acc, x.mayTouch o a.wholeLine = true) :
    s.landInval x o = ((o.acc.map Access.wholeLine).foldl (fun s a => s.invalLine x.core o.scope a) s).updFlight x.id fun f => f.endOp o :=
  if_neg (wholeLines_free hf)

/-- A line's own copy is gone, and no copy is new. -/
theorem invalLine_drops {core scope : Nat} (h : 2 ≤ scope) (a : Access) :
    ∀ c ∈ (s.invalLine core scope a).mem.l1, c ∈ s.mem.l1 ∧ ¬ (c.unit = core ∧ c.line = a.lineKey) := by
  have hown : ∀ c ∈ (s.dropL1 core a.lineKey).mem.l1, c ∈ s.mem.l1 ∧ ¬ (c.unit = core ∧ c.line = a.lineKey) := fun c hc => by
    obtain ⟨hin, hno⟩ := List.mem_filter.1 hc
    exact ⟨hin, not_and_or.2 (by simpa using hno)⟩
  unfold State.invalLine
  rw [if_neg (by omega)]
  dsimp only
  split
  · exact hown
  · split <;> exact fun c hc => hown c (List.mem_filter.1 hc).1

theorem beside_invalLine (s : State) (core scope : Nat) (a : Access) : Beside s (s.invalLine core scope a) := by
  unfold State.invalLine
  split
  · exact .refl s
  · dsimp only
    split
    · exact ⟨rfl, fun _ => rfl⟩
    · split <;> exact ⟨rfl, fun _ => rfl⟩

theorem foldl_invalLine_drops {core scope : Nat} (h : 2 ≤ scope) (l : List Access) (s : State) :
    ∀ c ∈ (l.foldl (fun s a => s.invalLine core scope a) s).mem.l1, c ∈ s.mem.l1 ∧ ∀ a ∈ l, ¬ (c.unit = core ∧ c.line = a.lineKey) := by
  induction l generalizing s with
  | nil => exact fun c hc => ⟨hc, nofun⟩
  | cons a r ih =>
    intro c hc
    obtain ⟨hin, hrest⟩ := ih (s.invalLine core scope a) c hc
    obtain ⟨hold, hown⟩ := invalLine_drops h a c hin
    exact ⟨hold, List.forall_mem_cons.2 ⟨hown, hrest⟩⟩

theorem landInval_lands (h : OpAlone s x o) (hk : o.kind = .inval) (hf : ∀ a ∈ o.acc, x.mayTouch o a.wholeLine = true) (hs : 2 ≤ o.scope) :
    Lands s x o (.resultLand x.id o.id) fun t g => RegsAre x g noV noS noS noV ∧
      ∀ a ∈ o.acc, ∀ c ∈ t.mem.l1, ¬ (c.unit = x.core ∧ c.line = a.wholeLine.lineKey) := by
  have hb : Beside s ((o.acc.map Access.wholeLine).foldl (fun s a => s.invalLine x.core o.scope a) s) :=
    beside_foldl (fun s a => beside_invalLine s x.core o.scope a) _ s
  refine lands_of_endOp (w := x.wait) (h.alone.of_flights hb.flights).flight hb.homes ?_ ⟨endOp_unwritten x x.wait o, fun a ha c hc =>
    (foldl_invalLine_drops hs (o.acc.map Access.wholeLine) s c hc).2 _ (List.mem_map_of_mem ha)⟩
  rw [execResultLand_eq h, hk, ← State.landInval_eq hf]

/-! ### Accumulators (R336, R337) -/

/-- An earlier MMA of the flight still has registers of this one. -/
def Flight.chained (x : Flight) (o : Op) : Bool :=
  x.ops.any fun p => decide (p.kind = .mma) && decide (p.seq < o.seq) && p.dests.any fun r => decide (r ∈ o.dests)

theorem Flight.chained_iff (x : Flight) (o : Op) : x.chained o = true ↔ ∃ p ∈ x.ops, p.kind = .mma ∧ p.seq < o.seq ∧ ∃ r ∈ p.dests, r ∈ o.dests := by
  simp [Flight.chained, and_assoc]

theorem mmaReadback_lands (h : OpAlone s x o) (hk : o.kind = .mma) (hl : o.lost = []) (hkills : o.kills = 0) (hc : x.chained o = false) :
    Lands s x o (.mmaReadback x.id o.id) fun _ g => ∀ n l, g.rdV n l = (o.writes.foldl Flight.regWrite x).rdV n l := by
  refine lands_of_landOp h.alone (.refl s) h.quiet hl hkills (ms := []) ?_ id (landed_written x o o.writes []).1
  show execMmaReadback x.id o.id s = _
  unfold execMmaReadback
  rw [h.found]
  exact if_neg (not_or.2 ⟨not_not.2 hk, Bool.eq_false_iff.1 hc⟩)

theorem mmaReadback_waits (h : OpAlone s x o) (hc : x.chained o = true) : exec (.mmaReadback x.id o.id) s = .next s := by
  show execMmaReadback x.id o.id s = _
  unfold execMmaReadback
  rw [h.found]
  exact if_pos (.inr hc)

end Sys2Proof.Machine
end

section
open Sys2Proof Sys2Proof.Machine

/-- Settles O49: each kind of operation by the lemma about its landing. Registers are those that the writes give in the flight, since ending the
operation and setting marks leave registers as they are; a lane's register is its own because each lane has one access. -/
theorem operationsLandInRegistersTokensAndMarks : Obligations.OperationsLandInRegistersTokensAndMarks := by
  unfold Obligations.OperationsLandInRegistersTokensAndMarks
  intro s f op x o hx ho hlv hcross hpart hown
  obtain rfl : x.id = f := State.flight?_id s f x hx
  obtain rfl : o.id = op := findBy_key _ _ _ _ ho
  have h : OpAlone s x o := ⟨⟨hx, hpart, hown⟩, ho, hlv, hcross⟩
  refine ⟨?load, ?atomic, ?zerr, ?unperformed, ?result, ?kills, ?tile, ?fence, ?fenceWaits, ?sem, ?semWaits, ?clean, ?inval, ?mma, ?mmaWaits⟩
  case load =>
    rintro hk hc hz ⟨hd, hl, hp, hlost, hkills⟩
    exact (LanesDone.load ⟨h, hd, hl, hlost, hkills⟩ hk hp hc hz).facts
  case atomic =>
    rintro hk hz ⟨hd, hl, hp, hlost, hkills⟩
    exact ((LanesDone.atomic ⟨h, hd, hl, hlost, hkills⟩ hk hp hz).imp fun _ _ hg => hg.1).facts
  case zerr =>
    rintro hk ⟨hd, hl, hp, hlost, hkills⟩
    exact ((LanesDone.zerr ⟨h, hd, hl, hlost, hkills⟩ hk hp).imp fun _ _ hg => hg.1).facts
  case unperformed => exact resultLand_unperformed h
  case result =>
    intro hk hlost hkills _
    exact Lands.facts ((landResult_lands h hk hlost hkills).imp fun _ _ ⟨hv, hrest⟩ => ⟨fun n l _ => hv n l, hrest⟩)
  case kills =>
    intro hk hlost hm hlive
    obtain ⟨t, g, he, hg, hh, hdead, hops, hv⟩ := landResult_kills h hk hlost hm hlive
    exact ⟨t, g, he, hg, hh, hdead, hops, fun n l _ => hv n l⟩
  case tile =>
    intro hk hp hkills hlost _
    exact (landTile_lands h hk hp hlost hkills).facts
  case fence =>
    intro hk hr
    exact (landFence_lands h hk hr).facts
  case fenceWaits => exact landFence_waits h
  case sem =>
    intro n a r w ha hsp hw hfirst hfree hord
    have hs : SemReady s x o a r n w := ⟨h, ha, hsp, hw, hfirst, hfree, hord⟩
    refine ⟨fun hk => ?_, fun hk => (hs.set hk).facts, fun hk hlost hkills d hd => (hs.read hk hlost hkills hd).facts⟩
    exact Lands.facts ((hs.add hk).imp fun _ _ ⟨w', hw', hval, hrest⟩ => ⟨w', hw', by rw [hval], by rw [hval], hrest⟩)
  case semWaits =>
    intro n a r ha hsp hk hw
    exact landSem_waits h ha hsp hk hw
  case clean =>
    intro hk hf hq ht hs
    exact (landClean_lands h hk hf hq ht hs).facts
  case inval =>
    intro hk hf hs
    exact (landInval_lands h hk hf hs).facts
  case mma =>
    intro hk hlost hkills hc
    have hno : x.chained o = false := Bool.eq_false_iff.2 fun hch => by
      obtain ⟨p, hp, hpk, hseq, r, hr, hro⟩ := (x.chained_iff o).1 hch
      exact hc p hp hpk hseq r hr hro
    exact Lands.facts ((mmaReadback_lands h hk hlost hkills hno).imp fun _ _ hv n l _ => hv n l)
  case mmaWaits => exact fun _ hc => mmaReadback_waits h ((x.chained_iff o).2 hc)

end

section
/-! SUPPORT. Commands, workgroups and launches by their names, and what an allocation and its control block hold after writes (R116, R135, R137). -/

namespace Sys2Proof.Machine

open Sys2Proof

variable {α β : Type} {s : State}

/-! ### Entries by their names -/

/-- What a keyed list gives after one of its entries is replaced. -/
theorem findBy_replBy_key (key : α → Nat) (l : List α) (a : α) (k : Nat) :
    findBy key (replBy key l (key a) a) k = if k = key a then (findBy key l k).map fun _ => a else findBy key l k := by
  by_cases h : k = key a
  · rw [if_pos h, h, findBy_replBy key l _ a rfl]
  · rw [if_neg h, findBy_replBy_ne key l _ _ a rfl h]

theorem State.cmd?_id {c : Nat} {x : Cmd} (h : s.cmd? c = some x) : x.id = c := findBy_key Cmd.id s.cmds c x h
theorem State.wg?_id {g : Nat} {w : Workgroup} (h : s.wg? g = some w) : w.id = g := findBy_key Workgroup.id s.wgs g w h
theorem State.launch?_id {l : Nat} {x : Launch} (h : s.launch? l = some x) : x.id = l := findBy_key Launch.id s.launches l x h

/-- A command that is changed and keeps its name. -/
theorem State.cmd?_setCmd {x y : Cmd} {c : Nat} (h : s.cmd? c = some x) (hy : y.id = c) : (s.setCmd y).cmd? c = some y := by
  unfold State.cmd?
  rw [State.setCmd_cmds, findBy_replBy_key, if_pos hy.symm]
  exact congrArg (Option.map fun _ => y) h

theorem State.launch?_setLaunch {x y : Launch} {l : Nat} (h : s.launch? l = some x) (hy : y.id = l) : (s.setLaunch y).launch? l = some y := by
  unfold State.launch?
  rw [State.setLaunch_launches, findBy_replBy_key, if_pos hy.symm]
  exact congrArg (Option.map fun _ => y) h

theorem State.wg?_setWg (s : State) (v : Workgroup) (g : Nat) : (s.setWg v).wg? g = if g = v.id then (s.wg? g).map fun _ => v else s.wg? g :=
  findBy_replBy_key Workgroup.id s.wgs v g

theorem State.wg?_setWg_same {v w : Workgroup} {g : Nat} (h : s.wg? g = some w) (hv : v.id = g) : (s.setWg v).wg? g = some v := by
  rw [State.wg?_setWg, if_pos hv.symm, h]; rfl

theorem State.wg?_updWg {w : Workgroup} {g : Nat} (h : s.wg? g = some w) {v : Workgroup → Workgroup} (hv : (v w).id = w.id) :
    (s.updWg g v).wg? g = some (v w) := by
  unfold State.updWg
  rw [h]
  exact State.wg?_setWg_same h (hv.trans (State.wg?_id h))

theorem State.cmd?_congr {t : State} (h : t.cmds = s.cmds) (c : Nat) : t.cmd? c = s.cmd? c := congrArg (findBy Cmd.id · c) h
theorem State.wg?_congr {t : State} (h : t.wgs = s.wgs) (g : Nat) : t.wg? g = s.wg? g := congrArg (findBy Workgroup.id · g) h
theorem State.launch?_congr {t : State} (h : t.launches = s.launches) (l : Nat) : t.launch? l = s.launch? l := congrArg (findBy Launch.id · l) h

/-- A part of the state that every step of a fold keeps. -/
theorem foldl_keeps (F : State → β) {f : State → α → State} (hf : ∀ s a, F (f s a) = F s) (l : List α) (s : State) : F (l.foldl f s) = F s := by
  induction l generalizing s with
  | nil => rfl
  | cons a l ih => exact (ih _).trans (hf s a)

/-! ### Bytes of an allocation -/

theorem cellsGet_congr {m m' : List Host.Cell} {a n : Nat} (h : ∀ i < n, cellGet m (a + i) = cellGet m' (a + i)) : cellsGet m a n = cellsGet m' a n :=
  congrArg ofLe (List.map_congr_left fun i hi => h i (List.mem_range.1 hi))

/-- A piece of the bytes put. -/
theorem cellsGet_cellsPut_piece (m : List Host.Cell) (a : Nat) {bs : List Byte} {k n : Nat} (h : k + n ≤ bs.length) :
    cellsGet (cellsPut m a bs) (a + k) n = ofLe ((bs.drop k).take n) := by
  refine congrArg ofLe (List.ext_getElem (by simp; omega) fun i h1 h2 => ?_)
  have hi : i < n := by simpa using h1
  rw [List.getElem_map, List.getElem_range, Nat.add_assoc, cellGet_cellsPut _ _ _ _ (by omega), List.getElem_take, List.getElem_drop,
    List.getD_eq_getElem _ _ (by omega)]

theorem leBytes_drop (k : Nat) : ∀ n x, (leBytes n x).drop k = leBytes (n - k) (x / 256 ^ k) := by
  induction k with
  | zero => intro n x; simp
  | succ k ih =>
    intro n x
    cases n with
    | zero => simp [leBytes]
    | succ n =>
      rw [leBytes, List.drop_succ_cons, ih, Nat.div_div_eq_div_mul, ← pow_succ']
      congr 1
      omega

theorem leBytes_take (k : Nat) : ∀ n x, (leBytes n x).take k = leBytes (min k n) x := by
  induction k with
  | zero => intro n x; simp [leBytes]
  | succ k ih =>
    intro n x
    cases n with
    | zero => simp [leBytes]
    | succ n => rw [leBytes, List.take_succ_cons, ih, Nat.succ_min_succ, leBytes]

/-- Some bytes of a number, read back. -/
theorem ofLe_leBytes_piece {k n j : Nat} (h : k + j ≤ n) (x : Nat) : ofLe (((leBytes n x).drop k).take j) = x / 256 ^ k % 256 ^ j := by
  rw [leBytes_drop, leBytes_take, Nat.min_eq_left (by omega), ofLe_leBytes]

theorem cellsGet_cellsPut_leBytes (m : List Host.Cell) (a n x : Nat) : cellsGet (cellsPut m a (leBytes n x)) a n = x % 256 ^ n := by
  have h := cellsGet_cellsPut_piece m a (bs := leBytes n x) (k := 0) (n := n) (by rw [leBytes_length]; omega)
  rw [Nat.add_zero] at h
  rw [h, ofLe_leBytes_piece (by omega), Nat.pow_zero, Nat.div_one]

theorem cellsGet_lt (m : List Host.Cell) (a n : Nat) : cellsGet m a n < 256 ^ n := by
  have h := ofLe_lt ((List.range n).map fun i => cellGet m (a + i))
  rwa [List.length_map, List.length_range] at h

/-! ### What writes of an allocation leave of its workgroup -/

/-- The record that a workgroup's ring is laid out by. -/
def State.ringRec (s : State) (w : Workgroup) : List DWord := ((s.launch? w.launch).map Launch.recd).getD []

/-- A workgroup whose allocation, and what the engine notes of it, may have changed. -/
structure Workgroup.Kept (w v : Workgroup) : Prop where
  id : v.id = w.id
  launch : v.launch = w.launch
  size : v.size = w.size
  tag : v.tag = w.tag
  taken : v.taken = w.taken
  cmdsDone : v.cmdsDone = w.cmdsDone
  errs : v.errs = w.errs

theorem Workgroup.Kept.refl (w : Workgroup) : w.Kept w := ⟨rfl, rfl, rfl, rfl, rfl, rfl, rfl⟩
theorem Workgroup.Kept.trans {u v w : Workgroup} (h : u.Kept v) (k : v.Kept w) : u.Kept w :=
  ⟨k.id.trans h.id, k.launch.trans h.launch, k.size.trans h.size, k.tag.trans h.tag, k.taken.trans h.taken, k.cmdsDone.trans h.cmdsDone, k.errs.trans h.errs⟩

theorem Workgroup.kept_written (w : Workgroup) (m : List Host.Cell) (ws : NMap Nat) (rs : NMap (List Nat)) :
    w.Kept { w with mem := m, writer := ws, rels := rs } := ⟨rfl, rfl, rfl, rfl, rfl, rfl, rfl⟩
theorem Workgroup.kept_noted (w : Workgroup) (o : List Host.Cell) (n : Option Nat) (l : List (Nat × List Byte)) (p : Nat) :
    w.Kept { w with oldRing := o, owed := n, ringSnap := l, pubSeen := p } := ⟨rfl, rfl, rfl, rfl, rfl, rfl, rfl⟩
theorem Workgroup.kept_putErrs (w : Workgroup) (r : List DWord) : w.Kept (w.putErrs r) := by
  unfold Workgroup.putErrs
  exact w.kept_written ..

/-- The last word of the control block alone is written. -/
theorem Workgroup.cellGet_putErrs (w : Workgroup) {r : List DWord} {a : Nat} (h : a < recCnotify r + 12 ∨ recCnotify r + 16 ≤ a) :
    cellGet (w.putErrs r).mem a = cellGet w.mem a := by
  unfold Workgroup.putErrs
  exact cellGet_cellsPut_other _ _ _ _ (by rw [leBytes_length]; omega)

theorem Workgroup.kept_watch (w : Workgroup) (r : List DWord) (old : List Host.Cell) (off n : Nat) (rel : Bool) : w.Kept (w.watch r old off n rel) := by
  unfold Workgroup.watch
  split
  · exact .refl w
  · dsimp only
    split
    · split
      · exact (w.kept_noted ..).trans (Workgroup.kept_putErrs ..)
      · exact (w.kept_noted ..).trans (Workgroup.kept_putErrs ..)
    · exact w.kept_noted ..

/-- A write of `n` bytes at `off` leaves byte `a` to the writer: it does not touch PUB, or the byte is not of the word that the engine then writes. -/
def Unwatched (r : List DWord) (off n a : Nat) : Prop :=
  recCrlen r = 0 ∨ off + n ≤ recCnotify r ∨ recCnotify r + 4 ≤ off ∨ a < recCnotify r + 12 ∨ recCnotify r + 16 ≤ a

theorem Workgroup.cellGet_watch (w : Workgroup) {r : List DWord} (old : List Host.Cell) {off n a : Nat} (rel : Bool) (h : Unwatched r off n a) :
    cellGet (w.watch r old off n rel).mem a = cellGet w.mem a := by
  unfold Unwatched at h
  unfold Workgroup.watch
  by_cases h0 : recCrlen r = 0
  · rw [if_pos h0]
  · rw [if_neg h0]
    dsimp only
    by_cases hp : off < recCnotify r + 4 ∧ recCnotify r < off + n
    · have ha : a < recCnotify r + 12 ∨ recCnotify r + 16 ≤ a := by omega
      rw [if_pos hp]
      split
      · exact Workgroup.cellGet_putErrs _ ha
      · exact Workgroup.cellGet_putErrs _ ha
    · rw [if_neg hp]

/-- Bytes put into an allocation. -/
theorem State.wg?_locPut {g : Nat} {w : Workgroup} (hw : s.wg? g = some w) {r : List DWord} (hr : s.ringRec w = r) (off : Nat) (bytes : List Byte) (wid : Nat) (rel : Bool) :
    ∃ v, (s.locPut g off bytes wid rel).wg? g = some v ∧ w.Kept v ∧
      ∀ a, Unwatched r off bytes.length a → cellGet v.mem a = cellGet (cellsPut w.mem off bytes) a := by
  unfold State.locPut
  rw [hw]
  dsimp only
  generalize hv : Workgroup.watch _ _ _ _ _ _ = v
  have hk : w.Kept v := by
    rw [← hv]
    exact (w.kept_written ..).trans (Workgroup.kept_watch ..)
  refine ⟨v, State.wg?_setWg_same hw (hk.id.trans (State.wg?_id hw)), hk, fun a ha => ?_⟩
  rw [← hr] at ha
  unfold State.ringRec at ha
  rw [← hv, Workgroup.cellGet_watch _ _ _ ha]

/-- Bytes put away from PUB are all that changes of an allocation. -/
theorem State.wg?_locPut_apart {g : Nat} {w : Workgroup} (hw : s.wg? g = some w) {r : List DWord} (hr : s.ringRec w = r) {off : Nat} {bytes : List Byte}
    (h : recCrlen r = 0 ∨ off + bytes.length ≤ recCnotify r ∨ recCnotify r + 4 ≤ off) (wid : Nat) (rel : Bool) :
    ∃ v, (s.locPut g off bytes wid rel).wg? g = some v ∧ w.Kept v ∧ v.mem = cellsPut w.mem off bytes := by
  obtain ⟨v, hv, hk, -⟩ := State.wg?_locPut hw hr off bytes wid rel
  subst hr
  obtain ⟨⟨v', hv', hm⟩, -⟩ := State.locPut_apart hw h wid rel
  obtain rfl := Option.some.inj (hv.symm.trans hv')
  exact ⟨v, hv, hk, hm⟩

theorem State.locPut_same (s : State) (g off : Nat) (bytes : List Byte) (wid : Nat) (rel : Bool) :
    (s.locPut g off bytes wid rel).mem = s.mem ∧ (s.locPut g off bytes wid rel).cmds = s.cmds ∧ (s.locPut g off bytes wid rel).launches = s.launches ∧
    (s.locPut g off bytes wid rel).nextId = s.nextId := by
  unfold State.locPut
  split <;> exact ⟨rfl, rfl, rfl, rfl⟩

theorem State.ringRec_congr {t : State} (h : t.launches = s.launches) {w v : Workgroup} (hv : v.launch = w.launch) : t.ringRec v = s.ringRec w := by
  unfold State.ringRec State.launch?
  rw [h, hv]

end Sys2Proof.Machine
end

section
/-! SUPPORT. COPY_TAKE (R116, R117, R121): the ring that an engine takes from, and what the taking leaves. -/

namespace Sys2Proof.Machine

open Sys2Proof

variable {α : Type} {s : State}

/-- Rings of a core with an entry to take, by the names of their workgroups. -/
def State.openRings (s : State) (core : Nat) : List Workgroup := sortBy Workgroup.id (s.wgs.filter fun w => decide (w.core = core) && s.ringOpen w)

theorem State.mem_openRings {core : Nat} {w : Workgroup} : w ∈ s.openRings core ↔ w ∈ s.wgs ∧ w.core = core ∧ s.ringOpen w = true := by
  unfold State.openRings
  rw [mem_sortBy_iff, List.mem_filter, Bool.and_eq_true, decide_eq_true_iff]

/-- A list of one entry, however often, offers that entry. -/
theorem find?_or_head? {l : List α} {a : α} (ha : a ∈ l) (h : ∀ b ∈ l, b = a) (p : α → Bool) : (l.find? p).or l.head? = some a := by
  cases hf : l.find? p with
  | some b => rw [h b (List.mem_of_find?_eq_some hf)]; rfl
  | none =>
    cases l with
    | nil => cases ha
    | cons b r => rw [h b (List.mem_cons_self ..)]; rfl

theorem copyTake_full {core : Nat} (h : 8 ≤ (s.cmds.filter fun c => decide (c.core = core)).length) : exec (.copyTake core) s = .next s :=
  if_pos h

/-- An engine with room takes from the ring whose turn it is. -/
theorem copyTake_eq {core : Nat} (h : (s.cmds.filter fun c => decide (c.core = core)).length < 8) : exec (.copyTake core) s =
    match ((s.openRings core).find? fun w => decide (mget 0 s.sched.ringTurn core < w.id)).or (s.openRings core).head? with
    | some w => .next (s.takeFrom core w)
    | none => .next s :=
  if_neg (Nat.not_le.2 h)

theorem copyTake_idle {core : Nat} (h : ∀ w ∈ s.wgs, w.core = core → s.ringOpen w = false) : exec (.copyTake core) s = .next s := by
  have hno : s.openRings core = [] := List.eq_nil_iff_forall_not_mem.2 fun w hw => by
    obtain ⟨hm, hc, ho⟩ := State.mem_openRings.1 hw
    rw [h w hm hc] at ho
    cases ho
  by_cases hf : 8 ≤ (s.cmds.filter fun c => decide (c.core = core)).length
  · exact copyTake_full hf
  · rw [copyTake_eq (Nat.not_le.1 hf), hno]
    rfl

/-- The command that a ring entry of the given words is. -/
def State.takenCmd (s : State) (core : Nat) (w : Workgroup) (words : List DWord) : Cmd :=
  let c : Cmd := { id := s.nextId, core, wg := w.id, launch := w.launch, seq := w.taken, words, pblock := [] }
  if usesParams (words.getD 0 0) ∧ c.param + 64 ≤ w.size then { c with pblock := wordsOf ((List.range 64).map fun j => cellGet w.mem (c.param + j)) } else c

theorem State.takenCmd_facts (s : State) (core : Nat) (w : Workgroup) (words : List DWord) : let c := s.takenCmd core w words
    c.core = core ∧ c.wg = w.id ∧ c.seq = w.taken ∧ c.phase = .taken ∧ c.words = words := by
  unfold State.takenCmd
  dsimp only
  split <;> exact ⟨rfl, rfl, rfl, rfl, rfl⟩

/-- The workgroup whose entry is taken: one more taken, and the slot's bytes count as old. -/
def Workgroup.afterTake (w : Workgroup) (off : Nat) : Workgroup :=
  { w with taken := (w.taken + 1) % 2 ^ 32, owed := w.owed.map (· - 1), ringSnap := w.ringSnap.filter fun e => decide (e.1 ≠ w.taken) }.settleSlot off

theorem Workgroup.afterTake_facts (w : Workgroup) (off : Nat) : (w.afterTake off).id = w.id ∧ (w.afterTake off).launch = w.launch ∧
    (w.afterTake off).taken = (w.taken + 1) % 2 ^ 32 := by
  unfold Workgroup.afterTake Workgroup.settleSlot
  exact ⟨rfl, rfl, rfl⟩

/-- The taking noted in the workgroup and its control block (Table 06-1). -/
def State.noteTaken (s : State) (w : Workgroup) : State :=
  let r := s.ringRec w
  (({ s with nextId := s.nextId + 1 }.setWg (w.afterTake (recCring r + 32 * (w.taken % recCrlen r)))).locPut w.id (recCnotify r + 4)
    (leBytes 4 ((w.taken + 1) % 2 ^ 32)) 0 false).updWg w.id fun x => x.putErrs r

/-- An entry that a release publish left, taken. -/
theorem State.takeFrom_eq {w : Workgroup} {i : Nat} {b : List Byte} (core : Nat) (h : findBy Prod.fst w.ringSnap w.taken = some (i, b)) : s.takeFrom core w =
    { s.noteTaken w with cmds := (s.noteTaken w).cmds ++ [s.takenCmd core w (wordsOf b)], sched := { (s.noteTaken w).sched with ringTurn := mset 0 (s.noteTaken w).sched.ringTurn core w.id } } := by
  unfold State.takeFrom State.ringEntry
  rw [h]
  rfl

theorem State.noteTaken_same (s : State) (w : Workgroup) : (s.noteTaken w).cmds = s.cmds ∧ (s.noteTaken w).mem = s.mem := by
  unfold State.noteTaken
  dsimp only
  obtain ⟨-, -, -, -, -, -, -, -, hcmds, -, hmem, -⟩ := State.updWg_same (State.locPut _ w.id _ _ 0 false) w.id fun x => x.putErrs (s.ringRec w)
  obtain ⟨hmem', hcmds', -⟩ := State.locPut_same _ w.id _ _ 0 false
  exact ⟨hcmds.trans hcmds', hmem.trans hmem'⟩

theorem State.wg?_noteTaken {w : Workgroup} (hw : s.wg? w.id = some w) : ∃ g, (s.noteTaken w).wg? w.id = some g ∧ g.taken = (w.taken + 1) % 2 ^ 32 ∧
    cellsGet g.mem (recCnotify (s.ringRec w) + 4) 4 = (w.taken + 1) % 2 ^ 32 := by
  unfold State.noteTaken
  dsimp only
  generalize hr : s.ringRec w = r
  obtain ⟨hid, hla, htk⟩ := w.afterTake_facts (recCring r + 32 * (w.taken % recCrlen r))
  generalize w.afterTake _ = w' at hid hla htk ⊢
  have hw' : ({ s with nextId := s.nextId + 1 }.setWg w').wg? w.id = some w' := State.wg?_setWg_same (s := { s with nextId := s.nextId + 1 }) hw hid
  obtain ⟨v, hv, hk, hm⟩ := State.wg?_locPut hw' ((State.ringRec_congr rfl hla).trans hr) (recCnotify r + 4) (leBytes 4 ((w.taken + 1) % 2 ^ 32)) 0 false
  refine ⟨_, State.wg?_updWg hv (v := fun x => x.putErrs r) (v.kept_putErrs r).id, by rw [(v.kept_putErrs r).taken, hk.taken, htk], ?_⟩
  calc cellsGet (v.putErrs r).mem (recCnotify r + 4) 4
    _ = cellsGet (cellsPut w'.mem (recCnotify r + 4) (leBytes 4 ((w.taken + 1) % 2 ^ 32))) (recCnotify r + 4) 4 :=
      cellsGet_congr fun j hj => by rw [Workgroup.cellGet_putErrs _ (.inl (by omega)), hm _ (.inr (.inr (.inl (by omega))))]
    _ = (w.taken + 1) % 2 ^ 32 := by rw [cellsGet_cellsPut_leBytes]; omega

/-- The only open ring of a core gives its next entry. -/
theorem copyTake_takes {core i : Nat} {w : Workgroup} {b : List Byte} (hroom : (s.cmds.filter fun c => decide (c.core = core)).length < 8)
    (hw : s.wg? w.id = some w) (hc : w.core = core) (ho : s.ringOpen w = true) (honly : ∀ g ∈ s.wgs, g.core = core → s.ringOpen g = true → g = w)
    (hb : findBy Prod.fst w.ringSnap w.taken = some (i, b)) :
    ∃ t c g, exec (.copyTake core) s = .next t ∧ t.cmds = s.cmds ++ [c] ∧ c.core = core ∧ c.wg = w.id ∧ c.seq = w.taken ∧ c.phase = .taken ∧ c.words = wordsOf b
      ∧ t.wg? w.id = some g ∧ g.taken = (w.taken + 1) % 2 ^ 32 ∧ cellsGet g.mem (recCnotify (s.ringRec w) + 4) 4 = (w.taken + 1) % 2 ^ 32 ∧ t.mem = s.mem := by
  have hmem : w ∈ s.openRings core := State.mem_openRings.2 ⟨List.mem_of_find?_eq_some hw, hc, ho⟩
  have hpick := find?_or_head? hmem (fun g hg => by obtain ⟨h1, h2, h3⟩ := State.mem_openRings.1 hg; exact honly g h1 h2 h3)
    fun w => decide (mget 0 s.sched.ringTurn core < w.id)
  obtain ⟨hcore, hwg, hseq, hph, hwords⟩ := s.takenCmd_facts core w (wordsOf b)
  obtain ⟨hcmds, hsame⟩ := s.noteTaken_same w
  obtain ⟨g, hg, htk, hctl⟩ := State.wg?_noteTaken hw
  refine ⟨s.takeFrom core w, s.takenCmd core w (wordsOf b), g, by rw [copyTake_eq hroom, hpick], ?_, hcore, hwg, hseq, hph, hwords, ?_, htk, hctl, ?_⟩
  · rw [State.takeFrom_eq core hb, hcmds]
  · rw [State.takeFrom_eq core hb]; exact hg
  · rw [State.takeFrom_eq core hb]; exact hsame

end Sys2Proof.Machine
end

section
/-! SUPPORT. COPY_BEGIN, OWN and RELEASE_LINE (R117, R128 to R131, R156). -/

namespace Sys2Proof.Machine

open Sys2Proof

variable {s : State}

/-! ### Beginning -/

theorem Cmd.openWindow_dests (c : Cmd) : c.openWindow.dests = c.dests := rfl

theorem Cmd.toOwn_openWindow (c : Cmd) : c.openWindow.toOwn = match c.dests with | d :: _ => if c.global then d.tierLines else [] | [] => [] := rfl

theorem Cmd.toOwn_openWindow_local {c : Cmd} (h : c.global = false) : c.openWindow.toOwn = [] := by
  rw [c.toOwn_openWindow, h]
  split <;> rfl

theorem Cmd.toOwn_openWindow_global {c : Cmd} (h : c.global = true) {d : CDest} (hd : c.openWindow.dests.head? = some d) : c.openWindow.toOwn = d.tierLines := by
  obtain ⟨r, hr⟩ := List.head?_eq_some_iff.1 hd
  rw [c.toOwn_openWindow, h, show c.dests = d :: r from hr]
  rfl

/-- The destinations of a command that starts: windows of a global one, the targets of a local one (R122, R130, R138). -/
def State.startDests (s : State) (x : Cmd) (frames : NMap Nat) : List CDest :=
  if x.global then
    (windowsOf (lastOnly ((destBytes (s.dstRows x x.dstAddr) (s.cmdShape x).len).map fun p => (frameOf frames p.1, p.2)))).map fun w => ⟨.tier, 0, x.core, w⟩
  else (s.localDests x).map fun p => ⟨.loc p.1.id, p.1.tag, p.1.core, lastOnly (destBytes (s.dstRows x p.2) (s.cmdShape x).len)⟩

theorem State.startCmd_runs (s : State) (x : Cmd) (frames : NMap Nat) : ∃ y : Cmd, s.startCmd x frames = s.setCmd y.openWindow ∧ y.id = x.id ∧ y.phase = .running ∧ y.words = x.words ∧
    y.rowsAt = s.srcRows x ∧ y.frames = frames ∧ y.owned = x.owned ∧ y.dests = s.startDests x frames :=
  ⟨_, rfl, rfl, rfl, rfl, rfl, rfl, rfl, rfl⟩

theorem Cmd.global_congr {x y : Cmd} (h : y.words = x.words) : y.global = x.global := by
  unfold Cmd.global Cmd.dsp Cmd.w
  rw [h]

/-- A translation of a destination that succeeds leaves the state as it was. -/
theorem State.xlDest_ok (c : Cmd) (l : List (Nat × Nat)) : ∀ {m m' : NMap Nat} {u : State}, s.xlDest c l m = (.ok m', u) → u = s := by
  induction l with
  | nil => intro m m' u h; cases h; rfl
  | cons p l ih =>
    obtain ⟨va, n⟩ := p
    intro m m' u h
    unfold State.xlDest at h
    split at h
    · exact ih h
    · split at h
      · split at h
        · cases h
        · exact ih h
      · split at h
        next pa t hx =>
          have ht : t = s := by
            unfold State.engineXl at hx
            dsimp only at hx
            split at hx
            · cases hx; rfl
            · cases hx
            · split at hx
              · cases hx; rfl
              · cases hx
          subst ht
          exact ih h
        · cases h
        · cases h

/-- A command that is the next of its ring to begin. -/
structure Begins (s : State) (x : Cmd) : Prop where
  found : s.cmd? x.id = some x
  taken : x.phase = .taken
  first : ∀ y ∈ s.earlierCmds x, y.phase ≠ .taken
  fence : x.fnc = false ∧ x.chain = false ∨ s.earlierCmds x = []

namespace Begins
variable {x : Cmd}

theorem passes (h : Begins s x) : ¬ (x.phase ≠ .taken ∨ ((s.earlierCmds x).any fun y => decide (y.phase = .taken)) = true ∨ ((x.fnc || x.chain) = true ∧ s.earlierCmds x ≠ [])) := by
  rintro (h1 | h2 | ⟨h3, h4⟩)
  · exact h1 h.taken
  · obtain ⟨y, hy, hp⟩ := List.any_eq_true.1 h2
    exact h.first y hy (of_decide_eq_true hp)
  · rcases h.fence with ⟨h5, h6⟩ | h5
    · rw [h5, h6] at h3; cases h3
    · exact h4 h5

theorem rejected (h : Begins s x) (he : s.cmdReject x ≠ 0) : exec (.copyBegin x.id) s = .next (s.setCmd (x.finish 1 (s.cmdReject x))) := by
  show execCopyBegin x.id s = _
  unfold execCopyBegin
  rw [h.found]
  dsimp only
  rw [if_neg h.passes, if_pos he]

theorem startsLocal (h : Begins s x) (he : s.cmdReject x = 0) (hg : x.global = false) : ∃ y, exec (.copyBegin x.id) s = .next (s.setCmd y) ∧ y.id = x.id ∧ y.phase = .running ∧
    y.words = x.words ∧ y.rowsAt = s.srcRows x ∧ y.toOwn = [] ∧ y.owned = x.owned ∧
    y.dests.map (fun d => (d.space, d.tag)) = (s.localDests x).map (fun p => (Space.loc p.1.id, p.1.tag)) := by
  obtain ⟨y, hstart, hid, hph, hwords, hrows, -, howned, hdests⟩ := s.startCmd_runs x []
  refine ⟨y.openWindow, ?_, hid, hph, hwords, hrows, Cmd.toOwn_openWindow_local ((Cmd.global_congr hwords).trans hg), howned, ?_⟩
  · show execCopyBegin x.id s = _
    unfold execCopyBegin
    rw [h.found]
    dsimp only
    rw [if_neg h.passes, if_neg (not_not.2 he), hg, ← hstart]
    rfl
  · rw [Cmd.openWindow_dests, hdests]
    unfold State.startDests
    rw [hg, if_neg Bool.false_ne_true, List.map_map]
    rfl

theorem startsGlobal (h : Begins s x) {m : NMap Nat} {u : State} (he : s.cmdReject x = 0) (hg : x.global = true)
    (hx : s.xlDest x ((s.dstRows x x.dstAddr).flatMap fun a => frameParts a (s.cmdShape x).len) [] = (.ok m, u))
    (hp : (((s.dstRows x x.dstAddr).flatMap fun a => frameParts a (s.cmdShape x).len).any fun p => u.meetsCode (frameOf m p.1) p.2 || decide (paSpace (frameOf m p.1) = some .dev)) = false) :
    ∃ y, exec (.copyBegin x.id) s = .next (u.setCmd y) ∧ y.id = x.id ∧ y.phase = .running ∧ y.frames = m ∧ ∀ d, y.dests.head? = some d → y.toOwn = d.tierLines := by
  obtain rfl := State.xlDest_ok x _ hx
  obtain ⟨y, hstart, hid, hph, hwords, -, hframes, -, -⟩ := u.startCmd_runs x m
  refine ⟨y.openWindow, ?_, hid, hph, hframes, fun d hd => Cmd.toOwn_openWindow_global ((Cmd.global_congr hwords).trans hg) hd⟩
  show execCopyBegin x.id u = _
  unfold execCopyBegin
  rw [h.found]
  dsimp only
  rw [if_neg h.passes, if_neg (not_not.2 he), hg, hx]
  dsimp only
  rw [hp, ← hstart]
  rfl

end Begins

theorem copyBegin_waits {x : Cmd} (hx : s.cmd? x.id = some x) (h : ∃ y ∈ s.earlierCmds x, y.phase = .taken) : exec (.copyBegin x.id) s = .next s := by
  obtain ⟨y, hy, hp⟩ := h
  show execCopyBegin x.id s = _
  unfold execCopyBegin
  rw [hx]
  exact if_pos (.inr (.inl (List.any_eq_true.2 ⟨y, hy, decide_eq_true hp⟩)))

/-! ### Lines owned and released -/

theorem mem_dropCopy {l : List LineCopy} {unit line : Nat} {k : LineCopy} : k ∈ dropCopy l unit line ↔ k ∈ l ∧ ¬ (k.unit = unit ∧ k.line = line) := by
  unfold dropCopy
  rw [List.mem_filter, Bool.not_eq_true', Bool.and_eq_false_iff, decide_eq_false_iff_not, decide_eq_false_iff_not, not_and_or]

/-- The next line of the window, which nothing holds, is owned: the core's and the die's copies of it go. -/
theorem own_takes {x : Cmd} {line : Nat} (hx : s.cmd? x.id = some x) (hhead : x.toOwn.head? = some line) (howner : (s.lineAt line).owner = none)
    (hfill : (s.lineAt line).filling = false) (hwait : (s.lineAt line).waiting = []) (hmove : s.homeMoves (128 * line) = false) :
    ∃ t l', exec (.own x.id line) s = .next t ∧ t.cmd? x.id = some { x with toOwn := x.toOwn.drop 1, owned := x.owned ++ [line] } ∧ t.l2? line = some l' ∧
      l' = { s.lineAt line with owner := some x.id } ∧ (∀ k, k ∈ t.mem.l1 ↔ k ∈ s.mem.l1 ∧ ¬ (k.unit = x.core ∧ k.line = line)) ∧
      (∀ k, k ∈ t.mem.far ↔ k ∈ s.mem.far ∧ ¬ (k.unit = dieOf x.core ∧ k.line = line)) ∧ ∀ a, t.homeByte a = s.homeByte a := by
  refine ⟨((s.setL2 { s.lineAt line with owner := some x.id }).discardOwn x.core line).setCmd { x with toOwn := x.toOwn.drop 1, owned := x.owned ++ [line] }, _,
    ?_, ?_, ?_, rfl, fun k => mem_dropCopy, fun k => mem_dropCopy, fun a => ?_⟩
  · show execOwn x.id line s = _
    unfold execOwn
    rw [hx]
    refine if_neg ?_
    show ¬ (x.toOwn.head? ≠ some line ∨ (s.lineAt line).owner.isSome = true ∨ (s.lineAt line).filling = true ∨ (!(s.lineAt line).waiting.isEmpty) = true ∨ s.homeMoves (128 * line) = true)
    rw [hhead, howner, hfill, hwait, hmove]
    simp
  · exact State.cmd?_setCmd (s := State.discardOwn _ x.core line) hx rfl
  · exact (State.l2?_setL2 s { s.lineAt line with owner := some x.id } line).trans (if_pos (s.lineAt_line line).symm)
  · exact s.homeByte_setL2_lineAt (x := { s.lineAt line with owner := some x.id }) (s.lineAt_line line) rfl rfl a

theorem own_waits {x : Cmd} {line : Nat} (hx : s.cmd? x.id = some x) (h : x.toOwn.head? ≠ some line) : exec (.own x.id line) s = .next s := by
  show execOwn x.id line s = _
  unfold execOwn
  rw [hx]
  exact if_pos (.inl h)

/-- The next window, if it opens, keeps what the command owns. -/
theorem Cmd.nextWindow_same (c : Cmd) : c.nextWindow.id = c.id ∧ c.nextWindow.owned = c.owned := by
  unfold Cmd.nextWindow
  split
  · split
    · exact ⟨rfl, rfl⟩
    · exact ⟨rfl, rfl⟩
  · exact ⟨rfl, rfl⟩

/-- A window with a line still owned stays open. -/
theorem Cmd.nextWindow_of_owned {c : Cmd} (h : c.owned ≠ []) : c.nextWindow = c := by
  unfold Cmd.nextWindow
  split
  · rw [List.isEmpty_eq_false_iff.2 h]
    simp
  · rfl

theorem releaseLine_releases {x : Cmd} {line : Nat} {l : L2Line} (hx : s.cmd? x.id = some x) (hown : line ∈ x.owned)
    (hdone : ∀ d, x.dests.head? = some d → ∀ p ∈ d.todo, lineOf p.1 ≠ line) (hl : s.l2? line = some l) (howner : l.owner = some x.id) :
    ∃ t y l', exec (.releaseLine x.id line) s = .next t ∧ t.cmd? x.id = some y ∧ y.owned = x.owned.filter (fun n => n ≠ line) ∧ t.l2? line = some l' ∧
      l' = { l with owner := none } ∧ ∀ a, t.homeByte a = s.homeByte a := by
  obtain ⟨hid, howned⟩ := Cmd.nextWindow_same { x with owned := x.owned.filter (· ≠ line) }
  have hdis : s.disown x.id line = s.setL2 { l with owner := none } := by
    unfold State.disown
    rw [hl]
    exact if_pos howner
  refine ⟨(s.setL2 { l with owner := none }).setCmd (Cmd.nextWindow { x with owned := x.owned.filter (· ≠ line) }), _, _, ?_,
    State.cmd?_setCmd (s := s.setL2 _) hx hid, howned, ?_, rfl, fun a => ?_⟩
  · show execReleaseLine x.id line s = _
    unfold execReleaseLine
    rw [hx]
    dsimp only
    rw [hdis]
    refine if_neg (not_or.2 ⟨not_not.2 hown, ?_⟩)
    cases hd : x.dests with
    | nil => exact Bool.false_ne_true
    | cons d r =>
      intro h
      obtain ⟨p, hp, he⟩ := List.any_eq_true.1 h
      exact hdone d (by rw [hd]; rfl) p hp (of_decide_eq_true he)
  · exact (State.l2?_setL2 s { l with owner := none } line).trans (if_pos (State.l2?_line hl).symm)
  · exact State.homeByte_setL2_held hl (x := { l with owner := none }) rfl rfl rfl a

theorem releaseLine_waits {x : Cmd} {line : Nat} (hx : s.cmd? x.id = some x) (h : line ∉ x.owned) : exec (.releaseLine x.id line) s = .next s := by
  show execReleaseLine x.id line s = _
  unfold execReleaseLine
  rw [hx]
  exact if_pos (.inl h)

end Sys2Proof.Machine
end

section
/-! SUPPORT. COPY_SOURCE_READ (R132): what a sector of local and of physical memory gives (logs 57 and 79). -/

namespace Sys2Proof.Machine

open Sys2Proof

variable {s : State} {x : Cmd}

/-- A sector read without poison: its bytes and its number join what has been read. -/
theorem Cmd.gotSector_eq (x : Cmd) (sec : Nat) (vals : List (Nat × Byte)) :
    x.gotSector sec vals = { x with src := msets 0 x.src vals, srcDone := x.srcDone ++ [sec] } := by
  unfold Cmd.gotSector Cmd.mixSector
  rw [List.append_nil]
  cases h : x.poisAt <;> rfl

/-! ### Addresses of a sector -/

theorem foldl_min_sector {sec : Nat} (r : List (Nat × Nat)) : ∀ m, m / 32 = sec → (∀ p ∈ r, p.1 / 32 = sec) → (r.foldl (fun m p => min m p.1) m) / 32 = sec := by
  induction r with
  | nil => exact fun m hm _ => hm
  | cons p r ih =>
    intro m hm h
    rw [List.foldl_cons]
    refine ih _ ?_ fun q hq => h q (List.mem_cons_of_mem _ hq)
    rcases Nat.le_total m p.1 with hle | hle
    · rw [Nat.min_eq_left hle, hm]
    · rw [Nat.min_eq_right hle]
      exact h p (List.mem_cons_self ..)

theorem State.frmapHit_frame (s : State) (n : Nat) {a b : Nat} (h : a / 2 ^ 16 = b / 2 ^ 16) : s.frmapHit n a = s.frmapHit n b := by
  unfold State.frmapHit
  rw [h]

theorem State.onHold_congr (s : State) {a b : Nat} (h : a / 2 ^ 16 = b / 2 ^ 16) : s.onHold a = s.onHold b := by
  unfold State.onHold
  simp only [s.frmapHit_frame _ h]

/-- Remapping moves whole frames, so that it keeps what stands in one sector together (R69). -/
theorem State.remap_sector (s : State) (a : Nat) : s.remap a / 32 * 32 = s.remap (32 * (a / 32)) := by
  have hf : 32 * (a / 32) / 2 ^ 16 = a / 2 ^ 16 := by omega
  unfold State.remap
  simp only [s.frmapHit_frame _ hf]
  split <;> omega

/-! ### What holds an engine's read back -/

theorem State.engineCharged_off {a : Access} (h : (s.engineCfg x).getLsbD 0 = false) : s.engineCharged x a = false := by
  unfold State.engineCharged
  rw [h, Bool.false_and]

theorem State.engineRoom_off {a : Access} (h : (s.engineCfg x).getLsbD 0 = false) : s.engineRoom x a = true := by
  unfold State.engineRoom
  rw [State.engineCharged_off h]; rfl

theorem State.engineSpend_off {a : Access} (h : (s.engineCfg x).getLsbD 0 = false) : s.engineSpend x a = s := by
  unfold State.engineSpend
  rw [State.engineCharged_off h]; rfl

theorem State.sectorRoom_off {sec : Nat} {a : Access} (h : (s.engineCfg x).getLsbD 0 = false) : s.sectorRoom x sec a = true := by
  unfold State.sectorRoom
  rw [State.engineRoom_off h, Bool.or_true]

theorem State.sectorSpend_off {sec : Nat} {a : Access} (h : (s.engineCfg x).getLsbD 0 = false) : s.sectorSpend x sec a = s := by
  unfold State.sectorSpend
  rw [State.engineSpend_off h, ite_self]

/-! ### Reads -/

/-- A sector that a running command has still to read, once its window is owned. -/
structure ReadsNext (s : State) (x : Cmd) (sec : Nat) : Prop where
  found : s.cmd? x.id = some x
  some_ : x.sectorBytes sec ≠ []
  running : x.phase = .running
  fresh : sec ∉ x.srcDone
  owned : x.toOwn = []

namespace ReadsNext
variable {sec : Nat}

theorem passes (h : ReadsNext s x sec) : ¬ (x.phase ≠ .running ∨ sec ∈ x.srcDone ∨ x.toOwn ≠ []) :=
  not_or.2 ⟨not_not.2 h.running, not_or.2 ⟨h.fresh, not_not.2 h.owned⟩⟩

theorem local_ (h : ReadsNext s x sec) {w : Workgroup} {base : Nat} (hs : x.ssp = 1) (hw : s.localSrc x = some (w, base)) :
    ∃ t, exec (.copySourceRead x.id sec) s = .next t ∧ { t with freeCtr := s.freeCtr } =
      s.setCmd { x with src := msets 0 x.src ((x.sectorBytes sec).map fun p => (p.2, cellGet w.mem p.1)), srcDone := x.srcDone ++ [sec] } := by
  refine ⟨s.free.2.setCmd { x with src := msets 0 x.src ((x.sectorBytes sec).map fun p => (p.2, cellGet w.mem p.1)), srcDone := x.srcDone ++ [sec] }, ?_, rfl⟩
  have hw' : s.free.2.localSrc x = some (w, base) := hw
  show execCopySourceRead x.id sec s = _
  unfold execCopySourceRead
  rw [h.found]
  dsimp only
  cases hb : x.sectorBytes sec with
  | nil => exact absurd hb h.some_
  | cons p r =>
    dsimp only
    rw [if_neg h.passes, hs, hw', Cmd.gotSector_eq]
    rfl

/-- A read of physical memory goes to the sector's frame after remapping. -/
theorem physical (h : ReadsNext s x sec) (hs : x.ssp = 2) (hh : s.onHold (32 * sec) = false) :
    ∃ pa va, pa / 32 * 32 = s.remap (32 * sec) ∧ exec (.copySourceRead x.id sec) s = .next (s.physSector x sec pa va) := by
  cases hb : x.sectorBytes sec with
  | nil => exact absurd hb h.some_
  | cons p r =>
    have hin : ∀ q ∈ p :: r, q.1 / 32 = sec := fun q hq => by
      rw [← hb] at hq
      exact of_decide_eq_true (List.mem_filter.1 hq).2
    have hva := foldl_min_sector r p.1 (hin p (List.mem_cons_self ..)) fun q hq => hin q (List.mem_cons_of_mem _ hq)
    generalize hv : r.foldl (fun m p => min m p.1) p.1 = va at hva
    refine ⟨s.remap va, va, by rw [State.remap_sector, hva], ?_⟩
    show execCopySourceRead x.id sec s = _
    unfold execCopySourceRead
    rw [h.found]
    dsimp only
    rw [hb]
    dsimp only
    rw [if_neg h.passes, hs, hv]
    rw [s.onHold_congr (b := 32 * sec) (by omega), hh]
    rfl

end ReadsNext

/-- A tier sector that no line owner, no fill and no bucket keeps from the engine, and that is read at its home. -/
structure HomeReadable (s : State) (x : Cmd) (pa : Nat) : Prop where
  tier : inTier pa = true
  still : s.homeMoves pa = false
  near : 4 ≤ x.scope ∨ s.homeDie pa = dieOf x.core
  unowned : ∀ l, s.l2? (pa / 128) = some l → l.owner = none
  settled : s.lineTransit (dieOf x.core) (pa / 128) = false
  uncharged : (s.engineCfg x).getLsbD 0 = false
  filled : s.unfilled (pa / 128) (secMask (pa % 128) 32) = false
  clean : s.secPoisoned (pa / 32) = false

theorem inTier_space {pa : Nat} (h : inTier pa = true) : paSpace pa = some .tier := of_decide_eq_true h

/-- What the read of a tier sector comes to: a current far-line copy, a wait for the line, a fill, or the bytes at their home. -/
def State.tierSector (s : State) (x : Cmd) (sec q : Nat) : State :=
  match s.engineFar x q with
  | some k => s.setCmd (x.gotSector sec ((x.sectorBytes sec).map fun p => (p.2, mget blankByte k.bytes (q % 128 + p.1 % 32))))
  | none =>
    let owner := match s.l2? (q / 128) with | some l => l.owner | none => none
    if (owner.isSome ∧ owner ≠ some x.id) ∨ (owner = none ∧ s.lineTransit (dieOf x.core) (q / 128)) then s
    else if s.unfilled (q / 128) (secMask (q % 128) 32) then s.startFill (q / 128)
    else s.homeSector x sec q

theorem State.physSector_tier {pa q va sec : Nat} (hq : pa / 32 * 32 = q) (ht : inTier q = true) (hm : s.homeMoves q = false) (hu : (s.engineCfg x).getLsbD 0 = false) :
    s.physSector x sec pa va = s.tierSector x sec q := by
  have hline : lineOf pa = q / 128 := by rw [lineOf_eq]; omega
  unfold State.physSector
  dsimp only
  rw [hq, inTier_space ht, Option.getD_some, hline]
  dsimp only
  rw [if_neg (by rw [hm, State.sectorRoom_off hu]; simp), State.sectorSpend_off hu]
  rfl

theorem HomeReadable.physSector {pa q va sec : Nat} (h : HomeReadable s x q) (hq : pa / 32 * 32 = q) : s.physSector x sec pa va =
    s.setCmd { x with src := msets 0 x.src ((x.sectorBytes sec).map fun p => (p.2, s.homeByte (q + p.1 % 32))), srcDone := x.srcDone ++ [sec] } := by
  have hfar : s.engineFar x q = none := if_pos h.near
  have howner : (match s.l2? (q / 128) with | some l => l.owner | none => none) = none := by
    cases hl : s.l2? (q / 128) with
    | none => rfl
    | some l => exact h.unowned l hl
  have hnear : ¬ (x.scope < 4 ∧ s.homeDie q ≠ dieOf x.core ∧ s.flways (dieOf x.core) ≠ 0) := fun ⟨h1, h2, _⟩ => h.near.elim (fun h => absurd h1 (Nat.not_lt.2 h)) h2
  rw [State.physSector_tier hq h.tier h.still h.uncharged]
  unfold State.tierSector
  rw [hfar]
  dsimp only
  rw [howner, if_neg (by rw [h.settled]; simp), h.filled, if_neg Bool.false_ne_true]
  unfold State.homeSector
  rw [h.clean, if_neg Bool.false_ne_true, if_neg hnear]
  dsimp only
  rw [Cmd.gotSector_eq]

theorem physSector_far {pa q va sec : Nat} {k : LineCopy} (hq : pa / 32 * 32 = q) (ht : inTier q = true) (hm : s.homeMoves q = false) (hscope : x.scope < 4)
    (hd : s.homeDie q ≠ dieOf x.core) (hk : s.farCopy (dieOf x.core) (q / 128) = some k) (hhas : k.has (q % 128) 32 = true) (hu : (s.engineCfg x).getLsbD 0 = false) :
    s.physSector x sec pa va =
      s.setCmd { x with src := msets 0 x.src ((x.sectorBytes sec).map fun p => (p.2, mget blankByte k.bytes (q % 128 + p.1 % 32))), srcDone := x.srcDone ++ [sec] } := by
  have hfar : s.engineFar x q = some k := by
    unfold State.engineFar
    rw [if_neg (not_or.2 ⟨Nat.not_le.2 hscope, hd⟩), lineOf_eq, hk, Option.bind_some, hhas, if_pos rfl]
  rw [State.physSector_tier hq ht hm hu]
  unfold State.tierSector
  rw [hfar]
  dsimp only
  rw [Cmd.gotSector_eq]

end Sys2Proof.Machine
end

section
/-! SUPPORT. WRITE_LINE (R132 to R134, R156): a line of a global destination at its home, and a line of a local one in its allocation. -/

namespace Sys2Proof.Machine

open Sys2Proof

variable {α : Type} {s : State} {x : Cmd}

/-! ### A line at its home -/

theorem State.coverSector_cmds (s : State) (sec : Nat) (c : Cover) : (s.coverSector sec c).cmds = s.cmds := by
  unfold State.coverSector
  split
  · cases c with
    | whole =>
      unfold State.setPoison
      dsimp only
      split
      · split <;> rfl
      · rfl
    | among => rfl
    | part => rfl
  · rfl

theorem State.noteWrite_cmds (s : State) (k w : Nat) (rel : Bool) : (s.noteWrite k w rel).cmds = s.cmds := by
  unfold State.noteWrite
  dsimp only
  split <;> rfl

theorem State.homePut_cmds (s : State) (w pa : Nat) (b : Byte) : (s.homePut w pa b).cmds = s.cmds := by
  obtain ⟨-, -, -, -, -, -, hcmds, -⟩ := s.homePut_same w pa b
  exact hcmds

/-- The sectors that the bytes of a line touch, taken under the poison rule (R8). -/
def State.coverBytes (s : State) (bs : List (Nat × Byte)) : State :=
  (dedup (bs.map fun b => b.1 / 32)).foldl (fun (s : State) sec =>
    s.coverSector sec (if (bs.filter fun b => decide (b.1 / 32 = sec)).length = 32 then .whole else .part)) s

theorem State.engineWrite_eq (s : State) (line : Nat) (bs : List (Nat × Byte)) : s.engineWrite line bs =
    ((({ s with nextId := s.nextId + 1 }.coverBytes bs).putEach s.nextId (bs.map fun b : Nat × Byte => ((b.1, b.2, 0) : Nat × Byte × Nat))).noteWrite line s.nextId false) := by
  unfold State.putEach
  rw [List.foldl_map]
  rfl

theorem State.engineWrite_cmds (s : State) (line : Nat) (bs : List (Nat × Byte)) : (s.engineWrite line bs).cmds = s.cmds := by
  rw [State.engineWrite_eq, State.noteWrite_cmds]
  exact (foldl_keeps State.cmds (fun s _ => s.homePut_cmds ..) _ _).trans (foldl_keeps State.cmds (fun s _ => s.coverSector_cmds _ _) _ _)

theorem State.homeByte_engineWrite (s : State) (line : Nat) {bs : List (Nat × Byte)} (h : (bs.map Prod.fst).Nodup) :
    (∀ p ∈ bs, (s.engineWrite line bs).homeByte p.1 = p.2) ∧ ∀ a, a ∉ bs.map Prod.fst → (s.engineWrite line bs).homeByte a = s.homeByte a := by
  have hn : ((bs.map fun b : Nat × Byte => ((b.1, b.2, 0) : Nat × Byte × Nat)).map Prod.fst).Nodup := by rw [List.map_map]; exact h
  obtain ⟨hin, hout⟩ := State.homeByte_putEach s.nextId (bs.map fun b : Nat × Byte => ((b.1, b.2, 0) : Nat × Byte × Nat)) hn ({ s with nextId := s.nextId + 1 }.coverBytes bs)
  rw [State.engineWrite_eq]
  refine ⟨fun p hp => ?_, fun a ha => ?_⟩
  · rw [State.homeByte_noteWrite]
    exact hin _ (List.mem_map_of_mem hp)
  · rw [State.homeByte_noteWrite, hout a fun b hb e => ha ?_]
    · exact homeByte_foldl (fun s _ _ => s.homeByte_coverSector ..) _ _ a
    · obtain ⟨p, hp, rfl⟩ := List.mem_map.1 hb
      exact e ▸ List.mem_map_of_mem hp

/-- The active window without a line, while the command still owns one. -/
theorem Cmd.wroteLine_eq {d : CDest} {rest : List CDest} {line : Nat} (hd : x.dests = d :: rest) (ho : x.owned ≠ []) :
    x.wroteLine line = { x with dests := { d with todo := d.todo.filter fun p => decide (lineOf p.1 ≠ line) } :: rest } := by
  unfold Cmd.wroteLine
  rw [hd]
  exact Cmd.nextWindow_of_owned ho

/-- Bytes of the active window in a line. -/
def CDest.inLine (d : CDest) (line : Nat) : List (Nat × Nat) := d.todo.filter fun p => decide (lineOf p.1 = line)

/-- A line of the active window that is owned and whose bytes are all known. -/
structure LineReady (s : State) (x : Cmd) (line : Nat) (d : CDest) (rest : List CDest) (vs : List (Nat × Byte)) : Prop where
  found : s.cmd? x.id = some x
  running : x.phase = .running
  global : x.global = true
  dests : x.dests = d :: rest
  window : x.toOwn = []
  owned : line ∈ x.owned
  tier : inTier (128 * line) = true
  still : s.homeMoves (128 * line) = false
  uncharged : (s.engineCfg x).getLsbD 0 = false
  some_ : d.inLine line ≠ []
  known : s.ready x (d.inLine line) = some vs
  filled : vs = [] ∨ 128 ≤ vs.length ∨ s.unfilled line (vs.foldl (fun m b => m ||| secMask (b.1 % 128) 1) 0) = false

theorem LineReady.exec_eq {line : Nat} {d : CDest} {rest : List CDest} {vs : List (Nat × Byte)} (h : LineReady s x line d rest vs) :
    exec (.writeLine x.id line) s = .next ((s.engineWrite line vs).setCmd (x.wroteLine line)) := by
  have hsp := inTier_space h.tier
  have hf : s.failPort (128 * line) = none := by unfold State.failPort; rw [hsp]
  have hn : ¬ (vs ≠ [] ∧ vs.length < 128 ∧ s.unfilled line (vs.foldl (fun m b => m ||| secMask (b.1 % 128) 1) 0) = true) := fun ⟨h1, h2, h3⟩ =>
    h.filled.elim h1 fun h => h.elim (fun h => absurd h2 (Nat.not_lt.2 h)) fun h => by rw [h] at h3; cases h3
  have hne : (d.inLine line).isEmpty = false := List.isEmpty_eq_false_iff.2 h.some_
  have hk := h.known
  unfold CDest.inLine at hne hk
  show execWriteLine x.id line s = _
  unfold execWriteLine
  rw [h.found]
  dsimp only
  rw [if_neg (not_not.2 h.running), h.global, if_pos rfl]
  unfold State.writeGlobal
  rw [h.dests]
  dsimp only
  rw [hsp, Option.getD_some]
  rw [if_neg (by rw [hne, h.window]; simp [h.owned]), hk]
  dsimp only
  rw [hf, if_neg (by simp)]
  dsimp only
  rw [if_neg (by rw [h.still, State.engineRoom_off h.uncharged]; simp), if_neg (fun e => hn e.2), State.engineSpend_off h.uncharged]

theorem LineReady.writes {line : Nat} {d : CDest} {rest : List CDest} {vs : List (Nat × Byte)} (h : LineReady s x line d rest vs) (hvs : (vs.map Prod.fst).Nodup) :
    ∃ t y, exec (.writeLine x.id line) s = .next t ∧ (∀ p ∈ vs, t.homeByte p.1 = p.2) ∧ (∀ a, a ∉ vs.map Prod.fst → t.homeByte a = s.homeByte a) ∧
      t.cmd? x.id = some y ∧ y.owned = x.owned ∧ ∀ e, y.dests.head? = some e → ∀ p, p ∈ e.todo → p ∈ d.todo ∧ lineOf p.1 ≠ line := by
  obtain ⟨hin, hout⟩ := s.homeByte_engineWrite line hvs
  have hw := Cmd.wroteLine_eq (line := line) h.dests (List.ne_nil_of_mem h.owned)
  refine ⟨_, x.wroteLine line, h.exec_eq, hin, hout,
    State.cmd?_setCmd ((State.cmd?_congr (s.engineWrite_cmds line vs) x.id).trans h.found) (by rw [hw]), by rw [hw], fun e he p hp => ?_⟩
  rw [hw] at he
  obtain rfl := Option.some.inj he
  obtain ⟨h1, h2⟩ := List.mem_filter.1 hp
  exact ⟨h1, of_decide_eq_true h2⟩

/-! ### Runs of bytes -/

/-- The bytes of a run, one by one. -/
def runBytes : Nat → List Byte → List (Nat × Byte)
  | _, [] => []
  | a, b :: r => (a, b) :: runBytes (a + 1) r

theorem runsOf_bytes (l : List (Nat × Byte)) : ((runsOf l).flatMap fun r => runBytes r.1 r.2) = l := by
  induction l with
  | nil => rfl
  | cons p l ih =>
    obtain ⟨a, b⟩ := p
    conv_rhs => rw [← ih]
    rw [runsOf]
    cases hr : runsOf l with
    | nil => rfl
    | cons q rest =>
      obtain ⟨a', bs⟩ := q
      dsimp only
      split
      · rename_i h; subst h; rfl
      · rfl

theorem runsOf_ne_nil (l : List (Nat × Byte)) : ∀ r ∈ runsOf l, r.2 ≠ [] := by
  induction l with
  | nil => exact fun r hr => (List.not_mem_nil hr).elim
  | cons p l ih =>
    obtain ⟨a, b⟩ := p
    rw [runsOf]
    cases hr : runsOf l with
    | nil => exact fun r hr => by rw [List.mem_singleton.1 hr]; exact List.cons_ne_nil _ _
    | cons q rest =>
      obtain ⟨a', bs⟩ := q
      rw [hr] at ih
      dsimp only
      split
      · exact List.forall_mem_cons.2 ⟨List.cons_ne_nil _ _, (List.forall_mem_cons.1 ih).2⟩
      · exact List.forall_mem_cons.2 ⟨List.cons_ne_nil _ _, ih⟩

theorem mem_runBytes (bs : List Byte) : ∀ a i, i < bs.length → (a + i) ∈ (runBytes a bs).map Prod.fst := by
  induction bs with
  | nil => intro a i hi; simp at hi
  | cons b r ih =>
    intro a i hi
    cases i with
    | zero => exact List.mem_cons_self ..
    | succ i =>
      rw [show a + (i + 1) = a + 1 + i by omega]
      exact List.mem_cons_of_mem _ (ih (a + 1) i (by simpa using hi))

/-- Each address of a run is one of the bytes' addresses. -/
theorem runsOf_addr {l : List (Nat × Byte)} {r : Nat × List Byte} (hr : r ∈ runsOf l) {i : Nat} (hi : i < r.2.length) : ∃ p ∈ l, p.1 = r.1 + i := by
  obtain ⟨p, hp, he⟩ := List.mem_map.1 (mem_runBytes r.2 r.1 i hi)
  exact ⟨p, by rw [← runsOf_bytes l]; exact List.mem_flatMap.2 ⟨r, hr, hp⟩, he⟩

theorem cellsPut_runBytes (bs : List Byte) : ∀ m a, cellsPut m a bs = (runBytes a bs).foldl (fun m p => cellSet m p.1 p.2) m := by
  induction bs with
  | nil => exact fun _ _ => rfl
  | cons b r ih => exact fun m a => ih _ _

/-- Runs put one after the other are the bytes put one after the other. -/
theorem runs_foldl (l : List (Nat × List Byte)) : ∀ m, l.foldl (fun m r => cellsPut m r.1 r.2) m = (l.flatMap fun r => runBytes r.1 r.2).foldl (fun m p => cellSet m p.1 p.2) m := by
  induction l with
  | nil => exact fun _ => rfl
  | cons r l ih => exact fun m => by rw [List.foldl_cons, ih, cellsPut_runBytes, List.flatMap_cons, List.foldl_append]

theorem cellGet_foldl_cellSet (l : List (Nat × Byte)) (hl : (l.map Prod.fst).Nodup) : ∀ m, (∀ p ∈ l, cellGet (l.foldl (fun m p => cellSet m p.1 p.2) m) p.1 = p.2) ∧
    ∀ a, a ∉ l.map Prod.fst → cellGet (l.foldl (fun m p => cellSet m p.1 p.2) m) a = cellGet m a := by
  induction l with
  | nil => exact fun m => ⟨fun p hp => (List.not_mem_nil hp).elim, fun _ _ => rfl⟩
  | cons c l ih =>
    intro m
    obtain ⟨hc, hn⟩ := List.nodup_cons.1 hl
    obtain ⟨h1, h2⟩ := ih hn (cellSet m c.1 c.2)
    refine ⟨fun p hp => ?_, fun a ha => ?_⟩
    · rcases List.mem_cons.1 hp with rfl | hp
      · rw [List.foldl_cons, h2 _ hc, cellGet_cellSet, if_pos rfl]
      · exact h1 p hp
    · rw [List.map_cons, List.mem_cons, not_or] at ha
      rw [List.foldl_cons, h2 a ha.2, cellGet_cellSet, if_neg ha.1]

theorem insertBy_perm (key : α → Nat) (a : α) (l : List α) : (insertBy key a l).Perm (a :: l) := by
  induction l with
  | nil => exact .refl _
  | cons b r ih =>
    rw [insertBy]
    split
    · exact .refl _
    · exact (ih.cons b).trans (.swap a b r)

theorem sortBy_perm (key : α → Nat) (l : List α) : (sortBy key l).Perm l := by
  suffices h : ∀ acc, (l.foldl (fun acc a => insertBy key a acc) acc).Perm (acc ++ l) from h []
  induction l with
  | nil => exact fun acc => by rw [List.append_nil]; exact .refl _
  | cons a r ih => exact fun acc => (ih _).trans (((insertBy_perm key a acc).append_right r).trans List.perm_middle.symm)

/-! ### A line in its allocation -/

/-- Runs written one after the other, each within the allocation and away from PUB. -/
theorem State.wg?_localWrites {g : Nat} (w : Workgroup) (hg : w.id = g) {r : List DWord} (wid : Nat) (l : List (Nat × List Byte))
    (hl : ∀ p ∈ l, p.1 + p.2.length ≤ w.size ∧ (recCrlen r = 0 ∨ p.1 + p.2.length ≤ recCnotify r ∨ recCnotify r + 4 ≤ p.1)) :
    ∀ {s : State} {v : Workgroup}, s.wg? g = some v → s.ringRec v = r →
      ∃ v', (l.foldl (fun s p => s.localWrite w p.1 p.2 wid false) s).wg? g = some v' ∧
        v'.mem = l.foldl (fun m p => cellsPut m p.1 p.2) v.mem := by
  induction l with
  | nil => exact fun {s v} hv _ => ⟨v, hv, rfl⟩
  | cons p l ih =>
    intro s v hv hr
    obtain ⟨⟨hsize, hpub⟩, hl⟩ := List.forall_mem_cons.1 hl
    obtain ⟨v1, hv1, hk, hm⟩ := State.wg?_locPut_apart hv hr hpub wid false
    have hstep : s.localWrite w p.1 p.2 wid false = s.locPut g p.1 p.2 wid false := by
      unfold State.localWrite
      rw [hg, List.take_of_length_le (by omega)]
    obtain ⟨-, -, hla, -⟩ := s.locPut_same g p.1 p.2 wid false
    obtain ⟨v', hv', hm'⟩ := ih hl hv1 ((State.ringRec_congr hla hk.launch).trans hr)
    exact ⟨v', by rw [List.foldl_cons, hstep]; exact hv', by rw [hm', hm, List.foldl_cons]⟩

theorem State.localWrites_same (w : Workgroup) (wid : Nat) (l : List (Nat × List Byte)) (s : State) :
    (l.foldl (fun s p => s.localWrite w p.1 p.2 wid false) s).mem = s.mem ∧ (l.foldl (fun s p => s.localWrite w p.1 p.2 wid false) s).cmds = s.cmds :=
  ⟨foldl_keeps State.mem (fun s _ => (s.locPut_same ..).1) l s, foldl_keeps State.cmds (fun s _ => (s.locPut_same ..).2.1) l s⟩

/-- The target at a place, whose bytes in a line are all known, and its allocation. -/
structure TargetReady (s : State) (x : Cmd) (k line : Nat) (d : CDest) (w : Workgroup) (vs : List (Nat × Byte)) : Prop where
  found : s.cmd? x.id = some x
  running : x.phase = .running
  global : x.global = false
  small : line < 4096
  dest : x.dests[k]? = some d
  space : d.space = .loc w.id
  wg : s.wg? w.id = some w
  tag : w.tag = d.tag
  some_ : d.inLine line ≠ []
  known : s.ready x (d.inLine line) = some vs

/-- The command without a line of one of its targets. -/
def Cmd.wroteTarget (x : Cmd) (k line : Nat) : Cmd :=
  { x with dests := (enum x.dests).map fun (i, y) => if i = k then { y with todo := y.todo.filter fun p => decide (lineOf p.1 ≠ line) } else y }

variable {k line : Nat} {d : CDest} {w : Workgroup} {vs : List (Nat × Byte)}

theorem TargetReady.exec_eq (h : TargetReady s x k line d w vs) : exec (.writeLine x.id (4096 * k + line)) s =
    .next (((runsOf (sortBy Prod.fst vs)).foldl (fun (t : State) (r : Nat × List Byte) => t.localWrite w r.1 r.2 s.nextId false)
      { s with nextId := s.nextId + 1 }).setCmd (x.wroteTarget k line)) := by
  have hk : (4096 * k + line) / 4096 = k := by have := h.small; omega
  have hl : (4096 * k + line) % 4096 = line := by have := h.small; omega
  have ht : s.tagged w.id d.core d.tag = some w := by
    unfold State.tagged
    rw [h.wg]
    exact if_neg fun e => e.2 h.tag.symm
  have hknown := h.known
  obtain ⟨p, r, hb⟩ := List.exists_cons_of_ne_nil h.some_
  unfold CDest.inLine at hb hknown
  show execWriteLine x.id (4096 * k + line) s = _
  unfold execWriteLine
  rw [h.found]
  dsimp only
  rw [if_neg (not_not.2 h.running), h.global, if_neg Bool.false_ne_true]
  unfold State.writeLocal
  dsimp only
  rw [hk, hl, h.dest]
  dsimp only
  rw [hknown, hb, h.space]
  dsimp only
  rw [ht]
  rfl

theorem TargetReady.writes (h : TargetReady s x k line d w vs) (hvs : (vs.map Prod.fst).Nodup) (hsize : ∀ p ∈ vs, p.1 < w.size)
    (hpub : recCrlen (s.ringRec w) = 0 ∨ ∀ p ∈ vs, p.1 < recCnotify (s.ringRec w) ∨ recCnotify (s.ringRec w) + 4 ≤ p.1) :
    ∃ t w', exec (.writeLine x.id (4096 * k + line)) s = .next t ∧ t.wg? w.id = some w' ∧ (∀ p ∈ vs, cellGet w'.mem p.1 = p.2) ∧
      (∀ a, a ∉ vs.map Prod.fst → cellGet w'.mem a = cellGet w.mem a) ∧ t.mem = s.mem := by
  have hsort := sortBy_perm Prod.fst vs
  have hrun : ∀ r ∈ runsOf (sortBy Prod.fst vs), r.1 + r.2.length ≤ w.size ∧
      (recCrlen (s.ringRec w) = 0 ∨ r.1 + r.2.length ≤ recCnotify (s.ringRec w) ∨ recCnotify (s.ringRec w) + 4 ≤ r.1) := by
    intro r hr
    have hlen := List.length_pos_iff.2 (runsOf_ne_nil _ r hr)
    have hat : ∀ i < r.2.length, ∃ p ∈ vs, p.1 = r.1 + i := fun i hi =>
      let ⟨p, hp, he⟩ := runsOf_addr hr hi
      ⟨p, hsort.mem_iff.1 hp, he⟩
    refine ⟨?_, ?_⟩
    · obtain ⟨p, hp, he⟩ := hat (r.2.length - 1) (by omega)
      have := hsize p hp
      omega
    · refine hpub.imp_right fun hpub => ?_
      by_contra hc
      obtain ⟨h1, h2⟩ := not_or.1 hc
      by_cases h3 : recCnotify (s.ringRec w) ≤ r.1
      · obtain ⟨p, hp, he⟩ := hat 0 hlen
        have := hpub p hp
        omega
      · obtain ⟨p, hp, he⟩ := hat (recCnotify (s.ringRec w) - r.1) (by omega)
        have := hpub p hp
        omega
  obtain ⟨w', hw', hm⟩ := State.wg?_localWrites w rfl s.nextId (runsOf (sortBy Prod.fst vs)) hrun (s := { s with nextId := s.nextId + 1 }) h.wg rfl
  obtain ⟨hin, hout⟩ := cellGet_foldl_cellSet (sortBy Prod.fst vs) ((hsort.map Prod.fst).nodup_iff.2 hvs) w.mem
  rw [runs_foldl, runsOf_bytes] at hm
  refine ⟨_, w', h.exec_eq, hw', fun p hp => ?_, fun a ha => ?_, ?_⟩
  · rw [hm]; exact hin p (hsort.mem_iff.2 hp)
  · rw [hm]; exact hout a fun e => ha ((hsort.map Prod.fst).mem_iff.1 e)
  · exact (State.localWrites_same w s.nextId _ _).1

end Sys2Proof.Machine
end

section
/-! SUPPORT. COPY_CHUNK_SET (R137): the bit of a chunk in its issuer's bitmap. -/

namespace Sys2Proof.Machine

open Sys2Proof

variable {s : State} {x : Cmd} {i : Nat}

theorem State.noteRelease_same (s : State) (id scope wg core : Nat) (before : List Nat) : (s.noteRelease id scope wg core before).cmds = s.cmds ∧
    (s.noteRelease id scope wg core before).wgs = s.wgs ∧ (s.noteRelease id scope wg core before).launches = s.launches := by
  unfold State.noteRelease
  split <;> exact ⟨rfl, rfl, rfl⟩

theorem State.cmd?_updCmd {c : Nat} (h : s.cmd? c = some x) {v : Cmd → Cmd} (hv : (v x).id = x.id) : (s.updCmd c v).cmd? c = some (v x) := by
  unfold State.updCmd
  rw [h]
  exact State.cmd?_setCmd h (hv.trans (State.cmd?_id h))

theorem State.updCmd_wgs (s : State) (c : Nat) (v : Cmd → Cmd) : (s.updCmd c v).wgs = s.wgs := by
  unfold State.updCmd
  split <;> rfl

/-- The place of a chunk's word in the bitmap. -/
def Cmd.chunkWord (x : Cmd) (i : Nat) : Nat := x.cbOff + 4 * (i / 32)

/-- The write of a chunk's bit, a release at the command's scope. -/
def State.putChunk (s : State) (x : Cmd) (i : Nat) (w : Workgroup) : State :=
  ({ s with nextId := s.nextId + 1 }.noteRelease s.nextId x.scope x.wg x.core []).locPut w.id (x.chunkWord i)
    (leBytes 4 (w.word (x.chunkWord i) ||| 2 ^ (i % 32))) s.nextId true

theorem State.setChunk_global (hx : x.global = true) {w : Workgroup} (hw : s.wg? x.wg = some w) :
    s.setChunk x i = (s.putChunk x i w).updCmd x.id fun y => { y with chunks := y.chunks ++ [i] } := by
  have hi : ({ s with nextId := s.nextId + 1 }.noteRelease s.nextId x.scope x.wg x.core []).issuer x = w := by
    unfold State.issuer
    rw [State.wg?_congr (State.noteRelease_same ..).2.1]
    exact congrArg (Option.getD · _) hw
  unfold State.setChunk State.putChunk Cmd.chunkWord
  rw [← hi]
  exact congrArg (State.updCmd · _ _) (if_pos hx)

/-- A word put into an allocation is read back even where the write covers PUB: the engine then writes another word of the control block. -/
theorem Workgroup.word_locPut {g off v wid : Nat} {w : Workgroup} {rel : Bool} (hw : s.wg? g = some w) :
    ∃ w', (s.locPut g off (leBytes 4 v) wid rel).wg? g = some w' ∧ w'.word off = v % 2 ^ 32 := by
  obtain ⟨w', hw', -, hm⟩ := State.wg?_locPut hw rfl off (leBytes 4 v) wid rel
  refine ⟨w', hw', ?_⟩
  calc cellsGet w'.mem off 4
    _ = cellsGet (cellsPut w.mem off (leBytes 4 v)) off 4 := cellsGet_congr fun j hj => hm _ (by unfold Unwatched; rw [leBytes_length]; omega)
    _ = v % 2 ^ 32 := cellsGet_cellsPut_leBytes ..

theorem chunkSet_sets (h : s.cmd? x.id = some x) (hrun : x.phase = .running) (hcb : x.cbm = true) (hi : i < chunkCount (s.cmdShape x)) (hnew : i ∉ x.chunks)
    (hdone : x.chunkDone i = true) (hg : x.global = true) {w : Workgroup} (hw : s.wg? x.wg = some w) :
    ∃ t w', exec (.copyChunkSet x.id i) s = .next t ∧ t.cmd? x.id = some { x with chunks := x.chunks ++ [i] } ∧ t.wg? x.wg = some w' ∧
      ∀ j, (w'.word (x.chunkWord i)).testBit j = ((w.word (x.chunkWord i)).testBit j || decide (j = i % 32)) := by
  obtain ⟨hcmds, hwgs, -⟩ := State.noteRelease_same { s with nextId := s.nextId + 1 } s.nextId x.scope x.wg x.core []
  have hid := State.wg?_id hw
  obtain ⟨w', hw', hword⟩ := Workgroup.word_locPut (off := x.chunkWord i) (v := w.word (x.chunkWord i) ||| 2 ^ (i % 32)) (wid := s.nextId) (rel := true)
    ((State.wg?_congr hwgs x.wg).trans hw)
  rw [Nat.mod_eq_of_lt (Nat.or_lt_two_pow (cellsGet_lt ..) (Nat.pow_lt_pow_right (by omega) (by omega)))] at hword
  have hcmd : (s.putChunk x i w).cmd? x.id = some x := (State.cmd?_congr ((State.locPut_same ..).2.1.trans hcmds) x.id).trans h
  refine ⟨s.setChunk x i, w', ?_, ?_, ?_, fun j => ?_⟩
  · show execCopyChunkSet x.id i s = _
    unfold execCopyChunkSet
    rw [h]
    exact if_neg (by simp [hrun, hcb, hnew, hdone, hi])
  · rw [State.setChunk_global hg hw, State.cmd?_updCmd hcmd]
    rfl
  · rw [State.setChunk_global hg hw, State.wg?_congr (State.updCmd_wgs ..)]
    unfold State.putChunk
    rw [hid]
    exact hw'
  · rw [hword, Nat.testBit_or, Nat.testBit_two_pow]
    exact congrArg _ (decide_eq_decide.2 eq_comm)

theorem chunkSet_waits (h : s.cmd? x.id = some x) (hi : i ∈ x.chunks ∨ x.chunkDone i = false) : exec (.copyChunkSet x.id i) s = .next s := by
  show execCopyChunkSet x.id i s = _
  unfold execCopyChunkSet
  rw [h]
  exact if_pos (.inr (.inr (.inr hi)))

end Sys2Proof.Machine
end

section
/-! SUPPORT. COPY_COMPLETE (R127, R135, R136, R158): the status record and the counts of the issuer. -/

namespace Sys2Proof.Machine

open Sys2Proof

variable {s t : State} {x : Cmd}

/-! ### What a completion leaves of its issuer and of the other commands -/

/-- The commands stay, and a workgroup keeps its bytes and counts. -/
def State.Spares (s t : State) : Prop := t.cmds = s.cmds ∧ ∀ g w, s.wg? g = some w → ∃ v, t.wg? g = some v ∧ w.Kept v ∧ v.mem = w.mem

theorem State.Spares.refl (s : State) : s.Spares s := ⟨rfl, fun _ w h => ⟨w, h, .refl w, rfl⟩⟩
theorem State.Spares.trans {u : State} (h : s.Spares t) (k : t.Spares u) : s.Spares u := ⟨k.1.trans h.1, fun g w hw => by
  obtain ⟨v, hv, hk, hm⟩ := h.2 g w hw
  obtain ⟨z, hz, hk', hm'⟩ := k.2 g v hv
  exact ⟨z, hz, hk.trans hk', hm'.trans hm⟩⟩

theorem State.Spares.foldl {α : Type} {f : State → α → State} (hf : ∀ (s : State) (a : α), s.Spares (f s a)) (l : List α) (s : State) : s.Spares (l.foldl f s) := by
  induction l generalizing s with
  | nil => exact .refl s
  | cons a l ih => exact (hf s a).trans (ih _)

theorem State.spares_dropL1 (s : State) (core line : Nat) : s.Spares (s.dropL1 core line) := ⟨rfl, (State.Spares.refl s).2⟩

theorem State.spares_semStep (s : State) (g n : Nat) (v : Sem → Sem) : s.Spares (s.semStep g n v) := by
  unfold State.semStep
  cases hw : s.wg? g with
  | none => exact .refl s
  | some w =>
    refine ⟨rfl, fun g' w' hw' => ?_⟩
    show ∃ z, (s.setWg { w with sems := mset Sem.blank w.sems n (v (w.sem n)) }).wg? g' = some z ∧ _
    rw [State.wg?_setWg, hw']
    split
    · rename_i hg
      obtain rfl : w = w' := Option.some.inj (by rw [← hw, ← hw', hg]; exact congrArg s.wg? (State.wg?_id hw).symm)
      exact ⟨_, rfl, ⟨rfl, rfl, rfl, rfl, rfl, rfl, rfl⟩, rfl⟩
    · exact ⟨w', rfl, .refl w', rfl⟩

/-! ### The issuer's record and counts -/

/-- A workgroup with one more command completed. -/
def Workgroup.counted (w : Workgroup) (st : Nat) (last : Option (Nat × Option (Bool × Nat))) : Workgroup :=
  { w with cmdsDone := (w.cmdsDone + 1) % 2 ^ 32, errs := if st = 0 then w.errs else min 255 (w.errs + 1), lastSum := last }

/-- A status record at a slot. -/
def State.putRecord (s : State) (x : Cmd) (slot : Nat) (rec : List Byte) : State := (s.locPut x.wg slot rec 0 false).updWg x.wg fun w => w.settleSlot slot

/-- The counts of a completion, in the workgroup and in its control block. -/
def State.putCounts (s : State) (x : Cmd) (r : List DWord) (last : Workgroup → Option (Nat × Option (Bool × Nat))) : State :=
  let s := s.updWg x.wg fun w => w.counted x.st (last w)
  (s.locPut x.wg (recCnotify r + 8) (leBytes 4 (s.issuer x).cmdsDone) 0 false).updWg x.wg fun w => w.putErrs r

theorem State.sums_state (s : State) (x : Cmd) : (s.sums x).2 = { s with freeCtr := s.freeCtr + 1 } := by
  unfold State.sums
  dsimp only [State.free]
  split <;> rfl

/-- The slot of a command's status record. -/
def Cmd.slot (x : Cmd) (r : List DWord) : Nat := recCring r + 32 * (x.seq % max 1 (recCrlen r))

/-- A completion writes the record, counts, then discards lines and adds to semaphores, and the command is gone. -/
theorem State.endCmd_eq (s : State) (x : Cmd) : ∃ exc ckfail k part run last t,
    ((({ s with freeCtr := s.freeCtr + 1 }.putRecord x (x.slot (s.cmdLaunch x).recd) (statusRecord x exc ckfail k part run)).putCounts x (s.cmdLaunch x).recd last).Spares t) ∧
      s.endCmd x = { t with cmds := t.cmds.filter fun y => decide (y.id ≠ x.id) } := by
  unfold State.endCmd
  have hq := s.sums_state x
  generalize s.sums x = q at hq
  obtain ⟨⟨pr, rr⟩, u⟩ := q
  obtain rfl : u = _ := hq
  exact ⟨_, _, _, _, _, _, _, (State.Spares.foldl (fun s _ => State.Spares.foldl (fun s _ => s.spares_dropL1 ..) _ s) _ _).trans
    (State.Spares.foldl (fun s _ => s.spares_semStep ..) _ _), rfl⟩

theorem Workgroup.kept_settleSlot (w : Workgroup) (off : Nat) : w.Kept (w.settleSlot off) ∧ (w.settleSlot off).mem = w.mem := by
  unfold Workgroup.settleSlot
  exact ⟨⟨rfl, rfl, rfl, rfl, rfl, rfl, rfl⟩, rfl⟩

theorem State.updWg_launches (s : State) (g : Nat) (v : Workgroup → Workgroup) : (s.updWg g v).launches = s.launches := by
  unfold State.updWg
  split <;> rfl
theorem State.updWg_cmds (s : State) (g : Nat) (v : Workgroup → Workgroup) : (s.updWg g v).cmds = s.cmds := by
  unfold State.updWg
  split <;> rfl

theorem State.putRecord_same (s : State) (x : Cmd) (slot : Nat) (rec : List Byte) : (s.putRecord x slot rec).cmds = s.cmds ∧ (s.putRecord x slot rec).launches = s.launches := by
  obtain ⟨-, hcmds, hla, -⟩ := s.locPut_same x.wg slot rec 0 false
  exact ⟨(State.updWg_cmds ..).trans hcmds, (State.updWg_launches ..).trans hla⟩

theorem State.putCounts_cmds (s : State) (x : Cmd) (r : List DWord) (last : Workgroup → Option (Nat × Option (Bool × Nat))) : (s.putCounts x r last).cmds = s.cmds :=
  (State.updWg_cmds ..).trans ((State.locPut_same ..).2.1.trans (State.updWg_cmds ..))

/-- A record away from the control block is all that changes of the bytes. -/
theorem State.wg?_putRecord {w : Workgroup} (hw : s.wg? x.wg = some w) {r : List DWord} (hr : s.ringRec w = r) {slot : Nat} {rec : List Byte}
    (h : slot + rec.length ≤ recCnotify r ∨ recCnotify r + 4 ≤ slot) :
    ∃ v, (s.putRecord x slot rec).wg? x.wg = some v ∧ w.Kept v ∧ v.mem = cellsPut w.mem slot rec := by
  obtain ⟨v, hv, hk, hm⟩ := State.wg?_locPut_apart hw hr (.inr h) 0 false
  obtain ⟨hk', hm'⟩ := v.kept_settleSlot slot
  exact ⟨_, State.wg?_updWg hv (v := fun w => w.settleSlot slot) hk'.id, hk.trans hk', hm'.trans hm⟩

/-- The counts, in the workgroup and at +8 of the control block; outside the control block's second half the bytes stay. -/
theorem State.wg?_putCounts {w : Workgroup} (hw : s.wg? x.wg = some w) {r : List DWord} (hr : s.ringRec w = r) (last : Workgroup → Option (Nat × Option (Bool × Nat))) :
    ∃ v, (s.putCounts x r last).wg? x.wg = some v ∧ v.cmdsDone = (w.cmdsDone + 1) % 2 ^ 32 ∧ v.errs = (if x.st = 0 then w.errs else min 255 (w.errs + 1)) ∧
      cellsGet v.mem (recCnotify r + 8) 4 = (w.cmdsDone + 1) % 2 ^ 32 ∧
      ∀ a, a < recCnotify r + 8 ∨ recCnotify r + 16 ≤ a → cellGet v.mem a = cellGet w.mem a := by
  unfold State.putCounts
  dsimp only
  have hu := State.wg?_updWg hw (v := fun w => w.counted x.st (last w)) rfl
  have hi : (s.updWg x.wg fun w => w.counted x.st (last w)).issuer x = w.counted x.st (last w) := by unfold State.issuer; rw [hu]; rfl
  have hr' : (s.updWg x.wg fun w => w.counted x.st (last w)).ringRec (w.counted x.st (last w)) = r := (State.ringRec_congr (State.updWg_launches ..) rfl).trans hr
  rw [hi]
  obtain ⟨v, hv, hk, hm⟩ := State.wg?_locPut_apart hu hr' (off := recCnotify r + 8) (bytes := leBytes 4 (w.counted x.st (last w)).cmdsDone) (.inr (.inr (by omega))) 0 false
  have hk' := v.kept_putErrs r
  refine ⟨v.putErrs r, State.wg?_updWg hv (v := fun w => w.putErrs r) hk'.id, hk'.cmdsDone.trans hk.cmdsDone, hk'.errs.trans hk.errs, ?_, fun a ha => ?_⟩
  · calc cellsGet (v.putErrs r).mem (recCnotify r + 8) 4
      _ = cellsGet v.mem (recCnotify r + 8) 4 := cellsGet_congr fun j hj => Workgroup.cellGet_putErrs _ (.inl (by omega))
      _ = (w.cmdsDone + 1) % 2 ^ 32 % 256 ^ 4 := by rw [hm]; exact cellsGet_cellsPut_leBytes ..
      _ = (w.cmdsDone + 1) % 2 ^ 32 := Nat.mod_mod_of_dvd _ (by decide)
  · rw [Workgroup.cellGet_putErrs _ (by omega), hm]
    exact cellGet_cellsPut_other _ _ _ _ (by rw [leBytes_length]; omega)

/-! ### The status record (Table 06-8) -/

theorem statusRecord_length (x : Cmd) (exc ckfail : Bool) (k : Counts) (part run : Nat) : (statusRecord x exc ckfail k part run).length = 32 := by
  unfold statusRecord
  simp only [List.length_append, leBytes_length]

/-- Bytes of a number that others follow. -/
theorem ofLe_leBytes_append {n k j : Nat} (h : k + j ≤ n) (v : Nat) (l : List Byte) : ofLe (((leBytes n v ++ l).drop k).take j) = v / 256 ^ k % 256 ^ j := by
  rw [List.drop_append_of_le_length (by rw [leBytes_length]; omega), List.take_append_of_le_length (by rw [List.length_drop, leBytes_length]; omega), ofLe_leBytes_piece h]

theorem ite_two_pow (b : Bool) (i : Nat) : (if b = true then 2 ^ i else 0) = 2 ^ i * b.toNat := by cases b <;> simp

/-- The fields of a status record: the status, its cause, the command's index, and the address at its end. -/
theorem statusRecord_pieces {exc ckfail : Bool} {k : Counts} {part run : Nat} (hst : x.st < 256) (hcause : x.cause < 256) :
    let b := statusRecord x exc ckfail k part run
    ofLe ((b.drop 0).take 1) = x.st ∧ ofLe ((b.drop 1).take 1) = x.cause ∧ ofLe ((b.drop 4).take 4) = x.seq % 2 ^ 32 ∧
      ofLe ((b.drop 24).take 8) = (x.fault.or (x.poisAt.or x.dropAt)).getD 0 % 2 ^ 48 := by
  unfold statusRecord
  dsimp only
  simp only [ite_two_pow]
  have h1 := Bool.toNat_le ckfail
  have h2 := Bool.toNat_le x.poisAt.isSome
  have h3 := Bool.toNat_le x.dropt
  have h4 := Bool.toNat_le exc
  generalize ckfail.toNat = b1 at h1
  generalize x.poisAt.isSome.toNat = b2 at h2
  generalize x.dropt.toNat = b3 at h3
  generalize exc.toNat = b4 at h4
  refine ⟨?_, ?_, ?_, ?_⟩
  · rw [List.append_assoc, List.append_assoc, ofLe_leBytes_append (by decide)]; omega
  · rw [List.append_assoc, List.append_assoc, ofLe_leBytes_append (by decide)]; omega
  · rw [List.append_assoc, List.append_assoc, ofLe_leBytes_append (by decide)]; omega
  · rw [List.drop_left' (by simp only [List.length_append, leBytes_length]), List.take_of_length_le (by rw [leBytes_length]), ofLe_leBytes]
    omega

/-! ### The completion -/

theorem State.ringRec_cmdLaunch {w : Workgroup} (h : w.launch = x.launch) : s.ringRec w = (s.cmdLaunch x).recd := by
  unfold State.ringRec State.cmdLaunch
  rw [h]
  cases s.launch? x.launch <;> rfl

theorem copyComplete_ends (h : s.cmd? x.id = some x) (ho : x.owned = []) (hp : x.phase = .finishing) : exec (.copyComplete x.id) s = .next (s.endCmd x) := by
  show execCopyComplete x.id s = _
  unfold execCopyComplete
  rw [h]
  dsimp only
  rw [if_neg (by simp [ho, hp]), if_pos hp]

theorem copyComplete_waits (h : s.cmd? x.id = some x) (ho : x.owned ≠ []) : exec (.copyComplete x.id) s = .next s := by
  show execCopyComplete x.id s = _
  unfold execCopyComplete
  rw [h]
  exact if_pos (.inl ho)

theorem copyComplete_completes {r : List DWord} (h : s.cmd? x.id = some x) (ho : x.owned = []) (hp : x.phase = .finishing) {w : Workgroup} (hw : s.wg? x.wg = some w)
    (hl : w.launch = x.launch) (hst : x.st < 256) (hcause : x.cause < 256) (hr : (s.cmdLaunch x).recd = r)
    (hapart : recCnotify r + 16 ≤ recCring r ∨ recCring r + 32 * recCrlen r ≤ recCnotify r) (hlen : 0 < recCrlen r) :
    ∃ t w', exec (.copyComplete x.id) s = .next t ∧ t.cmds = s.cmds.filter (fun y => y.id ≠ x.id) ∧ t.wg? x.wg = some w' ∧ w'.cmdsDone = (w.cmdsDone + 1) % 2 ^ 32 ∧
      w'.errs = (if x.st = 0 then w.errs else min 255 (w.errs + 1)) ∧ cellsGet w'.mem (recCnotify r + 8) 4 = (w.cmdsDone + 1) % 2 ^ 32 ∧
      (let slot := recCring r + 32 * (x.seq % recCrlen r)
       cellsGet w'.mem slot 1 = x.st ∧ cellsGet w'.mem (slot + 1) 1 = x.cause ∧ cellsGet w'.mem (slot + 4) 4 = x.seq % 2 ^ 32 ∧
         cellsGet w'.mem (slot + 24) 8 = (x.fault.or (x.poisAt.or x.dropAt)).getD 0 % 2 ^ 48) := by
  obtain ⟨exc, ckfail, k, part, run, last, t, ⟨hcmds, hwgs⟩, he⟩ := s.endCmd_eq x
  rw [hr] at hcmds hwgs
  obtain ⟨hst', hcause', hseq, haddr⟩ := statusRecord_pieces (exc := exc) (ckfail := ckfail) (k := k) (part := part) (run := run) hst hcause
  have hlen32 := statusRecord_length x exc ckfail k part run
  generalize statusRecord x exc ckfail k part run = rec at *
  have hslot : x.slot r = recCring r + 32 * (x.seq % recCrlen r) := by unfold Cmd.slot; rw [Nat.max_eq_right hlen]
  have hmod := Nat.mod_lt x.seq hlen
  rw [hslot] at hcmds hwgs
  generalize hsl : recCring r + 32 * (x.seq % recCrlen r) = slot at *
  have hout : slot + 32 ≤ recCnotify r ∨ recCnotify r + 16 ≤ slot := by omega
  have hrec : State.ringRec { s with freeCtr := s.freeCtr + 1 } w = r := (State.ringRec_congr rfl rfl).trans ((State.ringRec_cmdLaunch hl).trans hr)
  obtain ⟨v, hv, hk, hm⟩ := State.wg?_putRecord (s := { s with freeCtr := s.freeCtr + 1 }) hw hrec (slot := slot) (rec := rec) (by omega)
  obtain ⟨u, hu, hdone, herrs, hcount, hbytes⟩ := State.wg?_putCounts hv ((State.ringRec_congr (State.putRecord_same ..).2 hk.launch).trans hrec) last
  obtain ⟨z, hz, hkz, hmz⟩ := hwgs _ _ hu
  have hpiece : ∀ k n, k + n ≤ 32 → cellsGet z.mem (slot + k) n = ofLe ((rec.drop k).take n) := fun k n hkn => by
    rw [hmz, cellsGet_congr fun j hj => hbytes _ (by omega), hm, cellsGet_cellsPut_piece _ _ (by omega)]
  refine ⟨_, z, copyComplete_ends h ho hp, ?_, by rw [he]; exact hz, hkz.cmdsDone.trans (hdone.trans (by rw [hk.cmdsDone])),
    hkz.errs.trans (herrs.trans (by rw [hk.errs])), by rw [hmz, hcount, hk.cmdsDone],
    (hpiece 0 1 (by omega)).trans hst', (hpiece 1 1 (by omega)).trans hcause', (hpiece 4 4 (by omega)).trans hseq, (hpiece 24 8 (by omega)).trans haddr⟩
  rw [he]
  exact congrArg (List.filter _) (hcmds.trans ((State.putCounts_cmds ..).trans (State.putRecord_same ..).1))

end Sys2Proof.Machine
end

section
open Sys2Proof Sys2Proof.Machine

/-- Settles O47: one lemma for each step of a command, from COPY_TAKE to COPY_COMPLETE, says what it does when its conditions hold and that it waits otherwise. -/
theorem copyCommandsRunFromTheirRingToTheirStatus : Obligations.CopyCommandsRunFromTheirRingToTheirStatus := by
  unfold Obligations.CopyCommandsRunFromTheirRingToTheirStatus
  intro s
  refine ⟨fun core => copyTake_full, fun core => copyTake_idle, fun core w i b => copyTake_takes, fun c x hx => ?_⟩
  obtain rfl := State.cmd?_id hx
  refine ⟨fun hp hfirst hfence => ?_, fun _ => copyBegin_waits hx, fun line hhead howner hfill hwait hmove => own_takes hx hhead howner hfill hwait hmove,
    fun line => own_waits hx, ?_, ?_, ?_, ?_, ?_, fun line l => releaseLine_releases hx, fun line => releaseLine_waits hx,
    fun i w hp hcb hi hnew hdone hg => chunkSet_sets hx hp hcb hi hnew hdone hg, fun i => chunkSet_waits hx,
    fun w ho hp hw hl hst hcause hapart => copyComplete_completes hx ho hp hw hl hst hcause rfl hapart, copyComplete_waits hx⟩
  case refine_1 =>
    have hb : Begins s x := ⟨hx, hp, hfirst, hfence⟩
    exact ⟨hb.rejected, hb.startsLocal, fun m u => hb.startsGlobal⟩
  case refine_2 => exact fun sec w base hne hp hnew ho => (ReadsNext.mk hx hne hp hnew ho).local_
  case refine_3 =>
    intro sec hne hp hnew ho hs pa ht hm hh hnear hown htr hu hf hc
    obtain ⟨q, va, hq, he⟩ := (ReadsNext.mk hx hne hp hnew ho).physical hs hh
    have hpa : pa / 32 * 32 = pa := by show s.remap (32 * sec) / 32 * 32 = _; omega
    rw [he, hpa, HomeReadable.physSector ⟨ht, hm, hnear, hown, htr, hu, hf, hc⟩ hq]
  case refine_4 =>
    intro sec k hne hp hnew ho hs pa ht hm hh hsc hd hk hhas hu
    obtain ⟨q, va, hq, he⟩ := (ReadsNext.mk hx hne hp hnew ho).physical hs hh
    rw [he, physSector_far hq ht hm hsc hd hk hhas hu]
  case refine_5 =>
    exact fun line d rest vs hp hg hd hto hown ht hm hu hne hready hnd hfill =>
      (LineReady.mk hx hp hg hd hto hown ht hm hu hne hready hfill).writes hnd
  case refine_6 =>
    intro k line d g w vs hp hg hsmall hd hsp hw htag hne hready hnd hsize hpub
    obtain rfl := State.wg?_id hw
    exact (TargetReady.mk hx hp hg hsmall hd hsp hw htag hne hready).writes hnd hsize hpub

end

section
/-! SUPPORT. QUEUE_TAKE (R381 to R383): a queue's entry, checked, becomes the queue's head or an error in QSTAT. -/

namespace Sys2Proof.Machine

open Sys2Proof

variable {s : State} {q : Nat}

/-! ### The checks of an entry -/

/-- A failing check has a number that a field of 8 bits holds. -/
theorem State.recordFault_le (s : State) (r : List DWord) (asid : Nat) (p : Bool) : s.recordFault r asid p ≤ 7 := by
  unfold State.recordFault
  repeat' split
  all_goals omega

theorem State.takeEntry_error {e : Nat} (h : s.takeEntry q = .error e) : e < 256 := by
  have hcheck : ∀ (r : List DWord) (va : Nat) (w : Option (Nat × Word)) (c : DWord), (if recQueue r ≠ q ∨ recTenant r ≠ qTenant c then Except.error 8
      else if s.recordFault r (qAsid c) (c.getLsbD 1) = 0 then .ok (r, va, w) else .error (s.recordFault r (qAsid c) (c.getLsbD 1))) = .error e → e < 256 := by
    intro r va w c h
    have hle := s.recordFault_le r (qAsid c) (c.getLsbD 1)
    split at h
    · cases h; omega
    · split at h
      · cases h
      · cases h; omega
  unfold State.takeEntry at h
  dsimp only at h
  split at h
  · exact hcheck _ _ _ _ h
  · split at h
    · cases h; omega
    · split at h
      · cases h; omega
      · exact hcheck _ _ _ _ h

/-! ### QSTAT -/

theorem State.queueErr_eq (s : State) (q idx chk : Nat) : s.queueErr q idx chk =
    s.setReg (qOff q + 16) (setFld (setFld (setFld (s.reg (qOff q + 16)) 16 16 idx) 8 8 (satInc (fld (s.reg (qOff q + 16)) 8 8) 255)) 0 8 chk) := rfl

theorem State.queueErr_same (s : State) (q idx chk : Nat) : (s.queueErr q idx chk).sched = s.sched ∧ (s.queueErr q idx chk).mem = s.mem ∧
    (s.queueErr q idx chk).flights = s.flights ∧ (s.queueErr q idx chk).launches = s.launches := ⟨rfl, rfl, rfl, rfl⟩

theorem State.reg_queueErr_ne (s : State) {q idx chk o : Nat} (h : o ≠ qOff q + 16) : (s.queueErr q idx chk).reg o = s.reg o := State.reg_setReg_ne s _ h

/-- The fields of QSTAT after a rejected entry: the check, a saturating count, the index; DONE stays. -/
theorem State.queueErr_fields (s : State) (q : Nat) {idx chk : Nat} (hi : idx < 65536) (hc : chk < 256) : let v := (s.queueErr q idx chk).reg (qOff q + 16)
    fld v 0 8 = chk ∧ fld v 16 16 = idx ∧ fld v 8 8 = min (fld (s.reg (qOff q + 16)) 8 8 + 1) 255 ∧ fld v 32 32 = fld (s.reg (qOff q + 16)) 32 32 := by
  dsimp only
  rw [State.queueErr_eq, State.reg_setReg_same]
  refine ⟨?_, ?_, ?_, ?_⟩
  · rw [fld_setFld_same _ _ _ _ (by omega)]; exact Nat.mod_eq_of_lt hc
  · rw [fld_setFld_ne _ _ _ _ _ _ (by omega), fld_setFld_ne _ _ _ _ _ _ (by omega), fld_setFld_same _ _ _ _ (by omega)]; exact Nat.mod_eq_of_lt hi
  · rw [fld_setFld_ne _ _ _ _ _ _ (by omega), fld_setFld_same _ _ _ _ (by omega)]
    exact Nat.mod_eq_of_lt (by unfold satInc; omega)
  · rw [fld_setFld_ne _ _ _ _ _ _ (by omega), fld_setFld_ne _ _ _ _ _ _ (by omega), fld_setFld_ne _ _ _ _ _ _ (by omega)]

/-! ### The taking -/

/-- A queue with its HEAD one further and its entry's copy gone. -/
def State.pastEntry (s : State) (q : Nat) : State :=
  let t := s.setReg (qOff q + 8) (setFld (s.reg (qOff q + 8)) 0 32 (s.qHead q + 1))
  { t with sched := { t.sched with copies := t.sched.copies.filter fun p => decide (p.1 ≠ (q, s.qHead q)) } }

theorem State.reg_pastEntry (s : State) (q o : Nat) : (s.pastEntry q).reg o =
    if o = qOff q + 8 then setFld (s.reg (qOff q + 8)) 0 32 (s.qHead q + 1) else s.reg o := State.reg_setReg s _ o _

theorem queueTake_takes (hq : q < 256) (hv : (s.reg (qOff q)).getLsbD 0 = true) (hr : s.running = true) (hh : s.headOf q = none) (hne : s.qHead q ≠ s.qTail q)
    (hheld : s.takeHeld q = false) : exec (.queueTake q) s = .next (match s.takeEntry q with
      | .error e => (s.pastEntry q).queueErr q (s.qHead q % 2 ^ 16) e
      | .ok (r, va, w) => { s.pastEntry q with sched := { (s.pastEntry q).sched with heads := s.sched.heads ++ [{ queue := q, recd := r, va, wait := w }] } }) := by
  show execQueueTake q s = _
  unfold execQueueTake
  rw [if_neg (by rw [hv, hr, hh, hheld]; simp [hq, hne])]
  dsimp only
  cases s.takeEntry q <;> rfl

theorem queueTake_waits (h : (s.reg (qOff q)).getLsbD 0 = false ∨ s.running = false ∨ s.headOf q ≠ none ∨ s.qHead q = s.qTail q ∨ s.takeHeld q = true) :
    exec (.queueTake q) s = .next s :=
  if_pos (.inr (h.imp_right (Or.imp_right (Or.imp_left Option.isSome_iff_ne_none.2))))

/-- An entry taken: HEAD advances, TAIL and memory stay, and the entry is a head or a rejection. -/
theorem queueTake_outcome (hq : q < 256) (hv : (s.reg (qOff q)).getLsbD 0 = true) (hr : s.running = true) (hh : s.headOf q = none) (hne : s.qHead q ≠ s.qTail q)
    (hheld : s.takeHeld q = false) : ∃ t, exec (.queueTake q) s = .next t ∧ fld (t.reg (qOff q + 8)) 0 32 = (s.qHead q + 1) % 2 ^ 32 ∧
      fld (t.reg (qOff q + 8)) 32 32 = fld (s.reg (qOff q + 8)) 32 32 ∧ t.sched.copies = s.sched.copies.filter (fun p => p.1 ≠ (q, s.qHead q)) ∧ t.mem = s.mem ∧
      match s.takeEntry q with
      | .error e => t.sched.heads = s.sched.heads ∧ fld (t.reg (qOff q + 16)) 0 8 = e ∧ fld (t.reg (qOff q + 16)) 16 16 = s.qHead q % 65536 ∧
          fld (t.reg (qOff q + 16)) 8 8 = min (fld (s.reg (qOff q + 16)) 8 8 + 1) 255 ∧ fld (t.reg (qOff q + 16)) 32 32 = fld (s.reg (qOff q + 16)) 32 32
      | .ok (r, va, w) => t.sched.heads = s.sched.heads ++ [{ queue := q, recd := r, va, wait := w }] ∧ t.reg (qOff q + 16) = s.reg (qOff q + 16) := by
  have hhead : fld ((s.pastEntry q).reg (qOff q + 8)) 0 32 = (s.qHead q + 1) % 2 ^ 32 := by
    rw [State.reg_pastEntry, if_pos rfl, fld_setFld_same _ _ _ _ (by omega)]
  have htail : fld ((s.pastEntry q).reg (qOff q + 8)) 32 32 = fld (s.reg (qOff q + 8)) 32 32 := by
    rw [State.reg_pastEntry, if_pos rfl, fld_setFld_ne _ _ _ _ _ _ (by omega)]
  have hstat : (s.pastEntry q).reg (qOff q + 16) = s.reg (qOff q + 16) := by rw [State.reg_pastEntry, if_neg (by omega)]
  have he := queueTake_takes hq hv hr hh hne hheld
  cases h : s.takeEntry q with
  | error e =>
    rw [h] at he
    obtain ⟨hchk, hidx, hcount, hdone⟩ := (s.pastEntry q).queueErr_fields q (idx := s.qHead q % 2 ^ 16) (by omega) (State.takeEntry_error h)
    rw [hstat] at hcount hdone
    obtain ⟨hsched, hmem, -, -⟩ := (s.pastEntry q).queueErr_same q (s.qHead q % 2 ^ 16) e
    refine ⟨_, he, ?_, ?_, by rw [hsched]; rfl, by rw [hmem]; rfl, by rw [hsched]; rfl, hchk, hidx, hcount, hdone⟩
    · rw [State.reg_queueErr_ne _ (by omega), hhead]
    · rw [State.reg_queueErr_ne _ (by omega), htail]
  | ok p =>
    rw [h] at he
    exact ⟨_, he, hhead, htail, rfl, rfl, rfl, hstat⟩

end Sys2Proof.Machine
end

section
/-! SUPPORT. LAUNCH_ADMIT (R30, R363, R366, R388, R390): the head that is chosen, the dies and clusters it is bound to, and its Z-regions. -/

namespace Sys2Proof.Machine

open Sys2Proof

variable {α β : Type} {s t : State}

/-! ### The head chosen -/

theorem le_foldl_max (l : List Nat) : ∀ m, m ≤ l.foldl max m ∧ ∀ x ∈ l, x ≤ l.foldl max m := by
  induction l with
  | nil => exact fun m => ⟨Nat.le_refl m, fun x hx => (List.not_mem_nil hx).elim⟩
  | cons a l ih =>
    intro m
    obtain ⟨h1, h2⟩ := ih (max m a)
    refine ⟨Nat.le_trans (Nat.le_max_left ..) h1, fun x hx => ?_⟩
    rcases List.mem_cons.1 hx with rfl | hx
    · exact Nat.le_trans (Nat.le_max_right ..) h1
    · exact h2 x hx

/-- The head that a processor takes is admissible, and none of its admissible heads has a higher priority. -/
theorem State.nextHead_facts {p k : Nat} {h : Head} (hh : s.nextHead p = some (h, k)) : h ∈ s.sched.heads ∧ h.queue / 64 = p ∧ s.admissible h = true ∧
    ∀ g ∈ s.sched.heads, g.queue / 64 = p → s.admissible g = true → recPrio g.recd ≤ recPrio h.recd := by
  unfold State.nextHead at hh
  dsimp only at hh
  generalize hhs : (s.sched.heads.filter fun h => decide (h.queue / 64 = p) && s.admissible h) = hs at hh
  generalize htop : (hs.map fun h => recPrio h.recd).foldl max 0 = top at hh
  have hin : h ∈ sortBy Head.queue (hs.filter fun h => decide (recPrio h.recd = top)) := by
    split at hh
    · rename_i g hg
      cases hh
      exact List.mem_of_find?_eq_some hg
    · obtain ⟨g, hg, he⟩ := Option.map_eq_some_iff.1 hh
      cases he
      rcases Option.or_eq_some_iff.1 hg with hg | ⟨-, hg⟩
      · exact List.mem_of_find?_eq_some hg
      · exact List.mem_of_mem_head? hg
  obtain ⟨hmem, hprio⟩ := List.mem_filter.1 ((mem_sortBy_iff ..).1 hin)
  have hiff : ∀ g, g ∈ hs ↔ g ∈ s.sched.heads ∧ g.queue / 64 = p ∧ s.admissible g = true := fun g => by
    rw [← hhs, List.mem_filter, Bool.and_eq_true, decide_eq_true_iff]
  obtain ⟨h1, h2, h3⟩ := (hiff h).1 hmem
  refine ⟨h1, h2, h3, fun g hg hq ha => ?_⟩
  rw [of_decide_eq_true hprio, ← htop]
  exact (le_foldl_max _ 0).2 _ (List.mem_map_of_mem ((hiff g).2 ⟨hg, hq, ha⟩))

/-! ### Members chosen -/

/-- `n` members of a list that has as many are different; only the choices are spent. -/
theorem State.pick_facts (n : Nat) : ∀ (s : State) {l : List Nat}, l.Nodup → n ≤ l.length → ∃ c, (s.pick n l).2 = { s with freeCtr := c } ∧
    (s.pick n l).1.length = n ∧ (s.pick n l).1.Nodup ∧ ∀ x ∈ (s.pick n l).1, x ∈ l := by
  induction n with
  | zero => exact fun s l _ _ => ⟨s.freeCtr, rfl, rfl, List.nodup_nil, fun x hx => (List.not_mem_nil hx).elim⟩
  | succ n ih =>
    intro s l hl hn
    obtain ⟨x, hx⟩ : ∃ x, l[Config.freeNat s.freeCtr % l.length]? = some x := ⟨_, List.getElem?_eq_getElem (Nat.mod_lt _ (by omega))⟩
    have hmem := List.mem_of_getElem? hx
    have herase : (l.filter (· ≠ x)).length = l.length - 1 := by
      rw [← List.length_erase_of_mem hmem, hl.erase_eq_filter x]
      exact congrArg List.length (List.filter_congr fun y _ => by rw [Bool.eq_iff_iff, decide_eq_true_iff, bne_iff_ne])
    obtain ⟨c, hstate, hlen, hnd, hin⟩ := ih { s with freeCtr := s.freeCtr + 1 } (hl.filter (· ≠ x)) (by omega)
    have heq : s.pick (n + 1) l = (x :: (State.pick { s with freeCtr := s.freeCtr + 1 } n (l.filter (· ≠ x))).1,
        (State.pick { s with freeCtr := s.freeCtr + 1 } n (l.filter (· ≠ x))).2) := by
      rw [State.pick]
      show (match l[Config.freeNat s.freeCtr % l.length]? with | some x => _ | none => _) = _
      rw [hx]
    rw [heq]
    refine ⟨c, hstate, by rw [List.length_cons, hlen], List.nodup_cons.2 ⟨fun h => ?_, hnd⟩, fun y hy => ?_⟩
    · exact absurd rfl (of_decide_eq_true (List.mem_filter.1 (hin x h)).2)
    · rcases List.mem_cons.1 hy with rfl | hy
      · exact hmem
      · exact (List.mem_filter.1 (hin y hy)).1

/-! ### Maps written in order -/

theorem mget_msets_other [DecidableEq α] (d : α) {k : Nat} (l : List (Nat × α)) (h : ∀ p ∈ l, p.1 ≠ k) : ∀ m, mget d (msets d m l) k = mget d m k := by
  induction l with
  | nil => exact fun _ => rfl
  | cons p l ih =>
    intro m
    obtain ⟨hp, hl⟩ := List.forall_mem_cons.1 h
    exact (ih hl _).trans (mget_mset_other _ _ _ (Ne.symm hp))

theorem mget_msets [DecidableEq α] (d : α) {l : List (Nat × α)} (hl : (l.map Prod.fst).Nodup) {p : Nat × α} (hp : p ∈ l) : ∀ m, mget d (msets d m l) p.1 = p.2 := by
  induction l with
  | nil => exact (List.not_mem_nil hp).elim
  | cons q l ih =>
    intro m
    obtain ⟨hq, hn⟩ := List.nodup_cons.1 hl
    rcases List.mem_cons.1 hp with rfl | hp
    · exact (mget_msets_other d l (fun r hr e => hq (List.mem_map.2 ⟨r, hr, e⟩)) _).trans (mget_mset_same ..)
    · exact ih hn hp _

theorem map_fst_enum (l : List α) : (enum l).map Prod.fst = List.range l.length := List.map_fst_zip (by simp)

theorem mem_enum_iff {l : List α} {i : Nat} {a : α} : (i, a) ∈ enum l ↔ l[i]? = some a := by
  refine ⟨fun h => ?_, mem_enum_of_getElem?⟩
  obtain ⟨n, hn, he⟩ := List.mem_iff_getElem.1 h
  unfold enum at he hn
  rw [List.getElem_zip, List.getElem_range] at he
  obtain ⟨rfl, rfl⟩ := Prod.mk.inj he
  exact List.getElem?_eq_getElem _

/-- Members bound in order to keys that rise one by one. -/
theorem mget_msets_enum (m : NMap Nat) (k : Nat) (l : List Nat) {i a : Nat} (h : l[i]? = some a) :
    mget 0 (msets 0 m ((enum l).map fun p => (k + p.1, p.2))) (k + i) = a := by
  have hn : (((enum l).map fun p => (k + p.1, p.2)).map Prod.fst).Nodup := by
    have e : ((enum l).map fun p => (k + p.1, p.2)).map Prod.fst = (List.range l.length).map (k + ·) := by
      rw [← map_fst_enum, List.map_map, List.map_map]; rfl
    rw [e]
    exact List.nodup_range.map fun a b h => Nat.add_left_cancel h
  exact mget_msets 0 hn (p := (k + i, a)) (List.mem_map.2 ⟨(i, a), mem_enum_iff.2 h, rfl⟩) m

/-- Places of `f` from `k` on, `n` of them, hold different members of `l`. -/
def Holds (m : NMap Nat) (k n : Nat) (l : List Nat) : Prop := ∀ i < n, mget 0 m (k + i) ∈ l ∧ ∀ j < i, mget 0 m (k + i) ≠ mget 0 m (k + j)

theorem holds_msets {c l : List Nat} (m : NMap Nat) (k : Nat) (hc : c.Nodup) (hin : ∀ x ∈ c, x ∈ l) :
    Holds (msets 0 m ((enum c).map fun p => (k + p.1, p.2))) k c.length l := by
  intro i hi
  rw [mget_msets_enum m k c (List.getElem?_eq_getElem hi)]
  refine ⟨hin _ (List.getElem_mem hi), fun j hj => ?_⟩
  rw [mget_msets_enum m k c (List.getElem?_eq_getElem (by omega : j < c.length))]
  exact fun e => absurd ((hc.getElem_inj_iff).1 e) (by omega)

/-! ### Clusters bound -/

theorem State.goodClusters_nodup (s : State) (r : List DWord) (d : Nat) : (s.goodClusters r d).Nodup :=
  (List.nodup_range.map fun _ _ h => Nat.add_left_cancel h).filter _

theorem State.goodClusters_length (s : State) (r : List DWord) (d : Nat) : (s.goodClusters r d).length ≤ 4 :=
  (List.length_filter_le ..).trans (by rw [List.length_map, List.length_range])

theorem State.goodDies_nodup (s : State) (r : List DWord) : (s.goodDies r).Nodup := (List.Nodup.filter _ List.nodup_range).filter _

/-- Each grid die's clusters are different good clusters of the die bound to it. -/
theorem State.bindClusters_facts (r : List DWord) (l : List (Nat × Nat)) : ∀ s : State, (l.map Prod.fst).Nodup → (∀ p ∈ l, recNcl r ≤ (s.goodClusters r p.2).length) →
    ∃ c, (s.bindClusters r l).2 = { s with freeCtr := c } ∧ ∀ p ∈ l, Holds (s.bindClusters r l).1 (4 * p.1) (recNcl r) (s.goodClusters r p.2) := by
  induction l with
  | nil => exact fun s _ _ => ⟨s.freeCtr, rfl, fun p hp => (List.not_mem_nil hp).elim⟩
  | cons q l ih =>
    intro s hl hfit
    obtain ⟨d, die⟩ := q
    obtain ⟨hd, hl⟩ := List.nodup_cons.1 hl
    obtain ⟨hfit1, hfit⟩ := List.forall_mem_cons.1 hfit
    obtain ⟨c, hstate, hlen, hnd, hin⟩ := s.pick_facts (recNcl r) (s.goodClusters_nodup r die) hfit1
    obtain ⟨c', hstate', hrest⟩ := ih { s with freeCtr := c } hl hfit
    rw [State.bindClusters]
    generalize s.pick (recNcl r) (s.goodClusters r die) = q at hstate hlen hnd hin
    obtain ⟨cs, u⟩ := q
    obtain rfl : u = _ := hstate
    dsimp only at hlen hnd hin ⊢
    have h4 := s.goodClusters_length r die
    refine ⟨c', hstate', fun p hp => ?_⟩
    rcases List.mem_cons.1 hp with rfl | hp
    · have := holds_msets (State.bindClusters { s with freeCtr := c } r l).1 (4 * d) hnd hin
      rwa [hlen] at this
    · have hne : p.1 ≠ d := fun e => hd (List.mem_map.2 ⟨p, hp, e⟩)
      have hout : ∀ i < recNcl r, mget 0 (msets 0 (State.bindClusters { s with freeCtr := c } r l).1 ((enum cs).map fun x => (4 * d + x.1, x.2))) (4 * p.1 + i) =
          mget 0 (State.bindClusters { s with freeCtr := c } r l).1 (4 * p.1 + i) := fun i hi => mget_msets_other 0 _ (fun x hx => by
        obtain ⟨⟨j, y⟩, hy, rfl⟩ := List.mem_map.1 hx
        have hj := (List.getElem?_eq_some_iff.1 (mem_enum_iff.1 hy)).1
        show 4 * d + j ≠ 4 * p.1 + i
        have hfit1' : recNcl r ≤ (s.goodClusters r die).length := hfit1
        omega) _
      intro i hi
      obtain ⟨h1, h2⟩ := hrest p hp i hi
      refine ⟨?_, fun j hj => ?_⟩
      · show mget 0 (msets 0 _ ((enum cs).map fun x => (4 * d + x.1, x.2))) (4 * p.1 + i) ∈ _
        rw [hout i hi]; exact h1
      · show mget 0 (msets 0 _ ((enum cs).map fun x => (4 * d + x.1, x.2))) (4 * p.1 + i) ≠ mget 0 (msets 0 _ ((enum cs).map fun x => (4 * d + x.1, x.2))) (4 * p.1 + j)
        rw [hout i hi, hout j (by omega)]; exact h2 j hj

end Sys2Proof.Machine
end

section
/-! SUPPORT. LAUNCH_ADMIT (R363, R366, R388): what the admission of a head makes, and its rejection. -/

namespace Sys2Proof.Machine

open Sys2Proof

variable {s t : State}

/-- At most the registers differ. -/
def State.RegsOnly (s t : State) : Prop := ∃ rs, t = { s with dev := { s.dev with regs := rs } }

theorem State.RegsOnly.refl (s : State) : s.RegsOnly s := ⟨s.dev.regs, rfl⟩
theorem State.RegsOnly.trans {u : State} (h : s.RegsOnly t) (k : t.RegsOnly u) : s.RegsOnly u := by
  obtain ⟨rs, rfl⟩ := h
  obtain ⟨rs', rfl⟩ := k
  exact ⟨rs', rfl⟩
theorem State.regsOnly_setReg (s : State) (o : Nat) (v : DWord) : s.RegsOnly (s.setReg o v) := ⟨_, rfl⟩
theorem State.regsOnly_zrSet (s : State) (asid n : Nat) (w : DWord) (lnch : Bool) : s.RegsOnly (s.zrSet asid n w lnch) := by
  unfold State.zrSet
  exact (State.regsOnly_setReg ..).trans (State.regsOnly_setReg ..)
theorem State.RegsOnly.foldl {α : Type} {f : State → α → State} (hf : ∀ (s : State) (a : α), s.RegsOnly (f s a)) (l : List α) : ∀ s : State, s.RegsOnly (l.foldl f s) := by
  induction l with
  | nil => exact State.RegsOnly.refl
  | cons a l ih => exact fun s => (hf s a).trans (ih _)
theorem State.regsOnly_zApply (asid : Nat) (l : List (Nat × List DWord)) (s : State) : s.RegsOnly (s.zApply asid l) := by
  unfold State.zApply
  exact State.RegsOnly.foldl (fun s p => (((s.regsOnly_setReg ..).trans (State.regsOnly_setReg ..)).trans (State.regsOnly_setReg ..)).trans (State.regsOnly_zrSet ..)) l s

/-- The owners of Z-regions with a launch's regions taken. -/
def ownRegions (m : NMap Nat) (asid id : Nat) (zs : List Nat) : NMap Nat := zs.foldl (fun m n => mset 0 m (16 * asid + n) id) m

theorem mget_ownRegions (m : NMap Nat) (asid id : Nat) {zs : List Nat} (h : zs.Nodup) {n : Nat} (hn : n ∈ zs) : mget 0 (ownRegions m asid id zs) (16 * asid + n) = id := by
  have e : ownRegions m asid id zs = msets 0 m (zs.map fun n => (16 * asid + n, id)) := by
    unfold ownRegions msets
    rw [List.foldl_map]
  rw [e]
  refine mget_msets 0 (p := (16 * asid + n, id)) ?_ (List.mem_map.2 ⟨n, hn, rfl⟩) m
  rw [List.map_map]
  exact h.map fun _ _ h => Nat.add_left_cancel h

/-- Regions that a record names. -/
def recRegions (r : List DWord) : List Nat := (List.range 16).filter fun n => (recZmask r).testBit n

/-- A head made a launch: what it is bound to, and what it owns. -/
structure Admitted (s t : State) (h : Head) (l : Launch) : Prop where
  launches : t.launches = s.launches ++ [l]
  flights : t.flights = s.flights
  mem : t.mem = s.mem
  heads : t.sched.heads = s.sched.heads
  id : l.id = s.nextId
  recd : l.recd = h.recd
  va : l.va = h.va
  queue : l.queue = h.queue
  asid : l.asid = qAsid (s.reg (qOff h.queue))
  tenant : l.tenant = qTenant (s.reg (qOff h.queue))
  priv : l.priv = recPriv h.recd
  next : l.nextTuple = 0
  phase : l.phase = .running
  zr : l.zr = recRegions h.recd
  dies : Holds l.dies 0 (recNdie h.recd) (s.goodDies h.recd)
  clusters : ∀ i < recNdie h.recd, Holds l.clusters (4 * i) (recNcl h.recd) (s.goodClusters h.recd (mget 0 l.dies i))
  owns : ∀ n ∈ l.zr, mget 0 t.dev.zrOwner (16 * l.asid + n) = l.id

/-- The state of an admission once its Z-regions are written. -/
def State.joinLaunch (s : State) (l : Launch) : State :=
  let s : State := { s with dev := { s.dev with zrOwner := ownRegions s.dev.zrOwner l.asid l.id l.zr, idleSince := s.clock } }
  let s : State := { s with nextId := s.nextId + 1, launches := s.launches ++ [l], sched := { s.sched with order := s.sched.order + 1 } }
  s.setPower false

/-- The launch that a head becomes on dies and clusters. -/
def State.headLaunch (s : State) (h : Head) (ds : List Nat) (cl : NMap Nat) : Launch :=
  { id := s.nextId, recd := h.recd, va := h.va, queue := h.queue, asid := qAsid (s.reg (qOff h.queue)), tenant := qTenant (s.reg (qOff h.queue)), priv := recPriv h.recd,
    dies := msets 0 [] (enum ds), clusters := cl, admitted := s.sched.order, zr := recRegions h.recd }

/-- An admission: dies, then clusters of each, then Z-regions, then the launch. -/
theorem State.admitHead_eq (s : State) (h : Head) {ds : List Nat} {c : Nat} {cl : NMap Nat} {c' : Nat}
    (hd : s.pick (recNdie h.recd) (s.goodDies h.recd) = (ds, { s with freeCtr := c }))
    (hc : State.bindClusters { s with freeCtr := c } h.recd (enum ds) = (cl, { s with freeCtr := c' })) :
    ∃ zs, s.admitHead h = ((State.zApply { s with freeCtr := c' } (qAsid (s.reg (qOff h.queue))) zs).joinLaunch (s.headLaunch h ds cl)) := by
  unfold State.admitHead
  dsimp only
  rw [hd]
  dsimp only
  rw [hc]
  dsimp only
  generalize hzs : (State.zSettings { s with freeCtr := c' } h.recd _).getD [] = zs
  obtain ⟨rs, hz⟩ := State.regsOnly_zApply (qAsid (s.reg (qOff h.queue))) zs { s with freeCtr := c' }
  refine ⟨zs, ?_⟩
  rw [hz]
  rfl

theorem State.admitHead_admits (s : State) (h : Head) (hn : recNdie h.recd ≤ (s.goodDies h.recd).length) : ∃ l, Admitted s (s.admitHead h) h l := by
  obtain ⟨c, hstate, hlen, hnd, hin⟩ := s.pick_facts (recNdie h.recd) (s.goodDies_nodup h.recd) hn
  obtain ⟨ds, hd⟩ : ∃ ds, s.pick (recNdie h.recd) (s.goodDies h.recd) = (ds, { s with freeCtr := c }) := ⟨_, Prod.ext rfl hstate⟩
  rw [hd] at hlen hnd hin
  dsimp only at hlen hnd hin
  have hfit : ∀ p ∈ enum ds, recNcl h.recd ≤ (s.goodClusters h.recd p.2).length := fun p hp =>
    of_decide_eq_true (List.mem_filter.1 (hin p.2 (List.mem_of_getElem? (mem_enum_iff.1 hp)))).2
  obtain ⟨c', hstate', hcl⟩ := State.bindClusters_facts h.recd (enum ds) { s with freeCtr := c } (by rw [map_fst_enum]; exact List.nodup_range) hfit
  obtain ⟨cl, hc⟩ : ∃ cl, State.bindClusters { s with freeCtr := c } h.recd (enum ds) = (cl, { s with freeCtr := c' }) := ⟨_, Prod.ext rfl hstate'⟩
  rw [hc] at hcl
  obtain ⟨zs, he⟩ := s.admitHead_eq h hd hc
  obtain ⟨rs, hz⟩ := State.regsOnly_zApply (qAsid (s.reg (qOff h.queue))) zs { s with freeCtr := c' }
  rw [he, hz]
  have hkeys : (enum ds).map (fun p => (0 + p.1, p.2)) = enum ds := by simp
  refine ⟨s.headLaunch h ds cl, rfl, rfl, rfl, rfl, rfl, rfl, rfl, rfl, rfl, rfl, rfl, rfl, rfl, rfl, ?_, fun i hi => ?_, fun n hz => ?_⟩
  · have := holds_msets (l := s.goodDies h.recd) [] 0 hnd hin
    rwa [hkeys, hlen] at this
  · obtain ⟨x, hget⟩ : ∃ x, ds[i]? = some x := ⟨_, List.getElem?_eq_getElem (by rw [hlen]; exact hi)⟩
    have hdie : mget 0 (s.headLaunch h ds cl).dies i = x := by
      have := mget_msets_enum [] 0 ds hget
      rwa [hkeys, Nat.zero_add] at this
    rw [hdie]
    exact hcl (i, x) (mem_enum_iff.2 hget)
  · exact mget_ownRegions _ _ _ (List.nodup_range.filter _) hz

/-! ### The step -/

/-- The state without the head of a queue. -/
def State.dropHead (s : State) (q : Nat) : State := { s with sched := { s.sched with heads := s.sched.heads.filter fun x => decide (x.queue ≠ q) } }

theorem launchAdmit_none {p : Nat} (h : s.nextHead p = none) : exec (.launchAdmit p) s = .next s := by
  show execLaunchAdmit p s = _
  unfold execLaunchAdmit
  rw [h]

variable {p k : Nat} {h : Head}

theorem launchAdmit_holds (hn : s.nextHead p = some (h, k)) (hz : s.zHeld h.recd (qAsid (s.reg (qOff h.queue))) = true) : exec (.launchAdmit p) s = .next s := by
  show execLaunchAdmit p s = _
  unfold execLaunchAdmit
  rw [hn]
  exact if_pos hz

theorem launchAdmit_rejects (hn : s.nextHead p = some (h, k)) (hz : s.zHeld h.recd (qAsid (s.reg (qOff h.queue))) = false)
    (hb : s.zBad h.recd (qAsid (s.reg (qOff h.queue))) = true) :
    exec (.launchAdmit p) s = .next ((s.dropHead h.queue).queueErr h.queue ((s.qHead h.queue + 2 ^ 32 - 1) % 2 ^ 16) 7) := by
  show execLaunchAdmit p s = _
  unfold execLaunchAdmit
  rw [hn]
  dsimp only
  rw [hz, hb, if_neg Bool.false_ne_true, if_pos rfl]
  rfl

theorem launchAdmit_admits (hn : s.nextHead p = some (h, k)) (hz : s.zHeld h.recd (qAsid (s.reg (qOff h.queue))) = false)
    (hb : s.zBad h.recd (qAsid (s.reg (qOff h.queue))) = false) :
    ∃ u, exec (.launchAdmit p) s = .next (State.admitHead { s.dropHead h.queue with sched := { (s.dropHead h.queue).sched with turn := u } } h) := by
  refine ⟨mset (0, 0) s.sched.turn (8 * p + recPrio h.recd) (h.queue + 1, k), ?_⟩
  show execLaunchAdmit p s = _
  unfold execLaunchAdmit
  rw [hn]
  dsimp only
  rw [hz, hb, if_neg Bool.false_ne_true, if_neg Bool.false_ne_true]
  rfl

theorem State.admissible_dies (ha : s.admissible h = true) : recNdie h.recd ≤ (s.goodDies h.recd).length := by
  unfold State.admissible at ha
  simp only [Bool.and_eq_true, decide_eq_true_iff] at ha
  exact ha.1.2

/-- A head that a processor takes goes from the heads; it is rejected, or it becomes a launch. -/
theorem launchAdmit_outcome (hn : s.nextHead p = some (h, k)) (hz : s.zHeld h.recd (qAsid (s.reg (qOff h.queue))) = false) :
    ∃ t, exec (.launchAdmit p) s = .next t ∧ t.sched.heads = s.sched.heads.filter (fun g => g.queue ≠ h.queue) ∧ t.flights = s.flights ∧ t.mem = s.mem ∧
      if s.zBad h.recd (qAsid (s.reg (qOff h.queue))) then t.launches = s.launches ∧ fld (t.reg (qOff h.queue + 16)) 0 8 = 7
      else ∃ l, Admitted (s.dropHead h.queue) t h l := by
  cases hb : s.zBad h.recd (qAsid (s.reg (qOff h.queue))) with
  | true =>
    obtain ⟨hsched, hmem, hfl, hla⟩ := (s.dropHead h.queue).queueErr_same h.queue ((s.qHead h.queue + 2 ^ 32 - 1) % 2 ^ 16) 7
    obtain ⟨hchk, -⟩ := (s.dropHead h.queue).queueErr_fields h.queue (idx := (s.qHead h.queue + 2 ^ 32 - 1) % 2 ^ 16) (chk := 7) (by omega) (by omega)
    refine ⟨_, launchAdmit_rejects hn hz hb, ?_, ?_, ?_, ?_⟩
    · rw [hsched]; rfl
    · rw [hfl]; rfl
    · rw [hmem]; rfl
    · rw [if_pos rfl]
      exact ⟨by rw [hla]; rfl, hchk⟩
  | false =>
    obtain ⟨u, he⟩ := launchAdmit_admits hn hz hb
    obtain ⟨-, -, ha, -⟩ := State.nextHead_facts hn
    obtain ⟨l, hl⟩ := State.admitHead_admits { s.dropHead h.queue with sched := { (s.dropHead h.queue).sched with turn := u } } h
      (State.admissible_dies ha)
    refine ⟨_, he, hl.heads, hl.flights, hl.mem, ?_⟩
    rw [if_neg Bool.false_ne_true]
    exact ⟨l, ⟨hl.launches, hl.flights, hl.mem, hl.heads, hl.id, hl.recd, hl.va, hl.queue, hl.asid, hl.tenant, hl.priv, hl.next, hl.phase, hl.zr,
      hl.dies, hl.clusters, hl.owns⟩⟩

end Sys2Proof.Machine
end

section
/-! SUPPORT. WORKGROUP_PLACE (R364, R365, R371, R372, R389): the workgroups and flights of a tuple. -/

namespace Sys2Proof.Machine

open Sys2Proof

variable {α : Type} {s u : State} {x : Launch}

theorem length_enum (l : List α) : (enum l).length = l.length := by rw [← List.length_map Prod.snd, map_snd_enum]

theorem of_getElem?_enum {l : List α} {i : Nat} {p : Nat × α} (h : (enum l)[i]? = some p) : p.1 = i ∧ l[i]? = some p.2 := by
  obtain ⟨h1, h2⟩ := List.getElem?_zip_eq_some.1 h
  rw [List.getElem?_range (List.getElem?_eq_some_iff.1 h2).1] at h1
  exact ⟨(Option.some.inj h1).symm, h2⟩

/-! ### Room for a workgroup -/

theorem Room.flightsIn_length (r : List DWord) : ∀ n m {ps : List Nat} {m' : Room}, Room.flightsIn r n m = some (ps, m') → ps.length = n := by
  intro n
  induction n with
  | zero => intro m ps m' h; cases h; rfl
  | succ n ih =>
    intro m ps m' h
    rw [Room.flightsIn] at h
    split at h
    · cases h
    · obtain ⟨⟨qs, m2⟩, hq, he⟩ := Option.map_eq_some_iff.1 h
      cases he
      rw [List.length_cons, ih _ hq]

theorem Room.workgroup_length {r : List DWord} {m : Room} {ps : List Nat} {m' : Room} (h : m.workgroup r = some (ps, m')) : ps.length = recNfl r := by
  unfold Room.workgroup at h
  split at h
  · cases h
  · exact Room.flightsIn_length r _ _ h

/-! ### What is placed -/

/-- A flight at its start (R365, R416). -/
def Fresh (x : Launch) (f : Flight) : Prop :=
  f.launch = x.id ∧ f.pc = recField x.recd 0 0 48 ∧ f.exm = BitVec.allOnes 64 ∧ f.dead = 0 ∧ f.fmode = 1 ∧ f.fstat = 0 ∧ f.symNext = 16 ∧ f.v = [] ∧ f.s = [] ∧
    f.p = [] ∧ f.x = [] ∧ f.tiles = [] ∧ f.stack = [] ∧ f.clause = none ∧ f.place = .pending none false ∧ f.nVregs = recVregs x.recd ∧ f.nTiles = recNtiles x.recd ∧
    f.priv = x.priv ∧ f.fidx < recNfl x.recd

theorem newFlights_fresh {wg core i part id : Nat} (hi : i < recNfl x.recd) {f : Flight} (hf : f ∈ newFlights x wg core i part id) : Fresh x f ∧ f.wg = wg ∧ f.core = core := by
  unfold newFlights at hf
  dsimp only at hf
  split at hf
  · rcases List.mem_pair.1 hf with rfl | rfl
    · exact ⟨⟨rfl, rfl, rfl, rfl, rfl, rfl, rfl, rfl, rfl, rfl, rfl, rfl, rfl, rfl, rfl, rfl, rfl, rfl, hi⟩, rfl, rfl⟩
    · exact ⟨⟨rfl, rfl, rfl, rfl, rfl, rfl, rfl, rfl, rfl, rfl, rfl, rfl, rfl, rfl, rfl, rfl, rfl, rfl, hi⟩, rfl, rfl⟩
  · obtain rfl := List.mem_singleton.1 hf
    exact ⟨⟨rfl, rfl, rfl, rfl, rfl, rfl, rfl, rfl, rfl, rfl, rfl, rfl, rfl, rfl, rfl, rfl, rfl, rfl, hi⟩, rfl, rfl⟩

theorem newFlights_length (x : Launch) (wg core i part id : Nat) : (newFlights x wg core i part id).length = if recShadow x.recd then 2 else 1 := by
  unfold newFlights
  dsimp only
  split <;> rfl

/-- A workgroup of a launch's next tuple at its start. -/
def Placed (x : Launch) (stage core : Nat) (g : Workgroup) : Prop :=
  g.launch = x.id ∧ (g.d, g.c, g.w) = tupleAt x.recd x.nextTuple ∧ g.s = stage ∧ g.core = core ∧ g.mem = [] ∧ g.sems = [] ∧
    g.size = (recLmem x.recd + 2047) / 2048 * 2048 ∧ g.nsem = recNsem x.recd

/-- One workgroup placed: itself, and its fresh flights. -/
theorem State.placeOne_facts {stage core : Nat} (h : s.placeOne x stage core = some u) : ∃ g fs, u.wgs = s.wgs ++ [g] ∧ u.flights = s.flights ++ fs ∧ u.mem = s.mem ∧
    u.launches = s.launches ∧ Placed x stage core g ∧ fs.length = recNfl x.recd * (if recShadow x.recd then 2 else 1) ∧ ∀ f ∈ fs, Fresh x f ∧ f.wg = g.id ∧ f.core = g.core := by
  unfold State.placeOne at h
  cases hr : (s.room core).workgroup x.recd with
  | none => rw [hr] at h; cases h
  | some q =>
    obtain ⟨ps, m⟩ := q
    rw [hr] at h
    cases h
    have hps := Room.workgroup_length hr
    refine ⟨_, _, rfl, rfl, rfl, rfl, ⟨rfl, rfl, rfl, rfl, rfl, rfl, rfl, rfl⟩, ?_, fun f hf => ?_⟩
    · rw [List.length_flatMap, List.map_congr_left (g := fun _ => if recShadow x.recd then 2 else 1) fun p _ => newFlights_length .., List.map_const',
        List.sum_replicate, length_enum, hps]
      rfl
    · obtain ⟨⟨i, p⟩, hip, hf⟩ := List.mem_flatMap.1 hf
      have hi := (List.getElem?_eq_some_iff.1 (mem_enum_iff.1 hip)).1
      exact newFlights_fresh (by omega) hf

/-- A tuple placed: one workgroup for each stage, in order, with its fresh flights. -/
theorem State.placeAll_facts (l : List (Nat × Nat)) : ∀ {s u : State}, s.placeAll x l = some u → ∃ gs fs, u.wgs = s.wgs ++ gs ∧ u.flights = s.flights ++ fs ∧ u.mem = s.mem ∧
    u.launches = s.launches ∧ gs.length = l.length ∧ fs.length = l.length * (recNfl x.recd * (if recShadow x.recd then 2 else 1)) ∧
    (∀ (i : Nat) (g : Workgroup), gs[i]? = some g → ∃ p, l[i]? = some p ∧ Placed x p.1 p.2 g) ∧ ∀ f ∈ fs, Fresh x f ∧ ∃ g ∈ gs, f.wg = g.id ∧ f.core = g.core := by
  induction l with
  | nil =>
    intro s u h
    cases h
    exact ⟨[], [], (List.append_nil _).symm, (List.append_nil _).symm, rfl, rfl, rfl, (Nat.zero_mul _).symm, fun i g hi => (Option.some_ne_none g hi.symm).elim, fun f hf => (List.not_mem_nil hf).elim⟩
  | cons p l ih =>
    intro s u h
    obtain ⟨v, hv, hu⟩ := Option.bind_eq_some_iff.1 h
    obtain ⟨g, fs, hw, hf, hm, hl, hg, hlen, hfresh⟩ := State.placeOne_facts hv
    obtain ⟨gs, fs', hw', hf', hm', hl', hglen, hflen, hgs, hfresh'⟩ := ih hu
    refine ⟨g :: gs, fs ++ fs', by rw [hw', hw, List.append_assoc, List.singleton_append], by rw [hf', hf, List.append_assoc], hm'.trans hm, hl'.trans hl,
      by rw [List.length_cons, List.length_cons, hglen], by rw [List.length_append, hlen, hflen, List.length_cons, Nat.succ_mul, Nat.add_comm], fun i g' hi => ?_, fun f hf => ?_⟩
    · cases i with
      | zero =>
        obtain rfl := Option.some.inj hi
        exact ⟨p, rfl, hg⟩
      | succ i => exact hgs i g' hi
    · rcases List.mem_append.1 hf with hf | hf
      · obtain ⟨h1, h2, h3⟩ := hfresh f hf
        exact ⟨h1, g, List.mem_cons_self .., h2, h3⟩
      · obtain ⟨h1, g', hg', h2⟩ := hfresh' f hf
        exact ⟨h1, g', List.mem_cons_of_mem _ hg', h2⟩

/-! ### The step -/

/-- A launch with tuples to place, whose next tuple may go to the cores named. -/
structure Placeable (s : State) (x : Launch) (cores : List Nat) (u : State) : Prop where
  found : s.launch? x.id = some x
  running : x.phase = .running
  left : x.nextTuple < gridTuples x.recd
  stages : cores.length = recNstg x.recd
  cluster : ∀ k ∈ cores, clusterOf k = x.nextCluster
  up : x.nextCluster / 4 ∉ s.dev.dieRst
  awake : s.parked.testBit (x.nextCluster / 4) = false
  nobody : s.waitingBack x.nextCluster (recPrio x.recd) = false
  placed : s.placeAll x (enum cores) = some u

theorem Launch.isRunning_of_running (h : x.phase = .running) : x.isRunning = true := by
  unfold Launch.isRunning
  rw [h]

namespace Placeable
variable {cores : List Nat}

theorem exec_eq (h : Placeable s x cores u) : exec (.workgroupPlace x.id cores) s =
    if u.shortFor x x.nextCluster then .next s else .next (u.setLaunch { x with nextTuple := x.nextTuple + 1 }) := by
  have hun : x.unplaced = true := by
    unfold Launch.unplaced
    rw [Launch.isRunning_of_running h.running, Bool.true_and]
    exact decide_eq_true h.left
  have hcl : (cores.any fun k => decide (clusterOf k ≠ x.nextCluster)) = false := List.any_eq_false.2 fun k hk => by simp [h.cluster k hk]
  show execWorkgroupPlace x.id cores s = _
  unfold execWorkgroupPlace
  rw [h.found]
  dsimp only
  rw [if_neg (by rw [hun, hcl, h.awake, h.nobody]; simp [h.stages, h.up]), h.placed]

theorem waits (h : Placeable s x cores u) (hs : u.shortFor x x.nextCluster = true) : exec (.workgroupPlace x.id cores) s = .next s := by
  rw [h.exec_eq, if_pos hs]

theorem places (h : Placeable s x cores u) (hs : u.shortFor x x.nextCluster = false) :
    ∃ (t : State) (gs : List Workgroup) (fs : List Flight), exec (.workgroupPlace x.id cores) s = .next t ∧ t.wgs = s.wgs ++ gs ∧ t.flights = s.flights ++ fs ∧ t.mem = s.mem ∧
      (∃ y, t.launch? x.id = some y ∧ y = { x with nextTuple := x.nextTuple + 1 }) ∧ gs.length = cores.length ∧
      fs.length = cores.length * recNfl x.recd * (if recShadow x.recd then 2 else 1) ∧
      (∀ (i : Nat) (g : Workgroup), gs[i]? = some g → ∃ k, cores[i]? = some k ∧ Placed x i k g) ∧ ∀ f ∈ fs, Fresh x f ∧ ∃ g ∈ gs, f.wg = g.id ∧ f.core = g.core := by
  obtain ⟨gs, fs, hw, hf, hm, hl, hglen, hflen, hgs, hfresh⟩ := State.placeAll_facts _ h.placed
  rw [length_enum] at hglen hflen
  refine ⟨u.setLaunch { x with nextTuple := x.nextTuple + 1 }, gs, fs, by rw [h.exec_eq, if_neg (by rw [hs]; exact Bool.false_ne_true)], hw, hf, hm,
    ⟨_, State.launch?_setLaunch ((State.launch?_congr hl x.id).trans h.found) rfl, rfl⟩, hglen, by rw [hflen, Nat.mul_assoc], fun i g hi => ?_, hfresh⟩
  obtain ⟨p, hp, hg⟩ := hgs i g hi
  obtain ⟨rfl, hk⟩ := of_getElem?_enum hp
  exact ⟨p.2, hk, hg⟩

end Placeable

end Sys2Proof.Machine
end

section
/-! SUPPORT. LAUNCH_COMPLETE and WORKGROUP_RELEASE (R119, R166, R167, R387, R406). -/

namespace Sys2Proof.Machine

open Sys2Proof

variable {s : State} {x : Launch}

theorem State.retireZ_none (s : State) (h : x.zr = []) : s.retireZ x = s := by
  unfold State.retireZ
  rw [h]
  rfl

/-! ### A launch that is done -/

theorem launchComplete_running (h : s.launch? x.id = some x) (hp : x.phase = .running) : exec (.launchComplete x.id) s =
    if s.launchDone x then .next (s.setLaunch { x with phase := .edges 0 }) else .next s := by
  show execLaunchComplete x.id s = _
  unfold execLaunchComplete
  rw [h]
  dsimp only
  rw [hp]

theorem launchComplete_edge {i : Nat} {t : State} (h : s.launch? x.id = some x) (hp : x.phase = .edges i) (hi : i < recNedge x.recd) (ht : s.edgeStep x i = some t) :
    exec (.launchComplete x.id) s = .next (t.setLaunch { ((t.launch? x.id).getD x) with phase := .edges (i + 1) }) := by
  show execLaunchComplete x.id s = _
  unfold execLaunchComplete
  rw [h]
  dsimp only
  rw [hp]
  dsimp only
  rw [if_pos hi, ht]

theorem launchComplete_edgesDone {i : Nat} (h : s.launch? x.id = some x) (hp : x.phase = .edges i) (hi : recNedge x.recd ≤ i) (hz : x.zr = []) :
    exec (.launchComplete x.id) s = .next (s.setLaunch { x with phase := .retiring }) := by
  show execLaunchComplete x.id s = _
  unfold execLaunchComplete
  rw [h]
  dsimp only
  rw [hp]
  dsimp only
  rw [if_neg (Nat.not_lt.2 hi), State.retireZ_none _ hz]

theorem launchComplete_ended {why : Nat} {fr : List DWord} (h : s.launch? x.id = some x) (hp : x.phase = .ending why fr) (hd : s.launchDone x = true) (hz : x.zr = []) :
    exec (.launchComplete x.id) s = .next ((s.report 7 8 255 (some x) [why] fr).setLaunch { x with phase := .retiring }) := by
  show execLaunchComplete x.id s = _
  unfold execLaunchComplete
  rw [h]
  dsimp only
  rw [hp]
  dsimp only
  rw [if_pos hd, State.retireZ_none _ hz]

theorem launchComplete_retired (h : s.launch? x.id = some x) (hp : x.phase = .retiring) (hz : ∀ n ∈ x.zr, mget 0 s.dev.zrOwner (16 * x.asid + n) ≠ x.id) :
    exec (.launchComplete x.id) s = .next (s.launchGone x) := by
  show execLaunchComplete x.id s = _
  unfold execLaunchComplete
  rw [h]
  dsimp only
  rw [hp]
  refine if_neg fun e => ?_
  obtain ⟨n, hn, he⟩ := List.any_eq_true.1 e
  exact hz n hn (of_decide_eq_true he)

/-- The state without what stands for a launch. -/
def State.withoutLaunch (s : State) (x : Launch) : State :=
  { s with launches := s.launches.filter fun y => decide (y.id ≠ x.id), flights := s.flights.filter fun f => decide (f.launch ≠ x.id),
           barriers := s.barriers.filter fun b => decide (b.launch ≠ x.id) }

theorem State.launchGone_eq (s : State) (x : Launch) : s.launchGone x =
    (s.setReg (qOff x.queue + 16) (setFld (s.reg (qOff x.queue + 16)) 32 32 (fld (s.reg (qOff x.queue + 16)) 32 32 + 1))).withoutLaunch x := rfl

theorem State.withoutLaunch_setReg (s : State) (x : Launch) (o : Nat) (v : DWord) : ((s.setReg o v).withoutLaunch x).launches = s.launches.filter (fun y => y.id ≠ x.id) ∧
    ((s.setReg o v).withoutLaunch x).flights = s.flights.filter (fun f => f.launch ≠ x.id) ∧ ((s.setReg o v).withoutLaunch x).reg o = v ∧
    ((s.setReg o v).withoutLaunch x).mem = s.mem := ⟨rfl, rfl, State.reg_setReg_same s o v, rfl⟩

/-- A launch that goes counts one more DONE of its queue. -/
theorem State.launchGone_facts (s : State) (x : Launch) : (s.launchGone x).launches = s.launches.filter (fun y => y.id ≠ x.id) ∧
    (s.launchGone x).flights = s.flights.filter (fun f => f.launch ≠ x.id) ∧
    fld ((s.launchGone x).reg (qOff x.queue + 16)) 32 32 = (fld (s.reg (qOff x.queue + 16)) 32 32 + 1) % 2 ^ 32 ∧
    fld ((s.launchGone x).reg (qOff x.queue + 16)) 0 32 = fld (s.reg (qOff x.queue + 16)) 0 32 ∧ (s.launchGone x).mem = s.mem := by
  rw [State.launchGone_eq]
  obtain ⟨hla, hfl, hreg, hmem⟩ := s.withoutLaunch_setReg x (qOff x.queue + 16) (setFld (s.reg (qOff x.queue + 16)) 32 32 (fld (s.reg (qOff x.queue + 16)) 32 32 + 1))
  rw [hreg]
  exact ⟨hla, hfl, fld_setFld_same _ _ _ _ (by omega), fld_setFld_ne _ _ _ _ _ _ (by omega), hmem⟩

/-! ### A workgroup that is done -/

theorem workgroupRelease_eq {w : Nat} {g : Workgroup} (h : s.wg? w = some g) : if s.wgDone g then ∃ t, exec (.workgroupRelease w) s = .next t ∧
      t.wgs = s.wgs.filter (fun x => x.id ≠ w) ∧ t.dev.idleSince = s.clock ∧ t.barriers = s.barriers.filter (fun b => !(decide (b.scope = 1) && decide (b.key = w))) ∧
      t.mem = s.mem ∧ t.flights = s.flights
    else exec (.workgroupRelease w) s = .next s := by
  have he : exec (.workgroupRelease w) s = if s.wgDone g = false then .next s else .next { s with
      wgs := s.wgs.filter fun x => decide (x.id ≠ w)
      barriers := s.barriers.filter fun b => !(decide (b.scope = 1) && decide (b.key = w))
      dev := { s.dev with idleSince := s.clock } } := by
    show execWorkgroupRelease w s = _
    unfold execWorkgroupRelease
    rw [h]
  cases hd : s.wgDone g with
  | true =>
    rw [hd, if_neg (by decide)] at he
    exact ⟨_, he, rfl, rfl, rfl, rfl, rfl⟩
  | false =>
    rw [hd, if_pos rfl] at he
    exact he

end Sys2Proof.Machine
end

section
/-! SUPPORT. LNCH_RECORD_COPY (R361, R384): the status of a launch that a flight asks for, and the entry that a sound one leaves in its queue. -/

namespace Sys2Proof.Machine

open Sys2Proof

variable {s t : State}

/-! ### The entry written -/

/-- What a write of the device's own leaves: flights, registers and the scheduler. -/
structure Posts (s t : State) : Prop where
  flights : t.flights = s.flights
  regs : t.dev.regs = s.dev.regs
  sched : t.sched = s.sched

theorem Posts.refl (s : State) : Posts s s := ⟨rfl, rfl, rfl⟩
theorem Posts.trans {u : State} (h : Posts s t) (k : Posts t u) : Posts s u := ⟨k.flights.trans h.flights, k.regs.trans h.regs, k.sched.trans h.sched⟩

theorem posts_setPoison (s : State) (sec : Nat) (on : Bool) : Posts s (s.setPoison sec on) := by
  unfold State.setPoison
  dsimp only
  split
  · split <;> exact ⟨rfl, rfl, rfl⟩
  · exact ⟨rfl, rfl, rfl⟩

theorem posts_coverSector (s : State) (sec : Nat) (c : Cover) : Posts s (s.coverSector sec c) := by
  unfold State.coverSector
  split
  · cases c with
    | whole => exact posts_setPoison s sec false
    | among => exact .refl s
    | part => exact ⟨rfl, rfl, rfl⟩
  · exact .refl s

theorem posts_coverAll (pa n : Nat) (cov : Nat → Cover) (s : State) : Posts s (s.coverAll pa n cov) := by
  unfold State.coverAll
  generalize sectorsOf pa n = l
  induction l generalizing s with
  | nil => exact .refl s
  | cons p l ih => exact (posts_coverSector s ..).trans (ih _)

theorem posts_homeWriteBy (s : State) (w pa : Nat) {b : List Byte} (hb : b ≠ []) (cov : Nat → Cover) : Posts s (s.homeWriteBy w pa b cov) := by
  rw [State.homeWriteBy_eq _ _ _ hb]
  obtain ⟨hdev, -, -, hsched, hfl, -⟩ := State.homePuts_same w b (s.coverAll pa b.length cov) pa
  exact (posts_coverAll ..).trans ⟨hfl, congrArg Device.regs hdev, hsched⟩

section
variable (s : State) (core : Nat) (l : Option Launch) {pa : Nat} {b : List Byte} (hb : b ≠ []) (h : b.length ≤ 128 - pa % 128)
include hb h

/-- Bytes within one line are one write where the line does not fail. -/
theorem State.postWrite_writes (hf : s.failPort pa = none) : s.postWrite core l pa b = s.homeWrite 0 pa b := by
  unfold State.postWrite
  rw [State.postLines, if_neg hb]
  dsimp only
  rw [List.take_of_length_le h, List.drop_of_length_le h, hf, State.postLines, if_pos rfl]

/-- Bytes within one line are only reported where the line fails. -/
theorem State.postWrite_reports {p : Nat} (hf : s.failPort pa = some p) : s.postWrite core l pa b = s.report 13 (dieOf core) core l [pa, p, 2] [] := by
  unfold State.postWrite
  rw [State.postLines, if_neg hb]
  dsimp only
  rw [List.drop_of_length_le h, hf, State.postLines, if_pos rfl]

end

/-- Some of the bytes that a write leaves at their homes. -/
theorem Puts.homeBytes_piece {pa k n : Nat} {b : List Byte} (h : Puts s t pa b) (hk : k + n ≤ b.length) : t.homeBytes (pa + k) n = ofLe ((b.drop k).take n) := by
  have hlen : ((b.drop k).take n).length = n := by rw [List.length_take, List.length_drop]; omega
  have := State.homeBytes_of_list (s := t) (pa := pa + k) ((b.drop k).take n) fun i hi => by
    rw [hlen] at hi
    rw [Nat.add_assoc, h.1 _ (by omega), List.getD_eq_getElem _ _ (by omega), List.getD_eq_getElem _ _ (by omega), List.getElem_take, List.getElem_drop]
  rwa [hlen] at this

theorem State.remap_congr (h : ∀ o, t.reg o = s.reg o) (a : Nat) : t.remap a = s.remap a := by
  unfold State.remap State.frmapHit
  simp only [h]

theorem State.failPort_congr (h : t.dev = s.dev) (pa : Nat) : t.failPort pa = s.failPort pa := by
  unfold State.failPort
  rw [h]

theorem State.remap_mod (s : State) (a : Nat) : s.remap a % 2 ^ 16 = a % 2 ^ 16 := by
  unfold State.remap
  split <;> omega

/-- A ring entry lies within one line. -/
theorem State.slotPa_mod (s : State) (c : DWord) (i : Nat) : s.slotPa c i % 16 = 0 := by
  have h := s.remap_mod (qSlot c i)
  unfold State.slotPa
  have hq : qSlot c i % 16 = 0 := by unfold qSlot; omega
  omega

/-- The device's own write of a ring entry. -/
theorem State.postWrite_slot (s : State) (core : Nat) (l : Option Launch) (c : DWord) (i : Nat) {v : Nat} (hv : v < 2 ^ 64) :
    Posts s (s.postWrite core l (s.slotPa c i) (leBytes 16 v)) ∧ (s.failPort (s.slotPa c i) = none →
      (s.postWrite core l (s.slotPa c i) (leBytes 16 v)).homeBytes (s.slotPa c i) 8 = v ∧
      (s.postWrite core l (s.slotPa c i) (leBytes 16 v)).homeBytes (s.slotPa c i + 8) 8 = 0) := by
  have hlen := leBytes_length 16 v
  have hb : leBytes 16 v ≠ [] := List.ne_nil_of_length_pos (by rw [hlen]; decide)
  have hmod := s.slotPa_mod c i
  generalize s.slotPa c i = pa at hmod
  have hline : (leBytes 16 v).length ≤ 128 - pa % 128 := by rw [hlen]; omega
  cases hf : s.failPort pa with
  | some p => exact ⟨by rw [State.postWrite_reports s core l hb hline hf]; exact ⟨rfl, rfl, rfl⟩, nofun⟩
  | none =>
    rw [State.postWrite_writes s core l hb hline hf]
    refine ⟨posts_homeWriteBy s 0 pa hb _, fun _ => ?_⟩
    have hp : Puts s (s.homeWrite 0 pa (leBytes 16 v)) pa (leBytes 16 v) := puts_homeWriteBy ..
    have h0 := hp.homeBytes_piece (k := 0) (n := 8) (by omega)
    have h8 := hp.homeBytes_piece (k := 8) (n := 8) (by omega)
    rw [ofLe_leBytes_piece (by omega)] at h0 h8
    exact ⟨h0.trans (by omega), h8.trans (by omega)⟩

/-! ### The step -/

/-- A launch that a flight asks for, past its release and with its record read. -/
structure Asks (s : State) (f : Nat) (x : Flight) (o : Op) (r : List DWord) : Prop where
  flight : s.flight? f = some x
  op : x.op? o.id = some o
  kind : o.kind = .lnch
  released : s.releaseOk x o.seq 4 (s.beforeOf x o.seq) = true
  settled : s.galleryHeld (s.launchOf x).asid o.accBase 512 = false
  recd : s.galleryWords (s.launchOf x).asid x.priv o.accBase 64 = some r

/-- The status that a launch returns to its register. -/
def Op.status (o : Op) (v : Nat) : List RegWrite := o.dests.filterMap fun d => match d with | .s n => some ⟨.s n, n, v⟩ | _ => none

/-- The copy of a record kept for a place of a queue's ring (R384). -/
def State.keepCopy (s : State) (q i : Nat) (r : List DWord) (va : Nat) : State :=
  { s with sched := { s.sched with copies := s.sched.copies ++ [((q, i), (r, va))] } }

theorem State.keepCopy_same (s : State) (q i : Nat) (r : List DWord) (va : Nat) : (s.keepCopy q i r va).flights = s.flights ∧ (s.keepCopy q i r va).dev = s.dev ∧
    (s.keepCopy q i r va).sched.copies = s.sched.copies ++ [((q, i), (r, va))] := ⟨rfl, rfl, rfl⟩

/-- A ring's TAIL one further. -/
def State.nextTail (s : State) (q i : Nat) : State := s.setReg (qOff q + 8) (setFld (s.reg (qOff q + 8)) 32 32 (i + 1))

/-- The state with an entry copied to a queue's ring. -/
def State.enqueue (s : State) (x : Flight) (o : Op) (r : List DWord) : State :=
  ((s.keepCopy (recQueue r) (s.qTail (recQueue r)) r o.accBase).postWrite x.core (some (s.launchOf x)) (s.slotPa (s.reg (qOff (recQueue r))) (s.qTail (recQueue r)))
    (leBytes 16 (o.accBase % 2 ^ 48))).nextTail (recQueue r) (s.qTail (recQueue r))

theorem State.nextTail_facts (s : State) (q i : Nat) : (s.nextTail q i).flights = s.flights ∧ (s.nextTail q i).sched = s.sched ∧ (s.nextTail q i).mem = s.mem ∧
    (s.nextTail q i).qTail q = (i + 1) % 2 ^ 32 ∧ (s.nextTail q i).qHead q = s.qHead q := by
  unfold State.nextTail
  obtain ⟨-, -, -, -, -, -, hfl, -, -, -, -, hmem, -, hsched⟩ := s.setReg_same (qOff q + 8) (setFld (s.reg (qOff q + 8)) 32 32 (i + 1))
  refine ⟨hfl, hsched, hmem, ?_, ?_⟩
  · unfold State.qTail
    rw [State.reg_setReg_same, fld_setFld_same _ _ _ _ (by omega)]
  · unfold State.qHead
    rw [State.reg_setReg_same, fld_setFld_ne _ _ _ _ _ _ (by omega)]

theorem State.homeBytes_congr (h : t.mem = s.mem) (pa n : Nat) : t.homeBytes pa n = s.homeBytes pa n := by
  unfold State.homeBytes
  exact congrArg ofLe (List.map_congr_left fun i _ => State.homeByte_congr (congrArg _ h) (congrArg _ h) _)

/-- An entry copied: TAIL advances, HEAD stays, and the ring's entry holds the record's address where its line does not fail. -/
theorem State.enqueue_facts (s : State) (x : Flight) (o : Op) {r : List DWord} {q : Nat} (hq : recQueue r = q) {pa : Nat} (hpa : s.slotPa (s.reg (qOff q)) (s.qTail q) = pa) :
    (s.enqueue x o r).flights = s.flights ∧ (s.enqueue x o r).sched.copies = s.sched.copies ++ [((q, s.qTail q), (r, o.accBase))] ∧
    (s.enqueue x o r).qTail q = (s.qTail q + 1) % 2 ^ 32 ∧ (s.enqueue x o r).qHead q = s.qHead q ∧
    (s.failPort pa = none → (s.enqueue x o r).homeBytes pa 8 = o.accBase % 2 ^ 48 ∧ (s.enqueue x o r).homeBytes (pa + 8) 8 = 0) := by
  have hv : o.accBase % 2 ^ 48 < 2 ^ 64 := by omega
  unfold State.enqueue
  rw [hq]
  generalize s.qTail q = i at hpa ⊢
  generalize o.accBase % 2 ^ 48 = v at hv ⊢
  obtain ⟨hfl, hdev, hcopies⟩ := s.keepCopy_same q i r o.accBase
  have hregs : ∀ a, (s.keepCopy q i r o.accBase).reg a = s.reg a := State.reg_congr (congrArg Device.regs hdev)
  have hslot : (s.keepCopy q i r o.accBase).slotPa (s.reg (qOff q)) i = pa := (State.remap_congr hregs _).trans hpa
  have hfail : (s.keepCopy q i r o.accBase).failPort pa = s.failPort pa := State.failPort_congr hdev pa
  obtain ⟨hpost, hbytes⟩ := (s.keepCopy q i r o.accBase).postWrite_slot x.core (some (s.launchOf x)) (s.reg (qOff q)) i hv
  rw [hslot, hfail] at hbytes
  rw [hslot] at hpost
  rw [hpa]
  generalize (s.keepCopy q i r o.accBase).postWrite _ _ _ _ = u at hpost hbytes ⊢
  obtain ⟨hfl', hsched, hmem, htail, hhead⟩ := u.nextTail_facts q i
  refine ⟨hfl'.trans (hpost.flights.trans hfl), by rw [hsched, hpost.sched, hcopies], htail, hhead.trans ?_, fun hf => ?_⟩
  · unfold State.qHead
    rw [State.reg_congr hpost.regs, hregs]
  · rw [State.homeBytes_congr hmem, State.homeBytes_congr hmem]
    exact hbytes hf

/-- The queue of a record is the asking launch's own. -/
def State.ownsQueue (s : State) (x : Flight) (r : List DWord) : Prop :=
  let c := s.reg (qOff (recQueue r))
  c.getLsbD 2 = true ∧ c.getLsbD 0 = true ∧ qAsid c = (s.launchOf x).asid ∧ qTenant c = (s.launchOf x).tenant

/-- The queue of a record has room. -/
def State.queueRoom (s : State) (r : List DWord) : Prop :=
  (s.qTail (recQueue r) + 2 ^ 32 - s.qHead (recQueue r)) % 2 ^ 32 < 2 ^ fld (s.reg (qOff (recQueue r))) 4 4

/-- What the copy reads or writes must be waited for. -/
def State.entryHeld (s : State) (r : List DWord) : Prop :=
  s.slotHeld (s.reg (qOff (recQueue r))) (s.qTail (recQueue r)) = true ∨ s.zHeld r (qAsid (s.reg (qOff (recQueue r)))) = true

namespace Asks
variable {f : Nat} {x : Flight} {o : Op} {r : List DWord}

theorem exec_eq (h : Asks s f x o r) : let q := recQueue r; let c := s.reg (qOff q); exec (.lnchRecordCopy f o.id) s =
    if c.getLsbD 2 = false ∨ c.getLsbD 0 = false ∨ qAsid c ≠ (s.launchOf x).asid ∨ qTenant c ≠ (s.launchOf x).tenant then .next (s.landOp f o (o.status 3) [])
    else if 2 ^ fld c 4 4 ≤ (s.qTail q + 2 ^ 32 - s.qHead q) % 2 ^ 32 then .next (s.landOp f o (o.status 1) [])
    else if s.slotHeld c (s.qTail q) ∨ s.zHeld r (qAsid c) then .next s
    else if s.recordFault r (qAsid c) (c.getLsbD 1) ≠ 0 then .next (s.landOp f o (o.status 2) [])
    else .next ((s.enqueue x o r).landOp f o (o.status 0) []) := by
  show execLnchRecordCopy f o.id s = _
  unfold execLnchRecordCopy
  rw [h.flight, Option.bind_some, h.op, Option.map_some]
  dsimp only
  rw [if_neg (by rw [h.released, h.settled]; simp [h.kind]), h.recd]
  rfl

theorem foreign (h : Asks s f x o r) (hown : ¬ s.ownsQueue x r) : exec (.lnchRecordCopy f o.id) s = .next (s.landOp f o (o.status 3) []) := by
  refine h.exec_eq.trans (if_pos ?_)
  unfold State.ownsQueue at hown
  by_contra hc
  obtain ⟨h1, h2, h3, h4⟩ := by simpa only [not_or, Bool.not_eq_false, not_not] using hc
  exact hown ⟨h1, h2, h3, h4⟩

theorem passes_own (hown : s.ownsQueue x r) : let c := s.reg (qOff (recQueue r))
    ¬ (c.getLsbD 2 = false ∨ c.getLsbD 0 = false ∨ qAsid c ≠ (s.launchOf x).asid ∨ qTenant c ≠ (s.launchOf x).tenant) := by
  obtain ⟨h1, h2, h3, h4⟩ := hown
  dsimp only at h1 h2 h3 h4 ⊢
  rw [h1, h2, h3, h4]
  simp

theorem full (h : Asks s f x o r) (hown : s.ownsQueue x r) (hroom : ¬ s.queueRoom r) : exec (.lnchRecordCopy f o.id) s = .next (s.landOp f o (o.status 1) []) :=
  h.exec_eq.trans ((if_neg (passes_own hown)).trans (if_pos (Nat.not_lt.1 hroom)))

variable (h : Asks s f x o r) (hown : s.ownsQueue x r) (hroom : s.queueRoom r)
include h hown hroom

theorem pastRoom : let q := recQueue r; let c := s.reg (qOff q); exec (.lnchRecordCopy f o.id) s =
    if s.slotHeld c (s.qTail q) ∨ s.zHeld r (qAsid c) then .next s
    else if s.recordFault r (qAsid c) (c.getLsbD 1) ≠ 0 then .next (s.landOp f o (o.status 2) [])
    else .next ((s.enqueue x o r).landOp f o (o.status 0) []) :=
  h.exec_eq.trans ((if_neg (passes_own hown)).trans (if_neg (Nat.not_le.2 hroom)))

theorem waits (hheld : s.entryHeld r) : exec (.lnchRecordCopy f o.id) s = .next s := (h.pastRoom hown hroom).trans (if_pos hheld)

theorem faults (hheld : ¬ s.entryHeld r) (hf : s.recordFault r (qAsid (s.reg (qOff (recQueue r)))) ((s.reg (qOff (recQueue r))).getLsbD 1) ≠ 0) :
    exec (.lnchRecordCopy f o.id) s = .next (s.landOp f o (o.status 2) []) :=
  (h.pastRoom hown hroom).trans ((if_neg hheld).trans (if_pos hf))

theorem enqueues (hheld : ¬ s.entryHeld r) (hf : s.recordFault r (qAsid (s.reg (qOff (recQueue r)))) ((s.reg (qOff (recQueue r))).getLsbD 1) = 0) :
    exec (.lnchRecordCopy f o.id) s = .next ((s.enqueue x o r).landOp f o (o.status 0) []) :=
  (h.pastRoom hown hroom).trans ((if_neg hheld).trans (if_neg (not_not.2 hf)))

end Asks

end Sys2Proof.Machine
end

section
open Sys2Proof Sys2Proof.Machine

/-- Settles O57: one lemma for each step of a launch, from QUEUE_TAKE to LAUNCH_COMPLETE, and the checks of LNCH_RECORD_COPY in their order. -/
theorem launchesAreTakenAdmittedPlacedAndCompleted : Obligations.LaunchesAreTakenAdmittedPlacedAndCompleted := by
  unfold Obligations.LaunchesAreTakenAdmittedPlacedAndCompleted
  intro s
  refine ⟨fun q hq => ⟨queueTake_outcome hq, queueTake_waits⟩, fun p => launchAdmit_none, fun p h k hn => ?admission, fun l x hx cores => ?launch,
    fun w g => workgroupRelease_eq, fun f op x o r hx ho hk hrel hheld hr => ?copy⟩
  case admission =>
    obtain ⟨hmem, hp, ha, htop⟩ := State.nextHead_facts hn
    have hq : 0x20010 + 64 * h.queue = qOff h.queue + 16 := by unfold qOff; omega
    refine ⟨hmem, hp, ha, htop, launchAdmit_holds hn, fun hz => ?_⟩
    obtain ⟨t, he, hheads, hfl, hm, hout⟩ := launchAdmit_outcome hn hz
    rw [hq]
    refine ⟨t, he, hheads, hfl, hm, ?_⟩
    change if s.zBad h.recd (qAsid (s.reg (qOff h.queue))) = true then _ else _
    cases hb : s.zBad h.recd (qAsid (s.reg (qOff h.queue))) with
    | true => rwa [hb] at hout
    | false =>
      rw [hb, if_neg Bool.false_ne_true] at hout
      rw [if_neg Bool.false_ne_true]
      obtain ⟨l, hl⟩ := hout
      refine ⟨l, hl.launches, hl.id, hl.recd, hl.va, hl.queue, hl.asid, hl.tenant, hl.priv, hl.next, hl.phase, hl.zr, fun i hi => ?_, hl.clusters, hl.owns⟩
      have := hl.dies i hi
      simp only [Nat.zero_add] at this
      exact this
  case launch =>
    obtain rfl := State.launch?_id hx
    refine ⟨fun hp hleft hst hcl hup hawake hnobody u hu => ?_, fun hp hd => ?_, fun hp hd => ?_, fun i t => launchComplete_edge hx, fun i => launchComplete_edgesDone hx,
      fun why fr hp hd hz => ?_, fun hp hz hq => ?_⟩
    · have hr : Placeable s x cores u := ⟨hx, hp, hleft, hst, hcl, hup, hawake, hnobody, hu⟩
      refine ⟨hr.waits, fun hshort => ?_⟩
      obtain ⟨t, gs, fs, he, hw, hf, hm, hl, hglen, hflen, hgs, hfs⟩ := hr.places hshort
      refine ⟨t, gs, fs, he, hw, hf, hm, hl, hglen, hflen, fun i g hi => ?_, fun f hf => ?_⟩
      · obtain ⟨k, hk, h1, h2, h3, rfl, h5⟩ := hgs i g hi
        exact ⟨h1, h2, h3, hk.symm, h5⟩
      · obtain ⟨⟨h1, h2, h3, h4, h5, h6, h7, h8, h9, h10, h11, h12, h13, h14, h15, h16, h17, h18, h19⟩, hg⟩ := hfs f hf
        exact ⟨h1, h2, h3, h4, h5, h6, h7, h8, h9, h10, h11, h12, h13, h14, h15, h16, h17, h18, h19, hg⟩
    · rw [launchComplete_running hx hp, if_pos hd]
    · rw [launchComplete_running hx hp, hd, if_neg Bool.false_ne_true]
    · exact ⟨_, _, launchComplete_ended hx hp hd hz, rfl, rfl, rfl, rfl⟩
    · have ho : 0x20010 + 64 * x.queue = qOff x.queue + 16 := by unfold qOff; omega
      obtain ⟨hla, hfl, hdone, hrest, hm⟩ := s.launchGone_facts x
      rw [ho]
      exact ⟨_, launchComplete_retired hx hp hz, hla, hfl, hdone, hrest, hm⟩
  case copy =>
    obtain rfl : o.id = op := findBy_key Op.id x.ops op o ho
    have ha : Asks s f x o r := ⟨hx, ho, hk, hrel, hheld, hr⟩
    refine ⟨ha.foreign, ha.full, ha.waits, ha.faults, fun hown hroom hh hf => ?_⟩
    obtain ⟨hfl, hcopies, htail, hhead, hbytes⟩ := s.enqueue_facts x o (r := r) rfl rfl
    exact ⟨_, ha.enqueues hown hroom hh hf, hfl, hcopies, htail, hhead, hbytes⟩

end
